-- ==== Sys2Proof/Word.lean ====
section
/-! DEFINITION. Words, bytes, poisoned words, and finite maps held as plain sorted lists. -/

namespace Sys2Proof

/-- A 32-bit word (R19, R47). -/
abbrev Word := BitVec 32

/-- A byte of memory. -/
abbrev Byte := BitVec 8

/-- A 64-bit double word (R80, R148). -/
abbrev DWord := BitVec 64

/-- A 32-bit value with its poison bit (R19, R25). While `psn` is set, `val` is the origin record (R110). -/
structure PWord where
  val : Word := 0
  psn : Bool := false
deriving DecidableEq, Repr, Inhabited

/-- A clean value. -/
def PWord.clean (w : Word) : PWord := ⟨w, false⟩

/-- A finite map from indices to values: a list of pairs with strictly rising keys. An index that is not listed
holds the default that its reader names. -/
abbrev Map (α : Type) := List (Nat × α)

/-- The value listed at `k`, if any. -/
def Map.find {α : Type} : Map α → Nat → Option α
  | [], _ => none
  | (k', v) :: m, k => if k' = k then some v else Map.find m k

/-- The value at `k`, or the default `d` where `k` is not listed. -/
def Map.get {α : Type} (m : Map α) (d : α) (k : Nat) : α := (Map.find m k).getD d

/-- Lists the value `v` at `k`, keeping the keys in rising order. -/
def Map.set {α : Type} : Map α → Nat → α → Map α
  | [], k, v => [(k, v)]
  | (k', v') :: m, k, v =>
    if k < k' then (k, v) :: (k', v') :: m
    else if k = k' then (k, v) :: m
    else (k', v') :: Map.set m k v

/-- Takes `k` off the list. -/
def Map.erase {α : Type} : Map α → Nat → Map α
  | [], _ => []
  | (k', v') :: m, k => if k = k' then Map.erase m k else (k', v') :: Map.erase m k

/-- Changes the value at `k` by `f`, starting from the default `d`. -/
def Map.modify {α : Type} (m : Map α) (d : α) (k : Nat) (f : α → α) : Map α := Map.set m k (f (Map.get m d k))

/-- The listed values. -/
def Map.values {α : Type} (m : Map α) : List α := m.map Prod.snd

/-- The keys rise strictly. -/
def Map.sorted {α : Type} : Map α → Bool
  | [] => true
  | [_] => true
  | (k, _) :: (k', v') :: m => decide (k < k') && Map.sorted ((k', v') :: m)

/-- The first number from `i` on, of `n` numbers, that meets a test. -/
def findFrom (p : Nat → Bool) : Nat → Nat → Option Nat
  | 0, _ => none
  | n + 1, i => if p i then some i else findFrom p n (i + 1)

/-- The word whose bits from `lo` on, `n` of them, are taken out of `x`. -/
def bits {w : Nat} (x : BitVec w) (lo n : Nat) : BitVec n := BitVec.extractLsb' lo n x

/-- The number in the `n` bits of `x` from bit `lo` on (R6). -/
def bitsNat {w : Nat} (x : BitVec w) (lo n : Nat) : Nat := (x.toNat >>> lo) % 2 ^ n

/-- `x` with the `n` bits from `lo` on replaced by those of `v` (R6). -/
def setBits {w : Nat} (x : BitVec w) (lo n : Nat) (v : Nat) : BitVec w :=
  let mask : BitVec w := (BitVec.ofNat w (2 ^ n - 1)) <<< lo
  (x &&& ~~~mask) ||| ((BitVec.ofNat w (v % 2 ^ n)) <<< lo)

/-- The bit `i` of `x`. -/
def bitAt {w : Nat} (x : BitVec w) (i : Nat) : Bool := x.getLsbD i

/-- 1 for true, 0 for false. -/
def boolWord (b : Bool) : Word := if b then 1 else 0

end Sys2Proof
end

