-- ==== Sys2Proof/Syntax.lean ====
section
/-! DEFINITION. The instructions: one constructor per row of the opcode table. A node instruction carries the fields of
its 64-bit word (R80); a step of the module that no node issues (an event of the table) carries what names it. -/

namespace Sys2Proof

/-- The fields of an instruction word but for OPC, which the constructor stands for (R80). -/
structure Fields where
  pmask : BitVec 8 := 0
  pval : BitVec 8 := 0
  cha : BitVec 3 := 7
  ka : BitVec 3 := 7
  chb : BitVec 3 := 7
  kb : BitVec 3 := 7
  dst : BitVec 5 := 0
  sa : BitVec 5 := 0
  sb : BitVec 5 := 0
  dqa : Bool := false
  dqb : Bool := false
  psel : BitVec 3 := 0
  pop : BitVec 2 := 0
  imm : BitVec 6 := 0
deriving DecidableEq, Repr, Inhabited

/-- A tile of a compute die (R3, R4). -/
structure TileRef where
  die : BitVec 4 := 0
  tile : BitVec 11 := 0
deriving DecidableEq, Repr, Inhabited

/-- An element of a compute tile (R5). -/
structure ElemRef where
  die : BitVec 4 := 0
  tile : BitVec 11 := 0
  elem : BitVec 4 := 0
deriving DecidableEq, Repr, Inhabited

/-- A node of an element (R5). -/
structure NodeRef where
  die : BitVec 4 := 0
  tile : BitVec 11 := 0
  elem : BitVec 4 := 0
  node : BitVec 4 := 0
deriving DecidableEq, Repr, Inhabited

/-- The element that holds a node. -/
def NodeRef.elemRef (n : NodeRef) : ElemRef := ⟨n.die, n.tile, n.elem⟩
/-- Node `i` of an element. -/
def ElemRef.nodeRef (e : ElemRef) (i : BitVec 4) : NodeRef := ⟨e.die, e.tile, e.elem, i⟩
/-- The tile that holds an element. -/
def ElemRef.tileRef (e : ElemRef) : TileRef := ⟨e.die, e.tile⟩
/-- The index of a tile among the tiles of the module. -/
def TileRef.key (t : TileRef) : Nat := t.die.toNat * 2048 + t.tile.toNat
/-- The index of an element among the elements of the module. -/
def ElemRef.key (e : ElemRef) : Nat := (e.die.toNat * 2048 + e.tile.toNat) * 16 + e.elem.toNat
/-- The index of a node among the nodes of the module. -/
def NodeRef.key (n : NodeRef) : Nat := ((n.die.toNat * 2048 + n.tile.toNat) * 16 + n.elem.toNat) * 16 + n.node.toNat

/-- One end of an edge (R166): an output or input channel of a node, or a memory-tile port. -/
inductive Port where
  | out (n : NodeRef) (k : BitVec 2)
  | inp (n : NodeRef) (k : BitVec 2)
  | tile (t : TileRef) (p : BitVec 4)
deriving DecidableEq, Repr, Inhabited

/-- A token (R163). -/
structure Token where
  kind : BitVec 3 := 0
  fmt : BitVec 3 := 0
  payload : Word := 0
deriving DecidableEq, Repr, Inhabited

/-- Where a lane is relayed: a section in RELAY, or a relay stream of a memory tile (R225, R347). -/
inductive RelayPlace where
  | element (e : ElemRef)
  | stream (t : TileRef) (p : BitVec 4)
deriving DecidableEq, Repr, Inhabited

/-- An access of a host agent to device memory (R328). -/
inductive HostAccess where
  | read (pa : BitVec 52)
  | write (fn : BitVec 12) (pa : BitVec 52) (v : Word)
  | bar0 (fn : BitVec 12) (off : BitVec 14)
deriving DecidableEq, Repr, Inhabited

/-- A port or an engine that holds an access (R387). -/
inductive HeldUnit where
  | port (t : TileRef) (p : BitVec 4)
  | engine (die : BitVec 4) (kind : BitVec 2) (eng : BitVec 3)
deriving DecidableEq, Repr, Inhabited

/-- Where an uncorrectable error strikes (R392). -/
inductive ErrorPlace where
  | greg (n : NodeRef) (i : BitVec 4)
  | chan (n : NodeRef) (k : BitVec 2) (i : Nat)
  | mailbox (e : ElemRef) (i : BitVec 2)
  | lane (e : ElemRef) (v : BitVec 5) (i : BitVec 4)
  | acc (e : ElemRef) (k : BitVec 2) (i : BitVec 4)
  | pool (n : NodeRef) (slot : BitVec 4)
  | word (pa : BitVec 52)
  | cleanLine (pa : BitVec 52) (second : Bool)
  | dirtyLine (pa : BitVec 52)
deriving DecidableEq, Repr, Inhabited

/-- What the host answers to a Translation Request (R425): the access served, the PASID generation it is tagged with,
and the answer, where `none` denies the access. -/
structure AtsAnswer where
  id : Nat := 0
  gen : Nat := 0
  addr : Option (BitVec 52) := none
deriving DecidableEq, Repr, Inhabited

/-- The answer to a Page Request Group (R425). -/
inductive PriResponse where
  | success
  | invalidRequest
  | responseFailure
deriving DecidableEq, Repr, Inhabited

/-- A request of a peer module (R434, R437, R440, R442). -/
inductive PodOp where
  /-- of 4 or 64 bytes -/
  | write (ws : List PWord)
  /-- of 4 bytes, or of 64 -/
  | read (line : Bool)
  | add (n : Word)
  /-- the recovery query of an addition, and the acknowledgement of its answer (R317, R442) -/
  | query
  | ack
deriving DecidableEq, Repr, Inhabited

/-- A memory request that arrives from a peer module; NODE and SEQ name the access of the source's retry latch (R317). -/
structure PodMessage where
  srcMod : BitVec 10 := 0
  srcTenant : BitVec 16 := 0
  port : BitVec 4 := 0
  va : BitVec 56 := 0
  op : PodOp := .read false
  tag : Nat := 0
  node : NodeRef := {}
  seq : BitVec 8 := 0
deriving DecidableEq, Repr, Inhabited

/-- A decrement that arrives from a peer module (R444). -/
structure PodDecrement where
  srcMod : BitVec 10 := 0
  srcTenant : BitVec 16 := 0
  port : BitVec 4 := 0
  ref : Word := 0
  exp : Bool := false
  rb : Option Nat := none
deriving DecidableEq, Repr, Inhabited

/-- A write to a register that has no behaviour of its own (R10, R261, R292, R428): the management ring of a PF, a
virtual function's view of it, the dispatcher configuration, the allocation masks, the module number and the ATS enable of a function. -/
inductive RegWrite where
  | mgmt (pf : Bool) (off : BitVec 14) (v : Word)
  | vf (fn : BitVec 12) (off : BitVec 14) (v : Word)
  | dcfg (die : BitVec 4) (v : Word)
  | waymask (part : BitVec 5) (v : BitVec 16)
  | podid (v : Word)
  | ats (fn : BitVec 12) (on : Bool)
  | numVfs (south : Bool) (n : BitVec 11)
deriving DecidableEq, Repr, Inhabited

/-- The dies that stay in ROM (R462): `rom` from step 1 on, `image` since their firmware image fails step 2. -/
structure BootStop where
  rom : BitVec 18 := 0
  image : BitVec 18 := 0
deriving DecidableEq, Repr, Inhabited

/-- The instructions and steps of the module, in the order of the opcode table. -/
inductive Instr where
  /-- NOP (R112): Does nothing; condition 1. -/
  | nop (f : Fields)
  /-- MOV (R112): Copies operand a to DST. -/
  | mov (f : Fields)
  /-- LI (R112): Writes the sign-extended 16-bit immediate to DST. -/
  | li (f : Fields)
  /-- LUI (R112): Writes the immediate into the upper half of DST and keeps its lower half. -/
  | lui (f : Fields)
  /-- ADD (R112): Integer addition modulo 2^32. -/
  | add (f : Fields)
  /-- SUB (R112): Integer subtraction modulo 2^32. -/
  | sub (f : Fields)
  /-- ADDS (R112): Signed saturating addition. -/
  | adds (f : Fields)
  /-- SUBS (R112): Signed saturating subtraction. -/
  | subs (f : Fields)
  /-- MUL (R112): Low 32 bits of the product. -/
  | mul (f : Fields)
  /-- MULH_I32 (R112): High 32 bits of the signed product. -/
  | mulhI32 (f : Fields)
  /-- MULH_N32 (R112): High 32 bits of the unsigned product. -/
  | mulhN32 (f : Fields)
  /-- MAC (R112): Adds the low product into DST. -/
  | mac (f : Fields)
  /-- DIV_I32 (R113): Signed truncating division; parks the node for E = 17. -/
  | divI32 (f : Fields)
  /-- DIV_N32 (R113): Unsigned truncating division; parks the node. -/
  | divN32 (f : Fields)
  /-- MOD_I32 (R113): Signed remainder with the sign of the dividend; parks the node. -/
  | modI32 (f : Fields)
  /-- MOD_N32 (R113): Unsigned remainder; parks the node. -/
  | modN32 (f : Fields)
  /-- AND (R114): Bitwise AND. -/
  | and (f : Fields)
  /-- OR (R114): Bitwise OR. -/
  | or (f : Fields)
  /-- XOR (R114): Bitwise XOR. -/
  | xor (f : Fields)
  /-- ANDN (R114): a AND NOT b. -/
  | andn (f : Fields)
  /-- SHL (R114): Logical shift left by b[5:0]. -/
  | shl (f : Fields)
  /-- SHR (R114): Logical shift right by b[5:0]. -/
  | shr (f : Fields)
  /-- SAR (R114): Arithmetic shift right by b[5:0]. -/
  | sar (f : Fields)
  /-- ROL (R114): Rotate left by b[4:0]. -/
  | rol (f : Fields)
  /-- CLZ (R115): Counts leading zero bits. -/
  | clz (f : Fields)
  /-- POPC (R115): Counts one bits. -/
  | popc (f : Fields)
  /-- BREV (R115): Reverses the bit order. -/
  | brev (f : Fields)
  /-- SEXT (R115): Sign-extends from bit b[4:0]. -/
  | sext (f : Fields)
  /-- ZEXT (R115): Zero-extends from bit b[4:0]. -/
  | zext (f : Fields)
  /-- BFX (R115): Extracts a bit field. -/
  | bfx (f : Fields)
  /-- BFI (R115): Inserts a bit field into DST. -/
  | bfi (f : Fields)
  /-- SEL (R115): Selects a or b by predicate pN. -/
  | sel (f : Fields)
  /-- CMP_EQ (R116): Writes 1 if a equals b. -/
  | cmpEq (f : Fields)
  /-- CMP_NE (R116): Writes 1 if a differs from b. -/
  | cmpNe (f : Fields)
  /-- CMP_LT_I32 (R116): Signed less-than compare. -/
  | cmpLtI32 (f : Fields)
  /-- CMP_LE_I32 (R116): Signed less-or-equal compare. -/
  | cmpLeI32 (f : Fields)
  /-- CMP_LT_N32 (R116): Unsigned less-than compare. -/
  | cmpLtN32 (f : Fields)
  /-- CMP_LE_N32 (R116): Unsigned less-or-equal compare. -/
  | cmpLeN32 (f : Fields)
  /-- MIN_I32 (R116): Signed minimum. -/
  | minI32 (f : Fields)
  /-- MAX_I32 (R116): Signed maximum. -/
  | maxI32 (f : Fields)
  /-- MIN_N32 (R116): Unsigned minimum. -/
  | minN32 (f : Fields)
  /-- MAX_N32 (R116): Unsigned maximum. -/
  | maxN32 (f : Fields)
  /-- ABS (R116): Integer absolute value. -/
  | abs (f : Fields)
  /-- NEG (R116): Integer negation. -/
  | neg (f : Fields)
  /-- PSET (R116): Takes bit b of a as the condition, writing nothing. -/
  | pset (f : Fields)
  /-- PGET (R116): Writes the predicates P to DST. -/
  | pget (f : Fields)
  /-- TST (R116): Writes a AND b, with condition set when all bits of b are set in a. -/
  | tst (f : Fields)
  /-- LEA (R116): Writes a + (b << s). -/
  | lea (f : Fields)
  /-- FADD (R117): FP32 addition in the selected rounding mode. -/
  | fadd (f : Fields)
  /-- FSUB (R117): FP32 subtraction. -/
  | fsub (f : Fields)
  /-- FMUL (R117): FP32 multiplication. -/
  | fmul (f : Fields)
  /-- FMA (R117): FP32 fused multiply-add into DST with one rounding. -/
  | fma (f : Fields)
  /-- FMIN (R117): FP32 minimum. -/
  | fmin (f : Fields)
  /-- FMAX (R117): FP32 maximum. -/
  | fmax (f : Fields)
  /-- FCMP_EQ (R117): FP32 equality compare. -/
  | fcmpEq (f : Fields)
  /-- FCMP_LT (R117): FP32 less-than compare. -/
  | fcmpLt (f : Fields)
  /-- FCMP_LE (R117): FP32 less-or-equal compare. -/
  | fcmpLe (f : Fields)
  /-- FCMP_UN (R117): Writes 1 if either operand is NaN. -/
  | fcmpUn (f : Fields)
  /-- FABS (R117): Clears the sign bit. -/
  | fabs (f : Fields)
  /-- FNEG (R117): Inverts the sign bit. -/
  | fneg (f : Fields)
  /-- FRCP (R118): Approximate reciprocal; parks the node for E = 13. -/
  | frcp (f : Fields)
  /-- FRSQ (R118): Approximate reciprocal square root; parks the node. -/
  | frsq (f : Fields)
  /-- FEXP2 (R118): Approximate 2^a; parks the node. -/
  | fexp2 (f : Fields)
  /-- FLOG2 (R118): Approximate log2(a); parks the node. -/
  | flog2 (f : Fields)
  /-- CVT_F (R119): Converts between FP32, BF16x2 and FP16x2. -/
  | cvtF (f : Fields)
  /-- CVT_IF (R120): Converts an integer to FP32. -/
  | cvtIf (f : Fields)
  /-- CVT_FI (R120): Converts FP32 to a saturated integer. -/
  | cvtFi (f : Fields)
  /-- CVT_NF (R121): Decodes one scaled narrow element to FP32. -/
  | cvtNf (f : Fields)
  /-- CVT_FN (R121): Encodes FP32 into one element position of a narrow word. -/
  | cvtFn (f : Fields)
  /-- PACK2 (R122): Packs two 16-bit lanes into one word. -/
  | pack2 (f : Fields)
  /-- UNPK (R122): Extracts and extends one 8- or 16-bit lane. -/
  | unpk (f : Fields)
  /-- SCALE (R123): Multiplies an FP32 value by 2^b with one rounding. -/
  | scale (f : Fields)
  /-- LD_W (R126): Loads a local-store word. -/
  | ldW (f : Fields)
  /-- LD_H (R126): Loads a zero-extended local-store halfword. -/
  | ldH (f : Fields)
  /-- LD_HS (R126): Loads a sign-extended local-store halfword. -/
  | ldHs (f : Fields)
  /-- LD_B (R126): Loads a zero-extended local-store byte. -/
  | ldB (f : Fields)
  /-- LD_BS (R126): Loads a sign-extended local-store byte. -/
  | ldBs (f : Fields)
  /-- ST_W (R126): Stores a word to local store, with its poison bit. -/
  | stW (f : Fields)
  /-- ST_H (R126): Stores a halfword to local store. -/
  | stH (f : Fields)
  /-- ST_B (R126): Stores a byte to local store. -/
  | stB (f : Fields)
  /-- LDC (R128): Reads a word of the domain's constant block. -/
  | ldc (f : Fields)
  /-- LD_P (R127): Loads a local-store word as plain data and reports its poison state. -/
  | ldP (f : Fields)
  /-- ST_P (R127): Stores a word and clears its poison bit. -/
  | stP (f : Fields)
  /-- LDX_W (R126): Loads a local-store word at a + 4b. -/
  | ldxW (f : Fields)
  /-- STX_W (R126): Stores a local-store word at a + 4b. -/
  | stxW (f : Fields)
  /-- LCAS (R129): Atomic compare-and-swap on a local-store word. -/
  | lcas (f : Fields)
  /-- LADD (R130): Atomic add on a local-store word. -/
  | ladd (f : Fields)
  /-- EMIT (R132): Enqueues a DATA, SCALE or SPACE token of the given format. -/
  | emit (f : Fields)
  /-- STOP (R131): Enqueues a stop token of level L. -/
  | stop (f : Fields)
  /-- FWD (R133): Copies the head of an input channel unchanged to an output channel. -/
  | fwd (f : Fields)
  /-- DROP (R134): Pops one token from inside a fibre below level L. -/
  | drop (f : Fields)
  /-- TAGF (R133): Forwards the head with its format tag replaced. -/
  | tagf (f : Fields)
  /-- SCLO (R135): Computes an E8M0 block scale from a largest magnitude. -/
  | sclo (f : Fields)
  /-- HEAD (R136): Reports a channel's count, sequence and head kind without reading it. -/
  | head (f : Fields)
  /-- IDLE (R137): Waits until the cycle counter reaches a moment, then writes the lateness. -/
  | idle (f : Fields)
  /-- VADD (R195): Lane-wise addition. -/
  | vadd (f : Fields)
  /-- VSUB (R195): Lane-wise subtraction. -/
  | vsub (f : Fields)
  /-- VMUL (R195): Lane-wise multiplication. -/
  | vmul (f : Fields)
  /-- VFMA (R195): Lane-wise fused multiply-add into DST. -/
  | vfma (f : Fields)
  /-- VMIN (R195): Lane-wise minimum. -/
  | vmin (f : Fields)
  /-- VMAX (R195): Lane-wise maximum. -/
  | vmax (f : Fields)
  /-- VCMP (R196): Lane-wise comparison producing element masks. -/
  | vcmp (f : Fields)
  /-- VSEL (R196): Bitwise select between two registers by the mask in DST. -/
  | vsel (f : Fields)
  /-- VAND (R197): Lane-wise AND. -/
  | vand (f : Fields)
  /-- VOR (R197): Lane-wise OR. -/
  | vor (f : Fields)
  /-- VXOR (R197): Lane-wise XOR. -/
  | vxor (f : Fields)
  /-- VSHL (R197): Lane-wise shift left. -/
  | vshl (f : Fields)
  /-- VSHR (R197): Lane-wise logical or arithmetic shift right. -/
  | vshr (f : Fields)
  /-- VCVT (R198): Lane-wise format conversion. -/
  | vcvt (f : Fields)
  /-- VDOT (R199): Lane-wise dot-product accumulation. -/
  | vdot (f : Fields)
  /-- VSCALE (R195): Lane-wise multiplication by 2^b. -/
  | vscale (f : Fields)
  /-- VLD (R200): Loads 16 consecutive local-store words into a register. -/
  | vld (f : Fields)
  /-- VST (R200): Stores a register to 16 consecutive local-store words. -/
  | vst (f : Fields)
  /-- VLDX (R200): Gathers 16 local-store words by lane index. -/
  | vldx (f : Fields)
  /-- VSTX (R200): Scatters 16 lanes to local-store words by lane index. -/
  | vstx (f : Fields)
  /-- VBCAST (R202): Broadcasts a scalar to every lane. -/
  | vbcast (f : Fields)
  /-- VEXT (R202): Extracts one lane to a scalar. -/
  | vext (f : Fields)
  /-- VINS (R202): Inserts a scalar into one lane. -/
  | vins (f : Fields)
  /-- VPERM (R202): Permutes lanes by an index register. -/
  | vperm (f : Fields)
  /-- VRED_ADD (R203): Reduces the lanes by a fixed pairwise addition tree. -/
  | vredAdd (f : Fields)
  /-- VRED_MAX (R203): Reduces the lanes to their maximum. -/
  | vredMax (f : Fields)
  /-- VRED_MIN (R203): Reduces the lanes to their minimum. -/
  | vredMin (f : Fields)
  /-- VSCAN (R204): Inclusive running sums of the lanes. -/
  | vscan (f : Fields)
  /-- VPACK (R205): Encodes 16 FP32 lanes into half of a narrow block. -/
  | vpack (f : Fields)
  /-- VUNPK (R205): Decodes half of a narrow block into 16 FP32 lanes. -/
  | vunpk (f : Fields)
  /-- VOUT (R206): Sends one lane as a token. -/
  | vout (f : Fields)
  /-- VIN (R206): Writes a channel head into one lane. -/
  | vin (f : Fields)
  /-- MCFG (R224): Configures the matrix section and moves it to CFG. -/
  | mcfg (f : Fields)
  /-- MRUN (R224): Starts the configured matrix section. -/
  | mrun (f : Fields)
  /-- MDRAIN (R224): Drains a held tile to an output channel. -/
  | mdrain (f : Fields)
  /-- MCLR (R224): Zeroes the named accumulator banks. -/
  | mclr (f : Fields)
  /-- MLDK (R224): Loads an accumulator bank from local store. -/
  | mldk (f : Fields)
  /-- MSTK (R224): Stores an accumulator bank to local store. -/
  | mstk (f : Fields)
  /-- MSHAPE (R223): Binds a ragged shape record and row mapping. -/
  | mshape (f : Fields)
  /-- MPASS (R224): Sets lane forwarding and enters or leaves RELAY. -/
  | mpass (f : Fields)
  /-- MSTAT (R221): Reads a matrix status word, optionally clearing its flags. -/
  | mstat (f : Fields)
  /-- MFEED (R226): Loads two K-steps of operands from vector registers into the feed buffer. -/
  | mfeed (f : Fields)
  /-- MSCL (R227): Sets the feed block scales. -/
  | mscl (f : Fields)
  /-- MFIN (R228): Ends the section's work and returns TDONE. -/
  | mfin (f : Fields)
  /-- MFIN_ABORT (R228): Aborts the section, discarding the tile in progress. -/
  | mfinAbort (f : Fields)
  /-- RNCV (R207): Encodes an integer as RN30. -/
  | rncv (f : Fields)
  /-- RNCT (R208): Reconstructs, shifts and clamps an RN30 integer. -/
  | rnct (f : Fields)
  /-- RNADD (R207): Residue addition. -/
  | rnadd (f : Fields)
  /-- RNSUB (R207): Residue subtraction. -/
  | rnsub (f : Fields)
  /-- RNMUL (R207): Residue multiplication. -/
  | rnmul (f : Fields)
  /-- RNMAC (R207): Residue multiply-accumulate into DST. -/
  | rnmac (f : Fields)
  /-- RNNEG (R207): Residue negation. -/
  | rnneg (f : Fields)
  /-- VRNCV (R209): Lane-wise RN30 encoding. -/
  | vrncv (f : Fields)
  /-- VRNCT (R209): Lane-wise RN30 reconstruction. -/
  | vrnct (f : Fields)
  /-- VRNMAC (R209): Lane-wise residue multiply-accumulate. -/
  | vrnmac (f : Fields)
  /-- VRNDOT (R209): Lane-wise int8 dot product accumulated in RN30. -/
  | vrndot (f : Fields)
  /-- GLD (R308): Global word load, forwarded or awaited. -/
  | gld (f : Fields)
  /-- GST (R308): Global word store through the store buffer. -/
  | gst (f : Fields)
  /-- GLD_A (R309): Acquire load of the given scope. -/
  | gldA (f : Fields)
  /-- GST_L (R309): Release store of the given scope. -/
  | gstL (f : Fields)
  /-- PLD (R311): Presence read, deferred while the word is EMPTY. -/
  | pld (f : Fields)
  /-- PST (R311): Presence write of one bank word through the retry latch. -/
  | pst (f : Fields)
  /-- PCLR (R311): Clears a presence range and counts words left unchanged. -/
  | pclr (f : Fields)
  /-- PPRB (R311): Probes a presence word's state and deferral count. -/
  | pprb (f : Fields)
  /-- FENCE (R310): Parks until the node's earlier store entries are acknowledged, by scope. -/
  | fence (f : Fields)
  /-- AUPD (R312): Atomic update without reply. -/
  | aupd (f : Fields)
  /-- AFET (R312): Atomic fetch-and-op. -/
  | afet (f : Fields)
  /-- ACAS (R312): Global atomic compare-and-swap. -/
  | acas (f : Fields)
  /-- AAPL (R315): Applies the head entry of an update inbox to the owned image. -/
  | aapl (f : Fields)
  /-- GLDV (R308): Global 16-word vector load. -/
  | gldv (f : Fields)
  /-- GLDV_P (R311): Presence read of 16 bank words or one presence line. -/
  | gldvP (f : Fields)
  /-- GSTV (R308): Global 16-word vector store through the store buffer. -/
  | gstv (f : Fields)
  /-- GSTV_P (R311): Presence write of 16 words or one line through the retry latch. -/
  | gstvP (f : Fields)
  /-- XREARM (R318): Re-arms a faulted node's retry latch: resend, complete or query. -/
  | xrearm (f : Fields)
  /-- STRM (R352): Sends a stream descriptor to a memory-tile port. -/
  | strm (f : Fields)
  /-- STRMQ (R352): Reads a stream port's status word. -/
  | strmq (f : Fields)
  /-- STRMQ_CAN (R352): Reads a port's status and discards its queued commands. -/
  | strmqCan (f : Fields)
  /-- CNTB (R353): Binds a completion tag to a count and a channel. -/
  | cntb (f : Fields)
  /-- BALC (R361): Allocates a pool barrier. -/
  | balc (f : Fields)
  /-- BFRE (R361): Frees a pool barrier. -/
  | bfre (f : Fields)
  /-- BARV (R362): Arrives n times at a pool barrier. -/
  | barv (f : Fields)
  /-- BARV_W (R362): Arrives n times at a barrier word through the retry latch. -/
  | barvW (f : Fields)
  /-- BWT (R363): Waits for a pool barrier's phase to pass. -/
  | bwt (f : Fields)
  /-- BWT_W (R363): Waits for a barrier word's phase to pass. -/
  | bwtW (f : Fields)
  /-- BTRY (R363): Tests a pool barrier's phase at once. -/
  | btry (f : Fields)
  /-- BTRY_W (R363): Tests a barrier word's phase at once. -/
  | btryW (f : Fields)
  /-- ECPY (R357): Sends a copy command to a leased engine. -/
  | ecpy (f : Fields)
  /-- ECMP (R357): Sends a ZW compression command to a leased engine. -/
  | ecmp (f : Fields)
  /-- EDCP (R357): Sends a ZW decompression command to a leased engine. -/
  | edcp (f : Fields)
  /-- ECOL (R357): Sends a collective reduction command to a leased engine. -/
  | ecol (f : Fields)
  /-- CJOIN (R366): Joins SPACE heads and emits one permit. -/
  | cjoin (f : Fields)
  /-- LEASE (R355): Leases a pool engine of a kind. -/
  | lease (f : Fields)
  /-- LREL (R355): Ends an engine lease. -/
  | lrel (f : Fields)
  /-- MBAR (R364): Makes or retires a barrier word. -/
  | mbar (f : Fields)
  /-- XST (R440): Remote word store through the pod queue. -/
  | xst (f : Fields)
  /-- XSTV (R440): Remote 16-word store through the pod queue. -/
  | xstv (f : Fields)
  /-- XSIG (R440): Remote atomic add of n through the retry latch. -/
  | xsig (f : Fields)
  /-- XLD (R440): Remote word load. -/
  | xld (f : Fields)
  /-- XWAIT (R440): Waits until a local word reaches a bound. -/
  | xwait (f : Fields)
  /-- XFEN (R440): Parks until the node's pod-queue entries are acknowledged. -/
  | xfen (f : Fields)
  /-- TSPN (R266): Instantiates a template as a pallet of task records. -/
  | tspn (f : Fields)
  /-- TDEC (R267): Sends one decrement to a task record on this module. -/
  | tdec (f : Fields)
  /-- TDEC_RMT (R267): Sends one decrement to a task record on another module. -/
  | tdecRmt (f : Fields)
  /-- TQRY (R268): Reads a task record's state. -/
  | tqry (f : Fields)
  /-- LNTL (R160): Sends one argument token to a gate. -/
  | lntl (f : Fields)
  /-- LNTL_LAST (R160): Sends the final argument and enters the callee. -/
  | lntlLast (f : Fields)
  /-- GRET (R161): Ends the callee's gate session with a STOP1 reply. -/
  | gret (f : Fields)
  /-- DID (R156): Reads domain identity, table entry or partition words. -/
  | did (f : Fields)
  /-- DPART (R154): Writes a domain partition word, scrubbing lost resources. -/
  | dpart (f : Fields)
  /-- GATE (R159): Writes a gate entry. -/
  | gate (f : Fields)
  /-- CXLD (R236): Makes a custom configuration resident. -/
  | cxld (f : Fields)
  /-- CXUL (R236): Removes a custom configuration from residency. -/
  | cxul (f : Fields)
  /-- CXQ (R236): Reads a custom configuration's mapping summary. -/
  | cxq (f : Fields)
  /-- ISPZ (R157): Suspends a domain. -/
  | ispz (f : Fields)
  /-- UNPZ (R157): Resumes a suspended domain. -/
  | unpz (f : Fields)
  /-- CX (R235): Fires custom opcode CXC: runs, traps to the loader or faults by mapping. -/
  | cx (code : BitVec 4) (f : Fields)
  /-- TRAP (R386): Faults the node with ILLEGAL. -/
  | trap (f : Fields)
  /-- BRK (R386): Faults the node with BRK and code n. -/
  | brk (f : Fields)
  /-- PARK (R144): Parks the node until woken, or consumes a pending wake. -/
  | park (f : Fields)
  /-- WAKE (R145): Releases a parked node or sets its wake-pending bit. -/
  | wake (f : Fields)
  /-- SYRD (R384): Reads a node or memory-tile selector. -/
  | syrd (f : Fields)
  /-- SYWR_FPSTAT (R384): Writes a node's FPSTAT modes and clears flags. -/
  | sywrFpstat (f : Fields)
  /-- SYWR_RESUME_RETRY (R385): Resumes a faulted node by retrying its transition. -/
  | sywrResumeRetry (f : Fields)
  /-- SYWR_RESUME_SKIP (R385): Resumes a faulted node by completing its transition with poison. -/
  | sywrResumeSkip (f : Fields)
  /-- SYWR_GREG (R384): Writes a faulted node's general register, clearing poison. -/
  | sywrGreg (f : Fields)
  /-- SYWR_PORTCTL_REPLAY (R387): Replays a port's held access. -/
  | sywrPortctlReplay (f : Fields)
  /-- SYWR_PORTCTL_ABANDON (R388): Abandons a port's held access as PROT. -/
  | sywrPortctlAbandon (f : Fields)
  /-- MARK (R401): Starts a marker snapshot of a domain. -/
  | mark (f : Fields)
  /-- SAVE (R402): Writes a completed domain snapshot to the save area. -/
  | save (f : Fields)
  /-- REST (R403): Checks and restores a domain context image. -/
  | rest (f : Fields)
  /-- HALT (R386): Privileged: writes USER and aborts the task; otherwise faults DOMAIN. -/
  | halt (f : Fields)
  /-- LONG_OPERATION_COMPLETE (R42): A parked long operation or CX firing writes back at S4 and the node returns to RUN. -/
  | longOperationComplete (n : NodeRef)
  /-- MEMORY_RESPONSE (R305): An awaited response arrives and completes the parked transition, or faults it. -/
  | memoryResponse (id : Nat)
  /-- TOKEN_SEND (R168): An output channel sends its head token once it holds a credit and a port grant. -/
  | tokenSend (p : Port)
  /-- TOKEN_ARRIVAL (R171): A token reaches an input channel and is checked, steered, counted or admitted. -/
  | tokenArrival (e : Nat)
  /-- CREDIT_RETURN (R167): A credit freed by a pop reaches its source. -/
  | creditReturn (e : Nat)
  /-- FANOUT_COPY (R182): The fan-out copies its source token into every branch once all have room. -/
  | fanoutCopy (k : Nat)
  /-- BRANCH_SEND (R183): A fan-out branch sends a token to its destination, emitting SPACE at each window. -/
  | branchSend (k : Nat) (b : Nat)
  /-- QUOIN_EMIT (R184): A quoin port emits a buffered block in column order. -/
  | quoinEmit (t : TileRef) (p : BitVec 4)
  /-- GATE_POISON_DELIVERY (R162): A gate delivers a POISON token to the caller after the callee faulted, once space exists. -/
  | gatePoisonDelivery (e : ElemRef) (g : BitVec 3)
  /-- SCRUB_COMPLETE (R155): A resource lost by DPART finishes scrubbing and becomes free. -/
  | scrubComplete (e : ElemRef)
  /-- KVALUE_ENTER (R215): The matrix section enters one k-value and forwards it. -/
  | kvalueEnter (e : ElemRef)
  /-- RELAY_FORWARD (R225): A RELAY section or relay stream forwards a k-value without computing. -/
  | relayForward (l : RelayPlace) (sideB : Bool)
  /-- TILE_COMPLETE (R218): A matrix tile completes and drains, holds or finishes the section. -/
  | tileComplete (e : ElemRef)
  /-- DRAIN_TOKEN_SEND (R222): The drain buffer sends one token to the drain channel. -/
  | drainTokenSend (e : ElemRef)
  /-- MATRIX_MARK (R229): A MARK on a sub-lane stops the section after its K-step and saves it. -/
  | matrixMark (e : ElemRef)
  /-- QUEUE_DOORBELL (R430): A doorbell write maps the queue if needed and records a new submission tail. -/
  | queueDoorbell (fn : BitVec 12) (q : BitVec 6) (v : Word)
  /-- QUEUE_IDLE_UNMAP (R430): A queue idle for 2^20 die cycles is unmapped to free a slot. -/
  | queueIdleUnmap (die : BitVec 4) (slot : BitVec 6)
  /-- SPAWN (R258): Submission command instantiating a pallet. -/
  | spawn (die : BitVec 4)
  /-- DEC (R258): Submission command sending one decrement. -/
  | dec (die : BitVec 4)
  /-- ABORT (R258): Submission command failing a live task. -/
  | abort (die : BitVec 4)
  /-- FREE (R258): Submission command returning a retired or template record to FREE. -/
  | free (die : BitVec 4)
  /-- REGT (R258): Submission command registering template records. -/
  | regt (die : BitVec 4)
  /-- UNREGT (R258): Submission command returning template records to FREE. -/
  | unregt (die : BitVec 4)
  /-- DECREMENT_APPLY (R249): A dispatcher applies one arriving decrement to a task record. -/
  | decrementApply (id : Nat)
  /-- STAGING_COMPLETE (R256): The hod finishes staging and the task becomes READY. -/
  | stagingComplete (die : BitVec 4) (idx : BitVec 14)
  /-- DEADLINE_EXPIRY (R253): A task's deadline is reached and it expires or is discarded. -/
  | deadlineExpiry (die : BitVec 4) (idx : BitVec 14)
  /-- AGE_PROMOTION (R260): A READY task's effective priority rises after 2^AGEX die cycles. -/
  | agePromotion (die : BitVec 4) (idx : BitVec 14)
  /-- HEAD_BLOCK (R260): The unplaced head task blocks other placements after 2^BLKX die cycles. -/
  | headBlock (die : BitVec 4)
  /-- TASK_SELECT (R260): The dispatcher places a READY task and starts its load. `used`: quanta that
  partitions have been metered for on the die since the last metering. -/
  | taskSelect (die : BitVec 4) (used : List (Nat × Nat))
  /-- TILE_LOAD_ACK (R262): A tile acknowledges its validated load records. -/
  | tileLoadAck (region : Nat) (tile : BitVec 11)
  /-- REGION_OPEN (R263): OPEN reaches a tile; its nodes enter RUN and its ports open. -/
  | regionOpen (region : Nat) (tile : BitVec 11)
  /-- QUIESCENCE (R264): The idle count reaches QHOLD and the region is declared quiescent. -/
  | quiescence (region : Nat)
  /-- RECONFIG_TOKEN_PASS (R248): The reconfiguration token passes a draining region; the task retires DONE. -/
  | reconfigTokenPass (region : Nat)
  /-- STALL_WATCHDOG (R265): The STALL count reaches 2^WDE and a trap record goes to the service core. -/
  | stallWatchdog (region : Nat)
  /-- STREAM_END (R255): END or a POISON token arrives at a forwarded input port. -/
  | streamEnd (region : Nat) (iport : BitVec 3)
  /-- HOME_REQUEST (R273): A home performs an arriving memory request in the location's order. -/
  | homeRequest (id : Nat)
  /-- WALK_COMPLETE (R302): A translation walk completes and answers its waiting misses. -/
  | walkComplete (id : Nat)
  /-- STORE_ACK (R306): A home acknowledges a store-buffer or pod-queue entry and frees it. -/
  | storeAck (id : Nat)
  /-- STORE_REFUSAL (R307): A buffered store is refused; the entry becomes HELD and the node faults. -/
  | storeRefusal (id : Nat)
  /-- INBOX_ENTRY (R314): An atomic routed to an owned range enters the owner's inbox. -/
  | inboxEntry (id : Nat)
  /-- LATCH_REPLY (R316): A home's answer reaches a retry latch. -/
  | latchReply (id : Nat)
  /-- LATCH_TIMEOUT (R316): No answer within 2^20 cycles; the node faults with SOFT. -/
  | latchTimeout (n : NodeRef)
  /-- RECOVERY_QUERY (R317): A home answers a recovery query from its reply log, after the request, or NOTTAKEN. -/
  | recoveryQuery (id : Nat)
  /-- STREAM_START (R349): A queued stream command starts once its port and generator are free. -/
  | streamStart (t : TileRef) (p : BitVec 4)
  /-- STREAM_EMIT (R348): An address generator reads or writes the next element of its sequence. -/
  | streamEmit (t : TileRef) (p : BitVec 4)
  /-- TAG_ACK (R354): A write acknowledgement counts into a completion tag. -/
  | tagAck (id : Nat)
  /-- TAG_TOKEN (R354): A satisfied tag enqueues its completion token once the channel has room. -/
  | tagToken (e : ElemRef) (tag : BitVec 4)
  /-- ENGINE_RUN (R357): A pool engine runs its next accepted command. -/
  | engineRun (die : BitVec 4) (kind : BitVec 2) (eng : BitVec 3)
  /-- ENGINE_COMPLETE (R362): An engine command completes and arrives at its barrier. -/
  | engineComplete (die : BitVec 4) (kind : BitVec 2) (eng : BitVec 3)
  /-- LEASE_EXPIRY (R355): A lease ends by its cycle limit or task count. -/
  | leaseExpiry (die : BitVec 4) (kind : BitVec 2) (eng : BitVec 3)
  /-- HOST_FETCHADD (R364): A host FetchAdd on a live barrier word makes an arrival. -/
  | hostFetchadd (fn : BitVec 12) (pa : BitVec 52) (n : Word)
  /-- HOST_BARRIER_WRITE (R364): Another host write to a live barrier word completes with Completer Abort. -/
  | hostBarrierWrite (fn : BitVec 12) (pa : BitVec 52)
  /-- HOST_ACCESS (R328): A host agent's access to device memory reaches its home. -/
  | hostAccess (a : HostAccess)
  /-- TRAP_RECORD_DELIVERY (R380): A trap record enters its receiver's ci3 as five tokens. -/
  | trapRecordDelivery (idx : Nat)
  /-- PORT_REPLAY (R387): A held port or engine access is retried after an invalidation completes. -/
  | portReplay (u : HeldUnit)
  /-- UNCORRECTABLE_ERROR (R392): An uncorrectable error poisons a value, word or page, or faults a pool. -/
  | uncorrectableError (w : ErrorPlace)
  /-- MARK_SEND (R394): A snapshot source sends its MARK after its current unit. -/
  | markSend (region : Nat) (p : Port)
  /-- MARK_ARRIVAL (R395): A MARK reaches a channel or port and closes it. -/
  | markArrival (e : Nat)
  /-- NODE_ALIGN (R396): A node in scope aligns, emits MARKs, is captured and enters OFF. -/
  | nodeAlign (n : NodeRef)
  /-- SNAPSHOT_COMPLETE (R398): Every part of a snapshot has saved. -/
  | snapshotComplete (region : Nat)
  /-- WHOLE_COURSE_PREEMPT (R404): The service core starts a whole-course snapshot and saves the region. -/
  | wholeCoursePreempt (region : Nat)
  /-- PSPLIT (R418): Splits an idle partition's buddy node. -/
  | psplit (pf : Bool)
  /-- PMERGE (R418): Merges two idle sibling partitions. -/
  | pmerge (pf : Bool)
  /-- PPRE (R427): Pre-empts or resumes every running course of a partition. -/
  | ppre (pf : Bool)
  /-- KLOAD (R422): Loads key material into a free key slot. -/
  | kload (pf : Bool) (m : List Word)
  /-- KSHARE (R423): Changes a key slot's share mask. -/
  | kshare (pf : Bool)
  /-- KFREE (R423): Drains and frees a key slot. -/
  | kfree (pf : Bool)
  /-- INVAL (R303): Invalidates translations module-wide. -/
  | inval (pf : Bool)
  /-- PTEAR (R432): Tears down a PASID. -/
  | ptear (pf : Bool)
  /-- QREG (R429): Registers a queue record and its shadow hash. -/
  | qreg (pf : Bool)
  /-- QUNREG (R427): Unmaps and forgets a queue. -/
  | qunreg (pf : Bool)
  /-- FASSIGN (R426): Assigns a VF to a partition. -/
  | fassign (pf : Bool)
  /-- PODGRANT (R438): Adds or replaces a pod grant. -/
  | podgrant (pf : Bool)
  /-- PODREVOKE (R438): Revokes a pod grant. -/
  | podrevoke (pf : Bool)
  /-- PODRT (R438): Sets a module's route mask. -/
  | podrt (pf : Bool)
  /-- KCTR (R449): Binds a tenant counter slot. -/
  | kctr (pf : Bool) (m : List Word)
  /-- KCTRFREE (R449): Frees a tenant counter slot. -/
  | kctrfree (pf : Bool) (m : List Word)
  /-- KNONCE (R449): Returns and records a fresh nonce. -/
  | knonce (pf : Bool)
  /-- KQUOTE (R448): Writes a signed quote. -/
  | kquote (pf : Bool)
  /-- KSEAL (R450): Seals a context image under a new counter value. -/
  | kseal (pf : Bool)
  /-- KEXPORT (R451): Wraps a sealed image for a peer module. -/
  | kexport (pf : Bool) (m : List Word)
  /-- KOPEN (R452): Verifies and decrypts a kiln image into the save area. -/
  | kopen (pf : Bool)
  /-- ATS_COMPLETION (R425): A host translation completion arrives for a host-window access. -/
  | atsCompletion (c : AtsAnswer)
  /-- PAGE_REQUEST_RESPONSE (R425): A Page Request Group response replays or fails a held access. -/
  | pageRequestResponse (id : Nat) (r : PriResponse)
  /-- FLR (R424): A function-level reset of a PF or VF. -/
  | flr (fn : BitVec 12)
  /-- TDI_ERROR (R426): A TDI enters ERROR and its partition's queues enter error. -/
  | tdiError (vf : BitVec 11)
  /-- POWER_INTERVAL_END (R433): A power interval ends; balances, pools and die caps are reset. `used` as for TASK_SELECT. -/
  | powerIntervalEnd (die : BitVec 5) (cap : Nat) (used : List (Nat × Nat))
  /-- POD_REQUEST_ARRIVAL (R437): A remote request arrives and is checked against pod grants. -/
  | podRequestArrival (r : PodMessage)
  /-- REMOTE_DECREMENT (R444): A decrement from another module is checked against a grant and applied. -/
  | remoteDecrement (r : PodDecrement)
  /-- POD_LINK_FAILURE (R442): A pod link fails; its outstanding entries become HELD. -/
  | podLinkFailure (port : BitVec 4)
  /-- COLD_RESET (R462): Cold reset starts every die's bring-up sequence. `stop`: the dies that stay in ROM; `fail`: those whose
  self-test fails; `meas`: the measurement of the image. -/
  | coldReset (stop : BootStop) (fail : BitVec 18) (meas : List Byte)
  /-- DIE_ADMIT (R463): A die is admitted at reduced service. -/
  | dieAdmit (die : BitVec 5)
  /-- CLOCK_SWITCH (R464): The fabric switches to 2.5 GHz once every admitted die reaches step 6. -/
  | clockSwitch
  /-- WARM_RECALIBRATION (R465): A failed feature is re-trained and its FMASK bit may be set. -/
  | warmRecalibration (die : BitVec 4) (feature : BitVec 3) (pass : Bool)
  /-- THERMAL_THROTTLE (R466): A die at 105 °C or above runs at 1.25 GHz. -/
  | thermalThrottle (die : BitVec 5) (celsius : Nat)
  /-- THERMAL_RECOVER (R466): A throttled die falls below 100 °C and returns to full clock. -/
  | thermalRecover (die : BitVec 5) (celsius : Nat)
  /-- THERMAL_REMOVAL (R466): A die at 115 °C or above leaves admission and fails its tasks. -/
  | thermalRemoval (die : BitVec 5) (celsius : Nat)
  /-- REGISTER_WRITE (R10): A write to a register that has no behaviour of its own. -/
  | registerWrite (r : RegWrite)
  /-- PSET_COMMAND (R419): Management command that writes a partition control block, validating it and emptying the event log ring when ELOG is written.
  `block` is what the host's memory holds at the block's address. -/
  | psetCommand (pf : Bool) (block : List Word)
  /-- HBMODE_WRITE (R287): The service core changes a band's mode in HBMODE, and the band is scrubbed to zero with all line states EMPTY. -/
  | hbmodeWrite (v : BitVec 64)
  /-- REPLY_ACKNOWLEDGEMENT (R317): A requester element's acknowledgement reaches a home and frees a reply-log entry, letting a request waiting on a full log proceed. -/
  | replyAcknowledgement (id : Nat)
  /-- POWER_CAP_EXCEEDED (R433): A die's metered consumption exceeds its cap and it runs its fabric at 1.25 GHz for the rest of the interval. -/
  | powerCapExceeded (die : BitVec 5) (more : Nat)
  /-- DIE_FULL_SERVICE (R462): A die's HBM4 or DDR-5 training and matrix calibration end, firmware raises FMASK and the die reaches full service. -/
  | dieFullService (die : BitVec 5) (passed : BitVec 6)
  /-- POD_LINK_UP (R436): A pod port establishes its UALinkSec session and becomes a live port for routing. -/
  | podLinkUp (port : BitVec 4)
  /-- POWER_LOSS (R445): Supply is lost; volatile state vanishes while tenant counters keep their values in secure storage. -/
  | powerLoss
  /-- CORRECTABLE_ERROR (R392): A correctable error is corrected and counted in the die's CECNT register. -/
  | correctableError (die : BitVec 5)
  /-- ATS_INVALIDATION_COMPLETION (R432): The completion of an ATS invalidation for a PASID under teardown arrives at a host port. -/
  | atsInvalidationCompletion (port : Bool) (pasid : BitVec 20)
  /-- TDISP_REQUEST (R426): A TDISP request moves a VF's TDI into LOCKED or RUN, after which PF commands touching its partition are refused. -/
  | tdispRequest (vf : BitVec 11) (run : Bool)
deriving DecidableEq, Repr, Inhabited

end Sys2Proof
end

