-- ==== Sys2Proof/Machine/Shapes.lean ====
section
/-! DEFINITION. The operand classes of every instruction: opcode, what DST, SA and SB name, and the role of IMM6
(R83, R84, R87, R89, and the operand tables of each group). -/

namespace Sys2Proof

/-- What DST names (R83, R108). -/
inductive DstClass where
  | unused
  | written
  | read
  | readWritten
  | coOnly
  | vecWritten
  | vecRead
  | vecReadWritten
  | acc
deriving DecidableEq, Repr, Inhabited

/-- What a source field names (R83, R108, R304). -/
inductive SrcClass where
  | unused
  | scalar
  | constant
  | ciOnly
  | vector
  | vectorEven
  | pair
deriving DecidableEq, Repr, Inhabited

/-- The role of IMM6 (R87): no content, the SB = 31 operand, bits of a constant, or an option field. -/
inductive ImmRole where
  | zero
  | immediate
  | constant
  | option
deriving DecidableEq, Repr, Inhabited

/-- The operand classes of one instruction. -/
structure Shape where
  dst : DstClass := .unused
  sa : SrcClass := .unused
  sb : SrcClass := .unused
  imm : ImmRole := .zero
deriving DecidableEq, Repr, Inhabited

/-- The fields of a node instruction; none for a step that no node issues. -/
def Instr.fields : Instr → Option Fields
  | .nop f => some f
  | .mov f => some f
  | .li f => some f
  | .lui f => some f
  | .add f => some f
  | .sub f => some f
  | .adds f => some f
  | .subs f => some f
  | .mul f => some f
  | .mulhI32 f => some f
  | .mulhN32 f => some f
  | .mac f => some f
  | .divI32 f => some f
  | .divN32 f => some f
  | .modI32 f => some f
  | .modN32 f => some f
  | .and f => some f
  | .or f => some f
  | .xor f => some f
  | .andn f => some f
  | .shl f => some f
  | .shr f => some f
  | .sar f => some f
  | .rol f => some f
  | .clz f => some f
  | .popc f => some f
  | .brev f => some f
  | .sext f => some f
  | .zext f => some f
  | .bfx f => some f
  | .bfi f => some f
  | .sel f => some f
  | .cmpEq f => some f
  | .cmpNe f => some f
  | .cmpLtI32 f => some f
  | .cmpLeI32 f => some f
  | .cmpLtN32 f => some f
  | .cmpLeN32 f => some f
  | .minI32 f => some f
  | .maxI32 f => some f
  | .minN32 f => some f
  | .maxN32 f => some f
  | .abs f => some f
  | .neg f => some f
  | .pset f => some f
  | .pget f => some f
  | .tst f => some f
  | .lea f => some f
  | .fadd f => some f
  | .fsub f => some f
  | .fmul f => some f
  | .fma f => some f
  | .fmin f => some f
  | .fmax f => some f
  | .fcmpEq f => some f
  | .fcmpLt f => some f
  | .fcmpLe f => some f
  | .fcmpUn f => some f
  | .fabs f => some f
  | .fneg f => some f
  | .frcp f => some f
  | .frsq f => some f
  | .fexp2 f => some f
  | .flog2 f => some f
  | .cvtF f => some f
  | .cvtIf f => some f
  | .cvtFi f => some f
  | .cvtNf f => some f
  | .cvtFn f => some f
  | .pack2 f => some f
  | .unpk f => some f
  | .scale f => some f
  | .ldW f => some f
  | .ldH f => some f
  | .ldHs f => some f
  | .ldB f => some f
  | .ldBs f => some f
  | .stW f => some f
  | .stH f => some f
  | .stB f => some f
  | .ldc f => some f
  | .ldP f => some f
  | .stP f => some f
  | .ldxW f => some f
  | .stxW f => some f
  | .lcas f => some f
  | .ladd f => some f
  | .emit f => some f
  | .stop f => some f
  | .fwd f => some f
  | .drop f => some f
  | .tagf f => some f
  | .sclo f => some f
  | .head f => some f
  | .idle f => some f
  | .vadd f => some f
  | .vsub f => some f
  | .vmul f => some f
  | .vfma f => some f
  | .vmin f => some f
  | .vmax f => some f
  | .vcmp f => some f
  | .vsel f => some f
  | .vand f => some f
  | .vor f => some f
  | .vxor f => some f
  | .vshl f => some f
  | .vshr f => some f
  | .vcvt f => some f
  | .vdot f => some f
  | .vscale f => some f
  | .vld f => some f
  | .vst f => some f
  | .vldx f => some f
  | .vstx f => some f
  | .vbcast f => some f
  | .vext f => some f
  | .vins f => some f
  | .vperm f => some f
  | .vredAdd f => some f
  | .vredMax f => some f
  | .vredMin f => some f
  | .vscan f => some f
  | .vpack f => some f
  | .vunpk f => some f
  | .vout f => some f
  | .vin f => some f
  | .mcfg f => some f
  | .mrun f => some f
  | .mdrain f => some f
  | .mclr f => some f
  | .mldk f => some f
  | .mstk f => some f
  | .mshape f => some f
  | .mpass f => some f
  | .mstat f => some f
  | .mfeed f => some f
  | .mscl f => some f
  | .mfin f => some f
  | .mfinAbort f => some f
  | .rncv f => some f
  | .rnct f => some f
  | .rnadd f => some f
  | .rnsub f => some f
  | .rnmul f => some f
  | .rnmac f => some f
  | .rnneg f => some f
  | .vrncv f => some f
  | .vrnct f => some f
  | .vrnmac f => some f
  | .vrndot f => some f
  | .gld f => some f
  | .gst f => some f
  | .gldA f => some f
  | .gstL f => some f
  | .pld f => some f
  | .pst f => some f
  | .pclr f => some f
  | .pprb f => some f
  | .fence f => some f
  | .aupd f => some f
  | .afet f => some f
  | .acas f => some f
  | .aapl f => some f
  | .gldv f => some f
  | .gldvP f => some f
  | .gstv f => some f
  | .gstvP f => some f
  | .xrearm f => some f
  | .strm f => some f
  | .strmq f => some f
  | .strmqCan f => some f
  | .cntb f => some f
  | .balc f => some f
  | .bfre f => some f
  | .barv f => some f
  | .barvW f => some f
  | .bwt f => some f
  | .bwtW f => some f
  | .btry f => some f
  | .btryW f => some f
  | .ecpy f => some f
  | .ecmp f => some f
  | .edcp f => some f
  | .ecol f => some f
  | .cjoin f => some f
  | .lease f => some f
  | .lrel f => some f
  | .mbar f => some f
  | .xst f => some f
  | .xstv f => some f
  | .xsig f => some f
  | .xld f => some f
  | .xwait f => some f
  | .xfen f => some f
  | .tspn f => some f
  | .tdec f => some f
  | .tdecRmt f => some f
  | .tqry f => some f
  | .lntl f => some f
  | .lntlLast f => some f
  | .gret f => some f
  | .did f => some f
  | .dpart f => some f
  | .gate f => some f
  | .cxld f => some f
  | .cxul f => some f
  | .cxq f => some f
  | .ispz f => some f
  | .unpz f => some f
  | .cx _ f => some f
  | .trap f => some f
  | .brk f => some f
  | .park f => some f
  | .wake f => some f
  | .syrd f => some f
  | .sywrFpstat f => some f
  | .sywrResumeRetry f => some f
  | .sywrResumeSkip f => some f
  | .sywrGreg f => some f
  | .sywrPortctlReplay f => some f
  | .sywrPortctlAbandon f => some f
  | .mark f => some f
  | .save f => some f
  | .rest f => some f
  | .halt f => some f
  | .longOperationComplete _ => none
  | .memoryResponse _ => none
  | .tokenSend _ => none
  | .tokenArrival _ => none
  | .creditReturn _ => none
  | .fanoutCopy _ => none
  | .branchSend _ _ => none
  | .quoinEmit _ _ => none
  | .gatePoisonDelivery _ _ => none
  | .scrubComplete _ => none
  | .kvalueEnter _ => none
  | .relayForward _ _ => none
  | .tileComplete _ => none
  | .drainTokenSend _ => none
  | .matrixMark _ => none
  | .queueDoorbell _ _ _ => none
  | .queueIdleUnmap _ _ => none
  | .spawn _ => none
  | .dec _ => none
  | .abort _ => none
  | .free _ => none
  | .regt _ => none
  | .unregt _ => none
  | .decrementApply _ => none
  | .stagingComplete _ _ => none
  | .deadlineExpiry _ _ => none
  | .agePromotion _ _ => none
  | .headBlock _ => none
  | .taskSelect _ _ => none
  | .tileLoadAck _ _ => none
  | .regionOpen _ _ => none
  | .quiescence _ => none
  | .reconfigTokenPass _ => none
  | .stallWatchdog _ => none
  | .streamEnd _ _ => none
  | .homeRequest _ => none
  | .walkComplete _ => none
  | .storeAck _ => none
  | .storeRefusal _ => none
  | .inboxEntry _ => none
  | .latchReply _ => none
  | .latchTimeout _ => none
  | .recoveryQuery _ => none
  | .streamStart _ _ => none
  | .streamEmit _ _ => none
  | .tagAck _ => none
  | .tagToken _ _ => none
  | .engineRun _ _ _ => none
  | .engineComplete _ _ _ => none
  | .leaseExpiry _ _ _ => none
  | .hostFetchadd _ _ _ => none
  | .hostBarrierWrite _ _ => none
  | .hostAccess _ => none
  | .trapRecordDelivery _ => none
  | .portReplay _ => none
  | .uncorrectableError _ => none
  | .markSend _ _ => none
  | .markArrival _ => none
  | .nodeAlign _ => none
  | .snapshotComplete _ => none
  | .wholeCoursePreempt _ => none
  | .psplit _ => none
  | .pmerge _ => none
  | .ppre _ => none
  | .kload _ _ => none
  | .kshare _ => none
  | .kfree _ => none
  | .inval _ => none
  | .ptear _ => none
  | .qreg _ => none
  | .qunreg _ => none
  | .fassign _ => none
  | .podgrant _ => none
  | .podrevoke _ => none
  | .podrt _ => none
  | .kctr _ _ => none
  | .kctrfree _ _ => none
  | .knonce _ => none
  | .kquote _ => none
  | .kseal _ => none
  | .kexport _ _ => none
  | .kopen _ => none
  | .atsCompletion _ => none
  | .pageRequestResponse _ _ => none
  | .flr _ => none
  | .tdiError _ => none
  | .powerIntervalEnd _ _ _ => none
  | .podRequestArrival _ => none
  | .remoteDecrement _ => none
  | .podLinkFailure _ => none
  | .coldReset _ _ _ => none
  | .dieAdmit _ => none
  | .clockSwitch => none
  | .warmRecalibration _ _ _ => none
  | .thermalThrottle _ _ => none
  | .thermalRecover _ _ => none
  | .thermalRemoval _ _ => none
  | .registerWrite _ => none
  | .psetCommand _ _ => none
  | .hbmodeWrite _ => none
  | .replyAcknowledgement _ => none
  | .powerCapExceeded _ _ => none
  | .dieFullService _ _ => none
  | .podLinkUp _ => none
  | .powerLoss => none
  | .correctableError _ => none
  | .atsInvalidationCompletion _ _ => none
  | .tdispRequest _ _ => none

/-- OPC of a node instruction (R89). -/
def Instr.opcode : Instr → Option (BitVec 8)
  | .nop _ => some 0x00
  | .mov _ => some 0x01
  | .li _ => some 0x02
  | .lui _ => some 0x03
  | .add _ => some 0x04
  | .sub _ => some 0x05
  | .adds _ => some 0x06
  | .subs _ => some 0x07
  | .mul _ => some 0x08
  | .mulhI32 _ => some 0x09
  | .mulhN32 _ => some 0x0A
  | .mac _ => some 0x0B
  | .divI32 _ => some 0x0C
  | .divN32 _ => some 0x0D
  | .modI32 _ => some 0x0E
  | .modN32 _ => some 0x0F
  | .and _ => some 0x10
  | .or _ => some 0x11
  | .xor _ => some 0x12
  | .andn _ => some 0x13
  | .shl _ => some 0x14
  | .shr _ => some 0x15
  | .sar _ => some 0x16
  | .rol _ => some 0x17
  | .clz _ => some 0x18
  | .popc _ => some 0x19
  | .brev _ => some 0x1A
  | .sext _ => some 0x1B
  | .zext _ => some 0x1C
  | .bfx _ => some 0x1D
  | .bfi _ => some 0x1E
  | .sel _ => some 0x1F
  | .cmpEq _ => some 0x20
  | .cmpNe _ => some 0x21
  | .cmpLtI32 _ => some 0x22
  | .cmpLeI32 _ => some 0x23
  | .cmpLtN32 _ => some 0x24
  | .cmpLeN32 _ => some 0x25
  | .minI32 _ => some 0x26
  | .maxI32 _ => some 0x27
  | .minN32 _ => some 0x28
  | .maxN32 _ => some 0x29
  | .abs _ => some 0x2A
  | .neg _ => some 0x2B
  | .pset _ => some 0x2C
  | .pget _ => some 0x2D
  | .tst _ => some 0x2E
  | .lea _ => some 0x2F
  | .fadd _ => some 0x30
  | .fsub _ => some 0x31
  | .fmul _ => some 0x32
  | .fma _ => some 0x33
  | .fmin _ => some 0x34
  | .fmax _ => some 0x35
  | .fcmpEq _ => some 0x36
  | .fcmpLt _ => some 0x37
  | .fcmpLe _ => some 0x38
  | .fcmpUn _ => some 0x39
  | .fabs _ => some 0x3A
  | .fneg _ => some 0x3B
  | .frcp _ => some 0x3C
  | .frsq _ => some 0x3D
  | .fexp2 _ => some 0x3E
  | .flog2 _ => some 0x3F
  | .cvtF _ => some 0x40
  | .cvtIf _ => some 0x41
  | .cvtFi _ => some 0x42
  | .cvtNf _ => some 0x43
  | .cvtFn _ => some 0x44
  | .pack2 _ => some 0x45
  | .unpk _ => some 0x46
  | .scale _ => some 0x47
  | .ldW _ => some 0x48
  | .ldH _ => some 0x49
  | .ldHs _ => some 0x4A
  | .ldB _ => some 0x4B
  | .ldBs _ => some 0x4C
  | .stW _ => some 0x4D
  | .stH _ => some 0x4E
  | .stB _ => some 0x4F
  | .ldc _ => some 0x50
  | .ldP _ => some 0x51
  | .stP _ => some 0x52
  | .ldxW _ => some 0x53
  | .stxW _ => some 0x54
  | .lcas _ => some 0x55
  | .ladd _ => some 0x56
  | .emit _ => some 0x58
  | .stop _ => some 0x59
  | .fwd _ => some 0x5A
  | .drop _ => some 0x5B
  | .tagf _ => some 0x5C
  | .sclo _ => some 0x5D
  | .head _ => some 0x5E
  | .idle _ => some 0x5F
  | .vadd _ => some 0x60
  | .vsub _ => some 0x61
  | .vmul _ => some 0x62
  | .vfma _ => some 0x63
  | .vmin _ => some 0x64
  | .vmax _ => some 0x65
  | .vcmp _ => some 0x66
  | .vsel _ => some 0x67
  | .vand _ => some 0x68
  | .vor _ => some 0x69
  | .vxor _ => some 0x6A
  | .vshl _ => some 0x6B
  | .vshr _ => some 0x6C
  | .vcvt _ => some 0x6D
  | .vdot _ => some 0x6E
  | .vscale _ => some 0x6F
  | .vld _ => some 0x70
  | .vst _ => some 0x71
  | .vldx _ => some 0x72
  | .vstx _ => some 0x73
  | .vbcast _ => some 0x74
  | .vext _ => some 0x75
  | .vins _ => some 0x76
  | .vperm _ => some 0x77
  | .vredAdd _ => some 0x78
  | .vredMax _ => some 0x79
  | .vredMin _ => some 0x7A
  | .vscan _ => some 0x7B
  | .vpack _ => some 0x7C
  | .vunpk _ => some 0x7D
  | .vout _ => some 0x7E
  | .vin _ => some 0x7F
  | .mcfg _ => some 0x80
  | .mrun _ => some 0x81
  | .mdrain _ => some 0x82
  | .mclr _ => some 0x83
  | .mldk _ => some 0x84
  | .mstk _ => some 0x85
  | .mshape _ => some 0x86
  | .mpass _ => some 0x87
  | .mstat _ => some 0x88
  | .mfeed _ => some 0x89
  | .mscl _ => some 0x8A
  | .mfin _ => some 0x8B
  | .mfinAbort _ => some 0x8B
  | .rncv _ => some 0x90
  | .rnct _ => some 0x91
  | .rnadd _ => some 0x92
  | .rnsub _ => some 0x93
  | .rnmul _ => some 0x94
  | .rnmac _ => some 0x95
  | .rnneg _ => some 0x96
  | .vrncv _ => some 0x97
  | .vrnct _ => some 0x98
  | .vrnmac _ => some 0x99
  | .vrndot _ => some 0x9A
  | .gld _ => some 0xA0
  | .gst _ => some 0xA1
  | .gldA _ => some 0xA2
  | .gstL _ => some 0xA3
  | .pld _ => some 0xA4
  | .pst _ => some 0xA5
  | .pclr _ => some 0xA6
  | .pprb _ => some 0xA7
  | .fence _ => some 0xA8
  | .aupd _ => some 0xA9
  | .afet _ => some 0xAA
  | .acas _ => some 0xAB
  | .aapl _ => some 0xAC
  | .gldv _ => some 0xAD
  | .gldvP _ => some 0xAD
  | .gstv _ => some 0xAE
  | .gstvP _ => some 0xAE
  | .xrearm _ => some 0xAF
  | .strm _ => some 0xB0
  | .strmq _ => some 0xB1
  | .strmqCan _ => some 0xB1
  | .cntb _ => some 0xB2
  | .balc _ => some 0xB3
  | .bfre _ => some 0xB4
  | .barv _ => some 0xB5
  | .barvW _ => some 0xB5
  | .bwt _ => some 0xB6
  | .bwtW _ => some 0xB6
  | .btry _ => some 0xB7
  | .btryW _ => some 0xB7
  | .ecpy _ => some 0xB8
  | .ecmp _ => some 0xB9
  | .edcp _ => some 0xBA
  | .ecol _ => some 0xBB
  | .cjoin _ => some 0xBC
  | .lease _ => some 0xBD
  | .lrel _ => some 0xBE
  | .mbar _ => some 0xBF
  | .xst _ => some 0xC0
  | .xstv _ => some 0xC1
  | .xsig _ => some 0xC2
  | .xld _ => some 0xC3
  | .xwait _ => some 0xC4
  | .xfen _ => some 0xC5
  | .tspn _ => some 0xC8
  | .tdec _ => some 0xC9
  | .tdecRmt _ => some 0xC9
  | .tqry _ => some 0xCA
  | .lntl _ => some 0xD0
  | .lntlLast _ => some 0xD0
  | .gret _ => some 0xD1
  | .did _ => some 0xD2
  | .dpart _ => some 0xD3
  | .gate _ => some 0xD4
  | .cxld _ => some 0xD5
  | .cxul _ => some 0xD6
  | .cxq _ => some 0xD7
  | .ispz _ => some 0xD8
  | .unpz _ => some 0xD9
  | .cx code _ => some (0xE0 ||| BitVec.setWidth 8 code)
  | .trap _ => some 0xF0
  | .brk _ => some 0xF1
  | .park _ => some 0xF2
  | .wake _ => some 0xF3
  | .syrd _ => some 0xF4
  | .sywrFpstat _ => some 0xF5
  | .sywrResumeRetry _ => some 0xF5
  | .sywrResumeSkip _ => some 0xF5
  | .sywrGreg _ => some 0xF5
  | .sywrPortctlReplay _ => some 0xF5
  | .sywrPortctlAbandon _ => some 0xF5
  | .mark _ => some 0xF6
  | .save _ => some 0xF7
  | .rest _ => some 0xF8
  | .halt _ => some 0xF9
  | .longOperationComplete _ => none
  | .memoryResponse _ => none
  | .tokenSend _ => none
  | .tokenArrival _ => none
  | .creditReturn _ => none
  | .fanoutCopy _ => none
  | .branchSend _ _ => none
  | .quoinEmit _ _ => none
  | .gatePoisonDelivery _ _ => none
  | .scrubComplete _ => none
  | .kvalueEnter _ => none
  | .relayForward _ _ => none
  | .tileComplete _ => none
  | .drainTokenSend _ => none
  | .matrixMark _ => none
  | .queueDoorbell _ _ _ => none
  | .queueIdleUnmap _ _ => none
  | .spawn _ => none
  | .dec _ => none
  | .abort _ => none
  | .free _ => none
  | .regt _ => none
  | .unregt _ => none
  | .decrementApply _ => none
  | .stagingComplete _ _ => none
  | .deadlineExpiry _ _ => none
  | .agePromotion _ _ => none
  | .headBlock _ => none
  | .taskSelect _ _ => none
  | .tileLoadAck _ _ => none
  | .regionOpen _ _ => none
  | .quiescence _ => none
  | .reconfigTokenPass _ => none
  | .stallWatchdog _ => none
  | .streamEnd _ _ => none
  | .homeRequest _ => none
  | .walkComplete _ => none
  | .storeAck _ => none
  | .storeRefusal _ => none
  | .inboxEntry _ => none
  | .latchReply _ => none
  | .latchTimeout _ => none
  | .recoveryQuery _ => none
  | .streamStart _ _ => none
  | .streamEmit _ _ => none
  | .tagAck _ => none
  | .tagToken _ _ => none
  | .engineRun _ _ _ => none
  | .engineComplete _ _ _ => none
  | .leaseExpiry _ _ _ => none
  | .hostFetchadd _ _ _ => none
  | .hostBarrierWrite _ _ => none
  | .hostAccess _ => none
  | .trapRecordDelivery _ => none
  | .portReplay _ => none
  | .uncorrectableError _ => none
  | .markSend _ _ => none
  | .markArrival _ => none
  | .nodeAlign _ => none
  | .snapshotComplete _ => none
  | .wholeCoursePreempt _ => none
  | .psplit _ => none
  | .pmerge _ => none
  | .ppre _ => none
  | .kload _ _ => none
  | .kshare _ => none
  | .kfree _ => none
  | .inval _ => none
  | .ptear _ => none
  | .qreg _ => none
  | .qunreg _ => none
  | .fassign _ => none
  | .podgrant _ => none
  | .podrevoke _ => none
  | .podrt _ => none
  | .kctr _ _ => none
  | .kctrfree _ _ => none
  | .knonce _ => none
  | .kquote _ => none
  | .kseal _ => none
  | .kexport _ _ => none
  | .kopen _ => none
  | .atsCompletion _ => none
  | .pageRequestResponse _ _ => none
  | .flr _ => none
  | .tdiError _ => none
  | .powerIntervalEnd _ _ _ => none
  | .podRequestArrival _ => none
  | .remoteDecrement _ => none
  | .podLinkFailure _ => none
  | .coldReset _ _ _ => none
  | .dieAdmit _ => none
  | .clockSwitch => none
  | .warmRecalibration _ _ _ => none
  | .thermalThrottle _ _ => none
  | .thermalRecover _ _ => none
  | .thermalRemoval _ _ => none
  | .registerWrite _ => none
  | .psetCommand _ _ => none
  | .hbmodeWrite _ => none
  | .replyAcknowledgement _ => none
  | .powerCapExceeded _ _ => none
  | .dieFullService _ _ => none
  | .podLinkUp _ => none
  | .powerLoss => none
  | .correctableError _ => none
  | .atsInvalidationCompletion _ _ => none
  | .tdispRequest _ _ => none

/-- The operand classes of an instruction, from the operand tables of its group. -/
def Instr.shape : Instr → Shape
  | .nop _ => ⟨.unused, .unused, .unused, .zero⟩
  | .mov _ => ⟨.written, .scalar, .unused, .zero⟩
  | .li _ => ⟨.written, .constant, .constant, .constant⟩
  | .lui _ => ⟨.readWritten, .constant, .constant, .constant⟩
  | .add _ => ⟨.written, .scalar, .scalar, .immediate⟩
  | .sub _ => ⟨.written, .scalar, .scalar, .immediate⟩
  | .adds _ => ⟨.written, .scalar, .scalar, .immediate⟩
  | .subs _ => ⟨.written, .scalar, .scalar, .immediate⟩
  | .mul _ => ⟨.written, .scalar, .scalar, .immediate⟩
  | .mulhI32 _ => ⟨.written, .scalar, .scalar, .immediate⟩
  | .mulhN32 _ => ⟨.written, .scalar, .scalar, .immediate⟩
  | .mac _ => ⟨.readWritten, .scalar, .scalar, .immediate⟩
  | .divI32 _ => ⟨.written, .scalar, .scalar, .immediate⟩
  | .divN32 _ => ⟨.written, .scalar, .scalar, .immediate⟩
  | .modI32 _ => ⟨.written, .scalar, .scalar, .immediate⟩
  | .modN32 _ => ⟨.written, .scalar, .scalar, .immediate⟩
  | .and _ => ⟨.written, .scalar, .scalar, .immediate⟩
  | .or _ => ⟨.written, .scalar, .scalar, .immediate⟩
  | .xor _ => ⟨.written, .scalar, .scalar, .immediate⟩
  | .andn _ => ⟨.written, .scalar, .scalar, .immediate⟩
  | .shl _ => ⟨.written, .scalar, .scalar, .immediate⟩
  | .shr _ => ⟨.written, .scalar, .scalar, .immediate⟩
  | .sar _ => ⟨.written, .scalar, .scalar, .immediate⟩
  | .rol _ => ⟨.written, .scalar, .scalar, .immediate⟩
  | .clz _ => ⟨.written, .scalar, .unused, .zero⟩
  | .popc _ => ⟨.written, .scalar, .unused, .zero⟩
  | .brev _ => ⟨.written, .scalar, .unused, .zero⟩
  | .sext _ => ⟨.written, .scalar, .scalar, .immediate⟩
  | .zext _ => ⟨.written, .scalar, .scalar, .immediate⟩
  | .bfx _ => ⟨.written, .scalar, .scalar, .immediate⟩
  | .bfi _ => ⟨.readWritten, .scalar, .scalar, .immediate⟩
  | .sel _ => ⟨.written, .scalar, .scalar, .option⟩
  | .cmpEq _ => ⟨.written, .scalar, .scalar, .immediate⟩
  | .cmpNe _ => ⟨.written, .scalar, .scalar, .immediate⟩
  | .cmpLtI32 _ => ⟨.written, .scalar, .scalar, .immediate⟩
  | .cmpLeI32 _ => ⟨.written, .scalar, .scalar, .immediate⟩
  | .cmpLtN32 _ => ⟨.written, .scalar, .scalar, .immediate⟩
  | .cmpLeN32 _ => ⟨.written, .scalar, .scalar, .immediate⟩
  | .minI32 _ => ⟨.written, .scalar, .scalar, .immediate⟩
  | .maxI32 _ => ⟨.written, .scalar, .scalar, .immediate⟩
  | .minN32 _ => ⟨.written, .scalar, .scalar, .immediate⟩
  | .maxN32 _ => ⟨.written, .scalar, .scalar, .immediate⟩
  | .abs _ => ⟨.written, .scalar, .unused, .zero⟩
  | .neg _ => ⟨.written, .scalar, .unused, .zero⟩
  | .pset _ => ⟨.unused, .scalar, .scalar, .immediate⟩
  | .pget _ => ⟨.written, .unused, .unused, .zero⟩
  | .tst _ => ⟨.written, .scalar, .scalar, .immediate⟩
  | .lea _ => ⟨.written, .scalar, .scalar, .option⟩
  | .fadd _ => ⟨.written, .scalar, .scalar, .option⟩
  | .fsub _ => ⟨.written, .scalar, .scalar, .option⟩
  | .fmul _ => ⟨.written, .scalar, .scalar, .option⟩
  | .fma _ => ⟨.readWritten, .scalar, .scalar, .option⟩
  | .fmin _ => ⟨.written, .scalar, .scalar, .option⟩
  | .fmax _ => ⟨.written, .scalar, .scalar, .option⟩
  | .fcmpEq _ => ⟨.written, .scalar, .scalar, .option⟩
  | .fcmpLt _ => ⟨.written, .scalar, .scalar, .option⟩
  | .fcmpLe _ => ⟨.written, .scalar, .scalar, .option⟩
  | .fcmpUn _ => ⟨.written, .scalar, .scalar, .option⟩
  | .fabs _ => ⟨.written, .scalar, .unused, .zero⟩
  | .fneg _ => ⟨.written, .scalar, .unused, .zero⟩
  | .frcp _ => ⟨.written, .scalar, .unused, .zero⟩
  | .frsq _ => ⟨.written, .scalar, .unused, .zero⟩
  | .fexp2 _ => ⟨.written, .scalar, .unused, .zero⟩
  | .flog2 _ => ⟨.written, .scalar, .unused, .zero⟩
  | .cvtF f => ⟨.written, .scalar, (if f.imm.toNat % 8 = 1 then .scalar else .unused), .option⟩
  | .cvtIf _ => ⟨.written, .scalar, .unused, .option⟩
  | .cvtFi _ => ⟨.written, .scalar, .unused, .option⟩
  | .cvtNf _ => ⟨.written, .scalar, .scalar, .option⟩
  | .cvtFn _ => ⟨.readWritten, .scalar, .scalar, .option⟩
  | .pack2 _ => ⟨.written, .scalar, .scalar, .option⟩
  | .unpk _ => ⟨.written, .scalar, .unused, .option⟩
  | .scale _ => ⟨.written, .scalar, .scalar, .option⟩
  | .ldW _ => ⟨.written, .scalar, .scalar, .immediate⟩
  | .ldH _ => ⟨.written, .scalar, .scalar, .immediate⟩
  | .ldHs _ => ⟨.written, .scalar, .scalar, .immediate⟩
  | .ldB _ => ⟨.written, .scalar, .scalar, .immediate⟩
  | .ldBs _ => ⟨.written, .scalar, .scalar, .immediate⟩
  | .stW _ => ⟨.read, .scalar, .scalar, .immediate⟩
  | .stH _ => ⟨.read, .scalar, .scalar, .immediate⟩
  | .stB _ => ⟨.read, .scalar, .scalar, .immediate⟩
  | .ldc _ => ⟨.written, .scalar, .scalar, .immediate⟩
  | .ldP _ => ⟨.written, .scalar, .scalar, .immediate⟩
  | .stP _ => ⟨.read, .scalar, .scalar, .immediate⟩
  | .ldxW _ => ⟨.written, .scalar, .scalar, .immediate⟩
  | .stxW _ => ⟨.read, .scalar, .scalar, .immediate⟩
  | .lcas _ => ⟨.readWritten, .scalar, .scalar, .immediate⟩
  | .ladd _ => ⟨.written, .scalar, .scalar, .immediate⟩
  | .emit _ => ⟨.coOnly, .scalar, .unused, .option⟩
  | .stop _ => ⟨.coOnly, .scalar, .unused, .option⟩
  | .fwd _ => ⟨.coOnly, .ciOnly, .unused, .zero⟩
  | .drop _ => ⟨.unused, .unused, .unused, .option⟩
  | .tagf _ => ⟨.coOnly, .ciOnly, .unused, .option⟩
  | .sclo _ => ⟨.written, .scalar, .unused, .option⟩
  | .head _ => ⟨.written, .unused, .unused, .option⟩
  | .idle _ => ⟨.written, .scalar, .unused, .zero⟩
  | .vadd _ => ⟨.vecWritten, .vector, .vector, .option⟩
  | .vsub _ => ⟨.vecWritten, .vector, .vector, .option⟩
  | .vmul _ => ⟨.vecWritten, .vector, .vector, .option⟩
  | .vfma _ => ⟨.vecReadWritten, .vector, .vector, .option⟩
  | .vmin _ => ⟨.vecWritten, .vector, .vector, .option⟩
  | .vmax _ => ⟨.vecWritten, .vector, .vector, .option⟩
  | .vcmp _ => ⟨.vecWritten, .vector, .vector, .option⟩
  | .vsel _ => ⟨.vecReadWritten, .vector, .vector, .zero⟩
  | .vand _ => ⟨.vecWritten, .vector, .vector, .zero⟩
  | .vor _ => ⟨.vecWritten, .vector, .vector, .zero⟩
  | .vxor _ => ⟨.vecWritten, .vector, .vector, .zero⟩
  | .vshl _ => ⟨.vecWritten, .vector, .vector, .zero⟩
  | .vshr _ => ⟨.vecWritten, .vector, .vector, .option⟩
  | .vcvt f => ⟨.vecWritten, .vector, (if f.imm.toNat = 17 ∨ f.imm.toNat = 25 then .vector else .unused), .option⟩
  | .vdot f => ⟨.vecReadWritten, .vector, (if 4 ≤ f.imm.toNat % 8 then .vectorEven else .vector), .option⟩
  | .vscale _ => ⟨.vecWritten, .vector, .vector, .option⟩
  | .vld _ => ⟨.vecWritten, .scalar, .scalar, .immediate⟩
  | .vst _ => ⟨.vecRead, .scalar, .scalar, .immediate⟩
  | .vldx _ => ⟨.vecWritten, .scalar, .vector, .zero⟩
  | .vstx _ => ⟨.vecRead, .scalar, .vector, .zero⟩
  | .vbcast _ => ⟨.vecWritten, .scalar, .unused, .zero⟩
  | .vext _ => ⟨.written, .vector, .unused, .option⟩
  | .vins _ => ⟨.vecReadWritten, .scalar, .unused, .option⟩
  | .vperm _ => ⟨.vecWritten, .vector, .vector, .zero⟩
  | .vredAdd _ => ⟨.written, .vector, .scalar, .option⟩
  | .vredMax _ => ⟨.written, .vector, .scalar, .option⟩
  | .vredMin _ => ⟨.written, .vector, .scalar, .option⟩
  | .vscan _ => ⟨.vecWritten, .vector, .scalar, .option⟩
  | .vpack _ => ⟨.vecReadWritten, .vector, .scalar, .option⟩
  | .vunpk _ => ⟨.vecWritten, .vector, .scalar, .option⟩
  | .vout _ => ⟨.coOnly, .vector, .scalar, .option⟩
  | .vin _ => ⟨.vecReadWritten, .ciOnly, .scalar, .zero⟩
  | .mcfg _ => ⟨.unused, .scalar, .scalar, .zero⟩
  | .mrun _ => ⟨.unused, .unused, .unused, .zero⟩
  | .mdrain _ => ⟨.coOnly, .unused, .unused, .zero⟩
  | .mclr _ => ⟨.unused, .unused, .unused, .option⟩
  | .mldk _ => ⟨.acc, .scalar, .scalar, .immediate⟩
  | .mstk _ => ⟨.acc, .scalar, .scalar, .immediate⟩
  | .mshape _ => ⟨.unused, .scalar, .scalar, .zero⟩
  | .mpass _ => ⟨.unused, .scalar, .unused, .zero⟩
  | .mstat _ => ⟨.written, .unused, .unused, .option⟩
  | .mfeed _ => ⟨.unused, .vector, .vector, .zero⟩
  | .mscl _ => ⟨.unused, .vector, .unused, .zero⟩
  | .mfin _ => ⟨.written, .unused, .unused, .zero⟩
  | .mfinAbort _ => ⟨.written, .unused, .unused, .option⟩
  | .rncv _ => ⟨.written, .scalar, .unused, .option⟩
  | .rnct _ => ⟨.written, .scalar, .scalar, .option⟩
  | .rnadd _ => ⟨.written, .scalar, .scalar, .zero⟩
  | .rnsub _ => ⟨.written, .scalar, .scalar, .zero⟩
  | .rnmul _ => ⟨.written, .scalar, .scalar, .zero⟩
  | .rnmac _ => ⟨.readWritten, .scalar, .scalar, .zero⟩
  | .rnneg _ => ⟨.written, .scalar, .unused, .zero⟩
  | .vrncv _ => ⟨.vecWritten, .vector, .unused, .option⟩
  | .vrnct _ => ⟨.vecWritten, .vector, .scalar, .option⟩
  | .vrnmac _ => ⟨.vecReadWritten, .vector, .vector, .zero⟩
  | .vrndot _ => ⟨.vecReadWritten, .vector, .vector, .option⟩
  | .gld _ => ⟨.written, .pair, .scalar, .immediate⟩
  | .gst _ => ⟨.read, .pair, .scalar, .immediate⟩
  | .gldA _ => ⟨.written, .pair, .scalar, .option⟩
  | .gstL _ => ⟨.read, .pair, .scalar, .option⟩
  | .pld _ => ⟨.written, .pair, .scalar, .immediate⟩
  | .pst _ => ⟨.read, .pair, .scalar, .immediate⟩
  | .pclr _ => ⟨.written, .pair, .scalar, .zero⟩
  | .pprb _ => ⟨.written, .pair, .scalar, .immediate⟩
  | .fence _ => ⟨.unused, .unused, .unused, .option⟩
  | .aupd _ => ⟨.unused, .pair, .scalar, .option⟩
  | .afet _ => ⟨.written, .pair, .scalar, .option⟩
  | .acas _ => ⟨.readWritten, .pair, .scalar, .zero⟩
  | .aapl _ => ⟨.written, .scalar, .unused, .option⟩
  | .gldv _ => ⟨.vecWritten, .pair, .scalar, .zero⟩
  | .gldvP _ => ⟨.vecWritten, .pair, .scalar, .option⟩
  | .gstv _ => ⟨.vecRead, .pair, .scalar, .zero⟩
  | .gstvP _ => ⟨.vecRead, .pair, .scalar, .option⟩
  | .xrearm _ => ⟨.written, .scalar, .unused, .zero⟩
  | .strm _ => ⟨.written, .scalar, .scalar, .zero⟩
  | .strmq _ => ⟨.written, .unused, .scalar, .zero⟩
  | .strmqCan _ => ⟨.written, .unused, .scalar, .option⟩
  | .cntb _ => ⟨.written, .scalar, .unused, .option⟩
  | .balc _ => ⟨.written, .scalar, .unused, .zero⟩
  | .bfre _ => ⟨.unused, .scalar, .unused, .zero⟩
  | .barv _ => ⟨.written, .scalar, .scalar, .zero⟩
  | .barvW _ => ⟨.written, .pair, .scalar, .option⟩
  | .bwt _ => ⟨.written, .scalar, .scalar, .option⟩
  | .bwtW _ => ⟨.written, .pair, .scalar, .option⟩
  | .btry _ => ⟨.written, .scalar, .scalar, .option⟩
  | .btryW _ => ⟨.written, .pair, .scalar, .option⟩
  | .ecpy _ => ⟨.written, .scalar, .scalar, .zero⟩
  | .ecmp _ => ⟨.written, .scalar, .scalar, .zero⟩
  | .edcp _ => ⟨.written, .scalar, .scalar, .zero⟩
  | .ecol _ => ⟨.written, .scalar, .scalar, .zero⟩
  | .cjoin _ => ⟨.coOnly, .unused, .unused, .zero⟩
  | .lease _ => ⟨.written, .scalar, .scalar, .zero⟩
  | .lrel _ => ⟨.unused, .scalar, .unused, .zero⟩
  | .mbar _ => ⟨.unused, .pair, .scalar, .zero⟩
  | .xst _ => ⟨.read, .pair, .scalar, .zero⟩
  | .xstv _ => ⟨.vecRead, .pair, .scalar, .zero⟩
  | .xsig _ => ⟨.unused, .pair, .scalar, .option⟩
  | .xld _ => ⟨.written, .pair, .scalar, .zero⟩
  | .xwait _ => ⟨.written, .pair, .scalar, .immediate⟩
  | .xfen _ => ⟨.unused, .unused, .unused, .zero⟩
  | .tspn _ => ⟨.written, .scalar, .unused, .zero⟩
  | .tdec _ => ⟨.unused, .scalar, .unused, .option⟩
  | .tdecRmt _ => ⟨.unused, .scalar, .scalar, .option⟩
  | .tqry _ => ⟨.written, .scalar, .unused, .zero⟩
  | .lntl _ => ⟨.unused, .scalar, .unused, .option⟩
  | .lntlLast _ => ⟨.unused, .scalar, .unused, .option⟩
  | .gret _ => ⟨.unused, .scalar, .unused, .zero⟩
  | .did _ => ⟨.written, .scalar, .unused, .option⟩
  | .dpart _ => ⟨.written, .scalar, .scalar, .option⟩
  | .gate _ => ⟨.written, .scalar, .unused, .option⟩
  | .cxld _ => ⟨.written, .scalar, .unused, .zero⟩
  | .cxul _ => ⟨.written, .scalar, .unused, .zero⟩
  | .cxq _ => ⟨.written, .scalar, .unused, .zero⟩
  | .ispz _ => ⟨.written, .scalar, .unused, .zero⟩
  | .unpz _ => ⟨.written, .scalar, .unused, .zero⟩
  | .cx _ f => if f.imm = 1 then ⟨.vecWritten, .vector, .vector, .option⟩ else ⟨.written, .scalar, .scalar, .option⟩
  | .trap _ => ⟨.unused, .scalar, .unused, .zero⟩
  | .brk _ => ⟨.unused, .unused, .unused, .option⟩
  | .park _ => ⟨.unused, .unused, .unused, .zero⟩
  | .wake _ => ⟨.unused, .scalar, .unused, .zero⟩
  | .syrd _ => ⟨.written, .scalar, .unused, .option⟩
  | .sywrFpstat _ => ⟨.unused, .scalar, .scalar, .option⟩
  | .sywrResumeRetry _ => ⟨.unused, .scalar, .scalar, .option⟩
  | .sywrResumeSkip _ => ⟨.unused, .scalar, .scalar, .option⟩
  | .sywrGreg _ => ⟨.unused, .scalar, .scalar, .option⟩
  | .sywrPortctlReplay _ => ⟨.unused, .scalar, .scalar, .option⟩
  | .sywrPortctlAbandon _ => ⟨.unused, .scalar, .scalar, .option⟩
  | .mark _ => ⟨.written, .scalar, .unused, .zero⟩
  | .save _ => ⟨.written, .pair, .scalar, .zero⟩
  | .rest _ => ⟨.written, .pair, .scalar, .zero⟩
  | .halt _ => ⟨.unused, .scalar, .unused, .zero⟩
  | .longOperationComplete _ => {}
  | .memoryResponse _ => {}
  | .tokenSend _ => {}
  | .tokenArrival _ => {}
  | .creditReturn _ => {}
  | .fanoutCopy _ => {}
  | .branchSend _ _ => {}
  | .quoinEmit _ _ => {}
  | .gatePoisonDelivery _ _ => {}
  | .scrubComplete _ => {}
  | .kvalueEnter _ => {}
  | .relayForward _ _ => {}
  | .tileComplete _ => {}
  | .drainTokenSend _ => {}
  | .matrixMark _ => {}
  | .queueDoorbell _ _ _ => {}
  | .queueIdleUnmap _ _ => {}
  | .spawn _ => {}
  | .dec _ => {}
  | .abort _ => {}
  | .free _ => {}
  | .regt _ => {}
  | .unregt _ => {}
  | .decrementApply _ => {}
  | .stagingComplete _ _ => {}
  | .deadlineExpiry _ _ => {}
  | .agePromotion _ _ => {}
  | .headBlock _ => {}
  | .taskSelect _ _ => {}
  | .tileLoadAck _ _ => {}
  | .regionOpen _ _ => {}
  | .quiescence _ => {}
  | .reconfigTokenPass _ => {}
  | .stallWatchdog _ => {}
  | .streamEnd _ _ => {}
  | .homeRequest _ => {}
  | .walkComplete _ => {}
  | .storeAck _ => {}
  | .storeRefusal _ => {}
  | .inboxEntry _ => {}
  | .latchReply _ => {}
  | .latchTimeout _ => {}
  | .recoveryQuery _ => {}
  | .streamStart _ _ => {}
  | .streamEmit _ _ => {}
  | .tagAck _ => {}
  | .tagToken _ _ => {}
  | .engineRun _ _ _ => {}
  | .engineComplete _ _ _ => {}
  | .leaseExpiry _ _ _ => {}
  | .hostFetchadd _ _ _ => {}
  | .hostBarrierWrite _ _ => {}
  | .hostAccess _ => {}
  | .trapRecordDelivery _ => {}
  | .portReplay _ => {}
  | .uncorrectableError _ => {}
  | .markSend _ _ => {}
  | .markArrival _ => {}
  | .nodeAlign _ => {}
  | .snapshotComplete _ => {}
  | .wholeCoursePreempt _ => {}
  | .psplit _ => {}
  | .pmerge _ => {}
  | .ppre _ => {}
  | .kload _ _ => {}
  | .kshare _ => {}
  | .kfree _ => {}
  | .inval _ => {}
  | .ptear _ => {}
  | .qreg _ => {}
  | .qunreg _ => {}
  | .fassign _ => {}
  | .podgrant _ => {}
  | .podrevoke _ => {}
  | .podrt _ => {}
  | .kctr _ _ => {}
  | .kctrfree _ _ => {}
  | .knonce _ => {}
  | .kquote _ => {}
  | .kseal _ => {}
  | .kexport _ _ => {}
  | .kopen _ => {}
  | .atsCompletion _ => {}
  | .pageRequestResponse _ _ => {}
  | .flr _ => {}
  | .tdiError _ => {}
  | .powerIntervalEnd _ _ _ => {}
  | .podRequestArrival _ => {}
  | .remoteDecrement _ => {}
  | .podLinkFailure _ => {}
  | .coldReset _ _ _ => {}
  | .dieAdmit _ => {}
  | .clockSwitch => {}
  | .warmRecalibration _ _ _ => {}
  | .thermalThrottle _ _ => {}
  | .thermalRecover _ _ => {}
  | .thermalRemoval _ _ => {}
  | .registerWrite _ => {}
  | .psetCommand _ _ => {}
  | .hbmodeWrite _ => {}
  | .replyAcknowledgement _ => {}
  | .powerCapExceeded _ _ => {}
  | .dieFullService _ _ => {}
  | .podLinkUp _ => {}
  | .powerLoss => {}
  | .correctableError _ => {}
  | .atsInvalidationCompletion _ _ => {}
  | .tdispRequest _ _ => {}

/-- The option fields an instruction defines, as a test of the number in IMM6 (R87, R88). -/
def Instr.optionOk : Instr → Nat → Bool
  | .nop _, _ => true
  | .mov _, _ => true
  | .li _, _ => true
  | .lui _, _ => true
  | .add _, _ => true
  | .sub _, _ => true
  | .adds _, _ => true
  | .subs _, _ => true
  | .mul _, _ => true
  | .mulhI32 _, _ => true
  | .mulhN32 _, _ => true
  | .mac _, _ => true
  | .divI32 _, _ => true
  | .divN32 _, _ => true
  | .modI32 _, _ => true
  | .modN32 _, _ => true
  | .and _, _ => true
  | .or _, _ => true
  | .xor _, _ => true
  | .andn _, _ => true
  | .shl _, _ => true
  | .shr _, _ => true
  | .sar _, _ => true
  | .rol _, _ => true
  | .clz _, _ => true
  | .popc _, _ => true
  | .brev _, _ => true
  | .sext _, _ => true
  | .zext _, _ => true
  | .bfx _, _ => true
  | .bfi _, _ => true
  | .sel _, n => decide (n < 8)
  | .cmpEq _, _ => true
  | .cmpNe _, _ => true
  | .cmpLtI32 _, _ => true
  | .cmpLeI32 _, _ => true
  | .cmpLtN32 _, _ => true
  | .cmpLeN32 _, _ => true
  | .minI32 _, _ => true
  | .maxI32 _, _ => true
  | .minN32 _, _ => true
  | .maxN32 _, _ => true
  | .abs _, _ => true
  | .neg _, _ => true
  | .pset _, _ => true
  | .pget _, _ => true
  | .tst _, _ => true
  | .lea _, n => decide (n < 8)
  | .fadd _, n => decide (n < 4)
  | .fsub _, n => decide (n < 4)
  | .fmul _, n => decide (n < 4)
  | .fma _, n => decide (n < 4)
  | .fmin _, n => decide (n = 0)
  | .fmax _, n => decide (n = 0)
  | .fcmpEq _, n => decide (n = 0)
  | .fcmpLt _, n => decide (n = 0)
  | .fcmpLe _, n => decide (n = 0)
  | .fcmpUn _, n => decide (n = 0)
  | .fabs _, _ => true
  | .fneg _, _ => true
  | .frcp _, _ => true
  | .frsq _, _ => true
  | .fexp2 _, _ => true
  | .flog2 _, _ => true
  | .cvtF _, n => [17, 25, 10, 11, 26, 19].contains n
  | .cvtIf _, n => decide (n < 8)
  | .cvtFi _, n => decide (n < 8)
  | .cvtNf _, n => (decide (n % 8 = 4 ∨ n % 8 = 5) && decide (n / 8 < 4)) || (decide (n % 8 = 6) && decide (n / 8 < 5))
  | .cvtFn _, n => (decide (n % 8 = 4 ∨ n % 8 = 5) && decide (n / 8 < 4)) || (decide (n % 8 = 6) && decide (n / 8 < 5))
  | .pack2 _, n => [0, 2, 3].contains n
  | .unpk _, n => decide (n < 16) && !(decide (n / 4 % 2 = 1) && decide (n % 4 ≥ 2))
  | .scale _, n => decide (n < 4)
  | .ldW _, _ => true
  | .ldH _, _ => true
  | .ldHs _, _ => true
  | .ldB _, _ => true
  | .ldBs _, _ => true
  | .stW _, _ => true
  | .stH _, _ => true
  | .stB _, _ => true
  | .ldc _, _ => true
  | .ldP _, _ => true
  | .stP _, _ => true
  | .ldxW _, _ => true
  | .stxW _, _ => true
  | .lcas _, _ => true
  | .ladd _, _ => true
  | .emit _, n => decide (n < 8) || [12, 13, 14, 56].contains n
  | .stop _, n => decide (1 ≤ n ∧ n ≤ 3)
  | .fwd _, _ => true
  | .drop _, n => decide (1 ≤ n ∧ n ≤ 3)
  | .tagf _, n => decide (n < 8)
  | .sclo _, n => decide (4 ≤ n ∧ n ≤ 6)
  | .head _, n => decide (n < 8)
  | .idle _, _ => true
  | .vadd _, n => decide (n = 0) || (decide (n < 32) && decide (1 ≤ n % 8 ∧ n % 8 ≤ 3))
  | .vsub _, n => decide (n = 0) || (decide (n < 32) && decide (1 ≤ n % 8 ∧ n % 8 ≤ 3))
  | .vmul _, n => decide (n = 0) || (decide (n < 32) && decide (1 ≤ n % 8 ∧ n % 8 ≤ 3))
  | .vfma _, n => decide (n = 0) || (decide (n < 32) && decide (1 ≤ n % 8 ∧ n % 8 ≤ 3))
  | .vmin _, n => [0, 8, 1, 2, 3].contains n
  | .vmax _, n => [0, 8, 1, 2, 3].contains n
  | .vcmp _, n => decide (n % 8 ≤ 3) && (decide (n / 8 ≤ 3) || (decide (n / 8 = 4) && decide (n % 8 ≠ 0)) || (decide (n / 8 = 5 ∨ n / 8 = 6) && decide (n % 8 = 0)))
  | .vsel _, _ => true
  | .vand _, _ => true
  | .vor _, _ => true
  | .vxor _, _ => true
  | .vshl _, _ => true
  | .vshr _, n => [0, 8].contains n
  | .vcvt _, n => [17, 25, 10, 11, 26, 19, 8, 1].contains n
  | .vdot _, n => [0, 8].contains n || (decide (n < 32) && decide (n % 8 = 2 ∨ n % 8 = 3)) || [4, 5, 6].contains n
  | .vscale _, n => decide (n < 32) && decide (1 ≤ n % 8 ∧ n % 8 ≤ 3)
  | .vld _, _ => true
  | .vst _, _ => true
  | .vldx _, _ => true
  | .vstx _, _ => true
  | .vbcast _, _ => true
  | .vext _, n => decide (n < 16)
  | .vins _, n => decide (n < 16)
  | .vperm _, _ => true
  | .vredAdd _, n => decide (n = 0) || (decide (n < 32) && decide (n % 8 = 1))
  | .vredMax _, n => [0, 1, 32].contains n
  | .vredMin _, n => [0, 1, 32].contains n
  | .vscan _, n => decide (n = 0) || (decide (n < 32) && decide (n % 8 = 1))
  | .vpack _, n => decide (n < 16) && decide (4 ≤ n % 8 ∧ n % 8 ≤ 6)
  | .vunpk _, n => decide (n < 16) && decide (4 ≤ n % 8 ∧ n % 8 ≤ 6)
  | .vout _, n => decide (n < 8)
  | .vin _, _ => true
  | .mcfg _, _ => true
  | .mrun _, _ => true
  | .mdrain _, _ => true
  | .mclr _, n => decide (1 ≤ n ∧ n < 16)
  | .mldk _, _ => true
  | .mstk _, _ => true
  | .mshape _, _ => true
  | .mpass _, _ => true
  | .mstat _, n => decide (n < 8)
  | .mfeed _, _ => true
  | .mscl _, _ => true
  | .mfin _, _ => true
  | .mfinAbort _, n => decide (n = 1)
  | .rncv _, n => decide (n < 3)
  | .rnct _, n => decide (n < 8) && decide (n % 4 ≠ 3)
  | .rnadd _, _ => true
  | .rnsub _, _ => true
  | .rnmul _, _ => true
  | .rnmac _, _ => true
  | .rnneg _, _ => true
  | .vrncv _, n => decide (n < 3)
  | .vrnct _, n => decide (n < 8) && decide (n % 4 ≠ 3)
  | .vrnmac _, _ => true
  | .vrndot _, n => decide (n < 2)
  | .gld _, _ => true
  | .gst _, _ => true
  | .gldA _, n => decide (n < 7)
  | .gstL _, n => decide (n < 7)
  | .pld _, _ => true
  | .pst _, _ => true
  | .pclr _, _ => true
  | .pprb _, _ => true
  | .fence _, n => decide (n < 7)
  | .aupd _, n => decide (n % 16 < 12) && (decide (n / 16 = 0) || decide (n % 16 = 9))
  | .afet _, n => decide (n % 16 < 12) && (decide (n / 16 = 0) || decide (n % 16 = 9))
  | .acas _, _ => true
  | .aapl _, n => decide (n < 4)
  | .gldv _, _ => true
  | .gldvP _, n => decide (n = 1)
  | .gstv _, _ => true
  | .gstvP _, n => decide (n = 1)
  | .xrearm _, _ => true
  | .strm _, _ => true
  | .strmq _, _ => true
  | .strmqCan _, n => decide (n = 1)
  | .cntb _, _ => true
  | .balc _, _ => true
  | .bfre _, _ => true
  | .barv _, _ => true
  | .barvW _, n => decide (n = 1)
  | .bwt _, n => [0, 2].contains n
  | .bwtW _, n => [1, 3].contains n
  | .btry _, n => [0, 2].contains n
  | .btryW _, n => [1, 3].contains n
  | .ecpy _, _ => true
  | .ecmp _, _ => true
  | .edcp _, _ => true
  | .ecol _, _ => true
  | .cjoin _, _ => true
  | .lease _, _ => true
  | .lrel _, _ => true
  | .mbar _, _ => true
  | .xst _, _ => true
  | .xstv _, _ => true
  | .xsig _, n => decide (1 ≤ n)
  | .xld _, _ => true
  | .xwait _, _ => true
  | .xfen _, _ => true
  | .tspn _, _ => true
  | .tdec _, n => [0, 2].contains n
  | .tdecRmt _, n => [1, 3].contains n
  | .tqry _, _ => true
  | .lntl _, n => decide (n / 8 % 2 = 0)
  | .lntlLast _, n => decide (n / 8 % 2 = 1)
  | .gret _, _ => true
  | .did _, n => decide (n < 6)
  | .dpart _, n => decide (n < 3)
  | .gate _, n => decide (n < 8)
  | .cxld _, _ => true
  | .cxul _, _ => true
  | .cxq _, _ => true
  | .ispz _, _ => true
  | .unpz _, _ => true
  | .cx _ _, n => decide (n < 2)
  | .trap _, _ => true
  | .brk _, _ => true
  | .park _, _ => true
  | .wake _, _ => true
  | .syrd _, n => decide (n ≤ 17) || decide (32 ≤ n ∧ n ≤ 49)
  | .sywrFpstat _, n => decide (n = 2)
  | .sywrResumeRetry _, n => decide (n = 3)
  | .sywrResumeSkip _, n => decide (n = 3)
  | .sywrGreg _, n => (decide (n ≤ 17) || decide (32 ≤ n ∧ n ≤ 49)) && !([2, 3, 49].contains n)
  | .sywrPortctlReplay _, n => decide (n = 49)
  | .sywrPortctlAbandon _, n => decide (n = 49)
  | .mark _, _ => true
  | .save _, _ => true
  | .rest _, _ => true
  | .halt _, _ => true
  | .longOperationComplete _, _ => true
  | .memoryResponse _, _ => true
  | .tokenSend _, _ => true
  | .tokenArrival _, _ => true
  | .creditReturn _, _ => true
  | .fanoutCopy _, _ => true
  | .branchSend _ _, _ => true
  | .quoinEmit _ _, _ => true
  | .gatePoisonDelivery _ _, _ => true
  | .scrubComplete _, _ => true
  | .kvalueEnter _, _ => true
  | .relayForward _ _, _ => true
  | .tileComplete _, _ => true
  | .drainTokenSend _, _ => true
  | .matrixMark _, _ => true
  | .queueDoorbell _ _ _, _ => true
  | .queueIdleUnmap _ _, _ => true
  | .spawn _, _ => true
  | .dec _, _ => true
  | .abort _, _ => true
  | .free _, _ => true
  | .regt _, _ => true
  | .unregt _, _ => true
  | .decrementApply _, _ => true
  | .stagingComplete _ _, _ => true
  | .deadlineExpiry _ _, _ => true
  | .agePromotion _ _, _ => true
  | .headBlock _, _ => true
  | .taskSelect _ _, _ => true
  | .tileLoadAck _ _, _ => true
  | .regionOpen _ _, _ => true
  | .quiescence _, _ => true
  | .reconfigTokenPass _, _ => true
  | .stallWatchdog _, _ => true
  | .streamEnd _ _, _ => true
  | .homeRequest _, _ => true
  | .walkComplete _, _ => true
  | .storeAck _, _ => true
  | .storeRefusal _, _ => true
  | .inboxEntry _, _ => true
  | .latchReply _, _ => true
  | .latchTimeout _, _ => true
  | .recoveryQuery _, _ => true
  | .streamStart _ _, _ => true
  | .streamEmit _ _, _ => true
  | .tagAck _, _ => true
  | .tagToken _ _, _ => true
  | .engineRun _ _ _, _ => true
  | .engineComplete _ _ _, _ => true
  | .leaseExpiry _ _ _, _ => true
  | .hostFetchadd _ _ _, _ => true
  | .hostBarrierWrite _ _, _ => true
  | .hostAccess _, _ => true
  | .trapRecordDelivery _, _ => true
  | .portReplay _, _ => true
  | .uncorrectableError _, _ => true
  | .markSend _ _, _ => true
  | .markArrival _, _ => true
  | .nodeAlign _, _ => true
  | .snapshotComplete _, _ => true
  | .wholeCoursePreempt _, _ => true
  | .psplit _, _ => true
  | .pmerge _, _ => true
  | .ppre _, _ => true
  | .kload _ _, _ => true
  | .kshare _, _ => true
  | .kfree _, _ => true
  | .inval _, _ => true
  | .ptear _, _ => true
  | .qreg _, _ => true
  | .qunreg _, _ => true
  | .fassign _, _ => true
  | .podgrant _, _ => true
  | .podrevoke _, _ => true
  | .podrt _, _ => true
  | .kctr _ _, _ => true
  | .kctrfree _ _, _ => true
  | .knonce _, _ => true
  | .kquote _, _ => true
  | .kseal _, _ => true
  | .kexport _ _, _ => true
  | .kopen _, _ => true
  | .atsCompletion _, _ => true
  | .pageRequestResponse _ _, _ => true
  | .flr _, _ => true
  | .tdiError _, _ => true
  | .powerIntervalEnd _ _ _, _ => true
  | .podRequestArrival _, _ => true
  | .remoteDecrement _, _ => true
  | .podLinkFailure _, _ => true
  | .coldReset _ _ _, _ => true
  | .dieAdmit _, _ => true
  | .clockSwitch, _ => true
  | .warmRecalibration _ _ _, _ => true
  | .thermalThrottle _ _, _ => true
  | .thermalRecover _ _, _ => true
  | .thermalRemoval _ _, _ => true
  | .registerWrite _, _ => true
  | .psetCommand _ _, _ => true
  | .hbmodeWrite _, _ => true
  | .replyAcknowledgement _, _ => true
  | .powerCapExceeded _ _, _ => true
  | .dieFullService _ _, _ => true
  | .podLinkUp _, _ => true
  | .powerLoss, _ => true
  | .correctableError _, _ => true
  | .atsInvalidationCompletion _ _, _ => true
  | .tdispRequest _ _, _ => true

end Sys2Proof
end

