-- ==== Sys2Proof/WellFormed.lean ====
section
/-! DEFINITION. The checks that load validation makes of one instruction word by itself (R44, R82, R84, R85, R87, R92).
The checks that need the course, the domain or the die are made at the load (Machine/Load.lean). -/

namespace Sys2Proof

/-- PVAL has no bit outside PMASK, and PSEL is 0 where POP is (R44, R82). -/
def Fields.predOk (f : Fields) : Bool :=
  decide (f.pval &&& ~~~f.pmask = 0) && (decide (f.pop ≠ 0) || decide (f.psel = 0))

/-- A channel test names ci0-ci3, or no channel with kind 7 (R44). -/
def chanOk (c k : BitVec 3) : Bool := decide (c.toNat < 4) || (decide (c = 7) && decide (k = 7))

/-- The channel tests and pops of a word are legal together (R44). -/
def Fields.chansOk (f : Fields) : Bool :=
  chanOk f.cha f.ka && chanOk f.chb f.kb
    && !(f.dqa && decide (f.cha = 7)) && !(f.dqb && decide (f.chb = 7))
    && !(decide (f.cha = f.chb) && f.dqa && f.dqb)
    && !(decide (f.cha = f.chb) && decide (f.cha ≠ 7) && decide (f.ka ≠ f.kb) && decide (f.ka ≠ 7) && decide (f.kb ≠ 7))

/-- A DST code is legal in its class (R83, R84). -/
def dstOk (c : DstClass) (cha : BitVec 3) (x : BitVec 5) : Bool :=
  let n := x.toNat
  match c with
  | .unused => decide (n = 0)
  | .written => decide (n < 16) || decide (20 ≤ n ∧ n ≤ 28)
  | .read => decide (n < 20) || decide (24 ≤ n ∧ n ≤ 28) || (decide (n = 29) && decide (cha ≠ 7)) || decide (n = 30)
  | .readWritten => decide (n < 16) || decide (n = 28)
  | .coOnly => decide (20 ≤ n ∧ n ≤ 23)
  | .vecWritten => true
  | .vecRead => true
  | .vecReadWritten => true
  | .acc => decide (n < 4)

/-- A source code is legal in its class (R83, R84, R87, R304); `imm` says that code 31 names the immediate. -/
def srcOk (c : SrcClass) (imm : Bool) (cha : BitVec 3) (x : BitVec 5) : Bool :=
  let n := x.toNat
  match c with
  | .unused => decide (n = 0)
  | .scalar =>
    decide (n < 20) || decide (24 ≤ n ∧ n ≤ 28) || (decide (n = 29) && decide (cha ≠ 7)) || decide (n = 30)
      || (imm && decide (n = 31))
  | .constant => true
  | .ciOnly => decide (16 ≤ n ∧ n ≤ 19)
  | .vector => true
  | .vectorEven => decide (n % 2 = 0)
  | .pair => decide (n < 16) && decide (n % 2 = 0)

/-- IMM6 is legal in its role (R87). -/
def immOk (i : Instr) (f : Fields) : Bool :=
  match i.shape.imm with
  | .zero => decide (f.imm = 0)
  | .immediate => decide (f.sb = 31) || decide (f.imm = 0)
  | .constant => true
  | .option => i.optionOk f.imm.toNat

/-- No mailbox is both a source and a written DST (R85). -/
def mboxOk (s : Shape) (f : Fields) : Bool :=
  !(decide (s.dst = .written) && decide (24 ≤ f.dst.toNat ∧ f.dst.toNat ≤ 27)
    && ((decide (s.sa = .scalar) && decide (f.sa = f.dst)) || (decide (s.sb = .scalar) && decide (f.sb = f.dst))))

/-- The conditions that single opcodes put on the guard and POP (R36, R134, R366). -/
def guardOk (i : Instr) : Bool :=
  match i with
  | .drop f => decide (f.cha ≠ 7) && decide (f.ka = 7) && f.dqa
  | .cjoin f =>
    decide (f.cha ≠ 7) && decide (f.ka = 7) && f.dqa
      && (decide (f.chb = 7) || (decide (f.kb = 7) && f.dqb && decide (f.cha ≠ f.chb)))
  | .gret f => decide (f.pop = 0)
  | _ => true

/-- The checks of one word (R44, R82, R84, R85, R87). A step that no node issues has no word and nothing to check. -/
def Instr.wf (i : Instr) : Bool :=
  match i.fields with
  | none => true
  | some f =>
    f.predOk && f.chansOk
      && dstOk i.shape.dst f.cha f.dst
      && srcOk i.shape.sa false f.cha f.sa
      && srcOk i.shape.sb (decide (i.shape.imm = .immediate)) f.cha f.sb
      && immOk i f && mboxOk i.shape f && guardOk i

end Sys2Proof
end

