-- ==== Sys2Proof/Decode.lean ====
section
/-! DEFINITION. The decoder: from a 64-bit word to the instruction it stands for, or the reason it stands for none
(R80, R89, R92); and the encoder, from the same layout. -/

namespace Sys2Proof

/-- Why a word is no instruction (R44, R92). Every one of these fails the load with CFG_ILLEGAL. -/
inductive DecodeError where
  /-- OPC is a reserved code of the opcode map (R89) -/
  | reservedOpcode
  /-- OPC is 0xFF (R89, R94) -/
  | ill
  /-- a field, operand, test or pop breaks R44, R82, R84, R85 or R87 -/
  | illegalField
deriving DecidableEq, Repr, Inhabited

/-- OPC of a word (R80). -/
def opcodeOf (w : DWord) : BitVec 8 := w.extractLsb' 28 8

/-- The other fields of a word (R80). -/
def fieldsOf (w : DWord) : Fields where
  pmask := w.extractLsb' 56 8
  pval := w.extractLsb' 48 8
  cha := w.extractLsb' 45 3
  ka := w.extractLsb' 42 3
  chb := w.extractLsb' 39 3
  kb := w.extractLsb' 36 3
  dst := w.extractLsb' 23 5
  sa := w.extractLsb' 18 5
  sb := w.extractLsb' 13 5
  dqa := w.getLsbD 12
  dqb := w.getLsbD 11
  psel := w.extractLsb' 8 3
  pop := w.extractLsb' 6 2
  imm := w.extractLsb' 0 6


/-- Rows of the opcode map from 0x00 to 0x1F (R89). Where several instructions share an opcode, an option bit of IMM6 tells them apart. -/
def opRows0 : List (Nat × (Fields → Instr)) :=
  [(0x00, .nop),
   (0x01, .mov),
   (0x02, .li),
   (0x03, .lui),
   (0x04, .add),
   (0x05, .sub),
   (0x06, .adds),
   (0x07, .subs),
   (0x08, .mul),
   (0x09, .mulhI32),
   (0x0A, .mulhN32),
   (0x0B, .mac),
   (0x0C, .divI32),
   (0x0D, .divN32),
   (0x0E, .modI32),
   (0x0F, .modN32),
   (0x10, .and),
   (0x11, .or),
   (0x12, .xor),
   (0x13, .andn),
   (0x14, .shl),
   (0x15, .shr),
   (0x16, .sar),
   (0x17, .rol),
   (0x18, .clz),
   (0x19, .popc),
   (0x1A, .brev),
   (0x1B, .sext),
   (0x1C, .zext),
   (0x1D, .bfx),
   (0x1E, .bfi),
   (0x1F, .sel)]

/-- Rows of the opcode map from 0x20 to 0x3F (R89). Where several instructions share an opcode, an option bit of IMM6 tells them apart. -/
def opRows1 : List (Nat × (Fields → Instr)) :=
  [(0x20, .cmpEq),
   (0x21, .cmpNe),
   (0x22, .cmpLtI32),
   (0x23, .cmpLeI32),
   (0x24, .cmpLtN32),
   (0x25, .cmpLeN32),
   (0x26, .minI32),
   (0x27, .maxI32),
   (0x28, .minN32),
   (0x29, .maxN32),
   (0x2A, .abs),
   (0x2B, .neg),
   (0x2C, .pset),
   (0x2D, .pget),
   (0x2E, .tst),
   (0x2F, .lea),
   (0x30, .fadd),
   (0x31, .fsub),
   (0x32, .fmul),
   (0x33, .fma),
   (0x34, .fmin),
   (0x35, .fmax),
   (0x36, .fcmpEq),
   (0x37, .fcmpLt),
   (0x38, .fcmpLe),
   (0x39, .fcmpUn),
   (0x3A, .fabs),
   (0x3B, .fneg),
   (0x3C, .frcp),
   (0x3D, .frsq),
   (0x3E, .fexp2),
   (0x3F, .flog2)]

/-- Rows of the opcode map from 0x40 to 0x60 (R89). Where several instructions share an opcode, an option bit of IMM6 tells them apart. -/
def opRows2 : List (Nat × (Fields → Instr)) :=
  [(0x40, .cvtF),
   (0x41, .cvtIf),
   (0x42, .cvtFi),
   (0x43, .cvtNf),
   (0x44, .cvtFn),
   (0x45, .pack2),
   (0x46, .unpk),
   (0x47, .scale),
   (0x48, .ldW),
   (0x49, .ldH),
   (0x4A, .ldHs),
   (0x4B, .ldB),
   (0x4C, .ldBs),
   (0x4D, .stW),
   (0x4E, .stH),
   (0x4F, .stB),
   (0x50, .ldc),
   (0x51, .ldP),
   (0x52, .stP),
   (0x53, .ldxW),
   (0x54, .stxW),
   (0x55, .lcas),
   (0x56, .ladd),
   (0x58, .emit),
   (0x59, .stop),
   (0x5A, .fwd),
   (0x5B, .drop),
   (0x5C, .tagf),
   (0x5D, .sclo),
   (0x5E, .head),
   (0x5F, .idle),
   (0x60, .vadd)]

/-- Rows of the opcode map from 0x61 to 0x80 (R89). Where several instructions share an opcode, an option bit of IMM6 tells them apart. -/
def opRows3 : List (Nat × (Fields → Instr)) :=
  [(0x61, .vsub),
   (0x62, .vmul),
   (0x63, .vfma),
   (0x64, .vmin),
   (0x65, .vmax),
   (0x66, .vcmp),
   (0x67, .vsel),
   (0x68, .vand),
   (0x69, .vor),
   (0x6A, .vxor),
   (0x6B, .vshl),
   (0x6C, .vshr),
   (0x6D, .vcvt),
   (0x6E, .vdot),
   (0x6F, .vscale),
   (0x70, .vld),
   (0x71, .vst),
   (0x72, .vldx),
   (0x73, .vstx),
   (0x74, .vbcast),
   (0x75, .vext),
   (0x76, .vins),
   (0x77, .vperm),
   (0x78, .vredAdd),
   (0x79, .vredMax),
   (0x7A, .vredMin),
   (0x7B, .vscan),
   (0x7C, .vpack),
   (0x7D, .vunpk),
   (0x7E, .vout),
   (0x7F, .vin),
   (0x80, .mcfg)]

/-- Rows of the opcode map from 0x81 to 0xA9 (R89). Where several instructions share an opcode, an option bit of IMM6 tells them apart. -/
def opRows4 : List (Nat × (Fields → Instr)) :=
  [(0x81, .mrun),
   (0x82, .mdrain),
   (0x83, .mclr),
   (0x84, .mldk),
   (0x85, .mstk),
   (0x86, .mshape),
   (0x87, .mpass),
   (0x88, .mstat),
   (0x89, .mfeed),
   (0x8A, .mscl),
   (0x8B, fun f => if f.imm.getLsbD 0 then .mfinAbort f else .mfin f),
   (0x90, .rncv),
   (0x91, .rnct),
   (0x92, .rnadd),
   (0x93, .rnsub),
   (0x94, .rnmul),
   (0x95, .rnmac),
   (0x96, .rnneg),
   (0x97, .vrncv),
   (0x98, .vrnct),
   (0x99, .vrnmac),
   (0x9A, .vrndot),
   (0xA0, .gld),
   (0xA1, .gst),
   (0xA2, .gldA),
   (0xA3, .gstL),
   (0xA4, .pld),
   (0xA5, .pst),
   (0xA6, .pclr),
   (0xA7, .pprb),
   (0xA8, .fence),
   (0xA9, .aupd)]

/-- Rows of the opcode map from 0xAA to 0xD0 (R89). Where several instructions share an opcode, an option bit of IMM6 tells them apart. -/
def opRows5 : List (Nat × (Fields → Instr)) :=
  [(0xAA, .afet),
   (0xAB, .acas),
   (0xAC, .aapl),
   (0xAD, fun f => if f.imm.getLsbD 0 then .gldvP f else .gldv f),
   (0xAE, fun f => if f.imm.getLsbD 0 then .gstvP f else .gstv f),
   (0xAF, .xrearm),
   (0xB0, .strm),
   (0xB1, fun f => if f.imm.getLsbD 0 then .strmqCan f else .strmq f),
   (0xB2, .cntb),
   (0xB3, .balc),
   (0xB4, .bfre),
   (0xB5, fun f => if f.imm.getLsbD 0 then .barvW f else .barv f),
   (0xB6, fun f => if f.imm.getLsbD 0 then .bwtW f else .bwt f),
   (0xB7, fun f => if f.imm.getLsbD 0 then .btryW f else .btry f),
   (0xB8, .ecpy),
   (0xB9, .ecmp),
   (0xBA, .edcp),
   (0xBB, .ecol),
   (0xBC, .cjoin),
   (0xBD, .lease),
   (0xBE, .lrel),
   (0xBF, .mbar),
   (0xC0, .xst),
   (0xC1, .xstv),
   (0xC2, .xsig),
   (0xC3, .xld),
   (0xC4, .xwait),
   (0xC5, .xfen),
   (0xC8, .tspn),
   (0xC9, fun f => if f.imm.getLsbD 0 then .tdecRmt f else .tdec f),
   (0xCA, .tqry),
   (0xD0, fun f => if f.imm.getLsbD 3 then .lntlLast f else .lntl f)]

/-- Rows of the opcode map from 0xD1 to 0xF6 (R89). Where several instructions share an opcode, an option bit of IMM6 tells them apart. -/
def opRows6 : List (Nat × (Fields → Instr)) :=
  [(0xD1, .gret),
   (0xD2, .did),
   (0xD3, .dpart),
   (0xD4, .gate),
   (0xD5, .cxld),
   (0xD6, .cxul),
   (0xD7, .cxq),
   (0xD8, .ispz),
   (0xD9, .unpz),
   (0xE0, .cx 0),
   (0xE1, .cx 1),
   (0xE2, .cx 2),
   (0xE3, .cx 3),
   (0xE4, .cx 4),
   (0xE5, .cx 5),
   (0xE6, .cx 6),
   (0xE7, .cx 7),
   (0xE8, .cx 8),
   (0xE9, .cx 9),
   (0xEA, .cx 10),
   (0xEB, .cx 11),
   (0xEC, .cx 12),
   (0xED, .cx 13),
   (0xEE, .cx 14),
   (0xEF, .cx 15),
   (0xF0, .trap),
   (0xF1, .brk),
   (0xF2, .park),
   (0xF3, .wake),
   (0xF4, .syrd),
   (0xF5, fun f => if f.imm = 2 then .sywrFpstat f else if f.imm = 3 then .sywrResumeRetry f else if f.imm = 49 then .sywrPortctlReplay f else .sywrGreg f),
   (0xF6, .mark)]

/-- Rows of the opcode map from 0xF7 to 0xF9 (R89). Where several instructions share an opcode, an option bit of IMM6 tells them apart. -/
def opRows7 : List (Nat × (Fields → Instr)) :=
  [(0xF7, .save),
   (0xF8, .rest),
   (0xF9, .halt)]

/-- The opcode map (R89). -/
def opRows : List (Nat × (Fields → Instr)) :=
  opRows0 ++ opRows1 ++ opRows2 ++ opRows3 ++ opRows4 ++ opRows5 ++ opRows6 ++ opRows7

/-- The instruction of an opcode and the other fields, before the checks. -/
def instrOf (opc : BitVec 8) (f : Fields) : Option Instr := (Map.find opRows opc.toNat).map (fun c => c f)

/-- The decoder. -/
def decode (w : DWord) : Except DecodeError Instr :=
  if opcodeOf w = 0xFF then .error .ill
  else
    match instrOf (opcodeOf w) (fieldsOf w) with
    | none => .error .reservedOpcode
    | some i => if i.wf then .ok i else .error .illegalField

/-- The instruction a word decodes to, if any. -/
def decode? (w : DWord) : Option Instr :=
  match decode w with
  | .ok i => some i
  | .error _ => none

/-- The 64-bit word of eight stored bytes, lowest address first (R7, R81). -/
def wordOfBytes (bs : List Byte) : DWord := bs.foldr (fun b w => (w <<< 8) ||| BitVec.setWidth 64 b) 0

/-- The eight bytes in which a course image stores a word (R81). -/
def bytesOfWord (w : DWord) : List Byte := (List.range 8).map (fun i => w.extractLsb' (8 * i) 8)

/-- The instruction of the pool slot whose stored bytes these are. -/
def decodeBytes (bs : List Byte) : Except DecodeError Instr := decode (wordOfBytes bs)

/-- The instruction read from a word whose low `nbits` bits are given by `w`; every bit above them is 0. -/
def decodeTableWord (nbits w : Nat) : Option Instr :=
  if nbits ≤ 64 then decode? (BitVec.ofNat 64 (w % 2 ^ nbits)) else none

/-- A truth value as one bit. -/
def bit1 (b : Bool) : BitVec 1 := BitVec.ofBool b

/-- The word of an opcode and the other fields (R80). -/
def assemble (opc : BitVec 8) (f : Fields) : DWord :=
  f.pmask ++ f.pval ++ f.cha ++ f.ka ++ f.chb ++ f.kb ++ opc ++ f.dst ++ f.sa ++ f.sb ++ bit1 f.dqa ++ bit1 f.dqb
    ++ f.psel ++ f.pop ++ f.imm

/-- The word of a node instruction. A step that no node issues has no word: 0 stands there. -/
def encode (i : Instr) : DWord :=
  match i.opcode, i.fields with
  | some opc, some f => assemble opc f
  | _, _ => 0

/-- The instruction as its word spells it. Two pairs of steps share one word, and the value of operand b tells them
apart when the word issues (R385, R387): the decoder reads the first of each pair. -/
def Instr.spelled : Instr → Instr
  | .sywrResumeSkip f => .sywrResumeRetry f
  | .sywrPortctlAbandon f => .sywrPortctlReplay f
  | i => i

end Sys2Proof
end

