-- ==== Sys2Proof/Machine/State.lean ====
section
/-! DEFINITION. The state of one module: nodes, elements, memory tiles, edges, requests on their way, dies, regions,
partitions, hosts, pod and kiln, and the state after cold reset. Plain data throughout. -/

namespace Sys2Proof.Machine

/-- Why the machine stops with a fault. Faults of the device itself (R377) are no stops: a node takes them and the
machine goes on. -/
inductive Fault where
  /-- Raised by `step` when the slot that an element selects holds a word that is no valid instruction. Load validation
  keeps such a word out of every pool (R44, R46, R92), so no run of the device meets it. Safe. -/
  | undecodable
deriving DecidableEq, Repr

/-- Why the machine refuses an instruction. -/
inductive Refusal where
  /-- Raised by an arm of `exec` whose instruction has no meaning yet. Safe. -/
  | notModelled (mnemonic : String)
deriving DecidableEq, Repr

/-- STATE of a node (R21, R42). -/
inductive RunState where
  | off
  | run
  | parked
  | faulted
deriving DecidableEq, Repr, Inhabited

/-- State of a mailbox (R146). -/
inductive MboxState where
  | empty
  | pending
  | full
deriving DecidableEq, Repr, Inhabited

/-- A mailbox (R146). -/
structure Mbox where
  st : MboxState := .empty
  word : PWord := {}
deriving DecidableEq, Repr, Inhabited

/-- State of a presence word or line (R282). -/
inductive Presence where
  | empty
  | full
  | poison
deriving DecidableEq, Repr, Inhabited

/-- What memory keeps beside the 32 bits of a word: its poison mark (R124, R391), its presence state (R282, R286) and
the type bit of a live barrier word, kept at the lower word of its eight bytes (R360). -/
structure WMeta where
  psn : Bool := false
  pres : Presence := .empty
  barrier : Bool := false
deriving DecidableEq, Repr, Inhabited

/-- The stamp of a request or command (R295, R339). -/
structure Stamp where
  part : BitVec 5 := 0
  tenant : BitVec 16 := 0
  keyid : BitVec 13 := 0
  issuer : NodeRef := {}
deriving DecidableEq, Repr, Inhabited

/-- Where a trap arose (PATH of R379). -/
inductive Path where
  | transition
  | awaited
  | storeBuffer
  | latch
  | channel
  | cxTrap
  | stream
  | engine
deriving DecidableEq, Repr, Inhabited

/-- What a fault reports beside its place (R379): cause, AUX, DETA, DETB and PATH. -/
structure FaultInfo where
  cause : BitVec 8 := 0
  aux : BitVec 8 := 0
  deta : Word := 0
  detb : Word := 0
  path : Path := .transition
deriving DecidableEq, Repr, Inhabited

/-- What a transition writes at its S4 (R36, R38): a value through DST with the KIND and FMT of the token it becomes on
a co channel, a second value (R234), lanes of vector registers, the condition and the flags. -/
structure Result where
  dst : Option PWord := none
  kind : BitVec 3 := 0
  fmt : BitVec 3 := 0
  dst2 : Option PWord := none
  lanes : List (Nat × PWord) := []
  cond : Bool := true
  flags : BitVec 6 := 0
deriving DecidableEq, Repr, Inhabited

/-- What a node waits for before its own request or store entry leaves (R309, R362, R365). -/
inductive ReleaseAct where
  /-- the entry of a `GST.L`, with the data that its S2 read -/
  | storeEntry (va : BitVec 56) (w : PWord)
  | fence
  | podFence
deriving DecidableEq, Repr, Inhabited

/-- What the S4 of a transition does (R38, R40): it writes a result; it does what the opcode's description says of S4, from
the operands and the lanes that S2 read (R36); or the node enters FAULTED. -/
inductive S4Act where
  | done (r : Result)
  | late (a b d : PWord) (vs : List PWord)
  | fault (fi : FaultInfo)
deriving DecidableEq, Repr, Inhabited

/-- Why a transition is still in flight after its issue (R41, R143). -/
inductive Flight where
  /-- its S4 falls in cycle `due`; the node stays in RUN (R41) -/
  | s4 (due : Nat) (act : S4Act)
  /-- a long operation or a CX firing: its result is written at cycle `due` -/
  | long (due : Nat) (r : Result)
  | park
  | cxTrap
  /-- the answer to request `id` is awaited -/
  | await (id : Nat)
  /-- a retry-latch access -/
  | latch
  /-- a release wait; `ids` are the entries still to be acknowledged -/
  | release (act : ReleaseAct) (ids : List Nat) (flush : Bool)
  /-- a `SAVE` that waits for its snapshot -/
  | save (dom : BitVec 4) (va : BitVec 56)
deriving DecidableEq, Repr, Inhabited

/-- A transition in flight: its slot, its instruction and why it is not finished. -/
structure InFlight where
  slot : BitVec 4 := 0
  instr : Instr := .nop {}
  why : Flight := .park
  /-- tokens that had arrived on the channels CHA and CHB by S2: the pop of a latest-value channel knows its token by them
  (R175) -/
  seqA : Nat := 0
  seqB : Nat := 0
  /-- the cycle of its issue; one of a parking class parks its node two cycles later, in its S3 (R40-R42) -/
  issued : Nat := 0
  parks : Bool := false
  /-- `XREARM` awaits the home's answer for it: a fault completes it too (R318) -/
  rearmed : Bool := false
deriving DecidableEq, Repr, Inhabited

/-- An answer: words (with poison), and a condition; or a fault. -/
structure Answer where
  words : List PWord := []
  cond : Bool := true
  fault : Option FaultInfo := none
  /-- accepted by its home (R316) -/
  accepted : Bool := true
  /-- NOTTAKEN (R317) -/
  notTaken : Bool := false
deriving DecidableEq, Repr, Inhabited

/-- A node (R19). -/
structure Node where
  st : RunState := .off
  /-- predicates p7-p0 -/
  p : BitVec 8 := 0
  /-- g0-g15 with their poison bits -/
  g : Map PWord := []
  /-- input channels ci0-ci3, head first -/
  ci : Map (List Token) := []
  /-- output channels co0-co3, head first -/
  co : Map (List Token) := []
  /-- pool t0-t15 -/
  pool : Map DWord := []
  fpstat : Word := 0x200
  ncfg : Word := 0
  /-- LAST and CAUSE of NSTAT (R21) -/
  last : BitVec 4 := 0
  cause : BitVec 8 := 0
  /-- W0-W3 of the last trap record (R384) -/
  trec : Map Word := []
  /-- the retry latch, words 0-5 (R316) -/
  latch : Map Word := []
  /-- the sequence number the latch counts (R316) -/
  lseq : BitVec 8 := 0
  /-- the cycle in which SENT became 1 (R316) -/
  lsent : Nat := 0
  /-- the answer that RPV, RPSN and word 5 report (R316) -/
  lheld : Option Answer := none
  /-- CCFG0-CCFG3 with their run state (R170) -/
  ccfg : Map Word := []
  /-- arrival counts SEQ (R24) -/
  seq : Map (BitVec 8) := []
  /-- tokens that have arrived on each channel since power-on: the model's own count, which does not wrap (R175) -/
  came : Map Nat := []
  wpend : Bool := false
  wdrn : Bool := false
  flight : Option InFlight := none
  /-- the slot that trapped to the CX loader issues first after the wake (R235) -/
  prefer : Option (BitVec 4) := none
  /-- the first cycle in which the node may issue again (R40, R41) -/
  nextAt : Nat := 0
  /-- entries popped whose credits are still to return, by input channel (R167) -/
  freed : Map Nat := []
  /-- entries of a steered channel that returned tokens may take (R172) -/
  spare : Map Nat := []
  /-- the channel and token of a FORMAT fault, and whether a steer node returned it (R173) -/
  badToken : Option (BitVec 2 × Token × Bool) := none
  /-- a fault that waits for the transition in flight to complete, with the slot and the opcode that it names (R173, R307) -/
  later : Option (BitVec 4 × BitVec 8 × FaultInfo) := none
  /-- the channels on which a MARK of the snapshot has been recorded (R395) -/
  marks : BitVec 4 := 0
  /-- in OFF by alignment: the snapshot's capture of STATE (R396) -/
  aligned : Option RunState := none
  /-- host ports that acknowledged a store since the last scope-6 wait: bit 0 north, bit 1 south (R309) -/
  hostAck : BitVec 2 := 0
  /-- the node drained the SKIP of a fault: the instruction that faulted (R385) -/
  faulting : Option InFlight := none
deriving DecidableEq, Repr, Inhabited

/-- An entry of a store buffer or of a pod queue (R306, R442). -/
structure StoreEntry where
  id : Nat := 0
  node : BitVec 4 := 0
  dom : BitVec 4 := 0
  stamp : Stamp := {}
  va : BitVec 56 := 0
  words : List PWord := []
  /-- the opcode that made the entry -/
  opc : BitVec 8 := 0
  held : Bool := false
  /-- the target module of a pod entry, and the port it left on -/
  mod : BitVec 10 := 0
  port : BitVec 4 := 0
deriving DecidableEq, Repr, Inhabited

/-- A completion tag (R353). -/
structure Tag where
  valid : Bool := false
  node : BitVec 4 := 0
  dom : BitVec 4 := 0
  chan : BitVec 2 := 0
  count : Word := 0
  arrived : Word := 0
  err : Bool := false
deriving DecidableEq, Repr, Inhabited

/-- An entry of an update inbox (R314). -/
structure InboxEntry where
  opb : Word := 0
  opa : Word := 0
  psb : Bool := false
  psa : Bool := false
  off : BitVec 15 := 0
  op : BitVec 4 := 0
  rm : BitVec 2 := 0
  rply : Bool := false
  req : NodeRef := {}
  seq : BitVec 8 := 0
deriving DecidableEq, Repr, Inhabited

/-- An update inbox with the owned range it serves (R314). -/
structure Inbox where
  owner : BitVec 4 := 0
  used : Bool := false
  base : BitVec 56 := 0
  size : Nat := 0
  entries : List InboxEntry := []
deriving DecidableEq, Repr, Inhabited

/-- A POISON token that a gate owes the caller of a session whose callee faulted: the gate, the origin, and the caller and
reply channel that the session had (R162). -/
structure GatePoison where
  gate : Nat := 0
  origin : Word := 0
  caller : BitVec 4 := 0
  rci : BitVec 2 := 0
deriving DecidableEq, Repr, Inhabited

/-- A resource of an element that a domain owns (R150). -/
inductive Resource where
  | bank (i : Nat)
  | mbox (i : Nat)
  | vgrp (i : Nat)
  | acc (i : Nat)
  | cell (i : Nat)
  | gate (i : Nat)
deriving DecidableEq, Repr, Inhabited

/-- STATE of the matrix section (R218, R221). -/
inductive MxState where
  | off
  | cfg
  | run
  | hold
  | done
  | relay
deriving DecidableEq, Repr, Inhabited

/-- One k-value of one side of the matrix section: its values with their poison, the block scales that come with it,
and a marker that stands before it (R211, R214). -/
structure KItem where
  vals : List PWord := []
  scales : Option (List PWord) := none
  mark : Option Word := none
deriving DecidableEq, Repr, Inhabited

/-- A bound shape table: the lengths and the row mapping (R223). -/
structure ShapeTab where
  lens : List Nat := []
  row0 : Nat := 0
  rstr : Nat := 0
deriving DecidableEq, Repr, Inhabited

/-- The matrix section (R210-R229). -/
structure Matrix where
  st : MxState := .off
  owner : BitVec 4 := 0
  wordA : Word := 0
  wordB : Word := 0
  fzc : Bool := false
  /-- sticky NV, OF, UF, NX in the places of R221 -/
  flags : BitVec 5 := 0
  tdone : BitVec 16 := 0
  /-- tiles of the configured count that have been completed -/
  tiles : Nat := 0
  /-- the count of tiles taken at `MCFG` (R220) -/
  total : Nat := 0
  /-- k-values entered in the current tile -/
  k : Nat := 0
  shape : Option ShapeTab := none
  /-- the configuring node, and the node and channel of the drain (R222) -/
  cfgNode : BitVec 4 := 0
  drainNode : BitVec 4 := 0
  drainCh : BitVec 2 := 0
  drain : List Token := []
  /-- a complete tile waits for the drain buffer (R222) -/
  waiting : Bool := false
  feedA : List KItem := []
  feedB : List KItem := []
  bufA : List KItem := []
  bufB : List KItem := []
  /-- k-values of a group that is not yet complete (R74) -/
  group : List (KItem × KItem) := []
  /-- the feed scales of rows 0-7 and columns 8-15 (R227) -/
  fscale : Map PWord := []
  /-- the scales of the block in progress, by row and by column (R217) -/
  scaleA : List PWord := []
  scaleB : List PWord := []
  passA : Bool := false
  passB : Bool := false
  /-- a MARK has stopped the section (R229); its snapshot is complete, and it takes no k-value in before the restore -/
  marked : Option Word := none
  shut : Bool := false
deriving DecidableEq, Repr, Inhabited

/-- A resident custom configuration: its residency slot's contents (R230). -/
structure Residency where
  used : Bool := false
  dom : BitVec 4 := 0
  cx : BitVec 4 := 0
  header : DWord := 0
  cells : List DWord := []
  place : List Nat := []
  /-- the first cycle in which a further firing may begin (R235) -/
  freeAt : Nat := 0
deriving DecidableEq, Repr, Inhabited

/-- An element (R139-R162, R187, R210, R230). -/
structure Elem where
  lastn : BitVec 4 := 15
  mbox : Map Mbox := []
  /-- vector lanes: lane i of v is at 16 v + i (R187) -/
  vreg : Map PWord := []
  /-- accumulator words: word i of bank k is at 16 k + i (R210) -/
  acc : Map PWord := []
  /-- the domain table (R148) -/
  dtab : Map DWord := []
  /-- partition words: word w of domain D is at 3 D + w (R150) -/
  pword : Map Word := []
  /-- resources being scrubbed with the cycle in which each becomes free (R155) -/
  scrub : List (Resource × Nat) := []
  /-- constant blocks: word n of domain D is at 64 D + n (R128) -/
  cblk : Map Word := []
  /-- gate entries (R158) -/
  gate : Map Word := []
  /-- POISON tokens that gates owe, in order (R162) -/
  gatePsn : List GatePoison := []
  /-- tokens of ended sessions that are still on a co[RET], oldest session first: the gate and their count (R161) -/
  gateDrain : List (Nat × Nat) := []
  /-- gates whose caller entered OFF in ACTIVE: tokens on co[RET] are discarded (R162) -/
  gateOff : BitVec 8 := 0
  sbuf : List StoreEntry := []
  podq : List StoreEntry := []
  tag : Map Tag := []
  inbox : Map Inbox := []
  mx : Matrix := {}
  /-- mapping entries: entry C of domain D is at 16 D + C (R233) -/
  cxmap : Map DWord := []
  /-- the header of the block that each mapping entry names, as the load read it (R231, R233) -/
  cxhdr : Map DWord := []
  res : Map Residency := []
  /-- the cycle of the element's last pipe transition (R188) -/
  pipeAt : Option Nat := none
  /-- the cycle of the last issue that accesses the local store, and the banks that it takes in its S3 (R340) -/
  lsAt : Option Nat := none
  lsBanks : List Nat := []
  /-- the cycle in which each bank took its last window access (R340) -/
  winAt : Map Nat := []
  /-- no node issues before this cycle; the end of the last hold (R141) -/
  holdUntil : Nat := 0
  lastHold : Option Nat := none
  /-- what the element's cycle counter stands ahead of the module's (R23) -/
  lcOff : Nat := 0
  /-- the output channel that the element port served last, and the cycle of its last flit (R176) -/
  sentLast : BitVec 6 := 63
  sentAt : Option Nat := none
  /-- the course that holds the element -/
  region : Option Nat := none
deriving DecidableEq, Repr, Inhabited

/-- What a flit carries: on virtual network 0 the 128 bits of R178; on the others a credit of an edge, or the message of a
number (R177). -/
inductive FlitLoad where
  | toks (w : BitVec 128)
  | credit (edge : Nat)
  | msg (id : Nat)
  /-- the configuration that the control strip writes into a tile for the course of a region (R239) -/
  | config (region : Nat)
  /-- a permit on its way to a channel (R350) -/
  | space (n : NodeRef) (k : BitVec 2) (t : Token)
deriving DecidableEq, Repr, Inhabited

/-- Where a message enters or leaves mortar: a local port of a tile's router, or the bridge links of an edge die (R176,
R185). -/
inductive Place where
  | port (t : TileRef) (p : Nat)
  | edge (south : Bool)
deriving DecidableEq, Repr, Inhabited

/-- A flit at a router (R176-R178): its virtual network, the router and the input port in whose buffer it stands (0-15 local,
16 north, 17 south, 18 east, 19 west, 20 fan-out units, 21 the edge die's end of a bridge link), whether it still waits for an
entry of that buffer, the routers that it has yet to pass, the output port at its end, and the first cycle in which an output
port may grant it. -/
structure Flit where
  vn : BitVec 2 := 0
  load : FlitLoad := .msg 0
  here : TileRef := {}
  inp : Nat := 0
  waits : Bool := false
  path : List TileRef := []
  out : Nat := 0
  ready : Nat := 0
deriving DecidableEq, Repr, Inhabited

/-- An edge (R166): a `.chan` binding, or a branch of a fan-out (`fan` names it), or a forwarding route (R254). -/
structure Edge where
  id : Nat := 0
  region : Nat := 0
  src : Port := default
  dst : Port := default
  fan : Option (Nat × Nat) := none
  /-- the EDGE number of its flits (R178), and the routers that its route passes after its source's (R179) -/
  num : BitVec 12 := 0
  path : List TileRef := []
  credits : Nat := 0
  /-- credits that have reached the source, and those of them that it may spend from the next cycle (R167, R168) -/
  back_ : Nat := 0
  due : Nat := 0
  /-- tokens at the edge stage of the destination -/
  flight : List Token := []
  /-- the edge enters a back channel (R395) -/
  back : Bool := false
  /-- a MARK of the snapshot has passed (R395) -/
  marked : Bool := false
  /-- a forwarding route from an output port to a successor's input port (R254) -/
  route : Bool := false
  /-- a forwarding route: END is on its way (R255) -/
  ended : Bool := false
deriving DecidableEq, Repr, Inhabited

/-- What a token of a windowed stream carries through its branch: the window, the SPACE channel of the branch (words
17-24 of R346) and the token's number in its command, from 1 (R183, R350). -/
structure Permit where
  w : Nat := 0
  chan : Word := 0
  no : Nat := 0
deriving DecidableEq, Repr, Inhabited

/-- A branch of a fan-out (R181-R183, R350). -/
structure Branch where
  edge : Nat := 0
  buf : List (Token × Option Permit) := []
  /-- SPACE tokens on their way, each with its channel -/
  spaces : List (Token × Word) := []
deriving DecidableEq, Repr, Inhabited

/-- A fan-out (R181). -/
structure Fanout where
  id : Nat := 0
  region : Nat := 0
  src : Port := default
  branches : List Branch := []
deriving DecidableEq, Repr, Inhabited

/-- A stream on a memory-tile port (R346-R351). -/
structure Stream where
  desc : List Word := []
  ticket : BitVec 16 := 0
  stamp : Stamp := {}
  region : Nat := 0
  /-- position of the address sequence (R348) -/
  i : Nat := 0
  pos : Nat := 0
  blk : Nat := 0
  /-- tokens ready to be sent: the rest of the unit begun -/
  out : List Token := []
  /-- tokens and permits counted (R350) -/
  sent : Nat := 0
  permits : Nat := 0
  err : Bool := false
  /-- the cause of the access that is held (R387), and whether it was abandoned (R388) -/
  held : Option (BitVec 8) := none
  abandoned : Bool := false
  /-- addresses of the unit under way that the host has denied for good (R425) -/
  denied : List Nat := []
  /-- k-values ready for the lane, by sub-lane (R347) -/
  lanes : List (Nat × KItem) := []
  /-- quoin: the buffer being filled and the tokens still to be emitted (R184); FIFO and line: the queue (R347) -/
  fill : List Token := []
  full : Bool := false
  rows : List (List Token) := []
  frozen : Bool := false
  /-- the cycle in which its next access came to its banks, where it has to wait for them (R281) -/
  since : Option Nat := none
deriving DecidableEq, Repr, Inhabited

/-- A port of a memory tile (R176, R349, R352). -/
structure TPort where
  inq : List Token := []
  freed : Nat := 0
  /-- the cycle of the port's last flit (R176) -/
  sentAt : Option Nat := none
  stream : Option Stream := none
  last : BitVec 16 := 0
  err : Bool := false
  /-- the last completed stream named this port as PPORT (R374) -/
  drops : Bool := false
deriving DecidableEq, Repr, Inhabited

/-- A stream command in its queue (R349). -/
structure StreamCmd where
  port : BitVec 4 := 0
  desc : List Word := []
  ticket : BitVec 16 := 0
  stamp : Stamp := {}
  region : Nat := 0
deriving DecidableEq, Repr, Inhabited

/-- A combined translation held by a micro-TLB (R302). -/
structure TlbEntry where
  part : BitVec 5 := 0
  tenant : BitVec 16 := 0
  va : Nat := 0
  size : Nat := 0
  pa : Nat := 0
  keyid : BitVec 13 := 0
  s : Bool := false
  p : Bool := false
  rdonly : Bool := false
  nc : Bool := false
  /-- in an ATC: the PASID of the translation (R425) -/
  pasid : BitVec 20 := 0
deriving DecidableEq, Repr, Inhabited

/-- An entry of a translation unit's walk cache (R302): the table entry at a physical address, of stage 1 of a tenant or, with
no tenant, of stage 2, of a partition. -/
structure TableEntry where
  part : BitVec 5 := 0
  tenant : Option (BitVec 16) := none
  pa : Nat := 0
  word : DWord := 0
deriving DecidableEq, Repr, Inhabited

/-- A walk that a translation unit tracks (R302): what it looks for, what it found, and whether an invalidation has marked
it stale (R303). -/
structure Walk where
  part : BitVec 5 := 0
  tenant : BitVec 16 := 0
  page : Nat := 0
  found : Option TlbEntry := none
  stale : Bool := false
  /-- the micro-TLBs that wait for it: none is that of the die's request port (R302) -/
  tlbs : List (Option TileRef) := []
deriving DecidableEq, Repr, Inhabited

/-- A line that stands in a memory-side cache (R290-R293): its way, its address (physical address / 128), the key ID of its
tag and whether it is to be written back. Its bytes are those of `State.mem`, which holds the newest ones. -/
structure CacheLine where
  way : Nat := 0
  line : Nat := 0
  keyid : BitVec 13 := 0
  dirty : Bool := false
deriving DecidableEq, Repr, Inhabited

/-- A host-window store that a host port has placed on its link and that is not yet visible at the host (R328). -/
structure Posted where
  south : Bool := false
  pa : Nat := 0
  word : PWord := {}
deriving DecidableEq, Repr, Inhabited

/-- The buffers of one BASE and one count that a WRITE has completed and the paired READ has not yet finished (R351). -/
structure Buffers where
  base : Nat := 0
  bufs : Nat := 0
  full : BitVec 4 := 0
deriving DecidableEq, Repr, Inhabited

/-- A memory tile (R176, R279, R349). -/
structure MTile where
  mtcfg : Word := 0
  ports : Map TPort := []
  queue : List StreamCmd := []
  tickets : BitVec 16 := 0
  /-- tokens queued in FIFO banks, by the lowest bank of the queue (R347) -/
  fifo : Map (List Token) := []
  /-- the place of a FIFO queue's head in the ring of its banks, and the tokens that the ring holds (R281, R347) -/
  fifoAt : Map (Nat × Nat) := []
  /-- the partition whose course the tile held last (R241) -/
  lastPart : Option (BitVec 5) := none
  /-- the tile's micro-TLB (R302) -/
  tlb : List TlbEntry := []
  /-- the cycle in which each bank applied its last access (R281) -/
  bankAt : Map Nat := []
  /-- buffers of its paired streams (R351) -/
  pairs : List Buffers := []
deriving DecidableEq, Repr, Inhabited

/-- What a home, a dispatcher, a tile or a peer is asked to do. -/
inductive Op where
  | load (n : Nat)
  | store (ws : List PWord)
  | presRead (n : Nat)
  | presWrite (ws : List PWord)
  | presClear (n : Nat)
  | probe
  | atomic (op : BitVec 4) (rm : BitVec 2) (v : PWord)
  | cas (exp : PWord) (new : PWord)
  | barArrive (n : Word)
  | barWait (q : BitVec 16) (st : Bool)
  | barTry (q : BitVec 16) (st : Bool)
  | barMake (n : Word)
  | xwait (bound : Word)
  | cxBlock (cx : BitVec 4) (n : Nat)
  | flush (south : Bool)
  | restore (dom : BitVec 4)
  | saveImage (dom : BitVec 4)
  | podStore (mod : BitVec 10) (ws : List PWord)
  | podLoad (mod : BitVec 10)
  | podAdd (mod : BitVec 10) (n : Word)
  | spawn (desc : List Word)
  | query (ref : Word)
  | lease (a b : Word)
  | unlease (h : Word)
  | barAlloc (n : Word)
  | barFree (h : Word)
  | poolArrive (h n : Word)
  | poolWait (h : Word) (q : BitVec 16) (st : Bool)
  | poolTry (h : Word) (q : BitVec 16) (st : Bool)
  | engine (opc : BitVec 8) (h : Word) (desc : List Word)
  | stream (b : Word) (desc : List Word)
  | streamStat (b : Word) (cancel : Bool)
  | readSel (a : Word) (sel : BitVec 6)
  | writeSel (a v : Word) (sel : BitVec 6)
  | rearm (a : Word)
  | mark (dom : BitVec 4)
deriving DecidableEq, Repr, Inhabited

/-- Who made a request. -/
inductive Requester where
  | node (n : NodeRef)
  | latch (n : NodeRef) (seq : BitVec 8)
  | sbuf (e : ElemRef)
  | podq (e : ElemRef)
  | port (t : TileRef) (p : BitVec 4)
  | eng (die : BitVec 4) (kind : BitVec 2) (eng : BitVec 3)
  | peer (srcMod : BitVec 10) (tag : Nat)
  | queue (die : BitVec 4) (slot : BitVec 6)
  | query (n : NodeRef) (seq : BitVec 8)
deriving DecidableEq, Repr, Inhabited

/-- How far a request has come. -/
inductive Stage where
  | port
  /-- waits for the host's translation completion (R425) -/
  | ats
  | home
  | deferred
  /-- answered with a fault and kept for the node's RETRY (R305, R385) -/
  | kept
deriving DecidableEq, Repr, Inhabited

/-- The owner that an atomic goes to, as its S3 found it (R314): its element and inbox, the course, and the word's offset. -/
structure OwnedBy where
  elem : ElemRef := {}
  box : Nat := 0
  region : Nat := 0
  off : BitVec 15 := 0
deriving DecidableEq, Repr, Inhabited

/-- A request on its way (R305). -/
structure Req where
  id : Nat := 0
  who : Requester := .sbuf {}
  stamp : Stamp := {}
  va : BitVec 56 := 0
  op : Op := .probe
  stage : Stage := .port
  /-- physical addresses and key IDs of its words, once translated, and the NC of their pages (R290) -/
  pas : List (Nat × BitVec 13) := []
  nc : List Bool := []
  /-- words already taken from the store buffer (R306) or from the home (R283, R323) -/
  fwd : List (Option PWord) := []
  /-- words already written at the home (R323) -/
  pos : Nat := 0
  /-- it has reached its home and waits in its queue there (R281, R284, R286, R363) -/
  queued : Bool := false
  /-- the cycle in which it came to its queue (R281) -/
  since : Nat := 0
  /-- store entries to be acknowledged before the request is performed (R306, R309, R365) -/
  after : List Nat := []
  /-- an acquire load: entries of other nodes for its words come to `after` when it leaves (R309) -/
  acquire : Bool := false
  /-- the first cycle in which it may leave its element: that of the S3 after its issue -/
  from_ : Nat := 0
  /-- a completion tag that counts its words (R354) -/
  tag : Word := 0
  /-- the reason of a pod refusal found at the sender (R441) -/
  podPort : BitVec 4 := 0
  /-- PASID generation of its translation request (R432), and whether a page request holds it (R425) -/
  gen : Nat := 0
  pri : Bool := false
  /-- has yet to leave its requester on virtual network 1 or 2 (R177), and the cycle in which it left -/
  leaving : Bool := true
  left : Nat := 0
  /-- where it goes or stands: none for one that stands at no router -/
  place : Option Place := none
  /-- an atomic whose home is an owner (R313, R314); and whether a reply of it is owed (R315) -/
  own : Option OwnedBy := none
  rply : Bool := true
  /-- a request of a peer module (R437): its message, and the tags of the recovery queries that wait for it (R442) -/
  msg : PodMessage := {}
  asks : List Nat := []
deriving DecidableEq, Repr, Inhabited

/-- An answer on its way to its requester. -/
structure Resp where
  id : Nat := 0
  who : Requester := .sbuf {}
  op : Op := .probe
  va : BitVec 56 := 0
  ans : Answer := {}
  /-- has yet to leave for its requester on virtual network 1 or 3 (R177) -/
  leaving : Bool := true
  /-- where it comes from, and the first cycle in which it enters its requester's port (R469) -/
  src : Option Place := none
  floor : Nat := 0
  /-- physical addresses and key IDs of the words that a store wrote (R306, R322) -/
  pas : List (Nat × BitVec 13) := []
deriving DecidableEq, Repr, Inhabited

/-- A home (R273, R317). -/
inductive Home where
  | cache (die : BitVec 4)
  | bank (t : TileRef)
  | inbox (e : ElemRef)
  | host (south : Bool)
deriving DecidableEq, Repr, Inhabited

/-- An entry of a reply log (R317). -/
structure LogEntry where
  id : Nat := 0
  home : Home := .cache 0
  node : NodeRef := {}
  seq : BitVec 8 := 0
  ans : Answer := {}
  /-- the requester's element has acknowledged receipt -/
  acked : Bool := false
  /-- the peer module whose node it is (R442) -/
  mod : Option (BitVec 10) := none
deriving DecidableEq, Repr, Inhabited

/-- A write acknowledgement on its way to a completion tag (R354). -/
structure TagMsg where
  id : Nat := 0
  ref : Word := 0
  tenant : BitVec 16 := 0
  n : Nat := 1
  err : Bool := false
  /-- has yet to leave for its element on virtual network 1 (R177) -/
  leaving : Bool := true
deriving DecidableEq, Repr, Inhabited

/-- A trap record on its way: the node it goes to (or the service core), its words, the sender's partition and the
tokens still to enter (R379, R380). -/
structure Trap where
  id : Nat := 0
  /-- has yet to leave on virtual network 1 (R177) -/
  leaving : Bool := true
  dest : Option NodeRef := none
  sender : Option NodeRef := none
  part : BitVec 5 := 0
  w : List Word := []
  left : List Token := []
deriving DecidableEq, Repr, Inhabited

/-- A decrement on its way (R249, R250). Those that have come to their dispatcher stand in the list in the order in which they
came. -/
structure DecMsg where
  id : Nat := 0
  /-- the node whose dispatcher it goes to first, or the port and source of one from another module (R267, R444, R469) -/
  node : Option NodeRef := none
  pod : Option (BitVec 4 × BitVec 10 × BitVec 16) := none
  /-- it has yet to leave on virtual network 1 (R177) -/
  leaving : Bool := true
  src : BitVec 4 := 0
  ref : Word := 0
  exp : Bool := false
  rb : Option Nat := none
  part : BitVec 5 := 0
deriving DecidableEq, Repr, Inhabited

/-- The answer to a request of a peer module: refused with a reason of R441, or performed. -/
structure PodReply where
  tag : Nat := 0
  reason : Option Nat := none
  cause : BitVec 8 := 0
  words : List PWord := []
  cond : Bool := true
  notTaken : Bool := false
deriving DecidableEq, Repr, Inhabited

/-- A message that leaves for a peer module (R434, R437, R444). -/
structure PodSent where
  mod : BitVec 10 := 0
  port : BitVec 4 := 0
  msg : Option PodMessage := none
  dec : Option PodDecrement := none
  reply : Option PodReply := none
deriving DecidableEq, Repr, Inhabited

/-- A task record with what the dispatcher keeps beside it (R242, R260, R444). -/
structure Task where
  w : Map Word := []
  /-- TENANT of the queue that spawned it (R444), and the queue, which its completion record goes to (R259, R431) -/
  tenant : BitVec 16 := 0
  queue : Option (BitVec 12 × BitVec 6) := none
  /-- entry to STAGING (R344), entry to READY and class promotions (R260) -/
  stagedAt : Nat := 0
  readyAt : Nat := 0
  promo : Nat := 0
  /-- binding values and lengths read at entry to STAGING (R245), and staged words (R343) -/
  binds : List (BitVec 64 × Nat) := []
  staged : List (Nat × List PWord) := []
  /-- held in STAGING for good by a fault or a bad length (R245, R343, R344) -/
  stuck : Bool := false
  /-- held in STAGING by PAGE until an invalidation (R245, R344) -/
  paged : Bool := false
  /-- stream decrements sent (R254) -/
  streamed : Bool := false
  /-- input ports that a discarded predecessor left without a route, with the origin record of the POISON that each is to
  receive (R255) -/
  broken : List (Nat × Word) := []
  /-- at the head of the ready list after a pre-emption in LOADING (R248) -/
  front : Bool := false
  /-- load by restore of the context image (R452) -/
  restore : Bool := false
deriving DecidableEq, Repr, Inhabited

/-- A pool barrier (R360). -/
structure PoolBar where
  alloc : Bool := false
  ref : Nat := 0
  gen : BitVec 8 := 0
  part : BitVec 5 := 0
  tenant : BitVec 16 := 0
  phase : BitVec 16 := 0
  count : BitVec 16 := 0
  left : BitVec 16 := 0
deriving DecidableEq, Repr, Inhabited

/-- An accepted engine command (R356). -/
structure EngCmd where
  opc : BitVec 8 := 0
  desc : List Word := []
  stamp : Stamp := {}
  region : Option Nat := none
  /-- source words as they stood when a copy onto its own sources began (R357) -/
  pre : List (Nat × PWord) := []
  /-- words already written; the output of a compression or expansion with its length in bytes, and whether the command
  ends in error after it (R357-R359) -/
  pos : Nat := 0
  /-- the words of the input of a compression or expansion that it has read (R358) -/
  got : List PWord := []
  out : Option (List PWord) := none
  size : Nat := 0
  fail : Bool := false
  /-- the cycle in which its next access came to its banks, where it has to wait for them (R281) -/
  since : Option Nat := none
  /-- addresses of the step under way that the host has denied for good (R425) -/
  denied : List Nat := []
  /-- has run: its writes are acknowledged and its barrier arrival is to be made -/
  ran : Bool := false
deriving DecidableEq, Repr, Inhabited

/-- A pool engine with its lease (R355). -/
structure Engine where
  leased : Bool := false
  part : BitVec 5 := 0
  tenant : BitVec 16 := 0
  gen : BitVec 8 := 0
  expiry : Option Nat := none
  tasks : Option Nat := none
  queue : List EngCmd := []
  held : Option (BitVec 8) := none
  abandoned : Bool := false
deriving DecidableEq, Repr, Inhabited

/-- A queue slot (R257, R430). -/
structure QSlot where
  mapped : Bool := false
  fn : BitVec 12 := 0
  q : BitVec 6 := 0
  part : BitVec 5 := 0
  /-- the slot's copy of record words 0x00-0x8F -/
  rec_ : Map Word := []
  head : Nat := 0
  bell : Nat := 0
  cqTail : Nat := 0
  err : Nat := 0
  idleSince : Nat := 0
  gen : Nat := 0
  /-- consecutive commands taken in its class (R257) -/
  served : Nat := 0
  /-- completion records that wait for a translation (R425) -/
  pend : List (List Word) := []
deriving DecidableEq, Repr, Inhabited

/-- A registered queue (R429). -/
structure QReg where
  fn : BitVec 12 := 0
  q : BitVec 6 := 0
  part : BitVec 5 := 0
  /-- TENANT of the record as QREG read it (R425, R429) -/
  tenant : BitVec 16 := 0
  die : BitVec 4 := 0
  addr : BitVec 52 := 0
  shadow : List Byte := []
  /-- VEC of the record as QREG read it (R429, R431) -/
  vec : Nat := 0
  bell : Option Word := none
  err : Nat := 0
  /-- completion records that wait for the queue to be mapped again (R259, R431) -/
  pend : List (List Word) := []
deriving DecidableEq, Repr, Inhabited

/-- A pallet whose records the dispatcher is writing (R266): its first record, the records to be written, how many are written
and how many have been entered, and who waits for the reference: a node's request, by number, or a queue slot. -/
structure PalletJob where
  first : Nat := 0
  recs : List Task := []
  written : Nat := 0
  entered : Nat := 0
  req : Option Nat := none
  slot : Option (BitVec 6) := none
deriving DecidableEq, Repr, Inhabited

/-- A compute die: its dispatcher, task memory, engines and queue slots (R242-R268, R355, R360). -/
structure Die where
  /-- the die counter -/
  ctr : Nat := 0
  task : Map Task := []
  cursor : Nat := 0
  job : Option PalletJob := none
  /-- DCFG: BLKX 8 and AGEX 8 stand for what boot firmware writes (DESIGN CHOICE, log entry 11) -/
  dcfg : Word := 0x108
  slot : Map QSlot := []
  /-- the slot served last, by class (R257) -/
  lastSlot : Map (BitVec 6) := []
  bar : Map PoolBar := []
  /-- engines: engine n of kind k is at 8 k + n -/
  engine : Map Engine := []
  /-- micro-TLB of the request port, walk cache and trackers of the translation unit (R302) -/
  tlb : List TlbEntry := []
  wcache : List TableEntry := []
  walks : List Walk := []
  /-- the memory-side cache: the lines of each set, the least recently used first (R290-R293) -/
  cache : Map (List CacheLine) := []
  fmask : BitVec 6 := 0
  /-- region unloaded last: its size and origin (R240) -/
  lastRegion : Option (Nat × Nat × Nat × Nat) := none
  /-- the head of the ready list that found no origin, and since when (R260) -/
  blocked : Option (Nat × Nat) := none
  headOnly : Bool := false
  /-- the cycle of the last decrement that the dispatcher applied (R249) -/
  decAt : Option Nat := none
  /-- the cycle of the last command that it accepted (R257) -/
  cmdAt : Option Nat := none
  /-- energy left to each partition in the interval, in quanta; below 0 it is a debt (R433) -/
  account : Map Int := []
  pool : Nat := 0
  /-- the partition that drew last from the pool, and the quanta of its turn; the intervals of the die that have ended (R433) -/
  drew : Nat × Nat := (0, 0)
  interval : Nat := 0
deriving DecidableEq, Repr, Inhabited

/-- A node of a course image (R44, R104). -/
structure NodeImage where
  tile : Nat × Nat := (0, 0)
  elem : BitVec 4 := 0
  node : BitVec 4 := 0
  /-- where the pool's 16 words stand in the tile records, and the words (R81) -/
  poolAt : Nat := 0
  pool : Map DWord := []
  ncfg : Word := 0
  fz : Bool := false
  satf : Bool := true
  g : Map Word := []
  ccfg : Map Word := []
  /-- owned ranges: inbox, base and size (R314) -/
  own : List (BitVec 2 × BitVec 56 × Nat) := []
deriving DecidableEq, Repr, Inhabited

/-- One end of an edge in a course image: the tile from the region's origin, and element, node and channel, or port. -/
inductive ImagePort where
  | out (tile : Nat × Nat) (elem node : BitVec 4) (k : BitVec 2)
  | inp (tile : Nat × Nat) (elem node : BitVec 4) (k : BitVec 2)
  | tile (tile : Nat × Nat) (p : BitVec 4)
deriving DecidableEq, Repr, Inhabited

/-- An element of a course image: gates, partition words, loader and supervisor fields, and custom blocks. -/
structure ElemImage where
  tile : Nat × Nat := (0, 0)
  elem : BitVec 4 := 0
  gate : Map Word := []
  pword : Map Word := []
  /-- supervisor and loader fields of the domain table, by domain -/
  sup : Map DWord := []
  cx : Map DWord := []
  data : List (Nat × List Byte) := []
deriving DecidableEq, Repr, Inhabited

/-- A memory tile of a course image (R105). -/
structure TileImage where
  tile : Nat × Nat := (0, 0)
  mtcfg : Word := 0
  data : List (Nat × List Byte) := []
  stage : List (Nat × Nat) := []
deriving DecidableEq, Repr, Inhabited

/-- What the tile records of a course image say. Their format is the control strip's own (R238). -/
structure Course where
  nodes : List NodeImage := []
  elems : List ElemImage := []
  tiles : List TileImage := []
  edges : List (ImagePort × ImagePort × Bool) := []
  fanouts : List (ImagePort × List ImagePort) := []
  /-- the route of each edge, by its destination: the tiles of its routers from the source's to the destination's (R179) -/
  routes : List (ImagePort × List (Nat × Nat)) := []
deriving DecidableEq, Repr, Inhabited

/-- The header and port table of a course image (R238). -/
structure Header where
  w : Nat := 0
  h : Nat := 0
  feat : Word := 0
  size : Nat := 0
  nin : Nat := 0
  nout : Nat := 0
  nsnk : Nat := 0
  digest : List Byte := []
  ports : List Word := []
deriving DecidableEq, Repr, Inhabited

/-- How far a region has come (R248). -/
inductive RegionState where
  | loading
  | running
  | draining
  | saved
deriving DecidableEq, Repr, Inhabited

/-- A snapshot (R393-R398). -/
structure Snapshot where
  /-- the domain, or none for the whole course -/
  dom : Option (BitVec 4) := none
  stamp : Word := 0
  /-- input ports of the course that have sent their MARK (R394) -/
  inSent : BitVec 8 := 0
  /-- a complete snapshot of a domain: its image (R402) -/
  image : List Word := []
deriving DecidableEq, Repr, Inhabited

/-- A region with its course (R240, R262-R265). -/
structure Region where
  id : Nat := 0
  die : BitVec 4 := 0
  task : BitVec 14 := 0
  part : BitVec 5 := 0
  row0 : Nat := 0
  col0 : Nat := 0
  st : RegionState := .loading
  hdr : Header := {}
  course : Course := {}
  /-- the feature mask as it stood at entry to LOADING (R465) -/
  fmask : BitVec 6 := 0
  /-- its load is by restore (R450, R452) -/
  restoring : Bool := false
  acked : List (BitVec 11) := []
  opened : List (BitVec 11) := []
  idle : Nat := 0
  stall : Nat := 0
  /-- tokens each sink has delivered (R239) -/
  sinks : Map Nat := []
  snaps : BitVec 16 := 0
  /-- the snapshot in progress, and those complete and not yet restored (R398, R401) -/
  snap : Option Snapshot := none
  done : List Snapshot := []
  /-- where the image of a saved region stands in the save area, and its bytes (R404) -/
  saveAt : Nat := 0
  saveLen : Nat := 0
  /-- deferred reads that its memory tiles keep while it is saved (R397) -/
  asleep : List Req := []
  /-- tokens of FORMAT faults that stand at channels of its nodes while it is saved (R173, R404) -/
  bad : List (NodeRef × (BitVec 2 × Token × Bool)) := []
  /-- output ports: bound to a successor's route, or discarding (R254) -/
  oport : Map (Option Nat) := []
  /-- input ports whose predecessor has ended (R255) -/
  iend : BitVec 8 := 0
  ifed : BitVec 8 := 0
  /-- a poisoned token has been logged (R391) -/
  logged : Bool := false
  /-- whether something of the region fired in the current cycle (R265) -/
  fired : Bool := false
deriving DecidableEq, Repr, Inhabited

/-- A partition: its control block and event log (R419, R421). -/
structure Partition where
  pcb : Map Word := []
  /-- entries written since ELOG was written (R421) -/
  logged : Nat := 0
  repeats : BitVec 16 := 0
  notes : Nat := 0
  waymask : BitVec 16 := 0xFFFF
deriving DecidableEq, Repr, Inhabited

/-- A key slot (R422). -/
structure KeySlot where
  live : Bool := false
  owner : BitVec 5 := 0
  share : Word := 0
  /-- KFREE has begun: no new request passes its check (R423) -/
  closing : Bool := false
  /-- partitions that a KSHARE is removing (R423) -/
  leaving : Word := 0
  /-- its key material, which nothing reads but the encryption engine -/
  key : List Word := []
deriving DecidableEq, Repr, Inhabited

/-- STATE of the TDI of a virtual function (R426). -/
inductive TdiState where
  | unlocked
  | locked
  | run
  | error
deriving DecidableEq, Repr, Inhabited

/-- A host port with the management ring of its PF (R424-R432). -/
structure HostPort where
  mrtail : BitVec 6 := 0
  mrhead : BitVec 6 := 0
  mrctl : Word := 0
  mrlast : BitVec 6 := 0
  /-- an entry is being served (R428) -/
  busy : Bool := false
  ring : Map Word := []
  /-- signals sent to the host: by function and MSI-X vector, at 2,048 times the function plus the vector (R259, R424, R428) -/
  signals : Map Nat := []
  /-- NumVFs of the PF (R424) -/
  numVfs : Nat := 0
  atc : List TlbEntry := []
  /-- PASIDs being torn down, and those whose ATS invalidation has not completed (R432) -/
  tearing : List (BitVec 20) := []
  invals : List (BitVec 20) := []
  /-- the last answer on the PF's DOE mailbox (R428) -/
  doe : List Word := []
deriving DecidableEq, Repr, Inhabited

/-- A pod grant (R437). -/
structure Grant where
  srcMod : BitVec 10 := 0
  srcTenant : BitVec 16 := 0
  part : BitVec 5 := 0
  tenant : BitVec 16 := 0
  keyid : BitVec 13 := 0
  rights : BitVec 4 := 0
  revoking : Bool := false
deriving DecidableEq, Repr, Inhabited

/-- A tenant counter in secure storage (R445). -/
structure Counter where
  live : Bool := false
  tid : BitVec 64 := 0
  part : BitVec 5 := 0
  val : BitVec 64 := 0
deriving DecidableEq, Repr, Inhabited

/-- What moves next: the steps of a clock cycle are over, or a step that no node issues takes place. -/
inductive Act where
  | cycle
  | event (i : Instr)
deriving DecidableEq, Repr, Inhabited

/-- The node and slot whose transition runs, and the word that its `HEAD` reports: the channel as it stood at the end of the
cycle before the issue (R136). -/
structure Cursor where
  node : NodeRef := {}
  slot : BitVec 4 := 0
  head : Word := 0
deriving DecidableEq, Repr, Inhabited

/-- The module. -/
structure State where
  /-- what moves next, first first: the model's own account of timing and of the outside world -/
  agenda : List Act := []
  /-- what the elements issue in the present cycle, one transition each: chosen from the state at the end of the cycle before
  (R27, R35, R139) -/
  picks : List Cursor := []
  /-- the other steps of the present cycle are over: its issues follow, and then its end -/
  closing : Bool := false
  cur : Cursor := {}
  /-- cycles of the fabric since cold reset -/
  cycle : Nat := 0
  /-- numbers already given to requests, messages, regions and edges -/
  serial : Nat := 0
  /-- free values already taken: the model's own field -/
  taken : Nat := 0
  node : Map Node := []
  elem : Map Elem := []
  tile : Map MTile := []
  /-- every byte of the physical map (R275), by physical address -/
  mem : List Host.Cell := []
  /-- poison, presence and barrier marks, by word (physical address / 4) -/
  wmeta : Map WMeta := []
  /-- key ID under which a 128-byte line was last written, by line (R293) -/
  lineKey : Map (BitVec 13) := []
  /-- host-window stores on their way to their host, in the order in which they were placed on the link (R328) -/
  posted : List Posted := []
  edge : Map Edge := []
  /-- the flits in the buffers of the routers, in the order in which they came, and what each output port granted last
  (R177) -/
  net : List Flit := []
  grants : Map Nat := []
  fanout : Map Fanout := []
  reqs : List Req := []
  resps : List Resp := []
  logs : List LogEntry := []
  tags : List TagMsg := []
  /-- held units that a completed invalidation retries (R387) -/
  replays : List HeldUnit := []
  traps : List Trap := []
  decs : List DecMsg := []
  podSent : List PodSent := []
  die : Map Die := []
  region : Map Region := []
  part : Map Partition := []
  key : Map KeySlot := []
  hbmode : BitVec 64 := 0
  /-- DDR-5 capacity of each channel in bytes (R289) -/
  ddr : Nat := 0
  qreg : List QReg := []
  /-- the PF whose management ring is next where both have entries: 0 north, 1 south (R427) -/
  turn : Bool := false
  port : Map HostPort := []
  /-- PASID generations (R432), and the partition each VF is assigned to and its TDI (R426) -/
  pasidGen : Map Nat := []
  vfPart : Map (BitVec 5) := []
  tdi : Map TdiState := []
  /-- ATS enabled on a function, by function (R425) -/
  ats : Map Bool := []
  podid : Word := 0
  route : Map (BitVec 16) := []
  linkUp : BitVec 16 := 0
  grant : List Grant := []
  /-- what the device answered a host agent last; none is Completer Abort (R328, R364) -/
  hostAns : Option PWord := none
  counter : Map Counter := []
  nonce : List (List Byte) := []
  /-- admitted dies, failed dies, failed firmware, full service, firmware measurement (R462-R468) -/
  dadm : BitVec 18 := 0
  /-- dies that have passed steps 1 to 3, and dies admitted in this cycle, which act as admitted from the next (R462, R463) -/
  booted : BitVec 18 := 0
  admitting : BitVec 18 := 0
  stfail : BitVec 18 := 0
  fwfail : Bool := false
  /-- dies that stay in ROM -/
  rom : BitVec 18 := 0
  clk : Bool := false
  fwmeas : List Byte := []
  full : BitVec 18 := 0
  /-- junction temperatures, and the dies that are throttled by temperature or by their cap (R433, R466) -/
  temp : Map Nat := []
  /-- coolant inlet temperature as firmware has read it (R467) -/
  inlet : BitVec 8 := 0
  throttled : BitVec 18 := 0
  capped : BitVec 18 := 0
  /-- quanta spent by each die in its present interval and in the last completed one, and its cap (R433) -/
  spent : Map Nat := []
  spentLast : Map Nat := []
  cap : Map Nat := []
  cecnt : Map Word := []
  dstale : Map Word := []
  dover : Map Word := []
deriving DecidableEq, Repr, Inhabited

/-- The partition control block of partition 0 after cold reset: it holds node 1 (R417), with VALID set and STATE
IDLE. -/
def resetPart0 : Partition := { pcb := [(0, 0x9040_0000)] }

/-- The module right after cold reset (R11, R417, R422, R462): every die in ROM, no die admitted, partition 0 on node 1,
key slot 0 live, and every other field at its reset value. -/
def State.reset : State :=
  { part := [(0, resetPart0)], key := [(0, { live := true })] }

end Sys2Proof.Machine
end

