-- ==== Sys2Proof/Config.lean ====
section
/-! DEFINITION. What the implementation fixes and the manual leaves open: constants without a body, of which nothing can
be proved but what holds whatever they are. -/

namespace Sys2Proof.Config

/-- The value that the free choice number `n` takes, at the width asked for. `State.taken` counts the choices. -/
opaque freeValue : Nat → Word

/-- What `FRCP` (0), `FRSQ` (1), `FEXP2` (2) and `FLOG2` (3) deliver for 32 input bits and FZ where the result is not
exact (R118): a fixed function that the manual bounds and does not give. -/
opaque approx : Nat → Word → Bool → Word

/-- The tweak under which the 128-byte line of a number is encrypted (R18, R422): 16 bytes. -/
opaque tweak : Nat → List Byte

/-- The tile records of a course image (R238): the format is the control strip's own. -/
opaque parseCourse : List Byte → Option Machine.Course

/-- SROOT, the sealing root, and the 64 bytes of the exchange key's seed that it gives with a firmware measurement (R446). -/
opaque sroot : List Byte
opaque exchangeSeed : List Byte → List Byte

/-- The 96 bytes of the identity key: SK.seed, SK.prf and PK.seed (R448). -/
opaque identitySeed : List Byte

/-- The 32 random bytes of a draw of the kiln (R447, R448). -/
opaque kilnRandom : Nat → List Byte

/-- Whether both host ports lead to one host (R294, R328). -/
opaque oneHost : Bool

/-- The page of host memory to which the host takes a window page of a port with its PASID (R294). -/
opaque hostPage : Bool → BitVec 20 → Nat → BitVec 38

/-- Whether the dispatcher clock of a die that runs its fabric at 1.25 GHz while the module runs at 2.5 GHz has no edge in a cycle:
the die and the cycle (R9, R433, R466). -/
opaque dieSkips : Nat → Nat → Bool

/-- Capacity of a DDR-5 channel in bytes (R289), and the inlet temperature of the coolant in °C (R467). -/
opaque ddrChannel : Nat
opaque coolant : BitVec 8

end Sys2Proof.Config
end

