-- ==== Sys2Proof/Machine/Flags.lean ====
section
/-! DEFINITION. Numbers and the FPSTAT flags (R47-R79): floating-point values, rounding, the arithmetic of FP32, BF16 and
FP16, the narrow block formats, conversions to integers, RN30 residues, and the bounded approximations. -/

namespace Sys2Proof.Machine

/-- The flags of FPSTAT[5:0] (R22). -/
def flagNX : BitVec 6 := 1
def flagUF : BitVec 6 := 2
def flagOF : BitVec 6 := 4
def flagDZ : BitVec 6 := 8
def flagNV : BitVec 6 := 16
def flagIV : BitVec 6 := 32

/-- A rounding mode (R55). -/
inductive Rounding where
  | nearest
  | zero
  | up
  | down
deriving DecidableEq, Repr, Inhabited

/-- The rounding mode of its 2-bit code (R55). -/
def Rounding.ofCode (c : BitVec 2) : Rounding :=
  if c = 0 then .nearest else if c = 1 then .zero else if c = 2 then .up else .down

/-- A value of a floating-point format, exact: NaN, an infinity, or (-1)^neg * m * 2^e, where m = 0 is a signed zero. -/
inductive FVal where
  | nan
  | inf (neg : Bool)
  | fin (neg : Bool) (m : Nat) (e : Int)
deriving DecidableEq, Repr, Inhabited

/-- A binary format with infinities and NaN (R52). -/
structure FpFmt where
  ew : Nat
  mw : Nat
  bias : Nat
  canonNan : Nat
deriving DecidableEq, Repr

def fmtFp32 : FpFmt := ⟨8, 23, 127, 0x7FC00000⟩
def fmtBf16 : FpFmt := ⟨8, 7, 127, 0x7FC0⟩
def fmtFp16 : FpFmt := ⟨5, 10, 15, 0x7E00⟩

/-- The number of bits of a code. -/
def FpFmt.width (F : FpFmt) : Nat := F.ew + F.mw + 1

/-- The sign bit of a code, in place. -/
def FpFmt.sign (F : FpFmt) (neg : Bool) : Nat := if neg then 2 ^ (F.ew + F.mw) else 0

/-- The code of an infinity, and of the largest finite magnitude. -/
def FpFmt.infCode (F : FpFmt) (neg : Bool) : Nat := F.sign neg + (2 ^ F.ew - 1) * 2 ^ F.mw
def FpFmt.maxCode (F : FpFmt) (neg : Bool) : Nat := F.sign neg + (2 ^ F.ew - 1) * 2 ^ F.mw - 1

/-- The value of a code; `fz` reads a subnormal as a zero of its sign (R52, R53, R58). -/
def FpFmt.decode (F : FpFmt) (fz : Bool) (c : Nat) : FVal :=
  let neg := decide (c / 2 ^ (F.ew + F.mw) % 2 = 1)
  let e := c / 2 ^ F.mw % 2 ^ F.ew
  let m := c % 2 ^ F.mw
  if e = 2 ^ F.ew - 1 then (if m = 0 then .inf neg else .nan)
  else if e = 0 then .fin neg (if fz then 0 else m) (1 - (F.bias : Int) - F.mw)
  else .fin neg (2 ^ F.mw + m) ((e : Int) - F.bias - F.mw)

/-- `m / 2^k` rounded to an integer in mode `md` for a value of sign `neg`, and whether the rounding was inexact (R55).
A shift past all bits of `m` leaves the same remainder at any length, so the shift is bounded by the length of `m`. -/
def roundShift (md : Rounding) (neg : Bool) (m k : Nat) : Nat × Bool :=
  let k := min k (Nat.log2 m + 3)
  let q := m >>> k
  let r := m - (q <<< k)
  let up :=
    match md with
    | .nearest => decide (2 * r > 2 ^ k) || (decide (2 * r = 2 ^ k) && decide (k ≠ 0) && decide (q % 2 = 1))
    | .zero => false
    | .up => !neg && decide (r ≠ 0)
    | .down => neg && decide (r ≠ 0)
  (if up then q + 1 else q, decide (r ≠ 0))

/-- `m * 2^e` rounded to a multiple of `2^q`. -/
def roundAt (md : Rounding) (neg : Bool) (m : Nat) (e q : Int) : Nat × Bool :=
  if q ≤ e then (m <<< (e - q).toNat, false) else roundShift md neg m (q - e).toNat

/-- Whether an overflow in mode `md` delivers an infinity (R56). -/
def overflowToInf (md : Rounding) (neg : Bool) : Bool :=
  match md with
  | .nearest => true
  | .zero => false
  | .up => !neg
  | .down => neg

/-- The code and flags of the exact value (-1)^neg * m * 2^e rounded once (R54-R58). -/
def FpFmt.round (F : FpFmt) (md : Rounding) (fz neg : Bool) (m : Nat) (e : Int) : Nat × BitVec 6 :=
  if m = 0 then (F.sign neg, 0)
  else
    let msb : Int := e + Nat.log2 m
    let u := roundAt md neg m e (msb - F.mw)
    let eU : Int := if u.1 = 2 ^ (F.mw + 1) then msb + 1 else msb
    if (F.bias : Int) < eU then
      (if overflowToInf md neg then F.infCode neg else F.maxCode neg, flagOF ||| flagNX)
    else if eU < 1 - (F.bias : Int) then
      let t := roundAt md neg m e (1 - (F.bias : Int) - F.mw)
      if fz && decide (t.1 < 2 ^ F.mw) then (F.sign neg, flagUF ||| flagNX)
      else (F.sign neg + t.1, if t.2 then flagUF ||| flagNX else 0)
    else
      let frac := if u.1 = 2 ^ (F.mw + 1) then 0 else u.1 - 2 ^ F.mw
      (F.sign neg + (eU + F.bias).toNat * 2 ^ F.mw + frac, if u.2 then flagNX else 0)

/-- The code in which a value is delivered (R53, R54). -/
def FpFmt.deliver (F : FpFmt) (md : Rounding) (fz : Bool) (v : FVal) : Nat × BitVec 6 :=
  match v with
  | .nan => (F.canonNan, 0)
  | .inf neg => (F.infCode neg, 0)
  | .fin neg m e => F.round md fz neg m e

/-- The signed significand of a finite value at exponent `q`, which is at most its own. -/
def alignTo (neg : Bool) (m : Nat) (e q : Int) : Int :=
  let a : Int := (m <<< (e - q).toNat : Nat)
  if neg then -a else a

/-- The value of a signed significand. -/
def ofSigned (zneg : Bool) (a : Int) (q : Int) : FVal :=
  if a = 0 then .fin zneg 0 0 else .fin (decide (a < 0)) a.natAbs q

/-- The exact sum; the second component holds NV (R54, R56). -/
def FVal.add (md : Rounding) (x y : FVal) : FVal × BitVec 6 :=
  match x, y with
  | .nan, _ => (.nan, 0)
  | _, .nan => (.nan, 0)
  | .inf s, .inf t => if s = t then (.inf s, 0) else (.nan, flagNV)
  | .inf s, .fin .. => (.inf s, 0)
  | .fin .., .inf t => (.inf t, 0)
  | .fin s m e, .fin t n g =>
    let q := min e g
    let zneg := if s = t then s else decide (md = .down)
    (ofSigned zneg (alignTo s m e q + alignTo t n g q) q, 0)

/-- The value with its sign inverted. -/
def FVal.neg : FVal → FVal
  | .nan => .nan
  | .inf s => .inf (!s)
  | .fin s m e => .fin (!s) m e

/-- The exact product; the second component holds NV (R54, R56). -/
def FVal.mul (x y : FVal) : FVal × BitVec 6 :=
  match x, y with
  | .nan, _ => (.nan, 0)
  | _, .nan => (.nan, 0)
  | .inf s, .inf t => (.inf (s != t), 0)
  | .inf s, .fin t n _ => if n = 0 then (.nan, flagNV) else (.inf (s != t), 0)
  | .fin s m _, .inf t => if m = 0 then (.nan, flagNV) else (.inf (s != t), 0)
  | .fin s m e, .fin t n g => (.fin (s != t) (m * n) (e + g), 0)

/-- The exact x * y + z. An invalid product is NaN with NV whatever the addend is (R53). -/
def FVal.fma (md : Rounding) (x y z : FVal) : FVal × BitVec 6 :=
  let p := FVal.mul x y
  let r := FVal.add md p.1 z
  (r.1, p.2 ||| r.2)

/-- The value times 2^k. -/
def FVal.scale (x : FVal) (k : Int) : FVal :=
  match x with
  | .fin s m e => .fin s m (e + k)
  | v => v

/-- x < y for values that are no NaN, with -0 equal to +0. -/
def FVal.lt (x y : FVal) : Bool :=
  match x, y with
  | .nan, _ => false
  | _, .nan => false
  | .inf s, .inf t => s && !t
  | .inf s, .fin .. => s
  | .fin .., .inf t => !t
  | .fin s m e, .fin t n g =>
    let q := min e g
    decide (alignTo s m e q < alignTo t n g q)

/-- x = y for values that are no NaN, with -0 equal to +0. -/
def FVal.eqv (x y : FVal) : Bool :=
  match x, y with
  | .nan, _ => false
  | _, .nan => false
  | x, y => !FVal.lt x y && !FVal.lt y x

def FVal.isNan : FVal → Bool
  | .nan => true
  | _ => false

def FVal.isNeg : FVal → Bool
  | .nan => false
  | .inf s => s
  | .fin s _ _ => s

/-- The lesser, with -0 below +0, and NaN if either is NaN (R117, R75). -/
def FVal.min (x y : FVal) : FVal :=
  if x.isNan || y.isNan then .nan
  else if FVal.lt x y || (FVal.eqv x y && x.isNeg) then x else y

/-- The greater, with -0 below +0, and NaN if either is NaN (R117, R75). -/
def FVal.max (x y : FVal) : FVal :=
  if x.isNan || y.isNan then .nan
  else if FVal.lt x y || (FVal.eqv x y && x.isNeg) then y else x

/-- The magnitude (R117). -/
def FVal.abs : FVal → FVal
  | .nan => .nan
  | .inf _ => .inf false
  | .fin _ m e => .fin false m e

/-- A sum, product and fused product of codes of one format, each rounded once (R54). -/
def FpFmt.addOp (F : FpFmt) (md : Rounding) (fz : Bool) (a b : Nat) : Nat × BitVec 6 :=
  let r := FVal.add md (F.decode fz a) (F.decode fz b)
  let d := F.deliver md fz r.1
  (d.1, r.2 ||| d.2)

def FpFmt.subOp (F : FpFmt) (md : Rounding) (fz : Bool) (a b : Nat) : Nat × BitVec 6 :=
  let r := FVal.add md (F.decode fz a) (F.decode fz b).neg
  let d := F.deliver md fz r.1
  (d.1, r.2 ||| d.2)

def FpFmt.mulOp (F : FpFmt) (md : Rounding) (fz : Bool) (a b : Nat) : Nat × BitVec 6 :=
  let r := FVal.mul (F.decode fz a) (F.decode fz b)
  let d := F.deliver md fz r.1
  (d.1, r.2 ||| d.2)

def FpFmt.fmaOp (F : FpFmt) (md : Rounding) (fz : Bool) (a b c : Nat) : Nat × BitVec 6 :=
  let r := FVal.fma md (F.decode fz a) (F.decode fz b) (F.decode fz c)
  let d := F.deliver md fz r.1
  (d.1, r.2 ||| d.2)

/-- An operation on one code that is exact. -/
def FpFmt.exactOp (F : FpFmt) (fz : Bool) (v : FVal) : Nat := (F.deliver .nearest fz v).1

/-- a * 2^k rounded once (R123). Past 2^10 the result is beyond the format's range whatever a is, so k is held within
that: the value stays on the same side of every boundary. -/
def FpFmt.scaleOp (F : FpFmt) (md : Rounding) (fz : Bool) (a : Nat) (k : Int) : Nat × BitVec 6 :=
  F.deliver md fz ((F.decode fz a).scale (Max.max (-1024) (Min.min 1024 k)))

/-- A value in another format (R67). -/
def convertFp (src dst : FpFmt) (md : Rounding) (fz : Bool) (a : Nat) : Nat × BitVec 6 := dst.deliver md fz (src.decode fz a)

/-- A float to an integer within `lo..hi` (R66). -/
def FVal.toInt (md : Rounding) (lo hi : Int) (v : FVal) : Int × BitVec 6 :=
  match v with
  | .nan => (0, flagNV)
  | .inf s => (if s then lo else hi, flagNV)
  | .fin s m e =>
    if e > 64 ∧ m ≠ 0 then (if s then lo else hi, flagNV)
    else
      let r := roundAt md s m e 0
      let i : Int := if s then -(r.1 : Int) else (r.1 : Int)
      if i < lo then (lo, flagNV) else if hi < i then (hi, flagNV) else (i, if r.2 then flagNX else 0)

/-- An integer in a format (R66). -/
def FpFmt.ofInt (F : FpFmt) (md : Rounding) (i : Int) : Nat × BitVec 6 := F.round md false (decide (i < 0)) i.natAbs 0

/-! ## Narrow block formats (R52, R61, R62) -/

/-- Mantissa width, bias, largest finite code, and sign bit of a narrow tag (4 E4M3, 5 E5M2, 6 E2M3). -/
def narrowMw (tag : Nat) : Nat := if tag = 5 then 2 else 3
def narrowBias (tag : Nat) : Nat := if tag = 4 then 7 else if tag = 5 then 15 else 1
def narrowMax (tag : Nat) : Nat := if tag = 4 then 0x7E else if tag = 5 then 0x7B else 0x1F
def narrowSign (tag : Nat) : Nat := if tag = 6 then 0x20 else 0x80
def narrowNan (tag : Nat) : Nat := if tag = 4 then 0x7F else if tag = 5 then 0x7E else 0
/-- Width of an element of a narrow tag. -/
def narrowWidth (tag : Nat) : Nat := if tag = 6 then 6 else 8

/-- The exact value of a narrow element under a block scale (R61). -/
def decodeBlock (tag x scale : Nat) : FVal :=
  let mw := narrowMw tag
  let neg := decide (x / narrowSign tag % 2 = 1)
  let mag := x % narrowSign tag
  let e := mag / 2 ^ mw
  let m := mag % 2 ^ mw
  let k : Int := (scale : Int) - 127
  if scale = 255 then .nan
  else if tag = 4 ∧ mag = 0x7F then .nan
  else if tag = 5 ∧ e = 31 then (if m = 0 then .inf neg else .nan)
  else if e = 0 then .fin neg m (1 - (narrowBias tag : Int) - mw + k)
  else .fin neg (2 ^ mw + m) ((e : Int) - narrowBias tag - mw + k)

/-- The element that encodes an exact value under a block scale (R62). -/
def encodeBlock (tag : Nat) (satf : Bool) (v : FVal) (scale : Nat) : Nat × BitVec 6 :=
  let mw := narrowMw tag
  let sg := fun (neg : Bool) => if neg then narrowSign tag else 0
  let top := fun (neg : Bool) =>
    if satf || decide (tag = 6) then sg neg + narrowMax tag
    else if tag = 4 then narrowNan 4 else sg neg + 0x7C
  if scale = 255 then (narrowNan tag, flagNV)
  else
    match v with
    | .nan => (narrowNan tag, if tag = 6 then flagNV else 0)
    | .inf neg => (top neg, if tag = 5 ∧ satf = false then 0 else flagNX)
    | .fin neg m e =>
      if m = 0 then (sg neg, 0)
      else
        let e := e + 127 - scale
        let bias : Int := narrowBias tag
        let msb : Int := e + Nat.log2 m
        let u := roundAt .nearest neg m e (msb - mw)
        let eU : Int := if u.1 = 2 ^ (mw + 1) then msb + 1 else msb
        if eU < 1 - bias then
          let t := roundAt .nearest neg m e (1 - bias - mw)
          (sg neg + t.1, if t.2 then flagUF ||| flagNX else 0)
        else
          let frac := if u.1 = 2 ^ (mw + 1) then 0 else u.1 - 2 ^ mw
          let code := (eU + bias).toNat * 2 ^ mw + frac
          if code > narrowMax tag then (top neg, flagOF ||| flagNX)
          else (sg neg + code, if u.2 then flagNX else 0)

/-- Element `i` of a word of a narrow tag (R47). -/
def narrowElem (tag : Nat) (w : Word) (i : Nat) : Nat := bitsNat w (narrowWidth tag * i) (narrowWidth tag)

/-- A word with element `i` replaced (R47, R121). -/
def setNarrowElem (tag : Nat) (w : Word) (i x : Nat) : Word := setBits w (narrowWidth tag * i) (narrowWidth tag) x

/-- The E8M0 scale that `SCLO` computes from a largest magnitude (R135). -/
def scaleOf (tag : Nat) (v : FVal) : Nat :=
  let emax : Int := if tag = 4 then 8 else if tag = 5 then 15 else 2
  match v with
  | .nan => 255
  | .inf _ => 255
  | .fin _ m e => if m = 0 then 127 else (Max.max 0 (Min.min 254 (e + Nat.log2 m - emax + 127))).toNat

/-! ## RN30 (R68-R73) -/

def rnM : Nat := 1069550592
def rnHalf : Nat := 534775296
def rnInvalid : Word := 0xFFFFFFFF

/-- A valid RN30 word (R68). -/
def rnValid (w : Word) : Bool := decide (bitsNat w 30 2 = 0) && decide (bitsNat w 10 10 ≤ 1022) && decide (bitsNat w 20 10 ≤ 1020)

/-- The integer a valid word stands for (R69). -/
def rnValue (w : Word) : Int :=
  let t := bitsNat w 0 10 * 683 % 1024 * 1044483 + bitsNat w 10 10 * 511 % 1023 * 1045504
    + bitsNat w 20 10 * 851 % 1021 * 1047552
  let t := t % rnM
  if t ≥ rnHalf then (t : Int) - rnM else t

/-- The word of three residues. -/
def rnWord (x1021 x1023 x1024 : Nat) : Word := BitVec.ofNat 32 (x1021 * 2 ^ 20 + x1023 * 2 ^ 10 + x1024)

/-- The word of an integer, with NV where it is out of range (R70). -/
def rnEncode (v : Int) : Word × BitVec 6 :=
  if -(rnHalf : Int) ≤ v ∧ v < rnHalf then (rnWord (v % 1021).toNat (v % 1023).toNat (v % 1024).toNat, 0)
  else (rnInvalid, flagNV)

/-- A residue operation, channel by channel (R71). -/
def rnOp (op : Int → Int → Int) (x y : Word) : Word :=
  if rnValid x && rnValid y then
    let ch := fun (lo : Nat) (m : Int) => (op (bitsNat x lo 10) (bitsNat y lo 10) % m).toNat
    rnWord (ch 20 1021) (ch 10 1023) (ch 0 1024)
  else rnInvalid

/-! ## Bounded approximations (R118) -/

/-- The integer square root by bits from `2^(k-1)` down: the greatest r with r*r ≤ n that `r0` and those bits reach. -/
def isqrtFrom (n : Nat) : Nat → Nat → Nat
  | 0, r => r
  | k + 1, r => if (r + 2 ^ k) * (r + 2 ^ k) ≤ n then isqrtFrom n k (r + 2 ^ k) else isqrtFrom n k r

/-- The integer square root of a number below 2^256. -/
def isqrt (n : Nat) : Nat := isqrtFrom n 128 0

/-- 2^f in units of 2^-124 for the `k` bits of a fraction f that the number `n` holds, the highest first: `root` is 2^(2^-i) for the
bit before, `acc` the product of the roots found. -/
def exp2Bits (n : Nat) : Nat → Nat → Nat → Nat
  | 0, _, acc => acc
  | k + 1, root, acc =>
    let r := isqrt (root <<< 124)
    exp2Bits n k r (if n.testBit k then (acc * r) >>> 124 else acc)

/-- 2^(f / 2^100) * 2^124 for f below 2^100, to within 2^-110. -/
def exp2Frac (f : Nat) : Nat := exp2Bits f 100 (2 ^ 125) (2 ^ 124)

/-- The first `k` bits of log2(x / 2^200) for x from 2^200 to 2^201 - 1, by repeated squaring; `acc` holds those found. -/
def log2Bits : Nat → Nat → Nat → Nat
  | 0, _, acc => acc
  | k + 1, x, acc =>
    let y := (x * x) >>> 200
    if y ≥ 2 ^ 201 then log2Bits k (y >>> 1) (2 * acc + 1) else log2Bits k y (2 * acc)

/-- A positive value `m * 2^e` is a power of two: its exponent. -/
def powerOfTwo (m : Nat) (e : Int) : Option Int := if m = 2 ^ Nat.log2 m then some (e + Nat.log2 m) else none

/-- |a - b| ≤ c for exact values, a and b with their signs. -/
def near (sa : Bool) (ma : Nat) (ea : Int) (sb : Bool) (mb : Nat) (eb : Int) (mc : Nat) (ec : Int) : Bool :=
  let q := min (min ea eb) ec
  decide ((alignTo sa ma ea q - alignTo sb mb eb q).natAbs ≤ (alignTo false mc ec q).natAbs)

/-- |d - y| ≤ b for d a code and y, b exact values with exponents: whether a delivered code keeps the bound (R118). -/
def withinBound (d : Nat) (neg : Bool) (ym : Nat) (ye : Int) (bm : Nat) (be : Int) : Bool :=
  match fmtFp32.decode false d with
  | .fin s m e => near s m e neg ym ye bm be
  | _ => false

/-- The bound of R118 for a code d as the value of 1/a, a = m * 2^e: |d * a - 1| ≤ 2^-22, or in the subnormal range
|d * a - 1| ≤ 2^-148 * |a|. -/
def nearReciprocal (m : Nat) (e : Int) (neg sub : Bool) (d : Nat) : Bool :=
  match fmtFp32.decode false d with
  | .fin s m' e' => near s (m' * m) (e' + e) neg 1 0 (if sub then m else 1) (if sub then e - 148 else -22)
  | _ => false

/-- The bound of R118 for a code d as the value of 1/sqrt(a): (1 - 2^-22)^2 ≤ d^2 * a ≤ (1 + 2^-22)^2. -/
def nearRoot (m : Nat) (e : Int) (d : Nat) : Bool :=
  match fmtFp32.decode false d with
  | .fin false m' e' => near false (m' * m' * m) (2 * e' + e) false (2 ^ 44 + 1) (-44) (2 ^ 23) (-44)
  | _ => false

/-- The bound of R118 around y = ym * 2^ye, which is known to within 2^-90 of itself: 2^-22 of |y|, for `abs22` and |y| < 1 2^-22,
in the subnormal range 2^-22 of the smallest normal. -/
def nearValue (neg : Bool) (ym : Nat) (ye : Int) (abs22 sub : Bool) (d : Nat) : Bool :=
  if sub then withinBound d neg ym ye 1 (-148)
  else if abs22 && decide (ye + Nat.log2 ym < 0) then withinBound d neg ym ye 1 (-22)
  else withinBound d neg ym ye ym (ye - 22)

/-- The result that the unit delivers where it is not exact: what the device's own function gives, as far as it keeps the
bound `keeps` that R118 sets around y = ym * 2^ye, in the subnormal range (`true`) and elsewhere, and y rounded to nearest
otherwise. -/
def approxResult (fn : Nat) (x : Word) (fz neg : Bool) (ym : Nat) (ye : Int) (keeps : Bool → Nat → Bool) : Nat × BitVec 6 :=
  let best := fmtFp32.round .nearest fz neg ym ye
  let offer := (Config.approx fn x fz).toNat
  if ye + Nat.log2 ym < -126 then
    if fz then (fmtFp32.sign neg, flagUF ||| flagNX)
    else (if keeps true offer then offer else best.1, flagUF ||| flagNX)
  else
    let sub := decide (offer % 2 ^ 31 < 2 ^ 23)
    if keeps false offer && !(fz && sub) then (offer, flagNX) else (best.1, best.2 ||| flagNX)

/-- `FRCP` (R118). The rows of the table state their own flags: NX is not set with a NaN, DZ or NV row (DEDUCED, log entry 63). -/
def frcpOp (fz : Bool) (x : Word) : Nat × BitVec 6 :=
  match fmtFp32.decode fz x.toNat with
  | .nan => (fmtFp32.canonNan, 0)
  | .inf s => (fmtFp32.sign s, 0)
  | .fin s m e =>
    if m = 0 then (fmtFp32.infCode s, flagDZ)
    else
      match powerOfTwo m e with
      | some k => fmtFp32.round .nearest fz s 1 (-k)
      | none =>
        -- |a| below 2^-128: the reciprocal is past the largest finite magnitude
        if e + Nat.log2 m < -128 then (fmtFp32.infCode s, flagOF ||| flagNX)
        else approxResult 0 x fz s (2 * (2 ^ 96 / m) + 1) (-97 - e) (nearReciprocal m e s)

/-- `FRSQ` (R118; log entry 63). -/
def frsqOp (fz : Bool) (x : Word) : Nat × BitVec 6 :=
  match fmtFp32.decode fz x.toNat with
  | .nan => (fmtFp32.canonNan, 0)
  | .inf s => if s then (fmtFp32.canonNan, flagNV) else (0, 0)
  | .fin s m e =>
    if m = 0 then (fmtFp32.infCode s, flagDZ)
    else if s then (fmtFp32.canonNan, flagNV)
    else
      match powerOfTwo m e with
      | some k =>
        if k % 2 = 0 then fmtFp32.round .nearest fz false 1 (-(k / 2))
        else approxResult 1 x fz false (2 * isqrt (2 ^ 161) + 1) (-(k + 163) / 2) (fun _ => nearRoot m e)
      | none =>
        -- m * 2^e = n * 2^(2h): the root is sqrt(2^160 / n) * 2^(-80 - h)
        let n := if e % 2 = 0 then m else 2 * m
        let h : Int := if e % 2 = 0 then e / 2 else (e - 1) / 2
        approxResult 1 x fz false (2 * isqrt (2 ^ 160 / n) + 1) (-81 - h) (fun _ => nearRoot m e)

/-- `FEXP2` (R118; log entry 63). 2^n of an integer n that no code represents is delivered within the bound, as any other result
that is not exact (DEDUCED, log entry 62). -/
def fexp2Op (fz : Bool) (x : Word) : Nat × BitVec 6 :=
  match fmtFp32.decode fz x.toNat with
  | .nan => (fmtFp32.canonNan, 0)
  | .inf s => if s then (0, 0) else (fmtFp32.infCode false, 0)
  | .fin s m e =>
    if m = 0 then (0x3F800000, 0)
    else
      let sgn : Int := if s then -1 else 1
      if 0 ≤ e ∨ m % 2 ^ (-e).toNat = 0 then
        let n : Int := sgn * (if e > 10 then 4096 else if 0 ≤ e then (m <<< e.toNat : Nat) else (m >>> (-e).toNat : Nat))
        if n < -149 then approxResult 2 x fz false 1 n (nearValue false 1 n false) else fmtFp32.round .nearest fz false 1 n
      else
        -- the value at 100 fraction bits, the last one standing for the rest
        let v : Int := sgn * (if e ≤ -99 then (m >>> (-e - 99).toNat : Nat) else (m <<< (e + 99).toNat : Nat))
        let cut := decide (e < -99) && decide (m % 2 ^ (-e - 99).toNat ≠ 0)
        let a : Int := 2 * v + (if cut then sgn else 0)
        let n : Int := a / 2 ^ 100
        let f : Nat := (a % 2 ^ 100).toNat
        if n ≥ 128 then (fmtFp32.infCode false, flagOF ||| flagNX)
        else approxResult 2 x fz false (exp2Frac f) (n - 124) (nearValue false (exp2Frac f) (n - 124) false)

/-- `FLOG2` (R118; log entry 63). -/
def flog2Op (fz : Bool) (x : Word) : Nat × BitVec 6 :=
  match fmtFp32.decode fz x.toNat with
  | .nan => (fmtFp32.canonNan, 0)
  | .inf s => if s then (fmtFp32.canonNan, flagNV) else (fmtFp32.infCode false, 0)
  | .fin s m e =>
    if m = 0 then (fmtFp32.infCode true, 0)
    else if s then (fmtFp32.canonNan, flagNV)
    else
      match powerOfTwo m e with
      | some k => fmtFp32.ofInt .nearest k
      | none =>
        let l := Nat.log2 m
        let y : Int := (e + l) * 2 ^ 100 + log2Bits 100 (m <<< (200 - l)) 0
        let neg := decide (y < 0)
        approxResult 3 x fz neg y.natAbs (-100) (nearValue neg y.natAbs (-100) true)

/-! ## FPSTAT (R22) -/

/-- FZ and SATF of an FPSTAT value. -/
def fzOf (fpstat : Word) : Bool := bitAt fpstat 8
def satfOf (fpstat : Word) : Bool := bitAt fpstat 9

/-- FPSTAT with sticky flags added (R57). -/
def raiseFlags (fpstat : Word) (fl : BitVec 6) : Word := fpstat ||| BitVec.setWidth 32 fl

/-- FPSTAT after software writes `v`: the modes are stored, a 1 in a flag clears it (R10, R22). -/
def writeFpstat (fpstat v : Word) : Word :=
  ((fpstat &&& 0x3F) &&& ~~~v) ||| (v &&& 0x300)

end Sys2Proof.Machine
end

