-- ==== Sys2Proof/Machine/Ops.lean ====
section
/-! DEFINITION. Named operations over the state: access to its parts, memory by bytes and words, local stores, domains
and ownership, tokens and channels, taking a fault and returning from one, and the making of requests. -/

namespace Sys2Proof.Machine

/-! ## Parts of the state -/

def State.nd (s : State) (n : NodeRef) : Node := Map.get s.node {} n.key
def State.setNd (s : State) (n : NodeRef) (v : Node) : State := { s with node := Map.set s.node n.key v }
def State.updNd (s : State) (n : NodeRef) (f : Node → Node) : State := s.setNd n (f (s.nd n))
def State.el (s : State) (e : ElemRef) : Elem := Map.get s.elem {} e.key
def State.setEl (s : State) (e : ElemRef) (v : Elem) : State := { s with elem := Map.set s.elem e.key v }
def State.updEl (s : State) (e : ElemRef) (f : Elem → Elem) : State := s.setEl e (f (s.el e))
def State.tl (s : State) (t : TileRef) : MTile := Map.get s.tile {} t.key
def State.setTl (s : State) (t : TileRef) (v : MTile) : State := { s with tile := Map.set s.tile t.key v }
def State.updTl (s : State) (t : TileRef) (f : MTile → MTile) : State := s.setTl t (f (s.tl t))
def State.dieAt (s : State) (d : BitVec 4) : Die := Map.get s.die {} d.toNat
def State.setDie (s : State) (d : BitVec 4) (v : Die) : State := { s with die := Map.set s.die d.toNat v }
def State.updDie (s : State) (d : BitVec 4) (f : Die → Die) : State := s.setDie d (f (s.dieAt d))
def State.rg (s : State) (i : Nat) : Region := Map.get s.region {} i
def State.setRg (s : State) (i : Nat) (v : Region) : State := { s with region := Map.set s.region i v }
def State.updRg (s : State) (i : Nat) (f : Region → Region) : State := s.setRg i (f (s.rg i))
def State.pt (s : State) (p : BitVec 5) : Partition := Map.get s.part {} p.toNat
def State.setPt (s : State) (p : BitVec 5) (v : Partition) : State := { s with part := Map.set s.part p.toNat v }
def State.updPt (s : State) (p : BitVec 5) (f : Partition → Partition) : State := s.setPt p (f (s.pt p))
def State.ed (s : State) (i : Nat) : Edge := Map.get s.edge {} i
def State.setEd (s : State) (i : Nat) (v : Edge) : State := { s with edge := Map.set s.edge i v }
def State.updEd (s : State) (i : Nat) (f : Edge → Edge) : State := s.setEd i (f (s.ed i))
def State.fo (s : State) (i : Nat) : Fanout := Map.get s.fanout {} i
def State.setFo (s : State) (i : Nat) (v : Fanout) : State := { s with fanout := Map.set s.fanout i v }

/-- The element and the node of a key. -/
def elemOfKey (k : Nat) : ElemRef := ⟨BitVec.ofNat 4 (k / 32768), BitVec.ofNat 11 (k / 16), BitVec.ofNat 4 k⟩
def nodeOfKey (k : Nat) : NodeRef := (elemOfKey (k / 16)).nodeRef (BitVec.ofNat 4 k)
def tileOfKey (k : Nat) : TileRef := ⟨BitVec.ofNat 4 (k / 2048), BitVec.ofNat 11 k⟩

/-- A number that names a request, message, region or edge and has not been given before. -/
def State.fresh (s : State) : Nat × State := (s.serial, { s with serial := s.serial + 1 })

/-- The next free value: what the manual leaves open at this point (Config.freeValue). -/
def State.free (s : State) : Word × State := (Config.freeValue s.taken, { s with taken := s.taken + 1 })

/-- The cycle counter lc of an element as a transition issued now reads it in S2 (R23). -/
def State.lc (s : State) (e : ElemRef) : Word := BitVec.ofNat 32 (s.cycle + (s.el e).lcOff + 1)

/-- The parts of a tile index (R4). -/
def tileRow (t : BitVec 11) : Nat := t.toNat / 64
def tileCol (t : BitVec 11) : Nat := t.toNat % 64
/-- A compute tile outside or inside the control strip (R4). -/
def isCompute (t : BitVec 11) : Bool := decide ((tileRow t + tileCol t) % 2 = 0)
/-- A memory tile that programs reach (R277). -/
def isMemTile (t : BitVec 11) : Bool := !isCompute t && decide (tileCol t ≠ 0)

/-! ## Memory -/

/-- The byte at a physical address: an address that is not listed reads as 0. -/
def memGet : List Host.Cell → Nat → Byte
  | [], _ => 0
  | (k, v) :: m, a => if k = a then v else memGet m a

/-- Memory with the byte at an address replaced, in the one canonical form. -/
def memSet : List Host.Cell → Nat → Byte → List Host.Cell
  | [], a, v => if v = 0 then [] else [(a, v)]
  | (k, w) :: m, a, v =>
    if a < k then (if v = 0 then (k, w) :: m else (a, v) :: (k, w) :: m)
    else if a = k then (if v = 0 then m else (a, v) :: m)
    else (k, w) :: memSet m a v

/-- The canonical form: addresses rise strictly and no listed byte is 0. -/
def Memory.wf : List Host.Cell → Bool
  | [] => true
  | [(_, v)] => decide (v ≠ 0)
  | (k, v) :: (k', v') :: m => decide (k < k') && decide (v ≠ 0) && Memory.wf ((k', v') :: m)

/-- `n` bytes from an address on. -/
def readBytes (m : List Host.Cell) (a n : Nat) : List Byte := (List.range n).map (fun i => memGet m (a + i))

/-- The bytes of a list stored from an address on. -/
def writeBytes : List Host.Cell → Nat → List Byte → List Host.Cell
  | m, _, [] => m
  | m, a, b :: bs => writeBytes (memSet m a b) (a + 1) bs

/-- A little-endian number of bytes (R7). -/
def leNat : List Byte → Nat
  | [] => 0
  | b :: bs => b.toNat + 256 * leNat bs

/-- The `n` little-endian bytes of a number (R7). -/
def leBytes (n v : Nat) : List Byte := (List.range n).map (fun i => BitVec.ofNat 8 (v / 256 ^ i))

/-- The 32-bit word at an address (R7). -/
def memWord (m : List Host.Cell) (a : Nat) : Word := BitVec.ofNat 32 (leNat (readBytes m a 4))

/-- The word's bytes replaced. -/
def memSetWord (m : List Host.Cell) (a : Nat) (w : Word) : List Host.Cell := writeBytes m a (leBytes 4 w.toNat)

/-- What memory keeps beside the word that holds a byte. -/
def State.metaAt (s : State) (pa : Nat) : WMeta := Map.get s.wmeta {} (pa / 4)

/-- The marks of a word replaced; the default is not listed. -/
def State.setMeta (s : State) (pa : Nat) (x : WMeta) : State :=
  { s with wmeta := if x = {} then Map.erase s.wmeta (pa / 4) else Map.set s.wmeta (pa / 4) x }

/-- A word with its poison mark (R124, R391). -/
def State.loadWord (s : State) (pa : Nat) : PWord := ⟨memWord s.mem pa, (s.metaAt pa).psn⟩

/-- A word stored with its poison mark. -/
def State.storeWord (s : State) (pa : Nat) (w : PWord) : State :=
  ({ s with mem := memSetWord s.mem pa w.val }).setMeta pa { s.metaAt pa with psn := w.psn }

/-- Words from an address on. -/
def State.loadWords (s : State) (pa n : Nat) : List PWord := (List.range n).map (fun i => s.loadWord (pa + 4 * i))

/-- Words stored from an address on. -/
def State.storeWords (s : State) (pa : Nat) : List PWord → State
  | [] => s
  | w :: ws => State.storeWords (s.storeWord pa w) (pa + 4) ws

/-- A little-endian 64-bit value. -/
def State.load64 (s : State) (pa : Nat) : DWord := BitVec.ofNat 64 (leNat (readBytes s.mem pa 8))

/-- A range of bytes made zero and clean. -/
def State.zeroWords (s : State) (pa : Nat) : Nat → State
  | 0 => s
  | n + 1 => State.zeroWords (({ s with mem := memSetWord s.mem pa 0 }).setMeta pa {}) (pa + 4) n

/-- The whole of a range of words made zero and clean by dropping every listed byte and mark in it. -/
def State.clearRange (s : State) (pa n : Nat) : State :=
  { s with
    mem := s.mem.filter (fun c => decide (c.1 < pa ∨ pa + n ≤ c.1))
    wmeta := s.wmeta.filter (fun c => decide (4 * c.1 < pa ∨ pa + n ≤ 4 * c.1)) }

/-- Where a byte of a local store stands in the physical map (R278). -/
def lsPa (e : ElemRef) (off : Nat) : Nat :=
  0x1000400000000 + e.die.toNat * 2 ^ 32 + e.tile.toNat * 2 ^ 21 + e.elem.toNat * 2 ^ 17 + off

/-- Where a byte of a memory tile stands in the physical map (R277). -/
def tilePa (t : TileRef) (off : Nat) : Nat := 0x1000000000000 + t.die.toNat * 2 ^ 30 + t.tile.toNat * 2 ^ 19 + off

/-! ## Domains and ownership (R148-R155) -/

/-- DOM of a node (R20). -/
def domOf (nd : Node) : BitVec 4 := bits nd.ncfg 28 4

/-- A domain's entry (R148), and its fields. -/
def State.domEntry (s : State) (e : ElemRef) (d : BitVec 4) : DWord := Map.get (s.el e).dtab 0 d.toNat
def entValid (x : DWord) : Bool := bitAt x 63
def entPriv (x : DWord) : Bool := bitAt x 62
def entSusp (x : DWord) : Bool := bitAt x 61
def entSvv (x : DWord) : Bool := bitAt x 60
def entLdrv (x : DWord) : Bool := bitAt x 59
def entLdrn (x : DWord) : BitVec 4 := bits x 55 4
def entSv (die : BitVec 4) (x : DWord) : NodeRef := ⟨die, bits x 44 11, bits x 40 4, bits x 36 4⟩
def entTenant (x : DWord) : BitVec 16 := bits x 16 16
def entKey (x : DWord) : BitVec 13 := bits x 0 13

/-- The node's domain is the partition's privileged domain. -/
def State.privileged (s : State) (n : NodeRef) : Bool := entPriv (s.domEntry n.elemRef (domOf (s.nd n)))

/-- Partition word `w` of a domain (R150). -/
def Elem.pwordAt (e : Elem) (d : BitVec 4) (w : Nat) : Word := Map.get e.pword 0 (3 * d.toNat + w)

/-- The word and bit of the partition words that stand for a resource (R150). -/
def Resource.place : Resource → Nat × Nat
  | .bank i => (0, i)
  | .mbox i => (0, 12 + i)
  | .vgrp i => (0, 16 + i)
  | .acc i => (0, 24 + i)
  | .cell i => (1, i)
  | .gate i => (2, i)

/-- A domain owns a resource. -/
def Elem.owns (e : Elem) (d : BitVec 4) (r : Resource) : Bool := bitAt (e.pwordAt d r.place.1) r.place.2

/-- A resource is being scrubbed (R155). -/
def Elem.scrubbing (e : Elem) (r : Resource) : Bool := e.scrub.any (fun x => decide (x.1 = r))

/-- A resource is owned by a domain other than `d`. -/
def Elem.ownedByOther (e : Elem) (d : BitVec 4) (r : Resource) : Bool :=
  (List.range 16).any (fun i => decide (i ≠ d.toNat) && e.owns (BitVec.ofNat 4 i) r)

/-- The resource kind that a DOMAIN record reports (R379). A gate under scrub is reported as kind 5 with its number in DETA
(DESIGN CHOICE, log entry 107: the list has no kind of its own for a gate). -/
def Resource.rkind : Resource → Nat
  | .bank _ => 0
  | .mbox _ => 1
  | .vgrp _ => 2
  | .acc _ => 3
  | .cell _ => 4
  | .gate _ => 5

/-- Partition of an element, by its course (R295). -/
def State.partOf (s : State) (e : ElemRef) : BitVec 5 :=
  match (s.el e).region with
  | some r => (s.rg r).part
  | none => 0

/-- The stamp of a node's requests (R295). -/
def State.stampOf (s : State) (n : NodeRef) : Stamp :=
  let x := s.domEntry n.elemRef (domOf (s.nd n))
  { part := s.partOf n.elemRef, tenant := entTenant x, keyid := entKey x, issuer := n }

/-! ## Faults (R377-R385) -/

def causeIllegal : BitVec 8 := 0x01
def causeCxUnmapped : BitVec 8 := 0x02
def causeCxUnloaded : BitVec 8 := 0x03
def causeDomain : BitVec 8 := 0x04
def causeFormat : BitVec 8 := 0x05
def causePage : BitVec 8 := 0x06
def causeProt : BitVec 8 := 0x07
def causeWriteTwice : BitVec 8 := 0x08
def causeBarrierStore : BitVec 8 := 0x09
def causeAlign : BitVec 8 := 0x0A
def causeGate : BitVec 8 := 0x0B
def causeSoft : BitVec 8 := 0x0C
def causeBrk : BitVec 8 := 0x0D
def causeStall : BitVec 8 := 0x0E
def causeFeature : BitVec 8 := 0x0F
def causeRemote : BitVec 8 := 0x10
def causeStaleTask : BitVec 8 := 0x11
def causeStaleImage : BitVec 8 := 0x12
def causeCfgIllegal : BitVec 8 := 0x13
def causeSink : BitVec 8 := 0x14
def causeAuth : BitVec 8 := 0x15

/-- PATH of a trap record (R379). -/
def Path.code : Path → Nat
  | .transition => 0
  | .awaited => 1
  | .storeBuffer => 2
  | .latch => 3
  | .channel => 4
  | .cxTrap => 5
  | .stream => 6
  | .engine => 7

/-- An origin record (R378). -/
def originWord (die tile elem node : Nat) (srck : Bool) (cause : BitVec 8) : Word :=
  BitVec.ofNat 32 (die * 2 ^ 28 + tile * 2 ^ 17 + elem * 2 ^ 13 + node * 2 ^ 9 + (if srck then 256 else 0) + cause.toNat)

/-- The origin record of a node (R378). -/
def nodeOrigin (n : NodeRef) (cause : BitVec 8) : Word :=
  originWord n.die.toNat n.tile.toNat n.elem.toNat n.node.toNat false cause

/-- The origin record of a part of a node's element that is no node itself. -/
def partOrigin (n : NodeRef) (cause : BitVec 8) : Word :=
  originWord n.die.toNat n.tile.toNat n.elem.toNat n.node.toNat true cause

/-- The second word of a trap record (R379). -/
def trapW1 (dom slot : BitVec 4) (opc aux : BitVec 8) (path : Path) : Word :=
  let slot := if path = .storeBuffer ∨ path = .channel ∨ path = .stream ∨ path = .engine then 0 else slot.toNat
  BitVec.ofNat 32 (dom.toNat * 2 ^ 28 + slot * 2 ^ 24 + (if path = .channel then 0 else opc.toNat) * 2 ^ 16
    + aux.toNat * 2 ^ 8 + path.code * 2 ^ 5)

/-- DETB of an access fault (R379). -/
def detbOf (write loc : Bool) (vaHigh : Nat) : Word :=
  BitVec.ofNat 32 ((if write then 2 ^ 31 else 0) + (if loc then 2 ^ 30 else 0) + vaHigh % 2 ^ 24)

/-- What a fault of an access at a global address reports. -/
def accessFault (cause : BitVec 8) (aux : Nat) (va : BitVec 56) (write : Bool) (path : Path) : FaultInfo :=
  { cause := cause, aux := BitVec.ofNat 8 aux, deta := bits va 0 32, detb := detbOf write false (bitsNat va 32 24), path := path }

/-- What a refused key reports (R301, R379). -/
def keyFault (aux : Nat) (va : BitVec 56) (path : Path) : FaultInfo :=
  { cause := causeDomain, aux := BitVec.ofNat 8 aux, deta := bits va 0 32,
    detb := BitVec.ofNat 32 (6 * 2 ^ 28 + bitsNat va 32 24), path := path }

/-- What a fault of a local-store access reports. -/
def localFault (cause : BitVec 8) (aux : Nat) (addr : Word) (write : Bool) : FaultInfo :=
  { cause := cause, aux := BitVec.ofNat 8 aux, deta := addr, detb := detbOf write true 0 }

/-- What the refusal of a resource reports. -/
def resourceFault (aux : Nat) (r : Resource) : FaultInfo :=
  let i : Nat := match r with
    | .bank i => i
    | .mbox i => i
    | .vgrp i => i
    | .acc i => i
    | .cell i => i
    | .gate i => i
  { cause := causeDomain, aux := BitVec.ofNat 8 aux, deta := BitVec.ofNat 32 i,
    detb := BitVec.ofNat 32 (r.rkind * 2 ^ 28) }

/-- A DOMAIN fault about another node, domain entry or domain's words (R379, RKIND 5). -/
def nodeFault (i : Nat) : FaultInfo :=
  { cause := causeDomain, deta := BitVec.ofNat 32 i, detb := BitVec.ofNat 32 (5 * 2 ^ 28) }

def faultOf (cause : BitVec 8) : FaultInfo := { cause := cause }

/-- Fields of a gate entry (R158). -/
def gateValid (g : Word) : Bool := bitAt g 31
def gateSsn (g : Word) : Nat := bitsNat g 29 2
def gateRdrn (g : Word) : Bool := bitAt g 28
def gateNode (g : Word) : BitVec 4 := bits g 24 4
def gateEntry (g : Word) : BitVec 8 := bits g 16 8
def gateCaller (g : Word) : BitVec 4 := bits g 12 4
def gateArgs (g : Word) : Nat := bitsNat g 8 3
def gateRet (g : Word) : BitVec 2 := bits g 6 2
def gateRci (g : Word) : BitVec 2 := bits g 4 2
def gateCnt (g : Word) : Nat := bitsNat g 0 4
def Elem.gateAt (e : Elem) (i : Nat) : Word := Map.get e.gate 0 i
def Elem.setGate (e : Elem) (i : Nat) (g : Word) : Elem := { e with gate := Map.set e.gate i g }

/-- OPC that a record names (R379). -/
def opcOf (i : Instr) : BitVec 8 := i.opcode.getD 0

/-! ## Local store (R28-R30, R124-R130) -/

/-- The checks of a local-store access of `n` bytes, in the order PROT, ALIGN, DOMAIN (R28). -/
def State.lsCheck (s : State) (n : NodeRef) (addr : Word) (len : Nat) (write : Bool) (aux : Nat) : Option FaultInfo :=
  if addr.toNat + len > 0x18000 then some (localFault causeProt aux addr write)
  else if addr.toNat % (min len 4) ≠ 0 then some (localFault causeAlign aux addr write)
  else
    let e := s.el n.elemRef
    let d := domOf (s.nd n)
    let bad := fun (b : Nat) => !e.owns d (.bank b) || e.scrubbing (.bank b)
    let b0 := addr.toNat / 0x2000
    let b1 := (addr.toNat + len - 1) / 0x2000
    if bad b0 then some (resourceFault aux (.bank b0))
    else if bad b1 then some (resourceFault aux (.bank b1))
    else none

/-- The word of a local store that holds a byte (R124). -/
def State.lsWord (s : State) (e : ElemRef) (addr : Nat) : PWord := s.loadWord (lsPa e (addr / 4 * 4))
def State.setLsWord (s : State) (e : ElemRef) (addr : Nat) (w : PWord) : State := s.storeWord (lsPa e (addr / 4 * 4)) w

/-! ## Tokens and channels (R26, R163-R175) -/

def kindData : BitVec 3 := 0
def kindScale : BitVec 3 := 1
def kindStop1 : BitVec 3 := 2
def kindMark : BitVec 3 := 5
def kindPoison : BitVec 3 := 6
def kindSpace : BitVec 3 := 7

/-- KIND is a stop. -/
def isStop (k : BitVec 3) : Bool := decide (2 ≤ k.toNat ∧ k.toNat ≤ 4)

/-- The value that an operand read of a token delivers (R25). -/
def tokenValue (t : Token) : PWord := ⟨t.payload, decide (t.kind = kindPoison)⟩

/-- A token that carries a value: DATA or another kind, or POISON in its place (R25, R39). -/
def tokenOf (kind fmt : BitVec 3) (v : PWord) : Token :=
  if v.psn then { kind := kindPoison, payload := v.val }
  else { kind := kind, fmt := if kind = kindData ∨ kind = kindScale then fmt else 0, payload := v.val }

def Node.ciq (nd : Node) (k : BitVec 2) : List Token := Map.get nd.ci [] k.toNat
def Node.coq (nd : Node) (k : BitVec 2) : List Token := Map.get nd.co [] k.toNat
def Node.ccfgAt (nd : Node) (k : BitVec 2) : Word := Map.get nd.ccfg 0 k.toNat
def Node.gReg (nd : Node) (i : Nat) : PWord := Map.get nd.g {} i
def Node.slotWord (nd : Node) (i : Nat) : DWord := Map.get nd.pool 0 i
def Node.cameAt (nd : Node) (k : BitVec 2) : Nat := Map.get nd.came 0 k.toNat
def Node.seqAt (nd : Node) (k : BitVec 2) : BitVec 8 := Map.get nd.seq 0 k.toNat
def Node.setCi (nd : Node) (k : BitVec 2) (q : List Token) : Node :=
  { nd with ci := if q = [] then Map.erase nd.ci k.toNat else Map.set nd.ci k.toNat q }
def Node.setCo (nd : Node) (k : BitVec 2) (q : List Token) : Node :=
  { nd with co := if q = [] then Map.erase nd.co k.toNat else Map.set nd.co k.toNat q }
def Node.setG (nd : Node) (i : Nat) (v : PWord) : Node := { nd with g := Map.set nd.g i v }

/-- Fields of CCFG (R170). -/
def ccBound (c : Word) : Bool := bitAt c 31
def ccLv (c : Word) : Bool := bitAt c 30
def ccAccv (c : Word) : Bool := bitAt c 29
def ccAccf (c : Word) : BitVec 3 := bits c 26 3
def ccStv (c : Word) : Bool := bitAt c 25
def ccStn (c : Word) : BitVec 4 := bits c 21 4
def ccBlen (c : Word) : Nat := bitsNat c 15 6 + 1
def ccStrd (c : Word) : Bool := bitAt c 14
def ccInblk (c : Word) : Bool := bitAt c 13
def ccBcnt (c : Word) : Nat := bitsNat c 6 7

/-- A token enters an input channel and is counted (R24). -/
def Node.enterCi (nd : Node) (k : BitVec 2) (t : Token) : Node :=
  { nd.setCi k (nd.ciq k ++ [t]) with
    seq := Map.set nd.seq k.toNat (nd.seqAt k + 1)
    came := Map.set nd.came k.toNat (nd.cameAt k + 1) }

/-- The head of an input channel is popped. Its entry's credit is owed to the source of a channel that an edge binds
(R167), or is kept for a returned token while the channel is steered (R172); a latest-value channel owes none (R175). -/
def Node.popCi (nd : Node) (k : BitVec 2) : Node :=
  let c := nd.ccfgAt k
  let nd' := nd.setCi k (nd.ciq k).tail
  if ccBound c && !ccLv c && decide (nd.ciq k ≠ []) then
    if ccStrd c then { nd' with spare := Map.modify nd.spare 0 k.toNat (· + 1) }
    else { nd' with freed := Map.modify nd.freed 0 k.toNat (· + 1) }
  else nd'

/-- Tokens of ended sessions that stand on the channel co[RET] of a gate's callee before those of the gate's present session
(R161). -/
def drainBefore (e : Elem) (i : Nat) : Nat :=
  ((e.gateDrain.filter (fun x => decide (gateNode (e.gateAt x.1) = gateNode (e.gateAt i))
    && decide (gateRet (e.gateAt x.1) = gateRet (e.gateAt i)))).map Prod.snd).sum

/-- A session ends in FAULTED where its callee faults: the gate owes the caller a POISON token, and the replies still on
co[RET] keep RDRN (R161, R162). Where the caller entered OFF in ACTIVE they are discarded. -/
def sessionFaults (s : State) (n : NodeRef) (cause : BitVec 8) (i : Nat) : State :=
  let e := s.el n.elemRef
  let g := e.gateAt i
  if gateValid g ∧ gateNode g = n.node ∧ (gateSsn g = 1 ∨ gateSsn g = 2) then
    let q := (s.nd n).coq (gateRet g)
    let before := drainBefore e i
    let gone := bitAt e.gateOff i
    let left := if gateSsn g = 2 ∧ gone = false then q.length - before else 0
    let s := if gateSsn g = 2 ∧ gone = true then s.updNd n (fun nd => nd.setCo (gateRet g) (q.take before)) else s
    s.setEl n.elemRef { e.setGate i (setBits (setBits g 29 2 3) 28 1 (if left = 0 then 0 else 1)) with
      gateOff := setBits e.gateOff i 1 0
      gateDrain := if left = 0 then e.gateDrain else e.gateDrain ++ [(i, left)]
      gatePsn := e.gatePsn ++ [{ gate := i, origin := partOrigin n cause, caller := gateCaller g, rci := gateRci g }] }
  else s

/-- Every session whose callee is the node ends in FAULTED (R162). -/
def gateCalleeFaults (s : State) (n : NodeRef) (cause : BitVec 8) : State :=
  (List.range 8).foldl (fun s i => sessionFaults s n cause i) s

/-- Puts a trap record on its way (R380). A record of a node that would go to itself, and one without a supervisor, goes
to the die's service core. -/
def State.sendTrap (s : State) (dest : Option NodeRef) (sender : Option NodeRef) (part : BitVec 5) (w : List Word) : State :=
  { s with
    serial := s.serial + 1
    traps := s.traps ++ [{ id := s.serial, dest := if dest = sender then none else dest, sender := sender, part := part, w := w }] }

/-- TAKING A FAULT (R38, R42, R379, R380). The node enters FAULTED, records its cause and its trap record, keeps what it
was doing for the resume, and sends the record to the supervisor that its domain entry names. -/
def takeFault (s : State) (n : NodeRef) (slot : BitVec 4) (opc : BitVec 8) (fi : FaultInfo) (keep : Option InFlight) : State :=
  let nd := s.nd n
  let x := s.domEntry n.elemRef (domOf nd)
  let w : List Word := [nodeOrigin n fi.cause, trapW1 (domOf nd) slot opc fi.aux fi.path, fi.deta, fi.detb]
  let s := s.setNd n { nd with st := .faulted, cause := fi.cause, trec := w.zipIdx.map (fun p => (p.2, p.1)),
                               flight := none, faulting := keep }
  let s := gateCalleeFaults s n fi.cause
  s.sendTrap (if entSvv x then some (entSv n.die x) else none) (some n) (s.partOf n.elemRef) w

/-- NSTAT of a node (R21). -/
def Node.nstat (nd : Node) : Word :=
  let st : Nat := match nd.st with
    | .off => 0
    | .run => 1
    | .parked => 2
    | .faulted => 3
  BitVec.ofNat 32 (st * 2 ^ 30 + nd.p.toNat * 2 ^ 16 + nd.last.toNat * 2 ^ 12 + nd.cause.toNat)

/-! ## Requests (R305) -/

/-- Makes a request that waits at the request port of the element's die. -/
def State.request (s : State) (who : Requester) (stamp : Stamp) (va : BitVec 56) (op : Op) (stage : Stage)
    (fwd : List (Option PWord)) (after : List Nat) (tag : Word) (from_ : Nat := 0) (acquire : Bool := false) : Nat × State :=
  let r : Req := { id := s.serial, who := who, stamp := stamp, va := va, op := op, stage := stage, fwd := fwd,
                   after := after, tag := tag, from_ := from_, acquire := acquire }
  (s.serial, { s with serial := s.serial + 1, reqs := s.reqs ++ [r] })

/-- The request of a number, if it is on its way. -/
def State.req (s : State) (id : Nat) : Option Req := s.reqs.find? (fun r => decide (r.id = id))
def State.dropReq (s : State) (id : Nat) : State := { s with reqs := s.reqs.filter (fun r => decide (r.id ≠ id)) }
def State.setReq (s : State) (r : Req) : State := { s with reqs := s.reqs.map (fun x => if x.id = r.id then r else x) }
def State.resp (s : State) (id : Nat) : Option Resp := s.resps.find? (fun r => decide (r.id = id))
def State.dropResp (s : State) (id : Nat) : State := { s with resps := s.resps.filter (fun r => decide (r.id ≠ id)) }

/-- What the dispatcher of a die answers (R469). -/
def Op.dispatched : Op → Bool
  | .barAlloc _ => true
  | .barFree _ => true
  | .poolArrive _ _ => true
  | .poolWait _ _ _ => true
  | .poolTry _ _ _ => true
  | .lease _ _ => true
  | .unlease _ => true
  | .engine _ _ _ => true
  | .spawn _ => true
  | .query _ => true
  | _ => false

/-- The tile of the dispatcher and the pool engines of a die (R469). -/
def dispatchTile (d : BitVec 4) : TileRef := ⟨d, 1024⟩

/-- Mortar steps between a tile and the dispatcher's tile of its die (R176, R469). -/
def dispatchSteps (t : BitVec 11) : Nat := (tileRow t - 16) + (16 - tileRow t) + tileCol t

/-- The first cycle in which the answer of a request may enter its element's port (R469). -/
def Req.soonest (r : Req) : Nat := if r.op.dispatched then r.left + 2 * dispatchSteps r.stamp.issuer.tile + 8 else 0

/-- Sends the answer of a request. -/
def State.answer (s : State) (r : Req) (a : Answer) : State :=
  { s with resps := s.resps ++ [{ id := r.id, who := r.who, op := r.op, va := r.va, ans := a, src := r.place, floor := r.soonest, pas := r.pas }] }

/-- A request that has been refused or lost sets out again for its port. -/
def Req.again (r : Req) : Req :=
  { r with
    stage := .port
    leaving := true
    queued := false
    pas := []
    nc := []
    pos := 0
    from_ := 0 }

/-! ## Pool barriers (R360, R361) -/

/-- A barrier of the die. -/
def Die.barrier (d : Die) (i : Nat) : PoolBar := Map.get d.bar {} i

def State.setBarrier (s : State) (die : BitVec 4) (i : Nat) (b : PoolBar) : State :=
  s.updDie die (fun d => { d with bar := Map.set d.bar i b })

/-- A barrier loses a reference; without one and without ALLOC it becomes free with its next GEN (R361). -/
def PoolBar.drop (b : PoolBar) : PoolBar :=
  if b.ref = 1 ∧ b.alloc = false then { gen := b.gen + 1 } else { b with ref := b.ref - 1 }

/-- A request is given up with its answer. A deferred wait on a pool barrier gives its reference back (R173, R361). -/
def State.abandonReq (s : State) (id : Nat) : State :=
  let s := match s.req id with
    | some r => (match r.op, r.stage with
      | .poolWait h _ _, .deferred =>
        let i := bitsNat h 0 12
        s.setBarrier r.stamp.issuer.die i ((s.dieAt r.stamp.issuer.die).barrier i).drop
      | _, _ => s)
    | none => s
  (s.dropReq id).dropResp id

/-- Fields of the retry latch (R316). -/
def Node.latchAt (nd : Node) (i : Nat) : Word := Map.get nd.latch 0 i
def Node.latchValid (nd : Node) : Bool := bitAt (nd.latchAt 0) 31
def Node.latchSent (nd : Node) : Bool := bitAt (nd.latchAt 0) 30
def Node.latchRpv (nd : Node) : Bool := bitAt (nd.latchAt 0) 29
def Node.setLatch (nd : Node) (i : Nat) (w : Word) : Node := { nd with latch := Map.set nd.latch i w }
def Node.setLatchBit (nd : Node) (i : Nat) (b : Bool) : Node :=
  nd.setLatch 0 (setBits (nd.latchAt 0) i 1 (if b then 1 else 0))

end Sys2Proof.Machine
end

