-- ==== Sys2Proof/Machine/Operands.lean ====
section
/-! DEFINITION. Operand forms and the frame that every transition shares: reading SA, SB and DST, ownership checks and
mailbox claims at S1, poison, and the write-back at S4 (R23-R25, R36-R39, R84, R146, R147, R161, R193). -/

namespace Sys2Proof.Machine

/-- The mapping entry of CX `c` in a domain (R233), and the header of its block. -/
def Elem.cxEntry (e : Elem) (d c : BitVec 4) : DWord := Map.get e.cxmap 0 (16 * d.toNat + c.toNat)
def Elem.cxHeader (e : Elem) (d c : BitVec 4) : DWord := Map.get e.cxhdr 0 (16 * d.toNat + c.toNat)

/-- The number of inputs that a firing of CX `c` reads: none where the entry is not VALID (R231, R234). -/
def Elem.cxInputs (e : Elem) (d c : BitVec 4) : Nat :=
  if bitAt (e.cxEntry d c) 63 then bitsNat (e.cxHeader d c) 19 2 else 0

/-- Which of SA, SB and DST a transition reads as scalar operands. -/
def readsOf (s : State) (n : NodeRef) (i : Instr) : Bool × Bool × Bool :=
  let sh := i.shape
  match i with
  | .did f => (decide (f.imm ≠ 0), false, false)
  | .cx c f =>
    let k := (s.el n.elemRef).cxInputs (domOf (s.nd n)) c
    if f.imm = 1 then (false, false, false) else (decide (1 ≤ k), decide (2 ≤ k), decide (3 ≤ k))
  | _ =>
    (decide (sh.sa = .scalar ∨ sh.sa = .ciOnly), decide (sh.sb = .scalar ∨ sh.sb = .ciOnly),
     decide (sh.dst = .read ∨ sh.dst = .readWritten))

/-- A transition writes a result through a scalar DST. -/
def writesDst (i : Instr) : Bool :=
  decide (i.shape.dst = .written ∨ i.shape.dst = .readWritten ∨ i.shape.dst = .coOnly)

/-- The mailbox that an operand code names. -/
def mboxCode (c : BitVec 5) : Option Nat := if 24 ≤ c.toNat ∧ c.toNat ≤ 27 then some (c.toNat - 24) else none

/-- The input channel that an operand code names. -/
def ciCode (c : BitVec 5) : Option (BitVec 2) :=
  if 16 ≤ c.toNat ∧ c.toNat ≤ 19 then some (BitVec.ofNat 2 (c.toNat - 16)) else none

/-- The output channel that an operand code names. -/
def coCode (c : BitVec 5) : Option (BitVec 2) :=
  if 20 ≤ c.toNat ∧ c.toNat ≤ 23 then some (BitVec.ofNat 2 (c.toNat - 20)) else none

/-- The channel that a guard test names. -/
def chanCode (c : BitVec 3) : Option (BitVec 2) := if c.toNat < 4 then some (BitVec.ofNat 2 c.toNat) else none

/-- The operand codes that a transition reads, in the order SA, SB, DST. -/
def readCodes (s : State) (n : NodeRef) (i : Instr) (f : Fields) : List (BitVec 5) :=
  let r := readsOf s n i
  (if r.1 then [f.sa] else []) ++ (if r.2.1 then [f.sb] else []) ++ (if r.2.2 then [f.dst] else [])

/-- The mailboxes that a transition reads, each once (R85), and the one it writes (R146). -/
def mboxReads (s : State) (n : NodeRef) (i : Instr) (f : Fields) : List Nat := ((readCodes s n i f).filterMap mboxCode).dedup
def mboxWrite (i : Instr) (f : Fields) : Option Nat := if writesDst i then mboxCode f.dst else none

/-- The word at the head of hk (R24). -/
def hkWord (nd : Node) (f : Fields) : Word :=
  match chanCode f.cha with
  | none => 0
  | some k =>
    match (nd.ciq k).head? with
    | none => BitVec.ofNat 32 ((nd.seqAt k).toNat * 256)
    | some t => BitVec.ofNat 32 ((nd.seqAt k).toNat * 256 + t.fmt.toNat * 8 + t.kind.toNat)

/-- What a scalar operand code reads (R23-R25, R84). -/
def readCode (s : State) (n : NodeRef) (f : Fields) (c : BitVec 5) : PWord :=
  let nd := s.nd n
  if c.toNat < 16 then nd.gReg c.toNat
  else
    match ciCode c with
    | some k => ((nd.ciq k).head?.map tokenValue).getD {}
    | none =>
      match mboxCode c with
      | some m => (Map.get (s.el n.elemRef).mbox {} m).word
      | none =>
        if c = 29 then PWord.clean (hkWord nd f)
        else if c = 30 then PWord.clean (s.lc n.elemRef)
        else if c = 31 then PWord.clean (BitVec.signExtend 32 f.imm)
        else {}

/-- What a transition reads in S2. An operand that is not read is a clean 0. -/
structure Opnds where
  n : NodeRef
  f : Fields
  nd : Node
  a : PWord
  b : PWord
  d : PWord

def readOperands (s : State) (n : NodeRef) (i : Instr) (f : Fields) : Opnds :=
  let r := readsOf s n i
  { n := n, f := f, nd := s.nd n,
    a := if r.1 then readCode s n f f.sa else {},
    b := if r.2.1 then readCode s n f f.sb else {},
    d := if r.2.2 then readCode s n f f.dst else {} }

/-- The origin record of the first poisoned value (R390). -/
def firstPoison : List PWord → Option Word
  | [] => none
  | v :: vs => if v.psn then some v.val else firstPoison vs

/-- The origin that poisons a scalar transition, in the order SA, SB, DST (R390). -/
def Opnds.psn (o : Opnds) : Option Word := firstPoison [o.a, o.b, o.d]

/-- The vector registers that a slot names, in the order SA, SB, DST, with those that its description adds: the scale
register of a narrow `VDOT` (R199) and the second output of a vector CX firing (R234). A register that SA or SB of a V = 1 CX slot
names and its block does not read is not among them (DEDUCED, log entry 65). -/
def vecNames (s : State) (n : NodeRef) (i : Instr) (f : Fields) : List Nat :=
  let sh := i.shape
  let src := fun (c : SrcClass) (x : BitVec 5) => match c with
    | .vector => [x.toNat]
    | .vectorEven => [x.toNat, x.toNat + 1]
    | _ => []
  let dst := match sh.dst with
    | .vecWritten => [f.dst.toNat]
    | .vecRead => [f.dst.toNat]
    | .vecReadWritten => [f.dst.toNat]
    | _ => []
  match i with
  | .cx c f =>
    let e := s.el n.elemRef
    let k := e.cxInputs (domOf (s.nd n)) c
    if f.imm = 1 then
      (if 1 ≤ k then [f.sa.toNat] else []) ++ (if 2 ≤ k then [f.sb.toNat] else []) ++ [f.dst.toNat]
        ++ (if bitAt (e.cxHeader (domOf (s.nd n)) c) 21 ∧ bitAt (e.cxEntry (domOf (s.nd n)) c) 63 ∧ f.dst.toNat ≤ 30
            then [f.dst.toNat + 1] else [])
    else []
  | _ => src sh.sa f.sa ++ src sh.sb f.sb ++ dst

/-- The accumulator banks that a slot names (R83, R224). -/
def accNames (i : Instr) (f : Fields) : List Nat :=
  match i with
  | .mclr f => (List.range 4).filter (fun k => f.imm.getLsbD k)
  | _ => if i.shape.dst = .acc then [f.dst.toNat] else []

/-- Every resource that a slot names with the number that a DOMAIN record gives (R147, R193, R379). -/
def namedResources (s : State) (n : NodeRef) (i : Instr) (f : Fields) : List (Resource × Nat) :=
  (mboxReads s n i f).map (fun m => (.mbox m, m))
    ++ (mboxWrite i f).toList.map (fun m => (.mbox m, m))
    ++ (vecNames s n i f).map (fun v => (.vgrp (v / 4), v))
    ++ (accNames i f).map (fun k => (.acc k, k))

/-- A node may use a resource: its domain owns it and it is not being scrubbed (R147, R155, R193). -/
def State.mayUse (s : State) (n : NodeRef) (r : Resource) : Bool :=
  let e := s.el n.elemRef
  e.owns (domOf (s.nd n)) r && !e.scrubbing r

/-- The DOMAIN fault of the first named resource that the node may not use (R147, R193). -/
def ownershipFault (s : State) (n : NodeRef) (i : Instr) (f : Fields) : Option FaultInfo :=
  ((namedResources s n i f).find? (fun r => !s.mayUse n r.1)).map (fun r =>
    { cause := causeDomain, deta := BitVec.ofNat 32 r.2, detb := BitVec.ofNat 32 (r.1.rkind * 2 ^ 28) })

/-- The gate, if any, whose callee's return channel a transition writes outside an ACTIVE session (R161); the fault names the
lowest-numbered gate that matches (DESIGN CHOICE, log entry 108). -/
def gateFault (s : State) (n : NodeRef) (i : Instr) (f : Fields) : Option FaultInfo :=
  match (if writesDst i then coCode f.dst else none) with
  | none => none
  | some k =>
    let e := s.el n.elemRef
    let mine := (List.range 8).filter (fun g =>
      gateValid (e.gateAt g) && decide (gateNode (e.gateAt g) = n.node) && decide (gateRet (e.gateAt g) = k))
    match mine with
    | [] => none
    | g :: _ =>
      if mine.any (fun g => decide (gateSsn (e.gateAt g) = 2)) then none
      else some { cause := causeGate, aux := BitVec.ofNat 8 g }

/-- The gate that is ACTIVE with a node as its callee; the lowest-numbered where several are (DESIGN CHOICE, log entry
103). -/
def activeGate (e : Elem) (n : BitVec 4) : Option Nat :=
  (List.range 8).find? (fun i => gateValid (e.gateAt i) && decide (gateNode (e.gateAt i) = n) && decide (gateSsn (e.gateAt i) = 2))

/-- The transition of a node that has yet to reach its S4: the one in flight, or the one that issues in the present cycle. -/
def State.underWay (s : State) (n : NodeRef) : Option Instr := match (s.nd n).flight with
  | some fl => (match fl.why with
    | .s4 _ (.fault _) => none
    | _ => some fl.instr)
  | none => (s.picks.find? (fun p => decide (p.node = n))).bind (fun p => decode? ((s.nd n).slotWord p.slot.toNat))

/-- Tokens that a node's transition will put on its output channel `k` at S4: its result, or the STOP1 of a `GRET`
(R26, R161). -/
def owedTo (s : State) (n : NodeRef) (k : BitVec 2) : Nat := match s.underWay n with
  | none => 0
  | some (.gret _) => (match activeGate (s.el n.elemRef) n.node with
      | some i => if gateRet ((s.el n.elemRef).gateAt i) = k then 1 else 0
      | none => 0)
  | some i => (match i.fields with
      | none => 0
      | some f => if writesDst i && decide (coCode f.dst = some k) then 1 else 0)

/-- The gate to which an `LNTL` sends (R160). -/
def sendsTo : Instr → Option Nat
  | .lntl f => some (bitsNat f.imm 0 3)
  | .lntlLast f => some (bitsNat f.imm 0 3)
  | _ => none

/-- Arguments that other transitions will put on a node's ci3 at S4 (R26, R160). -/
def argsOwed (s : State) (n : NodeRef) : Nat :=
  (List.range 16).countP (fun i => ((s.underWay (n.elemRef.nodeRef (BitVec.ofNat 4 i))).bind sendsTo).any (fun g =>
    decide (gateNode ((s.el n.elemRef).gateAt g) = n.node)))

/-- Permits on their way to an input channel (R350). -/
def spacesTo (s : State) (n : NodeRef) (k : BitVec 2) : Nat :=
  s.net.countP (fun f => match f.load with
    | .space m j _ => decide (m = n) && decide (j = k)
    | _ => false)

/-- Entries of an input channel that are taken or spoken for. -/
def ciTaken (s : State) (n : NodeRef) (k : BitVec 2) : Nat :=
  ((s.nd n).ciq k).length + (if k = 3 then argsOwed s n else 0) + spacesTo s n k

/-- The mailboxes a transition reads become EMPTY and the one it writes PENDING (R146). -/
def claim (s : State) (n : NodeRef) (i : Instr) (f : Fields) : State :=
  s.updEl n.elemRef (fun e =>
    let mb := (mboxReads s n i f).foldl (fun mb m => Map.modify mb {} m (fun x => { x with st := .empty })) e.mbox
    { e with mbox := match mboxWrite i f with
      | some m => Map.modify mb {} m (fun x => { x with st := .pending })
      | none => mb })

/-- A transition that faults after its claims gives them back: what it read is FULL with its value, what it was to
write is EMPTY (R146). A mailbox that another transition has claimed for writing or filled in the meantime keeps what that
one left (DESIGN CHOICE, log entry 30). -/
def unclaim (s : State) (n : NodeRef) (i : Instr) (f : Fields) : State :=
  s.updEl n.elemRef (fun e =>
    let mb := (mboxReads s n i f).foldl (fun mb m =>
      Map.modify mb {} m (fun x => if x.st = .empty then { x with st := .full } else x)) e.mbox
    { e with mbox := match mboxWrite i f with
      | some m => Map.modify mb {} m (fun x => if x.st = .pending then { x with st := .empty } else x)
      | none => mb })

/-- The write of a scalar result through DST at S4, where a mailbox becomes FULL (R36, R38, R146). -/
def writeDst (s : State) (n : NodeRef) (i : Instr) (f : Fields) (kind fmt : BitVec 3) (v : PWord) : State :=
  if writesDst i then
    if f.dst.toNat < 16 then s.updNd n (fun nd => nd.setG f.dst.toNat v)
    else
      match coCode f.dst with
      | some k => s.updNd n (fun nd => nd.setCo k (nd.coq k ++ [tokenOf kind fmt v]))
      | none =>
        match mboxCode f.dst with
        | some m => s.updEl n.elemRef (fun e =>
            { e with mbox := Map.modify e.mbox {} m (fun x => { x with st := .full, word := v }) })
        | none => s
  else s

/-- A transition that writes no result after all leaves a mailbox that it claimed for writing EMPTY. -/
def leaveDst (s : State) (n : NodeRef) (i : Instr) (f : Fields) : State :=
  match mboxWrite i f with
  | some m => s.updEl n.elemRef (fun e => { e with mbox := Map.modify e.mbox {} m (fun x => { x with st := .empty }) })
  | none => s

/-- The POP of a slot (R36). -/
def applyPop (p : BitVec 8) (psel : BitVec 3) (pop : BitVec 2) (cond : Bool) : BitVec 8 :=
  if pop = 0 then p
  else if pop = 1 then setBits p psel.toNat 1 1
  else if pop = 2 then setBits p psel.toNat 1 0
  else setBits p psel.toNat 1 (if cond then 1 else 0)

/-- A pop of the channel that a test names. A latest-value channel whose token was replaced after S2 keeps its new head
(R175); `seq` is the count of its arrivals in S2. -/
def popChan (nd : Node) (dq : Bool) (c : BitVec 3) (seq : Nat) : Node :=
  match (if dq then chanCode c else none) with
  | none => nd
  | some k => if ccLv (nd.ccfgAt k) && decide (nd.cameAt k ≠ seq) then nd else nd.popCi k

/-- The arrivals counted on the channel that a test names. -/
def seqOf (nd : Node) (c : BitVec 3) : Nat := ((chanCode c).map nd.cameAt).getD 0

/-- The lanes of a result written to the vector registers (R187). -/
def writeLanes (s : State) (n : NodeRef) (ls : List (Nat × PWord)) : State :=
  if ls = [] then s else s.updEl n.elemRef (fun e => { e with vreg := ls.foldl (fun m x => Map.set m x.1 x.2) e.vreg })

/-- Everything that S4 writes for a transition (R38): the result, the pops, the flags and the predicate. -/
def commit (s : State) (n : NodeRef) (i : Instr) (f : Fields) (seqA seqB : Nat) (r : Result) : State :=
  let s := match r.dst with
    | some v => writeDst s n i f r.kind r.fmt v
    | none => leaveDst s n i f
  let s := match r.dst2 with
    | some v => if f.dst.toNat < 15 then s.updNd n (fun nd => nd.setG (f.dst.toNat + 1) v) else s
    | none => s
  let s := writeLanes s n r.lanes
  s.updNd n (fun nd =>
    let nd := popChan (popChan nd f.dqa f.cha seqA) f.dqb f.chb seqB
    { nd with fpstat := raiseFlags nd.fpstat r.flags, p := applyPop nd.p f.psel f.pop r.cond })

/-- What the execution of a transition answers: a result that its S4 writes, an effect of its own that its S4 has with the
vector lanes that S2 read (R36), or a reason for which the node parks and completes later (R41). -/
inductive Done where
  | now (r : Result)
  | atS4 (vs : List PWord)
  | later (why : Flight)
deriving Repr

/-- What a node notes when a slot of it issues (R21, R40): LAST, and the cycle from which it may issue again. -/
def State.atIssue (s : State) : State :=
  s.updNd s.cur.node (fun nd => { nd with last := s.cur.slot, nextAt := s.cycle + 4, prefer := none })

/-- The instructions that hold their element (R141). -/
def holds : Instr → Bool
  | .dpart _ => true
  | .gate _ => true
  | .ispz _ => true
  | .unpz _ => true
  | _ => false

/-- The three held cycles after a holding instruction's issue (R141). -/
def holdElement (s : State) (i : Instr) : State :=
  if holds i then s.updEl s.cur.node.elemRef (fun x => { x with
    holdUntil := s.cycle + 4
    lastHold := some (s.cycle + 3) })
  else s

/-- Why S1 refuses a transition, if it does: a named resource that the node may not use (R147). -/
def refusedAt (s : State) (n : NodeRef) (i : Instr) (f : Fields) : Option FaultInfo := ownershipFault s n i f

/-- What the issuing node's transition reads in S2, and the state once S1 has claimed its mailboxes. -/
def issueOps (s : State) (i : Instr) (f : Fields) : Opnds := readOperands s.atIssue s.cur.node i f
def issueClaim (s : State) (i : Instr) (f : Fields) : State := holdElement (claim s.atIssue s.cur.node i f) i

/-- The issuing transition in flight. -/
def flightOf (s : State) (i : Instr) (f : Fields) (why : Flight) : InFlight :=
  { slot := s.cur.slot, instr := i, why := why, issued := s.cycle, seqA := seqOf (issueOps s i f).nd f.cha, seqB := seqOf (issueOps s i f).nd f.chb }

/-- S1 refuses the transition: the node enters FAULTED and everything else is as the issue found it (R38, R147). -/
def faultsAt (s : State) (i : Instr) (f : Fields) (fi : FaultInfo) : State :=
  takeFault (holdElement s.atIssue i) s.cur.node s.cur.slot (opcOf i) fi (some (flightOf s i f .park))

/-- The transition is in flight until its S4, three cycles after its issue, from the state `t` that its S3 leaves; its node
stays in RUN (R38, R40). -/
def pendsAt (s : State) (i : Instr) (f : Fields) (t : State) (act : S4Act) : State :=
  t.updNd s.cur.node (fun nd => { nd with flight := some (flightOf s i f (.s4 (s.cycle + 3) act)) })

/-- The transition completes at its S4 with a result (R38). -/
def finishesAt (s : State) (i : Instr) (f : Fields) (t : State) (r : Result) : State := pendsAt s i f t (.done r)

/-- The transition has the effect of its own description at its S4 (R36). -/
def actsAt (s : State) (i : Instr) (f : Fields) (t : State) (vs : List PWord) : State :=
  pendsAt s i f t (.late (issueOps s i f).a (issueOps s i f).b (issueOps s i f).d vs)

/-- The transition's execution faults: nothing of it takes effect, and its S4 takes the fault (R38, R146). -/
def failsAt (s : State) (i : Instr) (f : Fields) (fi : FaultInfo) : State := pendsAt s i f (issueClaim s i f) (.fault fi)

/-- The transition is of a parking class: its node parks in its S3, with the transition in flight (R41, R42). -/
def parksAt (s : State) (i : Instr) (f : Fields) (t : State) (why : Flight) : State :=
  t.updNd s.cur.node (fun nd => { nd with flight := some { flightOf s i f why with parks := true } })

/-- THE ISSUE OF A TRANSITION (R38, R40, R146, R147, R161): ownership at S1, the claims, a return channel outside its
session, the operands in S2, the execution, and either a fault that leaves everything else as it was, or the effects of S4,
or the parking of the node. -/
def runIssue (i : Instr) (f : Fields) (s : State) (body : Opnds → State → Except FaultInfo (State × Done)) : State :=
  match refusedAt s.atIssue s.cur.node i f, gateFault s.atIssue s.cur.node i f with
  | some fi, _ => faultsAt s i f fi
  | none, some fi => failsAt s i f fi
  | none, none =>
    match body (issueOps s i f) (issueClaim s i f) with
    | .error fi => failsAt s i f fi
    | .ok (t, .now r) => finishesAt s i f t r
    | .ok (t, .atS4 vs) => actsAt s i f t vs
    | .ok (t, .later why) => parksAt s i f t why

/-- A node instruction's meaning: its issue. -/
def issue (i : Instr) (f : Fields) (s : State) (body : Opnds → State → Except FaultInfo (State × Done)) :
    Host.Outcome State Fault Refusal := .next (runIssue i f s body)

/-- The result of a transition whose operands are poisoned by origin `w` (R25). -/
def poisonResult (w : Word) : Result := { dst := some ⟨w, true⟩, cond := false }

/-- The result of clean operands: the value, the condition and the flags. -/
def cleanResult (fmt : BitVec 3) (r : Word × Bool × BitVec 6) : Result :=
  { dst := some (PWord.clean r.1), fmt := fmt, cond := r.2.1, flags := r.2.2 }

/-- A computed word under the default condition of R37. -/
def byValue (w : Word) : Word × Bool × BitVec 6 := (w, decide (w ≠ 0), 0)

/-- A computed floating-point code with its flags, under R37 on bits (R117). -/
def byCode (r : Nat × BitVec 6) : Word × Bool × BitVec 6 := (BitVec.ofNat 32 r.1, decide (BitVec.ofNat 32 r.1 ≠ 0), r.2)

/-- The result of a scalar operation on its operands' values, under the poison rule. -/
def scalarResult (fmt : BitVec 3) (o : Opnds) (fn : Opnds → Word × Bool × BitVec 6) : Result :=
  match o.psn with
  | some w => poisonResult w
  | none => cleanResult fmt (fn o)

/-- A scalar operation that completes with E = 1. -/
def scalarOp (i : Instr) (f : Fields) (fmt : BitVec 3) (s : State) (fn : Opnds → Word × Bool × BitVec 6) :
    Host.Outcome State Fault Refusal :=
  issue i f s (fun o t => .ok (t, .now (scalarResult fmt o fn)))

/-- A scalar operation of a parking class: its S4 falls E + 2 cycles after its issue (R41). -/
def longOp (i : Instr) (f : Fields) (fmt : BitVec 3) (lat : Nat) (s : State) (fn : Opnds → Word × Bool × BitVec 6) :
    Host.Outcome State Fault Refusal :=
  issue i f s (fun o t => .ok (t, .later (.long (s.cycle + 2 + lat) (scalarResult fmt o fn))))

/-- FZ and SATF of the issuing node (R79). -/
def Opnds.fz (o : Opnds) : Bool := fzOf o.nd.fpstat
def Opnds.satf (o : Opnds) : Bool := satfOf o.nd.fpstat
/-- The rounding mode in IMM6[1:0] (R88). -/
def Opnds.rm (o : Opnds) : Rounding := Rounding.ofCode (bits o.f.imm 0 2)

/-- The S4 of a transition in flight (R38, R42, R143). The node goes on in RUN, or in FAULTED where a fault waits for this
S4 (R173, R307). -/
def finish (s : State) (n : NodeRef) (r : Result) : State :=
  match (s.nd n).flight with
  | none => s
  | some fl =>
    match fl.instr.fields with
    | none => s
    | some f =>
      let s := s.updNd n (fun nd => { nd with
        st := .run
        flight := none
        nextAt := max nd.nextAt (s.cycle + 1) })
      let s := commit s n fl.instr f fl.seqA fl.seqB r
      match (s.nd n).later with
      | none => s
      | some x => takeFault (s.updNd n (fun nd => { nd with later := none })) n x.1 x.2.1 x.2.2 none

/-- What a transition in flight waits for has come: its S4 falls in the present cycle, or in the third after its issue where
that is later, since E is at least 1 (R41, R42). -/
def complete (s : State) (n : NodeRef) (r : Result) : State :=
  s.updNd n (fun nd => { nd with flight := nd.flight.map (fun (fl : InFlight) =>
    { fl with why := .s4 (max s.cycle (fl.issued + 3)) (.done r) }) })

/-- A fault found while a transition is in flight (R42, R146): its claims return and the node enters FAULTED. -/
def faultInFlight (s : State) (n : NodeRef) (fi : FaultInfo) : State :=
  match (s.nd n).flight with
  | none => takeFault s n 0 0 fi none
  | some fl =>
    let s := match fl.instr.fields with
      | some f => unclaim s n fl.instr f
      | none => s
    takeFault (s.updNd n (fun nd => { nd with later := none })) n fl.slot (opcOf fl.instr) fi (some fl)

/-- A request of a node has not left its element. -/
def State.unsent (s : State) (p : Req → Bool) : Bool := s.reqs.any (fun r => r.leaving && p r)

/-- The request is one of a node's retry latch. -/
def Req.ofLatch (r : Req) (n : NodeRef) : Bool := match r.who with
  | .latch m _ => decide (m = n)
  | _ => false

/-- The instruction waits as `GST.L` does before its latch access leaves (R365). -/
def latchReleases : Instr → Bool
  | .barvW _ => true
  | .mbar _ => true
  | _ => false

/-- A transition that a FORMAT or store fault need not wait for (R173): it is parked without a fixed end. -/
def withdrawable (s : State) (n : NodeRef) (fl : InFlight) : Bool :=
  match fl.why with
  | .park => true
  | .cxTrap => true
  | .release .. => true
  | .latch => latchReleases fl.instr && s.unsent (fun r => r.ofLatch n)
  | .await id =>
    match fl.instr with
    | .barv _ => s.unsent (fun r => decide (r.id = id))
    | .gld _ => true
    | .gldA _ => true
    | .gldv _ => true
    | .gldvP _ => true
    | .pld _ => true
    | .pprb _ => true
    | .xld _ => true
    | .bwt _ => true
    | .bwtW _ => true
    | .btryW _ => true
    | .xwait _ => true
    | _ => false
  | _ => false

/-- The withdrawal of a transition in flight: nothing of it takes effect, its request and any answer are dropped, its
claims return, and the slot fires again when it is ready (R173, R396). -/
def withdraw (s : State) (n : NodeRef) : State :=
  match (s.nd n).flight with
  | none => s
  | some fl =>
    let s := match fl.why with
      | .await id => s.abandonReq id
      | .latch => if latchReleases fl.instr && s.unsent (fun r => r.ofLatch n) then
          ({ s with reqs := s.reqs.filter (fun r => !r.ofLatch n) } : State).updNd n (fun nd => nd.setLatchBit 31 false)
        else s
      | _ => s
    let s := match fl.instr.fields with
      | some f => unclaim s n fl.instr f
      | none => s
    s.updNd n (fun nd => { nd with
      st := if nd.st = .parked then .run else nd.st
      flight := none })

/-- The node issues in the present cycle. -/
def State.issuing (s : State) (n : NodeRef) : Bool := s.picks.any (fun p => decide (p.node = n))

/-- A fault that waits is taken where the transition in flight need not be waited for (R173, R307). -/
def lateFault (s : State) (n : NodeRef) : State :=
  match (s.nd n).later, (s.nd n).flight with
  | some x, some fl =>
    if withdrawable s n fl then takeFault ((withdraw s n).updNd n (fun nd => { nd with later := none })) n x.1 x.2.1 x.2.2 none else s
  | _, _ => s

/-- A fault that finds a node from outside its transitions (R173, R307): at once where the node has no transition in
flight or one that is withdrawn, else at the S4 of the one in flight. A node that issues in the present cycle has one. Only a
node in RUN or PARKED takes it (R42). -/
def faultFromOutside (s : State) (n : NodeRef) (slot : BitVec 4) (opc : BitVec 8) (fi : FaultInfo) : State :=
  let nd := s.nd n
  if nd.st = .off ∨ nd.st = .faulted then s
  else if nd.flight = none ∧ s.issuing n = false then takeFault s n slot opc fi none
  else lateFault (s.updNd n (fun nd => { nd with later := nd.later.orElse (fun _ => some (slot, opc, fi)) })) n

/-! ## Admission to an input channel (R171-R175) -/

/-- A token passes the format check of a channel (R171). -/
def passes (c : Word) (t : Token) : Bool :=
  if t.kind = kindData then !ccAccv c || decide (t.fmt = ccAccf c)
  else if t.kind = kindScale then !ccAccv c || (decide (t.fmt = ccAccf c) && decide (4 ≤ (ccAccf c).toNat ∧ (ccAccf c).toNat ≤ 6))
  else true

/-- The block count of a channel after it admits a token; none where the token fails with FORMAT (R174). -/
def blockStep (c : Word) (t : Token) : Option Word :=
  if ccAccv c && decide (4 ≤ (ccAccf c).toNat ∧ (ccAccf c).toNat ≤ 6) then
    let openBlk := ccInblk c && decide (ccBcnt c < ccBlen c)
    if t.kind = kindScale then
      if openBlk then none else some (setBits (setBits c 13 1 1) 6 7 0)
    else if t.kind = kindData ∨ t.kind = kindPoison then
      if openBlk then some (setBits c 6 7 (ccBcnt c + 1))
      else if t.kind = kindData then none else some c
    else if isStop t.kind then some (setBits (setBits c 13 1 0) 6 7 0)
    else some c
  else some c

/-- What a FORMAT fault reports (R173, R379). -/
def formatFault (k : BitVec 2) (t : Token) (ret : Bool) : FaultInfo :=
  { cause := causeFormat, aux := BitVec.setWidth 8 k, deta := t.payload,
    detb := BitVec.ofNat 32 ((if ret then 2 ^ 31 else 0) + t.fmt.toNat * 8 + t.kind.toNat), path := .channel }

/-- FORMAT at a channel: the token stays at the edge stage, which it holds (R173). -/
def raiseFormat (s : State) (n : NodeRef) (k : BitVec 2) (t : Token) (ret : Bool) : State :=
  faultFromOutside (s.updNd n (fun nd => { nd with badToken := some (k, t, ret) })) n 0 0 (formatFault k t ret)

/-- A token that passes the format check enters the channel, or fails by its block position (R173, R174). -/
def takeIn (s : State) (n : NodeRef) (k : BitVec 2) (t : Token) (ret : Bool) : State :=
  match blockStep ((s.nd n).ccfgAt k) t with
  | none => raiseFormat s n k t ret
  | some c => s.updNd n (fun nd => { nd.enterCi k t with ccfg := Map.set nd.ccfg k.toNat c })

/-- A token reaches a latest-value channel (R175). -/
def arriveLatest (s : State) (n : NodeRef) (k : BitVec 2) (t : Token) : State :=
  if t.kind = kindData ∨ t.kind = kindPoison then
    if passes ((s.nd n).ccfgAt k) t then
      s.updNd n (fun nd => (nd.setCi k []).enterCi k t)
    else faultFromOutside s n 0 0 (formatFault k t false)
  else s

/-- A token of the edge reaches an input channel that is not steered away (R172): diverted, admitted or FORMAT. -/
def arriveChannel (s : State) (n : NodeRef) (k : BitVec 2) (t : Token) : State :=
  let c := (s.nd n).ccfgAt k
  if ccLv c then arriveLatest s n k t
  else if passes c t then takeIn s n k t false
  else if ccStv c then
    let s := s.updNd (n.elemRef.nodeRef (ccStn c)) (fun nd => nd.enterCi 3 t)
    s.updNd n (fun nd => { nd with
      ccfg := Map.set nd.ccfg k.toNat (setBits c 14 1 1)
      spare := Map.modify nd.spare 0 k.toNat (· + 1) })
  else raiseFormat s n k t false

/-- A token that a steer node returns for a channel (R172). It takes one of the entries kept for it; the SPACE gives the
credits of the entries left over back to the source. -/
def arriveReturned (s : State) (n : NodeRef) (k : BitVec 2) (t : Token) : State :=
  let c := (s.nd n).ccfgAt k
  let left := Map.get (s.nd n).spare 0 k.toNat
  if t.kind = kindSpace then
    s.updNd n (fun nd => { nd with
      ccfg := Map.set nd.ccfg k.toNat (setBits c 14 1 0)
      freed := Map.modify nd.freed 0 k.toNat (· + left)
      spare := Map.erase nd.spare k.toNat })
  else if passes c t && (blockStep c t).isSome then
    (takeIn s n k t true).updNd n (fun nd => { nd with spare := Map.set nd.spare k.toNat (left - 1) })
  else raiseFormat s n k t true

/-- The edge that binds an input channel. -/
def State.edgeInto (s : State) (n : NodeRef) (k : BitVec 2) : Option Edge := (Map.values s.edge).find? (fun e => decide (e.dst = .inp n k))

/-- A pop returns one credit to the source of the edge into a channel (R167). -/
def owesCredit (nd : Node) (k : BitVec 2) : Node := { nd with freed := Map.modify nd.freed 0 k.toNat (· + 1) }

end Sys2Proof.Machine
end

