-- ==== Sys2Proof/Machine/Float.lean ====
section
/-! DEFINITION. Scalar FP32 instructions, 0x30-0x3F (R117, R118). -/

namespace Sys2Proof.Machine

/-- The value of an FP32 operand under the node's FZ (R58, R117). -/
def Opnds.fpA (o : Opnds) : FVal := fmtFp32.decode o.fz o.a.val.toNat
def Opnds.fpB (o : Opnds) : FVal := fmtFp32.decode o.fz o.b.val.toNat

/-- A result that is exact (R117). -/
def exactFp (o : Opnds) (v : FVal) : Word × Bool × BitVec 6 := byCode (fmtFp32.exactOp o.fz v, 0)

/-- `FADD` (R117). -/
def execFadd (f : Fields) (s : State) : Host.Outcome State Fault Refusal :=
  scalarOp (.fadd f) f 1 s (fun o => byCode (fmtFp32.addOp o.rm o.fz o.a.val.toNat o.b.val.toNat))

/-- `FSUB` (R117). -/
def execFsub (f : Fields) (s : State) : Host.Outcome State Fault Refusal :=
  scalarOp (.fsub f) f 1 s (fun o => byCode (fmtFp32.subOp o.rm o.fz o.a.val.toNat o.b.val.toNat))

/-- `FMUL` (R117). -/
def execFmul (f : Fields) (s : State) : Host.Outcome State Fault Refusal :=
  scalarOp (.fmul f) f 1 s (fun o => byCode (fmtFp32.mulOp o.rm o.fz o.a.val.toNat o.b.val.toNat))

/-- `FMA` (R117). -/
def execFma (f : Fields) (s : State) : Host.Outcome State Fault Refusal :=
  scalarOp (.fma f) f 1 s (fun o => byCode (fmtFp32.fmaOp o.rm o.fz o.a.val.toNat o.b.val.toNat o.d.val.toNat))

/-- `FMIN` (R117). -/
def execFmin (f : Fields) (s : State) : Host.Outcome State Fault Refusal :=
  scalarOp (.fmin f) f 1 s (fun o => exactFp o (FVal.min o.fpA o.fpB))

/-- `FMAX` (R117). -/
def execFmax (f : Fields) (s : State) : Host.Outcome State Fault Refusal :=
  scalarOp (.fmax f) f 1 s (fun o => exactFp o (FVal.max o.fpA o.fpB))

/-- `FCMP.EQ` (R117). -/
def execFcmpEq (f : Fields) (s : State) : Host.Outcome State Fault Refusal :=
  scalarOp (.fcmpEq f) f 0 s (fun o => byValue (boolWord (FVal.eqv o.fpA o.fpB)))

/-- `FCMP.LT` (R117). -/
def execFcmpLt (f : Fields) (s : State) : Host.Outcome State Fault Refusal :=
  scalarOp (.fcmpLt f) f 0 s (fun o => byValue (boolWord (FVal.lt o.fpA o.fpB)))

/-- `FCMP.LE` (R117). -/
def execFcmpLe (f : Fields) (s : State) : Host.Outcome State Fault Refusal :=
  scalarOp (.fcmpLe f) f 0 s (fun o => byValue (boolWord (FVal.lt o.fpA o.fpB || FVal.eqv o.fpA o.fpB)))

/-- `FCMP.UN` (R117). -/
def execFcmpUn (f : Fields) (s : State) : Host.Outcome State Fault Refusal :=
  scalarOp (.fcmpUn f) f 0 s (fun o => byValue (boolWord (o.fpA.isNan || o.fpB.isNan)))

/-- `FABS` (R117). -/
def execFabs (f : Fields) (s : State) : Host.Outcome State Fault Refusal :=
  scalarOp (.fabs f) f 1 s (fun o => exactFp o o.fpA.abs)

/-- `FNEG` (R117). -/
def execFneg (f : Fields) (s : State) : Host.Outcome State Fault Refusal :=
  scalarOp (.fneg f) f 1 s (fun o => exactFp o o.fpA.neg)

/-- `FRCP` (R118): parks the node with E = 13. -/
def execFrcp (f : Fields) (s : State) : Host.Outcome State Fault Refusal :=
  longOp (.frcp f) f 1 13 s (fun o => byCode (frcpOp o.fz o.a.val))

/-- `FRSQ` (R118): parks the node with E = 13. -/
def execFrsq (f : Fields) (s : State) : Host.Outcome State Fault Refusal :=
  longOp (.frsq f) f 1 13 s (fun o => byCode (frsqOp o.fz o.a.val))

/-- `FEXP2` (R118): parks the node with E = 13. -/
def execFexp2 (f : Fields) (s : State) : Host.Outcome State Fault Refusal :=
  longOp (.fexp2 f) f 1 13 s (fun o => byCode (fexp2Op o.fz o.a.val))

/-- `FLOG2` (R118): parks the node with E = 13. -/
def execFlog2 (f : Fields) (s : State) : Host.Outcome State Fault Refusal :=
  longOp (.flog2 f) f 1 13 s (fun o => byCode (flog2Op o.fz o.a.val))

end Sys2Proof.Machine
end

