-- ==== Sys2Proof/Machine/Convert.lean ====
section
/-! DEFINITION. Conversions, packing and scaling, 0x40-0x47 (R119-R123). -/

namespace Sys2Proof.Machine

/-- The format of a tag 1, 2 or 3 (R47). -/
def fmtOfTag (t : Nat) : FpFmt := if t = 2 then fmtBf16 else if t = 3 then fmtFp16 else fmtFp32

/-- Two 16-bit codes as one word (R47). -/
def packHalves (lo hi : Nat) : Word := BitVec.ofNat 32 (lo % 65536 + 65536 * (hi % 65536))

/-- A conversion between FP32, BF16x2 and FP16x2 to nearest even: `dst` and `src` are tags (R119, R198). -/
def convertTags (dst src : Nat) (fz : Bool) (a b : Word) : Word × BitVec 6 :=
  let cv := fun x => convertFp (fmtOfTag src) (fmtOfTag dst) .nearest fz x
  if src = 1 then
    let x := cv a.toNat
    let y := cv b.toNat
    (packHalves x.1 y.1, x.2 ||| y.2)
  else if dst = 1 then
    let x := cv (bitsNat a 0 16)
    (BitVec.ofNat 32 x.1, x.2)
  else
    let x := cv (bitsNat a 0 16)
    let y := cv (bitsNat a 16 16)
    (packHalves x.1 y.1, x.2 ||| y.2)

/-- A result word with its flags under R37. -/
def byFlags (r : Word × BitVec 6) : Word × Bool × BitVec 6 := (r.1, decide (r.1 ≠ 0), r.2)

/-- An integer of the suffix (R120). -/
def intOf (unsigned : Bool) (a : Word) : Int := if unsigned then a.toNat else a.toInt

/-- `CVT.FI` and lane conversions to an integer (R66, R120). -/
def fpToInt (md : Rounding) (unsigned : Bool) (v : FVal) : Word × BitVec 6 :=
  let r := if unsigned then v.toInt md 0 4294967295 else v.toInt md (-2147483648) 2147483647
  (BitVec.ofInt 32 r.1, r.2)

/-- The lane of `UNPK` (R122). -/
def unpkW (imm : BitVec 6) (a : Word) : Word :=
  let w := if bitAt imm 2 then 16 else 8
  let x := bitsNat a (w * bitsNat imm 0 2) w
  if bitAt imm 3 then sextNat w x else BitVec.ofNat 32 x
where
  /-- A w-bit number sign-extended. -/
  sextNat (w x : Nat) : Word := BitVec.ofInt 32 (if x < 2 ^ (w - 1) then (x : Int) else (x : Int) - 2 ^ w)

/-- The token format of `CVT.F` is its target tag (R109). -/
def execCvtF (f : Fields) (s : State) : Host.Outcome State Fault Refusal :=
  scalarOp (.cvtF f) f (bits f.imm 3 3) s (fun o =>
    byFlags (convertTags (bitsNat o.f.imm 3 3) (bitsNat o.f.imm 0 3) o.fz o.a.val o.b.val))

/-- `CVT.IF` (R120). -/
def execCvtIf (f : Fields) (s : State) : Host.Outcome State Fault Refusal :=
  scalarOp (.cvtIf f) f 1 s (fun o => byCode (fmtFp32.ofInt o.rm (intOf (bitAt o.f.imm 2) o.a.val)))

/-- `CVT.FI` (R120). -/
def execCvtFi (f : Fields) (s : State) : Host.Outcome State Fault Refusal :=
  scalarOp (.cvtFi f) f 0 s (fun o => byFlags (fpToInt o.rm (bitAt o.f.imm 2) (fmtFp32.decode o.fz o.a.val.toNat)))

/-- `CVT.NF` (R121). -/
def execCvtNf (f : Fields) (s : State) : Host.Outcome State Fault Refusal :=
  scalarOp (.cvtNf f) f 1 s (fun o => byCode (fmtFp32.deliver .nearest o.fz (decodeBlock (bitsNat o.f.imm 0 3)
    (narrowElem (bitsNat o.f.imm 0 3) o.a.val (bitsNat o.f.imm 3 3)) (bitsNat o.b.val 0 8))))

/-- One element of a narrow word encoded; an E2M3x5 word keeps bits 31:30 zero (R62, R63, R121). -/
def encodeInto (tag : Nat) (satf : Bool) (d : Word) (i : Nat) (v : FVal) (scale : Nat) : Word × BitVec 6 :=
  let r := encodeBlock tag satf v scale
  let w := setNarrowElem tag d i r.1
  (if tag = 6 then w &&& 0x3FFFFFFF else w, r.2)

/-- `CVT.FN` (R121). -/
def execCvtFn (f : Fields) (s : State) : Host.Outcome State Fault Refusal :=
  scalarOp (.cvtFn f) f (bits f.imm 0 3) s (fun o => byFlags (encodeInto (bitsNat o.f.imm 0 3) o.satf o.d.val (bitsNat o.f.imm 3 3)
    (fmtFp32.decode o.fz o.a.val.toNat) (bitsNat o.b.val 0 8)))

/-- `PACK2` (R122). -/
def execPack2 (f : Fields) (s : State) : Host.Outcome State Fault Refusal :=
  scalarOp (.pack2 f) f (bits f.imm 0 3) s (fun o => byValue (packHalves (bitsNat o.a.val 0 16) (bitsNat o.b.val 0 16)))

/-- `UNPK` (R122). -/
def execUnpk (f : Fields) (s : State) : Host.Outcome State Fault Refusal :=
  scalarOp (.unpk f) f 0 s (fun o => byValue (unpkW o.f.imm o.a.val))

/-- `SCALE` (R123). -/
def execScale (f : Fields) (s : State) : Host.Outcome State Fault Refusal :=
  scalarOp (.scale f) f 1 s (fun o => byCode (fmtFp32.scaleOp o.rm o.fz o.a.val.toNat o.b.val.toInt))

end Sys2Proof.Machine
end

