-- ==== Sys2Proof/Machine/Cipher.lean ====
section
/-! DEFINITION. The ciphers and hashes that the module uses as their standards define them (R18): SHA-256 of FIPS 180-4, HMAC and
HKDF of RFC 5869, AES-256 of FIPS 197, GCM of NIST SP 800-38D and XTS of NIST SP 800-38E. -/

namespace Sys2Proof.Machine

/-! ## SHA-256 (FIPS 180-4) -/

/-- A big-endian number of bytes, and `n` big-endian bytes of a number. -/
def beNat (bs : List Byte) : Nat := leNat bs.reverse
def beBytes (n v : Nat) : List Byte := (leBytes n v).reverse

/-- The round constants and the initial hash value. -/
def shaRound : List Word :=
    [0x428A2F98, 0x71374491, 0xB5C0FBCF, 0xE9B5DBA5, 0x3956C25B, 0x59F111F1, 0x923F82A4, 0xAB1C5ED5]
    ++ [0xD807AA98, 0x12835B01, 0x243185BE, 0x550C7DC3, 0x72BE5D74, 0x80DEB1FE, 0x9BDC06A7, 0xC19BF174]
    ++ [0xE49B69C1, 0xEFBE4786, 0x0FC19DC6, 0x240CA1CC, 0x2DE92C6F, 0x4A7484AA, 0x5CB0A9DC, 0x76F988DA]
    ++ [0x983E5152, 0xA831C66D, 0xB00327C8, 0xBF597FC7, 0xC6E00BF3, 0xD5A79147, 0x06CA6351, 0x14292967]
    ++ [0x27B70A85, 0x2E1B2138, 0x4D2C6DFC, 0x53380D13, 0x650A7354, 0x766A0ABB, 0x81C2C92E, 0x92722C85]
    ++ [0xA2BFE8A1, 0xA81A664B, 0xC24B8B70, 0xC76C51A3, 0xD192E819, 0xD6990624, 0xF40E3585, 0x106AA070]
    ++ [0x19A4C116, 0x1E376C08, 0x2748774C, 0x34B0BCB5, 0x391C0CB3, 0x4ED8AA4A, 0x5B9CCA4F, 0x682E6FF3]
    ++ [0x748F82EE, 0x78A5636F, 0x84C87814, 0x8CC70208, 0x90BEFFFA, 0xA4506CEB, 0xBEF9A3F7, 0xC67178F2]
def shaInit : List Word := [0x6A09E667, 0xBB67AE85, 0x3C6EF372, 0xA54FF53A, 0x510E527F, 0x9B05688C, 0x1F83D9AB, 0x5BE0CD19]

/-- A message with its padding. -/
def shaPad (m : List Byte) : List Byte :=
  m ++ [0x80] ++ List.replicate ((119 - m.length % 64) % 64) 0 ++ beBytes 8 (8 * m.length)

/-- The message schedule grown by `n` words; the latest word stands first. -/
def shaSchedule : Nat → List Word → List Word
  | 0, w => w
  | n + 1, w =>
    let x := w.getD 14 0
    let y := w.getD 1 0
    let s0 := x.rotateRight 7 ^^^ x.rotateRight 18 ^^^ (x >>> 3)
    let s1 := y.rotateRight 17 ^^^ y.rotateRight 19 ^^^ (y >>> 10)
    shaSchedule n ((w.getD 15 0 + s0 + w.getD 6 0 + s1) :: w)

/-- One round on the eight working words. -/
def shaStep (v : List Word) (kw : Word × Word) : List Word := match v with
  | [a, b, c, d, e, f, g, h] =>
    let s1 := e.rotateRight 6 ^^^ e.rotateRight 11 ^^^ e.rotateRight 25
    let ch := (e &&& f) ^^^ (~~~e &&& g)
    let t1 := h + s1 + ch + kw.1 + kw.2
    let s0 := a.rotateRight 2 ^^^ a.rotateRight 13 ^^^ a.rotateRight 22
    let maj := (a &&& b) ^^^ (a &&& c) ^^^ (b &&& c)
    [t1 + s0 + maj, a, b, c, d + t1, e, f, g]
  | _ => v

/-- The hash value after a block of 64 bytes. -/
def shaBlock (h : List Word) (b : List Byte) : List Word :=
  let w := (List.range 16).map (fun i => BitVec.ofNat 32 (beNat ((b.drop (4 * i)).take 4)))
  let ws := (shaSchedule 48 w.reverse).reverse
  (h.zip ((shaRound.zip ws).foldl shaStep h)).map (fun x => x.1 + x.2)

/-- A list cut into `n` pieces of `k` entries. -/
def pieces {α : Type} (k : Nat) : Nat → List α → List (List α)
  | 0, _ => []
  | n + 1, xs => xs.take k :: pieces k n (xs.drop k)

/-- SHA-256. -/
def sha256 (m : List Byte) : List Byte :=
  let p := shaPad m
  ((pieces 64 (p.length / 64) p).foldl shaBlock shaInit).flatMap (fun (w : Word) => beBytes 4 w.toNat)

/-! ## HMAC and HKDF (RFC 5869) -/

/-- HMAC with SHA-256. -/
def hmac (key m : List Byte) : List Byte :=
  let k := if 64 < key.length then sha256 key else key
  let k := k ++ List.replicate (64 - k.length) 0
  sha256 (k.map (· ^^^ 0x5C) ++ sha256 (k.map (· ^^^ 0x36) ++ m))

/-- HKDF to 32 bytes, which one block of HKDF-Expand gives: salt, input keying material, info. -/
def hkdf (salt ikm info : List Byte) : List Byte := hmac (hmac salt ikm) (info ++ [1])

/-! ## AES-256 (FIPS 197) -/

/-- Multiplication by x in the field of AES, and the product of two bytes. -/
def xtime (a : Byte) : Byte := (a <<< 1) ^^^ (if a.getLsbD 7 then 0x1B else 0)
def gmul (a b : Byte) : Byte :=
  ((List.range 8).foldl (fun (x : Byte × Byte) i => (if b.getLsbD i then x.1 ^^^ x.2 else x.1, xtime x.2)) (0, a)).1

/-- The inverse of a byte, a^254; 0 for 0. -/
def ginv (a : Byte) : Byte :=
  let a2 := gmul a a
  let a4 := gmul a2 a2
  let a8 := gmul a4 a4
  let a16 := gmul a8 a8
  let a32 := gmul a16 a16
  let a64 := gmul a32 a32
  let a128 := gmul a64 a64
  gmul (gmul (gmul a2 a4) (gmul a8 a16)) (gmul (gmul a32 a64) a128)

/-- The S-box and its inverse. -/
def sbox (a : Byte) : Byte :=
  let b := ginv a
  b ^^^ b.rotateLeft 1 ^^^ b.rotateLeft 2 ^^^ b.rotateLeft 3 ^^^ b.rotateLeft 4 ^^^ 0x63
def invSbox (a : Byte) : Byte := ginv (a.rotateLeft 1 ^^^ a.rotateLeft 3 ^^^ a.rotateLeft 6 ^^^ 0x05)

/-- Two lists of bytes, byte by byte. -/
def xorBytes (a b : List Byte) : List Byte := List.zipWith (· ^^^ ·) a b

/-- The key schedule grown by `n` words of four bytes, the latest first; `i` is the number of the next. -/
def keySchedule : Nat → Nat → Byte → List (List Byte) → List (List Byte)
  | 0, _, _, w => w
  | n + 1, i, rc, w =>
    let t := w.getD 0 []
    let u := if i % 8 = 0 then xorBytes ((t.rotateLeft 1).map sbox) [rc, 0, 0, 0] else if i % 8 = 4 then t.map sbox else t
    keySchedule n (i + 1) (if i % 8 = 0 then xtime rc else rc) (xorBytes (w.getD 7 []) u :: w)

/-- The 15 round keys of a 256-bit key. -/
def roundKeys (key : List Byte) : List (List Byte) :=
  (pieces 4 15 ((keySchedule 52 8 1 (pieces 4 8 key).reverse).reverse)).map List.flatten

/-- ShiftRows and MixColumns, and their inverses, on a block in column order. -/
def shiftRows (b : List Byte) : List Byte := (List.range 16).map (fun i => b.getD ((i + 4 * (i % 4)) % 16) 0)
def invShiftRows (b : List Byte) : List Byte := (List.range 16).map (fun i => b.getD ((i + 16 - 4 * (i % 4)) % 16) 0)
def mixWith (m : List Byte) (b : List Byte) : List Byte :=
  (List.range 16).map (fun i => ((List.range 4).map (fun j => gmul (m.getD ((j + 4 - i % 4) % 4) 0) (b.getD (i / 4 * 4 + j) 0))).foldl (· ^^^ ·) 0)
def mixColumns (b : List Byte) : List Byte := mixWith [2, 3, 1, 1] b
def invMixColumns (b : List Byte) : List Byte := mixWith [14, 11, 13, 9] b

/-- The cipher and the inverse cipher on a block of 16 bytes. -/
def aesEncrypt (ks : List (List Byte)) (b : List Byte) : List Byte :=
  let b := ((ks.drop 1).take 13).foldl (fun b k => xorBytes (mixColumns (shiftRows (b.map sbox))) k) (xorBytes b (ks.getD 0 []))
  xorBytes (shiftRows (b.map sbox)) (ks.getD 14 [])
def aesDecrypt (ks : List (List Byte)) (b : List Byte) : List Byte :=
  let b := ((ks.drop 1).take 13).reverse.foldl (fun b k => invMixColumns (xorBytes ((invShiftRows b).map invSbox) k)) (xorBytes b (ks.getD 14 []))
  xorBytes ((invShiftRows b).map invSbox) (ks.getD 0 [])

/-! ## GCM (NIST SP 800-38D) -/

/-- The product of two blocks in GF(2^128), whose leftmost bit is the constant term. -/
def ghashMul (x y : BitVec 128) : BitVec 128 :=
  ((List.range 128).foldl (fun (a : BitVec 128 × BitVec 128) i =>
    (if x.getLsbD (127 - i) then a.1 ^^^ a.2 else a.1,
     (a.2 >>> 1) ^^^ (if a.2.getLsbD 0 then 0xE1000000000000000000000000000000 else 0))) (0, y)).1

/-- Bytes filled with zeros to whole blocks, cut into blocks. -/
def blocks (bs : List Byte) : List (List Byte) :=
  let n := (bs.length + 15) / 16
  pieces 16 n (bs ++ List.replicate (16 * n - bs.length) 0)

/-- GHASH of blocks under the hash key. -/
def ghash (h : BitVec 128) (bs : List (List Byte)) : List Byte :=
  beBytes 16 (bs.foldl (fun y b => ghashMul (y ^^^ BitVec.ofNat 128 (beNat b)) h) 0).toNat

/-- Counter mode from counter `i` of a 96-bit nonce on. -/
def gcmCounter (ks : List (List Byte)) (nonce : List Byte) (i : Nat) (m : List Byte) : List Byte :=
  ((pieces 16 ((m.length + 15) / 16) m).zipIdx).flatMap (fun x => xorBytes x.1 (aesEncrypt ks (nonce ++ beBytes 4 (i + x.2))))

/-- The tag of a cipher text. -/
def gcmTag (ks : List (List Byte)) (nonce aad c : List Byte) : List Byte :=
  let h := BitVec.ofNat 128 (beNat (aesEncrypt ks (List.replicate 16 0)))
  let s := ghash h (blocks aad ++ blocks c ++ [beBytes 8 (8 * aad.length) ++ beBytes 8 (8 * c.length)])
  xorBytes s (aesEncrypt ks (nonce ++ beBytes 4 1))

/-- AES-256-GCM: key, 96-bit nonce, associated data, plain text; the cipher text with its 128-bit tag. -/
def gcmSeal (key nonce aad p : List Byte) : List Byte :=
  let ks := roundKeys key
  let c := gcmCounter ks nonce 2 p
  c ++ gcmTag ks nonce aad c

/-- The plain text of a cipher text with its tag; none where the tag is wrong. -/
def gcmOpen (key nonce aad ct : List Byte) : Option (List Byte) :=
  let ks := roundKeys key
  let c := ct.take (ct.length - 16)
  if gcmTag ks nonce aad c = ct.drop (ct.length - 16) then some (gcmCounter ks nonce 2 c) else none

/-! ## XTS (NIST SP 800-38E) -/

/-- The tweak of the next block: multiplication by the primitive element. -/
def xtsNext (t : List Byte) : List Byte :=
  let v := 2 * leNat t
  leBytes 16 (Nat.xor (v % 2 ^ 128) (if v < 2 ^ 128 then 0 else 0x87))

/-- Whole blocks under a key, each with its tweak. -/
def xtsBlocks (f : List Byte → List Byte) : List Byte → List (List Byte) → List Byte
  | _, [] => []
  | t, b :: bs => xorBytes (f (xorBytes b t)) t ++ xtsBlocks f (xtsNext t) bs

/-- Encryption and decryption of whole blocks: the two 256-bit keys, the data key first, and the tweak of the data unit. -/
def xtsEncrypt (key tweak m : List Byte) : List Byte :=
  xtsBlocks (aesEncrypt (roundKeys (key.take 32))) (aesEncrypt (roundKeys ((key.drop 32).take 32)) tweak) (pieces 16 (m.length / 16) m)
def xtsDecrypt (key tweak m : List Byte) : List Byte :=
  xtsBlocks (aesDecrypt (roundKeys (key.take 32))) (aesEncrypt (roundKeys ((key.drop 32).take 32)) tweak) (pieces 16 (m.length / 16) m)

end Sys2Proof.Machine
end

