-- ==== Sys2Proof/Machine/Resume.lean ====
section
/-! DEFINITION. The return from a fault (R385): RETRY and SKIP, and a node's entry into OFF (R42, R162, R307, R353). -/

namespace Sys2Proof.Machine

/-- PATH of the last trap record (R379). -/
def Node.trapPath (nd : Node) : Nat := bitsNat (Map.get nd.trec 0 1) 5 3

/-- An action word that R385 accepts: its zero fields are zero and ACT is RETRY or SKIP. -/
def actionOk (w : Word) : Bool := decide (bitsNat w 16 16 = 0) && decide (bitsNat w 4 4 = 0) && decide (bitsNat w 0 2 ≤ 1)

/-- A faulted transition completes without its result (R385): its pops, its predicate with condition 0, a register DST
poisoned by the origin of W0, and a POISON token through a co DST. -/
def skipTransition (s : State) (n : NodeRef) (fl : InFlight) : State :=
  match fl.instr.fields with
  | none => s
  | some f =>
    let w0 := Map.get (s.nd n).trec 0 0
    let s := claim s n fl.instr f
    let lanes : List (Nat × PWord) :=
      if fl.instr.shape.dst = .vecWritten ∨ fl.instr.shape.dst = .vecReadWritten then
        (List.range 16).map (fun l => (16 * f.dst.toNat + l, (⟨w0, true⟩ : PWord))) else []
    commit s n fl.instr f fl.seqA fl.seqB { dst := some ⟨w0, true⟩, lanes := lanes, cond := false }

/-- The token that a FORMAT fault left at the channel is checked again (R173, R385). -/
def recheckToken (s : State) (n : NodeRef) : State :=
  match (s.nd n).badToken with
  | none => s
  | some (k, t, ret) =>
    let s := s.updNd n (fun nd => { nd with badToken := none })
    if ret then arriveReturned s n k t else arriveChannel s n k t

/-- The token that a FORMAT fault left at the channel is dropped and its credit returned (R385). A returned token and a
token of a latest-value channel hold no credit of an edge. -/
def dropToken (s : State) (n : NodeRef) : State :=
  match (s.nd n).badToken with
  | none => s
  | some (k, _, ret) =>
    s.updNd n (fun nd =>
      let nd := { nd with badToken := none }
      if ret then nd else owesCredit nd k)

/-- The request of a faulted transition is sent again (R305, R385): its node parks until the answer. -/
def resendRequest (s : State) (n : NodeRef) (fl : InFlight) : State :=
  match fl.why, fl.instr.fields with
  | .await id, some f =>
    let s := claim s n fl.instr f
    let s := { s with reqs := s.reqs.map (fun (r : Req) => if r.id = id then r.again else r) }
    s.updNd n (fun nd => { nd with
      st := .parked
      flight := some fl })
  | _, _ => s

/-- The requests of HELD entries set out again, or are dropped. -/
def heldRequests (rs : List Req) (ids : List Nat) (discard : Bool) : List Req :=
  if discard then rs.filter (fun r => !ids.contains r.id)
  else rs.map (fun r => if ids.contains r.id then r.again else r)

/-- The HELD entries of a node in its element's store buffer and pod queue are sent again or discarded (R307, R385, R442). -/
def releaseHeld (s : State) (n : NodeRef) (discard : Bool) : State :=
  let e := s.el n.elemRef
  let mine := fun (x : StoreEntry) => decide (x.node = n.node) && x.held
  let ids := ((e.sbuf ++ e.podq).filter mine).map StoreEntry.id
  let f := fun (q : List StoreEntry) =>
    if discard then q.filter (fun x => !mine x) else q.map (fun x => if mine x then { x with held := false } else x)
  let s := { s with reqs := heldRequests s.reqs ids discard }
  s.updEl n.elemRef (fun e => { e with
    sbuf := f e.sbuf
    podq := f e.podq })

/-- THE RETURN FROM A FAULT: the action word of `RESUME` on a node (R385). None where it is refused. -/
def resumeNode (s : State) (n : NodeRef) (w : Word) : Option State :=
  let nd := s.nd n
  let skip := decide (bitsNat w 0 2 = 1)
  let path := nd.trapPath
  let noSpace := match nd.faulting with
    | some fl => match fl.instr.fields with
      | some f => writesDst fl.instr && (match coCode f.dst with
        | some k => decide (2 ≤ (nd.coq k).length)
        | none => false)
      | none => false
    | none => false
  if decide (nd.st ≠ RunState.faulted) || nd.latchValid || !actionOk w then none
  else if skip && decide (path ≤ 1) && noSpace then none
  else
    let s := s.updNd n (fun nd => { nd with
      st := .run
      faulting := none
      nextAt := s.cycle + 1 })
    let s := match nd.faulting with
      | some fl =>
        if skip then (if path ≤ 1 then skipTransition (match fl.why with
          | .await id => s.dropReq id
          | _ => s) n fl else s)
        else if path = 1 then resendRequest s n fl else s
      | none => s
    let s := if skip && decide (path = 4) then dropToken s n else recheckToken s n
    let s := releaseHeld s n (bitAt w 2)
    some (if bitAt w 3 then s.updNd n (fun nd => { nd with p := bits w 8 8 }) else s)

/-! ## Entering OFF -/

/-- The tokens of ended sessions on the channel co[RET] of a gate's callee: of the gates before `i` in the order in which
their sessions ended, and of gate `i` itself. -/
def drainCount (s : State) (e : ElemRef) (i : Nat) : Nat × Nat :=
  let el := s.el e
  let same := fun (j : Nat) => decide (gateNode (el.gateAt j) = gateNode (el.gateAt i)) && decide (gateRet (el.gateAt j) = gateRet (el.gateAt i))
  let before := (el.gateDrain.takeWhile (fun x => decide (x.1 ≠ i))).filter (fun x => same x.1)
  ((before.map Prod.snd).sum, match el.gateDrain.find? (fun x => decide (x.1 = i)) with
    | some x => x.2
    | none => ((s.nd (e.nodeRef (gateNode (el.gateAt i)))).coq (gateRet (el.gateAt i))).length)

/-- The tokens of an ended session are discarded (R161). -/
def discardDrain (s : State) (e : ElemRef) (i : Nat) : State :=
  let g := (s.el e).gateAt i
  let c := drainCount s e i
  let s := s.updNd (e.nodeRef (gateNode g)) (fun nd =>
    let q := nd.coq (gateRet g)
    nd.setCo (gateRet g) (q.take c.1 ++ q.drop (c.1 + c.2)))
  s.updEl e (fun el => { el.setGate i (setBits g 28 1 0) with gateDrain := el.gateDrain.filter (fun x => decide (x.1 ≠ i)) })

/-- What a gate session becomes where its caller enters OFF (R161, R162): in CALLING the callee's ci3 is emptied and the
session ends, in ACTIVE the callee runs on and its replies are discarded, and replies left over are discarded. POISON
tokens that gates owe the caller are owed no more. -/
def gateCallerLeaves (s : State) (n : NodeRef) : State :=
  let s := s.updEl n.elemRef (fun e => { e with gatePsn := e.gatePsn.filter (fun x => decide (x.caller ≠ n.node)) })
  (List.range 8).foldl (fun s i =>
    let e := s.el n.elemRef
    let g := e.gateAt i
    let callee := n.elemRef.nodeRef (gateNode g)
    if gateCaller g = n.node then
      if gateSsn g = 1 then
        (s.updNd callee (fun nd => nd.setCi 3 [])).updEl n.elemRef (fun e => e.setGate i (setBits (setBits g 29 2 0) 0 4 0))
      else if gateSsn g = 2 then
        let c := drainCount s n.elemRef i
        (s.updNd callee (fun nd => nd.setCo (gateRet g) ((nd.coq (gateRet g)).take c.1))).updEl n.elemRef
          (fun e => { e with gateOff := setBits e.gateOff i 1 1 })
      else if gateRdrn g then discardDrain s n.elemRef i
      else s
    else s) s

/-- A request of a node that has not been sent, or that was refused and is kept for its resume. -/
def unsentOf (n : NodeRef) (r : Req) : Bool := match r.who with
  | .node m => decide (m = n)
  | .latch m _ => decide (m = n) && (r.leaving || decide (r.stage = .kept))
  | _ => false

/-- A node enters OFF other than by alignment (R42, R162, R307, R333, R353): its requests are withdrawn but for a latch
access that has been sent, its HELD entries are dropped, its completion tags are no longer VALID, and its gate sessions
end as a caller's. -/
def enterOff (s : State) (n : NodeRef) : State :=
  let s := withdraw s n
  let s := { s with
    picks := s.picks.filter (fun p => decide (p.node ≠ n))
    reqs := s.reqs.filter (fun r => !unsentOf n r) }
  let s := gateCallerLeaves s n
  let s := releaseHeld s n true
  let s := s.updEl n.elemRef (fun e =>
    { e with
      tag := e.tag.map (fun x => (x.1, if x.2.node = n.node then { x.2 with valid := false } else x.2)) })
  s.updNd n (fun nd => { nd with
    st := .off
    flight := none
    faulting := none
    badToken := none
    later := none
    cause := 0
    trec := []
    latch := []
    lheld := none })

end Sys2Proof.Machine
end

