-- ==== Sys2Proof/Machine/Translate.lean ====
section
/-! DEFINITION. The physical map, the partition control block, key checks, translation and the checks of an access
(R275-R303, R419, R422). -/

namespace Sys2Proof.Machine

/-! ## Partition control block and keys (R419, R422) -/

/-- The word and the 64-bit value at a byte offset of a partition's control block (R419). -/
def State.pcbW (s : State) (p : BitVec 5) (off : Nat) : Word := Map.get (s.pt p).pcb 0 (off / 4)
def State.pcbD (s : State) (p : BitVec 5) (off : Nat) : Nat := (s.pcbW p off).toNat + (s.pcbW p (off + 4)).toNat * 2 ^ 32
def State.pcbValid (s : State) (p : BitVec 5) : Bool := bitAt (s.pcbW p 0) 31
def State.pcbPlain (s : State) (p : BitVec 5) : Bool := bitAt (s.pcbW p 0) 16

/-- A key slot. -/
def State.keySlot (s : State) (k : BitVec 13) : KeySlot := Map.get s.key {} k.toNat

/-- A request of a partition that names key `k` passes; `shared` stands for S of the page (R422). -/
def State.keyOk (s : State) (p : BitVec 5) (k : BitVec 13) (shared : Bool) : Bool :=
  let x := s.keySlot k
  if k = 0 then s.pcbPlain p
  else x.live && !x.closing && (decide (x.owner = p) || (shared && x.share.getLsbD p.toNat))

/-! ## Physical map (R275-R280, R287-R289) -/

/-- What a physical address names (R275-R278). -/
inductive Target where
  | dram (home : BitVec 4)
  | bank (t : TileRef) (b : Nat)
  | store (e : ElemRef) (off : Nat)
  | host (south : Bool)
  | hole
deriving DecidableEq, Repr

/-- The stack, and so the home die, of an HBM4 address (R287, R288). -/
def State.hbmHome (s : State) (pa : Nat) : BitVec 4 :=
  let o := pa % 2 ^ 34
  if bitAt s.hbmode (pa / 2 ^ 34) then BitVec.ofNat 4 (o / 2 ^ 30) else BitVec.ofNat 4 (o / 2 ^ 12) ^^^ BitVec.ofNat 4 (o / 2 ^ 16)

/-- The offset in its stack of an HBM4 address (R288). -/
def State.stackOffset (s : State) (pa : Nat) : Nat :=
  let n := pa / 2 ^ 34
  let o := pa % 2 ^ 34
  n * 2 ^ 30 + (if bitAt s.hbmode n then o % 2 ^ 30 else o / 2 ^ 16 * 2 ^ 12 + o % 2 ^ 12)

/-- Base of the DDR-5 range. -/
def ddrBase : Nat := 0x2000000000000

/-- The channel of a DDR-5 address, its edge die (16 north, 17 south) and the offset in the channel (R289). -/
def ddrChannelOf (pa : Nat) : BitVec 4 :=
  let o := pa - ddrBase
  BitVec.ofNat 4 (o / 2 ^ 12) ^^^ BitVec.ofNat 4 (o / 2 ^ 16)
def ddrEdgeDie (pa : Nat) : Nat := if (ddrChannelOf pa).toNat < 8 then 16 else 17
def ddrOffset (pa : Nat) : Nat := (pa - ddrBase) / 2 ^ 16 * 2 ^ 12 + (pa - ddrBase) % 2 ^ 12

/-- What a physical address names. -/
def State.target (s : State) (pa : Nat) : Target :=
  if pa < 0xC000000000 then .dram (s.hbmHome pa)
  else if pa < 0x1000000000000 then .hole
  else if pa < 0x1000400000000 then
    let o := pa - 0x1000000000000
    let t : TileRef := ⟨BitVec.ofNat 4 (o / 2 ^ 30), BitVec.ofNat 11 (o / 2 ^ 19)⟩
    if isMemTile t.tile then .bank t (o % 2 ^ 19 / 0x8000) else .hole
  else if pa < 0x1001400000000 then
    let o := pa - 0x1000400000000
    let e : ElemRef := ⟨BitVec.ofNat 4 (o / 2 ^ 32), BitVec.ofNat 11 (o / 2 ^ 21), BitVec.ofNat 4 (o / 2 ^ 17)⟩
    if isCompute e.tile ∧ o % 2 ^ 17 < 0x18000 then .store e (o % 2 ^ 17) else .hole
  else if pa < ddrBase then .hole
  else if pa < ddrBase + 16 * s.ddr then .dram (ddrChannelOf pa)
  else if pa < 0x8000000000000 then .hole
  else if pa < 2 ^ 52 then .host (decide (pa ≥ 0xC000000000000))
  else .hole

/-- Mode of a bank (R279, R280): 0 store, 1 FIFO, 2 line buffer, 3 presence. -/
def State.bankMode (s : State) (t : TileRef) (b : Nat) : Nat := bitsNat (s.tl t).mtcfg (2 * b) 2

/-- An address of HBM4 or DDR-5. -/
def State.isDram (s : State) (pa : Nat) : Bool := match s.target pa with
  | .dram _ => true
  | _ => false

/-! ## Memory under keys (R293) -/

/-- A line's bytes as they leave the encryption of a key slot for memory, and as they come back from it (R18, R422): slot 0 has
no key. Each line is one data unit; its tweak is not stated (Config.tweak). -/
def State.sealLine (s : State) (line : Nat) (k : BitVec 13) (bs : List Byte) : List Byte :=
  if k = 0 then bs else xtsEncrypt ((s.keySlot k).key.flatMap (fun (w : Word) => leBytes 4 w.toNat)) (Config.tweak line) bs
def State.openLine (s : State) (line : Nat) (k : BitVec 13) (bs : List Byte) : List Byte :=
  if k = 0 then bs else xtsDecrypt ((s.keySlot k).key.flatMap (fun (w : Word) => leBytes 4 w.toNat)) (Config.tweak line) bs

/-- The 128 bytes of a line as a reader under key `k` sees them: what was written under another key is what `k` makes of its
cipher text. A line that nothing has written under a key reads as it stands (DESIGN CHOICE, log entry 18). -/
def State.lineUnder (s : State) (line : Nat) (k : BitVec 13) : List Byte :=
  let raw := readBytes s.mem (128 * line) 128
  match Map.find s.lineKey line with
  | none => raw
  | some k' => if k' = k then raw else s.openLine line k (s.sealLine line k' raw)

/-- A byte under a key: only HBM4 and DDR-5 are encrypted. -/
def State.byteUnder (s : State) (pa : Nat) (k : BitVec 13) : Byte :=
  if s.isDram pa then (s.lineUnder (pa / 128) k).getD (pa % 128) 0 else memGet s.mem pa

/-- A little-endian 64-bit value under a key. -/
def State.load64Under (s : State) (pa : Nat) (k : BitVec 13) : DWord :=
  BitVec.ofNat 64 (leNat ((List.range 8).map (fun i => s.byteUnder (pa + i) k)))

/-- A word with its poison mark under a key. -/
def State.loadUnder (s : State) (pa : Nat) (k : BitVec 13) : PWord :=
  ⟨BitVec.ofNat 32 (leNat ((List.range 4).map (fun i => s.byteUnder (pa + i) k))), (s.metaAt pa).psn⟩

/-- The line of an address taken over by key `k`: what stands in it is what a reader under `k` sees (R293). -/
def State.takeLine (s : State) (pa : Nat) (k : BitVec 13) : State :=
  if s.isDram pa then
    let line := pa / 128
    match Map.find s.lineKey line with
    | none => { s with lineKey := Map.set s.lineKey line k }
    | some k' =>
      if k' = k then s
      else { s with
        mem := writeBytes s.mem (128 * line) ((s.lineUnder line k).take 128)
        lineKey := Map.set s.lineKey line k }
  else s

/-- A word stored under a key. -/
def State.storeUnder (s : State) (pa : Nat) (k : BitVec 13) (w : PWord) : State := (s.takeLine pa k).storeWord pa w

/-- A byte stored under a key: clean data, so that its word is clean after it (R391). -/
def State.storeByteUnder (s : State) (pa : Nat) (k : BitVec 13) (b : Byte) : State :=
  let s := s.takeLine pa k
  ({ s with mem := memSet s.mem pa b } : State).setMeta pa { s.metaAt pa with psn := false }

/-! ## The memory-side cache (R290-R293) -/

/-- Colour of a page, and the set of a line (R291). -/
def colourOf (pa : Nat) : Nat := ((List.range 6).map (fun i => pa / 2 ^ (16 + 6 * i) % 64)).foldl Nat.xor 0
def setOf (pa : Nat) : Nat := colourOf pa * 512 + pa / 128 % 512

/-- The lines that stand in a set. -/
def Die.cacheSet (d : Die) (i : Nat) : List CacheLine := Map.get d.cache [] i

/-- The way that a miss allocates (R292): of the ways that the mask allows, an empty one, else the least recently used; none
where the mask allows no way. -/
def allocWay (mask : BitVec 16) (q : List CacheLine) : Option Nat :=
  match (List.range 16).find? (fun w => mask.getLsbD w && q.all (fun x => decide (x.way ≠ w))) with
  | some w => some w
  | none => (q.find? (fun x => mask.getLsbD x.way)).map CacheLine.way

/-- A set after an access of a line under a key (R290, R292, R293): a hit makes the line the most recently used one; a line
under another key leaves the set first, as on any miss; a miss allocates unless NC. -/
def useSet (q : List CacheLine) (mask : BitVec 16) (line : Nat) (k : BitVec 13) (write nc : Bool) : List CacheLine :=
  let rest := q.filter (fun x => decide (x.line ≠ line))
  match q.find? (fun x => decide (x.line = line) && decide (x.keyid = k)) with
  | some x => rest ++ [{ x with dirty := x.dirty || write }]
  | none =>
    match (if nc then none else allocWay mask rest) with
    | some w => rest.filter (fun x => decide (x.way ≠ w)) ++ [{ way := w, line := line, keyid := k, dirty := write }]
    | none => rest

/-- A set of a die's cache takes these lines. -/
def State.setCacheSet (s : State) (d : BitVec 4) (i : Nat) (q : List CacheLine) : State :=
  s.updDie d (fun x => { x with cache := if q = [] then Map.erase x.cache i else Map.set x.cache i q })

/-- An access of partition `p` under a key passes through the memory-side cache of its home (R290-R293). -/
def State.useLine (s : State) (p : BitVec 5) (pa : Nat) (k : BitVec 13) (write nc : Bool) : State :=
  match s.target pa with
  | .dram d => s.setCacheSet d (setOf pa) (useSet ((s.dieAt d).cacheSet (setOf pa)) (s.pt p).waymask (pa / 128) k write nc)
  | _ => s

/-- Every line that meets a condition leaves its cache; one that is dirty is written back, which changes no byte of
`State.mem`. -/
def State.evict (s : State) (p : CacheLine → Bool) : State :=
  { s with die := s.die.map (fun x => (x.1, { x.2 with
      cache := (x.2.cache.map (fun y => (y.1, y.2.filter (fun l => !p l)))).filter (fun y => decide (y.2 ≠ [])) })) }

/-! ## Table walks (R295-R299) -/

/-- What a port translates with: its micro-TLB and the walk cache of its die's translation unit (R302). -/
structure Mmu where
  tlb : List TlbEntry := []
  wc : List TableEntry := []

/-- A leaf of one stage: its output page, its size and its attributes (R298). -/
structure Leaf where
  base : Nat := 0
  size : Nat := 0
  word : DWord := 0

/-- Index shift, index width, table size and leaf size of a level (R296). -/
def levelShift (l : Nat) : Nat := if l = 3 then 43 else if l = 2 then 30 else if l = 1 then 21 else 16
def levelBits (l : Nat) : Nat := if l = 3 then 13 else if l = 2 then 13 else if l = 1 then 9 else 5
def tableSize (l : Nat) : Nat := 8 * 2 ^ levelBits l

/-- The walk cache's copy of a table entry of levels 3 to 1 (R302). -/
def cachedEntry (wc : List TableEntry) (p : BitVec 5) (t : Option (BitVec 16)) (l pa : Nat) : Option TableEntry :=
  if l = 0 then none else wc.find? (fun x => decide (x.part = p) && decide (x.tenant = t) && decide (x.pa = pa))

/-- The table entry at an address: as the walk cache holds it, or read through the memory-side cache. -/
def entryAt (s : State) (wc : List TableEntry) (p : BitVec 5) (t : Option (BitVec 16)) (key : BitVec 13) (l pa : Nat) : DWord :=
  match cachedEntry wc p t l pa with
  | some x => x.word
  | none => s.load64Under pa key

/-- The address of the entry of a level that a walk reads. -/
def entryPa (addr l table : Nat) : Nat := table + 8 * (addr / 2 ^ levelShift l % 2 ^ levelBits l)

/-- A walk from the table of a level down (R296-R299), of stage 1 of a tenant or of stage 2; `l` counts the levels below.
None is PAGE. -/
def walkFrom (s : State) (wc : List TableEntry) (p : BitVec 5) (t : Option (BitVec 16)) (key : BitVec 13) (addr : Nat) :
    Nat → Nat → Option Leaf
  | l, table =>
    if table % tableSize l = 0 && s.isDram table then
      let e := entryAt s wc p t key l (entryPa addr l table)
      if bitAt e 0 = false then none
      else if bitAt e 1 then
        let size := 2 ^ levelShift l
        let base := bitsNat e 9 36 * 2 ^ 16
        if l = 3 ∨ bitsNat e 45 2 ≠ 0 ∨ bitsNat e 2 7 ≠ 0 ∨ base % size ≠ 0 ∨ (t.isNone ∧ bitsNat e 49 15 ≠ 0) then none
        else some { base := base, size := size, word := e }
      else if bitsNat e 52 12 ≠ 0 ∨ bitsNat e 2 6 ≠ 0 then none
      else
        match l with
        | 0 => none
        | l + 1 => walkFrom s wc p t key addr l (bitsNat e 8 44 * 2 ^ 8)
    else none

/-- The table entries that a walk reads, each with its level. -/
def walkReads (s : State) (wc : List TableEntry) (p : BitVec 5) (t : Option (BitVec 16)) (key : BitVec 13) (addr : Nat) :
    Nat → Nat → List (Nat × TableEntry)
  | l, table =>
    if table % tableSize l = 0 && s.isDram table then
      let pa := entryPa addr l table
      let e := entryAt s wc p t key l pa
      (l, { part := p, tenant := t, pa := pa, word := e }) ::
        (match l with
        | 0 => []
        | l + 1 => if bitAt e 0 && !bitAt e 1 then walkReads s wc p t key addr l (bitsNat e 8 44 * 2 ^ 8) else [])
    else []

/-- The table key of a partition; none where its check fails (R422). -/
def State.tableKey (s : State) (p : BitVec 5) : Option (BitVec 13) :=
  let k := bits (s.pcbW p 4) 0 13
  if s.keyOk p k false then some k else none

/-- An address of the memory-tile window or of the local-store window (R276). -/
def inWindows (a : Nat) : Bool := decide (0x1000000000000 ≤ a ∧ a < 0x1001400000000)

/-- Stage 2 of a partition address (R296): the physical page. In reduced service no table can be read, and the windows of
partition 0 stand for themselves (R464). -/
def State.stage2 (s : State) (p : BitVec 5) (pa : Nat) (wc : List TableEntry := []) : Option Leaf :=
  if s.clk = false then (if p = 0 ∧ inWindows pa = true then some { base := pa / 0x10000 * 0x10000, size := 0x10000 } else none)
  else match s.tableKey p with
  | none => none
  | some k => if pa < 2 ^ 52 ∧ s.pcbValid p then walkFrom s wc p none k pa 3 (s.pcbD p 8) else none

/-- A tenant table entry (R295). -/
def State.tenantEntry (s : State) (p : BitVec 5) (tenant : BitVec 16) : DWord :=
  match s.tableKey p with
  | none => 0
  | some k => if s.pcbValid p && s.clk then s.load64Under (s.pcbD p 0x10 + 16 * tenant.toNat) k else 0

/-- PASID of a tenant (R295). -/
def State.pasidOf (s : State) (p : BitVec 5) (tenant : BitVec 16) : BitVec 20 := bits (s.tenantEntry p tenant) 36 20

/-- Both stages (R296, R299): KEYID, S and P of stage 1, RDONLY and NC of either, the smaller page. None is PAGE. -/
def State.walk (s : State) (wc : List TableEntry) (p : BitVec 5) (tenant : BitVec 16) (va : Nat) : Option TlbEntry :=
  let t := s.tenantEntry p tenant
  match s.tableKey p with
  | none => none
  | some k =>
    if bitAt t 63 then
      match walkFrom s wc p (some tenant) k va 3 (bitsNat t 0 36 * 2 ^ 16) with
      | none => none
      | some l1 =>
        let ipa := l1.base + va % l1.size
        match s.stage2 p ipa wc with
        | none => none
        | some l2 =>
          let size := min l1.size l2.size
          let pa := l2.base + ipa % l2.size
          let e : TlbEntry := { part := p, tenant := tenant, va := va / size * size, size := size, pa := pa / size * size,
                                keyid := bits l1.word 51 13, s := bitAt l1.word 50, p := bitAt l1.word 49,
                                rdonly := bitAt l1.word 48 || bitAt l2.word 48, nc := bitAt l1.word 47 || bitAt l2.word 47 }
          if 0x8000000000000 ≤ pa ∧ (e.keyid ≠ 0 ∨ e.s ∨ e.p) then none else some e
    else none

/-- What a walk leaves behind (R299, R302): the lines of the table entries that it read from memory, and those entries of
levels 3 to 1 in the walk cache of 2,048, of which the oldest gives way. -/
def State.noteReads (s : State) (die : BitVec 4) (p : BitVec 5) (key : BitVec 13) (rs : List (Nat × TableEntry)) : State :=
  rs.foldl (fun (s : State) x =>
    if (cachedEntry (s.dieAt die).wcache p x.2.tenant x.1 x.2.pa).isSome then s
    else
      let s := s.useLine p x.2.pa key false false
      if x.1 ≠ 0 ∧ bitAt x.2.word 0 then s.updDie die (fun d => { d with wcache := (d.wcache ++ [x.2]).drop (d.wcache.length + 1 - 2048) })
      else s) s

/-- The line of a tenant table entry passes through the cache (R295, R299). -/
def State.useTenant (s : State) (p : BitVec 5) (tenant : BitVec 16) : State := match s.tableKey p with
  | some k => if s.pcbValid p && s.clk then s.useLine p (s.pcbD p 0x10 + 16 * tenant.toNat) k false false else s
  | none => s

/-- A walk of a die's translation unit, with what it leaves behind. -/
def State.walkNoted (s : State) (die : BitVec 4) (p : BitVec 5) (tenant : BitVec 16) (va : Nat) : State × Option TlbEntry :=
  let wc := (s.dieAt die).wcache
  let e := s.walk wc p tenant va
  match s.tableKey p with
  | none => (s, e)
  | some k =>
    let t := s.tenantEntry p tenant
    let s := s.useTenant p tenant
    if bitAt t 63 then
      let r1 := walkReads s wc p (some tenant) k va 3 (bitsNat t 0 36 * 2 ^ 16)
      let r2 := match walkFrom s wc p (some tenant) k va 3 (bitsNat t 0 36 * 2 ^ 16) with
        | some l1 => walkReads s wc p none k (l1.base + va % l1.size) 3 (s.pcbD p 8)
        | none => []
      (s.noteReads die p k (r1 ++ r2), e)
    else (s, e)

/-- A micro-TLB entry that translates an address (R302). -/
def tlbHit (p : BitVec 5) (tenant : BitVec 16) (va : Nat) (e : TlbEntry) : Bool :=
  decide (e.part = p) && decide (e.tenant = tenant) && decide (e.va ≤ va ∧ va < e.va + e.size)

/-- Translation in reduced service (R464): the windows of partition 0 stand for themselves, every other address is PAGE. -/
def reducedEntry (p : BitVec 5) (tenant : BitVec 16) (va : Nat) : Option TlbEntry :=
  if p = 0 ∧ inWindows va = true then
    some { part := p, tenant := tenant, va := va / 0x10000 * 0x10000, size := 0x10000, pa := va / 0x10000 * 0x10000 }
  else none

/-- The translation that a request port uses: its micro-TLB's, else a walk's (R302). -/
def State.xlate (s : State) (m : Mmu) (p : BitVec 5) (tenant : BitVec 16) (va : Nat) : Option TlbEntry :=
  if s.clk = false then reducedEntry p tenant va
  else match m.tlb.find? (tlbHit p tenant va) with
  | some e => some e
  | none => s.walk m.wc p tenant va

/-- The micro-TLBs of a die's request port and of a memory tile, with the walk cache of their die (R302). -/
def State.dieTlb (s : State) (die : BitVec 4) : Mmu := { tlb := (s.dieAt die).tlb, wc := (s.dieAt die).wcache }
def State.tileTlb (s : State) (t : TileRef) : Mmu := { tlb := (s.tl t).tlb, wc := (s.dieAt t.die).wcache }

/-- A translation is missing from a micro-TLB. -/
def State.misses (s : State) (m : Mmu) (p : BitVec 5) (tenant : BitVec 16) (va : Nat) : Bool :=
  s.clk && (m.tlb.find? (tlbHit p tenant va)).isNone

/-- A micro-TLB with one more translation: 32 entries, of which the oldest gives way (R302). -/
def tlbAdd (tlb : List TlbEntry) (e : Option TlbEntry) : List TlbEntry := match e with
  | some e => (tlb ++ [e]).drop (tlb.length + 1 - 32)
  | none => tlb

/-! ### Trackers (R302, R303) -/

/-- The micro-TLB of a memory tile, or that of a die's request port. -/
def State.mmuOf (s : State) (die : BitVec 4) (t : Option TileRef) : Mmu := match t with
  | some t => s.tileTlb t
  | none => s.dieTlb die

/-- A micro-TLB takes a translation. -/
def State.addTlb (s : State) (die : BitVec 4) (t : Option TileRef) (e : Option TlbEntry) : State := match t with
  | some t => s.updTl t (fun m => { m with tlb := tlbAdd m.tlb e })
  | none => s.updDie die (fun d => { d with tlb := tlbAdd d.tlb e })

/-- A walk that a translation unit tracks for a page. -/
def Walk.isFor (x : Walk) (st : Stamp) (page : Nat) : Bool :=
  decide (x.part = st.part) && decide (x.tenant = st.tenant) && decide (x.page = page)

/-- A miss starts a walk of its die's translation unit, or joins the one for its page; with 4,096 walks in flight it waits
(R302). The walk reads its tables as it begins (DEDUCED, log entry 55). -/
def startWalk (s : State) (st : Stamp) (page : Nat) (t : Option TileRef := none) : State :=
  let die := st.issuer.die
  let d := s.dieAt die
  if s.misses (s.mmuOf die t) st.part st.tenant (page * 0x10000) = false then s
  else if d.walks.any (fun x => x.isFor st page) then
    s.updDie die (fun d => { d with walks := d.walks.map (fun x =>
      if x.isFor st page ∧ t ∉ x.tlbs then { x with tlbs := x.tlbs ++ [t] } else x) })
  else if d.walks.length < 4096 then
    let x := s.walkNoted die st.part st.tenant (page * 0x10000)
    x.1.updDie die (fun d => { d with walks := d.walks ++
      [{ part := st.part, tenant := st.tenant, page := page, found := x.2, tlbs := [t] }] })
  else s

/-- A page is in the micro-TLB, or its walk is in flight. -/
def walked (s : State) (st : Stamp) (page : Nat) (t : Option TileRef := none) : Bool :=
  !s.misses (s.mmuOf st.issuer.die t) st.part st.tenant (page * 0x10000)
    || (s.dieAt st.issuer.die).walks.any (fun x => x.isFor st page && x.tlbs.contains t)

/-- A walk ends: what it found enters the micro-TLBs that wait for it; where an invalidation has marked it stale, the access
walks again (R303). -/
def endWalk (s : State) (st : Stamp) (page : Nat) : State :=
  let die := st.issuer.die
  match (s.dieAt die).walks.find? (fun x => x.isFor st page) with
  | none => s
  | some x =>
    let s := s.updDie die (fun d => { d with walks := d.walks.erase x })
    let y := if x.stale then s.walkNoted die st.part st.tenant (page * 0x10000) else (s, x.found)
    x.tlbs.foldl (fun s t => s.addTlb die t y.2) y.1

/-- The 64-KiB pages of addresses, each once. -/
def pagesOf (vas : List Nat) : List Nat := (vas.map (fun va => va % 2 ^ 56 / 0x10000)).dedup

/-- The translations of an access of an engine or of a memory tile's port: in its micro-TLB, or their walks end, and it goes
on; or their walks begin, and it waits. -/
def unitWalk (s : State) (st : Stamp) (t : Option TileRef) (vas : List Nat) : State × Bool :=
  let pages := (pagesOf vas).filter (fun page => s.misses (s.mmuOf st.issuer.die t) st.part st.tenant (page * 0x10000))
  if pages.all (fun page => walked s st page t) then (pages.foldl (fun s page => endWalk s st page) s, true)
  else (pages.foldl (fun s page => startWalk s st page t) s, false)

/-- The translations of an access of the control strip, a dispatcher or a queue: each walk begins and ends at once, as long as
a tracker is free (R302; DEDUCED, log entry 55). -/
def walkNow (s : State) (st : Stamp) (vas : List Nat) : State × Bool :=
  (pagesOf vas).foldl (fun acc page =>
    let s := startWalk acc.1 st page
    if walked s st page then (endWalk s st page, acc.2) else (s, false)) (s, true)

/-- The physical address that a translation gives. -/
def TlbEntry.out (e : TlbEntry) (va : Nat) : Nat := e.pa + (va - e.va)

/-! ## Checks of an access (R300, R301) -/

/-- How an access uses its target. -/
inductive Access where
  | read
  | write
  | atomic (mode : Bool)
  | presRead
  | presWrite (whole : Bool)
  | presClear (n : Nat)
  | probe
  | barrier
deriving DecidableEq, Repr

/-- An access that an RDONLY page refuses. -/
def Access.writes : Access → Bool
  | .read => false
  | .write => true
  | .atomic _ => true
  | .presRead => false
  | .presWrite _ => true
  | .presClear _ => true
  | .probe => false
  | .barrier => true

/-- The range of a clear stays in its bank or page and is not empty (R311). -/
def clearFits (pa n unit span : Nat) : Bool := decide (n ≠ 0) && decide (pa % span + n * unit ≤ span)

/-- The second check of R300: the target's kind and mode suit the access (R276, R278, R280, R283, R286, R294, R313). -/
def State.kindOk (s : State) (node : Bool) (e : TlbEntry) (pa : Nat) (a : Access) : Bool :=
  !(a.writes && e.rdonly) && (match s.target pa with
  | .hole => false
  | .store .. => !node && decide (a = .read ∨ a = .write)
  | .host _ => decide (a = .read ∨ a = .write)
  | .bank t b =>
    let m := s.bankMode t b
    (match a with
    | .read => decide (m = 0)
    | .write => decide (m = 0)
    | .atomic mode => decide (m = 0) && !mode
    | .barrier => decide (m = 0)
    | .presClear n => decide (m = 3) && clearFits pa n 4 0x8000
    | _ => decide (m = 3))
  | .dram _ =>
    (match a with
    | .read => !e.p
    | .write => !e.p
    | .atomic mode => !e.p && !mode
    | .barrier => !e.p
    | .presRead => e.p
    | .probe => e.p
    | .presWrite whole => e.p && whole
    | .presClear n => e.p && clearFits pa n 64 e.size))

/-- The alignment of an access: that of `PCLR` is 64 in a page (R311). -/
def State.alignOf (s : State) (pa : Nat) (a : Access) (al : Nat) : Nat := match a with
  | .presClear _ => if s.isDram pa then 64 else 4
  | _ => al

/-- The key that an access uses; none where R301 refuses it. -/
def State.keyFor (s : State) (p : BitVec 5) (key : BitVec 13) (e : TlbEntry) : Option (BitVec 13) :=
  if e.s then (if s.keyOk p e.keyid true then some e.keyid else none)
  else if e.keyid = key ∧ s.keyOk p key false then some key else none

/-- Why an access is refused, with its word and its address. -/
structure Denial where
  cause : BitVec 8 := 0
  word : Nat := 0
  va : Nat := 0

/-- The words of an access with their virtual addresses. -/
def wordVas (va : BitVec 56) (n : Nat) : List (Nat × Nat) := (List.range n).map (fun i => (i, (va.toNat + 4 * i) % 2 ^ 56))

/-- The checks of R300 on all words of an access, the first failing check first and in it the lowest word (R308): the
physical address and key of every word. -/
def State.checkAccess (s : State) (tlb : Mmu) (st : Stamp) (node : Bool) (ws : List (Nat × Nat)) (a : Access) (al : Nat) :
    Except Denial (List (Nat × BitVec 13)) :=
  let xs := ws.map (fun w => (w, s.xlate tlb st.part st.tenant w.2))
  match xs.find? (fun x => x.2.isNone) with
  | some x => .error { cause := causePage, word := x.1.1, va := x.1.2 }
  | none =>
    let ys := xs.filterMap (fun x => x.2.map (fun e => (x.1, e)))
    match ys.find? (fun y => !s.kindOk node y.2 (y.2.out y.1.2) a) with
    | some y => .error { cause := causeProt, word := y.1.1, va := y.1.2 }
    | none =>
      match ys.find? (fun y => decide (y.1.1 = 0 ∧ y.1.2 % s.alignOf (y.2.out y.1.2) a al ≠ 0)) with
      | some y => .error { cause := causeAlign, va := y.1.2 }
      | none =>
        match ys.find? (fun y => (s.keyFor st.part st.keyid y.2).isNone) with
        | some y => .error { cause := causeDomain, word := y.1.1, va := y.1.2 }
        | none => .ok (ys.map (fun y => (y.2.out y.1.2, (s.keyFor st.part st.keyid y.2).getD 0)))

/-- What a denial reports (R379). -/
def Denial.fault (d : Denial) (write : Bool) (path : Path) : FaultInfo :=
  let va := BitVec.ofNat 56 d.va
  if d.cause = causeDomain then keyFault d.word va path else accessFault d.cause d.word va write path

/-- Words, access and alignment of a request to memory. -/
def Op.access : Op → Nat × Access × Nat
  | .load n => (n, .read, 4)
  | .store ws => (ws.length, .write, 4)
  | .presRead n => (n, .presRead, if n = 16 then 64 else 4)
  | .presWrite ws => (ws.length, .presWrite (decide (ws.length = 16)), if ws.length = 16 then 64 else 4)
  | .presClear n => (1, .presClear n, 4)
  | .probe => (1, .probe, 4)
  | .atomic op rm _ => (1, .atomic (decide (op = 9 ∧ rm ≠ 0)), 4)
  | .cas _ _ => (1, .atomic false, 4)
  | .barArrive _ => (1, .barrier, 8)
  | .barWait _ _ => (1, .barrier, 8)
  | .barTry _ _ => (1, .barrier, 8)
  | .barMake _ => (1, .barrier, 8)
  | .xwait _ => (1, .read, 4)
  | .cxBlock _ n => (n, .read, 8)
  | _ => (0, .read, 4)

/-- A host window is no target of `XWAIT` (R440). -/
def Op.noHost : Op → Bool
  | .xwait _ => true
  | _ => false

/-- PATH of a requester's fault (R379). -/
def Requester.path : Requester → Path
  | .latch .. => .latch
  | .query .. => .latch
  | .sbuf _ => .storeBuffer
  | .podq _ => .storeBuffer
  | .port .. => .stream
  | .eng .. => .engine
  | _ => .awaited

/-- The checks of a request at its port (R300, R305): of all its words, those that the store buffer gave among them (R308). -/
def State.checkReq (s : State) (r : Req) : Except FaultInfo (List (Nat × BitVec 13)) :=
  let a := r.op.access
  match s.checkAccess (s.dieTlb r.stamp.issuer.die) r.stamp true (wordVas r.va a.1) a.2.1 a.2.2 with
  | .error d => .error (d.fault a.2.1.writes r.who.path)
  | .ok ps =>
    if r.op.noHost && ps.any (fun p => match s.target p.1 with
      | .host _ => true
      | _ => false) then .error (({ cause := causeProt, va := r.va.toNat } : Denial).fault false r.who.path)
    else .ok ps

end Sys2Proof.Machine
end

