-- ==== Sys2Proof/Machine/MemHome.lean ====
section
/-! DEFINITION. What a home does with an access: ordinary words, presence units, atomics, barrier words, deferred reads and
reply logs (R273, R281-R286, R311-R317, R360-R364, R440), and the accesses of engines and streams (R339). -/

namespace Sys2Proof.Machine

/-! ## Atomics (R312, R313) -/

/-- op of R312 on two words. -/
def atomicNew (fz : Bool) (rm : Rounding) (op : Nat) (old v : Word) : Word × BitVec 6 :=
  let fp := fun (greater : Bool) =>
    let x := fmtFp32.decode fz old.toNat
    let y := fmtFp32.decode fz v.toNat
    BitVec.ofNat 32 (fmtFp32.exactOp fz (if greater then FVal.max x y else FVal.min x y))
  if op = 0 then (old + v, 0)
  else if op = 1 then (old &&& v, 0)
  else if op = 2 then (old ||| v, 0)
  else if op = 3 then (old ^^^ v, 0)
  else if op = 4 then (if old.toInt ≤ v.toInt then old else v, 0)
  else if op = 5 then (if old.toInt ≤ v.toInt then v else old, 0)
  else if op = 6 then (if old.toNat ≤ v.toNat then old else v, 0)
  else if op = 7 then (if old.toNat ≤ v.toNat then v else old, 0)
  else if op = 8 then (v, 0)
  else if op = 9 then
    let r := fmtFp32.addOp rm fz old.toNat v.toNat
    (BitVec.ofNat 32 r.1, r.2)
  else (fp (decide (op = 11)), 0)

/-- The word that an update leaves and its flags, under the poison rules of R312. -/
def atomicWord (fz : Bool) (rm : Rounding) (op : Nat) (old v : PWord) : PWord × BitVec 6 :=
  if old.psn then (old, 0)
  else if v.psn then (v, 0)
  else
    let r := atomicNew fz rm op old.val v.val
    (PWord.clean r.1, r.2)

/-- The word that a compare-and-swap leaves (R312). -/
def casWord (old exp new : PWord) : PWord := if old.psn then old else if old.val = exp.val then new else old

/-! ## Units, homes and logs (R273, R284, R286, R317) -/

/-- The home of a physical address. -/
def State.homeOf (s : State) (pa : Nat) : Home := match s.target pa with
  | .bank t _ => .bank t
  | .dram d => .cache d
  | .store e _ => .inbox e
  | .host b => .host b
  | .hole => .cache 0

/-- Entries that a reply log holds (R317). -/
def Home.cap : Home → Nat
  | .cache _ => 256
  | .bank _ => 32
  | .inbox _ => 16
  | .host _ => 0

/-- Entries of a reply log that accepted updates with a reply will take when they are applied (R315, R317). -/
def State.logOwed (s : State) : Home → Nat
  | .inbox e => ((Map.values (s.el e).inbox).map (fun b => b.entries.countP InboxEntry.rply)).sum
  | _ => 0

/-- The reply log of a home has room. -/
def State.logRoom (s : State) (h : Home) : Bool := decide (s.logs.countP (fun x => decide (x.home = h)) + s.logOwed h < h.cap)

/-- The first word of the presence unit that holds an address: the word in a bank, the line in a page (R286). -/
def State.unitOf (s : State) (pa : Nat) : Nat := if s.isDram pa then pa / 64 * 64 else pa

/-- The state of a presence unit. -/
def State.presAt (s : State) (pa : Nat) : Presence := (s.metaAt (s.unitOf pa)).pres
def State.setPres (s : State) (pa : Nat) (x : Presence) : State :=
  let u := s.unitOf pa
  s.setMeta u { s.metaAt u with pres := x }

/-- A presence unit's word as a presence read delivers it; none while the unit is EMPTY (R283). -/
def State.presWord (s : State) (pa : Nat) (k : BitVec 13) : Option PWord :=
  match s.presAt pa with
  | .empty => none
  | .full => some (PWord.clean (s.loadUnder pa k).val)
  | .poison => some ⟨(s.loadUnder pa k).val, true⟩

/-- Where reads are deferred: the bank, or the die's cache (R284, R286). -/
inductive DeferAt where
  | bank (t : TileRef) (b : Nat)
  | die (d : BitVec 4)
deriving DecidableEq, Repr

def State.deferAt (s : State) (pa : Nat) : DeferAt := match s.target pa with
  | .bank t b => .bank t b
  | .dram d => .die d
  | .store e _ => .die e.die
  | _ => .die 0

def DeferAt.cap : DeferAt → Nat
  | .bank .. => 64
  | .die _ => 1024

/-- The words that a request's answer still lacks, each with its address and key. -/
def Req.lacks (r : Req) : List (Nat × Nat × BitVec 13) :=
  (r.pas.zipIdx.filter (fun x => (r.fwd.getD x.2 none).isNone)).map (fun x => (x.2, x.1))

/-- The presence units on which a request is deferred, each once. -/
def State.unitsOf (s : State) (r : Req) : List Nat := (r.lacks.map (fun x => s.unitOf x.2.1)).dedup

/-- Entries that the deferred requests hold in a deferral store. -/
def State.deferred (s : State) (d : DeferAt) : Nat :=
  (s.reqs.map (fun r => if r.stage = .deferred then ((s.unitsOf r).filter (fun u => decide (s.deferAt u = d))).length else 0)).sum

/-- There is room for a request's deferred units. -/
def State.deferRoom (s : State) (r : Req) : Bool :=
  match r.pas with
  | [] => true
  | p :: _ =>
    let d := s.deferAt p.1
    decide (s.deferred d + (s.unitsOf r).length ≤ d.cap)

/-- Deferred reads of one presence unit (R285, R311). -/
def State.readsOn (s : State) (u : Nat) : Nat :=
  s.reqs.countP (fun r => decide (r.stage = .deferred) && (match r.op with
    | .presRead _ => (s.unitsOf r).contains u
    | _ => false))

/-- A presence read or write of the unit is on its way to the home (R285, R329). -/
def State.inFlightOn (s : State) (u : Nat) : Bool :=
  s.reqs.any (fun r => decide (r.stage = .home) && (match r.op with
    | .presRead _ => r.pas.any (fun p => decide (s.unitOf p.1 = u))
    | .presWrite _ => (r.pas.drop r.pos).any (fun p => decide (s.unitOf p.1 = u))
    | _ => false))

/-- The answer of a wait on a phase (R363): PASS and STALE as judged when the barrier first evaluated it. -/
def phaseAnswer (phase q : BitVec 16) (first st : Bool) : Answer :=
  let dist := (phase - q).toNat
  let pass := first && decide (1 ≤ dist ∧ dist < 32768)
  let stale := first && decide (2 ≤ dist ∧ dist < 32768)
  { words := [PWord.clean (BitVec.ofNat 32 (phase.toNat + (if pass then 2 ^ 16 else 0) + (if stale then 2 ^ 17 else 0)))],
    cond := if st then stale else pass }

/-- A wait of phase q is answered at once (R363). -/
def phasePassed (phase q : BitVec 16) : Bool :=
  let dist := (phase - q).toNat
  decide (1 ≤ dist ∧ dist < 32768)

/-- PHASE of a barrier word (R360). -/
def phaseOf (w : DWord) : BitVec 16 := bits w 48 16

/-! ## Re-evaluation of deferred requests (R283, R284, R363, R440) -/

/-- A deferred request judged again: its answer, or itself with the words that it has gained. -/
def tryDeferred (s : State) (r : Req) : Except Req Answer :=
  match r.pas with
  | [] => .error r
  | p :: _ =>
    match r.op with
    | .xwait b =>
      let w := s.loadUnder p.1 p.2
      if w.psn ∨ 0 ≤ (w.val - b).toInt then .ok { words := [w], cond := !w.psn } else .error r
    | .barWait q st =>
      let ph := phaseOf (s.load64Under p.1 p.2)
      if phasePassed ph q then .ok (phaseAnswer ph q false st) else .error r
    | .presRead _ =>
      let got := r.pas.zipIdx.map (fun x => (r.fwd.getD x.2 none).orElse (fun _ => s.presWord x.1.1 x.1.2))
      if got.all Option.isSome then .ok { words := got.filterMap id } else .error { r with fwd := got }
    | _ => .error r

/-- A live barrier word covers the address (R360). -/
def State.barrierAt (s : State) (pa : Nat) : Bool := (s.metaAt (pa / 8 * 8)).barrier

/-- The deferred requests that name the unit of an address are judged again, in the order in which the home took them. -/
def reeval (s : State) (pa : Nat) : State :=
  s.reqs.foldl (fun s r =>
    if r.stage = .deferred ∧ r.pas.any (fun p => decide (p.1 = pa ∨ s.unitOf p.1 = s.unitOf pa)) then
      match tryDeferred s r with
      | .ok a => (s.dropReq r.id).answer r a
      | .error r => s.setReq r
    else s) s

/-- Where a word of host memory stands: where both ports lead to one host, an address means the same word through either (R294,
R328; log entry 124). -/
def State.hostCell (s : State) (pa : Nat) : Nat := match s.target pa with
  | .host true => if Config.oneHost then pa - 2 ^ 50 else pa
  | _ => pa

/-- A host-window store that its port has placed on the link becomes visible at the host (R328). -/
def landPosted (s : State) (x : Posted) : State := ({ s with posted := s.posted.erase x } : State).storeWord (s.hostCell x.pa) x.word

/-- All earlier posted writes of a host port reach its host, in their order (R328). -/
def landAll (s : State) (south : Bool) : State := (s.posted.filter (fun x => decide (x.south = south))).foldl landPosted s

/-- Relaxed Ordering: a host may make any posted write visible at any time. Whether it does so in a cycle, and which one, is a
free value (R328). -/
def hostTick (s : State) : State :=
  if s.posted = [] then s
  else
    let a := s.free
    if bitAt a.1 0 then
      match s.posted[a.1.toNat / 2 % s.posted.length]? with
      | some x => landPosted a.2 x
      | none => a.2
    else a.2

/-- A word of host memory as a load through its port receives it: a read does not overtake the port's posted writes. -/
def State.hostWord (s : State) (pa : Nat) : PWord := match s.posted.reverse.find? (fun x => decide (x.pa = pa)) with
  | some x => x.word
  | none => s.loadUnder (s.hostCell pa) 0

/-- A word as its home delivers it (R273, R328). -/
def State.homeWord (s : State) (pa : Nat) (k : BitVec 13) : PWord := match s.target pa with
  | .host _ => s.hostWord pa
  | _ => s.loadUnder pa k

/-- An ordinary write of a word at its home; to the host it is a posted write on the port's link (R328). -/
def homeStore (s : State) (pa : Nat) (k : BitVec 13) (w : PWord) : State := match s.target pa with
  | .host south => { s with posted := s.posted ++ [{ south := south, pa := pa, word := w }] }
  | _ => reeval (s.storeUnder pa k w) pa

/-- A presence write of one bank word (R283). -/
def presStoreWord (s : State) (pa : Nat) (k : BitVec 13) (w : PWord) : State :=
  let s := s.storeUnder pa k (PWord.clean w.val)
  reeval (s.setPres pa (if w.psn then .poison else .full)) pa

/-- A presence write of a whole line: a poisoned lane makes it POISON with the origin of the lowest one (R286, R311). -/
def presStoreLine (s : State) (pa : Nat) (k : BitVec 13) (ws : List PWord) : State :=
  let psn := firstPoison ws
  let s := (ws.zipIdx).foldl (fun s x => s.storeUnder (pa + 4 * x.2) k (PWord.clean (psn.getD x.1.val))) s
  reeval (s.setPres pa (if psn.isSome then .poison else .full)) pa

/-! ## What a home answers (R273) -/

/-- What becomes of a request at its home: it waits there, has a further word performed, is answered, or is deferred. -/
inductive Performed where
  | wait
  | more (s : State) (r : Req)
  | done (s : State) (a : Answer)
  | defer (s : State) (r : Req)

/-- A refusal before acceptance (R316). -/
def refusal (r : Req) (cause : BitVec 8) (word : Nat) : Answer :=
  { accepted := false,
    fault := some (accessFault cause word (BitVec.ofNat 56 (r.va.toNat + 4 * word)) r.op.access.2.1.writes r.who.path) }

/-- The words of a request with word `i` taken from its home. -/
def Req.got (r : Req) (n i : Nat) (w : PWord) : List (Option PWord) :=
  (List.range n).map (fun j => if j = i then some w else r.fwd.getD j none)

/-- Word `i` of a request passes through the cache of its home (R290). -/
def State.useWord (s : State) (r : Req) (i : Nat) (write : Bool) : State := match r.pas[i]? with
  | some p => s.useLine r.stamp.part p.1 p.2 write (r.nc.getD i false)
  | none => s

/-- All words of a request do. -/
def State.useWords (s : State) (r : Req) (write : Bool) : State := (List.range r.pas.length).foldl (fun s i => s.useWord r i write) s

/-- A load at its home (R273, R323): each word is performed on its own, the lowest one first; the answer comes with the last. -/
def performLoad (s : State) (r : Req) (n : Nat) : Performed := match r.lacks with
  | [] => .done s { words := r.fwd.filterMap id }
  | (i, p) :: rest =>
    let fwd := r.got n i (s.homeWord p.1 p.2)
    let s := s.useWord r i false
    if rest = [] then .done s { words := fwd.filterMap id } else .more s { r with
      fwd := fwd
      pos := r.pos + 1 }

/-- The first word of a request that lies in a live barrier word. -/
def State.barrierWord (s : State) (r : Req) : Option Nat := r.pas.findIdx? (fun p => s.barrierAt p.1)

/-- What the home of a store answers: which host ports took words of it, bit 0 for the north one and bit 1 for the south one
(R309). -/
def storeAnswer (s : State) (r : Req) : Answer :=
  let at_ := fun (south : Bool) => r.pas.any (fun p => decide (s.target p.1 = .host south))
  let code : Nat := (if at_ false then 1 else 0) + (if at_ true then 2 else 0)
  if code = 0 then {} else { words := [PWord.clean (BitVec.ofNat 32 code)] }

/-- A store at its home (R273, R323): each word is performed on its own, the lowest one first, unless a live barrier word
refuses it before its first word (R364). -/
def performStore (s : State) (r : Req) (ws : List PWord) : Performed :=
  match (if r.pos = 0 then s.barrierWord r else none), r.pas[r.pos]? with
  | some i, _ => .done s (refusal r causeBarrierStore i)
  | none, none => .done s (storeAnswer s r)
  | none, some p =>
    let s := homeStore (s.useWord r r.pos true) p.1 p.2 (ws.getD r.pos {})
    if r.pas.length ≤ r.pos + 1 then .done s (storeAnswer s r) else .more s { r with pos := r.pos + 1 }

/-- A read that may be deferred: answered, or held in the deferral store while it has room (R284, R286). -/
def readOrDefer (s : State) (r : Req) : Performed :=
  match tryDeferred s r with
  | .ok a => .done s a
  | .error r => if s.deferRoom r then .defer s r else .wait

/-- Another presence write that has begun holds a word of the request (R311, R323). -/
def State.writtenNow (s : State) (r : Req) : Bool :=
  s.reqs.any (fun x => decide (x.id ≠ r.id) && decide (x.stage = .home) && decide (0 < x.pos) && (match x.op with
    | .presWrite _ => x.pas.any (fun p => r.pas.any (fun q => decide (p.1 = q.1)))
    | _ => false))

/-- A presence write (R283, R311): WRITE_TWICE where any unit is not EMPTY, and then nothing changes. A line is written in one
step; words of a bank become visible one by one (R323), and once the first is written all are. -/
def performPresWrite (s : State) (r : Req) (ws : List PWord) : Performed :=
  match r.pas[r.pos]? with
  | none => .done s {}
  | some p =>
    if s.writtenNow r then .wait
    else
      match (if r.pos = 0 then r.pas.findIdx? (fun p => decide (s.presAt p.1 ≠ .empty)) else none) with
      | some i => .done s { fault := some (accessFault causeWriteTwice i (BitVec.ofNat 56 (r.va.toNat + 4 * i)) true r.who.path) }
      | none =>
        if s.isDram p.1 then .done (presStoreLine (s.useWord r 0 true) p.1 p.2 ws) {}
        else
          let s := presStoreWord s p.1 p.2 (ws.getD r.pos {})
          if r.pas.length ≤ r.pos + 1 then .done s {} else .more s { r with pos := r.pos + 1 }

/-- A clear of `n` units (R285): those with a deferred read, or a read or write on its way, stay and are counted. -/
def performClear (s : State) (pa n : Nat) : State × Nat :=
  let step := if s.isDram pa then 64 else 4
  (List.range n).foldl (fun st i =>
    let u := pa + step * i
    if st.1.readsOn u ≠ 0 ∨ st.1.inFlightOn u then (st.1, st.2 + 1) else (st.1.setPres u .empty, st.2)) (s, 0)

/-- The lines of a clear pass through the cache of their home (R290). -/
def State.useClear (s : State) (r : Req) (pa : Nat) (k : BitVec 13) (n : Nat) : State :=
  if s.isDram pa then
    ((List.range n).filter (fun i => decide (i = 0) || decide ((pa + 64 * i) % 128 = 0))).foldl (fun s i =>
      s.useLine r.stamp.part (pa + 64 * i) k true (r.nc.getD 0 false)) s
  else s

/-- The word of `PPRB` (R311). DEFR has no code for 1,024 reads and saturates (DESIGN CHOICE, log entry 129). -/
def probeWord (s : State) (pa : Nat) : Answer :=
  let st := s.presAt pa
  let code : Nat := match st with
    | .empty => 0
    | .full => 1
    | .poison => 2
  { words := [PWord.clean (BitVec.ofNat 32 (min (s.readsOn (s.unitOf pa)) 1023 * 256 + code))], cond := decide (st = .full) }

/-- COUNT and LEFT of a barrier word, and the word of three fields (R360). -/
def barCount (w : DWord) : Nat := bitsNat w 24 24
def barLeft (w : DWord) : Nat := bitsNat w 0 24
def barWordOf (phase count left : Nat) : DWord := BitVec.ofNat 64 (phase * 2 ^ 48 + count * 2 ^ 24 + left)

/-- A 64-bit value stored as two words. -/
def store64 (s : State) (pa : Nat) (k : BitVec 13) (w : DWord) : State :=
  (s.storeUnder pa k (PWord.clean (bits w 0 32))).storeUnder (pa + 4) k (PWord.clean (bits w 32 32))

/-- A write of a barrier word: what waits for either of its words is evaluated again (R363, R440). -/
def barWrite (s : State) (pa : Nat) (k : BitVec 13) (w : DWord) : State := reeval (reeval (store64 s pa k w) pa) (pa + 4)

/-- n arrivals at a barrier word (R362); `none` where they are refused. The phase before, and whether they overran. -/
def wordArrive (s : State) (pa : Nat) (k : BitVec 13) (n : Nat) : Option (State × BitVec 16 × Bool) :=
  if n = 0 ∨ 16777215 < n then none
  else
    let w := s.load64Under pa k
    let q := phaseOf w
    if barLeft w ≤ n then
      some (barWrite s pa k (barWordOf ((q.toNat + 1) % 65536) (barCount w) (barCount w)), q, decide (barLeft w < n))
    else some (barWrite s pa k (barWordOf q.toNat (barCount w) (barLeft w - n)), q, false)

/-- The answer of arrivals (R362). -/
def arriveAnswer (q : BitVec 16) (overrun : Bool) : Answer := { words := [PWord.clean (BitVec.setWidth 32 q)], cond := !overrun }
def arriveRefused : Answer := { words := [PWord.clean 0xFFFFFFFF], cond := false }

/-- `MBAR` at its home (R364). -/
def performMake (s : State) (pa : Nat) (k : BitVec 13) (n : Nat) : State × Bool :=
  let m := s.metaAt pa
  if m.barrier then
    if n = 0 ∧ s.reqs.all (fun r => !(decide (r.stage = .deferred) && r.pas.any (fun p => decide (p.1 / 8 = pa / 8)))) then
      ((store64 s pa k 0).setMeta pa { (store64 s pa k 0).metaAt pa with barrier := false }, true)
    else (s, false)
  else if n = 0 ∨ 16777215 < n then (s, false)
  else
    let s := barWrite s pa k (barWordOf 0 n n)
    (s.setMeta pa { s.metaAt pa with barrier := true }, true)

/-- The first word of a presence access that meets a live barrier word (R364): of its own words, or of the units that it
clears. -/
def State.presBarrier (s : State) (r : Req) : Option Nat := match r.op, r.pas with
  | .presClear n, p :: _ =>
    let step := if s.isDram p.1 then 64 else 4
    ((List.range (n * (step / 4))).find? (fun i => s.barrierAt (p.1 + 4 * i))).map (fun _ => 0)
  | .presRead _, _ => s.barrierWord r
  | .presWrite _, _ => s.barrierWord r
  | .probe, _ => s.barrierWord r
  | _, _ => none

/-- A home performs a request for memory (R273). -/
def performMem (s : State) (r : Req) : Performed :=
  match s.presBarrier r, r.pas with
  | some i, _ => .done s (refusal r causeBarrierStore i)
  | none, [] => .done s { words := r.fwd.filterMap id }
  | none, p :: _ =>
    match r.op with
    | .load n => performLoad s r n
    | .cxBlock _ _ => .done (s.useWords r false) { words := r.pas.map (fun p => s.loadUnder p.1 p.2) }
    | .store ws => performStore s r ws
    | .presRead _ => readOrDefer (s.useWords r false) r
    | .presWrite ws => performPresWrite s r ws
    | .presClear n =>
      let c := performClear (s.useClear r p.1 p.2 n) p.1 n
      .done c.1 { words := [PWord.clean (BitVec.ofNat 32 c.2)], cond := decide (c.2 = 0) }
    | .probe => .done (s.useWord r 0 false) (probeWord s p.1)
    | .atomic op _ v =>
      if s.barrierAt p.1 then .done s (refusal r causeBarrierStore 0)
      else
        let old := s.loadUnder p.1 p.2
        .done (homeStore (s.useWord r 0 true) p.1 p.2 (atomicWord false .nearest op.toNat old v).1)
          { words := [old], cond := !old.psn && decide (old.val ≠ 0) }
    | .cas exp new =>
      if s.barrierAt p.1 then .done s (refusal r causeBarrierStore 0)
      else
        let old := s.loadUnder p.1 p.2
        .done (homeStore (s.useWord r 0 true) p.1 p.2 (casWord old exp new))
          { words := [old], cond := !old.psn && decide (old.val = exp.val) }
    | .barArrive n =>
      if s.barrierAt p.1 then
        match wordArrive (s.useWord r 0 true) p.1 p.2 n.toNat with
        | some x => .done x.1 (arriveAnswer x.2.1 x.2.2)
        | none => .done s arriveRefused
      else .done s (refusal r causeProt 0)
    | .barTry q st =>
      if s.barrierAt p.1 then .done (s.useWord r 0 false) (phaseAnswer (phaseOf (s.load64Under p.1 p.2)) q true st)
      else .done s (refusal r causeProt 0)
    | .barWait q st =>
      if s.barrierAt p.1 then
        let ph := phaseOf (s.load64Under p.1 p.2)
        if phasePassed ph q then .done (s.useWord r 0 false) (phaseAnswer ph q true st) else readOrDefer (s.useWord r 0 false) r
      else .done s (refusal r causeProt 0)
    | .barMake n =>
      let x := performMake (s.useWord r 0 true) p.1 p.2 n.toNat
      .done x.1 { cond := x.2 }
    | .xwait _ => readOrDefer (s.useWord r 0 false) r
    | _ => .done s {}

/-! ## Accesses of engines and streams (R339) -/

/-- The window check of R339: the target element's table holds a valid entry of the stamp's TENANT and KEYID whose BANKS
word holds the bank. -/
def windowOk (s : State) (st : Stamp) (e : ElemRef) (off : Nat) : Bool :=
  let el := s.el e
  (List.range 16).any (fun d =>
    let x := Map.get el.dtab 0 d
    entValid x && decide (entTenant x = st.tenant) && decide (entKey x = st.keyid)
      && el.owns (BitVec.ofNat 4 d) (.bank (off / 0x2000)))
    && !el.scrubbing (.bank (off / 0x2000))

/-- ATS is enabled on the function that a queue of the tenant names (R425). -/
def State.atsOn (s : State) (p : BitVec 5) (tenant : BitVec 16) : Bool :=
  match s.qreg.find? (fun q => decide (q.part = p) && decide (q.tenant = tenant)) with
  | some q => Map.get s.ats false q.fn.toNat
  | none => false

/-- A host port. -/
def State.hport (s : State) (south : Bool) : HostPort := Map.get s.port {} (if south then 1 else 0)
def State.updHport (s : State) (south : Bool) (f : HostPort → HostPort) : State :=
  { s with port := Map.modify s.port {} (if south then 1 else 0) f }

/-- The ATC's entry for a window offset of a PASID (R424, R425). -/
def State.atcHit (s : State) (south : Bool) (pasid : BitVec 20) (off : Nat) : Option TlbEntry :=
  (s.hport south).atc.find? (fun e => decide (e.pasid = pasid) && decide (e.va ≤ off ∧ off < e.va + e.size))

/-- Base of the window of a host port (R275). -/
def hostBase (south : Bool) : Nat := if south then 0xC000000000000 else 0x8000000000000

/-- Where the host's own translation of an untranslated address with its PASID leads (R294): the host decides. -/
def hostPlace (south : Bool) (pasid : BitVec 20) (off : Nat) : Nat :=
  hostBase south + (Config.hostPage south pasid (off / 4096)).toNat * 4096 + off % 4096

/-- The address that a host access uses: where ATS is off, the one that the host finds for the window offset and the PASID
(R294); the translated one where the ATC holds it, and none where the host must be asked (R425). -/
def State.hostAddrAs (s : State) (ats : Bool) (pasid : BitVec 20) (pa : Nat) : Option Nat :=
  match s.target pa with
  | .host south =>
    if ats then (s.atcHit south pasid (pa % 2 ^ 50)).map (fun e => hostBase south + e.out (pa % 2 ^ 50))
    else some (hostPlace south pasid (pa % 2 ^ 50))
  | _ => some pa
def State.hostAddr (s : State) (p : BitVec 5) (tenant : BitVec 16) (pa : Nat) : Option Nat :=
  s.hostAddrAs (s.atsOn p tenant) (s.pasidOf p tenant) pa

/-- The PASID of a host access is being torn down (R432). -/
def State.tearingAs (s : State) (pasid : BitVec 20) (pa : Nat) : Bool :=
  match s.target pa with
  | .host _ => (s.hport false).tearing.contains pasid || (s.hport true).tearing.contains pasid
  | _ => false
def State.tearing (s : State) (p : BitVec 5) (tenant : BitVec 16) (pa : Nat) : Bool := s.tearingAs (s.pasidOf p tenant) pa

/-- The check of one word of an engine or stream: its physical address and key, or the cause (R300, R339). A host page
whose translation is not yet known is PAGE until the host has answered. -/
def unitCheck (s : State) (tlb : Mmu) (st : Stamp) (va : Nat) (a : Access) (al : Nat) : Except (BitVec 8) (Nat × BitVec 13) :=
  match s.checkAccess tlb st false [(0, va % 2 ^ 56)] a al with
  | .error d => .error d.cause
  | .ok [] => .error causePage
  | .ok (p :: _) =>
    if s.tearing st.part st.tenant p.1 then .error causePage
    else
      match s.target p.1 with
      | .store e off => if windowOk s st e off then .ok p else .error causeDomain
      | .host _ => match s.hostAddr st.part st.tenant p.1 with
        | some pa => .ok (pa, p.2)
        | none => .error causePage
      | _ => .ok p

/-- An access of a unit waits for the host's translation of its address (R425). -/
def needsHost (s : State) (tlb : Mmu) (st : Stamp) (va : Nat) (a : Access) : Bool :=
  match s.checkAccess tlb st false [(0, va % 2 ^ 56)] a 4 with
  | .ok (p :: _) => !s.tearing st.part st.tenant p.1 && (s.hostAddr st.part st.tenant p.1).isNone
  | _ => false

/-- A unit's Translation Request is on its way, or its Page Request (R425). -/
def State.askedHost (s : State) (who : Requester) : Bool := s.reqs.any (fun r => decide (r.who = who))

/-- PASID of a slot's accesses (R429). -/
def QSlot.pasid (q : QSlot) : BitVec 20 := bits (Map.get q.rec_ 0 1) 0 20

/-- PASID of an access: the slot's own for a queue's, else the tenant's (R295, R429). -/
def State.pasidFor (s : State) (who : Requester) (st : Stamp) : BitVec 20 := match who with
  | .queue d i => (Map.get (s.dieAt d).slot {} i.toNat).pasid
  | _ => s.pasidOf st.part st.tenant

/-- The port of a host address. -/
def State.portOf (s : State) (pa : Nat) : Option Bool := match s.target pa with
  | .host south => some south
  | _ => none

/-- Non-posted requests that a host port has outstanding (R424): translations asked for, and reads under way. -/
def State.nonPosted (s : State) (south : Bool) : Nat :=
  s.reqs.countP (fun r => (decide (r.stage = .ats) || (decide (r.stage = .home) && !(match r.op with
    | .store _ => true
    | _ => false))) && r.pas.any (fun x => decide (s.portOf x.1 = some south)))

/-- A host port that an access leads to has 4,096 non-posted requests outstanding (R424). -/
def State.noRoom (s : State) (ps : List (Nat × BitVec 13)) : Bool :=
  ps.any (fun x => match s.portOf x.1 with
    | some south => decide (4096 ≤ s.nonPosted south)
    | none => false)

/-- A unit asks the host for the translation of its access, once, and as soon as the port may take it (R424, R425). -/
def askHost (s : State) (tlb : Mmu) (who : Requester) (st : Stamp) (va : Nat) (write : Bool := false) : State :=
  let pas := match s.xlate tlb st.part st.tenant (va % 2 ^ 56) with
    | some e => [(e.out (va % 2 ^ 56), e.keyid)]
    | none => []
  if s.askedHost who ∨ s.noRoom pas = true then s
  else
    let gen := Map.get s.pasidGen 0 (s.pasidFor who st).toNat
    let op : Op := if write then .store [] else .load 1
    let r : Req := { id := s.serial, who := who, stamp := st, va := BitVec.ofNat 56 va, op := op, stage := .ats, pas := pas, gen := gen }
    { s with serial := s.serial + 1, reqs := s.reqs ++ [r] }

/-- What the host was asked for a unit is forgotten. -/
def forgetAsk (s : State) (who : Requester) : State :=
  { s with reqs := s.reqs.filter (fun r => decide (r.who ≠ who) || decide (r.stage = .deferred)) }

/-- An access of a unit passes through the cache of its home (R290). -/
def unitUses (s : State) (m : Mmu) (st : Stamp) (va : Nat) (p : Nat × BitVec 13) (write : Bool) : State :=
  s.useLine st.part p.1 p.2 write (match s.xlate m st.part st.tenant (va % 2 ^ 56) with
    | some e => e.nc
    | none => false)

/-- An address in each of the lines of a range, its first one first. -/
def linesOf (a n : Nat) : List Nat :=
  if n = 0 then [] else (List.range ((a % 128 + n + 127) / 128)).map (fun i => if i = 0 then a / 4 * 4 else a / 128 * 128 + 128 * i)

/-- An access of a range by the control strip, a dispatcher or a queue passes through its die's translation unit and the caches of
the homes (R290, R302); it waits where no tracker is free. -/
def unitTouch (s : State) (st : Stamp) (va n : Nat) (write : Bool) : State × Bool :=
  let vas := (linesOf va n).map (· % 2 ^ 56)
  let w := walkNow s st vas
  (vas.foldl (fun (s : State) va =>
    let m := s.dieTlb st.issuer.die
    match unitCheck s m st va (if write then .write else .read) 4 with
    | .ok p => unitUses s m st va p write
    | .error _ => s) w.1, w.2)

/-- A presence write that has begun still has the word to write (R311, R323): the write of another waits for it. -/
def State.beingWritten (s : State) (pa : Nat) : Bool :=
  s.reqs.any (fun x => decide (x.stage = .home) && decide (0 < x.pos) && (match x.op with
    | .presWrite _ => (x.pas.drop x.pos).any (fun p => decide (p.1 = pa))
    | _ => false))

/-- The write of one word of a unit (R357): refused by a live barrier word (R364); a word of a presence bank is written once
(R283, R347, R359). -/
def unitStore (s : State) (p : Nat × BitVec 13) (w : PWord) : Except (BitVec 8) State :=
  if s.barrierAt p.1 then .error causeBarrierStore
  else match s.target p.1 with
    | .bank t b =>
      if s.bankMode t b = 3 then (if s.presAt p.1 = .empty then .ok (presStoreWord s p.1 p.2 w) else .error causeWriteTwice)
      else .ok (homeStore s p.1 p.2 w)
    | _ => .ok (homeStore s p.1 p.2 w)

/-! ## The order of a bank (R281, R317, R340) -/

/-- The home whose reply log keeps the answer of a latch access; none for one that a peer module keeps (R317). -/
def Req.logHome (s : State) (r : Req) : Option Home := match r.who, r.pas with
  | .latch .., p :: _ => some (s.homeOf p.1)
  | .peer .., p :: _ => (match r.op with
    | .atomic .. => some (s.homeOf p.1)
    | _ => none)
  | _, _ => none

/-- The reply log has room for the answer (R317). -/
def logFree (s : State) (r : Req) : Bool := match r.logHome s with
  | some h => s.logRoom h || (match h with
    | .host _ => true
    | _ => false)
  | none => true

/-- A request has had a word performed and others still to come. -/
def Req.begun (r : Req) : Bool := decide (r.stage = .home) && decide (0 < r.pos)

/-- The home cannot take a request now for another reason than its bank: its log is full, or no read more can be deferred
(R284, R286, R317), or another presence write must end first (R311). -/
def stuck (s : State) (r : Req) : Bool := !logFree s r || (match performMem s r with
  | .wait => true
  | _ => false)

/-- The request that stands first in the queue of a bank (R281). -/
def State.bankHead (s : State) (t : TileRef) (b : Nat) : Option Req :=
  s.reqs.find? (fun r => r.queued && (match r.pas with
    | p :: _ => decide (s.target p.1 = .bank t b)
    | [] => false))

/-- A request that came to the bank of an address before a cycle goes first. -/
def State.headFirst (s : State) (pa : Nat) (since : Nat) : Bool := match s.target pa with
  | .bank t b => (s.bankHead t b).any (fun r => decide (r.since < since) && !stuck s r)
  | _ => false

/-- A bank has applied no access in this cycle, and no node access takes that of a local store (R281, R340). -/
def unitFree (s : State) (pa : Nat) : Bool := match s.target pa with
  | .store e off =>
    !(decide ((s.el e).lsAt.map (· + 1) = some s.cycle) && (s.el e).lsBanks.contains (off / 0x2000))
      && (Map.find (s.el e).winAt (off / 0x2000)).all (fun c => decide (c < s.cycle))
  | .bank t b => (Map.find (s.tl t).bankAt b).all (fun c => decide (c < s.cycle))
  | _ => true

/-- A unit may access a word in this cycle: its bank is free, no request that came before it waits there, and for a write no
presence write that has begun still has the word to write (R281, R323, R340). `since` is the cycle in which the access came. -/
def unitMay (s : State) (since : Option Nat) (pa : Nat) (write : Bool) : Bool :=
  unitFree s pa && !s.headFirst pa (since.getD s.cycle) && !(write && s.beingWritten pa)

/-- A bank applies `n` accesses: in this cycle and in those that follow, after those that it has given to accesses of the same
step. -/
def useBankN (s : State) (pa n : Nat) : State :=
  let next := fun (m : Map Nat) (b : Nat) => Map.set m b (match Map.find m b with
    | some c => max s.cycle (c + 1) + (n - 1)
    | none => s.cycle + (n - 1))
  if n = 0 then s
  else match s.target pa with
  | .bank t b => s.updTl t (fun m => { m with bankAt := next m.bankAt b })
  | .store e off => s.updEl e (fun x => { x with winAt := next x.winAt (off / 0x2000) })
  | _ => s
def useBankAt (s : State) (pa : Nat) : State := useBankN s pa 1

end Sys2Proof.Machine
end

