-- ==== Sys2Proof/Machine/SysRegs.lean ====
section
/-! DEFINITION. `TRAP` and `BRK`, and the selectors of nodes and memory tiles: 0xF0, 0xF1, 0xF4, 0xF5 (R383-R388). -/

namespace Sys2Proof.Machine

/-- `TRAP` (R386): the node enters FAULTED with ILLEGAL, whatever its operand. -/
def execTrap (f : Fields) (s : State) : Host.Outcome State Fault Refusal :=
  issue (.trap f) f s (fun o _ => .error { cause := causeIllegal, deta := o.a.val })

/-- `BRK` (R386): the node enters FAULTED with BRK and code n. -/
def execBrk (f : Fields) (s : State) : Host.Outcome State Fault Refusal :=
  issue (.brk f) f s (fun _ _ => .error { cause := causeBrk, aux := BitVec.setWidth 8 f.imm })

/-- A selector of a memory tile (R384). -/
def tileSelector (sel : Nat) : Bool := decide (sel = 48 ∨ sel = 49)

/-- What a node selector reads, with its condition (R384). -/
def readNodeSel (nd : Node) (sel : Nat) : Word × Bool :=
  if sel = 0 then (nd.ncfg, true)
  else if sel = 1 then (nd.nstat, true)
  else if sel = 2 then (nd.fpstat, true)
  else if sel = 3 then (0, true)
  else if sel ≤ 7 then (Map.get nd.ccfg 0 (sel - 4), true)
  else if sel ≤ 13 then (Map.get nd.latch 0 (sel - 8), true)
  else if sel ≤ 17 then (Map.get nd.trec 0 (sel - 14), true)
  else ((nd.gReg (sel - 32)).val, (nd.gReg (sel - 32)).psn)

/-- A write of a node selector; none where it takes condition 0 (R384). -/
def writeNodeSel (s : State) (n : NodeRef) (remote : Bool) (sel : Nat) (v : Word) : Option State :=
  let faulted := decide ((s.nd n).st = .faulted)
  if sel = 2 then
    if remote && !faulted then none else some (s.updNd n (fun nd => { nd with fpstat := writeFpstat nd.fpstat v }))
  else if sel = 3 then resumeNode s n v
  else if 32 ≤ sel ∧ sel ≤ 47 then
    if remote && !faulted then none else some (s.updNd n (fun nd => nd.setG (sel - 32) (PWord.clean v)))
  else none

/-- PORTCTL of a port (R384). -/
def portCtl (p : TPort) : Word :=
  match p.stream with
  | some st =>
    match st.held with
    | some c => BitVec.ofNat 32 (2 ^ 31 + c.toNat * 2 ^ 16 + st.ticket.toNat)
    | none => 0
  | none => 0

/-- The node that a remote target word names (R383). -/
def targetNode (die : BitVec 4) (a : Word) : NodeRef := ⟨die, bits a 8 11, bits a 4 4, bits a 0 4⟩

/-- A remote target is permitted (R318, R383): it lies in a compute tile, and the issuer is the supervisor that its
domain's entry names, or a node of the target element's privileged domain. -/
def remotePermitted (s : State) (from_ n : NodeRef) : Bool :=
  let x := s.domEntry n.elemRef (domOf (s.nd n))
  isCompute n.tile && decide (tileCol n.tile ≠ 0)
    && ((entSvv x && decide (entSv n.die x = from_))
      || (entPriv (s.domEntry n.elemRef (domOf (s.nd from_))) && decide (s.partOf n.elemRef = s.partOf from_.elemRef)
        && s.privileged from_))

/-- A memory-tile target is a memory tile of the issuing course's region (R383). -/
def tilePermitted (s : State) (n : NodeRef) (t : TileRef) : Bool :=
  match (s.el n.elemRef).region with
  | none => false
  | some r =>
    let g := s.rg r
    isMemTile t.tile && decide (g.die = t.die)
      && decide (g.row0 ≤ tileRow t.tile ∧ tileRow t.tile < g.row0 + g.hdr.h)
      && decide (g.col0 ≤ tileCol t.tile ∧ tileCol t.tile < g.col0 + g.hdr.w)

/-- A remote read of a selector, at its target (R383, R384). -/
def performReadSel (s : State) (from_ : NodeRef) (a : Word) (sel : Nat) : State × Answer :=
  if tileSelector sel then
    let t : TileRef := ⟨from_.die, bits a 8 11⟩
    if tilePermitted s from_ t then
      let w := if sel = 48 then (s.tl t).mtcfg else portCtl (Map.get (s.tl t).ports {} (bitsNat a 0 4))
      (s, { words := [PWord.clean w] })
    else (s, { words := [{}], cond := false })
  else
    let n := targetNode from_.die a
    if remotePermitted s from_ n then
      let r := readNodeSel (s.nd n) sel
      (s, { words := [PWord.clean r.1], cond := r.2 })
    else (s, { words := [{}], cond := false })

/-- What an action on a held port does: 0 replays the access, 1 abandons it (R387, R388); none for another word. -/
def portAction (p : TPort) (v : Word) : Option TPort :=
  if v.toNat ≤ 1 then
    some { p with stream := p.stream.map (fun st =>
      if st.held.isSome then { st with held := none, abandoned := st.abandoned || decide (v = 1) } else st) }
  else none

/-- A remote write of a selector, at its target (R383, R384). -/
def performWriteSel (s : State) (from_ : NodeRef) (a v : Word) (sel : Nat) : State × Answer :=
  if tileSelector sel then
    let t : TileRef := ⟨from_.die, bits a 8 11⟩
    let k := bitsNat a 0 4
    if tilePermitted s from_ t && decide (sel = 49) then
      match portAction (Map.get (s.tl t).ports {} k) v with
      | some p => (forgetAsk (s.updTl t (fun m => { m with ports := Map.set m.ports k p })) (.port t (BitVec.ofNat 4 k)), {})
      | none => (s, { cond := false })
    else (s, { cond := false })
  else
    let n := targetNode from_.die a
    if remotePermitted s from_ n then
      match writeNodeSel s n true sel v with
      | some s => (s, {})
      | none => (s, { cond := false })
    else (s, { cond := false })

/-- A request to a unit that needs no translation: its node parks until the answer (R41, R383). -/
def askUnit (t : State) (o : Opnds) (op : Op) : State × Done :=
  let r := t.request (.node o.n) (t.stampOf o.n) 0 op .home [] [] 0 (t.cycle + 2)
  (r.2, .later (.await r.1))

/-- `SYRD` (R383, R384). -/
def execSyrd (f : Fields) (s : State) : Host.Outcome State Fault Refusal :=
  issue (.syrd f) f s (fun o t =>
    match o.psn with
    | some w => .ok (t, .now (poisonResult w))
    | none =>
      let sel := f.imm.toNat
      if tileSelector sel || bitAt o.a.val 31 then .ok (askUnit t o (.readSel o.a.val f.imm))
      else
        let r := readNodeSel (t.nd o.n) sel
        .ok (t, .now { dst := some (PWord.clean r.1), cond := r.2 }))

/-- `SYWR` (R383, R384). -/
def systemWrite (i : Instr) (f : Fields) (s : State) : Host.Outcome State Fault Refusal :=
  issue i f s (fun o t =>
    match o.psn with
    | some _ => .ok (t, .now { cond := false })
    | none =>
      let sel := f.imm.toNat
      if tileSelector sel || bitAt o.a.val 31 then .ok (askUnit t o (.writeSel o.a.val o.b.val f.imm))
      else .ok (t, .atS4 []))

/-- S4 of a `SYWR` to the issuing node (R36, R384). -/
def systemWriteAtS4 (o : Opnds) (s : State) : State × Result :=
  match writeNodeSel s o.n false o.f.imm.toNat o.b.val with
  | some s => (s, { cond := true })
  | none => (s, { cond := false })

/-- `SYWR` to FPSTAT (R384). -/
def execSywrFpstat (f : Fields) (s : State) : Host.Outcome State Fault Refusal := systemWrite (.sywrFpstat f) f s

/-- `SYWR` to RESUME with RETRY (R385). -/
def execSywrResumeRetry (f : Fields) (s : State) : Host.Outcome State Fault Refusal := systemWrite (.sywrResumeRetry f) f s

/-- `SYWR` to RESUME with SKIP (R385). -/
def execSywrResumeSkip (f : Fields) (s : State) : Host.Outcome State Fault Refusal := systemWrite (.sywrResumeSkip f) f s

/-- `SYWR` to a general register, and to the selectors that take condition 0 (R384). -/
def execSywrGreg (f : Fields) (s : State) : Host.Outcome State Fault Refusal := systemWrite (.sywrGreg f) f s

/-- `SYWR` to PORTCTL that replays a held access (R387). -/
def execSywrPortctlReplay (f : Fields) (s : State) : Host.Outcome State Fault Refusal := systemWrite (.sywrPortctlReplay f) f s

/-- `SYWR` to PORTCTL that abandons a held access (R388). -/
def execSywrPortctlAbandon (f : Fields) (s : State) : Host.Outcome State Fault Refusal := systemWrite (.sywrPortctlAbandon f) f s

end Sys2Proof.Machine
end

