-- ==== Sys2Proof/Machine/LocalStore.lean ====
section
/-! DEFINITION. Local-store and constant-block instructions, 0x48-0x56 (R124-R130). -/

namespace Sys2Proof.Machine

/-- The origin record of a poisoned address (R110). -/
def Opnds.addrPsn (o : Opnds) : Option Word := firstPoison [o.a, o.b]

/-- EA of the plain loads and stores, and of the indexed ones (R126). -/
def Opnds.ea (o : Opnds) : Word := o.a.val + o.b.val
def Opnds.eax (o : Opnds) : Word := o.a.val + (o.b.val <<< 2)

/-- The bytes `len` wide at an address, as a number. -/
def lsPart (w : Word) (addr len : Nat) : Nat := bitsNat w (8 * (addr % 4)) (8 * len)

/-- A load of `len` bytes from `ea`; `conv` extends the number read (R124, R126). A POISON word delivers its stored bits
poisoned. -/
def lsLoad (i : Instr) (f : Fields) (s : State) (ea : Opnds → Word) (len : Nat) (conv : Nat → Word) :
    Host.Outcome State Fault Refusal :=
  issue i f s (fun o t =>
    match o.addrPsn with
    | some w => .ok (t, .now (poisonResult w))
    | none =>
      match t.lsCheck o.n (ea o) len false 0 with
      | some fi => .error fi
      | none =>
        let w := t.lsWord o.n.elemRef (ea o).toNat
        if w.psn then .ok (t, .now (poisonResult w.val))
        else .ok (t, .now (cleanResult 0 (byValue (conv (lsPart w.val (ea o).toNat len))))))

/-- A word with `len` bytes at an address replaced. -/
def lsMerge (w : Word) (addr len v : Nat) : Word := setBits w (8 * (addr % 4)) (8 * len) v

/-- A store of the low `len` bytes of d at `ea` (R110, R126). Poisoned data writes its origin record into the whole word
and marks it; only a word store of clean data clears the mark. -/
def lsStore (i : Instr) (f : Fields) (s : State) (ea : Opnds → Word) (len : Nat) : Host.Outcome State Fault Refusal :=
  issue i f s (fun o t =>
    match o.addrPsn with
    | some _ => .ok (t, .now { cond := false })
    | none =>
      match t.lsCheck o.n (ea o) len true 0 with
      | some fi => .error fi
      | none =>
        let addr := (ea o).toNat
        let old := t.lsWord o.n.elemRef addr
        if o.d.psn then .ok (t.setLsWord o.n.elemRef addr o.d, .now { cond := false })
        else
          let v := bitsNat o.d.val 0 (8 * len)
          let new : PWord := ⟨lsMerge old.val addr len v, old.psn && decide (len < 4)⟩
          .ok (t.setLsWord o.n.elemRef addr new, .now { cond := decide (v ≠ 0) }))

/-- Sign extension of a loaded halfword or byte. -/
def signExt (len v : Nat) : Word := BitVec.ofInt 32 (if v < 2 ^ (8 * len - 1) then (v : Int) else (v : Int) - 2 ^ (8 * len))

/-- `LD.W` (R126). -/
def execLdW (f : Fields) (s : State) : Host.Outcome State Fault Refusal := lsLoad (.ldW f) f s Opnds.ea 4 (BitVec.ofNat 32)

/-- `LD.H` (R126). -/
def execLdH (f : Fields) (s : State) : Host.Outcome State Fault Refusal := lsLoad (.ldH f) f s Opnds.ea 2 (BitVec.ofNat 32)

/-- `LD.HS` (R126). -/
def execLdHs (f : Fields) (s : State) : Host.Outcome State Fault Refusal := lsLoad (.ldHs f) f s Opnds.ea 2 (signExt 2)

/-- `LD.B` (R126). -/
def execLdB (f : Fields) (s : State) : Host.Outcome State Fault Refusal := lsLoad (.ldB f) f s Opnds.ea 1 (BitVec.ofNat 32)

/-- `LD.BS` (R126). -/
def execLdBs (f : Fields) (s : State) : Host.Outcome State Fault Refusal := lsLoad (.ldBs f) f s Opnds.ea 1 (signExt 1)

/-- `ST.W` (R126). -/
def execStW (f : Fields) (s : State) : Host.Outcome State Fault Refusal := lsStore (.stW f) f s Opnds.ea 4

/-- `ST.H` (R126). -/
def execStH (f : Fields) (s : State) : Host.Outcome State Fault Refusal := lsStore (.stH f) f s Opnds.ea 2

/-- `ST.B` (R126). -/
def execStB (f : Fields) (s : State) : Host.Outcome State Fault Refusal := lsStore (.stB f) f s Opnds.ea 1

/-- `LDX.W` (R126). -/
def execLdxW (f : Fields) (s : State) : Host.Outcome State Fault Refusal := lsLoad (.ldxW f) f s Opnds.eax 4 (BitVec.ofNat 32)

/-- `STX.W` (R126). -/
def execStxW (f : Fields) (s : State) : Host.Outcome State Fault Refusal := lsStore (.stxW f) f s Opnds.eax 4

/-- `LDC` (R128): a word of the constant block of the node's own domain. -/
def execLdc (f : Fields) (s : State) : Host.Outcome State Fault Refusal :=
  issue (.ldc f) f s (fun o t =>
    match o.addrPsn with
    | some w => .ok (t, .now (poisonResult w))
    | none =>
      if 64 ≤ o.ea.toNat then .error { cause := causeProt, deta := o.ea }
      else
        let w := Map.get (t.el o.n.elemRef).cblk 0 (64 * (domOf o.nd).toNat + o.ea.toNat)
        .ok (t, .now (cleanResult 0 (byValue w))))

/-- `LD.P` (R127): the word's stored bits as plain data; the condition is its poison mark. -/
def execLdP (f : Fields) (s : State) : Host.Outcome State Fault Refusal :=
  issue (.ldP f) f s (fun o t =>
    match o.addrPsn with
    | some w => .ok (t, .now (poisonResult w))
    | none =>
      match t.lsCheck o.n o.ea 4 false 0 with
      | some fi => .error fi
      | none =>
        let w := t.lsWord o.n.elemRef o.ea.toNat
        .ok (t, .now { dst := some (PWord.clean w.val), cond := w.psn }))

/-- `ST.P` (R127): stores the 32 bits of d and clears the word's poison mark; the condition is 1. -/
def execStP (f : Fields) (s : State) : Host.Outcome State Fault Refusal :=
  issue (.stP f) f s (fun o t =>
    match o.addrPsn with
    | some _ => .ok (t, .now { cond := false })
    | none =>
      match t.lsCheck o.n o.ea 4 true 0 with
      | some fi => .error fi
      | none => .ok (t.setLsWord o.n.elemRef o.ea.toNat (PWord.clean o.d.val), .now { cond := true }))

/-- `LCAS` (R129). Where the memory word and the new value are both poisoned, d is the memory word, as the pseudocode has it
(DEDUCED, log entry 64). -/
def execLcas (f : Fields) (s : State) : Host.Outcome State Fault Refusal :=
  issue (.lcas f) f s (fun o t =>
    match o.addrPsn with
    | some w => .ok (t, .now (poisonResult w))
    | none =>
      match t.lsCheck o.n o.a.val 4 true 0 with
      | some fi => .error fi
      | none =>
        let e := o.n.elemRef
        let old := t.lsWord e o.a.val.toNat
        if old.psn then .ok (t, .now (poisonResult old.val))
        else
          let swap := decide (old.val = o.b.val)
          let t := if swap then t.setLsWord e o.a.val.toNat o.d else t
          .ok (t, .now (if o.d.psn then poisonResult o.d.val else { dst := some old, cond := swap })))

/-- `LADD` (R130). -/
def execLadd (f : Fields) (s : State) : Host.Outcome State Fault Refusal :=
  issue (.ladd f) f s (fun o t =>
    if o.a.psn then .ok (t, .now (poisonResult o.a.val))
    else
      match t.lsCheck o.n o.a.val 4 true 0 with
      | some fi => .error fi
      | none =>
        let e := o.n.elemRef
        let old := t.lsWord e o.a.val.toNat
        if o.b.psn then .ok (t.setLsWord e o.a.val.toNat o.b, .now (poisonResult o.b.val))
        else if old.psn then .ok (t, .now (poisonResult old.val))
        else
          let new := old.val + o.b.val
          .ok (t.setLsWord e o.a.val.toNat (PWord.clean new), .now { dst := some old, cond := decide (new ≠ 0) }))

end Sys2Proof.Machine
end

