-- ==== Sys2Proof/Machine/Scalar.lean ====
section
/-! DEFINITION. Integer and logic instructions, 0x00-0x2F (R112-R116). -/

namespace Sys2Proof.Machine

/-- imm16 of `LI` and `LUI` (R86). -/
def imm16 (f : Fields) : BitVec 16 := f.sa ++ f.sb ++ f.imm

/-- The clamp of `ADDS` and `SUBS` (R112). -/
def satI32 (x : Int) : Word := BitVec.ofInt 32 (max (-2147483648) (min 2147483647 x))

/-- Division and remainder, with the results of a zero divisor (R113). -/
def divI (a b : Word) : Word := if b = 0 then 0xFFFFFFFF else BitVec.ofInt 32 (Int.tdiv a.toInt b.toInt)
def divN (a b : Word) : Word := if b = 0 then 0xFFFFFFFF else BitVec.ofNat 32 (a.toNat / b.toNat)
def modI (a b : Word) : Word := if b = 0 then a else BitVec.ofInt 32 (Int.tmod a.toInt b.toInt)
def modN (a b : Word) : Word := if b = 0 then a else BitVec.ofNat 32 (a.toNat % b.toNat)

/-- Shifts by 0-63 (R114). -/
def shlW (a : Word) (n : Nat) : Word := if n < 32 then a <<< n else 0
def shrW (a : Word) (n : Nat) : Word := if n < 32 then a >>> n else 0
def sarW (a : Word) (n : Nat) : Word := a.sshiftRight (min n 31)
def rolW (a : Word) (n : Nat) : Word := if n = 0 then a else (a <<< n) ||| (a >>> (32 - n))

/-- Leading zeros and ones (R115). -/
def clzW (a : Word) : Word := if a = 0 then 32 else BitVec.ofNat 32 (31 - Nat.log2 a.toNat)
def popcW (a : Word) : Word := BitVec.ofNat 32 ((List.range 32).countP (fun i => a.getLsbD i))
def brevW (a : Word) : Word := (List.range 32).foldl (fun acc i => if a.getLsbD i then acc ||| (1 <<< (31 - i)) else acc) 0

/-- Extension from bit n (R115). -/
def sextW (a : Word) (n : Nat) : Word := (a <<< (31 - n)).sshiftRight (31 - n)
def zextW (a : Word) (n : Nat) : Word := (a <<< (31 - n)) >>> (31 - n)

/-- The length in b[12:8], 0 meaning 32, and the mask of that length (R115). -/
def fieldLen (b : Word) : Nat := if bitsNat b 8 5 = 0 then 32 else bitsNat b 8 5
def maskW (n : Nat) : Word := BitVec.ofNat 32 (2 ^ n - 1)
def bfxW (a b : Word) : Word := (a >>> bitsNat b 0 5) &&& maskW (fieldLen b)
def bfiW (d a b : Word) : Word :=
  let pos := bitsNat b 0 5
  let m := maskW (fieldLen b)
  (d &&& ~~~(m <<< pos)) ||| ((a &&& m) <<< pos)

/-- `NOP` (R112): no effect, condition 1. -/
def execNop (f : Fields) (s : State) : Host.Outcome State Fault Refusal :=
  issue (.nop f) f s (fun _ t => .ok (t, .now {}))

/-- `MOV` (R112). -/
def execMov (f : Fields) (s : State) : Host.Outcome State Fault Refusal :=
  scalarOp (.mov f) f 0 s (fun o => byValue (o.a.val))

/-- `LI` (R112). -/
def execLi (f : Fields) (s : State) : Host.Outcome State Fault Refusal :=
  scalarOp (.li f) f 0 s (fun o => byValue (BitVec.signExtend 32 (imm16 o.f)))

/-- `LUI` (R112). -/
def execLui (f : Fields) (s : State) : Host.Outcome State Fault Refusal :=
  scalarOp (.lui f) f 0 s (fun o => byValue ((imm16 o.f ++ bits o.d.val 0 16 : BitVec 32)))

/-- `ADD` (R112). -/
def execAdd (f : Fields) (s : State) : Host.Outcome State Fault Refusal :=
  scalarOp (.add f) f 0 s (fun o => byValue (o.a.val + o.b.val))

/-- `SUB` (R112). -/
def execSub (f : Fields) (s : State) : Host.Outcome State Fault Refusal :=
  scalarOp (.sub f) f 0 s (fun o => byValue (o.a.val - o.b.val))

/-- `ADDS` (R112). -/
def execAdds (f : Fields) (s : State) : Host.Outcome State Fault Refusal :=
  scalarOp (.adds f) f 0 s (fun o => byValue (satI32 (o.a.val.toInt + o.b.val.toInt)))

/-- `SUBS` (R112). -/
def execSubs (f : Fields) (s : State) : Host.Outcome State Fault Refusal :=
  scalarOp (.subs f) f 0 s (fun o => byValue (satI32 (o.a.val.toInt - o.b.val.toInt)))

/-- `MUL` (R112). -/
def execMul (f : Fields) (s : State) : Host.Outcome State Fault Refusal :=
  scalarOp (.mul f) f 0 s (fun o => byValue (o.a.val * o.b.val))

/-- `MULH.i32` (R112). -/
def execMulhI32 (f : Fields) (s : State) : Host.Outcome State Fault Refusal :=
  scalarOp (.mulhI32 f) f 0 s (fun o => byValue (BitVec.ofInt 32 (o.a.val.toInt * o.b.val.toInt / 2 ^ 32)))

/-- `MULH.n32` (R112). -/
def execMulhN32 (f : Fields) (s : State) : Host.Outcome State Fault Refusal :=
  scalarOp (.mulhN32 f) f 0 s (fun o => byValue (BitVec.ofNat 32 (o.a.val.toNat * o.b.val.toNat / 2 ^ 32)))

/-- `MAC` (R112). -/
def execMac (f : Fields) (s : State) : Host.Outcome State Fault Refusal :=
  scalarOp (.mac f) f 0 s (fun o => byValue (o.d.val + o.a.val * o.b.val))

/-- `DIV.i32` (R113): parks the node with E = 17. -/
def execDivI32 (f : Fields) (s : State) : Host.Outcome State Fault Refusal :=
  longOp (.divI32 f) f 0 17 s (fun o => byValue (divI o.a.val o.b.val))

/-- `DIV.n32` (R113): parks the node with E = 17. -/
def execDivN32 (f : Fields) (s : State) : Host.Outcome State Fault Refusal :=
  longOp (.divN32 f) f 0 17 s (fun o => byValue (divN o.a.val o.b.val))

/-- `MOD.i32` (R113): parks the node with E = 17. -/
def execModI32 (f : Fields) (s : State) : Host.Outcome State Fault Refusal :=
  longOp (.modI32 f) f 0 17 s (fun o => byValue (modI o.a.val o.b.val))

/-- `MOD.n32` (R113): parks the node with E = 17. -/
def execModN32 (f : Fields) (s : State) : Host.Outcome State Fault Refusal :=
  longOp (.modN32 f) f 0 17 s (fun o => byValue (modN o.a.val o.b.val))

/-- `AND` (R114). -/
def execAnd (f : Fields) (s : State) : Host.Outcome State Fault Refusal :=
  scalarOp (.and f) f 0 s (fun o => byValue (o.a.val &&& o.b.val))

/-- `OR` (R114). -/
def execOr (f : Fields) (s : State) : Host.Outcome State Fault Refusal :=
  scalarOp (.or f) f 0 s (fun o => byValue (o.a.val ||| o.b.val))

/-- `XOR` (R114). -/
def execXor (f : Fields) (s : State) : Host.Outcome State Fault Refusal :=
  scalarOp (.xor f) f 0 s (fun o => byValue (o.a.val ^^^ o.b.val))

/-- `ANDN` (R114). -/
def execAndn (f : Fields) (s : State) : Host.Outcome State Fault Refusal :=
  scalarOp (.andn f) f 0 s (fun o => byValue (o.a.val &&& ~~~o.b.val))

/-- `SHL` (R114). -/
def execShl (f : Fields) (s : State) : Host.Outcome State Fault Refusal :=
  scalarOp (.shl f) f 0 s (fun o => byValue (shlW o.a.val (bitsNat o.b.val 0 6)))

/-- `SHR` (R114). -/
def execShr (f : Fields) (s : State) : Host.Outcome State Fault Refusal :=
  scalarOp (.shr f) f 0 s (fun o => byValue (shrW o.a.val (bitsNat o.b.val 0 6)))

/-- `SAR` (R114). -/
def execSar (f : Fields) (s : State) : Host.Outcome State Fault Refusal :=
  scalarOp (.sar f) f 0 s (fun o => byValue (sarW o.a.val (bitsNat o.b.val 0 6)))

/-- `ROL` (R114). -/
def execRol (f : Fields) (s : State) : Host.Outcome State Fault Refusal :=
  scalarOp (.rol f) f 0 s (fun o => byValue (rolW o.a.val (bitsNat o.b.val 0 5)))

/-- `CLZ` (R115). -/
def execClz (f : Fields) (s : State) : Host.Outcome State Fault Refusal :=
  scalarOp (.clz f) f 0 s (fun o => byValue (clzW o.a.val))

/-- `POPC` (R115). -/
def execPopc (f : Fields) (s : State) : Host.Outcome State Fault Refusal :=
  scalarOp (.popc f) f 0 s (fun o => byValue (popcW o.a.val))

/-- `BREV` (R115). -/
def execBrev (f : Fields) (s : State) : Host.Outcome State Fault Refusal :=
  scalarOp (.brev f) f 0 s (fun o => byValue (brevW o.a.val))

/-- `SEXT` (R115). -/
def execSext (f : Fields) (s : State) : Host.Outcome State Fault Refusal :=
  scalarOp (.sext f) f 0 s (fun o => byValue (sextW o.a.val (bitsNat o.b.val 0 5)))

/-- `ZEXT` (R115). -/
def execZext (f : Fields) (s : State) : Host.Outcome State Fault Refusal :=
  scalarOp (.zext f) f 0 s (fun o => byValue (zextW o.a.val (bitsNat o.b.val 0 5)))

/-- `BFX` (R115). -/
def execBfx (f : Fields) (s : State) : Host.Outcome State Fault Refusal :=
  scalarOp (.bfx f) f 0 s (fun o => byValue (bfxW o.a.val o.b.val))

/-- `BFI` (R115). -/
def execBfi (f : Fields) (s : State) : Host.Outcome State Fault Refusal :=
  scalarOp (.bfi f) f 0 s (fun o => byValue (bfiW o.d.val o.a.val o.b.val))

/-- `SEL` (R115). -/
def execSel (f : Fields) (s : State) : Host.Outcome State Fault Refusal :=
  scalarOp (.sel f) f 0 s (fun o => byValue (if bitAt o.nd.p (bitsNat o.f.imm 0 3) then o.a.val else o.b.val))

/-- `CMP.EQ` (R116). -/
def execCmpEq (f : Fields) (s : State) : Host.Outcome State Fault Refusal :=
  scalarOp (.cmpEq f) f 0 s (fun o => byValue (boolWord (decide (o.a.val = o.b.val))))

/-- `CMP.NE` (R116). -/
def execCmpNe (f : Fields) (s : State) : Host.Outcome State Fault Refusal :=
  scalarOp (.cmpNe f) f 0 s (fun o => byValue (boolWord (decide (o.a.val ≠ o.b.val))))

/-- `CMP.LT.i32` (R116). -/
def execCmpLtI32 (f : Fields) (s : State) : Host.Outcome State Fault Refusal :=
  scalarOp (.cmpLtI32 f) f 0 s (fun o => byValue (boolWord (decide (o.a.val.toInt < o.b.val.toInt))))

/-- `CMP.LE.i32` (R116). -/
def execCmpLeI32 (f : Fields) (s : State) : Host.Outcome State Fault Refusal :=
  scalarOp (.cmpLeI32 f) f 0 s (fun o => byValue (boolWord (decide (o.a.val.toInt ≤ o.b.val.toInt))))

/-- `CMP.LT.n32` (R116). -/
def execCmpLtN32 (f : Fields) (s : State) : Host.Outcome State Fault Refusal :=
  scalarOp (.cmpLtN32 f) f 0 s (fun o => byValue (boolWord (decide (o.a.val.toNat < o.b.val.toNat))))

/-- `CMP.LE.n32` (R116). -/
def execCmpLeN32 (f : Fields) (s : State) : Host.Outcome State Fault Refusal :=
  scalarOp (.cmpLeN32 f) f 0 s (fun o => byValue (boolWord (decide (o.a.val.toNat ≤ o.b.val.toNat))))

/-- `MIN.i32` (R116). -/
def execMinI32 (f : Fields) (s : State) : Host.Outcome State Fault Refusal :=
  scalarOp (.minI32 f) f 0 s (fun o => byValue (if o.a.val.toInt ≤ o.b.val.toInt then o.a.val else o.b.val))

/-- `MAX.i32` (R116). -/
def execMaxI32 (f : Fields) (s : State) : Host.Outcome State Fault Refusal :=
  scalarOp (.maxI32 f) f 0 s (fun o => byValue (if o.a.val.toInt ≤ o.b.val.toInt then o.b.val else o.a.val))

/-- `MIN.n32` (R116). -/
def execMinN32 (f : Fields) (s : State) : Host.Outcome State Fault Refusal :=
  scalarOp (.minN32 f) f 0 s (fun o => byValue (if o.a.val.toNat ≤ o.b.val.toNat then o.a.val else o.b.val))

/-- `MAX.n32` (R116). -/
def execMaxN32 (f : Fields) (s : State) : Host.Outcome State Fault Refusal :=
  scalarOp (.maxN32 f) f 0 s (fun o => byValue (if o.a.val.toNat ≤ o.b.val.toNat then o.b.val else o.a.val))

/-- `ABS` (R116). -/
def execAbs (f : Fields) (s : State) : Host.Outcome State Fault Refusal :=
  scalarOp (.abs f) f 0 s (fun o => byValue (if o.a.val.toInt < 0 then 0 - o.a.val else o.a.val))

/-- `NEG` (R116). -/
def execNeg (f : Fields) (s : State) : Host.Outcome State Fault Refusal :=
  scalarOp (.neg f) f 0 s (fun o => byValue (0 - o.a.val))

/-- `PSET` (R116): takes a[b[4:0]] as the condition and writes nothing. -/
def execPset (f : Fields) (s : State) : Host.Outcome State Fault Refusal :=
  issue (.pset f) f s (fun o t => .ok (t, .now { cond := o.psn.isNone && bitAt o.a.val (bitsNat o.b.val 0 5) }))

/-- `PGET` (R116). -/
def execPget (f : Fields) (s : State) : Host.Outcome State Fault Refusal :=
  scalarOp (.pget f) f 0 s (fun o => byValue (BitVec.setWidth 32 o.nd.p))

/-- `TST` (R116). -/
def execTst (f : Fields) (s : State) : Host.Outcome State Fault Refusal :=
  scalarOp (.tst f) f 0 s (fun o => (o.a.val &&& o.b.val, decide (o.a.val &&& o.b.val = o.b.val), 0))

/-- `LEA` (R116). -/
def execLea (f : Fields) (s : State) : Host.Outcome State Fault Refusal :=
  scalarOp (.lea f) f 0 s (fun o => byValue (o.a.val + (o.b.val <<< bitsNat o.f.imm 0 3)))

end Sys2Proof.Machine
end

