-- ==== Sys2Proof/Machine/Vector.lean ====
section
/-! DEFINITION. Vector instructions, 0x60-0x7F (R187-R206). -/

namespace Sys2Proof.Machine

/-- The condition of an instruction that stores words or moves them to a bank: 0 where a word that it reads is poisoned
(R25). -/
def wordsClean (ws : List PWord) : Bool := !ws.any PWord.psn

/-- Lane `i` of register `v` (R187). -/
def Elem.lane (e : Elem) (v i : Nat) : PWord := Map.get e.vreg {} (16 * v + i)

/-- A register's 16 lanes. -/
def Elem.vec (e : Elem) (v : Nat) : List PWord := (List.range 16).map (e.lane v)

/-- The result of a vector transition (R191, R192): the lanes written to register `v`, the condition any bit set, and 0
with no flag where any poisoned value was read. -/
def vecResult (v : Nat) (ls : List PWord) (poisoned : Bool) (fl : BitVec 6) : Result :=
  { lanes := ls.zipIdx.map (fun x => (16 * v + x.2, x.1)),
    cond := !poisoned && ls.any (fun x => decide (x.val ≠ 0)),
    flags := if poisoned then 0 else fl }

/-- One lane of an operation: poisoned by the first poisoned input in the order given, else computed (R191). -/
def laneOf (ins : List PWord) (r : Word × BitVec 6) : PWord × BitVec 6 :=
  match firstPoison ins with
  | some w => (⟨w, true⟩, 0)
  | none => (PWord.clean r.1, r.2)

/-- A lane-wise operation on the registers that SA, SB and DST name, as far as they are read. -/
def vecOp (i : Instr) (f : Fields) (s : State) (useB useD : Bool) (fn : Opnds → Word → Word → Word → Word × BitVec 6) :
    Host.Outcome State Fault Refusal :=
  issue i f s (fun o t =>
    let e := t.el o.n.elemRef
    let rs := (List.range 16).map (fun l =>
      let a := e.lane f.sa.toNat l
      let b := if useB then e.lane f.sb.toNat l else {}
      let d := if useD then e.lane f.dst.toNat l else {}
      laneOf [a, b, d] (fn o a.val b.val d.val))
    let ls := rs.map Prod.fst
    .ok (t, .now (vecResult f.dst.toNat ls (ls.any PWord.psn) (rs.foldl (fun x r => x ||| r.2) 0))))

/-- RM in IMM6[4:3] (R194). -/
def Opnds.vrm (o : Opnds) : Rounding := Rounding.ofCode (bits o.f.imm 3 2)

/-- An operation on each floating-point element of a lane (R187, R190). -/
def fpLane (tag : Nat) (fn : FpFmt → Nat → Nat → Nat → Nat × BitVec 6) (a b d : Word) : Word × BitVec 6 :=
  if tag = 1 then
    let r := fn fmtFp32 a.toNat b.toNat d.toNat
    (BitVec.ofNat 32 r.1, r.2)
  else
    let x := fn (fmtOfTag tag) (bitsNat a 0 16) (bitsNat b 0 16) (bitsNat d 0 16)
    let y := fn (fmtOfTag tag) (bitsNat a 16 16) (bitsNat b 16 16) (bitsNat d 16 16)
    (packHalves x.1 y.1, x.2 ||| y.2)

/-- An arithmetic operation on INT lanes or on the elements of FP lanes (R195). -/
def arithLane (tag : Nat) (int : Word → Word → Word → Word) (fp : FpFmt → Nat → Nat → Nat → Nat × BitVec 6)
    (a b d : Word) : Word × BitVec 6 := if tag = 0 then (int a b d, 0) else fpLane tag fp a b d

/-- The lane format tag (R194). -/
def Opnds.vtag (o : Opnds) : Nat := bitsNat o.f.imm 0 3

/-- `VADD` (R195). -/
def execVadd (f : Fields) (s : State) : Host.Outcome State Fault Refusal :=
  vecOp (.vadd f) f s true false (fun o => arithLane o.vtag (fun a b _ => a + b) (fun F a b _ => F.addOp o.vrm o.fz a b))

/-- `VSUB` (R195). -/
def execVsub (f : Fields) (s : State) : Host.Outcome State Fault Refusal :=
  vecOp (.vsub f) f s true false (fun o => arithLane o.vtag (fun a b _ => a - b) (fun F a b _ => F.subOp o.vrm o.fz a b))

/-- `VMUL` (R195). -/
def execVmul (f : Fields) (s : State) : Host.Outcome State Fault Refusal :=
  vecOp (.vmul f) f s true false (fun o => arithLane o.vtag (fun a b _ => a * b) (fun F a b _ => F.mulOp o.vrm o.fz a b))

/-- `VFMA` (R195). -/
def execVfma (f : Fields) (s : State) : Host.Outcome State Fault Refusal :=
  vecOp (.vfma f) f s true true (fun o => arithLane o.vtag (fun a b d => d + a * b) (fun F a b d => F.fmaOp o.vrm o.fz a b d))

/-- Whether a is the lesser of two INT lanes; U is IMM6[3] (R194, R195). -/
def intLe (unsigned : Bool) (a b : Word) : Bool := if unsigned then decide (a.toNat ≤ b.toNat) else decide (a.toInt ≤ b.toInt)

/-- `VMIN` (R195). -/
def execVmin (f : Fields) (s : State) : Host.Outcome State Fault Refusal :=
  vecOp (.vmin f) f s true false (fun o => arithLane o.vtag (fun a b _ => if intLe (bitAt o.f.imm 3) a b then a else b)
    (fun F a b _ => (F.exactOp o.fz (FVal.min (F.decode o.fz a) (F.decode o.fz b)), 0)))

/-- `VMAX` (R195). -/
def execVmax (f : Fields) (s : State) : Host.Outcome State Fault Refusal :=
  vecOp (.vmax f) f s true false (fun o => arithLane o.vtag (fun a b _ => if intLe (bitAt o.f.imm 3) a b then b else a)
    (fun F a b _ => (F.exactOp o.fz (FVal.max (F.decode o.fz a) (F.decode o.fz b)), 0)))

/-- A comparison of FP elements by its code (R196). -/
def fpCompare (code : Nat) (x y : FVal) : Bool :=
  if code = 0 then FVal.eqv x y
  else if code = 1 then !FVal.eqv x y
  else if code = 2 then FVal.lt x y
  else if code = 3 then FVal.lt x y || FVal.eqv x y
  else x.isNan || y.isNan

/-- A comparison of INT lanes by its code (R196). -/
def intCompare (code : Nat) (a b : Word) : Bool :=
  if code = 0 then decide (a = b)
  else if code = 1 then decide (a ≠ b)
  else if code = 2 then decide (a.toInt < b.toInt)
  else if code = 3 then decide (a.toInt ≤ b.toInt)
  else if code = 5 then decide (a.toNat < b.toNat)
  else decide (a.toNat ≤ b.toNat)

/-- `VCMP` (R196): all ones of the element's width where the comparison holds. -/
def execVcmp (f : Fields) (s : State) : Host.Outcome State Fault Refusal :=
  vecOp (.vcmp f) f s true false (fun o =>
    let code := bitsNat o.f.imm 3 3
    arithLane o.vtag (fun a b _ => if intCompare code a b then 0xFFFFFFFF else 0)
      (fun F a b _ => (if fpCompare code (F.decode o.fz a) (F.decode o.fz b) then 2 ^ F.width - 1 else 0, 0)))

/-- `VSEL` (R196). -/
def execVsel (f : Fields) (s : State) : Host.Outcome State Fault Refusal :=
  vecOp (.vsel f) f s true true (fun _ a b d => ((d &&& a) ||| (~~~d &&& b), 0))

/-- `VAND` (R197). -/
def execVand (f : Fields) (s : State) : Host.Outcome State Fault Refusal :=
  vecOp (.vand f) f s true false (fun _ a b _ => (a &&& b, 0))

/-- `VOR` (R197). -/
def execVor (f : Fields) (s : State) : Host.Outcome State Fault Refusal :=
  vecOp (.vor f) f s true false (fun _ a b _ => (a ||| b, 0))

/-- `VXOR` (R197). -/
def execVxor (f : Fields) (s : State) : Host.Outcome State Fault Refusal :=
  vecOp (.vxor f) f s true false (fun _ a b _ => (a ^^^ b, 0))

/-- `VSHL` (R197). -/
def execVshl (f : Fields) (s : State) : Host.Outcome State Fault Refusal :=
  vecOp (.vshl f) f s true false (fun _ a b _ => (shlW a (bitsNat b 0 6), 0))

/-- `VSHR` (R197): arithmetic when A = 1. -/
def execVshr (f : Fields) (s : State) : Host.Outcome State Fault Refusal :=
  vecOp (.vshr f) f s true false (fun o a b _ =>
    (if bitAt o.f.imm 3 then sarW a (bitsNat b 0 6) else shrW a (bitsNat b 0 6), 0))

/-- One lane of `VCVT`, to nearest even (R198). -/
def cvtLane (fz : Bool) (dst src : Nat) (a b : Word) : Word × BitVec 6 :=
  if src = 0 then
    let r := fmtFp32.ofInt .nearest a.toInt
    (BitVec.ofNat 32 r.1, r.2)
  else if dst = 0 then fpToInt .nearest false (fmtFp32.decode fz a.toNat)
  else convertTags dst src fz a b

/-- `VCVT` (R198). -/
def execVcvt (f : Fields) (s : State) : Host.Outcome State Fault Refusal :=
  vecOp (.vcvt f) f s (decide ((Instr.vcvt f).shape.sb = .vector)) false
    (fun o a b _ => cvtLane o.fz (bitsNat o.f.imm 3 3) (bitsNat o.f.imm 0 3) a b)

/-- `VSCALE` (R195): b is an INT lane that counts for both elements. -/
def execVscale (f : Fields) (s : State) : Host.Outcome State Fault Refusal :=
  vecOp (.vscale f) f s true false (fun o a b _ => fpLane o.vtag (fun F x _ _ => F.scaleOp o.vrm o.fz x b.toInt) a b 0)

/-- Byte j of a word, sign-extended or zero-extended. -/
def byteOf (unsigned : Bool) (w : Word) (j : Nat) : Int :=
  let x := bitsNat w (8 * j) 8
  if unsigned ∨ x < 128 then x else (x : Int) - 256

/-- The sum of the four byte products of a lane (R199, R209). -/
def byteDot (unsigned : Bool) (a b : Word) : Int :=
  (List.range 4).foldl (fun acc j => acc + byteOf unsigned a j * byteOf unsigned b j) 0

/-- The groups of a narrow lane (R74, R199). -/
def narrowGroups (tag : Nat) : List (List Nat) := if tag = 6 then [[0, 1, 2, 3], [4]] else [[0, 1], [2, 3]]

/-- The exact sum of the products of one group, with NV (R74). -/
def groupSum (tag : Nat) (a b : Word) (g : List Nat) : FVal × BitVec 6 :=
  let ps := g.map (fun e => FVal.mul (decodeBlock tag (narrowElem tag a e) 127) (decodeBlock tag (narrowElem tag b e) 127))
  match ps with
  | [] => (.fin false 0 0, 0)
  | p :: ps => ps.foldl (fun acc q => let r := FVal.add .nearest acc.1 q.1; (r.1, acc.2 ||| q.2 ||| r.2)) p

/-- A group sum multiplied by two block scales; a scale of 0xFF makes it NaN (R74, R199). -/
def scaledGroup (p : FVal) (sa sb : Nat) : FVal := if sa = 255 ∨ sb = 255 then .nan else p.scale ((sa : Int) + sb - 254)

/-- An accumulator with an exact term added and rounded to FP32 (R74). Under FZ a subnormal accumulator, also one that a tile found
in its bank, is read as zero (R60, R212; DEDUCED, log entry 60). -/
def accumulate (md : Rounding) (fz : Bool) (acc : Nat) (p : FVal) : Nat × BitVec 6 :=
  let r := FVal.add md (fmtFp32.decode fz acc) p
  let d := fmtFp32.deliver md fz r.1
  (d.1, r.2 ||| d.2)

/-- One lane of `VDOT`; `sc` is the lane of the scale register (R199). -/
def dotLane (o : Opnds) (a b d sc : Word) : Word × BitVec 6 :=
  let tag := o.vtag
  if tag = 0 then (BitVec.ofInt 32 (d.toNat + byteDot (bitAt o.f.imm 3) a b), 0)
  else if tag ≤ 3 then
    let F := fmtOfTag tag
    let step := fun (acc : Nat × BitVec 6) (lo : Nat) =>
      let p := FVal.mul (F.decode o.fz (bitsNat a lo 16)) (F.decode o.fz (bitsNat b lo 16))
      let r := accumulate o.vrm o.fz acc.1 p.1
      (r.1, acc.2 ||| p.2 ||| r.2)
    let r := step (step (d.toNat, 0) 0) 16
    (BitVec.ofNat 32 r.1, r.2)
  else
    let r := (narrowGroups tag).foldl (fun (acc : Nat × BitVec 6) g =>
      let p := groupSum tag a b g
      let x := accumulate .nearest o.fz acc.1 (scaledGroup p.1 (bitsNat sc 0 8) (bitsNat sc 8 8))
      (x.1, acc.2 ||| p.2 ||| x.2)) (d.toNat, 0)
    (BitVec.ofNat 32 r.1, r.2)

/-- `VDOT` (R199). -/
def execVdot (f : Fields) (s : State) : Host.Outcome State Fault Refusal :=
  issue (.vdot f) f s (fun o t =>
    let e := t.el o.n.elemRef
    let rs := (List.range 16).map (fun l =>
      let a := e.lane f.sa.toNat l
      let b := e.lane f.sb.toNat l
      let c := if 4 ≤ o.vtag then e.lane (f.sb.toNat + 1) l else {}
      let d := e.lane f.dst.toNat l
      laneOf [a, b, c, d] (dotLane o a.val b.val d.val c.val))
    let ls := rs.map Prod.fst
    .ok (t, .now (vecResult f.dst.toNat ls (ls.any PWord.psn) (rs.foldl (fun x r => x ||| r.2) 0))))

/-! ## Local-store transfers (R200, R201) -/

/-- The checks of R28 on the 16 words together: PROT for every lane, then ALIGN, then DOMAIN; the record names the
lowest lane that fails the first failing check (R200). A lane without an address makes no access. -/
def vecCheck (t : State) (n : NodeRef) (eas : List (Option Word)) (write : Bool) : Option FaultInfo :=
  let fs := eas.zipIdx.filterMap (fun x => x.1.bind (fun a => t.lsCheck n a 4 write x.2))
  (fs.find? (fun x => decide (x.cause = causeProt))).orElse (fun _ =>
    (fs.find? (fun x => decide (x.cause = causeAlign))).orElse (fun _ => fs.head?))

/-- A vector load: lane i is the word at its address, or poisoned where it has none (R200). -/
def vecLoad (i : Instr) (f : Fields) (s : State) (ea : Opnds → Elem → Nat → Except Word Word) :
    Host.Outcome State Fault Refusal :=
  issue i f s (fun o t =>
    let e := t.el o.n.elemRef
    match o.addrPsn with
    | some w => .ok (t, .now (vecResult f.dst.toNat ((List.range 16).map (fun _ => ⟨w, true⟩)) true 0))
    | none =>
      let eas := (List.range 16).map (ea o e)
      match vecCheck t o.n (eas.map Except.toOption) false with
      | some fi => .error fi
      | none =>
        let ls := eas.map (fun x => match x with
          | .ok a => t.lsWord o.n.elemRef a.toNat
          | .error w => (⟨w, true⟩ : PWord))
        .ok (t, .now (vecResult f.dst.toNat ls (ls.any PWord.psn) 0)))

/-- A vector store: the lanes apply in ascending order (R200, R201). -/
def vecStore (i : Instr) (f : Fields) (s : State) (ea : Opnds → Elem → Nat → Except Word Word) :
    Host.Outcome State Fault Refusal :=
  issue i f s (fun o t =>
    let e := t.el o.n.elemRef
    match o.addrPsn with
    | some _ => .ok (t, .now { cond := false })
    | none =>
      let eas := (List.range 16).map (ea o e)
      match vecCheck t o.n (eas.map Except.toOption) true with
      | some fi => .error fi
      | none =>
        let t := eas.zipIdx.foldl (fun t x => match x.1 with
          | .ok a => t.setLsWord o.n.elemRef a.toNat (e.lane f.dst.toNat x.2)
          | .error _ => t) t
        let poisoned := eas.zipIdx.any (fun x => match x.1 with
          | .ok _ => (e.lane f.dst.toNat x.2).psn
          | .error _ => true)
        .ok (t, .now { cond := !poisoned }))

/-- EA of lane i: consecutive words, or words indexed by the lanes of SB (R200). -/
def seqEa (o : Opnds) (_ : Elem) (i : Nat) : Except Word Word := .ok (o.a.val + o.b.val + BitVec.ofNat 32 (4 * i))
def idxEa (o : Opnds) (e : Elem) (i : Nat) : Except Word Word :=
  let b := e.lane o.f.sb.toNat i
  if b.psn then .error b.val else .ok (o.a.val + (b.val <<< 2))

/-- `VLD` (R200). -/
def execVld (f : Fields) (s : State) : Host.Outcome State Fault Refusal := vecLoad (.vld f) f s seqEa

/-- `VST` (R200). -/
def execVst (f : Fields) (s : State) : Host.Outcome State Fault Refusal := vecStore (.vst f) f s seqEa

/-- `VLDX` (R200). -/
def execVldx (f : Fields) (s : State) : Host.Outcome State Fault Refusal := vecLoad (.vldx f) f s idxEa

/-- `VSTX` (R200). -/
def execVstx (f : Fields) (s : State) : Host.Outcome State Fault Refusal := vecStore (.vstx f) f s idxEa

/-! ## Lanes, reductions and packing (R202-R206) -/

/-- `VBCAST` (R202). -/
def execVbcast (f : Fields) (s : State) : Host.Outcome State Fault Refusal :=
  issue (.vbcast f) f s (fun o t => .ok (t, .now (vecResult f.dst.toNat (List.replicate 16 o.a) o.a.psn 0)))

/-- `VEXT` (R202). -/
def execVext (f : Fields) (s : State) : Host.Outcome State Fault Refusal :=
  issue (.vext f) f s (fun o t =>
    let v := (t.el o.n.elemRef).lane f.sa.toNat (bitsNat f.imm 0 4)
    .ok (t, .now { dst := some v, cond := !v.psn && decide (v.val ≠ 0) }))

/-- `VINS` (R202): the condition considers only lane L's inputs under R191. Its S4 writes all 16 lanes (R36), the other fifteen
as S2 read them (DEDUCED, log entry 110). -/
def execVins (f : Fields) (s : State) : Host.Outcome State Fault Refusal :=
  issue (.vins f) f s (fun o t =>
    let ls := ((t.el o.n.elemRef).vec f.dst.toNat).set (bitsNat f.imm 0 4) o.a
    .ok (t, .now (vecResult f.dst.toNat ls o.a.psn 0)))

/-- One lane of `VPERM` (R202). -/
def permLane (e : Elem) (va : Nat) (b : PWord) : PWord := if b.psn then b else e.lane va (bitsNat b.val 0 4)

/-- `VPERM` (R202). -/
def execVperm (f : Fields) (s : State) : Host.Outcome State Fault Refusal :=
  issue (.vperm f) f s (fun o t =>
    let e := t.el o.n.elemRef
    let ls := (e.vec f.sb.toNat).map (permLane e f.sa.toNat)
    .ok (t, .now (vecResult f.dst.toNat ls (ls.any PWord.psn) 0)))

/-- One level of the pairwise tree: neighbours combined, flags gathered (R74). -/
def pairUp {α : Type} (fn : α → α → α × BitVec 6) : List α → List α × BitVec 6
  | x :: y :: rest =>
    let r := fn x y
    let t := pairUp fn rest
    (r.1 :: t.1, r.2 ||| t.2)
  | xs => (xs, 0)

/-- The fixed pairwise tree over 16 terms (R74). -/
def tree16 {α : Type} (fn : α → α → α × BitVec 6) (xs : List α) : List α × BitVec 6 :=
  (List.range 4).foldl (fun acc _ => let r := pairUp fn acc.1; (r.1, acc.2 ||| r.2)) (xs, 0)

/-- The lanes of SA with the excluded ones replaced (R75, R203). -/
def maskedLanes (e : Elem) (f : Fields) (mask ident : Word) : List PWord :=
  (List.range 16).map (fun i => if mask.getLsbD i then PWord.clean ident else e.lane f.sa.toNat i)

/-- A reduction to one scalar (R203): a poisoned mask poisons the result and selects no lane. -/
def reduceOp (i : Instr) (f : Fields) (s : State) (ident : Word) (fn : Opnds → Word → Word → Word × BitVec 6) :
    Host.Outcome State Fault Refusal :=
  issue i f s (fun o t =>
    match o.psn with
    | some w => .ok (t, .now { poisonResult w with fmt := bits f.imm 0 3 })
    | none =>
      let ls := maskedLanes (t.el o.n.elemRef) f o.b.val ident
      match firstPoison ls with
      | some w => .ok (t, .now { poisonResult w with fmt := bits f.imm 0 3 })
      | none =>
        let r := tree16 (fn o) (ls.map PWord.val)
        .ok (t, .now (cleanResult (bits f.imm 0 3) (byFlags (r.1.headD 0, r.2)))))

/-- An FP32 code computed by a tree step. -/
def codeStep (r : Nat × BitVec 6) : Word × BitVec 6 := (BitVec.ofNat 32 r.1, r.2)

/-- `VRED.ADD` (R203). An excluded lane's -0.0 added to an included sum of +0 in round-down gives -0, as R54 says of the sum of
zeros of both signs; R75 calls such a sum unchanged (DEDUCED, log entry 61). -/
def execVredAdd (f : Fields) (s : State) : Host.Outcome State Fault Refusal :=
  reduceOp (.vredAdd f) f s (if bits f.imm 0 3 = 0 then 0 else 0x80000000)
    (fun o x y => if o.vtag = 0 then (x + y, 0) else codeStep (fmtFp32.addOp o.vrm o.fz x.toNat y.toNat))

/-- The greater or lesser of two terms, exact; FP terms are delivered under FZ (R74, R75, R203). -/
def extremeStep (o : Opnds) (greater : Bool) (x y : Word) : Word × BitVec 6 :=
  if o.vtag = 0 then
    (if intLe (bitAt o.f.imm 5) x y = greater then y else x, 0)
  else
    let a := fmtFp32.decode o.fz x.toNat
    let b := fmtFp32.decode o.fz y.toNat
    (BitVec.ofNat 32 (fmtFp32.exactOp o.fz (if greater then FVal.max a b else FVal.min a b)), 0)

/-- `VRED.MAX` (R203). -/
def execVredMax (f : Fields) (s : State) : Host.Outcome State Fault Refusal :=
  reduceOp (.vredMax f) f s
    (if bits f.imm 0 3 = 1 then 0xFF800000 else if bitAt f.imm 5 then 0 else 0x80000000)
    (fun o => extremeStep o true)

/-- `VRED.MIN` (R203). -/
def execVredMin (f : Fields) (s : State) : Host.Outcome State Fault Refusal :=
  reduceOp (.vredMin f) f s
    (if bits f.imm 0 3 = 1 then 0x7F800000 else if bitAt f.imm 5 then 0xFFFFFFFF else 0x7FFFFFFF)
    (fun o => extremeStep o false)

/-- The running sums of `VSCAN` from the value of the lane before on; poison reaches every later lane (R204). -/
def scanFrom (o : Opnds) (acc : PWord) : List PWord → List PWord × BitVec 6
  | [] => ([], 0)
  | x :: xs =>
    let r : PWord × BitVec 6 := laneOf [acc, x]
      (if o.vtag = 0 then (acc.val + x.val, 0) else codeStep (fmtFp32.addOp o.vrm o.fz acc.val.toNat x.val.toNat))
    let t := scanFrom o r.1 xs
    (r.1 :: t.1, r.2 ||| t.2)

/-- The lanes that `VSCAN` writes under a poisoned mask: each carries the record of the first poisoned lane of SA up to it, or
else the mask's (R191). -/
def scanPoisoned (w : Word) : List PWord → List PWord
  | [] => []
  | x :: xs => if x.psn then List.replicate (xs.length + 1) x else ⟨w, true⟩ :: scanPoisoned w xs

/-- `VSCAN` (R204). -/
def execVscan (f : Fields) (s : State) : Host.Outcome State Fault Refusal :=
  issue (.vscan f) f s (fun o t =>
    match o.psn with
    | some w => .ok (t, .now (vecResult f.dst.toNat (scanPoisoned w ((t.el o.n.elemRef).vec f.sa.toNat)) true 0))
    | none =>
      match maskedLanes (t.el o.n.elemRef) f o.b.val (if o.vtag = 0 then 0 else 0x80000000) with
      | [] => .ok (t, .now {})
      | x :: xs =>
        let r0 : PWord := if x.psn ∨ o.vtag = 0 then x else
          PWord.clean (BitVec.ofNat 32 (fmtFp32.exactOp o.fz (fmtFp32.decode o.fz x.val.toNat)))
        let r := scanFrom o r0 xs
        let ls := r0 :: r.1
        .ok (t, .now (vecResult f.dst.toNat ls (ls.any PWord.psn) r.2)))

/-- Elements in one lane of a narrow block (R205). -/
def perLane (tag : Nat) : Nat := if tag = 6 then 5 else 4

/-- Half `h` writes every bit of lane `l`, so that the lane is not computed from DST (R191, R205; DEDUCED). -/
def packsWhole (tag h l : Nat) (ks : List Nat) : Bool := decide (ks.length = perLane tag) || (decide (tag = 6 ∧ h = 1 ∧ l = 6))

/-- Lane `l` of the register that `VPACK` writes: the elements of half `h` that lie in it encoded, the whole lane poisoned
by the first poisoned input (R191, R205). -/
def packLane (o : Opnds) (tag h : Nat) (src : List PWord) (d : PWord) (l : Nat) : PWord × BitVec 6 :=
  let ks := (List.range 16).filter (fun k => decide ((16 * h + k) / perLane tag = l))
  if ks = [] then (d, 0)
  else
    match firstPoison (ks.map (fun k => src.getD k {}) ++ [o.b] ++ (if packsWhole tag h l ks then [] else [d])) with
    | some w => (⟨w, true⟩, 0)
    | none =>
      let r := ks.foldl (fun (acc : Word × BitVec 6) k =>
        let x := encodeInto tag o.satf acc.1 ((16 * h + k) % perLane tag)
          (fmtFp32.decode o.fz (src.getD k {}).val.toNat) (bitsNat o.b.val 0 8)
        (x.1, acc.2 ||| x.2)) (d.val, 0)
      (PWord.clean (if tag = 6 ∧ h = 1 ∧ l = 6 then r.1 &&& 0xFFF else r.1), r.2)

/-- `VPACK` (R205). With H = 1 an E2M3 block's positions 2-4 of lane 6 are written as zero. Its S4
writes all 16 lanes (R36), those it does not touch as S2 read them (DEDUCED, log entry 110). -/
def execVpack (f : Fields) (s : State) : Host.Outcome State Fault Refusal :=
  issue (.vpack f) f s (fun o t =>
    let e := t.el o.n.elemRef
    let tag := bitsNat f.imm 0 3
    let h := bitsNat f.imm 3 1
    let rs := (e.vec f.dst.toNat).zipIdx.map (fun x => packLane o tag h (e.vec f.sa.toNat) x.1 x.2)
    let touched := (List.range 16).map (fun k => (16 * h + k) / perLane tag)
    let poisoned := rs.zipIdx.any (fun x => x.1.1.psn && touched.contains x.2)
    .ok (t, .now (vecResult f.dst.toNat (rs.map Prod.fst) poisoned (rs.foldl (fun x r => x ||| r.2) 0))))

/-- `VUNPK` (R205). -/
def execVunpk (f : Fields) (s : State) : Host.Outcome State Fault Refusal :=
  issue (.vunpk f) f s (fun o t =>
    let e := t.el o.n.elemRef
    let tag := bitsNat f.imm 0 3
    let h := bitsNat f.imm 3 1
    let rs := (List.range 16).map (fun k =>
      let i := 16 * h + k
      let a := e.lane f.sa.toNat (i / perLane tag)
      laneOf [a, o.b] (codeStep (fmtFp32.deliver .nearest o.fz
        (decodeBlock tag (narrowElem tag a.val (i % perLane tag)) (bitsNat o.b.val 0 8)))))
    let ls := rs.map Prod.fst
    .ok (t, .now (vecResult f.dst.toNat ls (ls.any PWord.psn) (rs.foldl (fun x r => x ||| r.2) 0))))

/-- `VOUT` (R206). A poisoned index is reported before the lane. -/
def execVout (f : Fields) (s : State) : Host.Outcome State Fault Refusal :=
  issue (.vout f) f s (fun o t =>
    let v := if o.b.psn then o.b else (t.el o.n.elemRef).lane f.sa.toNat (o.b.val.toNat % 16)
    .ok (t, .now { dst := some v, kind := kindData, fmt := bits f.imm 0 3,
                   cond := !v.psn && decide (o.b.val = 15) }))

/-- `VIN` (R206): its S4 writes the one lane, not all 16 (DEDUCED, log entry 110). -/
def execVin (f : Fields) (s : State) : Host.Outcome State Fault Refusal :=
  issue (.vin f) f s (fun o t =>
    if o.b.psn then .ok (t, .now { cond := false })
    else .ok (t, .now { lanes := [(16 * f.dst.toNat + o.b.val.toNat % 16, o.a)],
                        cond := !o.a.psn && decide (o.b.val = 15) }))

end Sys2Proof.Machine
end

