-- ==== Sys2Proof/Machine/GlobalMem.lean ====
section
/-! DEFINITION. Memory and atomic instructions, 0xA0-0xAF (R304-R318): pairs, the store buffer, awaited loads, release
waits, the retry latch, update inboxes and the re-arming of a latch. -/

namespace Sys2Proof.Machine

/-! ## Addresses (R304) -/

/-- The base in the register pair that SA names; the origin record of a poisoned pair. -/
def Opnds.base (o : Opnds) : Except Word (BitVec 56) :=
  let lo := o.nd.gReg o.f.sa.toNat
  let hi := o.nd.gReg (o.f.sa.toNat + 1)
  match firstPoison [lo, hi] with
  | some w => .error w
  | none => .ok (bits hi.val 0 24 ++ lo.val)

/-- VA of the opcodes with an offset operand b. -/
def Opnds.va (o : Opnds) : Except Word (BitVec 56) :=
  match o.base with
  | .error w => .error w
  | .ok x => if o.b.psn then .error o.b.val else .ok (x + BitVec.signExtend 56 o.b.val)

/-! ## The store buffer (R306) -/

/-- An entry names the word at an address: the virtual addresses and the tenant agree. -/
def StoreEntry.covers (x : StoreEntry) (tenant : BitVec 16) (va : Nat) : Bool :=
  decide (x.stamp.tenant = tenant) && (wordVas x.va x.words.length).any (fun w => decide (w.2 / 4 = va / 4))

/-- The data that an entry holds for a word. -/
def StoreEntry.dataAt (x : StoreEntry) (va : Nat) : Option PWord :=
  ((wordVas x.va x.words.length).find? (fun w => decide (w.2 / 4 = va / 4))).bind (fun w => x.words[w.1]?)

/-- Where word `i` of an entry lies, once it has been performed at its home (R323, R324). -/
def State.performedAt (s : State) (id i : Nat) : Option (Nat × BitVec 13) := match s.req id, s.resp id with
  | some r, _ => if r.stage = .home ∧ i < r.pos then r.pas[i]? else none
  | none, some p => if p.ans.fault.isNone then p.pas[i]? else none
  | none, none => none

/-- A word of an entry has been performed at its home and written again since: a load that was forwarded it would go back
behind the later store (R320, R322; DEDUCED, log entry 120). -/
def StoreEntry.overtaken (s : State) (x : StoreEntry) (va : Nat) : Bool :=
  ((wordVas x.va x.words.length).find? (fun w => decide (w.2 / 4 = va / 4))).any (fun w =>
    (s.performedAt x.id w.1).any (fun p => decide (s.homeWord p.1 p.2 ≠ x.words.getD w.1 {})))

/-- The word that forwarding gives a load (R306): of the youngest of the entries `q` of the same TENANT, KEYID and address; a
HELD entry only to its own node. `own` looks at the node's own entries alone (R309). -/
def forward (s : State) (q : List StoreEntry) (n : NodeRef) (st : Stamp) (own : Bool) (va : Nat) : Option PWord :=
  let hits := q.filter (fun x => x.covers st.tenant va && decide (x.stamp.keyid = st.keyid)
    && (decide (x.node = n.node) || (!x.held && !own)) && !x.overtaken s va)
  hits.getLast?.bind (fun x => x.dataAt va)

/-- The instructions whose S4 makes an entry of the store buffer (R306). -/
def makesEntry : Instr → Bool
  | .gst _ => true
  | .gstv _ => true
  | .gstL _ => true
  | _ => false

/-- The entry that a store in flight makes at its S4, with the cycle of that S4 (R306). -/
def entryInFlight (s : State) (n : NodeRef) : Option (Nat × StoreEntry) :=
  match (s.nd n).flight with
  | some fl => (match fl.why, fl.instr.fields with
    | .s4 due (.late a b d ws), some f =>
      if makesEntry fl.instr then
        match ({ n := n, f := f, nd := s.nd n, a := a, b := b, d := d } : Opnds).va with
        | .ok va => some (due, { id := s.serial, node := n.node, dom := domOf (s.nd n), stamp := s.stampOf n, va := va, words := ws })
        | .error _ => none
      else none
    | _, _ => none)
  | none => none

/-- The entries that a load issued in this cycle finds in its S3: those of the store buffer, and those whose S4 comes before
that S3, in the order in which they are made (R306, R324). -/
def entriesAtS3 (s : State) (e : ElemRef) : List StoreEntry :=
  let made := (List.range 16).filterMap (fun i => entryInFlight s (e.nodeRef (BitVec.ofNat 4 i)))
  (s.el e).sbuf ++ (made.filter (fun x => decide (x.1 ≤ s.cycle))).map Prod.snd
    ++ (made.filter (fun x => decide (x.1 = s.cycle + 1))).map Prod.snd

/-- The entries of an element for the words of an access. -/
def entriesFor (e : Elem) (tenant : BitVec 16) (va : BitVec 56) (len : Nat) (p : StoreEntry → Bool) : List Nat :=
  (e.sbuf.filter (fun x => p x && (wordVas va len).any (fun w => x.covers tenant w.2))).map StoreEntry.id

/-- The entries of a node that are not yet acknowledged. -/
def ownEntries (e : Elem) (n : NodeRef) : List Nat := (e.sbuf.filter (fun x => decide (x.node = n.node))).map StoreEntry.id

/-- Entries of a store buffer that a store in flight, or a release wait, of the element has yet to make (R306, R309). -/
def owedEntries (s : State) (e : ElemRef) (p : Node → Bool) : Nat :=
  ((List.range 16).filter (fun i =>
    let nd := s.nd (e.nodeRef (BitVec.ofNat 4 i))
    p nd && (match nd.flight with
    | some fl => match fl.why with
      | .release (.storeEntry _ _) _ _ => true
      | .s4 _ (.late _ _ _ _) => makesEntry fl.instr
      | _ => false
    | none => false))).length

/-- A domain may take an entry (R306). -/
def mayBuffer (s : State) (e : ElemRef) (d : BitVec 4) : Bool :=
  let q := (s.el e).sbuf
  decide (q.length + owedEntries s e (fun _ => true) < 16)
    && decide ((q.filter (fun x => decide (x.dom = d))).length + owedEntries s e (fun nd => decide (domOf nd = d)) < 8)

/-- An entry is made and its request leaves for the port (R306). -/
def makeEntry (s : State) (n : NodeRef) (opc : BitVec 8) (va : BitVec 56) (ws : List PWord) : State :=
  let st := s.stampOf n
  let r := s.request (.sbuf n.elemRef) st va (.store ws) .port [] [] 0
  r.2.updEl n.elemRef (fun e => { e with
    sbuf := e.sbuf ++ [{ id := r.1, node := n.node, dom := domOf (s.nd n), stamp := st, va := va, words := ws, opc := opc }] })

/-! ## Requests of a node -/

/-- A request whose node parks until the response (R305): it leaves in its S3. -/
def awaitRequest (t : State) (o : Opnds) (va : BitVec 56) (op : Op) (fwd : List (Option PWord)) (acquire : Bool := false) :
    State × Done :=
  let r := t.request (.node o.n) (t.stampOf o.n) va op .port fwd [] 0 (t.cycle + 2) acquire
  (r.2, .later (.await r.1))

/-- The result of a scalar load (R308, R37). -/
def loadResult (w : PWord) : Result := if w.psn then poisonResult w.val else cleanResult 0 (byValue w.val)

/-- An access of `n` words lies in two pages. -/
def twoPages (va : BitVec 56) (n : Nat) : Bool := decide (va.toNat / 0x10000 ≠ (va.toNat + 4 * n - 1) / 0x10000)

/-- A load of `n` words with forwarding (R306, R308, R309). A word-aligned load whose words are all forwarded is complete
at once; one that lies in two pages has both translations checked all the same (R308). -/
def loadWith (t : State) (o : Opnds) (va : BitVec 56) (n : Nat) (acquire : Bool) (res : List PWord → Result) : State × Done :=
  let st := t.stampOf o.n
  let fwd := if va.toNat % 4 = 0 then (wordVas va n).map (fun w => forward t (entriesAtS3 t o.n.elemRef) o.n st acquire w.2) else []
  if fwd.length = n && fwd.all Option.isSome && !twoPages va n then (t, .now (res (fwd.filterMap id)))
  else awaitRequest t o va (.load n) fwd acquire

/-- A scalar request and response: a poisoned address makes no access and writes DST poisoned (R304). -/
def scalarLoad (i : Instr) (f : Fields) (s : State) (go : State → Opnds → BitVec 56 → State × Done) :
    Host.Outcome State Fault Refusal :=
  issue i f s (fun o t =>
    match o.va with
    | .error w => .ok (t, .now (poisonResult w))
    | .ok va => .ok (go t o va))

/-- `GLD` (R308). -/
def execGld (f : Fields) (s : State) : Host.Outcome State Fault Refusal :=
  scalarLoad (.gld f) f s (fun t o va => loadWith t o va 1 false (fun ws => loadResult (ws.headD {})))

/-- `GLD.A` (R309): scopes 0 and 1 act as `GLD`. -/
def execGldA (f : Fields) (s : State) : Host.Outcome State Fault Refusal :=
  scalarLoad (.gldA f) f s (fun t o va =>
    loadWith t o va 1 (decide (2 ≤ bitsNat f.imm 0 3)) (fun ws => loadResult (ws.headD {})))

/-- `PLD` (R311). -/
def execPld (f : Fields) (s : State) : Host.Outcome State Fault Refusal :=
  scalarLoad (.pld f) f s (fun t o va => awaitRequest t o va (.presRead 1) [])

/-- `PPRB` (R311). -/
def execPprb (f : Fields) (s : State) : Host.Outcome State Fault Refusal :=
  scalarLoad (.pprb f) f s (fun t o va => awaitRequest t o va .probe [])

/-- A vector load: a poisoned address poisons every lane (R304). -/
def vectorLoad (i : Instr) (f : Fields) (s : State) (go : State → Opnds → BitVec 56 → State × Done) :
    Host.Outcome State Fault Refusal :=
  issue i f s (fun o t =>
    match o.va with
    | .error w => .ok (t, .now (vecResult f.dst.toNat (List.replicate 16 ⟨w, true⟩) true 0))
    | .ok va => .ok (go t o va))

/-- The lanes that a vector load writes (R192, R308). -/
def laneResult (f : Fields) (ws : List PWord) : Result := vecResult f.dst.toNat ws (ws.any PWord.psn) 0

/-- `GLDV` (R308). -/
def execGldv (f : Fields) (s : State) : Host.Outcome State Fault Refusal :=
  vectorLoad (.gldv f) f s (fun t o va => loadWith t o va 16 false (laneResult f))

/-- `GLDV.p` (R311). -/
def execGldvP (f : Fields) (s : State) : Host.Outcome State Fault Refusal :=
  vectorLoad (.gldvP f) f s (fun t o va => awaitRequest t o va (.presRead 16) [])

/-- A store through the store buffer: its data is read in S2 and its entry made at S4, `storeAtS4` (R304, R306, R308). -/
def storeWith (i : Instr) (f : Fields) (s : State) (data : State → Opnds → List PWord) : Host.Outcome State Fault Refusal :=
  issue i f s (fun o t =>
    match o.va with
    | .error _ => .ok (t, .now { cond := false })
    | .ok _ => .ok (t, .atS4 (data t o)))

/-- S4 of a buffered store: its entry is made and sent (R306). -/
def storeAtS4 (i : Instr) (o : Opnds) (ws : List PWord) (s : State) : State × Result :=
  match o.va with
  | .error _ => (s, { cond := false })
  | .ok va => (makeEntry s o.n (opcOf i) va ws, { cond := wordsClean ws })

/-- `GST` (R308). -/
def execGst (f : Fields) (s : State) : Host.Outcome State Fault Refusal := storeWith (.gst f) f s (fun _ o => [o.d])

/-- `GSTV` (R308). -/
def execGstv (f : Fields) (s : State) : Host.Outcome State Fault Refusal :=
  storeWith (.gstv f) f s (fun t o => (t.el o.n.elemRef).vec f.dst.toNat)

/-! ## Release waits (R309, R310) -/

/-- The end of a release wait: the entry of a `GST.L` is made; a fence only completes. -/
def endRelease (s : State) (n : NodeRef) (act : ReleaseAct) : State :=
  match act with
  | .storeEntry va w => complete (makeEntry s n 0xA3 va [w]) n { cond := !w.psn }
  | .fence => complete s n {}
  | .podFence => complete s n {}

/-- The zero-length reads of the host flush, one for each host port of which bit `b` of the mask is set. -/
def flushReads (s : State) (n : NodeRef) : List Nat × State :=
  [false, true].foldl (fun acc south =>
    if (s.nd n).hostAck.getLsbD (if south then 1 else 0) then
      let r := acc.2.request (.node n) (s.stampOf n) 0 (.flush south) .home [] [] 0
      (acc.1 ++ [r.1], r.2)
    else acc) ([], s)

/-- A release wait whose entries are acknowledged goes on: the host flush of scope 6 where one is due, else its end. -/
def goOnRelease (s : State) (n : NodeRef) (act : ReleaseAct) (flush : Bool) : State :=
  if flush && decide ((s.nd n).hostAck ≠ 0) then
    let r := flushReads s n
    r.2.updNd n (fun nd => { nd with flight := nd.flight.map (fun fl => { fl with why := .release act r.1 false }) })
  else endRelease s n act

/-- One of the events that a node's release wait waits for has come. -/
def releaseEvent (s : State) (n : NodeRef) (id : Nat) : State :=
  match (s.nd n).flight with
  | none => s
  | some fl =>
    match fl.why with
    | .release act ids flush =>
      if ids.contains id then
        let left := ids.filter (fun x => decide (x ≠ id))
        let s := s.updNd n (fun nd => { nd with flight := some { fl with why := .release act left flush } })
        if left = [] then goOnRelease s n act flush else s
      else s
    | _ => s

/-- The start of a release wait of a scope of 2 or more: none is needed where no entry and no flush is outstanding. -/
def startRelease (t : State) (o : Opnds) (scope : Nat) (act : ReleaseAct) : Option (State × Done) :=
  let ids := ownEntries (t.el o.n.elemRef) o.n
  let flush := decide (scope = 6)
  if ids = [] then
    if flush && decide (o.nd.hostAck ≠ 0) then
      let r := flushReads t o.n
      some (r.2, .later (.release act r.1 false))
    else none
  else some (t, .later (.release act ids flush))

/-- `GST.L` (R309): scopes 0 and 1 act as `GST`. -/
def execGstL (f : Fields) (s : State) : Host.Outcome State Fault Refusal :=
  issue (.gstL f) f s (fun o t =>
    match o.va with
    | .error _ => .ok (t, .now { cond := false })
    | .ok va =>
      let scope := bitsNat f.imm 0 3
      match (if scope < 2 then none else startRelease t o scope (.storeEntry va o.d)) with
      | some x => .ok x
      | none => .ok (t, .atS4 [o.d]))

/-- `FENCE` (R309, R310). -/
def execFence (f : Fields) (s : State) : Host.Outcome State Fault Refusal :=
  issue (.fence f) f s (fun o t =>
    let scope := bitsNat f.imm 0 3
    match (if scope < 2 then none else startRelease t o scope .fence) with
    | some x => .ok x
    | none => .ok (t, .now {}))

/-! ## The retry latch (R316) -/

/-- The latch as an access fills it. -/
def latchWords (opc op rm : Nat) (seq : BitVec 8) (own : Bool) (dst : BitVec 5) (va : BitVec 56) (a b : PWord) : Map Word :=
  [(0, BitVec.ofNat 32 (2 ^ 31 + (if a.psn then 2 ^ 27 else 0) + (if b.psn then 2 ^ 26 else 0) + (if own then 2 ^ 25 else 0)
      + dst.toNat * 2 ^ 20 + op * 2 ^ 16 + rm * 2 ^ 14 + seq.toNat % 64 * 2 ^ 8 + opc)),
   (1, bits va 0 32),
   (2, BitVec.ofNat 32 (seq.toNat / 64 * 2 ^ 24 + bitsNat va 32 24)),
   (3, a.val), (4, b.val), (5, 0)]

/-- The owned range that an atomic of a node's course meets, and the word's place in it (R314). -/
def ownerOf (s : State) (n : NodeRef) (va : Nat) : Option OwnedBy :=
  match (s.el n.elemRef).region with
  | none => none
  | some r =>
    let tenant := (s.stampOf n).tenant
    s.elem.findSome? (fun x =>
      if x.2.region = some r then
        (x.2.inbox.find? (fun b => b.2.used && decide (b.2.base.toNat ≤ va ∧ va < b.2.base.toNat + b.2.size)
          && decide ((s.stampOf ((elemOfKey x.1).nodeRef b.2.owner)).tenant = tenant))).map (fun b =>
            { elem := elemOfKey x.1, box := b.1, region := r, off := BitVec.ofNat 15 ((va - b.2.base.toNat) / 4) })
      else none)

/-- An access through the node's latch: the latch is filled, and the node parks until the reply. The request leaves when the
entries named are acknowledged, and the element's entries for its words (R305, R313, R316, R365). -/
def useLatch (t : State) (o : Opnds) (i : Instr) (va : BitVec 56) (op : Op) (code rm : Nat) (a b : PWord)
    (own : Option OwnedBy) (after : List Nat) : State × Done :=
  let seq := o.nd.lseq + 1
  let t := t.updNd o.n (fun nd => { nd with
    latch := latchWords (opcOf i).toNat code rm seq own.isSome o.f.dst va a b
    lseq := seq
    lheld := none })
  let r : Req := { id := t.serial, who := .latch o.n seq, stamp := t.stampOf o.n, va := va, op := op, after := after, own := own
                   rply := decide (opcOf i ≠ 0xA9), from_ := t.cycle + 2 }
  ({ t with
    serial := t.serial + 1
    reqs := t.reqs ++ [r] }, .later .latch)

/-- An atomic: routed to an owner or to the word's home (R312, R313). -/
def atomicAccess (t : State) (o : Opnds) (i : Instr) (va : BitVec 56) (op : Op) (code rm : Nat) (a b : PWord) : State × Done :=
  useLatch t o i va op code rm a b (ownerOf t o.n va.toNat) []

/-- `AUPD` (R312). -/
def execAupd (f : Fields) (s : State) : Host.Outcome State Fault Refusal :=
  issue (.aupd f) f s (fun o t =>
    match o.base with
    | .error _ => .ok (t, .now { cond := false })
    | .ok va => .ok (atomicAccess t o (.aupd f) va (.atomic (bits f.imm 0 4) (bits f.imm 4 2) o.b)
        (bitsNat f.imm 0 4) (bitsNat f.imm 4 2) o.b {}))

/-- `AFET` (R312). -/
def execAfet (f : Fields) (s : State) : Host.Outcome State Fault Refusal :=
  issue (.afet f) f s (fun o t =>
    match o.base with
    | .error w => .ok (t, .now (poisonResult w))
    | .ok va => .ok (atomicAccess t o (.afet f) va (.atomic (bits f.imm 0 4) (bits f.imm 4 2) o.b)
        (bitsNat f.imm 0 4) (bitsNat f.imm 4 2) o.b {}))

/-- `ACAS` (R312): a poisoned expected value makes no access. -/
def execAcas (f : Fields) (s : State) : Host.Outcome State Fault Refusal :=
  issue (.acas f) f s (fun o t =>
    match o.base with
    | .error w => .ok (t, .now (poisonResult w))
    | .ok va =>
      if o.b.psn then .ok (t, .now (poisonResult o.b.val))
      else .ok (atomicAccess t o (.acas f) va (.cas o.b o.d) 12 0 o.b o.d))

/-- `PST` (R311). -/
def execPst (f : Fields) (s : State) : Host.Outcome State Fault Refusal :=
  issue (.pst f) f s (fun o t =>
    match o.va with
    | .error _ => .ok (t, .now { cond := false })
    | .ok va => .ok (useLatch t o (.pst f) va (.presWrite [o.d]) 0 0 {} o.d none []))

/-- `PCLR` (R311): a poisoned count makes no access. -/
def execPclr (f : Fields) (s : State) : Host.Outcome State Fault Refusal :=
  issue (.pclr f) f s (fun o t =>
    match o.base with
    | .error w => .ok (t, .now (poisonResult w))
    | .ok va =>
      if o.b.psn then .ok (t, .now (poisonResult o.b.val))
      else .ok (useLatch t o (.pclr f) va (.presClear o.b.val.toNat) 0 0 o.b {} none []))

/-- `GSTV.p` (R311). -/
def execGstvP (f : Fields) (s : State) : Host.Outcome State Fault Refusal :=
  issue (.gstvP f) f s (fun o t =>
    match o.va with
    | .error _ => .ok (t, .now { cond := false })
    | .ok va =>
      let ws := (t.el o.n.elemRef).vec f.dst.toNat
      .ok (useLatch t o (.gstvP f) va (.presWrite ws) 0 0 {} ⟨0, ws.any PWord.psn⟩ none []))

/-! ## What an answer does to its transition -/

/-- The result that an answer gives an awaited transition or a latch access (R305, R308, R311, R312, R362). `op` is what
was asked for. -/
def answerResult (i : Instr) (f : Fields) (op : Op) (a : Answer) : Result :=
  let w := a.words.headD {}
  match i with
  | .gld _ => loadResult w
  | .gldA _ => loadResult w
  | .pld _ => loadResult w
  | .xld _ => loadResult w
  | .afet _ => match op with
    | .atomic _ _ v => if v.psn then poisonResult v.val else loadResult w
    | _ => loadResult w
  | .gldv _ => laneResult f a.words
  | .gldvP _ => laneResult f a.words
  | .acas _ => match op with
    | .cas _ new => if new.psn then poisonResult new.val else if w.psn then poisonResult w.val else { dst := some w, cond := a.cond }
    | _ => { dst := some w, cond := a.cond }
  | .aupd _ => match op with
    | .atomic _ _ v => { cond := !v.psn }
    | _ => { cond := a.cond }
  | .pst _ => match op with
    | .presWrite ws => { cond := !ws.any PWord.psn }
    | _ => { cond := a.cond }
  | .gstvP _ => match op with
    | .presWrite ws => { cond := !ws.any PWord.psn }
    | _ => { cond := a.cond }
  | _ => { dst := a.words.head?, cond := a.cond && !w.psn }

/-- The request that a node's latch stands for. -/
def State.latchReq (s : State) (n : NodeRef) : Option Req :=
  s.reqs.find? (fun r => match r.who with
    | .latch m q => decide (m = n) && decide (q = (s.nd n).lseq)
    | _ => false)

/-- The operation of the latch words (R316), as far as a result needs it. -/
def Node.latchOp (nd : Node) : Op :=
  let w := nd.latchAt 0
  let a : PWord := ⟨nd.latchAt 3, bitAt w 27⟩
  let b : PWord := ⟨nd.latchAt 4, bitAt w 26⟩
  let opc := bitsNat w 0 8
  if opc = 0xAB then .cas a b
  else if opc = 0xA9 ∨ opc = 0xAA then .atomic (bits w 16 4) (bits w 14 2) a
  else if opc = 0xA5 ∨ opc = 0xAE then .presWrite [b]
  else if opc = 0xA6 then .presClear a.val.toNat
  else if opc = 0xB5 then .barArrive a.val
  else if opc = 0xBF then .barMake a.val
  else if opc = 0xC2 then .podAdd (bits b.val 0 10) a.val
  else .probe

/-- A latch access completes with an answer at the next S4, which clears VALID (R316, R318). A fault answer leaves DST
alone and gives condition 0. -/
def completeLatch (s : State) (n : NodeRef) (a : Answer) : State :=
  match (s.nd n).flight with
  | none => s
  | some fl =>
    match fl.instr.fields with
    | none => s
    | some f =>
      let r := if a.fault.isSome then { cond := false } else answerResult fl.instr f (s.nd n).latchOp a
      let s := s.updNd n (fun nd => { nd.setLatchBit 31 false with lheld := none })
      complete s n r

/-- An answer held in the latch: word 5, RPV and RPSN (R316). -/
def holdReply (s : State) (n : NodeRef) (a : Answer) : State :=
  let w := a.words.headD {}
  let word := match a.fault with
    | some fi => BitVec.setWidth 32 fi.cause
    | none => w.val
  s.updNd n (fun nd => { ((nd.setLatchBit 29 true).setLatchBit 28 (w.psn && a.fault.isNone)).setLatch 5 word with
    lheld := some a })

/-- A latch access that faulted is in flight again: its node parks with its claims renewed (R146, R318). -/
def reopenLatch (s : State) (n : NodeRef) : Option State :=
  match (s.nd n).faulting with
  | none => none
  | some fl =>
    match fl.why, fl.instr.fields with
    | .latch, some f =>
      some ((claim s n fl.instr f).updNd n (fun nd => { nd with
        st := .parked
        flight := some fl
        faulting := none }))
    | _, _ => none

/-- The request of a latch sets out again with the same SEQ. -/
def resendLatch (s : State) (n : NodeRef) : State :=
  match s.latchReq n with
  | none => s
  | some r => s.setReq r.again

/-- The recovery query of a latch (R317). -/
def queryLatch (s : State) (n : NodeRef) : State :=
  let nd := s.nd n
  let va : BitVec 56 := bits (nd.latchAt 2) 0 24 ++ nd.latchAt 1
  let r : Req := { id := s.serial, who := .query n nd.lseq, stamp := s.stampOf n, va := va, op := nd.latchOp, stage := .home
                   own := if bitAt (nd.latchAt 0) 25 then ownerOf s n va.toNat else none }
  let s : State := { s with
    serial := s.serial + 1
    reqs := s.reqs ++ [r] }
  s.updNd n (fun nd => { nd with lsent := s.cycle })

/-- `XREARM` at its target (R318). -/
def performRearm (s : State) (from_ : NodeRef) (a : Word) : State × Answer :=
  let n := targetNode from_.die a
  let nd := s.nd n
  let say := fun (d : Nat) => ({ words := [PWord.clean (BitVec.ofNat 32 d)], cond := decide (d ≤ 1) } : Answer)
  if !remotePermitted s from_ n then (s, say 4)
  else if nd.st ≠ .faulted then (s, say 3)
  else if nd.latchValid = false then (s, say 2)
  else
    match reopenLatch s n with
    | none => (s, say 2)
    | some t =>
      if nd.latchSent = false then (resendLatch t n, say 0)
      else
        match nd.lheld with
        | some ans => (completeLatch t n ans, say 1)
        | none => (queryLatch (t.updNd n (fun (nd : Node) => { nd with flight := nd.flight.map (fun (fl : InFlight) => { fl with rearmed := true }) })) n, say 1)

/-- `XREARM` (R318): a poisoned target word does nothing. -/
def execXrearm (f : Fields) (s : State) : Host.Outcome State Fault Refusal :=
  issue (.xrearm f) f s (fun o t =>
    if o.a.psn then .ok (t, .now { cond := false }) else .ok (askUnit t o (.rearm o.a.val)))

/-! ## Update inboxes (R314, R315) -/

/-- The word that an update entry leaves, with its flags (R312, R315). -/
def InboxEntry.apply (x : InboxEntry) (fz : Bool) (old : PWord) : PWord × BitVec 6 :=
  if x.op = 12 then (casWord old (PWord.clean x.opa) ⟨x.opb, x.psb⟩, 0)
  else atomicWord fz (Rounding.ofCode x.rm) x.op.toNat old ⟨x.opa, x.psa⟩

/-- The reply of an owner to the requester's latch, kept in the inbox's log (R315, R317). -/
def sendReply (s : State) (e : ElemRef) (x : InboxEntry) (old : PWord) : State :=
  let a : Answer := { words := [old], cond := !old.psn && (if x.op = 12 then decide (old.val = x.opa) else decide (old.val ≠ 0)) }
  let id := s.serial
  { s with
    serial := id + 1
    resps := s.resps ++ [{ id := id, who := .latch x.req x.seq, op := .probe, va := 0, ans := a, src := some (.port e.tileRef e.elem.toNat) }]
    logs := s.logs ++ [{ id := id, home := .inbox e, node := x.req, seq := x.seq, ans := a }] }

/-- `AAPL` (R315). -/
def execAapl (f : Fields) (s : State) : Host.Outcome State Fault Refusal :=
  issue (.aapl f) f s (fun o t =>
    if o.a.psn then .ok (t, .now (poisonResult o.a.val))
    else
      let e := o.n.elemRef
      let k := bitsNat f.imm 0 2
      let box := Map.get (t.el e).inbox {} k
      match box.entries with
      | [] => .ok (t, .now { cond := false })
      | x :: rest =>
        let ea := o.a.val + BitVec.ofNat 32 (4 * x.off.toNat)
        match t.lsCheck o.n ea 4 true 0 with
        | some fi => .error fi
        | none =>
          let old := t.lsWord e ea.toNat
          let r := x.apply o.fz old
          let t := t.setLsWord e ea.toNat r.1
          let t := t.updEl e (fun el => { el with inbox := Map.set el.inbox k { box with entries := rest } })
          let t := if x.rply then sendReply t e x old else t
          .ok (t, .now { dst := some old, cond := decide (r.1 ≠ old), flags := r.2 }))

end Sys2Proof.Machine
end

