-- ==== Sys2Proof/Machine/Custom.lean ====
section
/-! DEFINITION. Custom opcodes and their loader: 0xD5-0xD7 and 0xE0-0xEF (R230-R236). -/

namespace Sys2Proof.Machine

/-! ## The array (R230-R232) -/

/-- Fields of a block's header (R231). -/
def hdrCells (h : DWord) : Nat := bitsNat h 0 5 + 1
def hdrMul (h : DWord) : Nat := bitsNat h 5 4
def hdrLat (h : DWord) : Nat := bitsNat h 9 5 + 1
def hdrIi (h : DWord) : Nat := bitsNat h 14 5 + 1
def hdrIn (h : DWord) : Nat := bitsNat h 19 2
def hdrTwo (h : DWord) : Bool := bitAt h 21
def hdrOut0 (h : DWord) : Nat := bitsNat h 22 7
def hdrOut1 (h : DWord) : Nat := bitsNat h 29 7

/-- A cell function on its sources (R232). -/
def cellFn (fz : Bool) (fn : Nat) (rm : Rounding) (x y z : Word) : Word × BitVec 6 :=
  let fx := fmtFp32.decode fz x.toNat
  let fy := fmtFp32.decode fz y.toNat
  let fp := fun (r : Nat × BitVec 6) => (BitVec.ofNat 32 r.1, r.2)
  let exact := fun (v : FVal) => ((BitVec.ofNat 32 (fmtFp32.exactOp fz v), 0) : Word × BitVec 6)
  match fn with
  | 0 => (x, 0)
  | 1 => (x + y, 0)
  | 2 => (x - y, 0)
  | 3 => (x * y, 0)
  | 4 => (x &&& y, 0)
  | 5 => (x ||| y, 0)
  | 6 => (x ^^^ y, 0)
  | 7 => (shlW x (bitsNat y 0 6), 0)
  | 8 => (shrW x (bitsNat y 0 6), 0)
  | 9 => (sarW x (bitsNat y 0 6), 0)
  | 10 => (if x.toInt ≤ y.toInt then x else y, 0)
  | 11 => (if x.toInt ≤ y.toInt then y else x, 0)
  | 12 => (if z ≠ 0 then x else y, 0)
  | 13 => (boolWord (decide (x.toInt < y.toInt)), 0)
  | 14 => fp (fmtFp32.addOp rm fz x.toNat y.toNat)
  | 15 => fp (fmtFp32.subOp rm fz x.toNat y.toNat)
  | 16 => fp (fmtFp32.fmaOp rm fz x.toNat y.toNat z.toNat)
  | 17 => exact fx.neg
  | 18 => exact (FVal.min fx fy)
  | 19 => exact (FVal.max fx fy)
  | 20 => (boolWord (FVal.lt fx fy), 0)
  | 21 => exact fx.abs
  | 22 => fp (fmtFp32.ofInt rm x.toInt)
  | 23 => fpToInt rm false fx
  | 24 => fp (fmtFp32.mulOp rm fz x.toNat y.toNat)
  | 25 => (clzW x, 0)
  | _ => (0, 0)

/-- Functions of which the result is a floating-point number (R109, R232). -/
def cellFp (fn : Nat) : Bool := [14, 15, 16, 17, 18, 19, 21, 22, 24].contains fn

/-- The value of a source code; none while the cell that it names has no value yet (R231). -/
def cellSource (ins : List Word) (c : DWord) (vals : List (Option (Word × BitVec 6))) (code : Nat) : Option Word :=
  if code < 32 then (vals.getD code none).map Prod.fst
  else if code < 35 then some (ins.getD (code - 32) 0)
  else if code = 35 then some (bits c 32 32)
  else some 0

/-- One pass over the cells: every cell of which the sources are known gets its value. -/
def cellPass (fz : Bool) (cells : List DWord) (ins : List Word) (vals : List (Option (Word × BitVec 6))) :
    List (Option (Word × BitVec 6)) :=
  cells.zipIdx.map (fun c =>
    match cellSource ins c.1 vals (bitsNat c.1 6 7), cellSource ins c.1 vals (bitsNat c.1 13 7),
        cellSource ins c.1 vals (bitsNat c.1 20 7) with
    | some x, some y, some z => some (cellFn fz (bitsNat c.1 0 6) (Rounding.ofCode (bits c.1 27 2)) x y z)
    | _, _, _ => none)

/-- The cells' values after `n` passes. -/
def cellValues (fz : Bool) (cells : List DWord) (ins : List Word) : Nat → List (Option (Word × BitVec 6))
  | 0 => cells.map (fun _ => none)
  | n + 1 => cellPass fz cells ins (cellValues fz cells ins n)

/-- A firing on clean inputs: out0, out1 and the flags of all cells (R231, R232). -/
def fireCells (fz : Bool) (h : DWord) (cells : List DWord) (ins : List Word) : Word × Word × BitVec 6 :=
  let vals := cellValues fz cells (ins.take (hdrIn h)) cells.length
  let out := fun (k : Nat) => ((vals.getD k none).map Prod.fst).getD 0
  (out (hdrOut0 h), out (hdrOut1 h), vals.foldl (fun fl v => fl ||| (v.map Prod.snd).getD 0) 0)

/-! ## Firing (R234, R235) -/

/-- What a record about an entry that is not mapped or not resident says (R379). -/
def cxFault (cause : BitVec 8) (c : BitVec 4) (x : DWord) : FaultInfo :=
  { cause := cause, aux := BitVec.setWidth 8 c, deta := bits x 0 32, detb := bits x 32 32 }

/-- The cell of a resident configuration that the domain may not use in this cycle (R152, R235). -/
def cxCellBad (e : Elem) (d : BitVec 4) (r : Residency) : Option Nat :=
  r.place.find? (fun c => !e.owns d (.cell c) || e.scrubbing (.cell c))

/-- The result of a scalar firing (R234). -/
def cxScalar (o : Opnds) (r : Residency) : Result :=
  let h := r.header
  let ins := [o.a, o.b, o.d].take (hdrIn h)
  let fmt : BitVec 3 := if cellFp (bitsNat (r.cells.getD (hdrOut0 h) 0) 0 6) then 1 else 0
  match firstPoison ins with
  | some w => { dst := some ⟨w, true⟩, fmt := fmt, dst2 := if hdrTwo h then some ⟨w, true⟩ else none, cond := false }
  | none =>
    let v := fireCells o.fz h r.cells (ins.map PWord.val)
    { dst := some (PWord.clean v.1), fmt := fmt, dst2 := if hdrTwo h then some (PWord.clean v.2.1) else none,
      cond := decide (v.1 ≠ 0), flags := v.2.2 }

/-- The result of a vector firing (R191, R234). -/
def cxVector (o : Opnds) (e : Elem) (r : Residency) : Result :=
  let h := r.header
  let outs := (List.range 16).map (fun l =>
    let ins := [e.lane o.f.sa.toNat l, e.lane o.f.sb.toNat l, e.lane o.f.dst.toNat l].take (hdrIn h)
    match firstPoison ins with
    | some w => ((⟨w, true⟩, ⟨w, true⟩, 0) : PWord × PWord × BitVec 6)
    | none =>
      let v := fireCells o.fz h r.cells (ins.map PWord.val)
      (PWord.clean v.1, PWord.clean v.2.1, v.2.2))
  let d := o.f.dst.toNat
  let bad := outs.any (fun x => x.1.psn)
  let res := vecResult d (outs.map (fun x => x.1)) bad (outs.foldl (fun fl x => fl ||| x.2.2) 0)
  if hdrTwo h && decide (d ≤ 30) then
    { res with lanes := res.lanes ++ (outs.map (fun x => x.2.1)).zipIdx.map (fun x => (16 * (d + 1) + x.2, x.1)) }
  else res

/-- The trap to the custom loader: the node parks with no other effect and the record goes to node LDRN (R235). -/
def cxTrap (t : State) (o : Opnds) (i : Instr) (c : BitVec 4) (x ent : DWord) : State × Done :=
  let fi := cxFault causeCxUnloaded c ent
  let t := unclaim t o.n i o.f
  let w : List Word := [nodeOrigin o.n fi.cause, trapW1 (domOf o.nd) t.cur.slot (opcOf i) fi.aux .cxTrap, fi.deta, fi.detb]
  (t.sendTrap (some (o.n.elemRef.nodeRef (entLdrn x))) (some o.n) (t.partOf o.n.elemRef) w, .later .cxTrap)

/-- `CX0`-`CX15` (R234, R235). -/
def execCx (code : BitVec 4) (f : Fields) (s : State) : Host.Outcome State Fault Refusal :=
  issue (.cx code f) f s (fun o t =>
    let e := t.el o.n.elemRef
    let d := domOf o.nd
    let ent := e.cxEntry d code
    let x := t.domEntry o.n.elemRef d
    if bitAt ent 63 = false then .error (cxFault causeCxUnmapped code ent)
    else if bitAt ent 62 = false then
      if entLdrv x then .ok (cxTrap t o (.cx code f) code x ent) else .error (cxFault causeCxUnloaded code ent)
    else
      let k := bitsNat ent 60 2
      let r := Map.get e.res {} k
      match cxCellBad e d r with
      | some c => .error (resourceFault 0 (.cell c))
      | none =>
        let vec := decide (f.imm = 1)
        let ii := hdrIi r.header
        let extra := if vec then 15 * ii else 0
        let busy := if vec then 16 * ii else ii
        let t := t.updEl o.n.elemRef (fun e => { e with res := Map.set e.res k { r with freeAt := s.cycle + busy } })
        .ok (t, .later (.long (s.cycle + 2 + hdrLat r.header + extra) (if vec then cxVector o e r else cxScalar o r))))

/-! ## The loader (R236) -/

/-- Cells that a domain owns and that no configuration holds or scrub keeps. -/
def freeCells (e : Elem) (d : BitVec 4) : List Nat :=
  (List.range 32).filter (fun c => e.owns d (.cell c) && !e.scrubbing (.cell c)
    && !(Map.values e.res).any (fun r => r.used && r.place.contains c))

/-- The lowest-numbered free residency slot (R236). -/
def freeSlot (e : Elem) : Option Nat := (List.range 4).find? (fun k => !(Map.get e.res {} k).used)

/-- The cells that a configuration takes, in the fixed order of R236; none where too few are free. -/
def allotCells (free : List Nat) (nc nm : Nat) : Option (List Nat) :=
  let low := free.filter (fun c => decide (c < 8))
  let high := free.filter (fun c => decide (8 ≤ c))
  if low.length < nm ∨ free.length < nc then none
  else
    let rest := nc - nm
    some (low.take nm ++ high.take rest ++ (low.drop nm).take (rest - (high.take rest).length))

/-- `CXLD` would succeed now: the residency slot and the cells. -/
def cxFits (e : Elem) (d c : BitVec 4) : Option (Nat × List Nat) :=
  let ent := e.cxEntry d c
  let h := e.cxHeader d c
  if bitAt ent 63 = false ∨ bitAt ent 62 then none
  else
    match freeSlot e, allotCells (freeCells e d) (hdrCells h) (hdrMul h) with
    | some k, some cs => some (k, cs)
    | _, _ => none

/-- `CXLD` (R236). The test of the owned cells comes before that of the free configurations (DESIGN CHOICE, log entry 112). -/
def execCxld (f : Fields) (s : State) : Host.Outcome State Fault Refusal :=
  issue (.cxld f) f s (fun o t =>
    if o.a.psn then .ok (t, .now (poisonResult o.a.val))
    else
      let e := t.el o.n.elemRef
      let d := domOf o.nd
      let c : BitVec 4 := bits o.a.val 0 4
      let ent := e.cxEntry d c
      let h := e.cxHeader d c
      let owned := (List.range 32).filter (fun i => e.owns d (.cell i))
      if bitAt ent 63 = false ∨ bitAt ent 62 then .ok (t, .now { cond := false })
      else if owned.length < hdrCells h ∨ (owned.filter (fun i => decide (i < 8))).length < hdrMul h then
        .error { cause := causeDomain, deta := BitVec.setWidth 32 c, detb := BitVec.ofNat 32 (4 * 2 ^ 28) }
      else if (cxFits e d c).isNone then .ok (t, .now { cond := false })
      else .ok (awaitRequest t o (bits ent 0 56 &&& ~~~7) (.cxBlock c (2 * (hdrCells h + 1))) []))

/-- Two words as a 64-bit one. -/
def pairWords : List PWord → List DWord
  | lo :: hi :: ws => (hi.val ++ lo.val) :: pairWords ws
  | _ => []

/-- The end of a `CXLD` (R236): the configuration becomes resident, unless it no longer fits. -/
def finishLoad (s : State) (n : NodeRef) (c : BitVec 4) (ws : List PWord) : State × Result :=
  let e := s.el n.elemRef
  let d := domOf (s.nd n)
  match firstPoison ws, cxFits e d c with
  | some w, _ => (s, poisonResult w)
  | none, none => (s, { cond := false })
  | none, some (k, cs) =>
    let ds := pairWords ws
    let r : Residency := { used := true, dom := d, cx := c, header := ds.headD 0, cells := ds.tail, place := cs }
    let i := 16 * d.toNat + c.toNat
    (s.setEl n.elemRef { e with
      res := Map.set e.res k r
      cxmap := Map.modify e.cxmap 0 i (fun x => setBits (setBits x 62 1 1) 60 2 k) },
     { dst := some (PWord.clean (BitVec.ofNat 32 k)), cond := true })

/-- A configuration leaves the array (R155, R236). -/
def unloadCx (e : Elem) (d c : BitVec 4) : Elem :=
  let i := 16 * d.toNat + c.toNat
  let k := bitsNat (e.cxEntry d c) 60 2
  { e with
    res := Map.erase e.res k
    cxmap := Map.modify e.cxmap 0 i (fun x => setBits x 60 3 0) }

/-- `CXUL` (R236): it acts at its S4 (`cxulAtS4`). -/
def execCxul (f : Fields) (s : State) : Host.Outcome State Fault Refusal :=
  issue (.cxul f) f s (fun o t =>
    if o.a.psn then .ok (t, .now (poisonResult o.a.val)) else .ok (t, .atS4 []))

/-- S4 of `CXUL` (R236): a resident configuration leaves the array. -/
def cxulAtS4 (o : Opnds) (s : State) : State × Result :=
  let d := domOf o.nd
  let c : BitVec 4 := bits o.a.val 0 4
  let res := bitAt ((s.el o.n.elemRef).cxEntry d c) 62
  (if res then s.updEl o.n.elemRef (fun e => unloadCx e d c) else s, { dst := some (PWord.clean (boolWord res)), cond := res })

/-- The summary word of a mapping entry (R236). -/
def cxSummary (ent h : DWord) : Word :=
  if bitAt ent 63 then
    BitVec.ofNat 32 (bitsNat ent 60 4 * 2 ^ 28 + bitsNat h 9 5 * 2 ^ 23 + bitsNat h 14 5 * 2 ^ 18 + bitsNat h 19 2 * 2 ^ 16
      + bitsNat h 21 1 * 2 ^ 15 + bitsNat h 0 5 * 2 ^ 10 + bitsNat h 5 4 * 2 ^ 6)
  else 0

/-- `CXQ` (R236). -/
def execCxq (f : Fields) (s : State) : Host.Outcome State Fault Refusal :=
  issue (.cxq f) f s (fun o t =>
    if o.a.psn then .ok (t, .now (poisonResult o.a.val))
    else
      let e := t.el o.n.elemRef
      let d := domOf o.nd
      let c : BitVec 4 := bits o.a.val 0 4
      let ent := e.cxEntry d c
      .ok (t, .now { dst := some (PWord.clean (cxSummary ent (e.cxHeader d c))), cond := bitAt ent 63 && bitAt ent 62 }))

end Sys2Proof.Machine
end

