-- ==== Sys2Proof/Machine/Engine.lean ====
section
/-! DEFINITION. Engine and barrier instructions, 0xB0-0xBF, and what the die's dispatcher does for them: pool barriers,
leases and the acceptance of engine commands (R342, R352-R356, R360-R366, R469). -/

namespace Sys2Proof.Machine

/-! ## Pool barriers (R360-R363) -/

/-- The index of the barrier that a handle names for a requester; none where it is stale (R360). -/
def State.barrierOf (s : State) (die : BitVec 4) (st : Stamp) (h : Word) : Option Nat :=
  let i := bitsNat h 0 12
  let b := (s.dieAt die).barrier i
  if bitsNat h 28 4 ≠ die.toNat ∨ bits h 20 8 ≠ b.gen ∨ (b.alloc = false ∧ b.ref = 0) ∨ b.part ≠ st.part ∨ b.tenant ≠ st.tenant
  then none else some i

/-- `BALC` (R361): the handle; 0 where none is free or the count is 0. -/
def barAllocate (s : State) (die : BitVec 4) (st : Stamp) (n : Word) : State × Answer :=
  let d := s.dieAt die
  let c : BitVec 16 := bits n 0 16
  match findFrom (fun i => !(d.barrier i).alloc && decide ((d.barrier i).ref = 0)) 4096 0 with
  | some i =>
    if c = 0 then (s, { words := [{}], cond := false })
    else
      let g := (d.barrier i).gen
      (s.setBarrier die i { alloc := true, ref := 1, gen := g, part := st.part, tenant := st.tenant, count := c, left := c },
       { words := [PWord.clean (BitVec.ofNat 32 (die.toNat * 2 ^ 28 + g.toNat * 2 ^ 20 + i))] })
  | none => (s, { words := [{}], cond := false })

/-- `BFRE` (R361). -/
def barRelease (s : State) (die : BitVec 4) (st : Stamp) (h : Word) : State × Answer :=
  match s.barrierOf die st h with
  | none => (s, { cond := false })
  | some i =>
    let b := (s.dieAt die).barrier i
    if b.alloc then (s.setBarrier die i ({ b with alloc := false } : PoolBar).drop, {}) else (s, { cond := false })

/-- A deferred wait on barrier `i` of a die, with its phase and CS. -/
def poolWaitOf (die : BitVec 4) (i : Nat) (r : Req) : Option (BitVec 16 × Bool) :=
  if r.stage = .deferred ∧ r.stamp.issuer.die = die then
    match r.op with
    | .poolWait h q st => if bitsNat h 0 12 = i then some (q, st) else none
    | _ => none
  else none

/-- The deferred waits that a new phase answers, in the order in which the barrier took them (R363). -/
def releaseWaits (s : State) (die : BitVec 4) (i : Nat) : State :=
  s.reqs.foldl (fun s r =>
    match poolWaitOf die i r with
    | none => s
    | some (q, st) =>
      let b := (s.dieAt die).barrier i
      if phasePassed b.phase q then
        ((s.dropReq r.id).answer r (phaseAnswer b.phase q false st)).setBarrier die i b.drop
      else s) s

/-- n arrivals at a barrier: the phase before and whether they overran (R362). -/
def poolArrival (s : State) (die : BitVec 4) (i n : Nat) : State × BitVec 16 × Bool :=
  let b := (s.dieAt die).barrier i
  if b.left.toNat ≤ n then
    (releaseWaits (s.setBarrier die i { b with phase := b.phase + 1, left := b.count }) die i, b.phase, decide (b.left.toNat < n))
  else (s.setBarrier die i { b with left := b.left - BitVec.ofNat 16 n }, b.phase, false)

/-- `BARV` at the dispatcher (R362). -/
def poolArrive (s : State) (die : BitVec 4) (st : Stamp) (h n : Word) : State × Answer :=
  match s.barrierOf die st h with
  | none => (s, arriveRefused)
  | some i =>
    if n.toNat = 0 ∨ 65535 < n.toNat then (s, arriveRefused)
    else
      let x := poolArrival s die i n.toNat
      (x.1, arriveAnswer x.2.1 x.2.2)

/-- Deferred pool waits of a die (R363). -/
def State.poolWaits (s : State) (die : BitVec 4) : Nat :=
  s.reqs.countP (fun r => decide (r.stage = .deferred) && decide (r.stamp.issuer.die = die) && (match r.op with
    | .poolWait .. => true
    | _ => false))

/-- `BWT` and `BTRY` at the dispatcher (R363). -/
def poolTest (s : State) (r : Req) (wait : Bool) (h : Word) (q : BitVec 16) (st : Bool) : Performed :=
  let die := r.stamp.issuer.die
  match s.barrierOf die r.stamp h with
  | none => .done s arriveRefused
  | some i =>
    let b := (s.dieAt die).barrier i
    if phasePassed b.phase q || !wait then .done s (phaseAnswer b.phase q true st)
    else if s.poolWaits die < 1024 then .defer (s.setBarrier die i { b with ref := b.ref + 1 }) r
    else .wait

/-! ## Leases (R355) -/

/-- Engines of a kind. -/
def engineCount (kind : Nat) : Nat := if kind = 0 then 8 else if kind = 3 then 0 else 4
def Die.eng (d : Die) (kind n : Nat) : Engine := Map.get d.engine {} (8 * kind + n)
def State.setEng (s : State) (die : BitVec 4) (kind n : Nat) (x : Engine) : State :=
  s.updDie die (fun d => { d with engine := Map.set d.engine (8 * kind + n) x })

/-- A lease ends: new commands are refused, those accepted complete (R355). -/
def Engine.endLease (x : Engine) : Engine :=
  { x with leased := false, gen := x.gen + 1, expiry := none, tasks := none }

/-- An engine as it stands at a count of its die: a lease that has come to its cycle limit has ended (R355). -/
def Engine.atCount (x : Engine) (now : Nat) : Engine := if x.leased && x.expiry.any (fun e => decide (e ≤ now)) then x.endLease else x

/-- `LEASE` (R355). -/
def leaseEngine (s : State) (die : BitVec 4) (st : Stamp) (a b : Word) : State × Answer :=
  let d := s.dieAt die
  let k := bitsNat a 0 2
  let at_ := fun (n : Nat) => (d.eng k n).atCount d.ctr
  match (List.range (engineCount k)).find? (fun n => !(at_ n).leased && (at_ n).queue.isEmpty) with
  | none => (s, { words := [{}], cond := false })
  | some n =>
    let x := at_ n
    let tasks := bitsNat a 8 8
    (s.setEng die k n { x with
       leased := true
       part := st.part
       tenant := st.tenant
       expiry := if b = 0 then none else some (d.ctr + b.toNat)
       tasks := if tasks = 0 then none else some tasks },
     { words := [PWord.clean (BitVec.ofNat 32 (die.toNat * 2 ^ 28 + k * 2 ^ 26 + n * 2 ^ 23 + x.gen.toNat * 2 ^ 15))] })

/-- The engine that a lease handle names for a requester; none where the lease has ended or is another's (R355, R356). -/
def State.leaseOf (s : State) (die : BitVec 4) (st : Stamp) (h : Word) : Option (Nat × Nat) :=
  let k := bitsNat h 26 2
  let n := bitsNat h 23 3
  let x := (s.dieAt die).eng k n
  if bitsNat h 28 4 = die.toNat ∧ n < engineCount k ∧ x.leased ∧ bits h 15 8 = x.gen ∧ x.part = st.part ∧ x.tenant = st.tenant
    ∧ x.expiry.all (fun e => decide ((s.dieAt die).ctr < e))
  then some (k, n) else none

/-- `LREL` (R355). -/
def releaseLease (s : State) (die : BitVec 4) (st : Stamp) (h : Word) : State × Answer :=
  match s.leaseOf die st h with
  | none => (s, { cond := false })
  | some (k, n) => (s.setEng die k n ((s.dieAt die).eng k n).endLease, {})

/-! ## Engine commands (R356) -/

/-- Word `i` of a descriptor, and the 56-bit address in words `i` and `i + 1`. -/
def descWord (d : List Word) (i : Nat) : Word := d.getD i 0
def descNat (d : List Word) (i : Nat) : Nat := (descWord d i).toNat
def descAddr (d : List Word) (i : Nat) : Nat := descNat d (i + 1) * 2 ^ 32 + descNat d i

/-- Words `lo` to `hi` of a descriptor are zero. -/
def descZero (d : List Word) (lo hi : Nat) : Bool := (List.range (hi + 1 - lo)).all (fun i => decide (descWord d (lo + i) = 0))

/-- A listed address: 56 bits and word-aligned (R356). -/
def descAddrOk (d : List Word) (i : Nat) : Bool := decide (descNat d (i + 1) < 2 ^ 24) && decide (descNat d i % 4 = 0)

/-- No field of an engine descriptor is reserved (R356). -/
def engineDescOk (opc : BitVec 8) (d : List Word) : Bool :=
  let len := descNat d 4
  if opc = 0xB8 then
    descAddrOk d 0 && descAddrOk d 2 && decide (len ≠ 0 ∧ len % 4 = 0) && decide (bitsNat (descWord d 7) 0 16 = 0)
      && decide (descNat d 8 % 4 = 0) && decide (descNat d 9 % 4 = 0) && descZero d 10 31
  else if opc = 0xB9 then
    descAddrOk d 0 && descAddrOk d 2 && decide (len % 64 = 0) && descZero d 7 9 && descAddrOk d 11 && descZero d 13 31
  else if opc = 0xBA then
    descAddrOk d 0 && descAddrOk d 2 && decide (len % 64 = 0) && descZero d 7 9 && descZero d 11 31
  else
    let nc := bitsNat (descWord d 7) 3 3 + 1
    descZero d 0 1 && descAddrOk d 2 && decide (len % 4 = 0) && decide (bitsNat (descWord d 7) 6 26 = 0)
      && decide (bitsNat (descWord d 7) 0 3 ≠ 7) && decide (2 ≤ nc) && descZero d 8 15
      && (List.range nc).all (fun j => descAddrOk d (16 + 2 * j)) && descZero d (16 + 2 * nc) 31

/-- KIND that an opcode needs (R356). -/
def engineKind (opc : BitVec 8) : Nat := if opc = 0xB8 then 0 else if opc = 0xBB then 2 else 1

/-- No barrier is named by a BARH (R346, R356). -/
def noBarrier : Word := 0xFFFFFFFF

/-- An engine takes or refuses a command (R356). An accepted one whose BARH names a barrier holds a reference (R361). -/
def engineCommand (s : State) (die : BitVec 4) (st : Stamp) (opc : BitVec 8) (h : Word) (desc : List Word) : State × Answer :=
  let say := fun (n : Nat) => ({ words := [PWord.clean (BitVec.ofNat 32 n)], cond := decide (n = 0) } : Answer)
  match s.leaseOf die st h with
  | none => (s, say 1)
  | some (k, n) =>
    let x := (s.dieAt die).eng k n
    let barh := descWord desc 6
    let bar := if barh = noBarrier then none else s.barrierOf die st barh
    if k ≠ engineKind opc then (s, say 2)
    else if engineDescOk opc desc = false ∨ (barh ≠ noBarrier ∧ bar.isNone) then (s, say 4)
    else if 4 ≤ x.queue.length then (s, say 3)
    else
      let cmd : EngCmd := { opc := opc, desc := desc, stamp := st, region := (s.el st.issuer.elemRef).region }
      let s := s.setEng die k n { x with queue := x.queue ++ [cmd] }
      let s := match bar with
        | some i => s.setBarrier die i { (s.dieAt die).barrier i with ref := ((s.dieAt die).barrier i).ref + 1 }
        | none => s
      (s, say 0)

/-! ## The instructions (R342) -/

/-- A request to a unit that waits for the node's earlier entries before it leaves (R365): until then it is a release
wait, which a fault of such an entry withdraws (R173). -/
def askAfter (t : State) (o : Opnds) (op : Op) (after : List Nat) : State × Done :=
  let r := t.request (.node o.n) (t.stampOf o.n) 0 op .home [] after 0 (t.cycle + 2)
  (r.2, .later (.await r.1))

/-- A poisoned operand makes an instruction send nothing: any DST is written poisoned, with condition 0 (R342). -/
def unitOp (i : Instr) (f : Fields) (s : State) (go : State → Opnds → Except FaultInfo (State × Done)) :
    Host.Outcome State Fault Refusal :=
  issue i f s (fun o t =>
    match o.psn with
    | some w => .ok (t, .now (poisonResult w))
    | none => go t o)

/-- A descriptor of 32 words in the local store (R341, R352): a fault of its read, or its words. A POISON word is a
poisoned value that the transition reads (R25). -/
def readDescriptor (t : State) (o : Opnds) : Except FaultInfo (List PWord) :=
  match vecCheck t o.n ((List.range 32).map (fun j => some (o.a.val + BitVec.ofNat 32 (4 * j)))) false with
  | some fi => .error fi
  | none => .ok ((List.range 32).map (fun j => t.lsWord o.n.elemRef (o.a.val + BitVec.ofNat 32 (4 * j)).toNat))

/-- An instruction that sends a descriptor. -/
def sendDescriptor (i : Instr) (f : Fields) (s : State) (op : Opnds → List Word → Op) : Host.Outcome State Fault Refusal :=
  unitOp i f s (fun t o =>
    match readDescriptor t o with
    | .error fi => .error fi
    | .ok ws =>
      match firstPoison ws with
      | some w => .ok (t, .now (poisonResult w))
      | none => .ok (askUnit t o (op o (ws.map PWord.val))))

/-- `STRM` (R352). -/
def execStrm (f : Fields) (s : State) : Host.Outcome State Fault Refusal :=
  sendDescriptor (.strm f) f s (fun o ws => .stream o.b.val ws)

/-- `STRMQ` (R352). -/
def execStrmq (f : Fields) (s : State) : Host.Outcome State Fault Refusal :=
  unitOp (.strmq f) f s (fun t o => .ok (askUnit t o (.streamStat o.b.val false)))

/-- `STRMQ.can` (R352). -/
def execStrmqCan (f : Fields) (s : State) : Host.Outcome State Fault Refusal :=
  unitOp (.strmqCan f) f s (fun t o => .ok (askUnit t o (.streamStat o.b.val true)))

/-- A reference to a completion tag of an element (R353). -/
def tagRef (e : ElemRef) (i : Nat) : Word :=
  BitVec.ofNat 32 (e.die.toNat * 2 ^ 28 + e.tile.toNat * 2 ^ 17 + e.elem.toNat * 2 ^ 13 + i * 2 ^ 9)

/-- `CNTB` (R353). -/
def execCntb (f : Fields) (s : State) : Host.Outcome State Fault Refusal :=
  unitOp (.cntb f) f s (fun t o =>
    let e := o.n.elemRef
    let i := bitsNat f.imm 0 4
    let old := Map.get (t.el e).tag {} i
    if old.valid ∨ o.a.val = 0 then .ok (t, .now { dst := some {}, cond := false })
    else
      let x : Tag := { valid := true, node := o.n.node, dom := domOf o.nd, chan := bits f.imm 4 2, count := o.a.val }
      .ok (t.updEl e (fun el => { el with tag := Map.set el.tag i x }), .now { dst := some (PWord.clean (tagRef e i)), cond := true }))

/-- `BALC` (R361). -/
def execBalc (f : Fields) (s : State) : Host.Outcome State Fault Refusal :=
  unitOp (.balc f) f s (fun t o => .ok (askUnit t o (.barAlloc o.a.val)))

/-- `BFRE` (R361). -/
def execBfre (f : Fields) (s : State) : Host.Outcome State Fault Refusal :=
  unitOp (.bfre f) f s (fun t o => .ok (askUnit t o (.barFree o.a.val)))

/-- `BARV` (R362, R365). -/
def execBarv (f : Fields) (s : State) : Host.Outcome State Fault Refusal :=
  unitOp (.barv f) f s (fun t o => .ok (askAfter t o (.poolArrive o.a.val o.b.val) (ownEntries (t.el o.n.elemRef) o.n)))

/-- An instruction on the barrier word at a pair: a poisoned pair, or else a poisoned b, sends nothing (R304, R342). -/
def barrierWordOp (i : Instr) (f : Fields) (s : State) (go : State → Opnds → BitVec 56 → State × Done) :
    Host.Outcome State Fault Refusal :=
  issue i f s (fun o t =>
    match o.base with
    | .error w => .ok (t, .now (poisonResult w))
    | .ok va => if o.b.psn then .ok (t, .now (poisonResult o.b.val)) else .ok (go t o va))

/-- `BARV.w` (R362, R365). -/
def execBarvW (f : Fields) (s : State) : Host.Outcome State Fault Refusal :=
  barrierWordOp (.barvW f) f s (fun t o va =>
    useLatch t o (.barvW f) va (.barArrive o.b.val) 0 0 o.b {} none (ownEntries (t.el o.n.elemRef) o.n))

/-- `BWT` (R363). -/
def execBwt (f : Fields) (s : State) : Host.Outcome State Fault Refusal :=
  unitOp (.bwt f) f s (fun t o => .ok (askUnit t o (.poolWait o.a.val (bits o.b.val 0 16) (bitAt f.imm 1))))

/-- `BWT.w` (R363). -/
def execBwtW (f : Fields) (s : State) : Host.Outcome State Fault Refusal :=
  barrierWordOp (.bwtW f) f s (fun t o va => awaitRequest t o va (.barWait (bits o.b.val 0 16) (bitAt f.imm 1)) [])

/-- `BTRY` (R363). -/
def execBtry (f : Fields) (s : State) : Host.Outcome State Fault Refusal :=
  unitOp (.btry f) f s (fun t o => .ok (askUnit t o (.poolTry o.a.val (bits o.b.val 0 16) (bitAt f.imm 1))))

/-- `BTRY.w` (R363). -/
def execBtryW (f : Fields) (s : State) : Host.Outcome State Fault Refusal :=
  barrierWordOp (.btryW f) f s (fun t o va => awaitRequest t o va (.barTry (bits o.b.val 0 16) (bitAt f.imm 1)) [])

/-- `ECPY` (R357). -/
def execEcpy (f : Fields) (s : State) : Host.Outcome State Fault Refusal :=
  sendDescriptor (.ecpy f) f s (fun o ws => .engine 0xB8 o.b.val ws)

/-- `ECMP` (R357). -/
def execEcmp (f : Fields) (s : State) : Host.Outcome State Fault Refusal :=
  sendDescriptor (.ecmp f) f s (fun o ws => .engine 0xB9 o.b.val ws)

/-- `EDCP` (R357). -/
def execEdcp (f : Fields) (s : State) : Host.Outcome State Fault Refusal :=
  sendDescriptor (.edcp f) f s (fun o ws => .engine 0xBA o.b.val ws)

/-- `ECOL` (R357). -/
def execEcol (f : Fields) (s : State) : Host.Outcome State Fault Refusal :=
  sendDescriptor (.ecol f) f s (fun o ws => .engine 0xBB o.b.val ws)

/-- `CJOIN` (R366): one SPACE token with WSEQ and W of the CHA head and BR 7. -/
def execCjoin (f : Fields) (s : State) : Host.Outcome State Fault Refusal :=
  issue (.cjoin f) f s (fun o t =>
    let hd := fun (c : BitVec 3) => (((chanCode c).bind (fun k => (o.nd.ciq k).head?)).getD {}).payload
    let a := hd f.cha
    .ok (t, .now { dst := some (PWord.clean (a &&& 0xFFFFFF00 ||| 7)), kind := kindSpace,
                   cond := decide (f.chb = 7) || decide (bits a 16 16 = bits (hd f.chb) 16 16) }))

/-- `LEASE` (R355). -/
def execLease (f : Fields) (s : State) : Host.Outcome State Fault Refusal :=
  unitOp (.lease f) f s (fun t o => .ok (askUnit t o (.lease o.a.val o.b.val)))

/-- `LREL` (R355). -/
def execLrel (f : Fields) (s : State) : Host.Outcome State Fault Refusal :=
  unitOp (.lrel f) f s (fun t o => .ok (askUnit t o (.unlease o.a.val)))

/-- `MBAR` (R364, R365). -/
def execMbar (f : Fields) (s : State) : Host.Outcome State Fault Refusal :=
  barrierWordOp (.mbar f) f s (fun t o va =>
    useLatch t o (.mbar f) va (.barMake o.b.val) 0 0 o.b {} none (ownEntries (t.el o.n.elemRef) o.n))

end Sys2Proof.Machine
end

