-- ==== Sys2Proof/Machine/Pod.lean ====
section
/-! DEFINITION. Remote instructions, 0xC0-0xC5, and the sending side of the pod (R434-R443). -/

namespace Sys2Proof.Machine

/-! ## Ports and refusals (R435, R436, R441) -/

/-- MODID is assigned, and its value (R435). -/
def State.modValid (s : State) : Bool := bitAt s.podid 31
def State.modId (s : State) : BitVec 10 := bits s.podid 0 10

/-- The port on which a request from a die to a module leaves (R436); none where the module is unreachable. -/
def podPort (s : State) (die : BitVec 4) (m : BitVec 10) : Option (BitVec 4) :=
  let mask := Map.get s.route 0 m.toNat
  if s.modValid ∧ m ≠ s.modId then
    ((List.range 16).map (fun i => BitVec.ofNat 4 (m.toNat + die.toNat + i))).find? (fun p =>
      mask.getLsbD p.toNat && s.linkUp.getLsbD p.toNat)
  else none

/-- What a REMOTE record says (R441). -/
def remoteFault (va : BitVec 56) (m : BitVec 10) (reason : Nat) (peer : BitVec 8) (path : Path) : FaultInfo :=
  { cause := causeRemote, aux := if reason = 2 then peer else 0, deta := bits va 0 32,
    detb := BitVec.ofNat 32 (m.toNat * 2 ^ 22 + reason * 2 ^ 20 + bitsNat va 32 20), path := path }

/-- The module that a pod request goes to. -/
def Op.podMod : Op → Option (BitVec 10)
  | .podStore m _ => some m
  | .podLoad m => some m
  | .podAdd m _ => some m
  | _ => none

/-- The node whose request it is, for a request of a pod. -/
def Req.podNode (r : Req) : NodeRef := r.stamp.issuer

/-- Requests of one node to one module go and are performed in the order in which they were made (R443). -/
def podInOrder (s : State) (r : Req) (stages : List Stage) : Bool :=
  !s.reqs.any (fun x => decide (x.id < r.id) && decide (x.podNode = r.podNode) && x.op.podMod.isSome
    && decide (x.op.podMod = r.op.podMod) && stages.contains x.stage)

/-- The sequence number of a latch's access. -/
def Requester.seq : Requester → BitVec 8
  | .latch _ seq => seq
  | .query _ seq => seq
  | _ => 0

/-- The message that a pod request becomes. -/
def podMessage (s : State) (r : Req) (p : BitVec 4) : Option PodMessage :=
  let base : PodMessage := { srcMod := s.modId, srcTenant := r.stamp.tenant, port := p, va := r.va, tag := r.id, node := r.stamp.issuer }
  match r.op with
  | .podStore _ ws => some { base with op := .write ws }
  | .podLoad _ => some { base with op := .read false }
  | .podAdd _ n => some { base with op := .add n, seq := r.who.seq }
  | _ => none

/-! ## The pod queue (R442) -/

/-- A domain may take an entry (R442). -/
def mayQueue (s : State) (e : ElemRef) (d : BitVec 4) : Bool :=
  let q := (s.el e).podq
  let owed := fun (p : Node → Bool) => (List.range 16).countP (fun i =>
    let nd := s.nd (e.nodeRef (BitVec.ofNat 4 i))
    p nd && (match nd.flight with
    | some fl => match fl.why, fl.instr with
      | .s4 _ (.late _ _ _ _), .xst _ => true
      | .s4 _ (.late _ _ _ _), .xstv _ => true
      | _, _ => false
    | none => false))
  decide (q.length + owed (fun _ => true) < 16)
    && decide ((q.filter (fun x => decide (x.dom = d))).length + owed (fun nd => decide (domOf nd = d)) < 8)

/-- An entry is made (R440, R442). -/
def makePodEntry (s : State) (n : NodeRef) (opc : BitVec 8) (va : BitVec 56) (m : BitVec 10) (ws : List PWord) : State :=
  let st := s.stampOf n
  let r := s.request (.podq n.elemRef) st va (.podStore m ws) .port [] [] 0
  r.2.updEl n.elemRef (fun e => { e with
    podq := e.podq ++ [{ id := r.1, node := n.node, dom := domOf (s.nd n), stamp := st, va := va, words := ws, opc := opc, mod := m }] })

/-- A store to another module: a poisoned address or module makes no access (R440). -/
def podStore (i : Instr) (f : Fields) (s : State) (data : State → Opnds → List PWord) : Host.Outcome State Fault Refusal :=
  issue i f s (fun o t =>
    match o.base with
    | .error _ => .ok (t, .now { cond := false })
    | .ok _ => if o.b.psn then .ok (t, .now { cond := false }) else .ok (t, .atS4 (data t o)))

/-- S4 of a store to another module: its entry is made and sent (R442). -/
def podStoreAtS4 (i : Instr) (o : Opnds) (ws : List PWord) (s : State) : State × Result :=
  match o.base with
  | .error _ => (s, { cond := false })
  | .ok va => (makePodEntry s o.n (opcOf i) va (bits o.b.val 0 10) ws, { cond := wordsClean ws })

/-- `XST` (R440). -/
def execXst (f : Fields) (s : State) : Host.Outcome State Fault Refusal := podStore (.xst f) f s (fun _ o => [o.d])

/-- `XSTV` (R440). -/
def execXstv (f : Fields) (s : State) : Host.Outcome State Fault Refusal :=
  podStore (.xstv f) f s (fun t o => (t.el o.n.elemRef).vec f.dst.toNat)

/-- `XSIG` (R440): the latch holds n in OPA and b in OPB. -/
def execXsig (f : Fields) (s : State) : Host.Outcome State Fault Refusal :=
  issue (.xsig f) f s (fun o t =>
    match o.base with
    | .error _ => .ok (t, .now { cond := false })
    | .ok va =>
      if o.b.psn then .ok (t, .now { cond := false })
      else
        let n : Word := BitVec.setWidth 32 f.imm
        .ok (useLatch t o (.xsig f) va (.podAdd (bits o.b.val 0 10) n) 0 0 (PWord.clean n) o.b none []))

/-- `XLD` (R440). -/
def execXld (f : Fields) (s : State) : Host.Outcome State Fault Refusal :=
  issue (.xld f) f s (fun o t =>
    match o.base with
    | .error w => .ok (t, .now (poisonResult w))
    | .ok va =>
      if o.b.psn then .ok (t, .now (poisonResult o.b.val))
      else .ok (awaitRequest t o va (.podLoad (bits o.b.val 0 10)) []))

/-- `XWAIT` (R440). -/
def execXwait (f : Fields) (s : State) : Host.Outcome State Fault Refusal :=
  issue (.xwait f) f s (fun o t =>
    match o.base with
    | .error w => .ok (t, .now (poisonResult w))
    | .ok va =>
      if o.b.psn then .ok (t, .now (poisonResult o.b.val))
      else .ok (awaitRequest t o va (.xwait o.b.val) []))

/-- `XFEN` (R440). -/
def execXfen (f : Fields) (s : State) : Host.Outcome State Fault Refusal :=
  issue (.xfen f) f s (fun o t =>
    let ids := ((t.el o.n.elemRef).podq.filter (fun x => decide (x.node = o.n.node))).map StoreEntry.id
    if ids = [] then .ok (t, .now {}) else .ok (t, .later (.release .podFence ids false)))

/-! ## Sending and the peer's answer -/

/-- The edge die on which a port stands (R434). -/
def podPlace (port : BitVec 4) : Place := .edge (decide (8 ≤ port.toNat))

/-- A pod request is sent, or refused at the sender with reason 0 (R441). -/
def sendPod (s : State) (r : Req) (m : BitVec 10) : State × Option Answer :=
  match podPort s r.stamp.issuer.die m, podMessage s r 0 with
  | some p, some msg =>
    if bitsNat r.va 52 4 = 0 then
      let out : PodSent := { mod := m, port := p, msg := some { msg with port := p } }
      (({ s with podSent := s.podSent ++ [out] } : State).setReq { r with stage := .home, podPort := p }, none)
    else (s, some { accepted := false, fault := some (remoteFault r.va m 0 0 r.who.path) })
  | _, _ => (s, some { accepted := false, fault := some (remoteFault r.va m 0 0 r.who.path) })

/-- A message about the access of a latch goes to its peer: the recovery query, or the acknowledgement of its answer (R317, R442). -/
def tellPeer (s : State) (m : BitVec 10) (n : NodeRef) (seq : BitVec 8) (va : BitVec 56) (op : PodOp) : State :=
  match podPort s n.die m with
  | none => s
  | some p => { s with podSent := s.podSent ++ [{ mod := m, port := p, msg := some {
      srcMod := s.modId, srcTenant := (s.stampOf n).tenant, port := p, va := va, op := op, node := n, seq := seq } }] }

/-- The peer's answer: the manual gives the peer's own state no value here, so it is free between performing the request
and refusing it with reason 1 or 2 (R437, R441). -/
def peerAnswer (s : State) (r : Req) (m : BitVec 10) : State × Answer :=
  let a := s.free
  let b := a.2.free
  if bitsNat a.1 0 2 = 1 then (b.2, { accepted := false, fault := some (remoteFault r.va m 1 0 r.who.path) })
  else if bitsNat a.1 0 2 = 2 then
    (b.2, { accepted := false, fault := some (remoteFault r.va m 2 (bits b.1 0 8) r.who.path) })
  else match r.op with
    | .podLoad _ => (b.2, { words := [⟨b.1, bitAt a.1 2⟩] })
    | .podAdd _ _ => (b.2, { cond := bitAt a.1 2 })
    | _ => (b.2, {})

end Sys2Proof.Machine
end

