-- ==== Sys2Proof/Machine/Partition.lean ====
section
/-! DEFINITION. What the service core and the dispatchers reach in a partition's memory: partition addresses, the event
log, binding tables and queue rings (R245, R419, R421, R429), with the fields of regions and task records
(R238, R240, R242-R244). -/

namespace Sys2Proof.Machine

/-! ## Partition addresses (R296, R419) -/

/-- The staging stamp of a partition (R419). -/
def State.stagingStamp (s : State) (p : BitVec 5) : Stamp :=
  { part := p, tenant := bits (s.pcbW p 0x2C) 0 16, keyid := bits (s.pcbW p 0x2C) 16 13 }

/-- Where a partition address lies, under a key that the partition may use; the cause where it faults. -/
def State.partAddr (s : State) (p : BitVec 5) (a : Nat) (k : BitVec 13) (write : Bool) : Except (BitVec 8) Nat :=
  match s.stage2 p a with
  | none => .error causePage
  | some l =>
    let pa := l.base + a % l.size
    if !s.kindOk true { part := p } pa .read then .error causeProt
    else if write && bitAt l.word 48 then .error causeProt
    else if !s.keyOk p k false then .error causeDomain
    else .ok pa

/-- Bytes read at partition addresses; the first cause where any faults. -/
def State.readPart (s : State) (p : BitVec 5) (a n : Nat) (k : BitVec 13) : Except (BitVec 8) (List Byte) :=
  (List.range n).foldl (fun acc i =>
    match acc, s.partAddr p (a + i) k false with
    | .ok bs, .ok pa => .ok (bs ++ [s.byteUnder pa k])
    | .error c, _ => .error c
    | _, .error c => .error c) (.ok [])

/-- An access of a range of partition addresses passes through the caches of its homes, and so do the table entries that
translate it (R290, R299). -/
def State.usePart (s : State) (p : BitVec 5) (a n : Nat) (k : BitVec 13) (write : Bool := false) : State :=
  (linesOf a n).foldl (fun (s : State) a =>
    let s := match s.tableKey p with
      | some key => if s.clk then (walkReads s [] p none key a 3 (s.pcbD p 8)).foldl (fun (s : State) (x : Nat × TableEntry) => s.useLine p x.2.pa key false false) s else s
      | none => s
    match s.partAddr p a k write with
    | .ok pa => s.useLine p pa k write (match s.stage2 p a with
      | some l => bitAt l.word 47
      | none => false)
    | .error _ => s) s

/-- Bytes written at partition addresses, as far as they translate; whether all did. -/
def State.writePart (s : State) (p : BitVec 5) (a : Nat) (k : BitVec 13) (bs : List Byte) : State × Bool :=
  bs.zipIdx.foldl (fun acc x =>
    match acc.1.partAddr p (a + x.2) k true with
    | .ok pa => (acc.1.storeByteUnder pa k x.1, acc.2)
    | .error _ => (acc.1, false)) (s.usePart p a bs.length k true, true)

/-- Bytes of an address range that a partition may write. -/
def State.partWritable (s : State) (p : BitVec 5) (a n : Nat) (k : BitVec 13) : Bool :=
  (List.range (n / 0x10000 + 2)).all (fun i => match s.partAddr p (min (a + 0x10000 * i) (a + n - 1)) k true with
    | .ok _ => true
    | .error _ => false)

/-! ## Signals to the host (R424) -/

/-- The host port of a VF: VFs 1 to NumVFs of the PF of the north port belong to that PF, the next ones, up to the sum, to the
PF of the south port (R424; DESIGN CHOICE, log entry 57). -/
def State.vfPort (s : State) (v : Nat) : Option Bool :=
  let n := (s.hport false).numVfs
  if v = 0 then none
  else if v ≤ n then some false
  else if v ≤ n + (s.hport true).numVfs then some true
  else none

/-- The host port of a function. -/
def State.fnPort (s : State) (fn : BitVec 12) : Bool :=
  if bitsNat fn 0 11 = 0 then bitAt fn 11 else (s.vfPort (bitsNat fn 0 11)).getD false

/-- A function signals one of its MSI-X vectors (R424); a vector that it does not have signals nothing (DESIGN CHOICE, log entry
130). -/
def State.signal (s : State) (fn : BitVec 12) (vec : Nat) : State :=
  if (if bitsNat fn 0 11 = 0 then 2048 else 16) ≤ vec then s
  else s.updHport (s.fnPort fn) (fun (p : HostPort) => { p with signals := Map.modify p.signals 0 (2048 * fn.toNat + vec) (· + 1) })

/-! ## The event log (R421) -/

/-- A full ring counts a further event in the repeat count of its last entry (R421). -/
def logRepeat (s : State) (part : BitVec 5) (n : Nat) : State :=
  let p := s.pt part
  let r := min (p.repeats.toNat + 1) 65535
  let s := s.setPt part { p with repeats := BitVec.ofNat 16 r }
  (s.writePart part (s.pcbD part 0x40 + 16 * (n - 1) + 6) (s.stagingStamp part).keyid (leBytes 2 r)).1

/-- An event enters a partition's log: an entry in ring order and the NOTE signal (R419), or a repeat of the last entry. An
edge die has no die counter: the counter of compute die 0 stamps an event of die 16, that of compute die 1 one of die 17 (DESIGN
CHOICE, log entry 58). -/
def logEvent (s : State) (part : BitVec 5) (origin : Word) (cause : BitVec 8) (die : BitVec 5) : State :=
  if s.pcbValid part then
    let p := s.pt part
    let n := 2 ^ bitsNat (s.pcbW part 0x48) 0 6
    if p.logged < n then
      let s := s.setPt part { p with
        logged := p.logged + 1
        repeats := 0
        notes := p.notes + 1 }
      let s := s.signal (bits (s.pcbW part 0x4C) 0 12) (bitsNat (s.pcbW part 0x4C) 16 11)
      let e := leBytes 4 origin.toNat ++ [cause] ++ [BitVec.setWidth 8 die] ++ [0, 0]
        ++ leBytes 8 (s.dieAt (BitVec.setWidth 4 die)).ctr
      (s.writePart part (s.pcbD part 0x40 + 16 * p.logged) (s.stagingStamp part).keyid e).1
    else logRepeat s part n
  else s

/-- An event on a compute die. -/
def logDie (s : State) (part : BitVec 5) (origin : Word) (cause : BitVec 8) (die : BitVec 4) : State :=
  logEvent s part origin cause (BitVec.setWidth 5 die)

/-- The partition that holds a tile: the one of which the node covers its column (R417). -/
def treeCovers (node : Nat) (die : BitVec 4) (col : Nat) : Bool :=
  let half := 32 + 2 * die.toNat + (if 32 ≤ col then 1 else 0)
  (List.range 6).any (fun k => decide (half / 2 ^ k = node))

def State.partitionAt (s : State) (die : BitVec 4) (col : Nat) : Option (BitVec 5) :=
  ((s.part.find? (fun x => treeCovers (bitsNat (Map.get x.2.pcb 0 0) 22 6) die col))).map
    (fun x => BitVec.ofNat 5 x.1)

/-! ## Regions (R238, R240) -/

/-- A tile of a region by its place from the north-west tile. -/
def Region.tileAt (g : Region) (p : Nat × Nat) : TileRef := ⟨g.die, BitVec.ofNat 11 ((g.row0 + p.1) * 64 + g.col0 + p.2)⟩

/-- The places of a region's tiles in ascending tile index. -/
def Region.places (g : Region) : List (Nat × Nat) :=
  (List.range g.hdr.h).flatMap (fun r => (List.range g.hdr.w).map (fun c => (r, c)))

def Region.tiles (g : Region) : List TileRef := g.places.map g.tileAt
def Region.memTiles (g : Region) : List TileRef := g.tiles.filter (fun t => isMemTile t.tile)
def Region.elems (g : Region) : List ElemRef :=
  (g.tiles.filter (fun t => isCompute t.tile)).flatMap (fun t => (List.range 16).map (fun i => ⟨t.die, t.tile, BitVec.ofNat 4 i⟩))
def Region.nodes (g : Region) : List NodeRef := g.elems.flatMap (fun e => (List.range 16).map (fun i => e.nodeRef (BitVec.ofNat 4 i)))

/-- A tile lies in a region. -/
def Region.holds (g : Region) (t : TileRef) : Bool :=
  decide (g.die = t.die) && decide (g.row0 ≤ tileRow t.tile ∧ tileRow t.tile < g.row0 + g.hdr.h)
    && decide (g.col0 ≤ tileCol t.tile ∧ tileCol t.tile < g.col0 + g.hdr.w)

/-- The region that holds a tile; one that is saved holds none (R404). -/
def State.regionOf (s : State) (t : TileRef) : Option Nat :=
  (s.region.find? (fun x => decide (x.2.st ≠ .saved) && x.2.holds t)).map Prod.fst

/-- The region in which the course of a record stands. -/
def State.regionOfTask (s : State) (d : BitVec 4) (i : Nat) : Option Nat :=
  (s.region.find? (fun x => decide (x.2.die = d) && decide (x.2.task.toNat = i))).map Prod.fst

/-- The memory-tile port that a port word names (R238). -/
def Region.portPlace (g : Region) (w : Word) : TileRef × BitVec 4 := (g.tileAt (bitsNat w 27 5, bitsNat w 21 6), bits w 17 4)

/-- Input port `i`, output port `i` and sink `i` of a course. -/
def Region.inPort (g : Region) (i : Nat) : TileRef × BitVec 4 := g.portPlace (g.hdr.ports.getD i 0)
def Region.outPort (g : Region) (i : Nat) : TileRef × BitVec 4 := g.portPlace (g.hdr.ports.getD (g.hdr.nin + i) 0)
def Region.sinkWord (g : Region) (i j : Nat) : Word := g.hdr.ports.getD (g.hdr.nin + g.hdr.nout + 2 * i + j) 0
def Region.inPortOf (g : Region) (t : TileRef) (p : BitVec 4) : Option Nat := (List.range g.hdr.nin).find? (fun i => decide (g.inPort i = (t, p)))
def Region.outPortOf (g : Region) (t : TileRef) (p : BitVec 4) : Option Nat := (List.range g.hdr.nout).find? (fun i => decide (g.outPort i = (t, p)))
def Region.sinkOf (g : Region) (t : TileRef) (p : BitVec 4) : Option Nat :=
  (List.range g.hdr.nsnk).find? (fun i => decide (g.portPlace (g.sinkWord i 0) = (t, p)))

/-- A token that a port delivers to memory or to an output port: sinks count it, and the first POISON token of the course
enters the event log (R239, R391). -/
def deliver (s : State) (rid : Nat) (t : TileRef) (p : BitVec 4) (tok : Token) : State :=
  let g := s.rg rid
  if tok.kind = kindData ∨ tok.kind = kindPoison then
    let g' := match g.sinkOf t p with
      | some i => { g with sinks := Map.modify g.sinks 0 i (· + 1) }
      | none => g
    if tok.kind = kindPoison ∧ g.logged = false then
      logDie (s.setRg rid { g' with logged := true }) g.part tok.payload (bits tok.payload 0 8) g.die
    else s.setRg rid g'
  else s

/-! ## Task records (R242-R244) -/

def Task.word (t : Task) (i : Nat) : Word := Map.get t.w 0 i
def Task.setWord (t : Task) (i : Nat) (v : Word) : Task := { t with w := Map.set t.w i v }
/-- The `n` bits of word `i` from bit `lo` on. -/
def Task.field (t : Task) (i lo n : Nat) : Nat := bitsNat (t.word i) lo n
def Task.setField (t : Task) (i lo n v : Nat) : Task := t.setWord i (setBits (t.word i) lo n v)

def Task.state (t : Task) : Nat := t.field 0 28 4
def Task.gen (t : Task) : Nat := t.field 0 20 8
def Task.prio (t : Task) : Nat := t.field 0 17 3
def Task.tol (t : Task) : Bool := bitAt (t.word 0) 16
def Task.hard (t : Task) : Bool := bitAt (t.word 0) 15
def Task.expf (t : Task) : Bool := bitAt (t.word 0) 14
def Task.inhd (t : Task) : Bool := bitAt (t.word 0) 13
def Task.ntfy (t : Task) : Bool := bitAt (t.word 0) 12
def Task.keep (t : Task) : Bool := bitAt (t.word 0) 11
def Task.rmok (t : Task) : Bool := bitAt (t.word 0) 10
def Task.nsuc (t : Task) : Nat := t.field 0 7 3
def Task.qslot (t : Task) : BitVec 6 := bits (t.word 0) 0 6
def Task.cnt (t : Task) : Nat := t.field 1 16 16
def Task.init (t : Task) : Nat := t.field 1 0 16
def Task.image (t : Task) : Nat := (t.word 2).toNat + t.field 3 0 24 * 2 ^ 32
def Task.budget (t : Task) : Nat := (t.word 4).toNat
def Task.deadline (t : Task) : Nat := (t.word 5).toNat + (t.word 6).toNat * 2 ^ 32
def Task.setDeadline (t : Task) (d : Nat) : Task :=
  (t.setWord 5 (BitVec.ofNat 32 d)).setWord 6 (BitVec.ofNat 32 (d / 2 ^ 32))
def Task.part (t : Task) : BitVec 5 := bits (t.word 7) 11 5
def Task.wde (t : Task) : Nat := t.field 7 6 5
def Task.staged? (t : Task) (i : Nat) : Bool := bitAt (t.word 8) (16 + i)
def Task.bind (t : Task) (i : Nat) : Nat := t.field (9 + i / 2) (16 * (i % 2)) 16
def Task.succ (t : Task) (k : Nat) : DWord := t.word (18 + 2 * k) ++ t.word (17 + 2 * k)
def Task.setSucc (t : Task) (k : Nat) (e : DWord) : Task :=
  (t.setWord (17 + 2 * k) (bits e 0 32)).setWord (18 + 2 * k) (bits e 32 32)

/-- DEADLINE of a record that has none. -/
def noDeadline : Nat := 2 ^ 64 - 1

/-- Fields of a successor entry (R244). -/
def sucKind (e : DWord) : Nat := bitsNat e 62 2
def sucMod (e : DWord) : BitVec 10 := bits e 52 10
def sucLoc (e : DWord) : Bool := bitAt e 51
def sucDie (e : DWord) : BitVec 4 := bits e 47 4
def sucIndex (e : DWord) : Nat := bitsNat e 33 14
def sucGen (e : DWord) : Nat := bitsNat e 25 8
def sucOport (e : DWord) : Nat := bitsNat e 22 3
def sucIport (e : DWord) : Nat := bitsNat e 19 3

/-- An entry is not malformed (R244). -/
def sucOk (e : DWord) : Bool :=
  if sucKind e = 3 then false
  else if sucKind e = 2 then sucLoc e
  else if sucKind e = 1 then decide (bitsNat e 0 25 = 0)
  else true

/-- The reserved field of a successor entry is zero (R244). -/
def sucZeros (e : DWord) : Bool := decide (bitsNat e 0 19 = 0)

/-- A task reference (R243), and its parts. -/
def taskRef (die : BitVec 4) (index gen : Nat) : Word := BitVec.ofNat 32 (die.toNat * 2 ^ 28 + index * 2 ^ 14 + gen * 2 ^ 6)
def refDie (w : Word) : BitVec 4 := bits w 28 4
def refIndex (w : Word) : Nat := bitsNat w 14 14
def refGen (w : Word) : Nat := bitsNat w 6 8

def State.task (s : State) (d : BitVec 4) (i : Nat) : Task := Map.get (s.dieAt d).task {} i
def State.setTask (s : State) (d : BitVec 4) (i : Nat) (t : Task) : State :=
  s.updDie d (fun x => { x with task := Map.set x.task i t })
def State.updTask (s : State) (d : BitVec 4) (i : Nat) (f : Task → Task) : State := s.setTask d i (f (s.task d i))

/-- The record of the course that holds an element: its die and index. -/
def State.taskOf (s : State) (e : ElemRef) : Option (BitVec 4 × Nat) :=
  (s.el e).region.map (fun r => ((s.rg r).die, (s.rg r).task.toNat))

/-! ## Queue rings (R429) -/

/-- Where an access for a queue lands, and the key of the page it reaches; the cause where it faults. -/
def State.queueAddr (s : State) (die : BitVec 4) (q : QSlot) (va : Nat) (write : Bool) : Except (BitVec 8) (Nat × BitVec 13) :=
  let tenant : BitVec 16 := bits (Map.get q.rec_ 0 2) 0 16
  match s.xlate (s.dieTlb die) q.part tenant (va % 2 ^ 56) with
  | none => .error causePage
  | some e =>
    let pa := e.out (va % 2 ^ 56)
    if !s.kindOk true e pa (if write then .write else .read) then .error causeProt
    else if !s.keyOk q.part e.keyid true then .error causeDomain
    else if s.tearingAs q.pasid pa then .error causePage
    else match s.hostAddrAs (Map.get s.ats false q.fn.toNat) q.pasid pa with
      | some pa => .ok (pa, e.keyid)
      | none => .error causePage

/-- An access of a range for a queue passes through its die's translation unit and the caches of the homes (R290, R302, R429); it
waits where no tracker is free. -/
def State.queueTouch (s : State) (die : BitVec 4) (q : QSlot) (va n : Nat) (write : Bool) : State × Bool :=
  let st : Stamp := { part := q.part, tenant := bits (Map.get q.rec_ 0 2) 0 16, issuer := ⟨die, 0, 0, 0⟩ }
  let vas := (linesOf va n).map (· % 2 ^ 56)
  let w := walkNow s st vas
  (vas.foldl (fun (s : State) va => match s.queueAddr die q va write with
    | .ok p => unitUses s (s.dieTlb die) st va p write
    | .error _ => s) w.1, w.2)

/-- Words that an access for a queue reads. -/
def State.queueRead (s : State) (die : BitVec 4) (q : QSlot) (va n : Nat) : Except (BitVec 8) (List Word) :=
  (List.range n).foldl (fun acc i =>
    match acc, s.queueAddr die q (va + 4 * i) false with
    | .ok ws, .ok p => .ok (ws ++ [(s.loadUnder p.1 p.2).val])
    | .error c, _ => .error c
    | _, .error c => .error c) (.ok [])

/-- Words that an access for a queue writes; whether all were. -/
def State.queueWrite (s : State) (die : BitVec 4) (q : QSlot) (va : Nat) (ws : List Word) : State × Bool :=
  ws.zipIdx.foldl (fun acc x =>
    match acc.1.queueAddr die q (va + 4 * x.2) true with
    | .ok p => (homeStore acc.1 p.1 p.2 (PWord.clean x.1), acc.2)
    | .error _ => (acc.1, false)) (s, true)

/-- An access for a queue waits for the host's translation (R425). -/
def State.queueHost (s : State) (die : BitVec 4) (q : QSlot) (va : Nat) : Bool :=
  let tenant : BitVec 16 := bits (Map.get q.rec_ 0 2) 0 16
  match s.xlate (s.dieTlb die) q.part tenant (va % 2 ^ 56) with
  | none => false
  | some e =>
    let pa := e.out (va % 2 ^ 56)
    !s.tearingAs q.pasid pa && (s.hostAddrAs (Map.get s.ats false q.fn.toNat) q.pasid pa).isNone

/-- A registered queue. -/
def State.queueReg (s : State) (fn : BitVec 12) (q : BitVec 6) : Option QReg :=
  s.qreg.find? (fun r => decide (r.fn = fn) && decide (r.q = q))
def State.updQreg (s : State) (fn : BitVec 12) (q : BitVec 6) (f : QReg → QReg) : State :=
  { s with qreg := s.qreg.map (fun r => if r.fn = fn ∧ r.q = q then f r else r) }

/-- A queue enters error (R431): ERRST is written into its record, its slot stops and VEC is signalled. The first error
stays. -/
def regError (s : State) (fn : BitVec 12) (q : BitVec 6) (reason : Nat) : State :=
  match s.queueReg fn q with
  | none => s
  | some r =>
    if r.err ≠ 0 then s
    else
      let s := s.updQreg fn q (fun (r : QReg) => { r with
        err := reason
        bell := none })
      let s := s.updDie r.die (fun d => { d with slot := d.slot.map (fun x =>
        (x.1, if x.2.mapped ∧ x.2.fn = fn ∧ x.2.q = q then { x.2 with err := reason } else x.2)) })
      let s := (s.writePart r.part (r.addr.toNat + 0x8C) (s.stagingStamp r.part).keyid (leBytes 4 reason)).1
      s.signal fn r.vec

/-- A mapped queue enters error. -/
def queueError (s : State) (die : BitVec 4) (slot : Nat) (reason : Nat) : State :=
  let q := Map.get (s.dieAt die).slot {} slot
  if q.mapped then regError s q.fn q.q reason else s

end Sys2Proof.Machine
end

