-- ==== Sys2Proof/Machine/Net.lean ====
section
/-! DEFINITION. The mortar's routers and their four virtual networks: flits, buffers, grants, and the routes of edges and of
messages (R168, R176-R180, R185). -/

namespace Sys2Proof.Machine

/-! ## Places and routes (R4, R176, R185) -/

/-- The local port of an edge's end at its router: an element's, or a memory tile's fabric port. -/
def localPort : Port → Nat
  | .out n _ => n.elem.toNat
  | .inp n _ => n.elem.toNat
  | .tile _ p => p.toNat

/-- The tile of an end of an edge. -/
def portTile : Port → TileRef
  | .out n _ => ⟨n.die, n.tile⟩
  | .inp n _ => ⟨n.die, n.tile⟩
  | .tile t _ => t

/-- The input port of the fan-out units of a router. -/
def fanPort : Nat := 20

/-- Row and column of a tile in the grid of the whole module, the dies side by side (R3, R185). -/
def gridRow (t : TileRef) : Nat := t.die.toNat / 4 * 32 + tileRow t.tile
def gridCol (t : TileRef) : Nat := t.die.toNat % 4 * 64 + tileCol t.tile
def gridTile (r c : Nat) : TileRef := ⟨BitVec.ofNat 4 (r / 32 * 4 + c / 64), BitVec.ofNat 11 (r % 32 * 64 + c % 64)⟩

/-- The places from `a` to `b` in turn, `a` left out. -/
def between (a b : Nat) : List Nat :=
  if a ≤ b then (List.range (b - a)).map (fun i => a + i + 1) else (List.range (a - b)).map (fun i => a - i - 1)

/-- The column in which a route turns south or north: the destination's, moved to the next odd one where the route crosses
from one row of dies to another, since the bridge links leave at odd columns (R185). -/
def turnCol (a b : TileRef) : Nat :=
  if a.die.toNat / 4 = b.die.toNat / 4 then gridCol b else if gridCol b % 2 = 1 then gridCol b else gridCol b + 1

/-- The routers of a route that the dispatcher or a message takes, the first left out: along the row, along the column, and
along the row again (DESIGN CHOICE, log entry 54). -/
def routeTo (a b : TileRef) : List TileRef :=
  let c := turnCol a b
  (between (gridCol a) c).map (gridTile (gridRow a)) ++ (between (gridRow a) (gridRow b)).map (fun r => gridTile r c)
    ++ (between c (gridCol b)).map (gridTile (gridRow b))

/-- The side of a router on which its neighbour stands: 16 north, 17 south, 18 east, 19 west. -/
def sideOf (a b : TileRef) : Nat :=
  if gridRow b < gridRow a then 16 else if gridRow a < gridRow b then 17 else if gridCol a < gridCol b then 18 else 19

/-- Cycles from the grant at one router to the earliest grant at the next (R168, R185). -/
def hopTime (a b : TileRef) : Nat := if a.die = b.die then 2 else 8

/-- The input port of the edge die's end of a bridge link, and the output port behind it. -/
def bridgePort : Nat := 21
def edgePort : Nat := 22

/-- The side of a router on which the bridge links of an edge die stand: the north or the south one. -/
def edgeSide (south : Bool) : Nat := if south then 17 else 16

/-- The router whose bridge link a route to or from an edge die takes: that of the first odd column from one on (R185). -/
def edgeRouter (south : Bool) (c : Nat) : TileRef := gridTile (if south then 127 else 0) (if c % 2 = 1 then c else c + 1)

/-! ## Flits (R178) -/

/-- The flit of an edge's tokens: EDGE, CNT and TOK. -/
def flitWord (num : BitVec 12) (ts : List Token) : BitVec 128 :=
  BitVec.ofNat 128 (num.toNat * 2 ^ 116 + ts.length * 2 ^ 114
    + ((ts.zipIdx.map (fun x => ((x.1.kind.toNat * 8 + x.1.fmt.toNat) * 2 ^ 32 + x.1.payload.toNat) * 2 ^ (38 * x.2))).sum))

def flitEdge (w : BitVec 128) : BitVec 12 := bits w 116 12
def flitCount (w : BitVec 128) : Nat := bitsNat w 114 2

/-- The tokens of a flit, in their order. -/
def flitTokens (w : BitVec 128) : List Token :=
  (List.range (flitCount w)).map (fun j =>
    { kind := bits w (38 * j + 35) 3, fmt := bits w (38 * j + 32) 3, payload := bits w (38 * j) 32 })

/-- The router at the end of a flit's route. -/
def Flit.last (f : Flit) : TileRef := f.path.getLastD f.here

/-- The edge whose tokens a flit of virtual network 0 carries. -/
def State.flitOwner (s : State) (f : Flit) : Option Edge := match f.load with
  | .toks w => (Map.values s.edge).find? (fun e => decide (e.num = flitEdge w) && decide (portTile e.dst = f.last))
  | _ => none

/-- A flit of an edge's tokens. -/
def carries (s : State) (e : Edge) (f : Flit) : Bool := match s.flitOwner f with
  | some x => decide (x.id = e.id)
  | none => false

/-- Tokens of an edge that stand in router buffers. -/
def tokensOut (s : State) (e : Edge) : List Token :=
  (s.net.filter (carries s e)).flatMap (fun f => match f.load with
    | .toks w => flitTokens w
    | _ => [])

/-- Flits in the buffer of an input port on a virtual network. -/
def bufferUse (s : State) (t : TileRef) (inp : Nat) (vn : BitVec 2) : Nat :=
  s.net.countP (fun f => !f.waits && decide (f.here = t) && decide (f.inp = inp) && decide (f.vn = vn))

/-- An input port of a router holds a credit on a virtual network: a buffer has 4 entries (R177). -/
def hasEntry (s : State) (t : TileRef) (inp : Nat) (vn : BitVec 2) : Bool := decide (bufferUse s t inp vn < 4)

/-- A local port may begin a message on a virtual network at once: it holds a credit and nothing waits before it. -/
def portCredit (s : State) (t : TileRef) (inp : Nat) (vn : BitVec 2) : Bool :=
  hasEntry s t inp vn && !s.net.any (fun f => f.waits && decide (f.here = t) && decide (f.inp = inp) && decide (f.vn = vn))

/-- The input port of a router through which an edge's tokens leave their source: the element's or tile's, or that of the
fan-out units. -/
def edgeInput (e : Edge) : Nat := if e.fan.isSome then fanPort else localPort e.src

/-- Tokens of an edge enter the buffer of their source's router (R168). -/
def injectTokens (s : State) (e : Edge) (ts : List Token) : State :=
  { s with net := s.net ++ [{ vn := 0, load := .toks (flitWord e.num ts), here := portTile e.src, inp := edgeInput e, path := e.path,
                              out := localPort e.dst, ready := s.cycle }] }

/-! ## What leaves in a cycle -/

/-- The control strip's tile in the row of a tile: where the model has messages leave mortar for the request port, the cache of
its die or the service core, and enter it from there (DESIGN CHOICE, log entry 54). -/
def stripTile (t : TileRef) : TileRef := ⟨t.die, BitVec.ofNat 11 (tileRow t.tile * 64)⟩
def stripPlace (t : TileRef) : Place := .port (stripTile t) 0

/-- Where a die's dispatcher stands, and an element (R176, R469). -/
def dispatchPlace (d : BitVec 4) : Place := .port (dispatchTile d) 0
def elemPlace (e : ElemRef) : Place := .port e.tileRef e.elem.toNat

/-- The end of a message's route: the router and its output port, for a message that comes from a column. -/
def routeEnd (q : Place) (c : Nat) : TileRef × Nat := match q with
  | .port t p => (t, p)
  | .edge south => (edgeRouter south c, edgeSide south)

/-- A message that leaves one place for another; none where it is there already. From an edge die it comes over the bridge link
of its destination's column (R185). -/
def messageFlit (s : State) (vn : BitVec 2) (load : FlitLoad) (src dst : Place) : Option Flit :=
  if src = dst then none
  else
    let go := fun (a : TileRef) (inp c ready : Nat) =>
      let z := routeEnd dst c
      ({ vn := vn, load := load, here := a, inp := inp, waits := true, path := routeTo a z.1, out := z.2, ready := ready } : Flit)
    match src with
    | .port t p => some (go t p (gridCol t) s.cycle)
    | .edge south =>
      let c := match dst with
        | .port t _ => gridCol t
        | .edge _ => 1
      some (go (edgeRouter south c) (edgeSide south) c (s.cycle + 8))

/-- Where a requester stands; none for one that stands at no router. -/
def requesterPlace : Requester → Option Place
  | .node n => some (elemPlace n.elemRef)
  | .latch n _ => some (elemPlace n.elemRef)
  | .query n _ => some (elemPlace n.elemRef)
  | .sbuf e => some (elemPlace e)
  | .podq e => some (elemPlace e)
  | .port t p => some (.port t p.toNat)
  | _ => none

/-- Control travels on virtual network 1, both ways; memory accesses do not (R177, R469). -/
def Op.control : Op → Bool
  | .stream _ _ => true
  | .streamStat _ _ => true
  | .readSel _ _ => true
  | .writeSel _ _ _ => true
  | .rearm _ => true
  | .mark _ => true
  | .saveImage _ => true
  | .restore _ => true
  | o => o.dispatched

/-- The place of the unit that answers a request that needs no translation: the tile or node that it names, or the dispatcher
(R352, R383, R469). A query goes to the record's die (R268). -/
def unitPlace (r : Req) : Place :=
  let die := r.stamp.issuer.die
  let sel := fun (a : Word) (k : BitVec 6) => if tileSelector k.toNat then Place.port ⟨die, bits a 8 11⟩ (bitsNat a 0 4)
    else elemPlace (targetNode die a).elemRef
  match r.op with
  | .stream b _ => .port ⟨die, bits b 4 11⟩ (bitsNat b 0 4)
  | .streamStat b _ => .port ⟨die, bits b 4 11⟩ (bitsNat b 0 4)
  | .readSel a k => sel a k
  | .writeSel a _ k => sel a k
  | .rearm a => elemPlace (targetNode die a).elemRef
  | .query a => dispatchPlace (refDie a)
  | .flush south => .edge south
  | _ => dispatchPlace die

/-- The home of an address (R273, R289): a bank's tile, an element, an edge die, or the cache of a die at the control strip in
the row of the requester (DESIGN CHOICE, log entry 54). -/
def State.placeOf (s : State) (pa : Nat) (t : TileRef) : Place := match s.target pa with
  | .bank m b => .port m b
  | .store e _ => elemPlace e
  | .dram d => stripPlace ⟨d, t.tile⟩
  | .host south => .edge south
  | .hole => stripPlace t

/-- The home that a recovery query of a latch asks, where its request passed the request port (R317, R442). -/
def State.queryPlace (s : State) (r : Req) : Place :=
  let t : TileRef := ⟨r.stamp.issuer.die, r.stamp.issuer.tile⟩
  match r.op.podMod with
  | some m => (match podPort s t.die m with
    | some p => podPlace p
    | none => stripPlace t)
  | none => match s.xlate (s.dieTlb t.die) r.stamp.part r.stamp.tenant r.va.toNat with
    | some e => s.placeOf (e.out r.va.toNat) t
    | none => stripPlace t

/-- Where a request goes as it leaves its requester: to the inbox of its owner (R314), to its die's request port (R305), or to
the unit that answers it. -/
def firstPlace (s : State) (r : Req) : Place := match r.own, r.who with
  | some x, _ => elemPlace x.elem
  | none, .query _ _ => s.queryPlace r
  | none, _ => if r.stage = .home then unitPlace r else stripPlace ⟨r.stamp.issuer.die, r.stamp.issuer.tile⟩

/-- The flit of a request that leaves: a query takes the route of the request that it names, by way of the request port (R317). -/
def leaveFlit (s : State) (r : Req) (p : Place) : Option Flit :=
  let st := stripPlace ⟨r.stamp.issuer.die, r.stamp.issuer.tile⟩
  match r.own, r.who with
  | none, .query _ _ =>
    let f := messageFlit s 2 (.msg r.id) p st
    match f, messageFlit s 2 (.msg r.id) st (s.queryPlace r) with
    | some x, some y => some { x with
        path := x.path ++ y.path
        out := y.out }
    | _, _ => f
  | _, _ => messageFlit s (if r.op.control then 1 else 2) (.msg r.id) p (firstPlace s r)

/-- A request goes on from its request port to its home (R273). -/
def goHome (s : State) (r : Req) (q : Place) : State :=
  let s := s.setReq { r with
    stage := .home
    place := some q }
  match r.place with
  | none => s
  | some p => { s with net := s.net ++ (messageFlit s 2 (.msg r.id) p q).toList }

/-- The element and tag that a reference names (R353). -/
def tagPlace (ref : Word) : ElemRef × Nat := (⟨bits ref 28 4, bits ref 17 11, bits ref 13 4⟩, bitsNat ref 9 4)

/-- The entries that a request waits for are acknowledged (R306, R309, R313, R365). -/
def State.afterDone (s : State) (r : Req) : Bool :=
  let e := s.el r.stamp.issuer.elemRef
  r.after.all (fun id => !(e.sbuf.any (fun x => decide (x.id = id))))

/-- Bytes from a request's address on for whose words its element's entries go first (R313): those of its access, or all that
a `PCLR` is to clear. -/
def orderedBytes (s : State) (r : Req) : Nat := match r.op with
  | .presClear n =>
    let line := match s.xlate (s.dieTlb r.stamp.issuer.die) r.stamp.part r.stamp.tenant r.va.toNat with
      | some e => s.isDram (e.out r.va.toNat)
      | none => false
    n * (if line then 64 else 4)
  | _ => 4 * r.op.access.1

/-- An entry of the element names a word of the request. -/
def wordsBuffered (s : State) (r : Req) : Bool :=
  (s.el r.stamp.issuer.elemRef).sbuf.any (fun x => decide (x.stamp.tenant = r.stamp.tenant)
    && (wordVas x.va x.words.length).any (fun w =>
      decide ((w.2 / 4 * 4 + (2 ^ 56 - r.va.toNat / 4 * 4)) % 2 ^ 56 < orderedBytes s r)))

/-- Credits of an owner's inbox that are taken: its entries, and the requests on their way to it (R314). -/
def inboxUse (s : State) (x : OwnedBy) : Nat :=
  (Map.get (s.el x.elem).inbox {} x.box).entries.length
    + s.reqs.countP (fun r => !r.leaving && decide (r.stage ≠ .kept) && (match r.own with
      | some y => decide (y.elem = x.elem) && decide (y.box = x.box)
      | none => false))

/-- A request to an owner may leave: the inbox has a credit for it and for the requests that leave before it in the cycle
(R314). -/
def hasCredit (s : State) (r : Req) : Bool := match r.own with
  | none => true
  | some x =>
    let before := s.reqs.countP (fun z => z.leaving && decide (z.id < r.id) && decide (z.from_ ≤ s.cycle) && (match z.own with
      | some y => decide (y.elem = x.elem) && decide (y.box = x.box)
      | none => false))
    decide (inboxUse s x + before < 8)

/-- A request may leave its element: its S3 has come, the entries that it waits for are acknowledged, for a latch access every
entry of the element for its words is, and it has its inbox's credit (R305, R313, R314, R365). -/
def mayLeave (s : State) (r : Req) : Bool :=
  decide (r.from_ ≤ s.cycle) && (r.acquire || s.afterDone r) && (match r.who with
    | .latch .. => r.op.podMod.isSome || !wordsBuffered s r
    | _ => true) && hasCredit s r

/-- A request as it leaves: an acquire load waits at its home for the entries of other nodes for its words (R309). -/
def departed (s : State) (r : Req) : Req :=
  { r with
    leaving := false
    left := s.cycle
    place := (requesterPlace r.who).map (fun _ => firstPlace s r)
    after := if r.acquire then
        entriesFor (s.el r.stamp.issuer.elemRef) r.stamp.tenant r.va r.op.access.1 (fun x => decide (x.node ≠ r.stamp.issuer.node))
      else r.after }

/-- A latch request leaves its element: SENT becomes 1 (R316). -/
def latchLeaves (s : State) (r : Req) : State := match r.who with
  | .latch n _ => s.updNd n (fun nd => { nd.setLatchBit 30 true with lsent := s.cycle })
  | _ => s

/-- From where to where a decrement goes: from a node to the dispatcher of its die, from there or from a pod port to that of
the record (R267, R416, R444, R469). -/
def DecMsg.leg (m : DecMsg) : Place × Place := match m.node, m.pod with
  | some n, _ => (elemPlace n.elemRef, dispatchPlace m.src)
  | none, some x => (.edge (decide (8 ≤ x.1.toNat)), dispatchPlace (refDie m.ref))
  | none, none => (dispatchPlace m.src, dispatchPlace (refDie m.ref))

/-- The flits of the messages that leave in this cycle: memory requests on virtual network 2 and their responses on 3; control
both ways, tag acknowledgements, decrements and trap records on 1 (R177, R416, R469). -/
def newMessages (s : State) : List Flit :=
  (s.reqs.filter (fun r => r.leaving && mayLeave s r)).filterMap (fun r => (requesterPlace r.who).bind (leaveFlit s r))
    ++ (s.resps.filter Resp.leaving).filterMap (fun r => (requesterPlace r.who).bind (fun q => r.src.bind (fun p =>
      messageFlit s (if r.op.control then 1 else 3) (.msg r.id) p q)))
    ++ (s.tags.filter TagMsg.leaving).filterMap (fun m =>
      let e := (tagPlace m.ref).1
      messageFlit s 1 (.msg m.id) (stripPlace e.tileRef) (elemPlace e))
    ++ (s.decs.filter DecMsg.leaving).filterMap (fun m => messageFlit s 1 (.msg m.id) m.leg.1 m.leg.2)
    ++ (s.traps.filter Trap.leaving).filterMap (fun x => x.sender.bind (fun n =>
      messageFlit s 1 (.msg x.id) (elemPlace n.elemRef) (match x.dest with
        | some m => elemPlace m.elemRef
        | none => stripPlace n.elemRef.tileRef)))

/-- The messages that leave in this cycle set out. -/
def launchMessages (s : State) : State :=
  { (s.reqs.filter (fun r => r.leaving && mayLeave s r)).foldl latchLeaves s with
    net := s.net ++ newMessages s
    reqs := s.reqs.map (fun r => if r.leaving && mayLeave s r then departed s r else r)
    resps := s.resps.map (fun r => { r with leaving := false })
    tags := s.tags.map (fun m => { m with leaving := false })
    decs := s.decs.map (fun m => { m with leaving := false })
    traps := s.traps.map (fun x => { x with leaving := false }) }

/-- The entries of an edge's destination that pops have freed and whose credits have not left. -/
def freedBy (s : State) (e : Edge) : Nat := match e.dst with
  | .inp n k => Map.get (s.nd n).freed 0 k.toNat
  | .tile t p => (Map.get (s.tl t).ports {} p.toNat).freed
  | .out _ _ => 0

/-- The credits of freed entries set out for the source of their edge on virtual network 1 (R167, R168). -/
def launchCredits (s : State) : State :=
  (Map.values s.edge).foldl (fun s e =>
    let n := freedBy s e
    if n = 0 then s
    else
      let f : Flit := { vn := 1, load := .credit e.id, here := portTile e.dst, inp := localPort e.dst, waits := true,
                        path := (portTile e.src :: e.path).reverse.drop 1, out := localPort e.src, ready := s.cycle }
      let s := { s with net := s.net ++ List.replicate n f }
      match e.dst with
      | .inp m k => s.updNd m (fun nd => { nd with freed := Map.erase nd.freed k.toNat })
      | .tile t p => s.updTl t (fun m => { m with ports := Map.modify m.ports {} p.toNat (fun (x : TPort) => { x with freed := 0 }) })
      | .out _ _ => s) s

/-- A local port has begun a flit in this cycle (R176). -/
def portBusy (s : State) (t : TileRef) (inp : Nat) : Bool :=
  if 16 ≤ inp then false
  else if isCompute t.tile then decide ((s.el ⟨t.die, t.tile, BitVec.ofNat 4 inp⟩).sentAt = some s.cycle)
  else decide ((Map.get (s.tl t).ports {} inp).sentAt = some s.cycle)

/-- Each local port takes one waiting flit into its buffer: the first whose virtual network has an entry (R176, R177). A token
that the port has taken in this cycle goes before every waiting flit (DESIGN CHOICE, log entry 109). -/
def enterWaiting (s : State) : State :=
  let go := fun (acc : List (TileRef × Nat) × List Flit) (f : Flit) =>
    let held := f.waits && (acc.1.contains (f.here, f.inp) || portBusy s f.here f.inp || !hasEntry s f.here f.inp f.vn)
    if f.waits && !held then ((f.here, f.inp) :: acc.1, acc.2 ++ [{ f with waits := false }]) else (acc.1, acc.2 ++ [f])
  { s with net := (s.net.foldl go ([], [])).2 }

/-! ## Grants (R177) -/

/-- The output port of its router that a flit waits for: a side, or a local port. -/
def outPort (f : Flit) : Nat := match f.path with
  | [] => f.out
  | t :: _ => sideOf f.here t

/-- The end of a route is a bridge link to an edge die. -/
def Flit.crosses (f : Flit) : Bool := decide (f.path = []) && (decide (f.out = 16) || decide (f.out = 17))

/-- The flit may go on: its next buffer has an entry; the end of a route takes it (R177, R180, R185). -/
def mayGo (s : State) (f : Flit) : Bool := match f.path with
  | [] => !f.crosses || hasEntry s f.here bridgePort f.vn
  | t :: _ => hasEntry s t (sideOf t f.here) f.vn

/-- The flits that stand first in their buffers and that an output port may grant in this cycle. -/
def heads (s : State) : List Flit :=
  (s.net.foldl (fun (acc : List (TileRef × Nat × BitVec 2) × List Flit) f =>
    let k := (f.here, f.inp, f.vn)
    if f.waits || acc.1.contains k then acc
    else (k :: acc.1, if decide (f.ready ≤ s.cycle) && mayGo s f then acc.2 ++ [f] else acc.2)) ([], [])).2

/-- Where an output port's rotation stands: the virtual network served last, and on each the input port served last. -/
def grantKey (t : TileRef) (out : Nat) (vn : Option (BitVec 2)) : Nat :=
  (t.key * 32 + out) * 8 + (match vn with
    | some v => v.toNat
    | none => 4)

/-- The flit that an output port grants among those that ask for it: the next virtual network in rotation, and in it the
next input port. -/
def grantAt (s : State) (asks : List Flit) (t : TileRef) (out : Nat) : Option Flit :=
  let vns := (List.range 4).map (fun i => BitVec.ofNat 2 (Map.get s.grants 0 (grantKey t out none) + i + 1))
  match vns.find? (fun v => asks.any (fun f => decide (f.vn = v))) with
  | none => none
  | some v =>
    let ins := (List.range 22).map (fun i => (Map.get s.grants 0 (grantKey t out (some v)) + i + 1) % 22)
    ins.findSome? (fun i => asks.find? (fun f => decide (f.vn = v) && decide (f.inp = i)))

/-- Flits that follow a granted one and whose tokens it takes along: the next ones of the same edge in its buffer that have
come to the output port, while there are no more than three tokens (R178). -/
def packed : List Flit → BitVec 128 → Nat → List Flit
  | [], _, _ => []
  | f :: fs, w, room => match f.load with
    | .toks v => if flitEdge v = flitEdge w ∧ flitCount v ≤ room then f :: packed fs w (room - flitCount v) else []
    | _ => []

/-- The flits that leave with a granted one, itself first. -/
def leaves (s : State) (f : Flit) : List Flit := match f.load with
  | .toks w =>
    let behind := (s.net.filter (fun x => !x.waits && decide (x.here = f.here) && decide (x.inp = f.inp) && decide (x.vn = f.vn))).drop 1
    f :: packed (behind.filter (fun x => decide (x.ready ≤ s.cycle))) w (3 - flitCount w)
  | _ => [f]

/-- One load of the flits that leave together. -/
def joined (fs : List Flit) (f : Flit) : FlitLoad := match f.load with
  | .toks w => .toks (flitWord (flitEdge w) (fs.flatMap (fun x => match x.load with
    | .toks v => flitTokens v
    | _ => [])))
  | l => l

/-- The host port and the pod ports of an edge die are open from its step 4 on (R462). -/
def State.edgeOpen (s : State) (south : Bool) : Bool :=
  let d := if south then 17 else 16
  s.dadm.getLsbD d && !s.admitting.getLsbD d

/-- A die is admitted: from the cycle after that in which its bit of DADM was set (R463). -/
def State.admitted (s : State) (d : BitVec 4) : Bool := s.dadm.getLsbD d.toNat && !s.admitting.getLsbD d.toNat

/-- The log entry of a dropped decrement. -/
def logStale (s : State) (d : BitVec 4) (p : BitVec 5) : State :=
  logDie s p (originWord d.toNat 0 0 0 true causeStaleTask) causeStaleTask d

/-- A decrement reaches a dispatcher: that of its record, behind those that came before it, the die's own of
the same cycle among them (R249; DESIGN CHOICE, log entry 132); or that of the die from
which it goes on to another, or is dropped where that die is not admitted (R416). -/
def arriveDec (s : State) (m : DecMsg) : State :=
  let s := { s with decs := s.decs.filter (fun x => decide (x.id ≠ m.id)) }
  let put := fun (x : DecMsg) => { s with decs := s.decs ++ [x] }
  if m.node.isNone ∨ refDie m.ref = m.src then put { m with node := none }
  else if s.admitted (refDie m.ref) then put { m with
    node := none
    leaving := true }
  else logStale s m.src m.part

/-- A flit reaches the end of its route: tokens stand at the edge stage of their channel, a credit at its source, a permit in
its channel; a message is there. -/
def arriveFlit (s : State) (f : Flit) : State := match f.load with
  | .toks w => match s.flitOwner { f with path := [] } with
    | some e => s.updEd e.id (fun e => { e with flight := e.flight ++ flitTokens w })
    | none => s
  | .credit id => if (Map.find s.edge id).isSome then s.updEd id (fun e => { e with back_ := e.back_ + 1 }) else s
  | .msg id => match s.decs.find? (fun m => decide (m.id = id)) with
    | some m => arriveDec s m
    | none => s
  | .config _ => s
  | .space n k t => if (s.nd n).st = .off ∧ (s.nd n).aligned.isNone then s else s.updNd n (fun nd => nd.enterCi k t)

/-- A granted flit, with what is packed into it, moves on; the region of the router fires (R265). -/
def moveFlit (s : State) (f : Flit) : State :=
  let fs := leaves s f
  let out := outPort f
  let s := { s with
    net := fs.foldl List.erase s.net
    grants := Map.set (Map.set s.grants (grantKey f.here out none) f.vn.toNat) (grantKey f.here out (some f.vn)) f.inp }
  let s := match s.regionOf f.here with
    | some r => s.updRg r (fun g => { g with fired := true })
    | none => s
  match f.path with
  | [] => if f.crosses then { s with net := s.net ++ [{ f with
        inp := bridgePort
        out := edgePort
        ready := s.cycle + 8 }] }
    else arriveFlit s { f with load := joined fs f }
  | t :: rest => { s with net := s.net ++ [{ f with
      load := joined fs f
      here := t
      inp := sideOf t f.here
      path := rest
      ready := s.cycle + hopTime f.here t }] }

/-- Every router output port grants one flit (R177). -/
def moveNet (s : State) : State :=
  let hs := heads s
  let outs := (hs.map (fun f => (f.here, outPort f))).dedup
  (outs.filterMap (fun o => grantAt s (hs.filter (fun f => decide ((f.here, outPort f) = o))) o.1 o.2)).foldl moveFlit s

/-- Credits that came back in this cycle may be spent from the next one (R168). -/
def settleCredits (s : State) : State :=
  { s with edge := s.edge.map (fun e => (e.1, if e.2.due = 0 then e.2 else { e.2 with
      credits := e.2.credits + e.2.due
      due := 0 })) }

/-- Mortar at the end of a cycle: what left in the cycle enters the buffers, and each output port grants a flit. -/
def netTick (s : State) : State := moveNet (enterWaiting (launchMessages (launchCredits (settleCredits s))))

/-! ## Messages that have come -/

/-- A message of a number is still on its way. -/
def State.onWay (s : State) (id : Nat) : Bool := s.net.any (fun f => decide (f.load = .msg id))

/-- A request has reached the port, home or unit that it goes to. -/
def reqHere (s : State) (r : Req) : Bool := !r.leaving && !s.onWay r.id

/-- The element that a response goes to. -/
def Requester.isPeer : Requester → Bool
  | .peer .. => true
  | _ => false
def Requester.elem? : Requester → Option ElemRef
  | .node n => some n.elemRef
  | .latch n _ => some n.elemRef
  | .query n _ => some n.elemRef
  | .sbuf e => some e
  | .podq e => some e
  | _ => none

/-- A response has reached its requester, no earlier than a dispatcher's may (R469). -/
def respHere (s : State) (r : Resp) : Bool := !r.leaving && !s.onWay r.id && decide (r.floor ≤ s.cycle)

/-- A message of virtual network 1 has come. -/
def tagHere (s : State) (m : TagMsg) : Bool := !m.leaving && !s.onWay m.id
def decHere (s : State) (m : DecMsg) : Bool := !m.leaving && m.node.isNone && !s.onWay m.id
def trapHere (s : State) (x : Trap) : Bool := !x.leaving && !s.onWay x.id

/-! ## Numbers and load limits (R178, R179) -/

/-- The dies that an edge's route touches. -/
def edgeDies (src : TileRef) (path : List TileRef) : List (BitVec 4) := (src.die :: path.map TileRef.die).dedup

/-- The first EDGE number that no resident route on the dies of a route has. -/
def freeNumber (s : State) (dies : List (BitVec 4)) : BitVec 12 :=
  let used := ((Map.values s.edge).filter (fun e => (edgeDies (portTile e.src) e.path).any (fun d => dies.contains d))).map Edge.num
  BitVec.ofNat 12 (((List.range 4096).find? (fun n => !used.contains (BitVec.ofNat 12 n))).getD 0)

/-- Flits whose edge is given up go with it. -/
def dropFlits (s : State) : State :=
  { s with net := s.net.filter (fun f => match f.load with
    | .toks _ => (s.flitOwner f).isSome
    | .credit e => (Map.find s.edge e).isSome
    | .config r => (Map.find s.region r).isSome
    | .msg _ => true
    | .space _ _ _ => true) }

end Sys2Proof.Machine
end

