-- ==== Sys2Proof/Machine/Requests.lean ====
section
/-! DEFINITION. Requests between their node and their home: the request port, acknowledgements and refusals, replies to
the retry latch, recovery queries and update inboxes; and the end of a long operation (R42, R302-R318, R441-R443). -/

namespace Sys2Proof.Machine

/-- LONG_OPERATION_COMPLETE (R41, R42): the S4 of a long operation or a CX firing, in the cycle that its class gives. -/
def execLongOperationComplete (n : NodeRef) (s : State) : Host.Outcome State Fault Refusal :=
  .next (match (s.nd n).flight with
  | some fl => match fl.why with
    | .long due r => if due ≤ s.cycle then complete s n r else s
    | _ => s
  | none => s)

/-! ## The request port (R300, R302, R305) -/

/-- The words that the entry behind a store-buffer request names. -/
def sameWord (x y : StoreEntry) : Bool := (wordVas x.va x.words.length).any (fun w => y.covers x.stamp.tenant w.2)

/-- No earlier entry of the element for the same word waits at one of these stages (R306). -/
def entryOrder (s : State) (r : Req) (stages : List Stage) : Bool :=
  match r.who with
  | .sbuf e =>
    let q := (s.el e).sbuf
    (match q.find? (fun x => decide (x.id = r.id)) with
    | none => true
    | some x => q.all (fun y => !(decide (y.id < r.id) && sameWord y x
        && s.reqs.any (fun z => decide (z.id = y.id) && stages.contains z.stage))))
  | _ => true

/-- A refused request stays for the resume of its node, and its refusal is on its way (R305, R307, R316). -/
def refuseReq (s : State) (r : Req) (fi : FaultInfo) : State :=
  (s.setReq { r with stage := .kept }).answer r { accepted := false, fault := some fi }

/-- The addresses that the host gives for the words of a request (R425). -/
def hostWords (s : State) (r : Req) (ps : List (Nat × BitVec 13)) : Option (List (Nat × BitVec 13)) :=
  ps.mapM (fun p => (s.hostAddr r.stamp.part r.stamp.tenant p.1).map (fun a => (a, p.2)))

/-- What a host-window request reports that is turned away with a cause (R425, R432). -/
def hostFault (r : Req) (cause : BitVec 8) : FaultInfo := accessFault cause 0 r.va r.op.access.2.1.writes r.who.path

/-- A request that has to wait for its host port to have fewer than 4,096 non-posted requests outstanding (R424). -/
def portFull (s : State) (r : Req) (ps : List (Nat × BitVec 13)) : Bool :=
  decide (r.stage = .port) && s.noRoom ps

/-- The bits of an address above the pod's 52 are zero in the remote opcode that has no module of its own (R439). -/
def Op.farVa (op : Op) (va : BitVec 56) : Bool := match op with
  | .xwait _ => decide (bitsNat va 52 4 ≠ 0)
  | _ => false

/-- A request passes its die's request port: translated and checked, it leaves for its home; or it waits for the host's
translation, or is refused. A bad address of `XWAIT` is REMOTE of this module (R439, R441; DEDUCED, log entry 125). -/
def passPort (s : State) (r : Req) : State :=
  if r.op.farVa r.va then refuseReq s r (remoteFault r.va s.modId 0 0 r.who.path)
  else match s.checkReq r with
  | .error fi => refuseReq s r fi
  | .ok ps =>
    if ps.any (fun p => s.tearing r.stamp.part r.stamp.tenant p.1) then refuseReq s r (hostFault r causePage)
    else if portFull s r ps then s
    else
      match hostWords s r ps with
      | none => s.setReq { r with
          stage := .ats
          pas := ps
          gen := Map.get s.pasidGen 0 (s.pasidOf r.stamp.part r.stamp.tenant).toNat }
      | some ps =>
        let nc := (wordVas r.va r.op.access.1).map (fun w =>
          match s.xlate (s.dieTlb r.stamp.issuer.die) r.stamp.part r.stamp.tenant w.2 with
          | some e => e.nc
          | none => false)
        goHome s { r with
          pas := ps
          nc := nc } (match ps with
            | p :: _ => s.placeOf p.1 ⟨r.stamp.issuer.die, r.stamp.issuer.tile⟩
            | [] => stripPlace ⟨r.stamp.issuer.die, r.stamp.issuer.tile⟩)

/-! ## Walks (R302, R303) -/

/-- A request that its die's port has to translate. -/
def translates (s : State) (r : Req) : Bool :=
  reqHere s r && decide (r.stage = .port) && r.op.podMod.isNone && r.own.isNone

/-- The 64-KiB pages of a request's words. -/
def Req.pages (r : Req) : List Nat := ((wordVas r.va r.op.access.1).map (fun w => w.2 / 0x10000)).dedup

/-- The misses of the requests that wait at their ports. -/
def startWalks (s : State) : State :=
  (s.reqs.filter (translates s)).foldl (fun s r => r.pages.foldl (fun s page => startWalk s r.stamp page) s) s

/-! ## Responses to a parked node (R305) -/

/-- An awaited transition takes its answer: a fault, or its S4. -/
def takeAnswer (s : State) (n : NodeRef) (p : Resp) (f : Fields) (i : Instr) : State :=
  match p.ans.fault with
  | some fi => faultInFlight s n fi
  | none =>
    match p.op with
    | .cxBlock c _ =>
      let r := finishLoad s n c p.ans.words
      complete r.1 n r.2
    | _ => complete s n (answerResult i f p.op p.ans)

/-- The read of a host flush has completed: what the port acknowledged before is visible (R309). -/
def flushDone (s : State) (n : NodeRef) (id : Nat) (south : Bool) : State :=
  releaseEvent (s.updNd n (fun nd => { nd with hostAck := setBits nd.hostAck (if south then 1 else 0) 1 0 })) n id

/-- MEMORY_RESPONSE (R305). -/
def execMemoryResponse (id : Nat) (s : State) : Host.Outcome State Fault Refusal :=
  .next (match (s.resp id).filter (respHere s) with
  | none => s
  | some p =>
    match p.who with
    | .node n =>
      let s := s.dropResp id
      (match p.op, (s.nd n).flight with
      | .flush south, _ => flushDone s n id south
      | _, some fl => match fl.why, fl.instr.fields with
        | .await id', some f => if id' = id then takeAnswer s n p f fl.instr else s
        | _, _ => s
      | _, none => s)
    | _ => s)

/-! ## Acknowledgement and refusal of stores (R306, R307, R442) -/

/-- The queue of an element that an entry stands in. -/
def Elem.queueOf (e : Elem) (pod : Bool) : List StoreEntry := if pod then e.podq else e.sbuf
def Elem.setQueue (e : Elem) (pod : Bool) (q : List StoreEntry) : Elem := if pod then { e with podq := q } else { e with sbuf := q }

/-- An acknowledged entry is freed; a host port that acknowledged it is noted (R306, R309). -/
def storeDone (s : State) (e : ElemRef) (pod : Bool) (p : Resp) : State :=
  let q := (s.el e).queueOf pod
  let s := s.dropResp p.id
  match q.find? (fun x => decide (x.id = p.id)) with
  | none => s
  | some x =>
    let n := e.nodeRef x.node
    let port : BitVec 2 := match p.ans.words.head? with
      | some w => bits w.val 0 2
      | none => 0
    let s := s.updEl e (fun el => el.setQueue pod (q.filter (fun y => decide (y.id ≠ p.id))))
    let s := s.updNd n (fun nd => { nd with hostAck := nd.hostAck ||| port })
    releaseEvent s n p.id

/-- STORE_ACK (R306). -/
def execStoreAck (id : Nat) (s : State) : Host.Outcome State Fault Refusal :=
  .next (match (s.resp id).filter (respHere s) with
  | none => s
  | some p =>
    if p.ans.fault.isSome then s
    else match p.who with
    | .sbuf e => storeDone s e false p
    | .podq e => storeDone s e true p
    | _ => s)

/-- The entries that a refusal makes HELD: the refused one and, in the pod queue, every later one of its node to the same
module (R441). -/
def heldBy (q : List StoreEntry) (pod : Bool) (x : StoreEntry) : List Nat :=
  (q.filter (fun y => decide (y.id = x.id)
    || (pod && decide (x.id < y.id) && decide (y.node = x.node) && decide (y.mod = x.mod)))).map StoreEntry.id

/-- AUX of a refused entry: its number in the store buffer but for a key refusal and a remote one (R379, R441). -/
def entryFault (fi : FaultInfo) (pod : Bool) (index : Nat) : FaultInfo :=
  if pod ∨ fi.cause = causeDomain then fi else { fi with aux := BitVec.ofNat 8 index }

/-- A refused entry becomes HELD and its node faults (R307). A node in OFF has no HELD entries: the entry is dropped. -/
def storeRefused (s : State) (e : ElemRef) (pod : Bool) (p : Resp) (fi : FaultInfo) : State :=
  let q := (s.el e).queueOf pod
  let s := s.dropResp p.id
  match q.find? (fun x => decide (x.id = p.id)) with
  | none => s.dropReq p.id
  | some x =>
    let n := e.nodeRef x.node
    if (s.nd n).st = .off ∧ (s.nd n).aligned.isNone then
      (s.dropReq p.id).updEl e (fun el => el.setQueue pod (q.filter (fun y => decide (y.id ≠ p.id))))
    else
      let ids := heldBy q pod x
      let reqs := s.reqs.map (fun (r : Req) =>
        if ids.contains r.id && decide (r.stage = Stage.port ∨ (pod = true ∧ r.stage = Stage.home)) then { r with stage := Stage.kept } else r)
      let kept := (reqs.filter (fun (r : Req) => decide (r.stage = Stage.kept))).map Req.id
      let s : State := { s with
        reqs := reqs
        net := s.net.filter (fun f => !(pod && ids.any (fun id => decide (f.load = .msg id)))) }
      let s := s.updEl e (fun el => el.setQueue pod (q.map (fun (y : StoreEntry) =>
        if ids.contains y.id && kept.contains y.id then { y with held := true } else y)))
      faultFromOutside s n 0 x.opc (entryFault fi pod (q.findIdx (fun y => decide (y.id = p.id))))

/-- STORE_REFUSAL (R307). -/
def execStoreRefusal (id : Nat) (s : State) : Host.Outcome State Fault Refusal :=
  .next (match (s.resp id).filter (respHere s) with
  | none => s
  | some p =>
    match p.ans.fault, p.who with
    | some fi, .sbuf e => storeRefused s e false p fi
    | some fi, .podq e => storeRefused s e true p fi
    | _, _ => s)

/-! ## Replies to the retry latch (R316-R318) -/

/-- The element acknowledges a reply on receipt (R317). -/
def acknowledge (s : State) (id : Nat) : State :=
  { s with logs := s.logs.map (fun x => if x.id = id then { x with acked := true } else x) }

/-- The request of a latch made again from the latch's words, with the same SEQ (R317). The lanes of a `GSTV.p` are read
again from the register that DSTC names. -/
def remakeLatch (s : State) (n : NodeRef) : State :=
  let nd := s.nd n
  let w := nd.latchAt 0
  let op := if bitsNat w 0 8 = 0xAE then .presWrite ((s.el n.elemRef).vec (bitsNat w 20 5)) else nd.latchOp
  let va : BitVec 56 := bits (nd.latchAt 2) 0 24 ++ nd.latchAt 1
  let r : Req := { id := s.serial, who := .latch n nd.lseq, stamp := s.stampOf n, va := va, op := op
                   own := if bitAt w 25 then ownerOf s n va.toNat else none, rply := decide (bitsNat w 0 8 ≠ 0xA9) }
  { s with
    serial := s.serial + 1
    reqs := s.reqs ++ [r] }

/-- The home never had the request: it is sent again (R317). -/
def notTaken (s : State) (n : NodeRef) : State :=
  let s := s.updNd n (fun nd => nd.setLatchBit 30 false)
  match s.latchReq n with
  | some r => s.setReq r.again
  | none => remakeLatch s n

/-- A reply reaches the latch whose access it answers. -/
def latchAnswer (s : State) (n : NodeRef) (a : Answer) : State :=
  let nd := s.nd n
  if a.notTaken then notTaken s n
  else
    let parked := nd.flight.any (fun fl => decide (fl.why = .latch))
    match a.fault with
    | some fi =>
      if a.accepted && parked && nd.flight.any InFlight.rearmed then completeLatch s n a
      else if a.accepted then
        let s := holdReply s n a
        if parked then faultInFlight s n fi else s
      else
        let s := s.updNd n (fun nd => nd.setLatchBit 30 false)
        if parked then faultInFlight s n fi else s
    | none => if parked then completeLatch s n a else holdReply s n a

/-- LATCH_REPLY (R316): a reply of another sequence number, or for an empty latch, is only acknowledged. -/
def execLatchReply (id : Nat) (s : State) : Host.Outcome State Fault Refusal :=
  .next (match (s.resp id).filter (respHere s) with
  | none => s
  | some p =>
    match p.who with
    | .latch n seq =>
      let s := acknowledge (s.dropResp id) id
      let s := match p.op.podMod with
        | some m => if p.ans.accepted && !p.ans.notTaken then tellPeer s m n seq p.va .ack else s
        | none => s
      if (s.nd n).latchValid && decide ((s.nd n).lseq = seq) then latchAnswer s n p.ans else s
    | _ => s)

/-- What a latch timeout reports (R379). -/
def timeoutFault (nd : Node) : FaultInfo :=
  { cause := causeSoft, aux := nd.lseq, deta := nd.latchAt 1, detb := BitVec.ofNat 32 (bitsNat (nd.latchAt 2) 0 24), path := .latch }

/-- LATCH_TIMEOUT (R316): no answer within 2^20 cycles of SENT. -/
def execLatchTimeout (n : NodeRef) (s : State) : Host.Outcome State Fault Refusal :=
  let nd := s.nd n
  .next (if nd.st = .parked ∧ nd.latchValid ∧ nd.latchSent ∧ nd.latchRpv = false ∧ nd.lsent + 2 ^ 20 ≤ s.cycle then
    faultInFlight s n (timeoutFault nd) else s)

/-- The answer of a home's log under (requester, SEQ). -/
def State.logged (s : State) (n : NodeRef) (seq : BitVec 8) : Option LogEntry :=
  s.logs.find? (fun x => decide (x.mod = none) && decide (x.node = n) && decide (x.seq = seq))

/-- A request of the latch still waits at its home, or in an owner's inbox. -/
def State.stillWaits (s : State) (n : NodeRef) (seq : BitVec 8) : Bool :=
  s.reqs.any (fun r => decide (r.who = .latch n seq) && decide (r.stage ≠ .kept))
    || s.elem.any (fun e => e.2.inbox.any (fun b => b.2.entries.any (fun x => decide (x.req = n) && decide (x.seq = seq))))

/-- RECOVERY_QUERY (R317): a home answers from its log, after the request itself, or that it never had it. What the log of
a peer module holds the manual leaves to the peer (R442). -/
def execRecoveryQuery (id : Nat) (s : State) : Host.Outcome State Fault Refusal :=
  .next (match (s.req id).filter (reqHere s) with
  | none => s
  | some r =>
    match r.who with
    | .query n seq =>
      let reply := fun (s : State) (id : Nat) (a : Answer) =>
        { s with resps := s.resps ++ [({ id := id, who := .latch n seq, op := r.op, va := r.va, ans := a, src := r.place } : Resp)] }
      (match s.logged n seq with
      | some x => reply (s.dropReq id) x.id x.ans
      | none =>
        if s.stillWaits n seq then s
        else match r.op.podMod with
        | some m =>
          let a := (tellPeer s m n seq r.va .query).free
          if bitAt a.1 0 then reply (a.2.dropReq id) id { notTaken := true }
          else
            let b := peerAnswer a.2 r m
            reply (b.1.dropReq id) id b.2
        | none => reply (s.dropReq id) id { notTaken := true })
    | _ => s)

/-- REPLY_ACKNOWLEDGEMENT (R317): an acknowledged log entry is freed. -/
def execReplyAcknowledgement (id : Nat) (s : State) : Host.Outcome State Fault Refusal :=
  .next { s with logs := s.logs.filter (fun x => !(x.acked && decide (x.id = id))) }

/-! ## Update inboxes (R314) -/

/-- The entry that an atomic becomes (R314): all of it from the request, as its S3 made it. -/
def inboxEntryOf (n : NodeRef) (seq : BitVec 8) (off : BitVec 15) (r : Req) : InboxEntry :=
  let base : InboxEntry := { off := off, rply := r.rply, req := n, seq := seq }
  match r.op with
  | .cas exp new => { base with
      opb := new.val
      opa := exp.val
      psb := new.psn
      psa := exp.psn
      op := 12 }
  | .atomic op rm v => { base with
      opa := v.val
      psa := v.psn
      op := op
      rm := rm }
  | _ => base

/-- An update that its inbox accepts is answered at once (R315). -/
def answerUpdate (s : State) (e : ElemRef) (n : NodeRef) (seq : BitVec 8) (r : Req) : State :=
  let s := s.answer r {}
  { s with logs := s.logs ++ [{ id := r.id, home := .inbox e, node := n, seq := seq, ans := {} }] }

/-- INBOX_ENTRY (R314, R330): an atomic routed to an owner enters its inbox; only ALIGN can fault it. The range of a course
that has gone takes none (DEDUCED, log entry 131). -/
def execInboxEntry (id : Nat) (s : State) : Host.Outcome State Fault Refusal :=
  .next (match s.req id with
  | none => s
  | some r =>
    match r.who, r.own with
    | .latch n seq, some o =>
      if reqHere s r ∧ r.stage = .port then
        if r.va.toNat % 4 ≠ 0 then refuseReq s r (accessFault causeAlign 0 r.va true .latch)
        else if (s.el o.elem).region ≠ some o.region then s.dropReq id
        else
          let box := Map.get (s.el o.elem).inbox {} o.box
          if box.entries.length < 8 ∧ s.logRoom (.inbox o.elem) then
            let x := inboxEntryOf n seq o.off r
            let s := s.dropReq id
            let s := s.updEl o.elem (fun el => { el with inbox := Map.set el.inbox o.box { box with entries := box.entries ++ [x] } })
            if x.rply then s else answerUpdate s o.elem n seq r
          else s
      else s
    | _, _ => s)

end Sys2Proof.Machine
end

