-- ==== Sys2Proof/Machine/Domain.lean ====
section
/-! DEFINITION. Parking and waking, gates, and domain instructions: 0xD0-0xD4, 0xD8, 0xD9, 0xF2, 0xF3 (R141-R162). -/

namespace Sys2Proof.Machine

/-- `PARK` (R144): its S3 consumes a pending wake, or parks the node until `WAKE` names it (`parkAtS3`). -/
def execPark (f : Fields) (s : State) : Host.Outcome State Fault Refusal :=
  issue (.park f) f s (fun _ t => .ok (t, .atS4 []))

/-- S3 of `PARK` (R42, R144): a pending wake is consumed and the transition completes at S4 with condition 0; without one
the node parks. -/
def parkAtS3 (s : State) (n : NodeRef) (fl : InFlight) (due : Nat) : State :=
  s.updNd n (fun nd =>
    if nd.wpend then { nd with
      wpend := false
      flight := some { fl with why := .s4 due (.done { cond := false }) } }
    else { nd with
      st := .parked
      flight := some { fl with why := .park } })

/-- The release of a node parked by `PARK` or by a CX trap at the end of this cycle (R143, R145, R235): its S4 falls in the
next cycle, and it is eligible from the one after. A trapped slot fires again first. None where the node is in no such
park. -/
def releaseParked (s : State) (n : NodeRef) : Option State :=
  match (s.nd n).st, (s.nd n).flight with
  | .parked, some fl =>
    match fl.why with
    | .park => some (s.updNd n (fun nd => { nd with
        st := .run
        nextAt := s.cycle + 2
        flight := some { fl with why := .s4 (s.cycle + 1) (.done { cond := true }) } }))
    | .cxTrap => some (s.updNd n (fun nd => { nd with
        st := .run
        nextAt := s.cycle + 2
        flight := none
        prefer := some fl.slot }))
    | _ => none
  | _, _ => none

/-- S4 of `WAKE` (R145). -/
def wakeAtS4 (o : Opnds) (s : State) : State × Result :=
  let n := o.n.elemRef.nodeRef (bits o.a.val 0 4)
  match releaseParked s n with
  | some s => (s, { cond := true })
  | none => (s.updNd n (fun nd => { nd with wpend := true }), { cond := false })

/-- `WAKE` (R145): it acts at its S4 (`wakeAtS4`). -/
def execWake (f : Fields) (s : State) : Host.Outcome State Fault Refusal :=
  issue (.wake f) f s (fun o t =>
    if o.a.psn then .ok (t, .now { cond := false })
    else
      let n := o.n.elemRef.nodeRef (bits o.a.val 0 4)
      if domOf (t.nd n) ≠ domOf o.nd ∧ t.privileged o.n = false then .error (nodeFault n.node.toNat)
      else .ok (t, .atS4 []))

/-- A GATE fault at gate `g` (R160, R161, R379). -/
def gateMisuse (g : Nat) : FaultInfo := { cause := causeGate, aux := BitVec.ofNat 8 g }

/-- `LNTL` sends one argument to gate G; with LAST it enters the callee (R160). The tests come before the claim of S1. A
gate that is being scrubbed raises DOMAIN (R155). From the issue of `LNTL.last` to its S4 the callee is not eligible. -/
def lintel (i : Instr) (f : Fields) (last : Bool) (s : State) : Host.Outcome State Fault Refusal :=
  issue i f s (fun o t =>
    let gi := bitsNat f.imm 0 3
    let k := bits f.imm 4 2
    let e := t.el o.n.elemRef
    let g := e.gateAt gi
    let callee := o.n.elemRef.nodeRef (gateNode g)
    let cst := (t.nd callee).st
    if e.scrubbing (.gate gi) then .error (resourceFault 0 (.gate gi))
    else if gateValid g = false ∨ gateSsn g = 3 ∨ callee = o.n ∨ cst = .off ∨ cst = .faulted
        ∨ (gateSsn g = 1 ∧ gateRci g ≠ k) ∨ gateCnt g = gateArgs g + 1 then .error (gateMisuse gi)
    else
      let g0 := g
      let g := if gateSsn g = 0 then setBits (setBits (setBits g 29 2 1) 12 4 o.n.node.toNat) 4 2 k.toNat else g
      let t := t.updEl o.n.elemRef (fun e => { e.setGate gi (setBits g 0 4 (gateCnt g + 1)) with
        gateOff := if gateSsn g0 = 0 then setBits e.gateOff gi 1 0 else e.gateOff })
      let t := if last then t.updNd callee (fun nd => { nd with nextAt := max nd.nextAt (s.cycle + 4) }) else t
      .ok (t, .atS4 []))

/-- S4 of `LNTL`: the argument enters the callee's ci3, and LAST makes the session ACTIVE and gives the callee the entry P
(R160). A session that ended between S1 and S4 takes nothing. -/
def lintelAtS4 (last : Bool) (o : Opnds) (s : State) : State × Result :=
  let gi := bitsNat o.f.imm 0 3
  let g := (s.el o.n.elemRef).gateAt gi
  let callee := o.n.elemRef.nodeRef (gateNode g)
  let r : Result := { cond := !o.a.psn }
  if gateSsn g = 1 ∧ gateCaller g = o.n.node then
    let s := s.updNd callee (fun nd => nd.enterCi 3 (tokenOf kindData 0 o.a))
    if last then
      ((s.updEl o.n.elemRef (fun e => e.setGate gi (setBits g 29 2 2))).updNd callee (fun nd => { nd with p := gateEntry g }), r)
    else (s, r)
  else (s, r)

/-- `LNTL` (R160). -/
def execLntl (f : Fields) (s : State) : Host.Outcome State Fault Refusal := lintel (.lntl f) f false s

/-- `LNTL.last` (R160). -/
def execLntlLast (f : Fields) (s : State) : Host.Outcome State Fault Refusal := lintel (.lntlLast f) f true s

/-- S4 of `GRET` (R161, R162): STOP1 on co[RET], P := 0x00, and the session ends. Where the caller entered OFF in ACTIVE the
replies are discarded and the gate is IDLE at once. -/
def gretAtS4 (o : Opnds) (s : State) : State × Result :=
  let r : Result := { cond := !o.a.psn }
  match activeGate (s.el o.n.elemRef) o.n.node with
  | none => (s, r)
  | some i =>
    let e := s.el o.n.elemRef
    let g := setBits (setBits (e.gateAt i) 29 2 0) 0 4 0
    let gone := bitAt e.gateOff i
    let q := (s.nd o.n).coq (gateRet g)
    let before := drainBefore e i
    let s := s.setEl o.n.elemRef { e.setGate i (setBits g 28 1 (if gone then 0 else 1)) with
      gateOff := setBits e.gateOff i 1 0
      gateDrain := if gone then e.gateDrain else e.gateDrain ++ [(i, q.length + 1 - before)] }
    (s.updNd o.n (fun nd => { nd with p := 0 }.setCo (gateRet g) (if gone then q.take before else q ++ [tokenOf kindStop1 0 o.a])), r)

/-- `GRET` (R161): it ends the session at its S4 (`gretAtS4`). Where no gate is ACTIVE the fault names gate 0 (DESIGN CHOICE,
log entry 108). -/
def execGret (f : Fields) (s : State) : Host.Outcome State Fault Refusal :=
  issue (.gret f) f s (fun o t =>
    match activeGate (t.el o.n.elemRef) o.n.node with
    | none => .error (gateMisuse 0)
    | some _ => .ok (t, .atS4 []))

/-- `DID` (R156). -/
def execDid (f : Fields) (s : State) : Host.Outcome State Fault Refusal :=
  issue (.did f) f s (fun o t =>
    let sel := bitsNat f.imm 0 3
    if sel = 0 then .ok (t, .now (cleanResult 0 (byValue (BitVec.setWidth 32 (domOf o.nd)))))
    else if o.a.psn then .ok (t, .now (poisonResult o.a.val))
    else
      let d := bits o.a.val 0 4
      if d ≠ domOf o.nd ∧ t.privileged o.n = false then .error (nodeFault d.toNat)
      else
        let x := t.domEntry o.n.elemRef d
        let w : Word := if sel = 1 then bits x 0 32 else if sel = 2 then bits x 32 32
          else (t.el o.n.elemRef).pwordAt d (sel - 3)
        .ok (t, .now (cleanResult 0 (byValue w))))

/-- The resource that bit `b` of partition word `w` stands for; none for a reserved bit (R150). -/
def resourceOf (w b : Nat) : Option Resource :=
  if w = 0 then
    if b < 12 then some (.bank b) else if b < 16 then some (.mbox (b - 12)) else if b < 24 then some (.vgrp (b - 16))
    else if b < 28 then some (.acc (b - 24)) else none
  else if w = 1 then some (.cell b)
  else if b < 8 then some (.gate b) else none

/-- Cycles that the scrub of a resource takes (R155). -/
def scrubTime : Resource → Nat
  | .bank _ => 256
  | .vgrp _ => 2
  | _ => 1

/-- OPF of the configured matrix section, and the accumulator banks that it uses (R210, R220). -/
def Matrix.opf (m : Matrix) : Nat := bitsNat m.wordA 0 3
def Matrix.banks (m : Matrix) : List Nat := if m.opf = 2 ∨ m.opf = 3 then [bitsNat m.wordA 4 2] else [0, 1, 2, 3]

/-- The matrix section uses a resource in RUN, HOLD or DONE (R219). -/
def Matrix.holds (m : Matrix) (r : Resource) : Bool :=
  decide (m.st = .run ∨ m.st = .hold ∨ m.st = .done) && (match r with
    | .acc k => m.banks.contains k
    | _ => false)

/-- `DPART` may not change the words so (R154, R219). -/
def partRefused (e : Elem) (d : BitVec 4) (w : Nat) (old new : Word) : Bool :=
  (List.range 32).any (fun b =>
    match resourceOf w b with
    | none => bitAt new b
    | some r =>
      (bitAt new b && !bitAt old b && (e.ownedByOther d r || e.scrubbing r))
        || (bitAt old b && !bitAt new b && ((decide (w = 2) && decide (gateSsn (e.gateAt b) ≠ 0)) || e.mx.holds r)))

/-- S4 of `DPART` (R154, R155): lost resources become scrubbing and are free when the scrub ends. -/
def dpartAtS4 (o : Opnds) (s : State) : State × Result :=
  let d := bits o.a.val 0 4
  let w := bitsNat o.f.imm 0 2
  let e := s.el o.n.elemRef
  let old := e.pwordAt d w
  if entValid (s.domEntry o.n.elemRef d) = false ∨ partRefused e d w old o.b.val then
    (s, { dst := some (PWord.clean old), cond := false })
  else
    let lost := (List.range 32).filterMap (fun b => if bitAt old b ∧ bitAt o.b.val b = false then resourceOf w b else none)
    (s.setEl o.n.elemRef { e with
      pword := Map.set e.pword (3 * d.toNat + w) o.b.val
      scrub := e.scrub ++ lost.map (fun r => (r, s.cycle + scrubTime r)) }, { dst := some (PWord.clean old), cond := true })

/-- `DPART` (R154): it acts at its S4 (`dpartAtS4`). -/
def execDpart (f : Fields) (s : State) : Host.Outcome State Fault Refusal :=
  issue (.dpart f) f s (fun o t =>
    match o.psn with
    | some w => .ok (t, .now (poisonResult w))
    | none => .ok (t, .atS4 []))

/-- An edge or fan-out takes its tokens from an output channel (R158). -/
def coBound (t : State) (n : NodeRef) (k : BitVec 2) : Bool :=
  (Map.values t.edge).any (fun e => decide (e.src = .out n k)) || (Map.values t.fanout).any (fun x => decide (x.src = .out n k))

/-- The entry that `GATE` leaves: the RW fields of a, SSN IDLE and CNT 0 (R158, R159). -/
def gateWritten (old a : Word) : Word :=
  let rw : Word := 0x8FFF07C0
  setBits (setBits ((old &&& ~~~rw) ||| (a &&& rw)) 29 2 0) 0 4 0

/-- S4 of `GATE` (R159). Where the write is refused d still receives the old entry (DEDUCED, log entry 32). -/
def gateAtS4 (o : Opnds) (s : State) : State × Result :=
  let gi := bitsNat o.f.imm 0 3
  let e := s.el o.n.elemRef
  let old := e.gateAt gi
  let callee := o.n.elemRef.nodeRef (gateNode o.a.val)
  if (gateSsn old ≠ 0 ∧ gateSsn old ≠ 3) ∨ gateRdrn old ∨ e.owns (domOf (s.nd callee)) (.gate gi) = false
      ∨ ccBound ((s.nd callee).ccfgAt 3) ∨ coBound s callee (gateRet o.a.val) then
    (s, { dst := some (PWord.clean old), cond := false })
  else
    (s.setEl o.n.elemRef { e.setGate gi (gateWritten old o.a.val) with gateOff := setBits e.gateOff gi 1 0 }, { dst := some (PWord.clean old), cond := true })

/-- `GATE` (R159): it acts at its S4 (`gateAtS4`). -/
def execGate (f : Fields) (s : State) : Host.Outcome State Fault Refusal :=
  issue (.gate f) f s (fun o t => if o.a.psn then .ok (t, .now (poisonResult o.a.val)) else .ok (t, .atS4 []))

/-- Nodes of a domain in an element that are not in OFF (R157). -/
def liveNodes (t : State) (e : ElemRef) (d : BitVec 4) : Nat :=
  (List.range 16).countP (fun i =>
    let nd := t.nd (e.nodeRef (BitVec.ofNat 4 i))
    decide (domOf nd = d) && decide (nd.st ≠ .off))

/-- S4 of `ISPZ` and `UNPZ` (R157). -/
def suspendAtS4 (susp : Bool) (o : Opnds) (s : State) : State × Result :=
  let d := bits o.a.val 0 4
  let x := s.domEntry o.n.elemRef d
  if d = domOf o.nd ∨ entValid x = false ∨ entSusp x = susp then (s, { dst := some (PWord.clean 0), cond := false })
  else
    let s := s.updEl o.n.elemRef (fun e => { e with dtab := Map.set e.dtab d.toNat (setBits x 61 1 (if susp then 1 else 0)) })
    (s, { dst := some (PWord.clean (BitVec.ofNat 32 (liveNodes s o.n.elemRef d))), cond := true })

/-- `ISPZ` and `UNPZ` (R157): they act at their S4 (`suspendAtS4`). -/
def suspend (i : Instr) (f : Fields) (s : State) : Host.Outcome State Fault Refusal :=
  issue i f s (fun o t => if o.a.psn then .ok (t, .now (poisonResult o.a.val)) else .ok (t, .atS4 []))

/-- `ISPZ` (R157). -/
def execIspz (f : Fields) (s : State) : Host.Outcome State Fault Refusal := suspend (.ispz f) f s

/-- `UNPZ` (R157). -/
def execUnpz (f : Fields) (s : State) : Host.Outcome State Fault Refusal := suspend (.unpz f) f s

end Sys2Proof.Machine
end

