-- ==== Sys2Proof/Machine/Residue.lean ====
section
/-! DEFINITION. Residue instructions, 0x90-0x9A (R207-R209). -/

namespace Sys2Proof.Machine

/-- The signed value that `RNCV` encodes, by its type T (R207). -/
def rnInput (t : Nat) (a : Word) : Int :=
  if t = 0 then a.toInt else if t = 1 then (bits a 0 16).toInt else (bits a 0 8).toInt

/-- The reconstruction, shift and clamp of `RNCT` (R208). -/
def rnct (imm : BitVec 6) (a b : Word) : Word × BitVec 6 :=
  if rnValid a then
    let n := bitsNat b 0 5
    let v := rnValue a + (if bitAt imm 2 ∧ 0 < n then 2 ^ (n - 1) else 0)
    let v := v / 2 ^ n
    let t := bitsNat imm 0 2
    let m : Int := if t = 0 then 2147483648 else if t = 1 then 32768 else 128
    (BitVec.ofInt 32 (max (-m) (min (m - 1) v)), 0)
  else (0x80000000, flagIV)

/-- `RNMAC` of three words (R207). -/
def rnmac (d a b : Word) : Word := if rnValid d then rnOp (· + ·) d (rnOp (· * ·) a b) else rnInvalid

/-- `VRNDOT` of one lane (R209). -/
def rndot (unsigned : Bool) (a b d : Word) : Word :=
  if rnValid d then rnOp (· + ·) d (rnEncode (byteDot unsigned a b)).1 else rnInvalid

/-- `RNCV` (R207). -/
def execRncv (f : Fields) (s : State) : Host.Outcome State Fault Refusal :=
  scalarOp (.rncv f) f 7 s (fun o => byFlags (rnEncode (rnInput (bitsNat o.f.imm 0 2) o.a.val)))

/-- `RNCT` (R208). -/
def execRnct (f : Fields) (s : State) : Host.Outcome State Fault Refusal :=
  scalarOp (.rnct f) f 0 s (fun o => byFlags (rnct o.f.imm o.a.val o.b.val))

/-- `RNADD` (R207). -/
def execRnadd (f : Fields) (s : State) : Host.Outcome State Fault Refusal :=
  scalarOp (.rnadd f) f 7 s (fun o => byValue (rnOp (· + ·) o.a.val o.b.val))

/-- `RNSUB` (R207). -/
def execRnsub (f : Fields) (s : State) : Host.Outcome State Fault Refusal :=
  scalarOp (.rnsub f) f 7 s (fun o => byValue (rnOp (· - ·) o.a.val o.b.val))

/-- `RNMUL` (R207). -/
def execRnmul (f : Fields) (s : State) : Host.Outcome State Fault Refusal :=
  scalarOp (.rnmul f) f 7 s (fun o => byValue (rnOp (· * ·) o.a.val o.b.val))

/-- `RNMAC` (R207). -/
def execRnmac (f : Fields) (s : State) : Host.Outcome State Fault Refusal :=
  scalarOp (.rnmac f) f 7 s (fun o => byValue (rnmac o.d.val o.a.val o.b.val))

/-- `RNNEG` (R207). -/
def execRnneg (f : Fields) (s : State) : Host.Outcome State Fault Refusal :=
  scalarOp (.rnneg f) f 7 s (fun o => byValue (rnOp (· - ·) 0 o.a.val))

/-- `VRNCV` (R209). -/
def execVrncv (f : Fields) (s : State) : Host.Outcome State Fault Refusal :=
  vecOp (.vrncv f) f s false false (fun o a _ _ => rnEncode (rnInput (bitsNat o.f.imm 0 2) a))

/-- `VRNCT` (R209): the scalar shift counts for every lane. -/
def execVrnct (f : Fields) (s : State) : Host.Outcome State Fault Refusal :=
  issue (.vrnct f) f s (fun o t =>
    let rs := ((t.el o.n.elemRef).vec f.sa.toNat).map (fun a => laneOf [a, o.b] (rnct f.imm a.val o.b.val))
    let ls := rs.map Prod.fst
    .ok (t, .now (vecResult f.dst.toNat ls (ls.any PWord.psn) (rs.foldl (fun x r => x ||| r.2) 0))))

/-- `VRNMAC` (R209). -/
def execVrnmac (f : Fields) (s : State) : Host.Outcome State Fault Refusal :=
  vecOp (.vrnmac f) f s true true (fun _ a b d => (rnmac d a b, 0))

/-- `VRNDOT` (R209). -/
def execVrndot (f : Fields) (s : State) : Host.Outcome State Fault Refusal :=
  vecOp (.vrndot f) f s true true (fun o a b d => (rndot (bitAt o.f.imm 0) a b d, 0))

end Sys2Proof.Machine
end

