-- ==== Sys2Proof/Machine/Matrix.lean ====
section
/-! DEFINITION. The matrix section: its lanes, its accumulation, its drain and the opcodes 0x80-0x8B (R210-R229). -/

namespace Sys2Proof.Machine

/-! ## Configuration fields (R220) -/

def Matrix.uns (m : Matrix) : Bool := bitAt m.wordA 3
def Matrix.asrc (m : Matrix) : Bool := bitAt m.wordA 6
def Matrix.bsrc (m : Matrix) : Bool := bitAt m.wordA 7
def Matrix.auto (m : Matrix) : Bool := bitAt m.wordA 10
def Matrix.zero (m : Matrix) : Bool := bitAt m.wordA 13
def Matrix.ksteps (m : Matrix) : Nat := bitsNat m.wordB 0 16

/-- Rows and columns of the output tile (R210). -/
def tileEdge (opf : Nat) : Nat := if opf = 2 ∨ opf = 3 then 4 else 8

/-- OPF names a narrow format with block scales (R217). -/
def narrowOpf (opf : Nat) : Bool := decide (4 ≤ opf ∧ opf ≤ 6)

/-- Where output (r, c) stands among the accumulator words (R210). -/
def accPlace (m : Matrix) (r c : Nat) : Nat :=
  if tileEdge m.opf = 4 then 16 * bitsNat m.wordA 4 2 + 4 * r + c
  else 16 * (2 * (r / 4) + c / 4) + 4 * (r % 4) + c % 4

/-- The outputs of a tile, row by row. -/
def tilePlaces (opf : Nat) : List (Nat × Nat) :=
  (List.range (tileEdge opf)).flatMap (fun r => (List.range (tileEdge opf)).map (fun c => (r, c)))

/-- A word of an accumulator bank (R210). -/
def Elem.accWord (e : Elem) (k i : Nat) : PWord := Map.get e.acc {} (16 * k + i)

/-- Banks made zero with their poison clear (R224). -/
def clearBanks (acc : Map PWord) (ks : List Nat) : Map PWord := acc.filter (fun x => !ks.contains (x.1 / 16))

/-! ## Accumulation (R74, R211-R213, R217) -/

/-- The poison of a k-value reaches the accumulators of its row and column (R213); where a poisoned A value and a poisoned B
value meet, A's record is kept (DESIGN CHOICE, log entry 111). -/
def poisonAcc (m : Matrix) (a b : KItem) (acc : Map PWord) : Map PWord :=
  (tilePlaces m.opf).foldl (fun acc x =>
    match firstPoison [a.vals.getD x.1 {}, b.vals.getD x.2 {}] with
    | none => acc
    | some w =>
      let p := accPlace m x.1 x.2
      if (Map.get acc {} p).psn then acc else Map.set acc p ⟨w, true⟩) acc

/-- The exact sum of the products of a group of k-values at output (r, c), with NV (R74). -/
def groupTerm (opf : Nat) (g : List (KItem × KItem)) (r c : Nat) : FVal × BitVec 6 :=
  let ps := g.map (fun x => FVal.mul (decodeBlock opf (x.1.vals.getD r {}).val.toNat 127)
    (decodeBlock opf (x.2.vals.getD c {}).val.toNat 127))
  match ps with
  | [] => (.fin false 0 0, 0)
  | p :: ps => ps.foldl (fun acc q => let r := FVal.add .nearest acc.1 q.1; (r.1, acc.2 ||| q.2 ||| r.2)) p

/-- The scale of a row or column: 0xFF where the block brought none (R217). -/
def scaleAt (xs : List PWord) (i : Nat) : Nat := match xs[i]? with
  | some w => bitsNat w.val 0 8
  | none => 255

/-- An accumulator word with the products of a complete group added, and the flags raised (R74, R212). -/
def addGroup (m : Matrix) (g : List (KItem × KItem)) (x : Nat × Nat) (w : Word) : Word × BitVec 6 :=
  let a := (g.head?.map Prod.fst).getD {}
  let b := (g.head?.map Prod.snd).getD {}
  let av := (a.vals.getD x.1 {}).val
  let bv := (b.vals.getD x.2 {}).val
  if m.opf = 0 then (rnOp (· + ·) w (rnEncode (byteOf m.uns av 0 * byteOf m.uns bv 0)).1, 0)
  else if narrowOpf m.opf then
    let p := groupTerm m.opf g x.1 x.2
    let r := accumulate .nearest m.fzc w.toNat (scaledGroup p.1 (scaleAt m.scaleA x.1) (scaleAt m.scaleB x.2))
    (BitVec.ofNat 32 r.1, p.2 ||| r.2)
  else
    let F := fmtOfTag m.opf
    let p := FVal.mul (F.decode m.fzc (bitsNat av 0 16)) (F.decode m.fzc (bitsNat bv 0 16))
    let r := accumulate .nearest m.fzc w.toNat p.1
    (BitVec.ofNat 32 r.1, p.2 ||| r.2)

/-- Every accumulator of the tile with a complete group added; a poisoned one stays as it is (R213). -/
def addAll (m : Matrix) (g : List (KItem × KItem)) (acc : Map PWord) : Map PWord × BitVec 6 :=
  (tilePlaces m.opf).foldl (fun st x =>
    let p := accPlace m x.1 x.2
    let old := Map.get st.1 {} p
    if old.psn then st
    else
      let r := addGroup m g x old.val
      (Map.set st.1 p (PWord.clean r.1), st.2 ||| r.2)) (acc, 0)

/-- k-values of one group: 2 for E4M3 and E5M2, 4 for E2M3, else 1 (R74). -/
def groupSize (opf : Nat) : Nat := if opf = 4 ∨ opf = 5 then 2 else if opf = 6 then 4 else 1

/-- The scales that hold from a k-value on: those it brings, 0xFF where a lane starts a block without, else those of
the block (R217). -/
def nextScales (opf k : Nat) (old : List PWord) (x : KItem) : List PWord :=
  match x.scales with
  | some xs => xs
  | none => if narrowOpf opf ∧ k % 32 = 0 then [] else old

/-- A k-value enters: poison first, then the sums of the group that it completes (R211-R213). The flags kept are NV, OF,
UF and NX (R221). -/
def enterValue (m : Matrix) (acc : Map PWord) (a b : KItem) : Matrix × Map PWord :=
  let m := { m with
    scaleA := nextScales m.opf m.k m.scaleA a
    scaleB := nextScales m.opf m.k m.scaleB b }
  let acc := poisonAcc m a b acc
  let g := m.group ++ [(a, b)]
  if g.length < groupSize m.opf then ({ m with
    k := m.k + 1
    group := g }, acc)
  else
    let r := addAll m g acc
    ({ m with
      k := m.k + 1
      group := []
      flags := m.flags ||| (BitVec.setWidth 5 r.2 &&& 0x17) }, r.1)

/-! ## Lanes (R214, R215, R225) -/

/-- Where a sub-lane leads. -/
inductive LaneEnd where
  | elem (e : ElemRef)
  | stream (t : TileRef) (p : Nat)
deriving DecidableEq, Repr

/-- The tile to the east and to the south. -/
def TileRefEast (t : TileRef) : Option TileRef := if tileCol t.tile = 63 then none else some { t with tile := t.tile + 1 }
def TileRefSouth (t : TileRef) : Option TileRef := if tileRow t.tile = 31 then none else some { t with tile := t.tile + 64 }

/-- Mode of a stream (R347). -/
def Stream.mode (st : Stream) : Nat := bitsNat (st.desc.getD 0 0) 0 4

/-- The port of a memory tile whose stream relays the lane of a side (R347). -/
def relayPort (s : State) (t : TileRef) (sideB : Bool) : Option Nat :=
  (List.range 16).find? (fun p => match (Map.get (s.tl t).ports {} p).stream with
    | some st => decide (st.mode = (if sideB then 5 else 4))
    | none => false)

/-- Sub-lane of an element on a side: its row for A, its column for B (R5, R214). -/
def subLane (e : BitVec 4) (sideB : Bool) : Nat := if sideB then e.toNat % 4 else e.toNat / 4

/-- Where the sub-lane that an element forwards leads (R214). -/
def laneNext (s : State) (e : ElemRef) (sideB : Bool) : Option LaneEnd :=
  let last := if sideB then decide (e.elem.toNat / 4 = 3) else decide (e.elem.toNat % 4 = 3)
  if last then
    ((if sideB then TileRefSouth e.tileRef else TileRefEast e.tileRef)).bind (fun t =>
      (relayPort s t sideB).map (fun p => .stream t p))
  else some (.elem { e with elem := e.elem + (if sideB then 4 else 1) })

/-- Where sub-lane `l` leads that a memory tile injects or relays (R214). -/
def laneFromTile (t : TileRef) (sideB : Bool) (l : Nat) : Option LaneEnd :=
  (if sideB then TileRefSouth t else TileRefEast t).map (fun t =>
    .elem ⟨t.die, t.tile, BitVec.ofNat 4 (if sideB then l else 4 * l)⟩)

/-- The input buffer of a side. -/
def Matrix.buf (m : Matrix) (sideB : Bool) : List KItem := if sideB then m.bufB else m.bufA
def Matrix.setBuf (m : Matrix) (sideB : Bool) (q : List KItem) : Matrix := if sideB then { m with bufB := q } else { m with bufA := q }

/-- There is room for a k-value at the end of a sub-lane: 8 k-values, a marker having a slot of its own, and none while the
section is OFF (R214, R215, R394) or saved (R229). -/
def laneRoom (s : State) (sideB : Bool) (l : Nat) : LaneEnd → Bool
  | .elem e => decide ((s.el e).mx.st ≠ .off) && !(s.el e).mx.shut
      && decide (((s.el e).mx.buf sideB).countP (fun x => x.mark.isNone) < 8)
  | .stream t p => match (Map.get (s.tl t).ports {} p).stream with
    | some st => decide (st.lanes.countP (fun x => decide (x.1 = l) && x.2.mark.isNone) < 8)
    | none => false

/-- A k-value or marker enters the buffer at the end of a sub-lane. -/
def lanePush (s : State) (sideB : Bool) (l : Nat) (x : KItem) : LaneEnd → State
  | .elem e => s.updEl e (fun el => { el with mx := el.mx.setBuf sideB (el.mx.buf sideB ++ [x]) })
  | .stream t p => s.updTl t (fun m => { m with ports := Map.modify m.ports {} p (fun q =>
      { q with stream := q.stream.map (fun st => { st with lanes := st.lanes ++ [(l, x)] }) }) })

/-- PASSA or PASSB. -/
def Matrix.pass (m : Matrix) (sideB : Bool) : Bool := if sideB then m.passB else m.passA

/-- The neighbour of a side that forwards has room; a side that does not forward needs none (R215). -/
def forwardRoom (s : State) (e : ElemRef) (sideB : Bool) : Bool :=
  if (s.el e).mx.pass sideB then
    match laneNext s e sideB with
    | some d => laneRoom s sideB (subLane e.elem sideB) d
    | none => false
  else true

/-- Forwards a k-value or marker where the side forwards. -/
def forwardItem (s : State) (e : ElemRef) (sideB : Bool) (x : KItem) : State :=
  if (s.el e).mx.pass sideB then
    match laneNext s e sideB with
    | some d => lanePush s sideB (subLane e.elem sideB) x d
    | none => s
  else s

/-- The source of a side: its feed, or its sub-lane (R215, R220). -/
def Matrix.src (m : Matrix) (sideB : Bool) : List KItem :=
  if (if sideB then m.bsrc else m.asrc) then (if sideB then m.feedB else m.feedA) else m.buf sideB
def Matrix.dropSrc (m : Matrix) (sideB : Bool) : Matrix :=
  if (if sideB then m.bsrc else m.asrc) then
    (if sideB then { m with feedB := m.feedB.tail } else { m with feedA := m.feedA.tail })
  else m.setBuf sideB (m.buf sideB).tail

/-- A k-value, no marker, stands at the head of a side. -/
def Matrix.ready (m : Matrix) (sideB : Bool) : Bool := match (m.src sideB).head? with
  | some x => x.mark.isNone
  | none => false

/-- The section belongs to the scope of the region's snapshot with this stamp (R393). -/
def sectionInScope (s : State) (e : ElemRef) (stamp : Word) : Bool :=
  match (s.el e).region with
  | none => false
  | some r => match (s.rg r).snap with
    | none => false
    | some x => decide (x.stamp = stamp) && (match x.dom with
      | none => true
      | some d => decide ((s.el e).mx.owner = d))

/-- The first marker in a buffer of the section that stops it: one of a snapshot that takes it in (R229). -/
def stopMark (s : State) (e : ElemRef) (sideB : Bool) : Option Word :=
  if (s.el e).mx.st = .relay then none
  else ((s.el e).mx.buf sideB).findSome? (fun x => x.mark.filter (fun w => sectionInScope s e w))

/-- A section that a MARK has reached enters no k-value of a further K-step (R229). -/
def stopped (s : State) (e : ElemRef) : Bool :=
  (s.el e).mx.marked.isSome || (stopMark s e false).isSome || (stopMark s e true).isSome

/-- A section in RUN may enter a k-value (R215, R222, R229). -/
def mayEnter (s : State) (e : ElemRef) : Bool :=
  let m := (s.el e).mx
  decide (m.st = .run) && !m.waiting && decide (m.k < 4 * m.ksteps) && (!stopped s e || decide (m.k % 4 ≠ 0))
    && m.ready false && m.ready true && forwardRoom s e false && forwardRoom s e true

/-- The region of an element fires in this cycle (R265). -/
def touchRegion (s : State) (e : ElemRef) : State :=
  match (s.el e).region with
  | some r => s.updRg r (fun g => { g with fired := true })
  | none => s

/-- KVALUE_ENTER (R211, R215): one k-value is popped from each side, forwarded and accumulated. -/
def execKvalueEnter (e : ElemRef) (s : State) : Host.Outcome State Fault Refusal :=
  .next (if mayEnter s e then
    let el := s.el e
    let a := (el.mx.src false).headD {}
    let b := (el.mx.src true).headD {}
    let s := forwardItem (forwardItem s e false a) e true b
    let s := s.updEl e (fun el =>
      let r := enterValue ((el.mx.dropSrc false).dropSrc true) el.acc a b
      { el with
        mx := r.1
        acc := r.2 })
    touchRegion s e
  else s)

/-- RELAY_FORWARD of a section (R225) and of a relay stream (R347): one k-value moves on unchanged. -/
def execRelayForward (l : RelayPlace) (sideB : Bool) (s : State) : Host.Outcome State Fault Refusal :=
  .next (match l with
  | .element e =>
    let m := (s.el e).mx
    match m.buf sideB with
    | [] => s
    | x :: q =>
      if decide (m.st = .relay) && m.pass sideB && forwardRoom s e sideB then
        forwardItem (s.updEl e (fun el => { el with mx := el.mx.setBuf sideB q })) e sideB x
      else s
  | .stream t p =>
    match (Map.get (s.tl t).ports {} p.toNat).stream with
    | none => s
    | some st =>
      if st.mode = (if sideB then 5 else 4) ∧ st.frozen = false then
        match st.lanes.find? (fun x => match laneFromTile t sideB x.1 with
          | some d => laneRoom s sideB x.1 d
          | none => false) with
        | none => s
        | some x =>
          let s := s.updTl t (fun m => { m with ports := Map.modify m.ports {} p.toNat (fun q =>
            { q with stream := some { st with lanes := st.lanes.erase x } }) })
          match laneFromTile t sideB x.1 with
          | some d => lanePush s sideB x.1 x.2 d
          | none => s
      else s)

/-! ## Tiles and the drain (R218, R222, R223) -/

/-- The first tile and every later one starts by ZERO (R220). -/
def startTile (e : Elem) : Elem :=
  { e with
    mx := { e.mx with
      k := 0
      group := [] }
    acc := if e.mx.zero then clearBanks e.acc e.mx.banks else e.acc }

/-- The cumulative ends of a shape's sequences (R223). -/
def shapeEnds (acc : Nat) : List Nat → List Nat
  | [] => []
  | l :: ls => (acc + l) :: shapeEnds (acc + l) ls

/-- The token of an accumulator word (R222). -/
def drainToken (opf : Nat) (w : PWord) : Token := tokenOf kindData (if opf = 0 then 7 else 1) w

/-- The tokens of one row of tile number `t` (R222, R223). -/
def drainRow (e : Elem) (t r : Nat) : List Token :=
  let m := e.mx
  let row := (List.range (tileEdge m.opf)).map (fun c => drainToken m.opf (Map.get e.acc {} (accPlace m r c)))
  match m.shape with
  | none => row
  | some sh =>
    let g := sh.row0 + t * sh.rstr + r
    let ends := shapeEnds 0 sh.lens
    if ends.getLastD 0 ≤ g then []
    else
      match ends.findIdx? (fun x => decide (x = g + 1)) with
      | some j => row ++ [{ kind := kindStop1, payload := BitVec.ofNat 32 j }]
      | none => row

/-- The drain buffer takes the complete tile, and the section goes on or is DONE (R218, R222). -/
def takeTile (e : Elem) (node : BitVec 4) (ch : BitVec 2) : Elem :=
  let m := e.mx
  let toks := (List.range (tileEdge m.opf)).flatMap (drainRow e (m.tiles - 1))
  let e := { e with mx := { m with
    drain := toks
    drainNode := node
    drainCh := ch
    waiting := false
    st := if m.tiles < m.total then .run else .done } }
  if m.tiles < m.total then startTile e else e

/-- TILE_COMPLETE (R218): a section in RUN whose last k-value has entered drains, waits for the drain buffer or holds. -/
def execTileComplete (e : ElemRef) (s : State) : Host.Outcome State Fault Refusal :=
  .next (
    let m := (s.el e).mx
    if m.st = .run ∧ m.waiting = false ∧ m.k = 4 * m.ksteps then
      s.updEl e (fun el =>
        let el := { el with mx := { el.mx with
          tdone := el.mx.tdone + 1
          tiles := el.mx.tiles + 1 } }
        if m.auto then
          (if m.drain = [] then takeTile el m.cfgNode (bits m.wordA 11 2) else { el with mx := { el.mx with waiting := true } })
        else { el with mx := { el.mx with st := .hold } })
    else s)

/-- DRAIN_TOKEN_SEND (R222): one token enters the drain channel where R34 counts space, the token that a transition in flight
is to enqueue counted with those that stand there (R26), and none after the MARK of a node that has aligned (R396); a tile that waits is taken when the buffer is empty. -/
def execDrainTokenSend (e : ElemRef) (s : State) : Host.Outcome State Fault Refusal :=
  .next (
    let m := (s.el e).mx
    let n := e.nodeRef m.drainNode
    match m.drain with
    | [] => s
    | t :: q =>
      if ((s.nd n).coq m.drainCh).length + owedTo s n m.drainCh < 2 ∧ (s.nd n).aligned = none then
        let s := s.updNd n (fun nd => nd.setCo m.drainCh (nd.coq m.drainCh ++ [t]))
        s.updEl e (fun el =>
          let el := { el with mx := { el.mx with drain := q } }
          if q = [] ∧ m.waiting then takeTile el m.cfgNode (bits m.wordA 11 2) else el)
      else s)

/-- A side's buffer without its first marker `w`. -/
def Matrix.dropMark (m : Matrix) (sideB : Bool) (w : Word) : Matrix := m.setBuf sideB ((m.buf sideB).eraseP (fun x => decide (x.mark = some w)))

/-- The marker of a side that the section may take between two K-steps: one that stops it, wherever it stands in the buffer, the
k-values before it being saved with the section (DESIGN CHOICE, log entry 114); another, and one that a relay passes on, at the
head (R229, R395). -/
def markTaken (s : State) (e : ElemRef) (sideB : Bool) : Option Word :=
  let m := (s.el e).mx
  if m.st = .relay ∨ (m.k % 4 = 0 ∧ m.group = []) then
    (stopMark s e sideB).orElse (fun _ => (m.buf sideB).head?.bind KItem.mark)
  else none

/-- The marker of a side that can go on now: the next section has room for it. -/
def markMoves (s : State) (e : ElemRef) (sideB : Bool) : Option Word := (markTaken s e sideB).filter (fun _ => forwardRoom s e sideB)

/-- A marker is taken out of a buffer and forwarded. -/
def passMark (s : State) (e : ElemRef) (sideB : Bool) (w : Word) : State :=
  let stop := decide ((s.el e).mx.st ≠ .relay) && sectionInScope s e w
  (forwardItem s e sideB { mark := some w }).updEl e (fun el => { el with mx := { el.mx.dropMark sideB w with
    marked := if stop then el.mx.marked.orElse (fun _ => some w) else el.mx.marked } })

/-- MATRIX_MARK (R229, R395): a marker that has reached the section is taken out and forwarded; a section of the snapshot's scope
enters no further K-step until it is restored. -/
def execMatrixMark (e : ElemRef) (s : State) : Host.Outcome State Fault Refusal :=
  .next (
    match markMoves s e false, markMoves s e true with
    | some w, _ => passMark s e false w
    | none, some w => passMark s e true w
    | none, none => s)

/-! ## The instructions (R219, R220, R224) -/

/-- A matrix opcode of a domain that is not the owner while the section is not OFF (R219). -/
def foreign (o : Opnds) (m : Matrix) : Bool := decide (m.st ≠ .off) && decide (m.owner ≠ domOf o.nd)

/-- The DOMAIN fault that refuses a foreign matrix opcode (R219). -/
def sectionRefused : FaultInfo := { cause := causeDomain, detb := BitVec.ofNat 32 (3 * 2 ^ 28) }

/-- A matrix opcode that only the owner may issue (R219). -/
def matrixOp (i : Instr) (f : Fields) (s : State) (body : Opnds → State → Except FaultInfo (State × Done)) :
    Host.Outcome State Fault Refusal :=
  if refusedAt s.atIssue s.cur.node i f = none ∧ foreign (issueOps s i f) (s.el s.cur.node.elemRef).mx = true then
    .next (faultsAt s i f sectionRefused)
  else issue i f s body

/-- TILES of the task that the element's course runs (R220, R242). -/
def taskTiles (s : State) (e : ElemRef) : Nat :=
  match (s.el e).region with
  | none => 0
  | some r =>
    let g := s.rg r
    bitsNat (Map.get (Map.get (s.dieAt g.die).task {} g.task.toNat).w 0 7) 16 16

/-- The fields of the two words are legal together (R217, R220). -/
def mcfgOk (a b : Word) (tiles : Nat) : Bool :=
  let opf := bitsNat a 0 3
  decide (bitsNat a 14 18 = 0) && decide (opf ≠ 1 ∧ opf ≠ 7)
    && (decide (opf = 2 ∨ opf = 3) || decide (bitsNat a 4 2 = 0))
    && (decide (opf = 0) || !bitAt a 3)
    && !(bitAt a 8 && bitAt a 6) && !(bitAt a 9 && bitAt a 7)
    && decide (bitsNat b 0 16 ≠ 0) && decide (tiles ≠ 0)
    && !(narrowOpf opf && (!bitAt a 6 || !bitAt a 7) && decide (bitsNat b 0 16 % 8 ≠ 0))

/-- The count of tiles that `MCFG` asks for: that of its word b, or the task's TILES (R220). -/
def tilesAsked (s : State) (o : Opnds) : Nat := if bitsNat o.b.val 16 16 = 0 then taskTiles s o.n.elemRef else bitsNat o.b.val 16 16

/-- `MCFG` (R219, R220, R224): a reserved OPF uses no bank; the section is configured at S4 (`mcfgAtS4`). -/
def execMcfg (f : Fields) (s : State) : Host.Outcome State Fault Refusal :=
  issue (.mcfg f) f s (fun o t =>
    let m : Matrix := { wordA := o.a.val }
    match o.psn with
    | some _ => .ok (t, .now { cond := false })
    | none =>
      if m.opf = 1 ∨ m.opf = 7 then .ok (t, .now { cond := false })
      else match m.banks.find? (fun k => !t.mayUse o.n (.acc k)) with
      | some k => .error (resourceFault 0 (.acc k))
      | none => if mcfgOk o.a.val o.b.val (tilesAsked t o) then .ok (t, .atS4 []) else .ok (t, .now { cond := false }))

/-- S4 of `MCFG` (R219, R220, R224): the section is configured for the node's domain. -/
def mcfgAtS4 (o : Opnds) (s : State) : State × Result :=
  (s.updEl o.n.elemRef (fun e => { e with mx := { e.mx with
    st := .cfg
    owner := domOf o.nd
    wordA := o.a.val
    wordB := o.b.val
    fzc := o.fz
    flags := 0
    tdone := 0
    tiles := 0
    total := tilesAsked s o
    k := 0
    shape := none
    cfgNode := o.n.node
    waiting := false
    group := []
    scaleA := []
    scaleB := []
    passA := bitAt o.a.val 8
    passB := bitAt o.a.val 9
    marked := none } }), { cond := true })

/-- `MRUN` (R224): it acts at its S4 (`mrunAtS4`). -/
def execMrun (f : Fields) (s : State) : Host.Outcome State Fault Refusal := matrixOp (.mrun f) f s (fun _ t => .ok (t, .atS4 []))

/-- S4 of `MRUN` (R224): the section runs, its first tile starting by ZERO. -/
def mrunAtS4 (o : Opnds) (s : State) : State × Result :=
  (s.updEl o.n.elemRef (fun e => startTile { e with mx := { e.mx with st := .run } }), { cond := true })

/-- `MDRAIN` (R222, R224): it acts at its S4 (`mdrainAtS4`). -/
def execMdrain (f : Fields) (s : State) : Host.Outcome State Fault Refusal := matrixOp (.mdrain f) f s (fun _ t => .ok (t, .atS4 []))

/-- S4 of `MDRAIN` (R222, R224): the drain buffer takes the tile. -/
def mdrainAtS4 (o : Opnds) (s : State) : State × Result :=
  (s.updEl o.n.elemRef (fun e => takeTile e o.n.node ((coCode o.f.dst).getD 0)), { cond := true })

/-- `MCLR` (R224): it acts at its S4 (`mclrAtS4`). -/
def execMclr (f : Fields) (s : State) : Host.Outcome State Fault Refusal := matrixOp (.mclr f) f s (fun _ t => .ok (t, .atS4 []))

/-- S4 of `MCLR` (R224): the named banks become 0 and clean. -/
def mclrAtS4 (o : Opnds) (s : State) : State × Result :=
  (s.updEl o.n.elemRef (fun e => { e with acc := clearBanks e.acc (accNames (.mclr o.f) o.f) }), { cond := true })

/-- `MLDK` (R224): one access of 16 words under the checks of `VLD` in S3; the bank is written at S4 (`mldkAtS4`). -/
def execMldk (f : Fields) (s : State) : Host.Outcome State Fault Refusal :=
  matrixOp (.mldk f) f s (fun o t =>
    match o.psn with
    | some _ => .ok (t, .now { cond := false })
    | none =>
      let eas := (List.range 16).map (fun i => o.a.val + o.b.val + BitVec.ofNat 32 (4 * i))
      match vecCheck t o.n (eas.map some) false with
      | some fi => .error fi
      | none => .ok (t, .atS4 (eas.map (fun x => t.lsWord o.n.elemRef x.toNat))))

/-- S4 of `MLDK` (R25, R224): the bank takes the words with their poison bits. -/
def mldkAtS4 (o : Opnds) (ws : List PWord) (s : State) : State × Result :=
  (s.updEl o.n.elemRef (fun e =>
    { e with acc := ws.zipIdx.foldl (fun m x => Map.set m (16 * o.f.dst.toNat + x.2) x.1) e.acc }), { cond := wordsClean ws })

/-- `MSTK` (R25, R224): its access to the local store takes place in S3. -/
def execMstk (f : Fields) (s : State) : Host.Outcome State Fault Refusal :=
  matrixOp (.mstk f) f s (fun o t =>
    match o.psn with
    | some _ => .ok (t, .now { cond := false })
    | none =>
      let eas := (List.range 16).map (fun i => o.a.val + o.b.val + BitVec.ofNat 32 (4 * i))
      match vecCheck t o.n (eas.map some) true with
      | some fi => .error fi
      | none =>
        let e := t.el o.n.elemRef
        .ok (eas.zipIdx.foldl (fun t x => t.setLsWord o.n.elemRef x.1.toNat (e.accWord f.dst.toNat x.2)) t,
          .now { cond := wordsClean ((List.range 16).map (e.accWord f.dst.toNat)) }))

/-- The lengths of a well-formed shape record (R223, R224). -/
def shapeLens (ws : List PWord) : Option (List Nat) :=
  if ws.all (fun w => !w.psn && decide (1 ≤ w.val.toNat ∧ w.val.toNat < 2 ^ 16)) then some (ws.map (fun w => w.val.toNat)) else none

/-- `MSHAPE` (R223, R224): S3 reads the record, which is malformed where it has a bad count, a bad length or a POISON word;
S4 binds it (`mshapeAtS4`). -/
def execMshape (f : Fields) (s : State) : Host.Outcome State Fault Refusal :=
  matrixOp (.mshape f) f s (fun o t =>
    match o.psn with
    | some _ => .ok (t, .now { cond := false })
    | none =>
      let ea := fun (j : Nat) => o.a.val + BitVec.ofNat 32 (4 * j)
      match vecCheck t o.n [some (ea 0)] false with
      | some fi => .error fi
      | none =>
        let w := t.lsWord o.n.elemRef (ea 0).toNat
        let n := w.val.toNat
        if w.psn ∨ n = 0 ∨ 64 < n then .ok (t, .atS4 [])
        else
          match vecCheck t o.n ((List.range (n + 1)).map (fun j => some (ea j))) false with
          | some fi => .error fi
          | none => .ok (t, .atS4 ((List.range n).map (fun j => t.lsWord o.n.elemRef (ea (j + 1)).toNat))))

/-- S4 of `MSHAPE` (R223, R224): a well-formed record is bound with the row mapping of b; a malformed one leaves the section
without a shape and takes condition 0. -/
def mshapeAtS4 (o : Opnds) (ws : List PWord) (s : State) : State × Result :=
  let sh := (if ws = [] then none else shapeLens ws).map (fun ls =>
    ({ lens := ls, row0 := bitsNat o.b.val 0 16, rstr := bitsNat o.b.val 16 16 } : ShapeTab))
  (s.updEl o.n.elemRef (fun e => { e with mx := { e.mx with shape := sh } }), { cond := sh.isSome })

/-- `MPASS` (R218, R219, R224): it acts at its S4 (`mpassAtS4`). -/
def execMpass (f : Fields) (s : State) : Host.Outcome State Fault Refusal :=
  issue (.mpass f) f s (fun o t => if o.a.psn then .ok (t, .now { cond := false }) else .ok (t, .atS4 []))

/-- S4 of `MPASS` (R218, R219, R224). -/
def mpassAtS4 (o : Opnds) (s : State) : State × Result :=
  (s.updEl o.n.elemRef (fun e => { e with mx := { e.mx with
    passA := bitAt o.a.val 0
    passB := bitAt o.a.val 1
    owner := domOf o.nd
    st := if bitsNat o.a.val 0 2 = 0 then .off else .relay } }), { cond := true })

/-- The code of STATE (R221). -/
def MxState.code : MxState → Nat
  | .off => 0
  | .cfg => 1
  | .run => 2
  | .hold => 3
  | .done => 4
  | .relay => 5

/-- PSN (R221): a word in use is poisoned. A section in OFF or RELAY uses none. -/
def mxPoisoned (e : Elem) : Bool :=
  decide (e.mx.st ≠ .off ∧ e.mx.st ≠ .relay) && e.mx.banks.any (fun k => (List.range 16).any (fun i => (e.accWord k i).psn))

/-- The words of `MSTAT` (R221). -/
def mstatWord (e : Elem) (sel : Nat) : Word :=
  let m := e.mx
  let b := fun (x : Bool) (i : Nat) => if x then 2 ^ i else 0
  if sel = 0 then
    BitVec.ofNat 32 (m.tdone.toNat * 2 ^ 16 + m.st.code * 2 ^ 13 + b m.shape.isSome 12 + b (mxPoisoned e) 11 + b m.fzc 10
      + b (decide (m.drain ≠ [])) 9 + m.flags.toNat)
  else if sel = 1 then
    (if m.st = .cfg ∨ m.st = .run ∨ m.st = .hold then BitVec.ofNat 32 (m.ksteps - m.k / 4) else 0)
  else if sel = 2 then m.wordA
  else m.wordB

/-- `MSTAT` (R219, R221, R224): it acts at its S4 (`mstatAtS4`). -/
def execMstat (f : Fields) (s : State) : Host.Outcome State Fault Refusal := issue (.mstat f) f s (fun _ t => .ok (t, .atS4 []))

/-- S4 of `MSTAT` (R219, R221, R224): d receives the word, and CLR clears the flags; a node of another domain receives STATE
alone. -/
def mstatAtS4 (o : Opnds) (s : State) : State × Result :=
  let e := s.el o.n.elemRef
  if foreign o e.mx then (s, cleanResult 0 (byValue (BitVec.ofNat 32 (e.mx.st.code * 2 ^ 13))))
  else
    (if bitAt o.f.imm 2 then s.setEl o.n.elemRef { e with mx := { e.mx with flags := 0 } } else s,
      cleanResult 0 (byValue (mstatWord e (bitsNat o.f.imm 0 2))))

/-- Element n of a register in the layout of R226. -/
def feedElem (opf : Nat) (ls : List PWord) (n : Nat) : PWord :=
  let part := fun (l lo w : Nat) =>
    let x := ls.getD l {}
    if x.psn then x else PWord.clean (BitVec.ofNat 32 (bitsNat x.val lo w))
  if opf = 2 ∨ opf = 3 then part (n / 2) (16 * (n % 2)) 16
  else if opf = 6 then part (n / 5) (6 * (n % 5)) 6
  else part (n / 4) (8 * (n % 4)) 8

/-- The eight k-values of one side (R226), with the feed scales of its rows or columns (R227): `base` is 0 for A and 8
for B. A poisoned scale poisons its row or column; an element that is poisoned itself keeps its own record
(DESIGN CHOICE, log entry 111). -/
def feedSide (m : Matrix) (ls : List PWord) (base : Nat) : List KItem :=
  let n := tileEdge m.opf
  let sc := (List.range n).map (fun r => match Map.find m.fscale (base + r) with
    | some w => w
    | none => PWord.clean 255)
  (List.range 8).map (fun k =>
    let vals := (List.range n).map (fun r =>
      let v := feedElem m.opf ls (8 * r + k)
      let x := sc.getD r {}
      if narrowOpf m.opf && !v.psn && x.psn then x else v)
    { vals := vals, scales := if narrowOpf m.opf then some sc else none })

/-- Lanes of a register that `MFEED` uses: OPF 6 ignores lanes 13-15 (R226). -/
def feedPoisoned (opf : Nat) (ls : List PWord) : Bool := (if opf = 6 then ls.take 13 else ls).any PWord.psn

/-- `MFEED` (R224, R226): S2 reads the two registers, and S4 delivers them (`mfeedAtS4`). -/
def execMfeed (f : Fields) (s : State) : Host.Outcome State Fault Refusal :=
  matrixOp (.mfeed f) f s (fun o t =>
    let e := t.el o.n.elemRef
    .ok (t, .atS4 (e.vec f.sa.toNat ++ e.vec f.sb.toNat)))

/-- S4 of `MFEED` (R224, R226): the feed buffer takes two K-steps of each side with source feed; a side with source lane is
not read. -/
def mfeedAtS4 (o : Opnds) (ls : List PWord) (s : State) : State × Result :=
  let e := s.el o.n.elemRef
  let m := e.mx
  let va := ls.take 16
  let vb := ls.drop 16
  let psn := (m.asrc && feedPoisoned m.opf va) || (m.bsrc && feedPoisoned m.opf vb)
  (s.setEl o.n.elemRef { e with mx := { m with
    feedA := if m.asrc then feedSide m va 0 else m.feedA
    feedB := if m.bsrc then feedSide m vb 8 else m.feedB } }, { cond := !psn })

/-- `MSCL` (R224, R227): S2 reads the register, and S4 delivers it (`msclAtS4`). -/
def execMscl (f : Fields) (s : State) : Host.Outcome State Fault Refusal :=
  matrixOp (.mscl f) f s (fun o t => .ok (t, .atS4 ((t.el o.n.elemRef).vec f.sa.toNat)))

/-- S4 of `MSCL` (R227): the feed scales. -/
def msclAtS4 (o : Opnds) (ls : List PWord) (s : State) : State × Result :=
  let sc := ls.zipIdx.map (fun x => (x.2, if x.1.psn then x.1 else PWord.clean (x.1.val &&& 0xFF)))
  (s.updEl o.n.elemRef (fun e => { e with mx := { e.mx with fscale := sc } }), { cond := wordsClean ls })

/-- `MFIN` (R228): it acts at its S4 (`mfinAtS4`). -/
def execMfin (f : Fields) (s : State) : Host.Outcome State Fault Refusal := matrixOp (.mfin f) f s (fun _ t => .ok (t, .atS4 []))

/-- `MFIN.abort` (R228): it acts at its S4 (`mfinAtS4`). -/
def execMfinAbort (f : Fields) (s : State) : Host.Outcome State Fault Refusal :=
  matrixOp (.mfinAbort f) f s (fun _ t => .ok (t, .atS4 []))

/-- S4 of `MFIN`, the end of the section's work (R228); an abort discards the tile in progress and empties the buffers
unsent. -/
def mfinAtS4 (abort : Bool) (o : Opnds) (s : State) : State × Result :=
  let e := s.el o.n.elemRef
  let m := e.mx
  let r : Result := { dst := some (PWord.clean (BitVec.setWidth 32 m.tdone)), cond := !mxPoisoned e }
  let m := if abort then { m with
      k := 0
      group := []
      feedA := []
      feedB := []
      bufA := []
      bufB := []
      drain := []
      waiting := false } else m
  (s.setEl o.n.elemRef { e with mx := { m with st := .off } }, r)

end Sys2Proof.Machine
end

