-- ==== Sys2Proof/Machine/Channel.lean ====
section
/-! DEFINITION. The mortar between channels: credits, arrivals, fan-out branches, steering, gates' POISON tokens, and the
scrub of resources (R155, R162-R183). -/

namespace Sys2Proof.Machine

/-- Something of a region fires in this cycle (R265). -/
def fire (s : State) (rid : Nat) : State := match Map.find s.region rid with
  | some g => s.setRg rid { g with fired := true }
  | none => s

/-! ## Where tokens come from -/

/-- The channel binding that takes its tokens from a port (R166); a forwarding route is none. -/
def State.edgeFrom (s : State) (p : Port) : Option Edge :=
  (Map.values s.edge).find? (fun e => decide (e.src = p) && e.fan.isNone && !e.route)

/-- The fan-out that takes its tokens from a port. -/
def State.fanFrom (s : State) (p : Port) : Option Fanout := (Map.values s.fanout).find? (fun x => decide (x.src = p))

/-- The edge's destination is a latest-value channel, which needs no credit (R175). -/
def latestEnd (s : State) (e : Edge) : Bool := match e.dst with
  | .inp n k => ccLv ((s.nd n).ccfgAt k)
  | _ => false

/-- The source may send on an edge (R167, R175). -/
def maySend (s : State) (e : Edge) : Bool := latestEnd s e || decide (0 < e.credits)

/-- The local port, or the router's fan-out units, can begin a flit of the edge's tokens in the present cycle (R176, R177). -/
def portFree (s : State) (e : Edge) : Bool :=
  hasEntry s (portTile e.src) (edgeInput e) 0 && (e.fan.isSome || !portBusy s (portTile e.src) (localPort e.src))

/-- The source holds a credit and its port can begin a flit (R168). -/
def leavesNow (s : State) (e : Edge) : Bool := maySend s e && portFree s e

/-- A local port has begun a flit in the present cycle (R176). -/
def notePort (s : State) (p : Port) : State := match p with
  | .out n k => s.updEl n.elemRef (fun e => { e with
      sentLast := n.node ++ k
      sentAt := some s.cycle })
  | .tile t p => s.updTl t (fun m => { m with ports := Map.modify m.ports {} p.toNat (fun (x : TPort) => { x with sentAt := some s.cycle }) })
  | .inp _ _ => s

/-- A token leaves on an edge and spends a credit (R167): it enters the buffer of its router. -/
def sendOn (s : State) (e : Edge) (t : Token) : State :=
  let s := if e.fan.isSome then s else notePort s e.src
  fire (injectTokens (s.setEd e.id { e with credits := if latestEnd s e then e.credits else e.credits - 1 }) e [t]) e.region

/-- Half of a trap record has entered a node's ci3, where nothing comes between (R380). -/
def recordEntering (s : State) (n : NodeRef) : Bool := s.traps.any (fun t => decide (t.dest = some n) && decide (t.left ≠ []))

/-- An input channel that no edge serves has room for one more token. -/
def chanRoom (s : State) (n : NodeRef) (k : BitVec 2) : Bool :=
  decide (ciTaken s n k < 4) && !(decide (k = 3) && recordEntering s n)

/-! ## Gates and steer nodes (R160-R162, R172) -/

/-- The gate whose reply stands at the head of the channel co[k] of a node: the oldest session that is being drained, else
the open one (R161). -/
def replyGate (e : Elem) (n k : Nat) : Option Nat :=
  let here := fun (i : Nat) => decide ((gateNode (e.gateAt i)).toNat = n) && decide ((gateRet (e.gateAt i)).toNat = k)
  let drained := (e.gateDrain.map Prod.fst ++ List.range 8).find? (fun i => here i && gateRdrn (e.gateAt i))
  drained.orElse (fun _ => (List.range 8).find? (fun i => here i && gateValid (e.gateAt i) && decide (2 ≤ gateSsn (e.gateAt i))))

/-- One token of a draining session has left: the last one clears RDRN (R161). -/
def drainLess (e : Elem) (i : Nat) (empty : Bool) : Elem :=
  let left := match e.gateDrain.find? (fun x => decide (x.1 = i)) with
    | some x => x.2 - 1
    | none => if empty then 0 else 1
  if left = 0 then { e.setGate i (setBits (e.gateAt i) 28 1 0) with gateDrain := e.gateDrain.filter (fun x => decide (x.1 ≠ i)) }
  else { e with gateDrain := e.gateDrain.map (fun x => if x.1 = i then (i, left) else x) }

/-- The head of a callee's return channel goes to the caller's channel, or is discarded where the caller entered OFF; the
last one to leave clears RDRN (R161, R162). A caller that is OFF by alignment keeps its session: its replies wait (R396). -/
def sendReplyToken (s : State) (n : NodeRef) (k : BitVec 2) (i : Nat) : State :=
  let e := s.el n.elemRef
  let g := e.gateAt i
  let c := n.elemRef.nodeRef (gateCaller g)
  let ci := gateRci g
  match (s.nd n).coq k with
  | [] => s
  | t :: q =>
    let held := (s.nd c).aligned.isSome
    let gone := !held && ((!gateRdrn g && bitAt e.gateOff i) || decide ((s.nd c).st = .off))
    if held ∨ (gone = false ∧ chanRoom s c ci = false) then s
    else
      let s := s.updNd n (fun nd => nd.setCo k q)
      let s := if gone then s else s.updNd c (fun nd => nd.enterCi ci t)
      let s := touchRegion s n.elemRef
      if gateRdrn g then s.updEl n.elemRef (fun e => drainLess e i (decide (q = []))) else s

/-- The channel that a node steers for, by its co3 (R172). -/
def steeredBy (s : State) (n : NodeRef) : Option (NodeRef × BitVec 2) :=
  (List.range 64).findSome? (fun j =>
    let m := n.elemRef.nodeRef (BitVec.ofNat 4 (j / 4))
    let k : BitVec 2 := BitVec.ofNat 2 j
    let c := (s.nd m).ccfgAt k
    if ccStv c ∧ ccStn c = n.node then some (m, k) else none)

/-- A token would raise FORMAT at a channel (R171, R174). -/
def wouldFail (c : Word) (t : Token) : Bool := !(passes c t && (blockStep c t).isSome)

/-- The token of a FORMAT fault stands at the edge stage of a channel and holds its edge (R173). -/
def badAt (nd : Node) (k : BitVec 2) : Bool := match nd.badToken with
  | some (j, _, _) => decide (j = k)
  | none => false

/-- A node can take a FORMAT fault now: another bad token, or a fault, makes the token wait at the edge stage. -/
def canFail (nd : Node) : Bool := nd.badToken.isNone && decide (nd.st = .run ∨ nd.st = .parked)

/-- The head of a steer node's co3 returns to the channel that it steers for (R172). -/
def sendReturned (s : State) (n m : NodeRef) (k : BitVec 2) : State :=
  let nd := s.nd m
  let c := nd.ccfgAt k
  match (s.nd n).coq 3 with
  | [] => s
  | t :: q =>
    let ok := !badAt nd k && (if t.kind = kindSpace then true
      else if wouldFail c t then canFail nd
      else decide (0 < Map.get nd.spare 0 k.toNat))
    if ok then arriveReturned (touchRegion (s.updNd n (fun x => x.setCo 3 q)) n.elemRef) m k t else s

/-- A node that a complete snapshot holds sends nothing until its restore (R398). -/
def heldBack (s : State) (n : NodeRef) : Bool :=
  (s.nd n).aligned.isSome && (match (s.el n.elemRef).region with
    | some r => (s.rg r).done.any (fun x => match x.dom with
      | some d => decide (domOf (s.nd n) = d)
      | none => true)
    | none => false)

/-- Every branch has a free entry (R182). -/
def branchesFree (x : Fanout) : Bool := x.branches.all (fun b => decide (b.buf.length < 16))

/-- An output channel has a token that its element port could send: over its edge under a credit, or into its fan-out. -/
def sendable (s : State) (n : NodeRef) (k : BitVec 2) : Bool :=
  !heldBack s n && decide ((s.nd n).coq k ≠ []) && (match s.edgeFrom (.out n k), s.fanFrom (.out n k) with
    | some e, _ => maySend s e && hasEntry s (portTile e.src) (edgeInput e) 0
    | none, some x => branchesFree x
    | none, none => false)

/-- The element port serves a channel in the present cycle: the next in rotation after the one served last (R176). -/
def sendTurn (s : State) (n : NodeRef) (k : BitVec 2) : Bool :=
  let e := s.el n.elemRef
  let order := (List.range 64).map (fun i => e.sentLast + BitVec.ofNat 6 (i + 1))
  !portBusy s n.elemRef.tileRef n.elem.toNat
    && decide (order.find? (fun j => sendable s (n.elemRef.nodeRef (bits j 2 4)) (bits j 0 2)) = some (n.node ++ k))

/-- TOKEN_SEND from an output channel (R168): over its edge where the element port serves it, to a gate's caller, or back to a
steered channel. A fan-out takes its tokens itself. -/
def sendFromNode (s : State) (n : NodeRef) (k : BitVec 2) : State :=
  if heldBack s n then s
  else match s.edgeFrom (.out n k), (s.nd n).coq k with
  | _, [] => s
  | some e, t :: q => if sendTurn s n k && maySend s e then sendOn (s.updNd n (fun nd => nd.setCo k q)) e t else s
  | none, _ :: _ =>
    match replyGate (s.el n.elemRef) n.node.toNat k.toNat with
    | some i => sendReplyToken s n k i
    | none =>
      if k = 3 then
        match steeredBy s n with
        | some (m, j) => sendReturned s n m j
        | none => s
      else s

/-! ## Arrival (R171-R176) -/

/-- Nothing keeps the edge of a channel from delivering: it is not steered (R172), not closed by a MARK (R395), and no token
of a FORMAT fault stands at its edge stage (R173). -/
def edgeOpen (nd : Node) (k : BitVec 2) : Bool := !ccStrd (nd.ccfgAt k) && !nd.marks.getLsbD k.toNat && !badAt nd k

/-- A channel takes a token from its edge now: the edge is open, and the token has an entry in it or in the ci3 of the
channel's steer node (R171, R172). A latest-value channel takes every one (R175). -/
def channelTakes (s : State) (n : NodeRef) (k : BitVec 2) (t : Token) : Bool :=
  let nd := s.nd n
  let c := nd.ccfgAt k
  if ccLv c then true
  else
    edgeOpen nd k
      && (if passes c t then
            (if (blockStep c t).isSome then decide ((nd.ciq k).length < 4) else canFail nd)
          else if ccStv c then chanRoom s (n.elemRef.nodeRef (ccStn c)) 3
          else canFail nd)

/-- A token reaches a memory-tile port: a permit is counted, a port that drops its tokens drops it, and otherwise it joins
the input queue (R176, R350, R374). -/
def arrivePort (s : State) (t : TileRef) (p : BitVec 4) (tok : Token) : Option State :=
  let m := s.tl t
  let q := Map.get m.ports {} p.toNat
  let user := m.ports.find? (fun x => match x.2.stream with
    | some st => decide (bitsNat (st.desc.getD 0 0) 0 4 = 0) && decide (bitsNat (st.desc.getD 16 0) 0 5 ≠ 0)
        && decide (bits (st.desc.getD 16 0) 9 4 = p)
    | none => false)
  let gone : TPort := { q with freed := q.freed + 1 }
  match user with
  | some u =>
    let st := u.2.stream.map (fun (st : Stream) => { st with permits := st.permits + (if tok.kind = kindSpace then 1 else 0) })
    let ports := Map.set m.ports p.toNat gone
    some (s.setTl t { m with ports := Map.modify ports {} u.1 (fun (x : TPort) => { x with stream := st }) })
  | none =>
    if q.drops then some (s.setTl t { m with ports := Map.set m.ports p.toNat gone })
    else if q.inq.length < 4 then some (s.setTl t { m with ports := Map.set m.ports p.toNat { q with inq := q.inq ++ [tok] } })
    else none

/-- TOKEN_ARRIVAL (R171): the first token on an edge reaches its destination. A MARK takes its own way (R395). -/
def execTokenArrival (e : Nat) (s : State) : Host.Outcome State Fault Refusal :=
  let ed := s.ed e
  .next (match ed.flight with
  | [] => s
  | t :: q =>
    if t.kind = kindMark then s
    else
      let s' := fire (s.setEd e { ed with flight := q }) ed.region
      match ed.dst with
      | .inp n k => if channelTakes s n k t then arriveChannel s' n k t else s
      | .tile m p => if ed.route && decide (s.regionOf m ≠ some ed.region) then s else (arrivePort s' m p t).getD s
      | .out _ _ => s)

/-- CREDIT_RETURN (R167): a credit that has come back to the source of its edge may be spent from the next cycle (R168). -/
def execCreditReturn (e : Nat) (s : State) : Host.Outcome State Fault Refusal :=
  let ed := s.ed e
  .next (if ed.back_ = 0 then s else fire (s.setEd e { ed with
    back_ := ed.back_ - 1
    due := ed.due + 1 }) ed.region)

/-! ## Fan-outs (R181-R183) -/

/-- The fan-out's branches with one more token, each with its permit (R182, R183). -/
def copyToken (x : Fanout) (t : Token) (permit : Nat → Option Permit) : Fanout :=
  { x with branches := x.branches.zipIdx.map (fun b => { b.1 with buf := b.1.buf ++ [(t, permit b.2)] }) }

/-- The permit that a token closes as it leaves its branch: WSEQ, W and BR (R183). -/
def permitToken (b : Nat) (p : Option Permit) : List (Token × Word) :=
  match p with
  | none => []
  | some p =>
    if p.w = 0 ∨ p.no % p.w ≠ 0 then []
    else [({ kind := kindSpace, payload := BitVec.ofNat 32 (p.no / p.w % 65536 * 2 ^ 16 + p.w * 2 ^ 8 + b) }, p.chan)]

/-- The node and channel that a SPACE channel word names on a die (R346). -/
def spaceChannel (die : BitVec 4) (w : Word) : NodeRef × BitVec 2 := (⟨die, bits w 16 11, bits w 12 4, bits w 8 4⟩, bits w 0 2)

/-- The die of a port. -/
def Port.dieOf : Port → BitVec 4
  | .out n _ => n.die
  | .inp n _ => n.die
  | .tile t _ => t.die

/-- A SPACE token of a branch sets out for its channel on virtual network 1 when that has a free entry for it (R350). -/
def deliverSpace (s : State) (k b : Nat) : State :=
  let x := s.fo k
  match x.branches[b]? with
  | none => s
  | some br =>
    match br.spaces with
    | [] => s
    | (t, w) :: rest =>
      let c := spaceChannel (Port.dieOf x.src) w
      if chanRoom s c.1 c.2 then
        let s := s.setFo k { x with branches := x.branches.set b { br with spaces := rest } }
        let f := messageFlit s 1 (.space c.1 c.2 t) (.port (portTile x.src) fanPort) (elemPlace c.1.elemRef)
        fire { s with net := s.net ++ f.toList } x.region
      else s

/-- BRANCH_SEND (R182, R183): a branch sends a token under its destination's credits, and a permit that is due. -/
def execBranchSend (k : Nat) (b : Nat) (s : State) : Host.Outcome State Fault Refusal :=
  let s := deliverSpace s k b
  let x := s.fo k
  .next (match x.branches[b]? with
  | none => s
  | some br =>
    let ed := s.ed br.edge
    match br.buf with
    | [] => s
    | (t, p) :: rest =>
      if leavesNow s ed then
        let s := s.setFo k { x with branches := x.branches.set b { br with buf := rest, spaces := br.spaces ++ permitToken b p } }
        sendOn s ed t
      else s)

/-! ## Gates and scrubs -/

/-- GATE_POISON_DELIVERY (R162): the caller's channel takes the POISON token once it has space. -/
def execGatePoisonDelivery (e : ElemRef) (g : BitVec 3) (s : State) : Host.Outcome State Fault Refusal :=
  let el := s.el e
  .next (match el.gatePsn.find? (fun x => decide (x.gate = g.toNat)) with
  | none => s
  | some x =>
    let c := e.nodeRef x.caller
    if chanRoom s c x.rci ∧ (s.nd c).aligned.isNone then
      let s := s.setEl e { el with gatePsn := el.gatePsn.erase x }
      s.updNd c (fun nd => nd.enterCi x.rci { kind := kindPoison, payload := x.origin })
    else s)

/-- What the scrub of a resource leaves (R155). -/
def scrubbed (s : State) (e : ElemRef) (r : Resource) : State :=
  match r with
  | .bank i => s.clearRange (lsPa e (0x2000 * i)) 0x2000
  | .mbox i => s.updEl e (fun x => { x with mbox := Map.erase x.mbox i })
  | .vgrp i => s.updEl e (fun x => { x with vreg := x.vreg.filter (fun l => decide (l.1 / 64 ≠ i)) })
  | .acc i => s.updEl e (fun x => { x with acc := clearBanks x.acc [i] })
  | .cell i => s.updEl e (fun x =>
      match (Map.values x.res).find? (fun c => c.used && c.place.contains i) with
      | some c => unloadCx x c.dom c.cx
      | none => x)
  | .gate i => s.updEl e (fun x => x.setGate i (setBits (x.gateAt i) 31 1 0))

/-- SCRUB_COMPLETE (R155): the first scrub of an element whose time has passed ends, and its resource is free. -/
def execScrubComplete (e : ElemRef) (s : State) : Host.Outcome State Fault Refusal :=
  .next (match (s.el e).scrub.find? (fun x => decide (x.2 ≤ s.cycle)) with
  | none => s
  | some x => (scrubbed s e x.1).updEl e (fun el => { el with scrub := el.scrub.erase x }))

end Sys2Proof.Machine
end

