-- ==== Sys2Proof/Machine/Stream.lean ====
section
/-! DEFINITION. Memory-tile streams: the acceptance of commands, address sequences, reads, writes, lane injections, quoin,
FIFO and line ports, permits, and the sending of tokens (R184, R346-R354, R374, R387, R388). -/

namespace Sys2Proof.Machine

/-! ## Descriptor fields (R346) -/

def sMode (d : List Word) : Nat := bitsNat (descWord d 0) 0 4
def sAg (d : List Word) : Nat := bitsNat (descWord d 0) 4 3
def sGlb (d : List Word) : Bool := bitAt (descWord d 0) 7
def sFmt (d : List Word) : BitVec 3 := bits (descWord d 0) 8 3
def sScl (d : List Word) : Bool := bitAt (descWord d 0) 11
def sPke (d : List Word) : Bool := bitAt (descWord d 0) 12
def sBlen (d : List Word) : Nat := bitsNat (descWord d 0) 13 6 + 1
def sStpm (d : List Word) (k : Nat) : Bool := bitAt (descWord d 0) (18 + k)
def sSide (d : List Word) : Nat := bitsNat (descWord d 0) 24 4 + 1
def sBufs (d : List Word) : Nat := bitsNat (descWord d 0) 28 4 + 1
def sBase (d : List Word) : Nat := descAddr d 1 % 2 ^ 56
def sCount (d : List Word) (j : Nat) : Nat := bitsNat (descWord d (3 + j / 2)) (16 * (j % 2)) 16 + 1
def sStride (d : List Word) (j : Nat) : Int := (descWord d (5 + j)).toInt
def sIen (d : List Word) : Bool := bitAt (descWord d 9) 31
def sIoff (d : List Word) : Nat := bitsNat (descWord d 9) 0 19
def sSen (d : List Word) : Bool := bitAt (descWord d 10) 31
def sSoff (d : List Word) : Nat := bitsNat (descWord d 10) 0 19
def sOport (d : List Word) : BitVec 4 := bits (descWord d 11) 0 4
def sKh (d : List Word) : Nat := bitsNat (descWord d 11) 4 4
def sSclb (d : List Word) : Nat := descAddr d 12 % 2 ^ 56
def sTag (d : List Word) : Word := descWord d 14
def sBarh (d : List Word) : Word := descWord d 15
def sWin (d : List Word) : Nat := bitsNat (descWord d 16) 0 5
def sPwin (d : List Word) : Nat := bitsNat (descWord d 16) 5 4
def sPport (d : List Word) : BitVec 4 := bits (descWord d 16) 9 4
def sBranches (d : List Word) : Nat := bitsNat (descWord d 16) 13 3 + 1

/-- Elements of the whole sequence, and of one iteration of dimension `k` (R348). -/
def sSpan (d : List Word) (k : Nat) : Nat := ((List.range k).map (sCount d)).foldl (· * ·) 1
def sTotal (d : List Word) : Nat := sSpan d 4

/-- The banks that a mode needs (R280, R347, R351): those that BASE names, and with SCL the one of SCLB. -/
def sBanksOk (s : State) (t : TileRef) (d : List Word) : Bool :=
  let b := sBase d / 0x8000
  let modes := (List.range (sBufs d)).map (fun j => s.bankMode t (b + j))
  let inside := decide (sBase d < 0x80000) && decide (b + sBufs d ≤ 16)
  if sMode d = 7 then !sGlb d && inside && modes.all (fun m => decide (m = 1))
  else if sMode d = 8 then !sGlb d && inside && modes.all (fun m => decide (m = 2))
  else if 4 ≤ sMode d then true
  else if 1 < sBufs d then !sGlb d && inside && modes.all (fun m => decide (m = 0))
  else if sGlb d then true
  else
    let ok := fun (a : Nat) => decide (0x80000 ≤ a) || decide (s.bankMode t (a / 0x8000) = 0) || decide (s.bankMode t (a / 0x8000) = 3)
    ok (sBase d) && (!sScl d || ok (sSclb d))

/-- The bits of a SPACE channel word that R346 does not list are zero. -/
def spaceWordClean (w : Word) : Bool := decide (bitsNat w 27 4 = 0) && decide (bitsNat w 2 6 = 0)

/-- A SPACE channel word names a node: VALID, a compute tile outside column 0 (R346, R350). -/
def spaceWordOk (w : Word) : Bool := bitAt w 31 && isCompute (bits w 16 11) && decide (tileCol (bits w 16 11) ≠ 0)

/-- The fields of a descriptor are legal (R346, R347): the test behind reason 3 of R352. -/
def streamDescOk (s : State) (t : TileRef) (p : BitVec 4) (d : List Word) : Bool :=
  let w0 := descWord d 0
  let fmt := (sFmt d).toNat
  decide (sMode d ≤ 8) && decide (bitsNat w0 22 2 = 0)
    && decide (bitsNat (descWord d 2) 24 8 = 0) && decide (bitsNat (descWord d 13) 24 8 = 0)
    && decide (bitsNat (descWord d 9) 19 12 = 0) && decide (bitsNat (descWord d 10) 19 12 = 0)
    && decide (bitsNat (descWord d 11) 8 24 = 0) && decide (bitsNat (descWord d 16) 16 16 = 0) && descZero d 25 31
    && (decide (sWin d = 0) || (List.range 8).all (fun i => spaceWordClean (descWord d (17 + i))))
    && decide (sBufs d ≤ 4)
    && (if sScl d then decide (4 ≤ fmt ∧ fmt ≤ 6) && decide (sBlen d = if fmt = 6 then 7 else 8) else decide (sBlen d = 1))
    && (!sPke d || (decide (fmt = 6) && sScl d))
    && (decide (sMode d ≠ 8) || decide (1 ≤ sKh d))
    && sBanksOk s t d
    && (decide (sWin d = 0)
      || (decide (sMode d = 0) && decide (sWin d ≤ 16) && decide (1 ≤ sPwin d)
        && (List.range (sBranches d)).all (fun i => spaceWordOk (descWord d (17 + i)))
        && (match s.fanFrom (.tile t p) with
          | some x => decide (x.branches.length = sBranches d)
          | none => false)))

/-! ## Acceptance (R352) -/

/-- A port is the source, or the destination, of an edge or a fan-out branch. -/
def isSource (s : State) (t : TileRef) (p : BitVec 4) : Bool := (s.edgeFrom (.tile t p)).isSome || (s.fanFrom (.tile t p)).isSome
def isDest (s : State) (t : TileRef) (p : BitVec 4) : Bool := (Map.values s.edge).any (fun e => decide (e.dst = .tile t p))

/-- The port's binding suits the mode (R347, R352). -/
def bindingOk (s : State) (t : TileRef) (p : BitVec 4) (d : List Word) : Bool :=
  let m := sMode d
  if m = 0 then isSource s t p && (decide (sWin d = 0) || isDest s t (sPport d))
  else if m = 1 then isDest s t p
  else if 6 ≤ m then isDest s t p && decide (sOport d ≠ p) && isSource s t (sOport d)
  else true

/-- The nodes at the far ends of a port's edges. -/
def portNodes (s : State) (t : TileRef) (p : BitVec 4) : List NodeRef :=
  let me : Port := .tile t p
  (Map.values s.edge).filterMap (fun e =>
    if e.src = me then (match e.dst with
      | .inp n _ => some n
      | _ => none)
    else if e.dst = me then (match e.src with
      | .out n _ => some n
      | _ => none)
    else none)

/-- The TENANT check of R186 on every port that the command uses. -/
def tenantsOk (s : State) (t : TileRef) (p : BitVec 4) (d : List Word) (tenant : BitVec 16) : Bool :=
  let ports := [p] ++ (if 6 ≤ sMode d then [sOport d] else []) ++ (if sWin d ≠ 0 then [sPport d] else [])
  ports.all (fun q => (portNodes s t q).all (fun n => decide (entTenant (s.domEntry n.elemRef (domOf (s.nd n))) = tenant)))

/-- The number of the first reason that refuses a command, in the order 3, 2, 4, 1 (R352). -/
def streamReason (s : State) (st : Stamp) (t : TileRef) (p : BitVec 4) (d : List Word) : Option Nat :=
  if !streamDescOk s t p d then some 3
  else if !tilePermitted s st.issuer t || !bindingOk s t p d || !tenantsOk s t p d st.tenant then some 2
  else if sBarh d ≠ noBarrier ∧ (s.barrierOf t.die st (sBarh d)).isNone then some 4
  else if 8 ≤ (s.tl t).queue.length then some 1
  else none

/-- A command holds a reference to the barrier that it names (R361). -/
def holdBarrier (s : State) (die : BitVec 4) (st : Stamp) (h : Word) : State :=
  match (if h = noBarrier then none else s.barrierOf die st h) with
  | some i =>
    let b := (s.dieAt die).barrier i
    s.setBarrier die i { b with ref := b.ref + 1 }
  | none => s

/-- A command that has completed arrives at its barrier and gives up its reference (R361, R362). -/
def arriveBarrier (s : State) (die : BitVec 4) (st : Stamp) (h : Word) : State :=
  match (if h = noBarrier then none else s.barrierOf die st h) with
  | some i =>
    let s := (poolArrival s die i 1).1
    s.setBarrier die i ((s.dieAt die).barrier i).drop
  | none => s

/-- A command that is discarded gives up its reference (R361). -/
def releaseBarrier (s : State) (die : BitVec 4) (st : Stamp) (h : Word) : State :=
  match (if h = noBarrier then none else s.barrierOf die st h) with
  | some i => s.setBarrier die i ((s.dieAt die).barrier i).drop
  | none => s

/-- `STRM` at its tile (R349, R352). -/
def acceptStream (s : State) (st : Stamp) (b : Word) (d : List Word) : State × Answer :=
  let t : TileRef := ⟨st.issuer.die, bits b 4 11⟩
  let p : BitVec 4 := bits b 0 4
  match streamReason s st t p d with
  | some r => (s, { words := [PWord.clean (BitVec.ofNat 32 (2 ^ 31 + r))], cond := false })
  | none =>
    let m := s.tl t
    let c : StreamCmd := { port := p, desc := d, ticket := m.tickets, stamp := st, region := ((s.el st.issuer.elemRef).region).getD 0 }
    let s := s.setTl t { m with queue := m.queue ++ [c], tickets := m.tickets + 1 }
    (holdBarrier s t.die st (sBarh d), { words := [PWord.clean (BitVec.setWidth 32 m.tickets)] })

/-- `STRMQ` at its tile (R352); CAN discards the port's queued commands after the read. -/
def streamStatus (s : State) (st : Stamp) (b : Word) (cancel : Bool) : State × Answer :=
  let t : TileRef := ⟨st.issuer.die, bits b 4 11⟩
  let p : BitVec 4 := bits b 0 4
  if !tilePermitted s st.issuer t then (s, { words := [{}], cond := false })
  else
    let m := s.tl t
    let q := Map.get m.ports {} p.toNat
    let n := m.queue.countP (fun c => decide (c.port = p))
    let w := q.last.toNat * 2 ^ 16 + n * 2 ^ 12 + (if q.stream.isSome then 2 ^ 11 else 0) + (if q.err then 2 ^ 10 else 0)
    let a : Answer := { words := [PWord.clean (BitVec.ofNat 32 w)], cond := q.stream.isNone && decide (n = 0) }
    if cancel then
      let gone := m.queue.filter (fun c => decide (c.port = p))
      let s := s.setTl t { m with queue := m.queue.filter (fun c => decide (c.port ≠ p)) }
      (gone.foldl (fun s c => releaseBarrier s t.die c.stamp (sBarh c.desc)) s, a)
    else (s, a)

/-! ## Ports (R349) -/

def State.tport (s : State) (t : TileRef) (p : BitVec 4) : TPort := Map.get (s.tl t).ports {} p.toNat
def State.setTport (s : State) (t : TileRef) (p : BitVec 4) (x : TPort) : State :=
  s.updTl t (fun m => { m with ports := Map.set m.ports p.toNat x })

/-- The running streams of a tile, each with its port. -/
def MTile.running (m : MTile) : List (Nat × Stream) := m.ports.filterMap (fun x => x.2.stream.map (fun st => (x.1, st)))

/-- The stream whose tokens leave a port: its own READ, or the quoin, FIFO or line stream that names it as OPORT. -/
def MTile.feeder (m : MTile) (p : BitVec 4) : Option (Nat × Stream) :=
  m.running.find? (fun x => (decide (x.1 = p.toNat) && decide (sMode x.2.desc = 0))
    || (decide (6 ≤ sMode x.2.desc) && decide (sOport x.2.desc = p)))

/-- A port is in use by a running stream. -/
def MTile.portUsed (m : MTile) (p : BitVec 4) : Bool :=
  m.running.any (fun x => decide (x.1 = p.toNat) || (decide (6 ≤ sMode x.2.desc) && decide (sOport x.2.desc = p)))

/-- A queued command may start: its ports and its generator are free, and no earlier command for its port waits (R349). -/
def mayStart (m : MTile) (c : StreamCmd) : Bool :=
  !m.portUsed c.port && (decide (sMode c.desc < 6) || !m.portUsed (sOport c.desc))
    && !m.running.any (fun x => decide (sAg x.2.desc = sAg c.desc))

/-- The tokens that stand at a port that becomes a permit port (R350). -/
def absorbPermits (m : MTile) (pp : BitVec 4) : MTile × Nat :=
  let q := Map.get m.ports {} pp.toNat
  ({ m with ports := Map.set m.ports pp.toNat { q with inq := [], freed := q.freed + q.inq.length, drops := false } },
    q.inq.countP (fun t => decide (t.kind = kindSpace)))

/-- A course's commands start once its tile has opened (R263). -/
def tileOpen (s : State) (t : TileRef) (c : StreamCmd) : Bool := match s.regionOf t with
  | some r => decide (c.region ≠ r) || (s.rg r).opened.contains t.tile
  | none => true

/-- A node lies in a scope: its domain's, or the whole course's (R393). -/
def nodeInScope (s : State) (dom : Option (BitVec 4)) (n : NodeRef) : Bool := match dom with
  | none => true
  | some d => decide (domOf (s.nd n) = d)

/-- A command is kept back by a snapshot that takes its issuer in: by one of the whole course, whose image keeps the queues
(R397), and by one of a domain where a MARK has passed its port (R394, R395). -/
def keptBack (s : State) (t : TileRef) (c : StreamCmd) : Bool :=
  let g := s.rg c.region
  let own := fun (p : Port) => decide (p = .tile t c.port) || (decide (6 ≤ sMode c.desc) && decide (p = .tile t (sOport c.desc)))
  let passed := (Map.values s.edge).any (fun e => e.marked && !e.route && (own e.src || own e.dst))
  (g.snap.toList ++ g.done).any (fun x => nodeInScope s x.dom c.stamp.issuer && (x.dom.isNone || passed))

/-- STREAM_START (R263, R349). -/
def execStreamStart (t : TileRef) (p : BitVec 4) (s : State) : Host.Outcome State Fault Refusal :=
  let m := s.tl t
  .next (match m.queue.find? (fun c => decide (c.port = p)) with
  | none => s
  | some c =>
    if mayStart m c && tileOpen s t c && !keptBack s t c then
      let m := { m with queue := m.queue.erase c }
      let st : Stream := { desc := c.desc, ticket := c.ticket, stamp := c.stamp, region := c.region, pos := sBlen c.desc }
      let x := if sWin c.desc ≠ 0 then absorbPermits m (sPport c.desc) else (m, 0)
      let q := Map.get x.1.ports {} p.toNat
      s.setTl t { x.1 with ports := Map.set x.1.ports p.toNat { q with stream := some { st with permits := x.2 }, drops := false } }
    else s)

/-! ## Addresses (R348, R351) -/

/-- A word of the tile's own store. -/
def State.tileWord (s : State) (t : TileRef) (off : Nat) : PWord := s.loadWord (tilePa t (off / 4 * 4))

/-- The index of dimension `j` at a position of the sequence. -/
def dimAt (d : List Word) (i j : Nat) : Nat := i / sSpan d j % sCount d j

/-- The address of a position of the sequence. -/
def seqAddr (s : State) (t : TileRef) (d : List Word) (i : Nat) : Nat :=
  let i3 := dimAt d i 3
  let i1 := dimAt d i 1
  let r : Nat := if sIen d then (s.tileWord t (sIoff d + 4 * i1)).val.toNat else i1
  let base : Int := sBase d + (if 1 < sBufs d then (i3 % sBufs d) * 0x8000 else 0)
  ((base + i3 * sStride d 3 + dimAt d i 2 * sStride d 2 + r * sStride d 1 + dimAt d i 0 * sStride d 0) % 2 ^ 56).toNat

/-- T of the shape record (R223, R348). -/
def shapeTotal (s : State) (t : TileRef) (off : Nat) : Nat :=
  let n := bitsNat (s.tileWord t off).val 0 8
  ((List.range n).map (fun j => bitsNat (s.tileWord t (off + 4 * (j + 1))).val 0 16)).sum

/-- A position lies past the end of the ragged rows (R348). -/
def pastShape (s : State) (t : TileRef) (d : List Word) (i : Nat) : Bool :=
  sSen d && decide (shapeTotal s t (sSoff d) ≤ dimAt d i 2 * sCount d 1 + dimAt d i 1)

/-- The level of the stop after a position: the highest dimension that completes an iteration there and has one (R348). -/
def stopLevel (d : List Word) (i : Nat) : Option Nat :=
  [3, 2, 1].find? (fun k => decide ((i + 1) % sSpan d k = 0) && sStpm d k)

/-- The check of a stream's word: where it lies, its key, and whether it is a presence unit (R300, R339, R347). The cause of
a PAGE that was abandoned is PROT (R388). -/
def streamCheck (s : State) (t : TileRef) (st : Stream) (va : Nat) (write : Bool) : Except (BitVec 8) (Nat × BitVec 13 × Bool) :=
  let go := fun (a : Access) => unitCheck s (s.tileTlb t) st.stamp va a 4
  let r : Except (BitVec 8) (Nat × BitVec 13 × Bool) :=
    if sGlb st.desc then
      match go (if write then .write else .read) with
      | .ok p => .ok (p.1, p.2, false)
      | .error c =>
        if c = causeProt then (match go (if write then .presWrite false else .presRead) with
          | .ok p => if s.isDram p.1 then .error causeProt else .ok (p.1, p.2, true)
          | .error c => .error c)
        else .error c
    else if 0x80000 ≤ va then .error causeProt
    else
      let mode := s.bankMode t (va / 0x8000)
      if mode = 1 ∨ mode = 2 then .error causeProt
      else if va % 4 ≠ 0 then .error causeAlign
      else .ok (tilePa t va, st.stamp.keyid, decide (mode = 3))
  match r with
  | .error c => .error (if c = causePage ∧ (st.abandoned = true ∨ st.denied.contains (va % 2 ^ 56) = true) then causeProt else c)
  | ok => ok

/-- The origin of a stream's own POISON (R348, R378). -/
def portOrigin (t : TileRef) (p : BitVec 4) (st : Stream) (cause : BitVec 8) : Word :=
  originWord t.die.toNat t.tile.toNat p.toNat (sAg st.desc) true cause

/-- A port or an engine sends the record of a held access by way of the issuer's element, as the issuer's own (R380, R387). -/
def heldTrap (s : State) (st : Stamp) (origin : Word) (opc : BitVec 8) (va : Nat) (write : Bool) (path : Path) : State :=
  let n := st.issuer
  let x := s.domEntry n.elemRef (domOf (s.nd n))
  let w : List Word := [origin, trapW1 (domOf (s.nd n)) 0 opc 0 path, BitVec.ofNat 32 va, detbOf write false (va / 2 ^ 32)]
  s.sendTrap (if entSvv x then some (entSv n.die x) else none) (some n) st.part w

/-- The translations of a stream's accesses: it goes on, or waits for their walks (R302). -/
def portWalk (s : State) (t : TileRef) (st : Stream) (vas : List Nat) : State × Bool :=
  if sGlb st.desc then unitWalk s st.stamp (some t) vas else (s, true)

/-- A stream waits for its banks: its access has come to them (R281). -/
def portWaits (s : State) (t : TileRef) (p : BitVec 4) (st : Stream) : State :=
  s.setTport t p { s.tport t p with stream := some { st with since := some (st.since.getD s.cycle) } }

/-- The port holds the access (R387), or first asks the host for its translation (R425). -/
def holdStream (s : State) (t : TileRef) (p : BitVec 4) (st : Stream) (va : Nat) (write : Bool) : State :=
  if sGlb st.desc && needsHost s (s.tileTlb t) st.stamp va (if write then .write else .read) then askHost s (s.tileTlb t) (.port t p) st.stamp va write
  else
    let s := s.setTport t p { s.tport t p with stream := some { st with held := some causePage } }
    heldTrap s st.stamp (portOrigin t p st causePage) 0xB0 va write .stream

/-! ## READ (R348, R387) -/

/-- What a unit of a READ consists of. -/
inductive Part where
  | tok (t : Token)
  | word (va : Nat)
  | scale (va : Nat)
  | packed (va : Nat)
deriving DecidableEq, Repr

/-- The rest of a unit from a position on: a whole block where blocks are headed by scales, else one element; a stop closes
it. Answers the parts and the position, block position and block count after it. -/
def unitParts (s : State) (t : TileRef) (d : List Word) : Nat → Nat → Nat → List Part × Nat × Nat
  | 0, i, pos => ([], i, pos)
  | fuel + 1, i, pos =>
    if sTotal d ≤ i then ([], i, pos)
    else
      let past := pastShape s t d i
      let part : Part := if past then .tok { fmt := sFmt d } else if sPke d then .packed (seqAddr s t d i) else .word (seqAddr s t d i)
      let pos := (if sPke d && !past then sBlen d - 1 else pos) + 1
      match stopLevel d i with
      | some k => ([part, .tok { kind := BitVec.ofNat 3 (k + 1) }], i + 1, sBlen d)
      | none =>
        if sScl d && decide (pos < sBlen d) then
          let r := unitParts s t d fuel (i + 1) pos
          (part :: r.1, r.2)
        else ([part], i + 1, if sScl d then pos else sBlen d)

/-- The next unit of a READ: a new block begins with its scale. -/
def nextUnit (s : State) (t : TileRef) (st : Stream) : List Part × Nat × Nat × Nat :=
  let d := st.desc
  if sScl d ∧ st.pos = sBlen d then
    let r := unitParts s t d (sBlen d) st.i 0
    (.scale ((sSclb d + st.blk) % 2 ^ 56) :: r.1, r.2.1, r.2.2, st.blk + 1)
  else
    let r := unitParts s t d (sBlen d) st.i st.pos
    (r.1, r.2.1, r.2.2, st.blk)

/-- The words that a part reads. -/
def Part.words : Part → List Nat
  | .tok _ => []
  | .word va => [va]
  | .scale va => [va / 4 * 4]
  | .packed va => (List.range ((va % 4 + 27) / 4)).map (fun j => (va / 4 * 4 + 4 * j) % 2 ^ 56)

/-- The first address of a unit that is PAGE. -/
def firstPage (s : State) (t : TileRef) (st : Stream) (ps : List Part) : Option Nat :=
  (ps.flatMap Part.words).find? (fun va => match streamCheck s t st va false with
    | .error c => decide (c = causePage)
    | .ok _ => false)

/-- Where the words of presence banks lie that a unit reads (R347). -/
def presPlaces (s : State) (t : TileRef) (st : Stream) (vas : List Nat) : List (Nat × BitVec 13) :=
  vas.filterMap (fun va => match streamCheck s t st va false with
    | .ok (pa, k, true) => some (pa, k)
    | _ => none)

/-- The presence reads of a unit, as one request of the port (R283, R347). -/
def presReq (s : State) (t : TileRef) (p : BitVec 4) (st : Stream) (vas : List Nat) : Req :=
  let ps := presPlaces s t st vas
  { id := s.serial
    who := .port t p
    stamp := st.stamp
    va := BitVec.ofNat 56 (vas.headD 0)
    op := .presRead ps.length
    stage := .deferred
    pas := ps
    fwd := ps.map (fun x => s.presWord x.1 x.2)
    leaving := false }

/-- What the presence reads of a unit have answered: the answer that a deferred one has had, else the words as they stand
where none is EMPTY. -/
def presWords (s : State) (t : TileRef) (p : BitVec 4) (st : Stream) (vas : List Nat) : Option (List PWord) :=
  match s.resps.find? (fun x => decide (x.who = .port t p)) with
  | some x => some x.ans.words
  | none => if s.reqs.any (fun r => decide (r.who = .port t p) && decide (r.stage = .deferred)) then none
    else (presPlaces s t st vas).mapM (fun x => s.presWord x.1 x.2)

/-- A unit that meets an EMPTY word has its presence reads deferred at the bank while the bank has room (R283, R284). -/
def deferUnit (s : State) (t : TileRef) (p : BitVec 4) (st : Stream) (vas : List Nat) : State :=
  let r := presReq s t p st vas
  if s.reqs.any (fun r => decide (r.who = .port t p)) ∨ s.deferRoom r = false then s
  else { s with
    serial := s.serial + 1
    reqs := s.reqs ++ [r] }

/-- The deferred reads of a port, and their answer, are gone. -/
def dropPortReads (s : State) (t : TileRef) (p : BitVec 4) : State :=
  { s with
    reqs := s.reqs.filter (fun r => decide (r.who ≠ .port t p))
    resps := s.resps.filter (fun r => decide (r.who ≠ .port t p)) }

/-- The words that a stream reads: with the poison of memory, or that of a refused access (R348); `pres` stands for those of
presence banks, in turn. -/
def streamWords (s : State) (t : TileRef) (p : BitVec 4) (st : Stream) : List Nat → List PWord → List (PWord × Bool)
  | [], _ => []
  | va :: vas, pres => match streamCheck s t st va false with
    | .error c => (⟨portOrigin t p st c, true⟩, true) :: streamWords s t p st vas pres
    | .ok (_, _, true) => (pres.headD {}, false) :: streamWords s t p st vas pres.tail
    | .ok (pa, k, false) => (s.homeWord pa k, false) :: streamWords s t p st vas pres

/-- The words of a unit may be accessed in this cycle (R281, R340). -/
def wordsFree (s : State) (t : TileRef) (st : Stream) (vas : List Nat) (write : Bool) : Bool :=
  vas.all (fun va => match streamCheck s t st va write with
    | .ok a => unitMay s st.since a.1 write
    | .error _ => true)

/-- A unit's words pass through their banks, and those of global memory through the caches of their homes (R281, R290). -/
def useUnit (s : State) (t : TileRef) (st : Stream) (vas : List Nat) (write : Bool) : State :=
  vas.foldl (fun (s : State) va => match streamCheck s t st va write with
    | .ok a =>
      let s := useBankAt s a.1
      if sGlb st.desc then unitUses s (s.tileTlb t) st.stamp va (a.1, a.2.1) write else s
    | .error _ => s) s

/-- The seven tokens of a packed block (R64, R65, R348). -/
def unpackBlock (va : Nat) (ws : List PWord) : List Token :=
  let val : Nat := (ws.zipIdx.map (fun x => x.1.val.toNat * 2 ^ (32 * x.2))).sum / 2 ^ (8 * (va % 4))
  (List.range 7).map (fun j =>
    let n := if j = 6 then 12 else 30
    let lo := (8 * (va % 4) + 30 * j) / 32
    let hi := (8 * (va % 4) + 30 * j + n - 1) / 32
    match firstPoison ((ws.drop lo).take (hi + 1 - lo)) with
    | some w => { kind := kindPoison, payload := w }
    | none => { fmt := 6, payload := BitVec.ofNat 32 (val / 2 ^ (30 * j) % 2 ^ n) })

/-- The tokens of a part made of the words that it read, and whether ERR is set by them (R348, R352). -/
def partTokens (d : List Word) (x : Part) (rs : List (PWord × Bool)) : List Token × Bool :=
  match x with
  | .tok a => ([a], false)
  | .word _ =>
    let r := rs.headD ({}, false)
    ([tokenOf kindData (sFmt d) r.1], r.2)
  | .scale va =>
    let r := rs.headD ({}, false)
    let code := if r.1.psn then 0xFF else bitsNat r.1.val (8 * (va % 4)) 8
    ([{ kind := kindScale, fmt := sFmt d, payload := BitVec.ofNat 32 code }], r.1.psn)
  | .packed va => (unpackBlock va (rs.map Prod.fst), rs.any Prod.snd)

/-- The tokens of a unit, part by part, made of the words that it read. -/
def unitTokens (d : List Word) : List Part → List (PWord × Bool) → List Token × Bool
  | [], _ => ([], false)
  | x :: xs, rs =>
    let n := x.words.length
    let a := partTokens d x (rs.take n)
    let b := unitTokens d xs (rs.drop n)
    (a.1 ++ b.1, a.2 || b.2)

/-! ## Buffers (R351) -/

/-- Iterations of dimension 3 that a stream has finished. -/
def itersDone (d : List Word) (i : Nat) : Nat := i / sSpan d 3

/-- A READ or a WRITE of several buffers of the tile's own store. -/
def buffered (d : List Word) : Bool := decide (1 < sBufs d) && !sGlb d && decide (sMode d ≤ 1)

/-- Two descriptors name the same buffers. -/
def sameBuffers (d e : List Word) : Bool := buffered d && buffered e && decide (sBase d = sBase e) && decide (sBufs d = sBufs e)

/-- The commands of a tile, running or queued. -/
def MTile.commands (m : MTile) : List (List Word) := m.running.map (fun x => x.2.desc) ++ m.queue.map StreamCmd.desc

/-- The buffers of a descriptor that stand full. -/
def MTile.fullOf (m : MTile) (d : List Word) : BitVec 4 :=
  ((m.pairs.find? (fun x => decide (x.base = sBase d) && decide (x.bufs = sBufs d))).map Buffers.full).getD 0

/-- The buffer of the iteration of a place may be used: a READ waits for it to be full, a WRITE for it to be read, as long as the
stream has a partner of the other direction. -/
def bufferReady (m : MTile) (d : List Word) (i : Nat) : Bool :=
  let full := (m.fullOf d).getLsbD (itersDone d i % sBufs d)
  !buffered d || !m.commands.any (fun e => sameBuffers d e && decide (sMode e ≠ sMode d))
    || (if sMode d = 0 then full else !full)

/-- The buffers of a stream that has gone on from place `i` to place `j`: each finished iteration of a WRITE fills its
buffer, each of a READ empties it. -/
def noteIters (m : MTile) (d : List Word) (i j : Nat) : MTile :=
  if buffered d ∧ itersDone d i < itersDone d j then
    let ks := (List.range (itersDone d j - itersDone d i)).map (fun x => (itersDone d i + x) % sBufs d)
    let full := ks.foldl (fun (f : BitVec 4) k => setBits f k 1 (sMode d)) (m.fullOf d)
    { m with pairs := { base := sBase d, bufs := sBufs d, full := full } ::
        m.pairs.filter (fun x => !(decide (x.base = sBase d) && decide (x.bufs = sBufs d))) }
  else m

/-- Buffers that no command names any longer are forgotten. -/
def MTile.forgetBuffers (m : MTile) : MTile :=
  { m with pairs := m.pairs.filter (fun x => m.commands.any (fun d => buffered d && decide (x.base = sBase d) && decide (x.bufs = sBufs d))) }

/-- A stream completes: LASTT and ERR are kept, a permit port drops what still comes, and the barrier gets its arrival
(R349, R352, R362, R374). -/
def finishStream (s : State) (t : TileRef) (p : BitVec 4) (st : Stream) : State :=
  let q := s.tport t p
  let s := (s.setTport t p { q with stream := none, last := st.ticket, err := st.err }).updTl t MTile.forgetBuffers
  let s := if sWin st.desc ≠ 0 then
      let pp := sPport st.desc
      s.setTport t pp { s.tport t pp with drops := true }
    else s
  arriveBarrier s t.die st.stamp (sBarh st.desc)

/-- One unit of a READ stream is read whole and stands ready to be sent; a PAGE holds it whole, and a word that is EMPTY
defers it. -/
def readUnit (s : State) (t : TileRef) (p : BitVec 4) (st : Stream) : State :=
  let u := nextUnit s t st
  let vas := u.1.flatMap Part.words
  let w := portWalk s t st vas
  let s := w.1
  match w.2, firstPage s t st u.1 with
  | false, _ => s
  | true, some va => holdStream s t p st va false
  | true, none =>
    if wordsFree s t st vas false = false then portWaits s t p st
    else match presWords s t p st vas with
    | none => deferUnit s t p st vas
    | some pres =>
      let rs := unitTokens st.desc u.1 (streamWords s t p st vas pres)
      let s := dropPortReads (useUnit s t st vas false) t p
      let s := s.updTl t (fun m => noteIters m st.desc st.i u.2.1)
      fire (s.setTport t p { s.tport t p with stream := some { st with
        i := u.2.1
        pos := u.2.2.1
        blk := u.2.2.2
        out := rs.1
        since := none
        denied := []
        err := st.err || rs.2 } }) st.region

/-! ## WRITE (R347, R348) -/

/-- The acknowledgement of `n` words to the command's completion tag (R354); one of no word carries a failure alone. -/
def ackTag (s : State) (ref : Word) (tenant : BitVec 16) (err : Bool) (n : Nat := 1) : State :=
  if ref = 0 ∨ (n = 0 ∧ err = false) then s
  else { s with
    serial := s.serial + 1
    tags := s.tags ++ [{ id := s.serial, ref := ref, tenant := tenant, n := n, err := err }] }

/-- What a write of one word does: the new state, or the cause that refuses it (R283, R347, R364). -/
def streamStore (s : State) (a : Nat × BitVec 13 × Bool) (w : PWord) : Except (BitVec 8) State :=
  if s.barrierAt a.1 then .error causeBarrierStore
  else if a.2.2 then
    if s.presAt a.1 = .empty then .ok (presStoreWord s a.1 a.2.1 w) else .error causeWriteTwice
  else .ok (homeStore s a.1 a.2.1 w)

/-- A word with the bits from `lo` on, `n` of them, replaced. -/
def mergeBits (old : PWord) (lo n v : Nat) (psn : Option Word) : PWord :=
  match psn with
  | some w => ⟨w, true⟩
  | none => ⟨setBits old.val lo n v, old.psn && decide (n < 32)⟩

/-- The writes that one DATA or POISON token makes: one word, or the words that hold its elements of a packed block
(R64, R347): address, first bit, bits and value. -/
def tokenWrites (d : List Word) (va pos : Nat) (v : Nat) : List (Nat × Nat × Nat × Nat) :=
  if sPke d then
    let lo := 8 * (va % 4) + 30 * pos
    let n := if pos = 6 then 12 else 30
    let w0 := lo / 32
    let first := min n (32 - lo % 32)
    [(va / 4 * 4 + 4 * w0, lo % 32, first, v % 2 ^ first)]
      ++ (if first < n then [(va / 4 * 4 + 4 * (w0 + 1), 0, n - first, v / 2 ^ first % 2 ^ (n - first))] else [])
  else [(va, 0, 32, v)]

/-- The words that a token's writes complete: one, or in a packed block those whose last bits it brings (R354). -/
def wordsDone (d : List Word) (va pos : Nat) : Nat :=
  if sPke d then
    let lo := 8 * (va % 4) + 30 * pos
    let hi := lo + (if pos = 6 then 12 else 30)
    hi / 32 - lo / 32 + (if pos = 6 ∧ hi % 32 ≠ 0 then 1 else 0)
  else 1

/-- The writes of a token, in order; none where any is refused. -/
def writeAll (s : State) (t : TileRef) (st : Stream) (psn : Option Word) : List (Nat × Nat × Nat × Nat) → Except (BitVec 8) State
  | [] => .ok s
  | x :: xs =>
    match streamCheck s t st (x.1 % 2 ^ 56) true with
    | .error c => .error c
    | .ok a =>
      match streamStore s a (mergeBits (s.loadUnder a.1 a.2.1) x.2.1 x.2.2.1 x.2.2.2 psn) with
      | .error c => .error c
      | .ok s => writeAll s t st psn xs

/-- The position after a DATA token of a WRITE: packed blocks take seven tokens a place. -/
def writeNext (d : List Word) (i pos : Nat) : Nat × Nat :=
  if sPke d then (if pos < 6 then (i, pos + 1) else (i + 1, 0)) else (i + 1, 0)

/-- The position after a STOPk: the start of the next iteration of dimension k (R347). -/
def stopNext (d : List Word) (i pos k : Nat) : Nat :=
  let span := sSpan d k
  if i % span = 0 ∧ pos = 0 then i else (i / span + 1) * span

/-- A WRITE stream that stood at place `i` with its input queue's head taken. -/
def writeTaken (s : State) (t : TileRef) (p : BitVec 4) (i : Nat) (st : Stream) : State :=
  let q := s.tport t p
  let s := s.updTl t (fun m => noteIters m st.desc i st.i)
  let s := fire (s.setTport t p { q with inq := q.inq.tail, freed := q.freed + 1, stream := some st }) st.region
  if sTotal st.desc ≤ st.i then finishStream s t p st else s

/-- One arriving token of a WRITE stream (R347): a word, a scale byte, a stop, or a token that is discarded; a word past the
end of the ragged rows is not written (R348; DEDUCED, log entry 56). Block position of a packed block is kept in `pos`, from 0. -/
def writeToken (s : State) (t : TileRef) (p : BitVec 4) (st : Stream) (tok : Token) : State :=
  let d := st.desc
  let pos := if sPke d ∧ st.pos < 7 then st.pos else 0
  if tok.kind = kindData ∨ tok.kind = kindPoison then
    let va := seqAddr s t d st.i
    let psn := if tok.kind = kindPoison then some tok.payload else none
    let nx := if pastShape s t d st.i then (st.i + 1, 0) else writeNext d st.i pos
    let st' := { st with i := nx.1, pos := nx.2, since := none, denied := [] }
    let ws := tokenWrites d va pos tok.payload.toNat
    let vas := ws.map Prod.fst
    let w := portWalk s t st vas
    if pastShape s t d st.i then writeTaken s t p st.i st'
    else if w.2 = false then w.1
    else if wordsFree w.1 t st vas true = false then portWaits w.1 t p st
    else match writeAll w.1 t st psn ws with
    | .ok s => writeTaken (ackTag (useUnit (deliver s st.region t p tok) t st vas true) (sTag d) st.stamp.tenant psn.isSome (wordsDone d va pos)) t p st.i st'
    | .error c =>
      if c = causePage then holdStream w.1 t p st va true
      else writeTaken (ackTag w.1 (sTag d) st.stamp.tenant true (wordsDone d va pos)) t p st.i { st' with err := true }
  else if tok.kind = kindScale then
    let va := (sSclb d + st.blk) % 2 ^ 56
    let w := portWalk s t st [va]
    let st' := { st with blk := st.blk + 1, since := none, denied := [] }
    if w.2 = false then w.1
    else if wordsFree w.1 t st [va / 4 * 4] true = false then portWaits w.1 t p st
    else match writeAll w.1 t st none [(va / 4 * 4, 8 * (va % 4), 8, tok.payload.toNat % 256)] with
    | .ok s => writeTaken (useUnit s t st [va / 4 * 4] true) t p st.i st'
    | .error c =>
      if c = causePage then holdStream w.1 t p st va true
      else writeTaken w.1 t p st.i { st' with err := true }
  else if isStop tok.kind then
    writeTaken s t p st.i { st with i := stopNext d st.i pos (tok.kind.toNat - 1), pos := 0 }
  else writeTaken s t p st.i st

/-! ## Lane injection (R214, R347) -/

/-- The words of a K-step: four k-values for each of four sub-lanes, two words each; none for a word past the end of the
ragged rows, which is not read (R348). -/
def stepAddrs (s : State) (t : TileRef) (st : Stream) : List (Option Nat) :=
  (List.range (min 32 (sTotal st.desc - st.i))).map (fun j =>
    if pastShape s t st.desc (st.i + j) then none else some (seqAddr s t st.desc (st.i + j)))

/-- The bytes of scales that a K-step brings: eight for each sub-lane where a block of 32 k-values begins. -/
def stepScales (st : Stream) : List Nat :=
  if sScl st.desc ∧ st.i / 8 % 32 = 0 then (List.range 32).map (fun j => (sSclb st.desc + st.blk + j) % 2 ^ 56) else []

/-- The words of a K-step in their places: zero where none was read. -/
def stepWords : List (Option Nat) → List (PWord × Bool) → List (PWord × Bool)
  | [], _ => []
  | none :: xs, rs => ({}, false) :: stepWords xs rs
  | some _ :: xs, rs => rs.headD ({}, false) :: stepWords xs rs.tail

/-- The k-values of a K-step, each with its sub-lane, made of the words that it read: those of the sequence, then those of the
scales. -/
def stepItems (st : Stream) (addrs : List (Option Nat)) (rs : List (PWord × Bool)) : List (Nat × KItem) × Bool :=
  let opf := (sFmt st.desc).toNat
  let ws := stepWords addrs rs
  let n := tileEdge opf
  let sc := ((stepScales st).zip (rs.drop (addrs.filterMap id).length)).map (fun x =>
    let va := x.1
    let r := x.2
    (if r.1.psn then PWord.clean 0xFF else PWord.clean (BitVec.ofNat 32 (bitsNat r.1.val (8 * (va % 4)) 8)), r.1.psn))
  let item := fun (j : Nat) =>
    let l := j % 4
    let two := ((ws.drop (2 * j)).take 2).map Prod.fst
    let scales := if sc = [] ∨ 4 ≤ j then none else some (((sc.drop (8 * l)).take n).map Prod.fst)
    (l, ({ vals := (List.range n).map (feedElem opf two), scales := scales } : KItem))
  ((List.range ((ws.length + 1) / 2)).map item, ws.any Prod.snd || sc.any Prod.snd)

/-- A K-step of a lane injection is read whole, or held whole (R387). -/
def readStep (s : State) (t : TileRef) (p : BitVec 4) (st : Stream) : State :=
  let addrs := stepAddrs s t st
  let vas := addrs.filterMap id ++ (stepScales st).map (fun va => va / 4 * 4)
  let w := portWalk s t st vas
  let s := w.1
  match w.2, firstPage s t st (vas.map Part.word) with
  | false, _ => s
  | true, some va => holdStream s t p st va false
  | true, none =>
    if wordsFree s t st vas false = false then portWaits s t p st
    else match presWords s t p st vas with
    | none => deferUnit s t p st vas
    | some pres =>
      let r := stepItems st addrs (streamWords s t p st vas pres)
      let s := dropPortReads (useUnit s t st vas false) t p
      fire (s.setTport t p { s.tport t p with stream := some { st with
        i := min (st.i + 32) (sTotal st.desc)
        blk := st.blk + (stepScales st).length
        lanes := r.1
        since := none
        denied := []
        err := st.err || r.2 } }) st.region

/-- The first waiting k-value goes to its sub-lane when that has room. -/
def injectLane (s : State) (t : TileRef) (p : BitVec 4) (st : Stream) (sideB : Bool) : State :=
  match st.lanes with
  | [] => s
  | x :: xs =>
    match laneFromTile t sideB x.1 with
    | none => s
    | some e =>
      if laneRoom s sideB x.1 e then
        fire (lanePush (s.setTport t p { s.tport t p with stream := some { st with lanes := xs } }) sideB x.1 x.2 e) st.region
      else s

/-! ## FIFO and line buffers (R280, R347) -/

/-- The tokens that the queue of a FIFO stream may hold. -/
def fifoRoom (d : List Word) : Nat := 8192 * sBufs d

/-- The bank of a FIFO queue in which its token `n` stands, counted from the head: the tokens go round the ring of its banks
(DESIGN CHOICE, log entry 121). -/
def MTile.fifoBank (m : MTile) (b n : Nat) : Nat :=
  let x := Map.get m.fifoAt (0, 0) b
  b + (if x.2 = 0 then x.1 + n else (x.1 + n) % x.2) / 8192

/-- An address in the bank in which token `n` of a queue stands. -/
def fifoPa (s : State) (t : TileRef) (b n : Nat) : Nat := tilePa t ((s.tl t).fifoBank b n * 0x8000)

/-- A FIFO port takes its next token while the queue has room and its bank is free. -/
def fifoToken (s : State) (t : TileRef) (p : BitVec 4) (st : Stream) (tok : Token) : State :=
  let m := s.tl t
  let b := sBase st.desc / 0x8000
  let f := Map.get m.fifo [] b
  let pa := fifoPa s t b f.length
  if fifoRoom st.desc ≤ f.length then s
  else if unitMay s st.since pa true then
    let q := Map.get m.ports {} p.toNat
    fire (useBankAt (s.setTl t { m with
      fifo := Map.set m.fifo b (f ++ [tok])
      fifoAt := Map.set m.fifoAt b ((Map.get m.fifoAt (0, 0) b).1, fifoRoom st.desc)
      ports := Map.set m.ports p.toNat { q with inq := q.inq.tail, freed := q.freed + 1, stream := some { st with since := none, denied := [] } } }) pa)
      st.region
  else portWaits s t p st

/-- A FIFO queue without its head. -/
def popFifo (s : State) (t : TileRef) (b : Nat) : State :=
  let m := s.tl t
  let x := Map.get m.fifoAt (0, 0) b
  useBankAt (s.setTl t { m with
    fifo := Map.set m.fifo b (Map.get m.fifo [] b).tail
    fifoAt := Map.set m.fifoAt b (if x.2 = 0 then x.1 + 1 else (x.1 + 1) % x.2, x.2) }) (fifoPa s t b 0)

/-- An address in the bank of a line buffer. -/
def linePa (t : TileRef) (d : List Word) : Nat := tilePa t (sBase d / 0x8000 * 0x8000)

/-- A line port takes its next token, which its bank takes in: a complete row joins the ring, and from row KH − 1 on the last KH rows leave. -/
def lineToken (s : State) (t : TileRef) (p : BitVec 4) (st : Stream) (tok : Token) : State :=
  let q := s.tport t p
  let row := st.fill ++ [tok]
  let take := fun (st : Stream) => fire (useBankAt (s.setTport t p { q with
    inq := q.inq.tail
    freed := q.freed + 1
    stream := some { st with since := none, denied := [] } }) (linePa t st.desc)) st.region
  if unitMay s st.since (linePa t st.desc) true = false then portWaits s t p st
  else if row.length < sCount st.desc 0 then take { st with fill := row }
  else if st.out = [] then
    let rows := (st.rows ++ [row]).drop (st.rows.length + 1 - sKh st.desc)
    take { st with
      fill := []
      rows := rows
      out := if rows.length = sKh st.desc then rows.flatMap id else [] }
  else s

/-! ## The quoin (R184) -/

/-- The positions of a block in column order. -/
def columnOrder (n : Nat) (ts : List Token) : List Token :=
  let rows := (ts.length + n - 1) / n
  (List.range n).flatMap (fun c => (List.range rows).filterMap (fun r => if r * n + c < ts.length then ts[r * n + c]? else none))

/-- The block that stands complete in the buffer being filled, in the order in which it leaves. -/
def closedBlock (n : Nat) (fill : List Token) : List Token :=
  let data := fill.filter (fun t => !isStop t.kind)
  columnOrder n data ++ fill.filter (fun t => isStop t.kind)

/-- QUOIN_EMIT (R184): the port takes its next token where it may, and a complete block begins to leave once the other
buffer is empty. -/
def quoinStep (s : State) (t : TileRef) (p : BitVec 4) (st : Stream) : State :=
  let n := sSide st.desc
  let q := s.tport t p
  let put := fun (st : Stream) => s.setTport t p { q with stream := some st }
  if st.full then
    if st.out = [] then put { st with out := closedBlock n st.fill, fill := [], full := false } else s
  else
    match q.inq with
    | [] => s
    | tok :: rest =>
      let take := fun (st : Stream) => fire (s.setTport t p { q with inq := rest, freed := q.freed + 1, stream := some st }) st.region
      if tok.kind = kindData ∨ tok.kind = kindPoison then
        let f := st.fill ++ [tok]
        take { st with fill := f, full := decide (f.length = n * n) }
      else if isStop tok.kind then
        if st.fill = [] then take { st with out := st.out ++ [tok] } else take { st with fill := st.fill ++ [tok], full := true }
      else if tok.kind = kindMark then take { st with out := tok :: st.out }
      else take { st with out := st.out ++ [tok] }

def execQuoinEmit (t : TileRef) (p : BitVec 4) (s : State) : Host.Outcome State Fault Refusal :=
  .next (match (s.tport t p).stream with
  | some st => if sMode st.desc = 6 ∧ st.frozen = false then quoinStep s t p st else s
  | none => s)

/-! ## STREAM_EMIT (R348) -/

/-- The buffers of all the iterations that the next unit of a READ reaches into are full (R351). -/
def unitReady (s : State) (t : TileRef) (st : Stream) : Bool :=
  (List.range ((nextUnit s t st).2.1 - st.i)).all (fun j => bufferReady (s.tl t) st.desc (st.i + j))

/-- The addresses in its tile's own banks of the next access of a stream, and whether it writes there. -/
def nextAccess (s : State) (t : TileRef) (p : BitVec 4) (st : Stream) : List Nat × Bool :=
  let d := st.desc
  let own := fun (vas : List Nat) => vas.map (tilePa t)
  match sMode d, (s.tport t p).inq with
  | 0, _ => (if st.out = [] ∧ st.i < sTotal d ∧ unitReady s t st then own ((nextUnit s t st).1.flatMap Part.words) else [], false)
  | 1, tok :: _ => (if bufferReady (s.tl t) d st.i = false ∨ pastShape s t d st.i then []
      else if tok.kind = kindScale then own [(sSclb d + st.blk) % 2 ^ 56 / 4 * 4]
      else if tok.kind = kindData ∨ tok.kind = kindPoison then
        own ((tokenWrites d (seqAddr s t d st.i) (if sPke d ∧ st.pos < 7 then st.pos else 0) 0).map Prod.fst)
      else [], true)
  | 2, _ => (if st.lanes = [] then own ((stepAddrs s t st).filterMap id ++ stepScales st) else [], false)
  | 3, _ => (if st.lanes = [] then own ((stepAddrs s t st).filterMap id ++ stepScales st) else [], false)
  | 7, _ :: _ => (let b := sBase d / 0x8000
      if (Map.get (s.tl t).fifo [] b).length < fifoRoom d then [fifoPa s t b (Map.get (s.tl t).fifo [] b).length] else [], true)
  | 8, _ :: _ => ([linePa t d], true)
  | _, _ => ([], false)

/-- A port is about to access a bank of its tile, and may (R281). -/
def portWants (s : State) (t : TileRef) (p : BitVec 4) (st : Stream) (b : Nat) : Bool :=
  let x := nextAccess s t p st
  !sGlb st.desc && st.held.isNone && !st.frozen && x.1.any (fun pa => decide (s.target pa = .bank t b))
    && x.1.all (fun pa => unitMay s st.since pa x.2)
    && !s.reqs.any (fun r => decide (r.who = .port t p))

/-- The next element of a running stream. -/
def streamStep (s : State) (t : TileRef) (p : BitVec 4) (st : Stream) : State :=
  let m := sMode st.desc
  if m = 0 then
    if st.out ≠ [] then s
    else if sTotal st.desc ≤ st.i then finishStream s t p st
    else if unitReady s t st then readUnit s t p st else s
  else if m = 1 then
    match (s.tport t p).inq with
    | [] => s
    | tok :: _ => if bufferReady (s.tl t) st.desc st.i then writeToken s t p st tok else s
  else if m = 2 ∨ m = 3 then
    if st.lanes ≠ [] then injectLane s t p st (decide (m = 3))
    else if sTotal st.desc ≤ st.i then finishStream s t p st
    else readStep s t p st
  else
    match (s.tport t p).inq with
    | [] => s
    | tok :: _ => if m = 7 then fifoToken s t p st tok else if m = 8 then lineToken s t p st tok else s

/-- STREAM_EMIT (R348): a stream that is not held reads or writes its next element. One that a snapshot has frozen only
injects what it has begun (R394). -/
def execStreamEmit (t : TileRef) (p : BitVec 4) (s : State) : Host.Outcome State Fault Refusal :=
  .next (match (s.tport t p).stream with
  | some st =>
    if st.frozen then
      if sMode st.desc = 2 ∨ sMode st.desc = 3 then injectLane s t p st (decide (sMode st.desc = 3)) else s
    else if st.held.isNone then streamStep s t p st else s
  | none => s)

/-! ## Sending from a port (R168, R176, R239, R350) -/

/-- The permits let a READ send its next token (R350). -/
def permitted (st : Stream) : Bool := decide (sWin st.desc = 0) || decide (st.sent < sWin st.desc * (sPwin st.desc + st.permits))

/-- An input port of the course has sent its MARK and sends nothing further (R394). -/
def markSent (g : Region) (t : TileRef) (p : BitVec 4) : Bool := match g.snap, g.inPortOf t p with
  | some x, some i => bitAt x.inSent i
  | _, _ => false

/-- The head that a port may send, and the state without it: of its stream, of a FIFO, or of a port of the course. -/
def portHead (s : State) (t : TileRef) (p : BitVec 4) : Option (Token × State) :=
  let m := s.tl t
  match m.feeder p with
  | some (q, st) =>
    if st.frozen ∧ 6 ≤ sMode st.desc then none
    else if sMode st.desc = 7 then
      let b := sBase st.desc / 0x8000
      match Map.get m.fifo [] b with
      | [] => none
      | x :: _ => if unitMay s none (fifoPa s t b 0) false then some (x, popFifo s t b) else none
    else if sMode st.desc = 8 ∧ unitMay s none (linePa t st.desc) false = false then none
    else if sMode st.desc = 0 ∧ permitted st = false then none
    else match st.out with
      | [] => none
      | x :: xs =>
        let s := if sMode st.desc = 8 then useBankAt s (linePa t st.desc) else s
        let st := { st with out := xs, sent := st.sent + 1 }
        some (x, s.setTport t (BitVec.ofNat 4 q) { s.tport t (BitVec.ofNat 4 q) with stream := some st })
  | none =>
    match s.regionOf t with
    | none => none
    | some r =>
      let g := s.rg r
      if markSent g t p then none
      else if (g.inPortOf t p).isSome ∨ (g.outPortOf t p).isSome then
        match (s.tport t p).inq with
        | [] => none
        | x :: xs => some (x, s.setTport t p { s.tport t p with inq := xs, freed := (s.tport t p).freed + 1 })
      else none

/-- The stream successor that takes an output port's tokens: the entry of the course's record that names the port (R244). -/
def streamSuccessor (s : State) (g : Region) (i : Nat) : Option DWord :=
  let t := s.task g.die g.task.toNat
  ((List.range t.nsuc).map t.succ).find? (fun e => decide (sucKind e = 2) && decide (sucOport e = i))

/-- A record is live (R248). -/
def Task.live (t : Task) : Bool := decide (2 ≤ t.state ∧ t.state ≤ 7)

/-- The record that a successor entry names is still the one that it was (R243). -/
def successorLive (s : State) (g : Region) (i : Nat) : Bool := match streamSuccessor s g i with
  | some e =>
    let t := s.task (sucDie e) (sucIndex e)
    t.live && decide (t.gen = sucGen e)
  | none => false

/-- A token leaves an output port of a course: it waits for a live successor's gates, leaves on the route to it, or goes into
nothing (R239, R254). -/
def sendOutput (s : State) (rid : Nat) (t : TileRef) (p : BitVec 4) (i : Nat) : State :=
  match portHead s t p with
  | none => s
  | some (x, s') =>
    let gone := fire (deliver s' rid t p x) rid
    match Map.find (s.rg rid).oport i with
    | none => gone
    | some none => if successorLive s (s.rg rid) i then s else gone
    | some (some k) =>
      match Map.find s.edge k with
      | none => gone
      | some e => if leavesNow s e then fire (sendOn (deliver s' rid t p x) e x) rid else s

/-- The stream whose tokens leave a port was commanded by a course that has left the tile (R341). -/
def orphan (s : State) (t : TileRef) (p : BitVec 4) : Bool := match (s.tl t).feeder p with
  | some (_, st) => decide (s.regionOf t ≠ some st.region)
  | none => false

/-- TOKEN_SEND from a memory-tile port. A READ that outlives its course runs to its end, and its tokens go nowhere. -/
def sendFromPort (s : State) (t : TileRef) (p : BitVec 4) : State :=
  let out := (s.regionOf t).bind (fun r => ((s.rg r).outPortOf t p).map (fun i => (r, i)))
  if orphan s t p then
    match portHead s t p with
    | some (_, s) => s
    | none => s
  else match out, s.edgeFrom (.tile t p) with
  | some (r, i), _ => sendOutput s r t p i
  | none, some e =>
    if leavesNow s e then
      match portHead s t p with
      | some (x, s) => sendOn s (s.ed e.id) x
      | none => s
    else s
  | none, none => s

/-- TOKEN_SEND (R168). -/
def execTokenSend (p : Port) (s : State) : Host.Outcome State Fault Refusal :=
  .next (match p with
  | .out n k => sendFromNode s n k
  | .tile t q => sendFromPort s t q
  | .inp _ _ => s)

/-- The permit that a branch's token carries: that of the windowed stream whose token it is (R183, R350). -/
def branchPermit (s : State) (src : Port) (b : Nat) : Option Permit :=
  match src with
  | .tile t p =>
    match (s.tl t).feeder p with
    | some (_, st) =>
      if sWin st.desc = 0 then none else some { w := sWin st.desc, chan := descWord st.desc (17 + b), no := st.sent + 1 }
    | none => none
  | _ => none

/-- FANOUT_COPY (R182): the fan-out takes its source's next token once every branch has a free entry. -/
def execFanoutCopy (k : Nat) (s : State) : Host.Outcome State Fault Refusal :=
  let x := s.fo k
  .next (if branchesFree x && !x.branches.isEmpty then
    match x.src with
    | .out n c =>
      match (if sendTurn s n c then (s.nd n).coq c else []) with
      | [] => s
      | t :: q => fire ((notePort (s.updNd n (fun nd => nd.setCo c q)) x.src).setFo k (copyToken x t (fun _ => none))) x.region
    | .tile t p =>
      match (if portBusy s t p.toNat then none else portHead s t p) with
      | none => s
      | some (tok, s') => fire ((notePort s' x.src).setFo k (copyToken x tok (branchPermit s x.src))) x.region
    | .inp _ _ => s
  else s)

/-! ## Completion tags (R354) -/

/-- The origin record of a tag (R354, R378). -/
def tagOrigin (ref : Word) (cause : BitVec 8) : Word :=
  originWord (bitsNat ref 28 4) (bitsNat ref 17 11) (bitsNat ref 13 4) (bitsNat ref 9 4) true cause

/-- TAG_ACK (R354): an acknowledgement counts, or is dropped and recorded. -/
def execTagAck (id : Nat) (s : State) : Host.Outcome State Fault Refusal :=
  .next (match s.tags.find? (fun x => decide (x.id = id)) with
  | none => s
  | some m =>
    if tagHere s m = false then s
    else
    let s := { s with tags := s.tags.filter (fun x => decide (x.id ≠ id)) }
    let p := tagPlace m.ref
    let x := Map.get (s.el p.1).tag {} p.2
    let part := (s.partitionAt p.1.die (tileCol p.1.tile)).getD 0
    if x.valid = false then logDie s part (tagOrigin m.ref causeStaleTask) causeStaleTask p.1.die
    else if entTenant (s.domEntry p.1 (domOf (s.nd (p.1.nodeRef x.node)))) ≠ m.tenant then
      logDie s part (tagOrigin m.ref causeDomain) causeDomain p.1.die
    else s.updEl p.1 (fun e => { e with tag := Map.set e.tag p.2 { x with
      arrived := x.arrived + BitVec.ofNat 32 m.n
      err := x.err || m.err } }))

/-- TAG_TOKEN (R354): a satisfied tag sends its token once the channel has a free entry. -/
def execTagToken (e : ElemRef) (tag : BitVec 4) (s : State) : Host.Outcome State Fault Refusal :=
  let x := Map.get (s.el e).tag {} tag.toNat
  let n := e.nodeRef x.node
  .next (if x.valid ∧ x.count.toNat ≤ x.arrived.toNat ∧ chanRoom s n x.chan then
    let tok : Token := if x.err then { kind := kindPoison, payload := nodeOrigin n causeProt } else { payload := x.arrived }
    let s := s.updEl e (fun el => { el with tag := Map.set el.tag tag.toNat { x with valid := false } })
    touchRegion (s.updNd n (fun nd => nd.enterCi x.chan tok)) e
  else s)

end Sys2Proof.Machine
end

