-- ==== Sys2Proof/Machine/EngineRun.lean ====
section
/-! DEFINITION. What a pool engine does with its commands, the end of leases, and the replay of held accesses
(R339, R355-R359, R361, R362, R387). -/

namespace Sys2Proof.Machine

/-! ## Accesses of an engine (R339, R359, R389) -/

/-- An engine of a die with the command at the head of its queue. -/
structure EngRef where
  die : BitVec 4
  kind : BitVec 2
  eng : BitVec 3

/-- The origin record of an engine (R378, R469). -/
def EngRef.origin (x : EngRef) (cause : BitVec 8) : Word := originWord x.die.toNat 1024 x.kind.toNat x.eng.toNat true cause

def State.engAt (s : State) (x : EngRef) : Engine := (s.dieAt x.die).eng x.kind.toNat x.eng.toNat
def State.setEngAt (s : State) (x : EngRef) (e : Engine) : State := s.setEng x.die x.kind.toNat x.eng.toNat e

/-- Where a word of a command lies, or the cause that refuses it: a write to a presence bank is a presence write (R280, R359);
PAGE is PROT once it was abandoned (R388). -/
def engCheck (s : State) (x : EngRef) (c : EngCmd) (va : Nat) (write : Bool) : Except (BitVec 8) (Nat × BitVec 13) :=
  let go := fun (a : Access) => unitCheck s (s.dieTlb x.die) c.stamp va a 4
  let r : Except (BitVec 8) (Nat × BitVec 13) :=
    match go (if write then .write else .read) with
    | .error k =>
      if k = causeProt ∧ write then (match go (.presWrite false) with
        | .ok p => .ok p
        | .error _ => .error k)
      else .error k
    | ok => ok
  match r with
  | .error k => .error (if k = causePage ∧ ((s.engAt x).abandoned = true ∨ c.denied.contains (va % 2 ^ 56) = true) then causeProt else k)
  | ok => ok

/-- A word is PAGE. -/
def engPage (s : State) (x : EngRef) (c : EngCmd) (va : Nat) (write : Bool) : Bool :=
  match engCheck s x c va write with
  | .error k => decide (k = causePage)
  | .ok _ => false

/-- A word that an engine reads: a refused one is POISON with the engine's origin (R389). -/
def engRead (s : State) (x : EngRef) (c : EngCmd) (va : Nat) : PWord :=
  match engCheck s x c va false with
  | .error k => ⟨x.origin k, true⟩
  | .ok p => s.homeWord p.1 p.2

/-- A word may be accessed in this cycle (R281, R340). -/
def engMay (s : State) (x : EngRef) (c : EngCmd) (write : Bool) (va : Nat) : Bool := match engCheck s x c va write with
  | .ok p => unitMay s c.since p.1 write
  | .error _ => true

/-- The words of a step may be accessed in this cycle. -/
def engFree (s : State) (x : EngRef) (c : EngCmd) (reads : List Nat) (write : Nat) : Bool :=
  reads.all (engMay s x c false) && engMay s x c true write

/-- What the access of a word leaves in the cache and the bank (R281, R290). -/
def engUses (s : State) (x : EngRef) (c : EngCmd) (va : Nat) (write : Bool) : State :=
  match engCheck s x c va write with
  | .ok p => useBankAt (unitUses s (s.dieTlb x.die) c.stamp va p write) p.1
  | .error _ => s

/-- A word that an engine writes, checked as it stood before the step's reads, or the cause that refuses it (R357, R364). -/
def engWrite (s t : State) (x : EngRef) (c : EngCmd) (va : Nat) (w : PWord) : Except (BitVec 8) State :=
  match engCheck s x c va true with
  | .error k => .error k
  | .ok p => unitStore t p w

/-- How far a step of a command came: all its writes are made, one now or none; one more is; it has read a word of its input; it
waits for a walk or for a bank; it is held at an address, or refused with a cause. -/
inductive Ran where
  | all (moved : Bool)
  | more
  | reads
  | walks
  | waits
  | held (pos va : Nat) (write : Bool)
  | refused (cause : BitVec 8)

/-! ## `ECPY` and `ECOL` (R357) -/

/-- Words that a command writes. -/
def copyWords (c : EngCmd) : Nat :=
  descNat c.desc 4 / 4 * (if c.opc = 0xB8 then bitsNat (descWord c.desc 7) 16 16 + 1 else 1)

/-- The destination and the sources of word `i`. -/
def copyItem (c : EngCmd) (i : Nat) : Nat × List Nat :=
  let d := c.desc
  let n := descNat d 4 / 4
  if c.opc = 0xB8 then
    let at_ := fun (base : Nat) (stride : Word) => ((base + (i / n) * stride.toInt + 4 * (i % n)) % 2 ^ 56).toNat
    (at_ (descAddr d 2) (descWord d 9), [at_ (descAddr d 0) (descWord d 8)])
  else
    ((descAddr d 2 + 4 * i) % 2 ^ 56,
      (List.range (bitsNat (descWord d 7) 3 3 + 1)).map (fun j => (descAddr d (16 + 2 * j) + 4 * i) % 2 ^ 56))

/-- OP of `ECOL` on two words. -/
def collectOp (op : Nat) (a b : Word) : Word :=
  if op = 6 then rnOp (· + ·) a b
  else (atomicNew false .nearest (if op = 0 then 9 else if op = 1 then 0 else if op = 2 then 11 else if op = 3 then 10
    else if op = 4 then 5 else 4) a b).1

/-- The word that a command writes from its source words. -/
def copyValue (c : EngCmd) (ws : List PWord) : PWord :=
  match firstPoison ws with
  | some w => ⟨w, true⟩
  | none =>
    match ws.map PWord.val with
    | [] => {}
    | w :: ws => PWord.clean (ws.foldl (collectOp (bitsNat (descWord c.desc 7) 0 3)) w)

/-- The words that a command reads and also writes, as they stand when it begins (R357). -/
def overlap (s : State) (x : EngRef) (c : EngCmd) : List (Nat × PWord) :=
  let its := (List.range (copyWords c)).map (copyItem c)
  let dsts := its.map Prod.fst
  ((its.flatMap Prod.snd).filter (fun va => dsts.contains va)).dedup.map (fun va => (va, engRead s x c va))

/-- The source words of an item. Of a word that the command also writes the manual does not fix whether it is read before or
after that write: a free value says it (R357). -/
def copySources (s : State) (x : EngRef) (c : EngCmd) (srcs : List Nat) : State × List PWord :=
  let now := srcs.map (engRead s x c)
  let old := srcs.map (fun va => ((c.pre.find? (fun y => decide (y.1 = va))).map Prod.snd).getD (engRead s x c va))
  if old = now then (s, now)
  else
    let f := s.free
    (f.2, if bitAt f.1 0 then old else now)

/-- The write of word `pos`, acknowledged to the command's tag (R354). -/
def copyStep (s : State) (x : EngRef) (c : EngCmd) (pos : Nat) : State × Ran :=
  let it := copyItem c pos
  let w := unitWalk s c.stamp none (it.1 :: it.2)
  let s := w.1
  if w.2 = false then (s, .walks)
  else match it.2.find? (fun va => engPage s x c va false) with
  | some va => (s, .held pos va false)
  | none =>
    if engFree s x c it.2 it.1 then
      let r := copySources s x c it.2
      let v := copyValue c r.2
      let t := it.2.foldl (fun s va => engUses s x c va false) r.1
      match engWrite s t x c it.1 v with
      | .ok s => (ackTag (engUses s x c it.1 true) (descWord c.desc 5) c.stamp.tenant v.psn, if pos + 1 < copyWords c then .more else .all true)
      | .error k =>
        if k = causePage then (s, .held pos it.1 true)
        else (ackTag t (descWord c.desc 5) c.stamp.tenant true, .refused k)
    else (s, .waits)

/-! ## `ECMP` and `EDCP` (R358) -/

/-- A byte of an input, with the origin of its word where that is POISON. -/
abbrev ZByte := Byte × Option Word

/-- A word of ZW output that holds `n` bytes. -/
structure ZWord where
  w : PWord := {}
  n : Nat := 4

/-- One line of ZW: the mask and the words that are not zero. -/
def zwLine (ws : List Word) : List Byte :=
  let mask := ((List.range 16).map (fun i => if ws.getD i 0 = 0 then 0 else 2 ^ i)).sum
  leBytes 2 mask ++ (ws.filter (fun w => decide (w ≠ 0))).flatMap (fun w => leBytes 4 w.toNat)

/-- Whole lines of words. -/
def zwLines (n : Nat) (ws : List Word) : List (List Word) := (List.range n).map (fun i => (ws.drop (16 * i)).take 16)

/-- The bytes of a word list. -/
def wordsOf (bs : List Byte) : List PWord :=
  (List.range ((bs.length + 3) / 4)).map (fun i => PWord.clean (BitVec.ofNat 32 (leNat ((bs.drop (4 * i)).take 4))))

/-- What `ECMP` writes: its output, the length of it in bytes, and whether the command ends in error after it. -/
structure ZOut where
  words : List PWord := []
  size : Nat := 0
  fail : Bool := false

/-- The output of `ECMP` for the input words (R358, R359). -/
def compress (cap : Nat) (ws : List PWord) : ZOut :=
  let good := (ws.takeWhile (fun w => !w.psn)).map PWord.val
  let bs := (zwLines (good.length / 16) good).flatMap zwLine
  if cap < bs.length then { words := wordsOf (bs.take (cap / 4 * 4)), size := cap, fail := true }
  else { words := wordsOf bs, size := bs.length, fail := ws.any PWord.psn }

/-- The words of one line from the bytes that stand at its start: none where the input has run out. A word with a POISON
source byte, and every word of a line with a POISON mask, is POISON. -/
def expandLine (bs : List ZByte) : Option (List PWord × List ZByte) :=
  let head := bs.take 2
  if head.length < 2 then none
  else
    let mask := leNat (head.map Prod.fst)
    let bad := head.findSome? Prod.snd
    (List.range 16).foldl (fun (acc : Option (List PWord × List ZByte)) i =>
      match acc with
      | none => none
      | some (ws, rest) =>
        if mask / 2 ^ i % 2 = 0 then some (ws ++ [match bad with
          | some w => ⟨w, true⟩
          | none => {}], rest)
        else if rest.length < 4 then none
        else
          let four := rest.take 4
          some (ws ++ [match bad.orElse (fun _ => four.findSome? Prod.snd) with
            | some w => ⟨w, true⟩
            | none => PWord.clean (BitVec.ofNat 32 (leNat (four.map Prod.fst)))], rest.drop 4)) (some ([], bs.drop 2))

/-- The output of `EDCP`: `n` lines. -/
def expand : Nat → List ZByte → ZOut
  | 0, _ => {}
  | n + 1, bs =>
    match expandLine bs with
    | none => { fail := true }
    | some (ws, rest) =>
      let r := expand n rest
      { r with words := ws ++ r.words, size := r.size + 64 }

/-- The bytes that `EDCP` needs for its lines: it reads no word beyond them. None at an address that is PAGE. -/
def expandNeeds (get : Nat → Option PWord) (cap : Nat) : Nat → Nat → Except Nat (List ZByte)
  | 0, _ => .ok []
  | n + 1, at_ =>
    let byte := fun (i : Nat) => (get (i / 4)).map (fun w => ((bits w.val (8 * (i % 4)) 8, if w.psn then some w.val else none) : ZByte))
    let span := fun (from_ len : Nat) => ((List.range (min len (cap - from_))).foldl (fun (acc : Except Nat (List ZByte)) i =>
      match acc, byte (from_ + i) with
      | .ok bs, some b => .ok (bs ++ [b])
      | .ok _, none => .error (from_ + i)
      | .error a, _ => .error a) (.ok []))
    match span at_ 2 with
    | .error a => .error a
    | .ok head =>
      let mask := leNat (head.map Prod.fst)
      let len := 4 * ((List.range 16).filter (fun i => decide (mask / 2 ^ i % 2 = 1))).length
      match span (at_ + 2) len with
      | .error a => .error a
      | .ok body =>
        if (head ++ body).length < 2 + len then .ok (head ++ body)
        else
          match expandNeeds get cap n (at_ + 2 + len) with
          | .error a => .error a
          | .ok rest => .ok (head ++ body ++ rest)

/-- The bytes of the input of an `EDCP` as far as they are read, or the byte that it needs next. -/
def expandInput (c : EngCmd) : Except Nat (List ZByte) :=
  expandNeeds (fun i => c.got[i]?) (descNat c.desc 10) (descNat c.desc 4 / 64) 0

/-- The word of its input that a compression command reads next (R358): none when it has all that it needs. -/
def zwNext (c : EngCmd) : Option Nat :=
  if c.opc = 0xB9 then (if c.got.length < descNat c.desc 4 / 4 then some c.got.length else none)
  else match expandInput c with
    | .error a => some (a / 4)
    | .ok _ => none

/-- The output of a compression command whose input is read. -/
def zwOutput (c : EngCmd) : ZOut :=
  if c.opc = 0xB9 then compress (descNat c.desc 10) c.got
  else match expandInput c with
    | .error _ => {}
    | .ok bs => expand (descNat c.desc 4 / 64) bs

/-- The read of word `i` of the input of a compression command. -/
def zwRead (s : State) (x : EngRef) (c : EngCmd) (i : Nat) : State × EngCmd × Ran :=
  let va := (descAddr c.desc 0 + 4 * i) % 2 ^ 56
  let w := unitWalk s c.stamp none [va]
  let s := w.1
  if w.2 = false then (s, c, .walks)
  else if engPage s x c va false then (s, c, .held 0 va false)
  else if engMay s x c false va then (engUses s x c va false, { c with got := c.got ++ [engRead s x c va] }, .reads)
  else (s, c, .waits)

/-- Words that a compression command writes: its output, and then the length of an `ECMP` that has not failed. -/
def zwWords (c : EngCmd) (out : List PWord) : Nat := out.length + (if c.opc = 0xB9 ∧ c.fail = false then 1 else 0)

/-- The write of word `pos` of a compression command. -/
def zwStep (s : State) (x : EngRef) (c : EngCmd) (out : List PWord) (pos : Nat) : State × Ran :=
  if zwWords c out ≤ pos then (s, .all false)
  else
    let res := decide (out.length ≤ pos)
    let va := if res then descAddr c.desc 11 else (descAddr c.desc 2 + 4 * pos) % 2 ^ 56
    let w := if res then PWord.clean (BitVec.ofNat 32 c.size) else out.getD pos {}
    let part := c.size - 4 * pos
    let walk := unitWalk s c.stamp none [va]
    let s := walk.1
    match walk.2, engCheck s x c va true with
    | false, _ => (s, .walks)
    | true, .error k => (s, if k = causePage then .held pos va true else .refused k)
    | true, .ok p =>
      if unitMay s c.since p.1 true then
        let old := s.homeWord p.1 p.2
        match unitStore s p (if res || decide (4 ≤ part) || w.psn then w else mergeBits old 0 (8 * part) w.val.toNat none) with
        | .ok s => (engUses s x c va true, if pos + 1 < zwWords c out then .more else .all true)
        | .error k => (s, .refused k)
      else (s, .waits)

/-! ## ENGINE_RUN (R340, R356, R357, R387) -/

/-- A step of a command: the write of its next word, by a copy or collective, or by a compression, which first reads its
input word by word. A command that ends in error before its writes are done has made some of them, the manual does not say which
(R359). -/
def runCommand (s : State) (x : EngRef) (c : EngCmd) : State × EngCmd × Ran :=
  if c.opc = 0xB8 ∨ c.opc = 0xBB then
    let c := if c.pos = 0 ∧ c.pre = [] then { c with pre := overlap s x c } else c
    if copyWords c ≤ c.pos then (s, c, .all false)
    else
      let r := copyStep s x c c.pos
      (r.1, c, r.2)
  else
    match c.out with
    | some out =>
      let r := zwStep s x c out c.pos
      (r.1, c, r.2)
    | none =>
      match zwNext c with
      | some i => zwRead s x c i
      | none =>
        let z := zwOutput c
        let f := s.free
        let out := if z.fail then z.words.take (f.1.toNat % (z.words.length + 1)) else z.words
        let c := { c with out := some out, size := if z.fail then 4 * out.length else z.size, fail := z.fail }
        let r := zwStep (if z.fail then f.2 else s) x c out 0
        (r.1, c, r.2)

/-- The engine records the cause of a command that ends in error (R359). -/
def commandFails (s : State) (x : EngRef) (c : EngCmd) (cause : BitVec 8) : State :=
  logDie s c.stamp.part (x.origin cause) cause x.die

/-- The head command with what its run leaves. -/
def putCommand (s : State) (x : EngRef) (c : EngCmd) : State :=
  s.setEngAt x { s.engAt x with queue := c :: (s.engAt x).queue.tail }

/-- A compression command acknowledges once, when it completes (R354). -/
def ackOnce (s : State) (c : EngCmd) (err : Bool) : State :=
  if c.opc = 0xB9 ∨ c.opc = 0xBA then ackTag s (descWord c.desc 5) c.stamp.tenant err else s

/-- The cause that an engine records where the manual names none: some code that a fault may have (R359, R377; a free value, log
entry 88). -/
def someCause (f : Word) : BitVec 8 := BitVec.ofNat 8 (f.toNat % 21 + 1)

/-- What the end of a run does: the command has run, has ended in error, or is held with its record sent (R359, R387). -/
def endRun (s : State) (x : EngRef) (c : EngCmd) : Ran → State
  | .all _ =>
    if c.fail then
      let f := s.free
      ackOnce (commandFails (putCommand f.2 x { c with ran := true }) x c (someCause f.1)) c true
    else ackOnce (putCommand s x { c with ran := true }) c ((c.out.getD []).any PWord.psn)
  | .more => putCommand s x { c with
      pos := c.pos + 1
      since := none
      denied := [] }
  | .reads => putCommand s x { c with
      since := none
      denied := [] }
  | .walks => putCommand s x c
  | .waits => putCommand s x { c with since := some (c.since.getD s.cycle) }
  | .refused k => ackOnce (commandFails (putCommand s x { c with ran := true }) x c k) c true
  | .held pos va write =>
    let s := putCommand s x { c with pos := pos }
    if needsHost s (s.dieTlb x.die) c.stamp va (if write then .write else .read) then askHost s (s.dieTlb x.die) (.eng x.die x.kind x.eng) c.stamp va write
    else
      heldTrap (s.setEngAt x { s.engAt x with held := some causePage }) c.stamp (x.origin causePage) c.opc va write .engine

/-- A step has moved data. -/
def Ran.moved : Ran → Bool
  | .all m => m
  | .more => true
  | .reads => true
  | _ => false

/-- The course that issued a command fires in a cycle in which the engine moves data (R265, R341). -/
def fireCommand (s : State) (c : EngCmd) (r : Ran) : State := match c.region with
  | some x => if r.moved then fire s x else s
  | none => s

/-- ENGINE_RUN (R356, R357): the engine runs the command at the head of its queue. -/
def execEngineRun (die : BitVec 4) (kind : BitVec 2) (eng : BitVec 3) (s : State) : Host.Outcome State Fault Refusal :=
  let x : EngRef := ⟨die, kind, eng⟩
  .next (match (s.engAt x).queue with
  | [] => s
  | c :: _ =>
    if c.ran ∨ (s.engAt x).held.isSome ∨ s.askedHost (.eng die kind eng) then s
    else
      let r := runCommand s x c
      fireCommand (endRun r.1 x r.2.1 r.2.2) c r.2.2)

/-- ENGINE_COMPLETE (R362): a command that has run leaves the queue and arrives at its barrier. -/
def execEngineComplete (die : BitVec 4) (kind : BitVec 2) (eng : BitVec 3) (s : State) : Host.Outcome State Fault Refusal :=
  let x : EngRef := ⟨die, kind, eng⟩
  .next (match (s.engAt x).queue with
  | [] => s
  | c :: rest =>
    if c.ran then
      arriveBarrier (s.setEngAt x { s.engAt x with queue := rest, abandoned := false }) die c.stamp (descWord c.desc 6)
    else s)

/-- LEASE_EXPIRY (R355): a lease ends at its cycle limit. -/
def execLeaseExpiry (die : BitVec 4) (kind : BitVec 2) (eng : BitVec 3) (s : State) : Host.Outcome State Fault Refusal :=
  let x : EngRef := ⟨die, kind, eng⟩
  let e := s.engAt x
  .next (match e.expiry with
  | some c => if e.leased ∧ c ≤ (s.dieAt die).ctr then s.setEngAt x e.endLease else s
  | none => s)

/-- A retirement of a task counts against the leases of its partition on the die (R355). -/
def leaseRetire (s : State) (die : BitVec 4) (part : BitVec 5) : State :=
  s.updDie die (fun d => { d with engine := d.engine.map (fun x =>
    match x.2.tasks with
    | some n =>
      if x.2.leased ∧ x.2.part = part then
        (x.1, if n ≤ 1 then x.2.endLease else { x.2 with tasks := some (n - 1) })
      else x
    | none => x) })

/-- The leases of a partition end with it (R355). -/
def leaseEndPart (s : State) (part : BitVec 5) : State :=
  { s with die := s.die.map (fun d => (d.1, { d.2 with engine := d.2.engine.map (fun x =>
      (x.1, if x.2.leased ∧ x.2.part = part then x.2.endLease else x.2)) })) }

/-! ## PORT_REPLAY (R387) -/

/-- Who asks the host for a unit. -/
def HeldUnit.asker : HeldUnit → Requester
  | .port t p => .port t p
  | .engine die kind eng => .eng die kind eng

/-- The unit's held access is tried again; one that a snapshot has frozen waits for its restore (R399). -/
def replayUnit (s : State) (u : HeldUnit) : State :=
  let s := forgetAsk s (HeldUnit.asker u)
  match u with
  | .port t p => if (s.tport t p).stream.any (fun st => st.frozen) then s else s.setTport t p { s.tport t p with
      stream := (s.tport t p).stream.map (fun (st : Stream) => { st with held := none }) }
  | .engine die kind eng => s.setEngAt ⟨die, kind, eng⟩ { s.engAt ⟨die, kind, eng⟩ with held := none }

/-- PORT_REPLAY (R387): a held access is tried again after an invalidation that covers its partition. -/
def execPortReplay (u : HeldUnit) (s : State) : Host.Outcome State Fault Refusal :=
  .next (if s.replays.contains u then replayUnit { s with replays := s.replays.erase u } u else s)

end Sys2Proof.Machine
end

