-- ==== Sys2Proof/Machine/Load.lean ====
section
/-! DEFINITION. Course images: their header, the checks of a load, what a load writes into tiles, and the unload of a
region (R30, R44, R45, R91, R92, R149, R172, R179, R186, R231-R233, R238, R241, R246, R262, R345, R381, R420). -/

namespace Sys2Proof.Machine

/-! ## Reading an image (R238) -/

/-- Words that the control strip of a die reads for a partition, with its staging stamp; the cause where one faults. -/
def stripRead (s : State) (die : BitVec 4) (p : BitVec 5) (va n : Nat) : Except (BitVec 8) (List Word) :=
  let st := { s.stagingStamp p with issuer := ⟨die, 0, 0, 0⟩ }
  (List.range n).foldl (fun acc i =>
    match acc, unitCheck s (s.dieTlb die) st (va + 4 * i) .read 4 with
    | .ok ws, .ok q => .ok (ws ++ [(s.loadUnder q.1 q.2).val])
    | .error c, _ => .error c
    | _, .error c => .error c) (.ok [])

/-- What the strip's reads of a range leave in the translation unit and the caches; whether they may go on (R290, R302). -/
def stripTouch (s : State) (die : BitVec 4) (p : BitVec 5) (va n : Nat) : State × Bool :=
  unitTouch s { s.stagingStamp p with issuer := ⟨die, 0, 0, 0⟩ } va n false

/-- The first 64 bytes of an image as a header and the offset of its tile records; none where they break the table. -/
def headerOf (ws : List Word) : Option (Header × Nat) :=
  let w := fun (i : Nat) => ws.getD i 0
  let h : Header :=
    { w := bitsNat (w 1) 0 16, h := bitsNat (w 1) 16 16, feat := w 2, size := (w 3).toNat, nin := bitsNat (w 6) 0 8,
      nout := bitsNat (w 6) 8 8, nsnk := bitsNat (w 6) 16 8, digest := (ws.drop 8).flatMap (fun (x : Word) => leBytes 4 x.toNat) }
  let trec := (w 4).toNat + (w 5).toNat * 2 ^ 32
  if w 0 = 0x44435331 ∧ 1 ≤ h.w ∧ h.w ≤ 63 ∧ 1 ≤ h.h ∧ h.h ≤ 32 ∧ h.feat.toNat < 64 ∧ h.size % 64 = 0
      ∧ h.nin ≤ 8 ∧ h.nout ≤ 8 ∧ h.nsnk ≤ 16 ∧ bitsNat (w 6) 24 8 = 0 ∧ w 7 = 0
      ∧ 64 + 4 * (h.nin + h.nout + 2 * h.nsnk) ≤ h.size ∧ trec ≤ h.size
  then some (h, trec) else none

/-- A word of the port table is well formed (R238). -/
def portWordOk (h : Header) (sink : Bool) (w : Word) : Bool :=
  let r := bitsNat w 27 5
  let c := bitsNat w 21 6
  decide (r < h.h) && decide (c < h.w) && decide ((r + c) % 2 = 1) && decide (bitsNat w 4 12 = 0)
    && (if sink then bitAt w 16 || decide (bitsNat w 0 4 = 0) else !bitAt w 16 && decide (bitsNat w 0 4 = 0))

/-- The port table is well formed. -/
def Header.portsOk (h : Header) : Bool :=
  ((h.ports.take (h.nin + h.nout)).all (portWordOk h false))
    && (List.range h.nsnk).all (fun i => portWordOk h true (h.ports.getD (h.nin + h.nout + 2 * i) 0))

/-- The header of an image with its port table, or the cause that fails the load (R238, R248). -/
def readHeader (s : State) (die : BitVec 4) (p : BitVec 5) (img : Nat) : Except (BitVec 8) (Header × Nat) :=
  match stripRead s die p img 16 with
  | .error c => .error c
  | .ok ws =>
    match headerOf ws with
    | none => .error causeCfgIllegal
    | some (h, trec) =>
      match stripRead s die p (img + 64) (h.nin + h.nout + 2 * h.nsnk) with
      | .error c => .error c
      | .ok ps =>
        let h := { h with ports := ps }
        if h.portsOk then .ok (h, trec) else .error causeCfgIllegal

/-- The pool whose 16 words stand from an offset on: slot t_i is the i-th word, little-endian (R81). -/
def poolOf (bs : List Byte) (at_ : Nat) : Map DWord :=
  (List.range 16).map (fun i => (i, Sys2Proof.wordOfBytes ((bs.drop (at_ + 8 * i)).take 8)))

/-- The tile records of an image, or the cause that fails the load. -/
def readCourse (s : State) (die : BitVec 4) (p : BitVec 5) (img : Nat) (h : Header) (trec : Nat) : Except (BitVec 8) Course :=
  match stripRead s die p img (h.size / 4) with
  | .error c => .error c
  | .ok ws =>
    let bs := (ws.flatMap (fun (x : Word) => leBytes 4 x.toNat)).drop trec
    match Config.parseCourse bs with
    | some c => .ok { c with nodes := c.nodes.map (fun x => { x with pool := poolOf bs x.poolAt }) }
    | none => .error causeCfgIllegal

/-! ## The domain map (R420) -/

/-- Entry D of a partition's domain map. -/
def State.mapEntry (s : State) (p : BitVec 5) (d : Nat) : DWord :=
  let pa := s.pcbD p 0x18 + 8 * d
  if s.clk = false ∧ s.isDram pa then 0
  else match s.tableKey p with
    | some k => s.load64Under pa k
    | none => 0

/-- PDOM of a partition (R419). -/
def State.pdom (s : State) (p : BitVec 5) : Nat := bitsNat (s.pcbW p 0) 12 4

/-- The entry of a domain that a load forms: of the map, of PDOM, and of the image's supervisor and loader fields, with
SVT moved by the region's origin (R420). -/
def domainEntry (s : State) (g : Region) (d : Nat) (sup : DWord) : DWord :=
  let m := s.mapEntry g.part d
  let svt := bitsNat sup 44 11 + g.row0 * 64 + g.col0
  let who : Nat := (if bitAt sup 60 then 2 ^ 60 + svt % 2048 * 2 ^ 44 + bitsNat sup 36 8 * 2 ^ 36 else 0)
    + (if bitAt sup 59 then 2 ^ 59 + bitsNat sup 55 4 * 2 ^ 55 else 0)
  BitVec.ofNat 64 ((if bitAt m 63 then 2 ^ 63 else 0) + (if d = s.pdom g.part then 2 ^ 62 else 0) + who
    + bitsNat m 16 16 * 2 ^ 16 + bitsNat m 0 13)

/-! ## Features (R91) -/

def tagFeature (t : Nat) : Nat := if t = 3 then 1 else if t = 4 ∨ t = 5 ∨ t = 6 then 2 else if t = 7 then 4 else 0

def opcodeFeature (o : Nat) : Nat :=
  if 0x90 ≤ o ∧ o ≤ 0x9A then 4
  else if 0x80 ≤ o ∧ o ≤ 0x8B then 8
  else if (0xD5 ≤ o ∧ o ≤ 0xD7) ∨ (0xE0 ≤ o ∧ o ≤ 0xEF) then 16
  else if 0xC0 ≤ o ∧ o ≤ 0xC5 then 32
  else 0

/-- The format tags that a word carries in IMM6. -/
def wordTags (o n : Nat) : List Nat :=
  if o = 0x40 ∨ o = 0x6D then [n % 8, n / 8]
  else if (0x60 ≤ o ∧ o ≤ 0x6F) ∨ [0x43, 0x44, 0x45, 0x58, 0x5C, 0x5D, 0x7C, 0x7D, 0x7E].contains o then [n % 8]
  else []

/-- The features that an instruction uses. -/
def Instr.features (i : Instr) : BitVec 6 :=
  let o := (opcOf i).toNat
  let n := ((i.fields).map (fun f => f.imm.toNat)).getD 0
  (wordTags o n).foldl (fun acc t => acc ||| BitVec.ofNat 6 (tagFeature t)) (BitVec.ofNat 6 (opcodeFeature o))

/-- The features that a channel's accepted FMT uses. -/
def chanFeature (c : Word) : BitVec 6 := if ccAccv c then BitVec.ofNat 6 (tagFeature (ccAccf c).toNat) else 0

/-! ## The checks of a load (R44, R45, R92) -/

/-- What a failed load reports: the node, the slot where the check is a slot's, and the cause (R45, R92). -/
structure LoadError where
  node : NodeRef := {}
  slot : Option Nat := none
  cause : BitVec 8 := causeCfgIllegal
deriving DecidableEq, Repr, Inhabited

/-- Parts of a course by place. -/
def Course.node (c : Course) (tile : Nat × Nat) (e n : Nat) : Option NodeImage :=
  c.nodes.find? (fun x => decide (x.tile = tile) && decide (x.elem.toNat = e) && decide (x.node.toNat = n))
def Course.elem (c : Course) (tile : Nat × Nat) (e : Nat) : Option ElemImage :=
  c.elems.find? (fun x => decide (x.tile = tile) && decide (x.elem.toNat = e))
def Course.tile (c : Course) (tile : Nat × Nat) : Option TileImage := c.tiles.find? (fun x => decide (x.tile = tile))

def NodeImage.dom (x : NodeImage) : Nat := bitsNat x.ncfg 28 4
def NodeImage.cc (x : NodeImage) (k : Nat) : Word := Map.get x.ccfg 0 k

/-- The place of an element's image. -/
abbrev ElemPlace := (Nat × Nat) × Nat

/-- A node is the callee of a gate of its element. -/
def Course.callee (c : Course) (p : ElemPlace) (n : Nat) : Bool := match c.elem p.1 p.2 with
  | some x => x.gate.any (fun g => gateValid g.2 && decide ((gateNode g.2).toNat = n))
  | none => false

/-- The channel of a node's image takes tokens from an edge. -/
def Course.bound (c : Course) (p : ElemPlace) (n k : Nat) : Bool := match c.node p.1 p.2 n with
  | some x => ccBound (x.cc k)
  | none => false

/-- co[k] of a node is the source of an edge or fan-out. -/
def Course.sources (c : Course) (p : ElemPlace) (n k : Nat) : Bool :=
  let me : ImagePort := .out p.1 (BitVec.ofNat 4 p.2) (BitVec.ofNat 4 n) (BitVec.ofNat 2 k)
  c.edges.any (fun e => decide (e.1 = me)) || c.fanouts.any (fun f => decide (f.1 = me))

/-- The channels of an element that a node steers for. -/
def Course.steersFor (c : Course) (p : ElemPlace) (n : Nat) : Nat :=
  ((List.range 16).map (fun m => match c.node p.1 p.2 m with
    | none => 0
    | some x => (List.range 4).countP (fun k => ccStv (x.cc k) && decide ((ccStn (x.cc k)).toNat = n)))).sum

/-- TENANT of the node at the end of an edge; none for a port. -/
def imageTenant (s : State) (part : BitVec 5) (c : Course) (p : ImagePort) : Option (BitVec 16) :=
  let ten := fun (t : Nat × Nat) (e n : BitVec 4) =>
    some (entTenant (s.mapEntry part (((c.node t e.toNat n.toNat).map NodeImage.dom).getD 0)))
  match p with
  | .out t e n _ => ten t e n
  | .inp t e n _ => ten t e n
  | .tile _ _ => none

/-- Ends that are nodes have one TENANT (R186). -/
def oneTenant (s : State) (part : BitVec 5) (c : Course) (ps : List ImagePort) : Bool :=
  match ps.filterMap (imageTenant s part c) with
  | [] => true
  | t :: ts => ts.all (fun x => decide (x = t))

/-- The course's edges reach the tenants that they may (R186). -/
def tenantsFit (s : State) (g : Region) (c : Course) : Bool :=
  c.edges.all (fun e => oneTenant s g.part c [e.1, e.2.1])
    && c.fanouts.all (fun f => oneTenant s g.part c (f.1 :: f.2))
    && (List.range (g.hdr.nin + g.hdr.nout)).all (fun i =>
      let w := g.hdr.ports.getD i 0
      let me : ImagePort := .tile (bitsNat w 27 5, bitsNat w 21 6) (bits w 17 4)
      oneTenant s g.part c (c.edges.flatMap (fun e => if e.1 = me then [e.2.1] else if e.2.1 = me then [e.1] else [])
        ++ c.fanouts.flatMap (fun f => if f.1 = me then f.2 else if f.2.contains me then [f.1] else [])))

/-- A steer node meets the conditions of R172. -/
def steerOk (c : Course) (p : ElemPlace) (x : NodeImage) (k : Nat) : Bool :=
  if ccStv (x.cc k) then
    let n := (ccStn (x.cc k)).toNat
    (match c.node p.1 p.2 n with
    | some y => decide (y.dom = x.dom)
    | none => false)
      && !c.bound p n 3 && !c.sources p n 3 && !c.callee p n && decide (c.steersFor p n = 1)
  else true

/-- A node that serves as a supervisor or loader meets the conditions of R381. -/
def servantOk (c : Course) (p : ElemPlace) (n : Nat) : Bool := !c.bound p n 3 && !c.callee p n && decide (c.steersFor p n = 0)

/-- A node is named as a supervisor or as a loader. -/
def Course.named (c : Course) (p : ElemPlace) (n : Nat) : Bool :=
  c.elems.any (fun x => x.sup.any (fun d =>
      bitAt d.2 60 && decide (bitsNat d.2 44 11 = p.1.1 * 64 + p.1.2) && decide (bitsNat d.2 40 4 = p.2) && decide (bitsNat d.2 36 4 = n)))
    || (match c.elem p.1 p.2 with
      | some x => x.sup.any (fun d => bitAt d.2 59 && decide (bitsNat d.2 55 4 = n))
      | none => false)

/-- Privileged opcodes (R90). -/
def privilegedOpcodes : List Nat := [0xD3, 0xD4, 0xD8, 0xD9, 0xF6, 0xF7, 0xF8]

/-- The header of the block that CXC has in an element: it is read from the image at its offset (R231). -/
def cxHeader (s : State) (g : Region) (img : Nat) (c : Course) (p : ElemPlace) (cx : Nat) : Option DWord :=
  match (c.elem p.1 p.2).bind (fun x => Map.find x.cx cx) with
  | none => none
  | some off => match stripRead s g.die g.part (img + off.toNat) 2 with
    | .ok ws => some (ws.getD 1 0 ++ ws.getD 0 0)
    | .error _ => none

/-- The checks of an instruction that need its course (R44, R85, R160, R315, R353). `hdr` gives the header of the block that
the mapping to be installed names for a CX number. -/
def courseCheck (s : State) (g : Region) (hdr : Nat → Option DWord) (c : Course) (p : ElemPlace) (x : NodeImage) (i : Instr) : Bool :=
  let n := x.node.toNat
  match i with
  | .lntl f => !c.bound p n (bitsNat f.imm 4 2)
  | .lntlLast f => !c.bound p n (bitsNat f.imm 4 2)
  | .cntb f => !c.bound p n (bitsNat f.imm 4 2) && !(decide (bitsNat f.imm 4 2 = 3) && c.callee p n)
  | .aapl f => x.own.any (fun o => decide (o.1.toNat = bitsNat f.imm 0 2))
  | .cx k f =>
    !(decide (bitAt f.imm 0 = false) && decide (24 ≤ f.dst.toNat ∧ f.dst.toNat ≤ 27) && (match hdr k.toNat with
      | some h => decide (bitsNat h 19 2 = 3)
      | none => false))
  | _ => decide (x.dom = s.pdom g.part) || !privilegedOpcodes.contains (opcOf i).toNat

/-- Why a slot fails a load or a restore, if it does: the checks of one slot, of the recorded feature union `feat`, and of the
feature mask last (R92, R93). A restore too is checked against the mask that the die had when the task entered LOADING, as
R465 says of a load (DESIGN CHOICE, log entry 106). -/
def slotError (s : State) (g : Region) (feat : BitVec 6) (hdr : Nat → Option DWord) (c : Course) (p : ElemPlace) (x : NodeImage)
    (slot : Nat) : Option (BitVec 8) :=
  let w := Map.get x.pool 0 slot
  if bitAt x.ncfg slot = false then (if w = 0 then none else some causeCfgIllegal)
  else match decode? w with
    | none => some causeCfgIllegal
    | some i =>
      if !i.wf || !courseCheck s g hdr c p x i || decide (Instr.features i &&& ~~~feat ≠ 0) then some causeCfgIllegal
      else if Instr.features i &&& ~~~g.fmask ≠ 0 then some causeFeature
      else none

/-- Why a node fails the load by itself (R91, R149, R172, R381). -/
def nodeError (s : State) (g : Region) (c : Course) (p : ElemPlace) (x : NodeImage) : Option (BitVec 8) :=
  let fs := (List.range 4).foldl (fun acc k => acc ||| chanFeature (x.cc k)) (0 : BitVec 6)
  if bitAt (s.mapEntry g.part x.dom) 63 = false ∨ bitsNat x.ncfg 24 4 ≠ 0 then some causeCfgIllegal
  else if (List.range 4).any (fun k => !steerOk c p x k) || (c.named p x.node.toNat && !servantOk c p x.node.toNat) then some causeCfgIllegal
  else if fs &&& ~~~(bits g.hdr.feat 0 6) ≠ 0 then some causeCfgIllegal
  else if fs &&& ~~~g.fmask ≠ 0 then some causeFeature
  else none

/-- The first cause with which a node or one of its slots fails, with the slot. The rule orders slots; the checks of a node
that are no slot's come before its slots (DESIGN CHOICE, log entry 50). -/
def nodeCheck (s : State) (g : Region) (img : Nat) (c : Course) (p : ElemPlace) (n : Nat) : Option (Option Nat × BitVec 8) :=
  match c.node p.1 p.2 n with
  | none => none
  | some x => match nodeError s g c p x with
    | some k => some (none, k)
    | none => (List.range 16).findSome? (fun i =>
        (slotError s g (bits g.hdr.feat 0 6) (cxHeader s g img c p) c p x i).map (fun k => (some i, k)))

/-! ## Custom blocks (R231-R233) -/

/-- Sources that a function takes. -/
def cellArity (fn : Nat) : Nat :=
  if [0, 17, 21, 22, 23, 25].contains fn then 1 else if fn = 12 ∨ fn = 16 then 3 else 2

/-- A function that needs a multiplier cell, and one that rounds (R231, R232). -/
def cellMul (fn : Nat) : Bool := decide (fn = 3 ∨ fn = 16 ∨ fn = 24)
def cellRounds (fn : Nat) : Bool := [14, 15, 16, 24, 22, 23].contains fn

/-- The sources of a cell word, x, y and z. -/
def cellSources (w : DWord) : List Nat := [bitsNat w 6 7, bitsNat w 13 7, bitsNat w 20 7]

/-- A cell word is well formed by itself. -/
def cellOk (nc ins : Nat) (w : DWord) : Bool :=
  let fn := bitsNat w 0 6
  decide (bitsNat w 29 3 = 0) && decide (fn ≤ 25) && (cellRounds fn || decide (bitsNat w 27 2 = 0))
    && (cellSources w).zipIdx.all (fun x =>
      if cellArity fn ≤ x.2 then decide (x.1 = 36)
      else decide (x.1 < nc) || decide (32 ≤ x.1 ∧ x.1 < 32 + ins) || decide (x.1 = 35 ∨ x.1 = 36))

/-- The longest path that ends in each cell after `n` rounds; it grows beyond the count of cells on a cycle. -/
def cellDepth (cells : List DWord) : Nat → List Nat
  | 0 => cells.map (fun _ => 0)
  | n + 1 =>
    let d := cellDepth cells n
    cells.map (fun w => 1 + ((cellSources w).map (fun c => if c < 32 then d.getD c 0 else 0)).foldl max 0)

/-- A block obeys R231 and R232. -/
def blockOk (h : DWord) (cells : List DWord) : Bool :=
  let nc := hdrCells h
  let lat := hdrLat h
  decide (bitsNat h 36 28 = 0) && decide (1 ≤ hdrIn h) && decide (hdrIi h ≤ lat) && decide (cells.length = nc)
    && decide (hdrMul h ≤ 8) && decide (hdrMul h = (cells.countP (fun w => cellMul (bitsNat w 0 6))))
    && decide (hdrOut0 h < nc) && (if hdrTwo h then decide (hdrOut1 h < nc) else decide (hdrOut1 h = 0))
    && cells.all (cellOk nc (hdrIn h)) && (cellDepth cells (nc + 1)).all (fun d => decide (d ≤ min nc lat))

/-- The blocks of an element, as the load reads them: `none` where a read faults, which gives its cause. -/
def readBlock (s : State) (g : Region) (va : Nat) : Except (BitVec 8) (DWord × List DWord) :=
  match stripRead s g.die g.part va 2 with
  | .error c => .error c
  | .ok hw =>
    let h : DWord := hw.getD 1 0 ++ hw.getD 0 0
    match stripRead s g.die g.part (va + 8) (2 * hdrCells h) with
    | .error c => .error c
    | .ok ws => .ok (h, (List.range (hdrCells h)).map (fun i => ws.getD (2 * i + 1) 0 ++ ws.getD (2 * i) 0))

/-- Why the blocks of an element fail the load (R233). -/
def blocksError (s : State) (g : Region) (img : Nat) (x : ElemImage) : Option (BitVec 8) :=
  x.cx.findSome? (fun b =>
    if b.2.toNat % 8 ≠ 0 then some causeCfgIllegal
    else match readBlock s g (img + b.2.toNat) with
      | .error c => some c
      | .ok (h, cells) => if blockOk h cells then none else some causeCfgIllegal)

/-! ## The whole course -/

/-- Where a staged binding goes: the memory tile and the offset (R345). -/
def Course.stagePlace (c : Course) (b : Nat) : Option (TileImage × Nat) :=
  c.tiles.findSome? (fun t => (t.stage.find? (fun x => decide (x.1 = b))).map (fun x => (t, x.2)))

/-- Two ranges of bytes meet. -/
def rangesMeet (a n b m : Nat) : Bool := decide (a < b + m ∧ b < a + n)

/-- The staged ranges of a task fit the staging map: each is placed, inside its tile's store, on no data and on no other
range (R105, R345). -/
def stagingFits (c : Course) (staged : List (Nat × List PWord)) : Bool :=
  staged.all (fun x => match c.stagePlace x.1 with
    | none => false
    | some (t, off) =>
      let n := 4 * x.2.length
      decide (off % 4 = 0) && decide (off + n ≤ 0x80000) && t.data.all (fun d => !rangesMeet off n d.1 d.2.length)
        && staged.all (fun y => decide (y.1 = x.1) || (match c.stagePlace y.1 with
          | some (t', o') => decide (t'.tile ≠ t.tile) || !rangesMeet off n o' (4 * y.2.length)
          | none => true)))

/-! ### Routes (R176, R178, R179) -/

/-- The tile of an end of an edge. -/
def ImagePort.place : ImagePort → Nat × Nat
  | .out t _ _ _ => t
  | .inp t _ _ _ => t
  | .tile t _ => t

/-- The route of the edge to a destination. -/
def Course.routeOf (c : Course) (dst : ImagePort) : List (Nat × Nat) := ((c.routes.find? (fun r => decide (r.1 = dst))).map Prod.snd).getD []

/-- Every edge and fan-out branch of a course: its source and its destination. -/
def Course.ends (c : Course) : List (ImagePort × ImagePort) :=
  c.edges.map (fun e => (e.1, e.2.1)) ++ c.fanouts.flatMap (fun f => f.2.map (fun d => (f.1, d)))

/-- Two tiles whose routers share a link. -/
def neighbours (a b : Nat × Nat) : Bool :=
  decide ((a.1 = b.1 ∧ (a.2 + 1 = b.2 ∨ b.2 + 1 = a.2)) ∨ (a.2 = b.2 ∧ (a.1 + 1 = b.1 ∨ b.1 + 1 = a.1)))

/-- A route leads from the source's tile to the destination's by single steps inside the region (R179). -/
def routeFits (h : Header) (c : Course) (e : ImagePort × ImagePort) : Bool :=
  let r := c.routeOf e.2
  decide (r.head? = some e.1.place) && decide (r.getLast? = some e.2.place) && r.all (fun p => decide (p.1 < h.h ∧ p.2 < h.w))
    && (r.zip (r.drop 1)).all (fun p => neighbours p.1 p.2)

/-- The routes of a course fit: each leads through the region; no router has more than 128 route entries or 4 fan-out units
(R179); and the die has an EDGE number for every route (R178). -/
def routesFit (s : State) (g : Region) (c : Course) : Bool :=
  let tiles := c.ends.flatMap (fun e => (c.routeOf e.2).dedup)
  let units := c.fanouts.map (fun f => f.1.place)
  let taken := (Map.values s.edge).countP (fun e => (edgeDies (portTile e.src) e.path).contains g.die)
  c.ends.all (routeFits g.hdr c) && tiles.dedup.all (fun p => decide (tiles.count p ≤ 128))
    && units.dedup.all (fun p => decide (units.count p ≤ 4)) && decide (taken + c.ends.length ≤ 4096)

/-- The first failing place of a course, nodes in ascending order of tile, element and node (R45). The blocks of an element
are judged before its nodes, and what concerns no node last and at the region's first tile (DESIGN CHOICE, log entry 50). -/
def courseError (s : State) (g : Region) (img : Nat) (c : Course) (staged : List (Nat × List PWord)) : Option LoadError :=
  let first : NodeRef := ⟨g.die, (g.tileAt (0, 0)).tile, 0, 0⟩
  let byNode := g.places.findSome? (fun t => (List.range 16).findSome? (fun e =>
    let at_ : NodeRef := ⟨g.die, (g.tileAt t).tile, BitVec.ofNat 4 e, 0⟩
    (match (c.elem t e).bind (blocksError s g img) with
    | some k => some ({ node := at_, cause := k } : LoadError)
    | none => (List.range 16).findSome? (fun n => (nodeCheck s g img c (t, e) n).map (fun k =>
        ({ node := { at_ with node := BitVec.ofNat 4 n }, slot := k.1, cause := k.2 } : LoadError))))))
  byNode.orElse (fun _ =>
    if !routesFit s g c || !tenantsFit s g c || !stagingFits c staged then some { node := first } else none)

/-! ## What a load writes (R30, R148-R151, R158, R170, R233, R241, R279, R314, R345) -/

/-- A node as a load leaves it, in OFF. -/
def loadedNode (x : NodeImage) : Node :=
  { pool := x.pool, ncfg := x.ncfg, g := x.g.map (fun r => (r.1, PWord.clean r.2)),
    fpstat := BitVec.ofNat 32 ((if x.satf then 512 else 0) + (if x.fz then 256 else 0)),
    ccfg := x.ccfg.map (fun c => (c.1, setBits c.2 0 15 0)) }

/-- The inboxes of an element, from the owned ranges of its nodes (R314). -/
def inboxesOf (c : Course) (p : ElemPlace) : Map Inbox :=
  (List.range 16).foldl (fun m n => match c.node p.1 p.2 n with
    | none => m
    | some x => x.own.foldl (fun (m : Map Inbox) o =>
        Map.set m o.1.toNat { owner := x.node, used := true, base := o.2.1, size := o.2.2 }) m) []

/-- The mapping entries of an element and the headers that they name (R233): for every domain that has a node in it. -/
def mappingOf (s : State) (g : Region) (img : Nat) (c : Course) (p : ElemPlace) : Map DWord × Map DWord :=
  match c.elem p.1 p.2 with
  | none => ([], [])
  | some x =>
    let doms := (((List.range 16).filterMap (fun n => (c.node p.1 p.2 n).map NodeImage.dom)).dedup)
    doms.foldl (fun m d => x.cx.foldl (fun (m : Map DWord × Map DWord) b =>
      let va := img + b.2.toNat
      let h := match readBlock s g va with
        | .ok r => r.1
        | .error _ => 0
      (Map.set m.1 (16 * d + b.1) (BitVec.ofNat 64 (2 ^ 63 + va / 8 * 8)), Map.set m.2 (16 * d + b.1) h)) m) ([], [])

/-- A partition word without its reserved bits: `i` is its place, word w of domain D at 3 D + w (R12, R150). -/
def cleanPword (i : Nat) (w : Word) : Word := if i % 3 = 0 then w &&& 0x0FFFFFFF else if i % 3 = 2 then w &&& 0xFF else w

/-- An element as a load leaves it: what belongs to no course keeps its state (store buffer, pod queue, timing, counter,
constant blocks). -/
def loadedElem (s : State) (g : Region) (img : Nat) (c : Course) (p : ElemPlace) (e : ElemRef) : Elem :=
  let old := s.el e
  let x := (c.elem p.1 p.2).getD {}
  let m := mappingOf s g img c p
  { sbuf := old.sbuf, podq := old.podq, pipeAt := old.pipeAt, holdUntil := old.holdUntil,
    lastHold := old.lastHold, lcOff := old.lcOff, cblk := old.cblk, region := some g.id,
    dtab := (List.range 16).map (fun d => (d, domainEntry s g d (Map.get x.sup 0 d))),
    pword := x.pword.map (fun y => (y.1, cleanPword y.1 y.2)), gate := x.gate.map (fun y => (y.1, y.2 &&& 0x8FFF07C0)), cxmap := m.1, cxhdr := m.2,
    inbox := inboxesOf c p }

/-- Bytes written into a store, which make the words they touch clean (R391). -/
def writeData (s : State) (pa : Nat) (bs : List Byte) : State :=
  let s := { s with mem := writeBytes s.mem pa bs }
  (List.range ((pa % 4 + bs.length + 3) / 4)).foldl (fun s i => s.setMeta (pa + 4 * i) { s.metaAt (pa + 4 * i) with psn := false }) s

/-- The local store of an element: every bank owned by a domain is zero but for the course's data (R30). -/
def loadStore (s : State) (e : ElemRef) (el : Elem) (data : List (Nat × List Byte)) : State :=
  let owned := (List.range 12).filter (fun b => (List.range 16).any (fun d => el.owns (BitVec.ofNat 4 d) (.bank b)))
  let s := owned.foldl (fun s b => s.clearRange (lsPa e (0x2000 * b)) 0x2000) s
  data.foldl (fun s x => writeData s (lsPa e x.1) x.2) s

/-- A load writes one element with its nodes. -/
def writeElem (s : State) (g : Region) (img : Nat) (c : Course) (p : ElemPlace) (e : ElemRef) : State :=
  let el := loadedElem s g img c p e
  let s := loadStore s e el (((c.elem p.1 p.2).map ElemImage.data).getD [])
  let s := s.setEl e el
  (List.range 16).foldl (fun s n =>
    s.setNd (e.nodeRef (BitVec.ofNat 4 n)) (((c.node p.1 p.2 n).map loadedNode).getD {})) s

/-- The words that the staged ranges of a task put into a tile (R345). -/
def stagedInto (c : Course) (t : Nat × Nat) (staged : List (Nat × List PWord)) : List (Nat × List PWord) :=
  staged.filterMap (fun x => match c.stagePlace x.1 with
    | some (y, off) => if y.tile = t then some (off, x.2) else none
    | none => none)

/-- Presence banks that a load writes are all EMPTY after it (R282). -/
def emptyBanks (s : State) (t : TileRef) (mtcfg : Word) (ranges : List (Nat × Nat)) : State :=
  (List.range 16).foldl (fun s b =>
    if bitsNat mtcfg (2 * b) 2 = 3 ∧ ranges.any (fun r => rangesMeet (0x8000 * b) 0x8000 r.1 r.2) then
      let lo := tilePa t (0x8000 * b) / 4
      { s with wmeta := (s.wmeta.map (fun x =>
          if lo ≤ x.1 ∧ x.1 < lo + 0x2000 then (x.1, { x.2 with pres := .empty }) else x)).filter (fun x => decide (x.2 ≠ {})) }
    else s) s

/-- A load writes one memory tile (R241, R279, R280, R345). -/
def writeMemTile (s : State) (g : Region) (c : Course) (p : Nat × Nat) (t : TileRef) (staged : List (Nat × List PWord)) : State :=
  let x := (c.tile p).getD {}
  let m := s.tl t
  let s := if m.lastPart = some g.part then s else s.clearRange (tilePa t 0) 0x80000
  let mine := stagedInto c p staged
  let s := x.data.foldl (fun s d => writeData s (tilePa t d.1) d.2) s
  let s := mine.foldl (fun s d => s.storeWords (tilePa t d.1) d.2) s
  let s := emptyBanks s t x.mtcfg (x.data.map (fun d => (d.1, d.2.length)) ++ mine.map (fun d => (d.1, 4 * d.2.length)))
  let changed := fun (b : Nat) =>
    let o := bitsNat m.mtcfg (2 * b) 2
    let n := bitsNat x.mtcfg (2 * b) 2
    decide (o ≠ n) && (decide (o = 1 ∨ o = 2) || decide (n = 1 ∨ n = 2))
  let kept := m.fifo.map (fun q => (q.1, (q.2.zipIdx.filter (fun y => !changed (m.fifoBank q.1 y.2))).map Prod.fst))
  s.setTl t { m with
    mtcfg := x.mtcfg
    fifo := if m.lastPart = some g.part then kept.filter (fun q => decide (q.2 ≠ [])) else []
    lastPart := some g.part }

/-- A load writes one tile of a region. -/
def writeTile (s : State) (g : Region) (img : Nat) (c : Course) (p : Nat × Nat) (staged : List (Nat × List PWord)) : State :=
  let t := g.tileAt p
  if isMemTile t.tile then writeMemTile s g c p t staged
  else (List.range 16).foldl (fun s e => writeElem s g img c (p, e) ⟨t.die, t.tile, BitVec.ofNat 4 e⟩) s

/-- The constant blocks at entry to LOADING (R246): bindings in words 0-31 and the record in words 32-63, for every domain
of the course. -/
def constantBlock (t : Task) : List Word :=
  (List.range 16).flatMap (fun i =>
    let v := ((t.binds.getD i (0, 0)).1 : BitVec 64)
    [bits v 0 32, bits v 32 32]) ++ (List.range 32).map t.word

def fillBlocks (s : State) (g : Region) (c : Course) (t : Task) : State :=
  let doms := (c.nodes.map NodeImage.dom).dedup
  let ws := constantBlock t
  g.elems.foldl (fun s e => s.updEl e (fun el => { el with
    cblk := doms.foldl (fun m d => ws.zipIdx.foldl (fun (m : Map Word) w => Map.set m (64 * d + w.2) w.1) m) el.cblk })) s

/-! ## Edges (R166, R179-R181) -/

/-- An end of an edge in its region. -/
def Region.portAt (g : Region) (p : ImagePort) : Port :=
  let nd := fun (t : Nat × Nat) (e n : BitVec 4) => (⟨g.die, (g.tileAt t).tile, e, n⟩ : NodeRef)
  match p with
  | .out t e n k => .out (nd t e n) k
  | .inp t e n k => .inp (nd t e n) k
  | .tile t k => .tile (g.tileAt t) k

/-- Entries of a destination: of an input channel or of a port's queue (R167, R176). -/
def endCredits : Nat := 4

/-- A new edge with its EDGE number and its route (R178, R179). -/
def addEdge (s : State) (g : Region) (c : Course) (src dst : ImagePort) (fan : Option (Nat × Nat)) (back : Bool) : Nat × State :=
  let f := s.fresh
  let path := ((c.routeOf dst).drop 1).map g.tileAt
  (f.1, f.2.setEd f.1 { id := f.1, region := g.id, src := g.portAt src, dst := g.portAt dst, fan := fan, num := freeNumber s [g.die],
                        path := path, credits := endCredits, back := back })

/-- The edges and fan-outs of a course are installed. -/
def installEdges (s : State) (g : Region) (c : Course) : State :=
  let s := c.edges.foldl (fun s e => (addEdge s g c e.1 e.2.1 none e.2.2).2) s
  c.fanouts.foldl (fun s f =>
    let k := s.fresh
    let r := f.2.zipIdx.foldl (fun (a : State × List Branch) d =>
      let e := addEdge a.1 g c f.1 d.1 (some (k.1, d.2)) false
      (e.2, a.2 ++ [{ edge := e.1 }])) (k.2, [])
    r.1.setFo k.1 { id := k.1, region := g.id, src := g.portAt f.1, branches := r.2 }) s

/-! ## Unload (R42, R218, R240, R248, R341) -/

/-- A stream that ends with its course (R349). -/
def endsWithCourse (st : Stream) : Bool := decide (4 ≤ sMode st.desc)

/-- A memory tile leaves its course: its ports lose their tokens and its streams of modes 4-8, and those that wait in its
queue go (R349); other commands already accepted run on (R341). -/
def leaveTile (s : State) (t : TileRef) : State :=
  let m := s.tl t
  let gone := m.queue.filter (fun c => decide (4 ≤ sMode c.desc))
  let lost := m.running.filter (fun x => endsWithCourse x.2)
  let s := s.setTl t (MTile.forgetBuffers { m with
    queue := m.queue.filter (fun c => decide (sMode c.desc < 4))
    ports := m.ports.map (fun x => (x.1, { x.2 with
      inq := []
      freed := 0
      drops := false
      stream := x.2.stream.filter (fun st => !endsWithCourse st) })) })
  let s := gone.foldl (fun s c => releaseBarrier s t.die c.stamp (sBarh c.desc)) s
  lost.foldl (fun s x => releaseBarrier s t.die x.2.stamp (sBarh x.2.desc)) s

/-- An element leaves its course: its nodes and its section enter OFF. -/
def leaveElem (s : State) (e : ElemRef) : State :=
  let s := (List.range 16).foldl (fun s i => enterOff s (e.nodeRef (BitVec.ofNat 4 i))) s
  s.updEl e (fun el => { el with
    mx := {}
    region := none })

/-- The tile of a port of a region has opened. -/
def Region.portOpen (g : Region) (p : TileRef × BitVec 4) : Bool := g.opened.contains p.1.tile

/-- The forwarding routes into an input port. -/
def routesInto (s : State) (rid i : Nat) : List Edge :=
  let p := (s.rg rid).inPort i
  (Map.values s.edge).filter (fun e => e.route && decide (e.region = rid) && decide (e.dst = .tile p.1 p.2))

/-- A forwarding route between two ports, on the dispatcher's way (R254). -/
def addRoute (s : State) (rid i : Nat) (src : TileRef × BitVec 4) : Nat × State :=
  let dst := (s.rg rid).inPort i
  let f := s.fresh
  let path := routeTo src.1 dst.1
  let s := f.2.setEd f.1 { id := f.1, region := rid, src := .tile src.1 src.2, dst := .tile dst.1 dst.2, credits := endCredits, route := true,
                           num := freeNumber s (edgeDies src.1 path), path := path }
  (f.1, s.updRg rid (fun x => { x with
    ifed := setBits x.ifed i 1 1
    iend := setBits x.iend i 1 0 }))

/-- An input port can take a route: its gate is open and no route leads to it (R176, R254). -/
def takesRoute (s : State) (rid i : Nat) : Bool :=
  let g := s.rg rid
  decide (routesInto s rid i = []) && decide (g.st = .running) && g.portOpen (g.inPort i)

/-- What a predecessor that was discarded before it had a route still owes an input port. -/
def brokenInto (s : State) (rid i : Nat) : Option (Nat × Word) :=
  (s.task (s.rg rid).die (s.rg rid).task.toNat).broken.find? (fun x => decide (x.1 = i))

/-- A predecessor that was discarded before it had a route gives an open input port its POISON and END (R255). -/
def linkBroken (s : State) (rid i : Nat) (x : Nat × Word) : State :=
  let g := s.rg rid
  let r := addRoute s rid i (g.inPort i)
  (r.2.updEd r.1 (fun e => { e with
    ended := true
    flight := [{ kind := kindPoison, payload := x.2 }] })).updTask g.die g.task.toNat (fun t => { t with broken := t.broken.erase x })

/-- A discarded predecessor that had no route owes one POISON and END to an input port of a successor: at once where the
port's gate is open and free, else when it is (R255). -/
def breakInto (s : State) (d : BitVec 4) (task iport : Nat) (w : Word) : State :=
  let s := s.updTask d task (fun t => { t with broken := t.broken ++ [(iport, w)] })
  match s.regionOfTask d task with
  | some rid => match (if takesRoute s rid iport then brokenInto s rid iport else none) with
    | some b => linkBroken s rid iport b
    | none => s
  | none => s

/-- What a discarded predecessor still owes: one POISON and then END on each of its routes, and to each live stream successor
that has no route yet (R255). -/
def breakRoutes (s : State) (rid : Nat) : State :=
  let g := s.rg rid
  let task := s.task g.die g.task.toNat
  g.oport.foldl (fun s x =>
    let p := g.outPort x.1
    let w := originWord p.1.die.toNat p.1.tile.toNat p.2.toNat 0 true causeStaleTask
    match x.2 with
    | some e =>
      if (Map.find s.edge e).isSome then
        injectTokens (s.updEd e (fun ed => { ed with ended := true })) (s.ed e) [{ kind := kindPoison, payload := w }]
      else s
    | none =>
      ((List.range task.nsuc).map task.succ).foldl (fun s e =>
        if sucKind e = 2 ∧ sucLoc e = true ∧ sucOport e = x.1 ∧ (s.task (sucDie e) (sucIndex e)).gen = sucGen e then
          breakInto s (sucDie e) (sucIndex e) (sucIport e) w
        else s) s) s

/-- The edges and fan-outs of a region are given up, with their flits. -/
def dropEdges (s : State) (rid : Nat) : State :=
  dropFlits { s with
    edge := s.edge.filter (fun x => decide (x.2.region ≠ rid))
    fanout := s.fanout.filter (fun x => decide (x.2.region ≠ rid)) }

/-- A region that has no course: its tiles, its edges and its fan-outs are given up. Forwarding routes to it end with it. -/
def vacate (s : State) (rid : Nat) : State :=
  let g := s.rg rid
  let s := g.elems.foldl leaveElem s
  dropEdges (g.memTiles.foldl leaveTile s) rid

/-- UNLOAD of a region: every node and section in OFF, its tiles free (R240, R248). A course that is discarded while it
runs, or while it is saved and holds no tile, breaks its forwarding routes. -/
def unloadRegion (s : State) (rid : Nat) (discarded : Bool) : State :=
  let g := s.rg rid
  let s := if discarded ∧ (g.st = .running ∨ g.st = .saved) then breakRoutes s rid else s
  if g.st = .saved then
    let s := dropEdges s rid
    { s with region := Map.erase s.region rid }
  else
  let s := vacate s rid
  let s := s.updDie g.die (fun d => { d with lastRegion := some (g.hdr.w, g.hdr.h, g.row0, g.col0) })
  { s with region := Map.erase s.region rid }

/-- A load that is abandoned: its tiles count as having held no course (R405). -/
def abandonLoad (s : State) (rid : Nat) : State :=
  let g := s.rg rid
  let s := unloadRegion s rid true
  g.memTiles.foldl (fun s t => s.updTl t (fun m => { m with lastPart := none })) s

end Sys2Proof.Machine
end

