-- ==== Sys2Proof/Machine/Slots.lean ====
section
/-! DEFINITION. The queue slots of a die: their copies of queue records, mapping and unmapping, doorbell values, and the
completion rings (R259, R429-R431). -/

namespace Sys2Proof.Machine

/-- The die counter (R23). -/
def State.now (s : State) (d : BitVec 4) : Nat := (s.dieAt d).ctr

/-! ## Slots and records (R429, R430) -/

def State.qslot (s : State) (d : BitVec 4) (i : Nat) : QSlot := Map.get (s.dieAt d).slot {} i
def State.setQslot (s : State) (d : BitVec 4) (i : Nat) (q : QSlot) : State :=
  s.updDie d (fun x => { x with slot := Map.set x.slot i q })

/-- The slot that a queue is mapped to. -/
def State.slotOf (s : State) (r : QReg) : Option Nat :=
  ((s.dieAt r.die).slot.find? (fun x => x.2.mapped && decide (x.2.fn = r.fn) && decide (x.2.q = r.q))).map Prod.fst

/-- Entries of a slot's rings: `n` of R430, and where the rings stand. -/
def QSlot.size (q : QSlot) : Nat := 2 ^ bitsNat (Map.get q.rec_ 0 8) 0 8
def QSlot.cls (q : QSlot) : Nat := bitsNat (Map.get q.rec_ 0 0) 0 3
def QSlot.weight (q : QSlot) : Nat := bitsNat (Map.get q.rec_ 0 0) 8 4 + 1
def QSlot.tenant (q : QSlot) : BitVec 16 := bits (Map.get q.rec_ 0 2) 0 16
def QSlot.sqbase (q : QSlot) : Nat := (Map.get q.rec_ 0 4).toNat + (Map.get q.rec_ 0 5).toNat * 2 ^ 32
def QSlot.stamp (q : QSlot) (d : BitVec 4) : Stamp := { part := q.part, tenant := q.tenant, issuer := ⟨d, 0, 0, 0⟩ }
def QSlot.entryVa (q : QSlot) : Nat := q.sqbase + 128 * (q.head % q.size)

/-- Entries announced up to an index and not yet read. -/
def QSlot.announced (q : QSlot) (v : Nat) : Nat := (v + q.size - q.head % q.size) % q.size

/-- A slot's ring is empty and it has been idle for 2^20 die cycles. -/
def QSlot.mayLeave (q : QSlot) (now : Nat) : Bool :=
  q.mapped && decide (q.announced q.bell = 0) && decide (q.pend = []) && decide (q.idleSince + 2 ^ 20 ≤ now)

/-- Slots of a die that a partition holds. -/
def State.slotsHeld (s : State) (d : BitVec 4) (p : BitVec 5) : List (Nat × QSlot) :=
  (s.dieAt d).slot.filter (fun x => x.2.mapped && decide (x.2.part = p))

/-- QMAX of a partition (R419). -/
def State.qmax (s : State) (p : BitVec 5) : Nat := bitsNat (s.pcbW p 0) 0 7

/-- The lowest slot of a die that holds no queue, where the partition may hold one more. -/
def State.openSlot (s : State) (d : BitVec 4) (p : BitVec 5) : Option Nat :=
  if (s.slotsHeld d p).length < s.qmax p then (List.range 64).find? (fun i => !(s.qslot d i).mapped) else none

/-- UNMAP: SQHEAD, DBSH and CQTAIL are written back and the slot is given up (R430). -/
def unmapSlot (s : State) (d : BitVec 4) (i : Nat) : State :=
  let q := s.qslot d i
  let s := s.setQslot d i {}
  match s.queueReg q.fn q.q with
  | none => s
  | some r =>
    (s.writePart r.part (r.addr.toNat + 0x80) (s.stagingStamp r.part).keyid
      (leBytes 4 (q.head % q.size) ++ leBytes 4 q.bell ++ leBytes 4 q.cqTail)).1

/-- The hash of bytes 0x00-0x7F is the shadow hash. -/
def shadowHolds (r : QReg) (bs : List Byte) : Bool := decide (sha256 (bs.take 0x80) = r.shadow)

/-- A slot's copy of a record (R430). -/
def slotCopy (r : QReg) (bs : List Byte) (now : Nat) : QSlot :=
  let w := fun (i : Nat) => leNat ((bs.drop (4 * i)).take 4)
  { mapped := true
    fn := r.fn
    q := r.q
    part := r.part
    rec_ := (List.range 36).map (fun i => (i, BitVec.ofNat 32 (w i)))
    head := w 32
    bell := w 33
    cqTail := w 34
    err := r.err
    idleSince := now }

/-- MAP of a queue into a slot (R430): a record that no longer reads with its shadow hash is an error of reason 1. -/
def mapInto (s : State) (r : QReg) (i : Nat) : State :=
  let s := s.usePart r.part r.addr.toNat 0x90 (s.stagingStamp r.part).keyid
  match s.readPart r.part r.addr.toNat 0x90 (s.stagingStamp r.part).keyid with
  | .error _ => regError s r.fn r.q 1
  | .ok bs => if shadowHolds r bs then s.setQslot r.die i (slotCopy r bs (s.now r.die)) else regError s r.fn r.q 1

/-- A doorbell value is judged against a mapped slot (R430). -/
def judge (s : State) (r : QReg) (i : Nat) (v : Word) : State :=
  let q := s.qslot r.die i
  if q.size ≤ v.toNat ∨ q.announced v.toNat < q.announced q.bell then regError s r.fn r.q 3
  else s.setQslot r.die i { q with
    bell := v.toNat
    idleSince := s.now r.die }

/-- A completion record enters the ring of a mapped slot (R259, R431): a write that faults puts the queue in error, one that
needs the host's translation waits for it (R425). -/
def ringWrite (s : State) (d : BitVec 4) (slot : Nat) (ws : List Word) : State :=
  let q := s.qslot d slot
  let n := 2 ^ bitsNat (Map.get q.rec_ 0 8) 8 8
  let va := (Map.get q.rec_ 0 6).toNat + (Map.get q.rec_ 0 7).toNat * 2 ^ 32 + 16 * q.cqTail
  if q.mapped = false then s
  else if q.pend ≠ [] ∨ s.queueHost d q va = true then
    askHost (s.setQslot d slot { q with pend := q.pend ++ [ws] }) (s.dieTlb d) (.queue d (BitVec.ofNat 6 slot)) (q.stamp d) va true
  else
    let r := (s.queueTouch d q va (4 * ws.length) true).1.queueWrite d q va ws
    if r.2 then r.1.setQslot d slot { q with cqTail := (q.cqTail + 1) % n } else queueError r.1 d slot 4

/-- What waits for a queue to have a slot: a held doorbell (R430), or completion records of its tasks. -/
def QReg.wants (r : QReg) : Bool := r.bell.isSome || decide (r.pend ≠ [])

/-- A queue that is not mapped takes a slot: its completion records enter its ring, and its held doorbell is judged. A queue in
error is mapped for its completion records alone (R431). -/
def mapAndServe (s : State) (r : QReg) (i : Nat) : State :=
  let s := mapInto (s.updQreg r.fn r.q (fun (x : QReg) => { x with
    bell := none
    pend := [] })) r i
  if (s.qslot r.die i).mapped then
    let s := r.pend.foldl (fun s ws => ringWrite s r.die i ws) s
    match r.bell with
    | some v => judge s r i v
    | none => s
  else s

/-- The first queue of a partition on a die that waits for a slot, once one is open. -/
def serveHeld (s : State) (d : BitVec 4) (p : BitVec 5) : State :=
  match s.qreg.find? (fun r => decide (r.die = d) && decide (r.part = p) && r.wants), s.openSlot d p with
  | some r, some i => mapAndServe s r i
  | _, _ => s

/-- A queue that is not mapped comes to wait for a slot: one is taken where it is open, or where an idle queue leaves it (R430). -/
def wantSlot (s : State) (r : QReg) : State :=
  let s := s.updQreg r.fn r.q (fun _ => r)
  let s := match s.openSlot r.die r.part with
    | some _ => s
    | none => match (s.slotsHeld r.die r.part).find? (fun x => x.2.mayLeave (s.now r.die)) with
      | some x => unmapSlot s r.die x.1
      | none => s
  match s.openSlot r.die r.part with
  | some i => mapAndServe s r i
  | none => s

/-- A queue's doorbell (R430): mapped, judged; unmapped, mapped first or held until a slot is open. -/
def ringBell (s : State) (r : QReg) (v : Word) : State :=
  match s.slotOf r with
  | some i => judge s r i v
  | none => wantSlot s { r with bell := some v }

/-- A completion record (R259) goes to the queue that its task came from, which is mapped again where it has left its slot, as
for a doorbell; a task that came from none writes to the ring of its slot. The record of a queue that is not registered any
more, or of a slot that holds none, is dropped (DESIGN CHOICE, log entry 113). -/
def completion (s : State) (d : BitVec 4) (slot : BitVec 6) (own : Option (BitVec 12 × BitVec 6)) (ref : Word) (st cause : Nat) : State :=
  let now := s.now d
  let ws : List Word := [ref, BitVec.ofNat 32 (cause * 256 + st), BitVec.ofNat 32 now, BitVec.ofNat 32 (now / 2 ^ 32)]
  match own with
  | none => ringWrite s d slot.toNat ws
  | some o => match s.queueReg o.1 o.2 with
    | none => s
    | some r => match s.slotOf r with
      | some i => ringWrite s r.die i ws
      | none => wantSlot s { r with pend := r.pend ++ [ws] }

end Sys2Proof.Machine
end

