-- ==== Sys2Proof/Machine/Tasks.lean ====
section
/-! DEFINITION. Task records: decrements, entry to STAGING, retirement, pallets, and the instructions on tasks, 0xC8-0xCA
and 0xF9 (R242-R256, R258, R259, R266-R268, R343-R345, R386, R416, R444). -/

namespace Sys2Proof.Machine

/-! ## Decrements (R249, R250, R416, R444) -/

/-- A saturating count of a partition. -/
def countUp (m : Map Word) (p : BitVec 5) : Map Word :=
  let v := Map.get m 0 p.toNat
  if v = 0xFFFFFFFF then m else Map.set m p.toNat (v + 1)

/-- A dispatcher drops a decrement: counted and logged under PART of the record, or under the source partition where the
record is FREE (R249). -/
def dropDec (s : State) (d : BitVec 4) (t : Task) (source : BitVec 5) (excess : Bool) : State :=
  let p := if t.state ≠ 0 then t.part else source
  let s := if excess then { s with dover := countUp s.dover p } else { s with dstale := countUp s.dstale p }
  logStale s d p

/-- A decrement leaves a node for the dispatcher of its die (R267, R469), or a dispatcher for a record of the module: one to a
die that is not admitted is dropped here (R416), one to its own records has come. -/
def sendDec (s : State) (src : BitVec 4) (ref : Word) (exp : Bool) (rb : Option Nat) (part : BitVec 5)
    (node : Option NodeRef := none) : State :=
  if node.isSome ∨ s.admitted (refDie ref) then
    let m : DecMsg := { id := s.serial, node := node, src := src, ref := ref, exp := exp, rb := rb, part := part
                        leaving := node.isSome || decide (refDie ref ≠ src) }
    { s with
      serial := s.serial + 1
      decs := s.decs ++ [m] }
  else logStale s src part

/-- A decrement leaves for another module; an unreachable one gets none (R435, R444). -/
def sendDecRemote (s : State) (die : BitVec 4) (m : BitVec 10) (tenant : BitVec 16) (ref : Word) (exp : Bool) (rb : Option Nat) : State :=
  match podPort s die m with
  | none => s
  | some p =>
    let x : PodDecrement := { srcMod := s.modId, srcTenant := tenant, port := p, ref := ref, exp := exp, rb := rb }
    { s with podSent := s.podSent ++ [{ mod := m, port := p, dec := some x }] }

/-- A decrement goes to the record that a successor entry names (R250). -/
def sendSuccessor (s : State) (d : BitVec 4) (t : Task) (e : DWord) (exp : Bool) (rb : Option Nat) : State :=
  let ref := taskRef (sucDie e) (sucIndex e) (sucGen e)
  if sucLoc e then sendDec s d ref exp rb t.part else sendDecRemote s d (sucMod e) t.tenant ref exp rb

/-! ## Completion records and retirement (R250, R259) -/

/-- What remains of a record's time (R250). -/
def remaining (t : Task) (now : Nat) : Option Nat := if t.deadline = noDeadline then none else some (t.deadline - now)

/-- A record returns to FREE (R242, R248). -/
def Task.free (t : Task) : Task :=
  { (t.setField 0 28 4 0).setField 0 20 8 ((t.gen + 1) % 256) with
    staged := []
    binds := []
    stuck := false
    paged := false
    streamed := false
    front := false
    restore := false }

/-- RETIREMENT (R250): STATE, the decrements, the completion record, and FREE where KEEP is 0. Its retirement counts for
the leases of its partition (R355). -/
def retire (s : State) (d : BitVec 4) (i : Nat) (st : Nat) : State :=
  let t := { (s.task d i).setField 0 28 4 st with
    staged := []
    stuck := false
    paged := false
    front := false }
  let s := s.setTask d i t
  let rb := remaining t (s.now d)
  let s := (List.range t.nsuc).foldl (fun s k =>
    let e := t.succ k
    if sucKind e = 0 ∨ (sucKind e = 2 ∧ t.streamed) then s else sendSuccessor s d t e (decide (st ≠ 8)) rb) s
  let code := st + (if bitAt (t.word 8) 15 then 16 else 0) + (if t.expf then 32 else 0)
  let s := if t.ntfy then completion s d t.qslot t.queue (taskRef d i t.gen) code (t.field 8 0 8) else s
  let s := leaseRetire s d t.part
  if t.keep then s else s.setTask d i (s.task d i).free

/-- A task fails with a cause (R248). -/
def failTask (s : State) (d : BitVec 4) (i : Nat) (cause : BitVec 8) : State :=
  retire (s.updTask d i (fun t => t.setField 8 0 8 cause.toNat)) d i 10

/-- The course of a record is discarded: its region is reset without save (R248, R253). -/
def discard (s : State) (d : BitVec 4) (i : Nat) : State :=
  match s.regionOfTask d i with
  | none => s
  | some r => if (s.rg r).st = .loading then abandonLoad s r else unloadRegion s r true

/-- ABORT of a live record (R248, R258). -/
def abortTask (s : State) (d : BitVec 4) (i : Nat) : State := failTask (discard s d i) d i 0

/-! ## Entry to STAGING (R245, R249, R343) -/

/-- The hod's origin record (R378). -/
def hodOrigin (d : BitVec 4) (binding : Nat) (cause : BitVec 8) : Word := originWord d.toNat 0 1 binding true cause

/-- The record of a read of the hod that faults goes to the service core (R245, R344). -/
def hodTrap (s : State) (d : BitVec 4) (p : BitVec 5) (binding : Nat) (cause : BitVec 8) (va : Nat) : State :=
  s.sendTrap none (some ⟨d, 0, 1, BitVec.ofNat 4 binding⟩) p
    [hodOrigin d binding cause, trapW1 0 0 0 0 .engine, BitVec.ofNat 32 va, detbOf false false (va / 2 ^ 32)]

/-- A handle names a binding (R245, R419). -/
def State.handleOk (s : State) (p : BitVec 5) (h : Nat) : Bool := decide (h ≠ 0xFFFF) && decide (h < bitsNat (s.pcbW p 0x28) 0 16)

/-- The entries of a task's bindings, or the binding and cause of the first read that faults, with its address (R245). -/
def readBindings (s : State) (p : BitVec 5) (t : Task) : Except (Nat × BitVec 8 × Nat) (List (BitVec 64 × Nat)) :=
  (List.range 16).foldl (fun acc i =>
    match acc with
    | .error e => .error e
    | .ok bs =>
      if s.handleOk p (t.bind i) then
        let a := s.pcbD p 0x20 + 16 * t.bind i
        match s.readPart p a 16 (s.stagingStamp p).keyid with
        | .ok b => .ok (bs ++ [(BitVec.ofNat 64 (leNat (b.take 8)), leNat ((b.drop 8).take 4))])
        | .error c => .error (i, c, a)
      else .ok (bs ++ [(0, 0)])) (.ok [])

/-- The reads of the binding table pass through the caches of their homes (R290). -/
def useBindings (s : State) (p : BitVec 5) (t : Task) : State :=
  (List.range 16).foldl (fun (s : State) i =>
    if s.handleOk p (t.bind i) then s.usePart p (s.pcbD p 0x20 + 16 * t.bind i) 16 (s.stagingStamp p).keyid else s) s

/-- A task in STAGING is held by a fault: PAGE until an invalidation, another cause for good (R245, R344). -/
def holdTask (s : State) (d : BitVec 4) (i : Nat) (e : Nat × BitVec 8 × Nat) : State :=
  let s := s.updTask d i (fun t => { t with
    paged := decide (e.2.1 = causePage)
    stuck := decide (e.2.1 ≠ causePage) })
  hodTrap s d (s.task d i).part e.1 e.2.1 e.2.2

/-! ## The hod (R256, R343-R345) -/

/-- The bindings that the hod stages for a task (R256, R343). -/
def stagedBindings (s : State) (t : Task) : List Nat := (List.range 16).filter (fun i => t.staged? i && s.handleOk t.part (t.bind i))

/-- A staging length is legal (R343). -/
def stageLengthOk (n : Nat) : Bool := decide (n % 4 = 0 ∧ 4 ≤ n ∧ n ≤ 524288)

/-- The length of a binding's range as the task read it. -/
def Task.rangeLen (t : Task) (b : Nat) : Nat := (t.binds.getD b (0, 0)).2

/-- The first staged binding whose length is not legal. -/
def badLength (s : State) (t : Task) : Option Nat := (stagedBindings s t).find? (fun b => !stageLengthOk (t.rangeLen b))

/-- Units of 4 KiB that a task's ranges take (R343); a task with an illegal length is given none. -/
def stageUnits (s : State) (t : Task) : Nat :=
  if (badLength s t).isSome then 0 else ((stagedBindings s t).map (fun i => (t.rangeLen i + 4095) / 4096)).sum

/-- Units that other tasks of the die hold or have before this one (R344); one that a fault holds keeps its own (R345). -/
def unitsBefore (s : State) (d : BitVec 4) (i : Nat) : Nat :=
  let me := s.task d i
  ((s.dieAt d).task.map (fun x =>
    if x.1 = i then 0
    else if x.2.state = 4 ∨ x.2.state = 5 then stageUnits s x.2
    else if x.2.state = 3 ∧ (x.2.stagedAt < me.stagedAt ∨ (x.2.stagedAt = me.stagedAt ∧ x.1 < i)) then stageUnits s x.2
    else 0)).sum

/-- A task's ranges fit into the store behind those before it (R344). -/
def storeFits (s : State) (d : BitVec 4) (i : Nat) : Bool :=
  let n := stageUnits s (s.task d i)
  decide (n = 0) || decide (unitsBefore s d i + n ≤ 2048)

/-- The stamp of the hod's reads (R343). -/
def hodStamp (s : State) (d : BitVec 4) (p : BitVec 5) : Stamp := { s.stagingStamp p with issuer := ⟨d, 0, 0, 0⟩ }

/-- Physical start, length and key of a staged range: ranges that agree in them are the same range (R344). -/
def rangeOf (s : State) (d : BitVec 4) (t : Task) (b : Nat) : Option (Nat × Nat × BitVec 13) :=
  match unitCheck s (s.dieTlb d) (hodStamp s d t.part) (t.binds.getD b (0, 0)).1.toNat .read 4 with
  | .ok q => some (q.1, t.rangeLen b, q.2)
  | .error _ => none

/-- The words of a range, or the cause and address of the first that faults (R344). -/
def readRange (s : State) (d : BitVec 4) (p : BitVec 5) (va n : Nat) : Except (BitVec 8 × Nat) (List PWord) :=
  (List.range n).foldl (fun acc i =>
    match acc, unitCheck s (s.dieTlb d) (hodStamp s d p) (va + 4 * i) .read 4 with
    | .ok ws, .ok q => .ok (ws ++ [s.homeWord q.1 q.2])
    | .error c, _ => .error c
    | .ok _, .error c => .error (c, va + 4 * i)) (.ok [])

/-- All staged ranges of a task, or the binding, cause and address of the first fault. A range that a merged read has already
delivered is not read again (R256). -/
def readStaged (s : State) (d : BitVec 4) (t : Task) : Except (Nat × BitVec 8 × Nat) (List (Nat × List PWord)) :=
  (stagedBindings s t).foldl (fun acc i =>
    match acc with
    | .error e => .error e
    | .ok xs =>
      match t.staged.find? (fun x => decide (x.1 = i)) with
      | some x => .ok (xs ++ [x])
      | none => match readRange s d t.part (t.binds.getD i (0, 0)).1.toNat (t.rangeLen i / 4) with
        | .ok ws => .ok (xs ++ [(i, ws)])
        | .error e => .error (i, e.1, e.2)) (.ok [])

/-- The hod's reads of the ranges of a task that have yet to be read pass through the micro-TLB of its die and the caches of
their homes; they wait where no tracker is free (R290, R302). -/
def useRanges (s : State) (d : BitVec 4) (t : Task) : State × Bool :=
  ((stagedBindings s t).filter (fun b => t.staged.all (fun y => decide (y.1 ≠ b)))).foldl (fun acc b =>
    let w := unitTouch acc.1 (hodStamp s d t.part) (t.binds.getD b (0, 0)).1.toNat (t.rangeLen b) false
    (w.1, acc.2 && w.2)) (s, true)

/-- A range that the hod has read is delivered to every other task in STAGING on any die that names the same range and has its
store (R256, R344). -/
def deliverRange (s : State) (x : Nat × Nat × BitVec 13) (ws : List PWord) : State :=
  { s with die := s.die.map (fun d => (d.1, { d.2 with task := d.2.task.map (fun t => (t.1,
      if t.2.state = 3 ∧ t.2.binds ≠ [] ∧ storeFits s (BitVec.ofNat 4 d.1) t.1 = true then
        let bs := (stagedBindings s t.2).filter (fun b =>
          decide (rangeOf s (BitVec.ofNat 4 d.1) t.2 b = some x) && t.2.staged.all (fun y => decide (y.1 ≠ b)))
        { t.2 with staged := t.2.staged ++ bs.map (fun b => (b, ws)) }
      else t.2)) })) }

/-- What the hod has read for a task, range by range: each read is noted and delivered. -/
def shareRanges (s : State) (d : BitVec 4) (t : Task) (xs : List (Nat × List PWord)) : State :=
  xs.foldl (fun s x =>
    if t.staged.any (fun y => decide (y.1 = x.1)) then s
    else
      match rangeOf s d t x.1 with
      | some r => deliverRange s r x.2
      | none => s) s

/-- The hod finishes staging (R248, R256); with nothing to be staged it needs no store. -/
def finishStaging (s : State) (d : BitVec 4) (i : Nat) : State :=
  let t := s.task d i
  match badLength s t with
  | some b =>
    logDie (s.setTask d i { t with stuck := true }) t.part (hodOrigin d b causeCfgIllegal) causeCfgIllegal d
  | none =>
    let w := useRanges s d t
    if storeFits s d i = false then s
    else if w.2 = false then w.1
    else match readStaged w.1 d t with
    | .error e => holdTask w.1 d i e
    | .ok xs =>
      let s := shareRanges w.1 d t xs
      s.setTask d i { (t.setField 1 16 16 0).setField 0 28 4 4 with
        staged := xs
        readyAt := s.now d
        promo := 0 }

/-- The bindings of a task are read at its entry to STAGING (R245); with none to be staged, staging completes at once (R256). -/
def bindTask (s : State) (d : BitVec 4) (i : Nat) : State :=
  let t := s.task d i
  let s := useBindings s t.part t
  match readBindings s t.part t with
  | .error e => holdTask s d i e
  | .ok bs =>
    let s := s.setTask d i { t with binds := bs }
    if stagedBindings s (s.task d i) = [] then finishStaging s d i else s

/-- `enter` of R249. -/
def enter (s : State) (d : BitVec 4) (i : Nat) : State :=
  let t := s.task d i
  if (t.expf && !t.tol) || decide (t.deadline ≤ s.now d) then retire s d i 9
  else if t.image = 0 then retire (s.setTask d i (t.setField 1 16 16 0)) d i 8
  else
    bindTask (s.setTask d i { t.setField 0 28 4 3 with
      stagedAt := s.now d
      binds := []
      staged := [] }) d i

/-- What a decrement does to a waiting record, before the record may enter STAGING (R249). -/
def decremented (t : Task) (m : DecMsg) (now : Nat) : Task :=
  let t := t.setField 1 16 16 (t.cnt - 1)
  let t := if m.exp then t.setField 0 14 1 1 else t
  match m.rb with
  | some rb => if t.inhd then t.setDeadline (min t.deadline (now + rb)) else t
  | none => t

/-- `apply` of R249. -/
def applyDec (s : State) (m : DecMsg) : State :=
  let d := refDie m.ref
  let i := refIndex m.ref
  let t := s.task d i
  if t.gen ≠ refGen m.ref ∨ t.state ≤ 1 ∨ m.part ≠ t.part ∨ (m.pod.isSome ∧ t.rmok = false) then dropDec s d t m.part false
  else if t.state ≠ 2 then dropDec s d t m.part true
  else
    let s := s.setTask d i (decremented t m (s.now d))
    if (s.task d i).cnt = 1 then enter s d i else s

/-- The decrements that have come to a dispatcher, in order of their arrival (R249). -/
def decsAt (s : State) (d : BitVec 4) : List DecMsg := s.decs.filter (fun m => decHere s m && decide (refDie m.ref = d))

/-- The dispatcher has yet to apply a decrement in the present cycle that has come to it (R249, R268). -/
def decDue (s : State) (d : BitVec 4) : Bool := decsAt s d ≠ [] && decide ((s.dieAt d).decAt ≠ some s.cycle)

/-- A grant of a source, and the one that serves its decrements to a partition (R437, R444). -/
def Grant.ofSource (g : Grant) (m : BitVec 10) (t : BitVec 16) : Bool := decide (g.srcMod = m) && decide (g.srcTenant = t)
def State.partGrant (s : State) (m : BitVec 10) (t : BitVec 16) (p : BitVec 5) : Option Grant :=
  s.grant.find? (fun g => g.ofSource m t && decide (g.part = p) && !g.revoking)

/-- The right D of a grant (R428). -/
def rightD : Nat := 3

/-- A decrement that has come from another module: the grant is that of the record's own PART, and its right D makes the
message one of that partition; without it the decrement is dropped and counted as stale (R444). -/
def applyPodDec (s : State) (m : DecMsg) (x : BitVec 4 × BitVec 10 × BitVec 16) : State :=
  let d := refDie m.ref
  let p := (s.task d (refIndex m.ref)).part
  match (s.partGrant x.2.1 x.2.2 p).filter (fun g => s.admitted d && g.rights.getLsbD rightD) with
  | some g => applyDec s { m with part := g.part }
  | none => logStale { s with dstale := countUp s.dstale p } d p

/-- DECREMENT_APPLY (R249): the first that has come, one in a cycle; one to a die removed from admission is dropped (R416,
R466). -/
def execDecrementApply (id : Nat) (s : State) : Host.Outcome State Fault Refusal :=
  .next (match s.decs.find? (fun m => decide (m.id = id)) with
  | none => s
  | some m =>
    let d := refDie m.ref
    if (decsAt s d).head? = some m ∧ decDue s d = true then
      let s : State := { s with decs := s.decs.filter (fun x => decide (x.id ≠ id)) }
      let s := s.updDie d (fun x => { x with decAt := some s.cycle })
      match m.pod with
      | some x => applyPodDec s m x
      | none => if s.admitted d then applyDec s m else logStale s m.src m.part
    else s)

/-! ## Pallets (R266) -/

/-- The record at an index is a template of the partition. -/
def isTemplate (s : State) (d : BitVec 4) (p : BitVec 5) (i : Nat) : Bool :=
  decide ((s.task d i).state = 1) && decide ((s.task d i).part = p)

/-- A run of FREE records that does not reach index 16,383 (R242). -/
def freeRun (s : State) (d : BitVec 4) (at_ n : Nat) : Bool :=
  decide (at_ + n ≤ 16383) && (List.range n).all (fun i => decide ((s.task d (at_ + i)).state = 0))

/-- A pallet descriptor's fields (R266). -/
def palCount (w : List Word) : Nat := bitsNat (descWord w 0) 24 8 + 1
def palBase (w : List Word) : Nat := bitsNat (descWord w 0) 0 14
def palCont (w : List Word) : DWord := descWord w 3 ++ descWord w 2

/-- The template that a descriptor names is well formed (reason 2). -/
def palletOk (s : State) (d : BitVec 4) (p : BitVec 5) (w : List Word) : Bool :=
  decide (bitsNat (descWord w 0) 14 10 = 0) && decide (bitsNat (descWord w 5) 1 31 = 0) && sucOk (palCont w) && sucZeros (palCont w)
    && decide (palBase w + palCount w ≤ 16383)
    && (List.range (palCount w)).all (fun i => isTemplate s d p (palBase w + i))

/-- A successor entry of a pallet record: inside the template it moves with the pallet, a placeholder becomes CONT. -/
def moveSuccessor (s : State) (d : BitVec 4) (w : List Word) (base : Nat) (e : DWord) : DWord :=
  let x := sucIndex e
  if sucLoc e ∧ sucDie e = d ∧ palBase w ≤ x ∧ x < palBase w + palCount w then
    let i := base + x - palBase w
    setBits (setBits e 33 14 i) 25 8 (s.task d i).gen
  else if sucLoc e ∧ x = 16383 then palCont w
  else e

/-- A binding handle after the rename pairs: the lowest pair that names it. -/
def renameHandle (w : List Word) (h : Nat) : Nat :=
  match ((List.range 16).map (fun j => descWord w (6 + j))).find? (fun p => decide (bitsNat p 0 16 ≠ 0xFFFF) && decide (bitsNat p 0 16 = h)) with
  | some p => bitsNat p 16 16
  | none => h

/-- Record `base + i` of a pallet (R266); its DEADLINE is set as it is written. -/
def palletRecord (s : State) (d : BitVec 4) (w : List Word) (prio : Nat) (slot : BitVec 6) (tenant : BitVec 16)
    (queue : Option (BitVec 12 × BitVec 6)) (base i : Nat) : Task :=
  let x : Task := { w := (s.task d (palBase w + i)).w, tenant := tenant, queue := queue }
  let x := x.setField 0 20 8 (s.task d (base + i)).gen
  let x := (List.range 7).foldl (fun (x : Task) k => x.setSucc k (moveSuccessor s d w base (x.succ k))) x
  let x := (List.range 16).foldl (fun (x : Task) b => x.setField (9 + b / 2) (16 * (b % 2)) 16 (renameHandle w (x.bind b))) x
  let x := (x.setField 0 17 3 (max x.prio prio)).setField 0 0 6 slot.toNat
  let x := x.setWord 31 (descWord w 4)
  let x := if bitAt (descWord w 5) 0 then x.setField 0 11 1 1 else x
  let x := if descWord w 1 = 0 then x else x.setWord 4 (descWord w 1)
  let x := ((x.setField 1 16 16 x.init).setField 0 14 1 0).setField 8 15 1 0
  (x.setField 8 0 8 0).setField 0 28 4 2

/-- Where a pallet is to stand, or the reason why it cannot be made (R266). -/
def palletPlace (s : State) (d : BitVec 4) (p : BitVec 5) (w : List Word) : Except Word Nat :=
  let c := (s.dieAt d).cursor
  if palletOk s d p w = false then .error 2
  else match findFrom (fun k => freeRun s d ((c + k) % 16383) (palCount w)) 16383 0 with
  | none => .error 1
  | some k => .ok ((c + k) % 16383)

/-- INSTANTIATION of a template begins (R266): the dispatcher has the pallet's records to write, or a reason not to. -/
def beginPallet (s : State) (d : BitVec 4) (p : BitVec 5) (tenant : BitVec 16) (prio : Nat) (slot : BitVec 6)
    (queue : Option (BitVec 12 × BitVec 6)) (w : List Word) (req : Option Nat) (cq : Option (BitVec 6)) : Except Word State :=
  match palletPlace s d p w with
  | .error e => .error e
  | .ok base =>
    let n := palCount w
    .ok (s.updDie d (fun x => { x with
      cursor := (base + n) % 16383
      job := some { first := base, recs := (List.range n).map (palletRecord s d w prio slot tenant queue base), req := req, slot := cq } }))

/-- A pallet is made: its reference goes to the node that waits for it, or into a completion record (R259, R266). -/
def endPallet (s : State) (d : BitVec 4) (j : PalletJob) : State :=
  let ref := taskRef d j.first (s.task d j.first).gen
  let s := s.updDie d (fun x => { x with job := none })
  match j.slot, j.req.bind s.req with
  | some c, _ => completion s d c (j.recs.head?.bind Task.queue) ref 0 0
  | none, some r => (s.dropReq r.id).answer r { words := [PWord.clean ref] }
  | none, none => s

/-- One die cycle of a pallet (R266): a record is written, or, once all are, a record whose CNT is 1 enters; the answer follows
the last of them. -/
def palletTick (s : State) (d : BitVec 4) : State :=
  match (s.dieAt d).job with
  | none => s
  | some j =>
    match j.recs[j.written]? with
    | some x =>
      let x := x.setDeadline (if x.budget = 0 then noDeadline else s.now d + x.budget)
      (s.setTask d (j.first + j.written) x).updDie d (fun y => { y with job := some { j with written := j.written + 1 } })
    | none =>
      let i := j.first + j.entered
      let t := s.task d i
      let j := { j with entered := j.entered + 1 }
      let s := s.updDie d (fun y => { y with job := some j })
      let s := if t.cnt = 1 ∧ t.state = 2 then enter s d i else s
      if j.entered < j.recs.length then s else endPallet s d j

/-- The dispatcher clock of a die advances in the present cycle. A die that is throttled, by temperature or by its cap, runs
slower than the others (R9, R433, R466). -/
def State.ticks (s : State) (d : Nat) : Bool := !((bitAt s.throttled d || bitAt s.capped d) && Config.dieSkips d s.cycle)

/-- The pallets of all dies. -/
def palletTicks (s : State) : State :=
  ((s.die.map Prod.fst).filter s.ticks).foldl (fun s d => palletTick s (BitVec.ofNat 4 d)) s

/-- The die counters advance (R9). -/
def dieCounters (s : State) : State :=
  ((List.range 16).filter s.ticks).foldl (fun s d => s.updDie (BitVec.ofNat 4 d) (fun x => { x with ctr := x.ctr + 1 })) s

/-! ## The instructions (R266-R268, R386) -/

/-- The record of the course of a node; none outside a course. -/
def State.ownTask (s : State) (n : NodeRef) : Task := match s.taskOf n.elemRef with
  | some (d, i) => s.task d i
  | none => {}

/-- `TSPN` (R266): its 22 words are read under R28, then it waits for the dispatcher's answer. -/
def execTspn (f : Fields) (s : State) : Host.Outcome State Fault Refusal :=
  unitOp (.tspn f) f s (fun t o =>
    let at_ := fun (j : Nat) => o.a.val + BitVec.ofNat 32 (4 * j)
    match vecCheck t o.n ((List.range 22).map (fun j => some (at_ j))) false with
    | some fi => .error fi
    | none =>
      let ws := (List.range 22).map (fun j => t.lsWord o.n.elemRef (at_ j).toNat)
      match firstPoison ws with
      | some w => .ok (t, .now (poisonResult w))
      | none => .ok (askUnit t o (.spawn (ws.map PWord.val))))

/-- The dispatcher takes a `TSPN` while it makes no other pallet: PRIO and QSLOT are those of the spawning task (R266), TENANT
that of the queue in that slot (R444). The request is held until the pallet is made. -/
def takeSpawn (s : State) (r : Req) (w : List Word) : Performed :=
  let d := r.stamp.issuer.die
  let t := s.ownTask r.stamp.issuer
  let q := Map.get (s.dieAt d).slot {} t.qslot.toNat
  let tenant := if q.mapped then bits (Map.get q.rec_ 0 2) 0 16 else t.tenant
  if (s.dieAt d).job.isSome then .wait
  else match beginPallet s d r.stamp.part tenant t.prio t.qslot t.queue w (some r.id) none with
  | .error e => .done s { words := [PWord.clean e], cond := false }
  | .ok t => .defer t r

/-- The answer to `TQRY` (R268); a die that is not admitted answers nothing (R416). -/
def answerQuery (s : State) (st : Stamp) (a : Word) : State × Answer :=
  let t := s.task (refDie a) (refIndex a)
  if t.part ≠ st.part then (s, { words := [{}], cond := false })
  else
    let w := t.state * 2 ^ 28 + t.gen * 2 ^ 20 + (if t.expf then 2 ^ 19 else 0) + (if bitAt (t.word 8) 15 then 2 ^ 18 else 0) + t.cnt
    (s, { words := [PWord.clean (BitVec.ofNat 32 w)], cond := decide (t.gen = refGen a) && decide (2 ≤ t.state) })

/-- `TDEC` (R267): the decrement leaves at S4 (`tdecAtS4`). -/
def execTdec (f : Fields) (s : State) : Host.Outcome State Fault Refusal :=
  issue (.tdec f) f s (fun o t => if o.a.psn then .ok (t, .now { cond := false }) else .ok (t, .atS4 []))

/-- S4 of `TDEC` (R267). -/
def tdecAtS4 (o : Opnds) (s : State) : State × Result :=
  (sendDec s o.n.die o.a.val (bitAt o.f.imm 1) none (s.partOf o.n.elemRef) (some o.n), { cond := true })

/-- `TDEC.rmt` (R267, R444): nothing is sent to a module that cannot be reached. -/
def execTdecRmt (f : Fields) (s : State) : Host.Outcome State Fault Refusal :=
  issue (.tdecRmt f) f s (fun o t =>
    if o.a.psn || o.b.psn || decide (1024 ≤ o.b.val.toNat) || (podPort t o.n.die (bits o.b.val 0 10)).isNone then
      .ok (t, .now { cond := false })
    else .ok (t, .atS4 []))

/-- S4 of `TDEC.rmt` (R267, R444). -/
def tdecRmtAtS4 (o : Opnds) (s : State) : State × Result :=
  (sendDecRemote s o.n.die (bits o.b.val 0 10) (s.stampOf o.n).tenant o.a.val (bitAt o.f.imm 1) none, { cond := true })

/-- `TQRY` (R268). -/
def execTqry (f : Fields) (s : State) : Host.Outcome State Fault Refusal :=
  unitOp (.tqry f) f s (fun t o => .ok (askUnit t o (.query o.a.val)))

/-- What `HALT` in the privileged domain does (R386): USER takes the bits of a and the task is aborted, which resets the
region and with it the node. -/
def haltTask (s : State) (n : NodeRef) (a : Word) : State := match s.taskOf n.elemRef with
  | some (d, i) => abortTask (s.updTask d i (fun t => t.setWord 31 a)) d i
  | none => s

/-- `HALT` (R386): elsewhere it faults with DOMAIN, RKIND 7. The transition never reaches its S4. -/
def execHalt (f : Fields) (s : State) : Host.Outcome State Fault Refusal :=
  let n := s.cur.node
  let a := (readCode s n f f.sa).val
  match issue (.halt f) f s (fun o t =>
    if t.privileged o.n then .ok (t, .later .park)
    else .error { cause := causeDomain, detb := BitVec.ofNat 32 (7 * 2 ^ 28) }) with
  | .next t => .next (if (t.nd n).flight.any (fun fl => fl.parks) then haltTask t n a else t)
  | r => r

/-! ## Staging (R256) -/

/-- STAGING_COMPLETE (R256): the hod completes, unless a fault holds the task; after the repair of a PAGE in the binding
table the bindings are read again (R245). -/
def execStagingComplete (die : BitVec 4) (i : BitVec 14) (s : State) : Host.Outcome State Fault Refusal :=
  let t := s.task die i.toNat
  .next (if t.state = 3 ∧ t.stuck = false ∧ t.paged = false then
    if t.binds = [] then bindTask s die i.toNat else finishStaging s die i.toNat
  else s)

/-! ## Deadlines (R253) -/

/-- A record's deadline has come (R253). -/
def deadlineDue (t : Task) (now : Nat) : Bool :=
  decide (t.deadline ≤ now) && decide (t.deadline ≠ noDeadline)
    && (decide (t.state = 3 ∨ t.state = 4) || (t.hard && decide (t.state = 5 ∨ t.state = 6)))

/-- DEADLINE_EXPIRY (R253). -/
def execDeadlineExpiry (die : BitVec 4) (i : BitVec 14) (s : State) : Host.Outcome State Fault Refusal :=
  .next (if deadlineDue (s.task die i.toNat) (s.now die) then retire (discard s die i.toNat) die i.toNat 9 else s)

end Sys2Proof.Machine
end

