-- ==== Sys2Proof/Machine/Settle.lean ====
section
/-! DEFINITION. S4 of the transitions in flight (R36, R38, R40, R146). -/

namespace Sys2Proof.Machine

/-- What the description of an opcode has its S4 do, with the result that is written beside it (R36). `o` holds the operands
that S2 read, `ws` the lanes or words that S2 and S3 read. -/
def lateEffect (i : Instr) (o : Opnds) (ws : List PWord) (s : State) : State × Result :=
  match i with
  | .wake _ => wakeAtS4 o s
  | .lntl _ => lintelAtS4 false o s
  | .lntlLast _ => lintelAtS4 true o s
  | .gret _ => gretAtS4 o s
  | .dpart _ => dpartAtS4 o s
  | .gate _ => gateAtS4 o s
  | .ispz _ => suspendAtS4 true o s
  | .unpz _ => suspendAtS4 false o s
  | .sywrFpstat _ => systemWriteAtS4 o s
  | .sywrResumeRetry _ => systemWriteAtS4 o s
  | .sywrResumeSkip _ => systemWriteAtS4 o s
  | .sywrGreg _ => systemWriteAtS4 o s
  | .sywrPortctlReplay _ => systemWriteAtS4 o s
  | .sywrPortctlAbandon _ => systemWriteAtS4 o s
  | .mcfg _ => mcfgAtS4 o s
  | .mrun _ => mrunAtS4 o s
  | .mdrain _ => mdrainAtS4 o s
  | .mclr _ => mclrAtS4 o s
  | .mldk _ => mldkAtS4 o ws s
  | .mshape _ => mshapeAtS4 o ws s
  | .mpass _ => mpassAtS4 o s
  | .mstat _ => mstatAtS4 o s
  | .mfeed _ => mfeedAtS4 o ws s
  | .mscl _ => msclAtS4 o ws s
  | .mfin _ => mfinAtS4 false o s
  | .mfinAbort _ => mfinAtS4 true o s
  | .gst _ => storeAtS4 i o ws s
  | .gstv _ => storeAtS4 i o ws s
  | .gstL _ => storeAtS4 i o ws s
  | .xst _ => podStoreAtS4 i o ws s
  | .xstv _ => podStoreAtS4 i o ws s
  | .tdec _ => tdecAtS4 o s
  | .tdecRmt _ => tdecRmtAtS4 o s
  | .cxul _ => cxulAtS4 o s
  | _ => (s, {})

/-- S4 of a transition (R38): its result is written, it has the effect of its description, or its node enters FAULTED. -/
def atS4 (s : State) (n : NodeRef) (fl : InFlight) (f : Fields) (act : S4Act) : State :=
  match act with
  | .done r => finish s n r
  | .fault fi => faultInFlight s n fi
  | .late a b d ws => let x := lateEffect fl.instr { n := n, f := f, nd := s.nd n, a := a, b := b, d := d } ws s; finish x.1 n x.2

/-- The stage that a transition reaches in the present cycle: the S4 that is due, the last cycle of a long operation, or S3
of a `PARK` (R40, R41). -/
def stageOf (s : State) (n : NodeRef) (fl : InFlight) (f : Fields) : State :=
  match fl.why with
  | .s4 due act =>
    if due ≤ s.cycle then atS4 s n fl f act
    else match fl.instr, act with
      | .park _, .late _ _ _ _ => if due ≤ s.cycle + 1 then parkAtS3 s n fl due else s
      | _, _ => s
  | .long due r => if due ≤ s.cycle then finish s n r else s
  | _ => s

/-- A transition of a parking class reaches S3: its node enters PARKED (R42). -/
def parkInS3 (s : State) (n : NodeRef) : State :=
  if (s.nd n).st = .run ∧ (s.nd n).flight.any (fun fl => fl.parks && decide (fl.issued + 2 = s.cycle)) = true then
    s.updNd n (fun nd => { nd with st := .parked })
  else s

/-- The pipeline of a node in the present cycle (R40, R42). -/
def settleNode (s : State) (n : NodeRef) : State :=
  match (s.nd n).flight with
  | none => s
  | some fl =>
    match fl.instr.fields with
    | some f => lateFault (parkInS3 (stageOf s n fl f) n) n
    | none => s

/-- Every transition of an element in the stage that the present cycle gives it. An S4 comes before an S3, so that a wake
that falls in the S3 of a `PARK` is seen by it. -/
def settleElem (s : State) (e : ElemRef) : State :=
  let go := fun (park : Bool) (s : State) => (List.range 16).foldl (fun s i =>
    let n := e.nodeRef (BitVec.ofNat 4 i)
    match (s.nd n).flight with
    | none => s
    | some fl => if (match fl.instr with
        | .park _ => true
        | _ => false) = park then settleNode s n else s) s
  go true (go false s)

/-- Every element that has a transition in flight. -/
def busyElems (s : State) : List ElemRef :=
  ((s.node.filterMap (fun x => if x.2.flight.isSome then some (nodeOfKey x.1).elemRef else none)).dedup)

/-- The stages that the transitions in flight reach in the cycle that closes. -/
def settle (s : State) : State := (busyElems s).foldl settleElem s

end Sys2Proof.Machine
end

