-- ==== Sys2Proof/Machine/Token.lean ====
section
/-! DEFINITION. Token instructions, 0x58-0x5F (R131-R137). -/

namespace Sys2Proof.Machine

/-- A transition that enqueues a token of a KIND and FMT with the value v (R131); a poisoned value becomes POISON. -/
def tokenResult (kind fmt : BitVec 3) (v : PWord) (cond : Bool) : Result :=
  { dst := some v, kind := kind, fmt := fmt, cond := cond && !v.psn }

/-- `EMIT` (R131, R132): a SCALE payload is sent with bits 31:8 zero. -/
def execEmit (f : Fields) (s : State) : Host.Outcome State Fault Refusal :=
  issue (.emit f) f s (fun o t =>
    let kind := bits o.f.imm 3 3
    let v := if kind = kindScale ∧ o.a.psn = false then PWord.clean (o.a.val &&& 0xFF) else o.a
    .ok (t, .now (tokenResult kind (bits o.f.imm 0 3) v true)))

/-- `STOP` (R131). -/
def execStop (f : Fields) (s : State) : Host.Outcome State Fault Refusal :=
  issue (.stop f) f s (fun o t =>
    .ok (t, .now (tokenResult (BitVec.ofNat 3 (bitsNat o.f.imm 0 2 + 1)) 0 o.a true)))

/-- The head of the channel that SA names. -/
def Opnds.headA (o : Opnds) : Token := (((ciCode o.f.sa).bind (fun k => (o.nd.ciq k).head?))).getD {}

/-- `FWD` (R133): the head unchanged, whatever its kind. -/
def execFwd (f : Fields) (s : State) : Host.Outcome State Fault Refusal :=
  issue (.fwd f) f s (fun o t => .ok (t, .now (tokenResult o.headA.kind o.headA.fmt o.a true)))

/-- FMT of a token that `TAGF` forwards (R133). -/
def tagfFmt (h : Token) (new : BitVec 3) : BitVec 3 :=
  if h.kind = kindData then new
  else if h.kind = kindScale ∧ 4 ≤ new.toNat ∧ new.toNat ≤ 6 then new else h.fmt

/-- `TAGF` (R133). -/
def execTagf (f : Fields) (s : State) : Host.Outcome State Fault Refusal :=
  issue (.tagf f) f s (fun o t =>
    .ok (t, .now (tokenResult o.headA.kind (tagfFmt o.headA (bits o.f.imm 0 3)) o.a true)))

/-- `DROP` (R134): its pop removes the head; what it may remove is its readiness. -/
def execDrop (f : Fields) (s : State) : Host.Outcome State Fault Refusal :=
  issue (.drop f) f s (fun _ t => .ok (t, .now {}))

/-- `SCLO` (R135). -/
def execSclo (f : Fields) (s : State) : Host.Outcome State Fault Refusal :=
  issue (.sclo f) f s (fun o t =>
    let tag := bits o.f.imm 0 3
    if o.a.psn then .ok (t, .now (poisonResult o.a.val))
    else
      let e := scaleOf tag.toNat (fmtFp32.decode o.fz o.a.val.toNat)
      .ok (t, .now { dst := some (PWord.clean (BitVec.ofNat 32 e)), kind := kindScale, fmt := tag, cond := decide (e ≠ 255) }))

/-- The word and condition of `HEAD` for an input channel and for an output channel (R136). -/
def headIn (nd : Node) (k : BitVec 2) : Word :=
  let q := nd.ciq k
  let t := q.head?.getD {}
  BitVec.ofNat 32 (q.length * 2 ^ 16 + (nd.seqAt k).toNat * 2 ^ 8 + (if ccLv (nd.ccfgAt k) then 128 else 0)
    + (if q = [] then 0 else 64) + t.fmt.toNat * 8 + t.kind.toNat)
def headOut (nd : Node) (k : BitVec 2) : Word := BitVec.ofNat 32 ((nd.coq k).length * 2 ^ 16)

def headWord (nd : Node) (f : Fields) : Word :=
  if bitAt f.imm 2 then headOut nd (bits f.imm 0 2) else headIn nd (bits f.imm 0 2)

/-- The condition of `HEAD` is PRES for an input channel, and COUNT < 2 for an output channel (R136). -/
def headCond (f : Fields) (w : Word) : Bool := if bitAt f.imm 2 then decide (bitsNat w 16 3 < 2) else bitAt w 6

/-- `HEAD` (R136): it reports what the choice of its slot saw. -/
def execHead (f : Fields) (s : State) : Host.Outcome State Fault Refusal :=
  issue (.head f) f s (fun _ t =>
    .ok (t, .now { dst := some (PWord.clean s.cur.head), cond := headCond f s.cur.head }))

/-- `IDLE` (R137): the lateness, lc read in S2. -/
def execIdle (f : Fields) (s : State) : Host.Outcome State Fault Refusal :=
  scalarOp (.idle f) f 0 s (fun o => byValue (s.lc o.n.elemRef - o.a.val))

end Sys2Proof.Machine
end

