-- ==== Sys2Proof/Machine/Ready.lean ====
section
/-! DEFINITION. Readiness of a slot, eligibility of a node and the choice of an element (R33-R35, R139-R142, and the
readiness that single opcodes add). -/

namespace Sys2Proof.Machine

/-- A channel test (R33, R34). -/
def chanTest (nd : Node) (c k : BitVec 3) : Bool :=
  match chanCode c with
  | none => true
  | some ch =>
    match (nd.ciq ch).head? with
    | none => false
    | some t => decide (k = 7) || decide (t.kind = k)

/-- The drain channel of the section is held by its buffer (R222). -/
def drainHolds (e : Elem) (n : NodeRef) (k : BitVec 2) : Bool :=
  decide (e.mx.drain ≠ []) && decide (e.mx.drainNode = n.node) && decide (e.mx.drainCh = k)

/-- There is space on an output channel (R34, R222). -/
def coSpace (s : State) (n : NodeRef) (k : BitVec 2) : Bool :=
  decide (((s.nd n).coq k).length < 2) && !drainHolds (s.el n.elemRef) n k

/-- The mailboxes that a slot names are in the state it needs; one that its domain does not own holds nothing back
(R34, R146, R147). -/
def mboxReady (s : State) (n : NodeRef) (i : Instr) (f : Fields) : Bool :=
  let e := s.el n.elemRef
  let d := domOf (s.nd n)
  let st := fun (m : Nat) => (Map.get e.mbox {} m).st
  (mboxReads s n i f).all (fun m => !e.owns d (.mbox m) || decide (st m = .full))
    && (mboxWrite i f).toList.all (fun m => !e.owns d (.mbox m) || decide (st m = .empty))

/-- The conditions of R34 that every opcode shares. -/
def commonReady (s : State) (n : NodeRef) (i : Instr) (f : Fields) : Bool :=
  let nd := s.nd n
  decide (nd.p &&& f.pmask = f.pval) && chanTest nd f.cha f.ka && chanTest nd f.chb f.kb
    && ((readCodes s n i f).filterMap ciCode).all (fun k => decide (nd.ciq k ≠ []))
    && (if writesDst i then coCode f.dst else none).toList.all (fun k => coSpace s n k)
    && mboxReady s n i f

/-- A node may not issue in the present cycle: its transition is in flight, or a callee is about to be entered, or a wake has
just freed it (R40, R139, R145). -/
def busy (s : State) (nd : Node) : Bool := nd.flight.isSome || decide (s.cycle < nd.nextAt)

/-- The head of the channel that a code names has a kind that meets a test. -/
def headKind (nd : Node) (c : Option (BitVec 2)) (p : BitVec 3 → Bool) : Bool :=
  match c.bind (fun k => (nd.ciq k).head?) with
  | some t => p t.kind
  | none => false

/-- The pipe may take a transition: none of the element issued in the cycle before (R188). -/
def pipeFree (s : State) (e : ElemRef) : Bool := match (s.el e).pipeAt with
  | some c => decide (c + 1 ≠ s.cycle)
  | none => true

/-- No hold has covered any of the preceding 16 cycles (R141). -/
def holdFree (s : State) (e : ElemRef) : Bool := match (s.el e).lastHold with
  | some h => decide (h + 16 < s.cycle)
  | none => true

/-- The readiness of `LNTL` (R160). An argument that another `LNTL` has in flight counts among the four tokens of the callee's
ci3 (R26; DEDUCED, log entry 104). A gate that is being scrubbed holds nothing back: the instruction issues and raises
DOMAIN (R155). -/
def lintelReady (s : State) (n : NodeRef) (f : Fields) (last : Bool) : Bool :=
  let e := s.el n.elemRef
  let i := bitsNat f.imm 0 3
  let g := e.gateAt i
  let callee := s.nd (n.elemRef.nodeRef (gateNode g))
  e.scrubbing (.gate i)
    || (((decide (gateSsn g = 0) && !gateRdrn g) || (decide (gateSsn g = 1) && decide (gateCaller g = n.node)))
      && decide (ciTaken s (n.elemRef.nodeRef (gateNode g)) 3 < 4)
      && (!last || (decide (callee.st = .run) && callee.flight.isNone)))

/-- The readiness of `GRET` (R161): co[RET] of the session has space. -/
def returnReady (s : State) (n : NodeRef) : Bool :=
  match activeGate (s.el n.elemRef) n.node with
  | none => true
  | some i => coSpace s n (gateRet ((s.el n.elemRef).gateAt i))

/-- No transition of a domain is in flight in an element (R154). -/
def domainQuiet (s : State) (e : ElemRef) (d : BitVec 4) : Bool :=
  (List.range 16).all (fun i =>
    let nd := s.nd (e.nodeRef (BitVec.ofNat 4 i))
    !decide (domOf nd = d) || nd.flight.isNone)

/-- A section in RUN uses one of these banks (R224). -/
def banksInUse (m : Matrix) (ks : List Nat) : Bool := decide (m.st = .run) && ks.any (fun k => m.banks.contains k)

/-- The readiness that a matrix opcode adds (R224); another domain's waits on nothing but `MCFG` and `MPASS` (R219). -/
def matrixReady (s : State) (n : NodeRef) (i : Instr) : Bool :=
  let m := (s.el n.elemRef).mx
  let mine := decide (m.st = .off) || decide (m.owner = domOf (s.nd n))
  match i with
  | .mcfg _ => decide (m.st = .off)
  | .mpass _ => mine && decide (m.st = .off ∨ m.st = .relay)
  | .mrun _ => !mine || decide (m.st = .cfg)
  | .mdrain _ => !mine || (decide (m.st = .hold) && decide (m.drain = []))
  | .mclr f => !mine || !banksInUse m (accNames i f)
  | .mldk f => !mine || !banksInUse m (accNames i f)
  | .mstk f => !mine || !banksInUse m (accNames i f)
  | .mshape _ => !mine || decide (m.st = .off ∨ m.st = .cfg)
  | .mfeed _ => !mine || (decide (m.st = .run) && (m.asrc || m.bsrc) && decide (m.feedA = []) && decide (m.feedB = []))
  | .mscl _ => !mine || (decide (m.st = .cfg ∨ m.st = .run) && narrowOpf m.opf)
  | .mfin _ => !mine || (decide (m.st = .done) && decide (m.drain = []))
  | .mfinAbort _ => !mine || decide (m.st = .cfg ∨ m.st = .hold ∨ m.st = .done ∨ (m.st = .run ∧ m.k % 4 = 0))
  | _ => true

/-- A resident configuration may begin a firing (R235). -/
def firingFree (s : State) (n : NodeRef) (c : BitVec 4) : Bool :=
  let e := s.el n.elemRef
  let ent := e.cxEntry (domOf (s.nd n)) c
  !(bitAt ent 63 && bitAt ent 62) || decide ((Map.get e.res {} (bitsNat ent 60 2)).freeAt ≤ s.cycle)

/-- No firing of a configuration is in flight (R236). -/
def noFiring (s : State) (n : NodeRef) (c : BitVec 4) : Bool :=
  let d := domOf (s.nd n)
  (List.range 16).all (fun i =>
    let nd := s.nd (n.elemRef.nodeRef (BitVec.ofNat 4 i))
    match nd.flight with
    | none => true
    | some fl => match fl.instr, fl.why with
      | .cx c' _, .long _ _ => !(decide (c' = c) && decide (domOf nd = d))
      | _, _ => true)

/-- An operand code names a mailbox that the node may not read: the value holds nothing back (R147). -/
def unreadable (s : State) (n : NodeRef) (c : BitVec 5) : Bool := match mboxCode c with
  | some m => !(s.el n.elemRef).owns (domOf (s.nd n)) (.mbox m)
  | none => false

/-- The readiness that the description of an opcode adds. A value that it judges is judged whether poisoned or not (R110),
but for `VOUT` and `VIN`, whose poisoned lane number holds nothing back (R206). -/
def extraReady (s : State) (n : NodeRef) (i : Instr) : Bool :=
  let nd := s.nd n
  let e := n.elemRef
  match i with
  | .drop f => headKind nd (chanCode f.cha) (fun k =>
      decide (k = kindData ∨ k = kindScale ∨ (isStop k = true ∧ k.toNat - 1 < bitsNat f.imm 0 2)))
  | .idle f =>
    let a := readCode s n f f.sa
    unreadable s n f.sa || decide (0 ≤ (BitVec.ofNat 32 (s.cycle + (s.el e).lcOff) - a.val).toInt)
  | .vout f =>
    let b := readCode s n f f.sb
    unreadable s n f.sb || b.psn || decide (b.val.toNat < 16)
  | .vin f =>
    let b := readCode s n f f.sb
    (unreadable s n f.sb || b.psn || decide (b.val.toNat < 16)) && headKind nd (ciCode f.sa) (fun k => decide (k = kindData ∨ k = kindPoison))
  | .lntl f => lintelReady s n f false
  | .lntlLast f => lintelReady s n f true
  | .gret _ => returnReady s n
  | .dpart f =>
    let a := readCode s n f f.sa
    holdFree s e && (unreadable s n f.sa || domainQuiet s e (bits a.val 0 4))
  | .gate _ => holdFree s e
  | .ispz _ => holdFree s e
  | .unpz _ => holdFree s e
  | .cx c _ => firingFree s n c
  | .cxul f =>
    let a := readCode s n f f.sa
    unreadable s n f.sa || noFiring s n (bits a.val 0 4)
  | .gst _ => mayBuffer s e (domOf nd)
  | .gstL _ => mayBuffer s e (domOf nd)
  | .gstv _ => mayBuffer s e (domOf nd)
  | .xst _ => mayQueue s e (domOf nd)
  | .xstv _ => mayQueue s e (domOf nd)
  | .tdec _ => portCredit s e.tileRef e.elem.toNat 1
  | .tdecRmt _ => portCredit s e.tileRef e.elem.toNat 1
  | .aapl f => decide ((Map.get (s.el e).inbox {} (bitsNat f.imm 0 2)).entries ≠ [])
  | .cjoin f => headKind nd (chanCode f.cha) (fun k => decide (k = kindSpace))
      && (decide (f.chb = 7) || headKind nd (chanCode f.chb) (fun k => decide (k = kindSpace)))
  | _ => matrixReady s n i

/-- A pipe opcode (R188). -/
def isPipe (i : Instr) : Bool :=
  let o := (opcOf i).toNat
  decide ((0x60 ≤ o ∧ o ≤ 0x7F) ∨ (0x97 ≤ o ∧ o ≤ 0x9A) ∨ o = 0x89 ∨ o = 0x8A)

/-- READINESS of an instruction of a node in the present cycle (R34, R140). -/
def ready (s : State) (n : NodeRef) (i : Instr) : Bool :=
  match i.fields with
  | none => false
  | some f => commonReady s n i f && extraReady s n i && (!isPipe i || pipeFree s n.elemRef)

/-! ## Local-store banks (R281, R340) -/

/-- The words of a node access to its local store, from operand addresses. -/
def seqWords (a : Word) (n : Nat) : List Word := (List.range n).map (fun j => a + BitVec.ofNat 32 (4 * j))

/-- The addresses of the local store that an instruction accesses in its S3. -/
def localAddrs (s : State) (n : NodeRef) (i : Instr) (f : Fields) : List Word :=
  let o := readOperands s n i f
  let e := s.el n.elemRef
  match i with
  | .ldW _ => [o.ea]
  | .ldH _ => [o.ea]
  | .ldHs _ => [o.ea]
  | .ldB _ => [o.ea]
  | .ldBs _ => [o.ea]
  | .stW _ => [o.ea]
  | .stH _ => [o.ea]
  | .stB _ => [o.ea]
  | .ldP _ => [o.ea]
  | .stP _ => [o.ea]
  | .ldxW _ => [o.eax]
  | .stxW _ => [o.eax]
  | .lcas _ => [o.a.val]
  | .ladd _ => [o.a.val]
  | .vld _ => seqWords o.ea 16
  | .vst _ => seqWords o.ea 16
  | .mldk _ => seqWords o.ea 16
  | .mstk _ => seqWords o.ea 16
  | .vldx _ => (List.range 16).filterMap (fun l => (idxEa o e l).toOption)
  | .vstx _ => (List.range 16).filterMap (fun l => (idxEa o e l).toOption)
  | .mshape _ => seqWords o.a.val ((s.lsWord n.elemRef o.a.val.toNat).val.toNat % 65 + 1)
  | .aapl _ => ((Map.get e.inbox {} (bitsNat f.imm 0 2)).entries.head?.map (fun x => o.a.val + BitVec.ofNat 32 (4 * x.off.toNat))).toList
  | .strm _ => seqWords o.a.val 32
  | .ecpy _ => seqWords o.a.val 32
  | .ecmp _ => seqWords o.a.val 32
  | .edcp _ => seqWords o.a.val 32
  | .ecol _ => seqWords o.a.val 32
  | .tspn _ => seqWords o.a.val 22
  | _ => []

/-- The banks of the local store that an instruction takes. -/
def localBanks (s : State) (n : NodeRef) (i : Instr) : List Nat := match i.fields with
  | some f => ((localAddrs s n i f).map (fun a => a.toNat / 0x2000)).dedup
  | none => []

/-- The instruction in a slot of a node: none where the slot is disabled or holds no instruction (R34). -/
def slotInstr (nd : Node) (slot : Nat) : Option Instr :=
  if bitAt nd.ncfg slot then decode? (nd.slotWord slot) else none

/-- The fault `undecodable` stands for: an enabled slot with no instruction in it. Load validation admits none. -/
def slotBroken (nd : Node) (slot : Nat) : Bool := bitAt nd.ncfg slot && (decode? (nd.slotWord slot)).isNone

/-- The order in which the slots of a node are judged (R35, R235). -/
def slotOrder (nd : Node) : List Nat := match nd.prefer with
  | some p => p.toNat :: List.range 16
  | none => List.range 16

/-- The slot of a node that issues. A slot without an instruction counts as ready, so that it is met by name. -/
def readySlot (s : State) (n : NodeRef) : Option Nat :=
  let nd := s.nd n
  (slotOrder nd).find? (fun k => slotBroken nd k || (match slotInstr nd k with
    | some i => ready s n i
    | none => false))

/-- A node may issue in the present cycle (R40, R139, R141, R157). -/
def eligible (s : State) (n : NodeRef) : Bool :=
  let nd := s.nd n
  decide (nd.st = .run) && !busy s nd && !entSusp (s.domEntry n.elemRef (domOf nd))
    && decide ((s.el n.elemRef).holdUntil ≤ s.cycle)

/-- The node and slot that an element issues in the present cycle (R139). -/
def select (s : State) (e : ElemRef) : Option (NodeRef × Nat) :=
  ((List.range 16).map (fun j => e.nodeRef ((s.el e).lastn + BitVec.ofNat 4 (j + 1)))).findSome? (fun n =>
    if eligible s n then (readySlot s n).map (fun k => (n, k)) else none)

/-- The word that `HEAD` in a slot of a node would report now (R136). -/
def headSeen (nd : Node) (slot : Nat) : Word := match slotInstr nd slot with
  | some (.head f) => headWord nd f
  | _ => 0

/-- What every element issues in the present cycle. -/
def picksOf (s : State) : List Cursor :=
  ((s.node.map (fun x => (nodeOfKey x.1).elemRef)).dedup.filterMap (select s)).map (fun x =>
    { node := x.1, slot := BitVec.ofNat 4 x.2, head := headSeen (s.nd x.1) x.2 })

end Sys2Proof.Machine
end

