-- ==== Sys2Proof/Machine/Tree.lean ====
section
/-! DEFINITION. The quiescence tree of a region and what the region controller counts in each cycle
(R43, R138, R157, R218, R255, R264, R265, R349, R398). -/

namespace Sys2Proof.Machine

/-- A node reports idle (R43, R157), and none of its channels is steered (R172). -/
def nodeIdle (s : State) (n : NodeRef) : Bool :=
  let nd := s.nd n
  (match nd.st with
  | .off => true
  | .run => !busy s nd && !entSusp (s.domEntry n.elemRef (domOf nd)) && (readySlot s n).isNone
  | .parked => false
  | .faulted => false)
    && (List.range 4).all (fun k => !ccStrd (nd.ccfgAt (BitVec.ofNat 2 k)))

/-- A token of an output channel can leave it. -/
def coMoves (s : State) (n : NodeRef) (k : BitVec 2) : Bool :=
  decide ((s.nd n).coq k ≠ []) && (match s.edgeFrom (.out n k) with
    | some e => maySend s e
    | none => (s.fanFrom (.out n k)).isSome
      || (match replyGate (s.el n.elemRef) n.node.toNat k.toNat with
        | some i =>
          let g := (s.el n.elemRef).gateAt i
          let c := n.elemRef.nodeRef (gateCaller g)
          (s.nd c).aligned.isNone && (bitAt (s.el n.elemRef).gateOff i || decide ((s.nd c).st = .off) || chanRoom s c (gateRci g))
        | none => decide (k = 3) && (steeredBy s n).isSome))

/-- The matrix section reports idle (R218). -/
def Matrix.idle (m : Matrix) : Bool := match m.st with
  | .off => true
  | .cfg => true
  | .done => decide (m.drain = [])
  | .relay => decide (m.bufA = [] ∧ m.bufB = [])
  | .run => false
  | .hold => false

/-- An element reports idle: its section (R218). -/
def Elem.idle (e : Elem) : Bool := e.mx.idle

/-- A stream without an address sequence is idle (R349): nothing waits at its input and nothing is left to emit. -/
def idleStream (m : MTile) (q : TPort) (st : Stream) : Bool :=
  decide (4 ≤ sMode st.desc) && decide (q.inq = []) && decide (st.out = []) && decide (st.fill = []) && decide (st.lanes = [])
    && (if sMode st.desc = 8 then decide (st.rows = [] ∨ st.rows.length = sKh st.desc) else true)
    && (if sMode st.desc = 7 then decide (Map.get m.fifo [] (sBase st.desc / 0x8000) = []) else true)

/-- A memory tile reports idle (R264). -/
def MTile.idle (m : MTile) : Bool :=
  decide (m.queue = []) && m.ports.all (fun x => match x.2.stream with
    | some st => idleStream m x.2 st
    | none => true)

/-- An edge or fan-out of the region holds nothing. -/
def Edge.idle (e : Edge) : Bool := decide (e.flight = [])
def Fanout.idle (x : Fanout) : Bool := x.branches.all (fun b => decide (b.buf = [] ∧ b.spaces = []))

/-- An engine holds an unfinished command of a course (R341). -/
def boundEngine (s : State) (rid : Nat) : Bool :=
  s.die.any (fun d => d.2.engine.any (fun e => e.2.queue.any (fun c => decide (c.region = some rid))))

/-- The regions and output ports of the RUNNING tasks that feed an input port of a region, one that is saved among them
(R244, R254). -/
def feedTasks (s : State) (g : Region) (i : Nat) : List (Nat × Nat) :=
  let gen := (s.task g.die g.task.toNat).gen
  s.region.flatMap (fun x =>
    let t := s.task x.2.die x.2.task.toNat
    if t.state = 6 then
      ((List.range t.nsuc).map t.succ).filterMap (fun e =>
        if sucKind e = 2 ∧ sucLoc e = true ∧ sucDie e = g.die ∧ sucIndex e = g.task.toNat ∧ sucGen e = gen ∧ sucIport e = i then
          some (x.1, sucOport e)
        else none)
    else [])

/-- The ports of a course: an input port without a RUNNING predecessor, after END and with nothing left, an output port with
nothing left (R255). -/
def portsIdle (s : State) (g : Region) : Bool :=
  (List.range g.hdr.nin).all (fun i =>
    let p := g.inPort i
    decide (feedTasks s g i = []) && (!bitAt g.ifed i || bitAt g.iend i) && decide ((s.tport p.1 p.2).inq = []))
    && (List.range g.hdr.nout).all (fun i =>
      let p := g.outPort i
      decide ((s.tport p.1 p.2).inq = []))

/-- Every tile of a region has opened (R263). -/
def Region.allOpen (g : Region) : Bool := g.tiles.all (fun t => g.opened.contains t.tile)

/-- The output of a region's tree (R264): of its nodes, steered channels, sections, tiles, channels, router buffers on every
virtual network, ports and engines. -/
def treeIdle (s : State) (rid : Nat) : Bool :=
  let g := s.rg rid
  g.allOpen
    && s.node.all (fun x => let n := nodeOfKey x.1
        !g.holds n.elemRef.tileRef || (nodeIdle s n && (List.range 4).all (fun k => !coMoves s n (BitVec.ofNat 2 k))))
    && s.elem.all (fun x => !g.holds (elemOfKey x.1).tileRef || x.2.idle)
    && s.tile.all (fun x => !g.holds (tileOfKey x.1) || x.2.idle)
    && s.edge.all (fun x => decide (x.2.region ≠ rid) || x.2.idle)
    && s.fanout.all (fun x => decide (x.2.region ≠ rid) || x.2.idle)
    && !s.net.any (fun f => g.holds f.here) && portsIdle s g && !boundEngine s rid

/-- A domain of the region is suspended (R157). -/
def regionSuspended (s : State) (g : Region) : Bool :=
  s.elem.any (fun x => g.holds (elemOfKey x.1).tileRef && x.2.dtab.any (fun d => entSusp d.2))

/-- QHOLD (R264). -/
def Region.qhold (g : Region) : Nat := 4 * (g.hdr.w + g.hdr.h) + 32

/-- WDE of the task of a region. -/
def State.wdeOf (s : State) (g : Region) : Nat := (s.task g.die g.task.toNat).wde

/-- What the region controller counts in a cycle (R264, R265); nothing while a snapshot stands (R398). -/
def regionCounts (s : State) (rid : Nat) : Region :=
  let g := s.rg rid
  if g.st ≠ .running then { g with fired := false }
  else if g.snap.isSome ∨ g.done ≠ [] then { g with
    idle := 0
    fired := false }
  else if treeIdle s rid then { g with
    idle := g.idle + 1
    stall := 0
    fired := false }
  else { g with
    idle := 0
    stall := if s.wdeOf g = 0 ∨ g.fired then 0 else if regionSuspended s g then g.stall else g.stall + 1
    fired := false }

/-- Every region's controller at the end of a cycle. -/
def regionTicks (s : State) : State := { s with region := s.region.map (fun x => (x.1, regionCounts s x.1)) }

end Sys2Proof.Machine
end

