-- ==== Sys2Proof/Machine/Cycle.lean ====
section
/-! DEFINITION. The end of a clock cycle, and the preparation of a node for a word placed from outside. -/

namespace Sys2Proof.Machine

/-- The steps of the present cycle that no node issues are over: the transitions in flight reach their stages, and the
issues of the cycle follow, so that S2 sees every effect of the cycle (R27, R38, R40). -/
def closeCycle (s : State) : State := { settle s with closing := true }

/-- The end of a clock cycle (R9, R15, R23, R168, R177, R264-R266, R302, R328). What the next cycle issues is chosen from
the state that it leaves (R27, R35, R139). -/
def endCycle (s : State) : State :=
  let s := dieCounters (palletTicks (regionTicks (hostTick (startWalks (netTick s)))))
  let s := { s with
    closing := false
    admitting := 0
    cycle := s.cycle + 1 }
  { s with picks := picksOf s }

/-! ## A word placed in a slot -/

/-- The node whose slot t0 takes a word placed from outside: node 0 of element 0 of tile (0, 2) of die 0. -/
def fetchNode : NodeRef := ⟨0, 2, 0, 0⟩

/-- The kind of head that an instruction needs on a channel that it tests or reads. -/
def wantedKind (i : Instr) (k : BitVec 3) : BitVec 3 :=
  match i with
  | .cjoin _ => kindSpace
  | _ => if k = 7 then kindData else k

/-- Heads for the channels that a word tests or reads. -/
def wantedHeads (i : Instr) (f : Fields) : Map (List Token) :=
  let reads := ([f.sa, f.sb, f.dst].filterMap ciCode).map (fun k => (k.toNat, [({} : Token)]))
  let tests := [(f.cha, f.ka), (f.chb, f.kb)].filterMap (fun (x : BitVec 3 × BitVec 3) =>
    (chanCode x.1).map (fun k => (x.2, k.toNat, [({ kind := wantedKind i x.2 } : Token)])))
  let put := fun (m : Map (List Token)) (x : Nat × List Token) => Map.set m x.1 x.2
  let any := (tests.filter (fun x => decide (x.1 = 7))).map Prod.snd
  let exact := (tests.filter (fun x => decide (x.1 ≠ 7))).map Prod.snd
  (reads ++ any ++ exact).foldl put []

/-- The section in the state that a matrix opcode waits for (R224). -/
def wantedSection (i : Instr) (m : Matrix) : Matrix :=
  match i with
  | .mcfg _ => { m with st := .off }
  | .mrun _ => { m with st := .cfg, owner := 0 }
  | .mdrain _ => { m with st := .hold, owner := 0, drain := [] }
  | .mfeed _ => { m with st := .run, owner := 0, wordA := 0xC0, feedA := [], feedB := [] }
  | .mscl _ => { m with st := .cfg, owner := 0, wordA := 4 }
  | .mfin _ => { m with st := .done, owner := 0, drain := [] }
  | .mfinAbort _ => { m with st := .cfg, owner := 0 }
  | _ => { m with st := .off }

/-- Mailboxes that a word reads are FULL and one that it writes is EMPTY. -/
def wantedBoxes (s : State) (n : NodeRef) (i : Instr) (f : Fields) (mb : Map Mbox) : Map Mbox :=
  let mb := (mboxReads s n i f).foldl (fun mb m => Map.set mb m ({ st := .full } : Mbox)) mb
  match mboxWrite i f with
  | some m => Map.set mb m {}
  | none => mb

/-- The inbox that `AAPL` takes from is not empty (R315). -/
def wantedInbox (i : Instr) (x : Map Inbox) : Map Inbox :=
  match i with
  | .aapl f => Map.set x (bitsNat f.imm 0 2) { used := true, entries := [{}] }
  | _ => x

/-- The element of the fetch node, ready for an instruction: its domain 0 is VALID and privileged and owns every resource. -/
def wantedElem (s : State) (n : NodeRef) (i : Instr) (f : Fields) (e : Elem) : Elem :=
  { e with
    lastn := 15
    pipeAt := none
    holdUntil := 0
    lastHold := none
    sentAt := none
    dtab := Map.set e.dtab 0 0xC000000000000000
    pword := Map.set (Map.set (Map.set e.pword 0 0x0FFFFFFF) 1 0xFFFFFFFF) 2 0xFF
    scrub := []
    sbuf := []
    podq := []
    mbox := wantedBoxes s n i f e.mbox
    inbox := wantedInbox i e.inbox
    mx := wantedSection i e.mx }

/-- A node in RUN with a word in t0 alone, and with what the word's readiness needs (R34). -/
def wantedNode (w : DWord) (i : Instr) (f : Fields) : Node :=
  { st := .run, p := f.pval, ncfg := 1, pool := [(0, w)], ci := wantedHeads i f }

/-- A word placed in slot t0 of the fetch node, which takes the next issue cycle. -/
def placeWord (s : State) (w : DWord) : State :=
  let n := fetchNode
  let s := { s with
    picks := [{ node := n, slot := 0 }]
    closing := true }
  match decode? w with
  | some i =>
    match i.fields with
    | some f =>
      let s := s.setNd n (wantedNode w i f)
      s.updEl n.elemRef (wantedElem s n i f)
    | none => s
  | none =>
    (s.setNd n { st := .run, ncfg := 1, pool := [(0, w)] }).updEl n.elemRef (fun e => { e with
      lastn := 15
      holdUntil := 0 })

end Sys2Proof.Machine
end

