-- ==== Sys2Proof/Machine/Errors.lean ====
section
/-! DEFINITION. Uncorrectable and correctable errors (R389, R391, R392, R421, R469). -/

namespace Sys2Proof.Machine

/-! ## Origins (R378, R389) -/

/-- The element, with cause SOFT. -/
def softElement (e : ElemRef) : Word := originWord e.die.toNat e.tile.toNat e.elem.toNat 0 false causeSoft

/-- The home die of a memory word, with cause SOFT. -/
def softHome (die : BitVec 4) : Word := originWord die.toNat 0 0 0 true causeSoft

/-- A poisoned value with an origin. -/
def poisonOf (w : Word) : PWord := ⟨w, true⟩

/-- The origin of an error in a word of memory: its element for a local store, else its home die. -/
def softAt (s : State) (pa : Nat) : Word := match s.target pa with
  | .store e _ => softElement e
  | .bank t _ => softHome t.die
  | .dram d => softHome d
  | _ => softHome 0

/-! ## Where errors strike (R392) -/

/-- A token whose channel entry fails. -/
def poisonToken (n : NodeRef) : Token := { kind := kindPoison, payload := softElement n.elemRef }

/-- Entry `i` of an input channel; from 4 on, of the output channel of the same number. -/
def poisonEntry (s : State) (n : NodeRef) (k : BitVec 2) (i : Nat) : State :=
  s.updNd n (fun nd =>
    if i < 4 then nd.setCi k ((nd.ciq k).modify i (fun _ => poisonToken n)) else nd.setCo k ((nd.coq k).modify (i - 4) (fun _ => poisonToken n)))

/-- A word becomes POISON: in a presence bank its state with it (R283). -/
def poisonWord (s : State) (pa : Nat) : State :=
  let s' := s.storeWord pa (poisonOf (softAt s pa))
  match s.target pa with
  | .bank t b => if s.bankMode t b = 3 then reeval (s'.setPres pa .poison) pa else reeval s' pa
  | _ => reeval s' pa

/-- The words of a 64 KiB page become POISON at the home, under every key ID. -/
def poisonPage (s : State) (page : Nat) : State :=
  let w := poisonOf (softAt s page)
  let s := (List.range 16384).foldl (fun (s : State) i => s.storeWord (page + 4 * i) (poisonOf (softAt s (page + 4 * i)))) (s.storeWord page w)
  let s := (List.range 1024).foldl (fun (s : State) i => s.setPres (page + 64 * i) .poison) s
  let s : State := { s with lineKey := s.lineKey.filter (fun x => decide (x.1 < page / 128 ∨ page / 128 + 512 ≤ x.1)) }
  let mine := (s.reqs.filter (fun r => decide (r.stage = .deferred))).flatMap (fun r =>
    (r.pas.map Prod.fst).filter (fun pa => decide (page ≤ pa ∧ pa < page + 0x10000)))
  mine.foldl reeval s

/-- A stage-2 table, or one below it, reaches a physical range of `n` bytes. -/
def tableReaches (s : State) (key : BitVec 13) (lo n : Nat) : Nat → Nat → Bool
  | l, table =>
    decide (table % tableSize l = 0) && s.isDram table && (List.range (2 ^ levelBits l)).any (fun i =>
      let e := s.load64Under (table + 8 * i) key
      let base := bitsNat e 9 36 * 2 ^ 16
      bitAt e 0 && (if bitAt e 1 then decide (base < lo + n ∧ lo < base + 2 ^ levelShift l ∧ l ≠ 3)
        else match l with
          | 0 => false
          | l + 1 => tableReaches s key lo n l (bitsNat e 8 44 * 2 ^ 8)))

/-- The partitions whose stage-2 tables reach a physical range. -/
def reachers (s : State) (lo n : Nat) : List (BitVec 5) :=
  ((s.part.map (fun x => BitVec.ofNat 5 x.1)).filter (fun p => s.pcbValid p && (match s.tableKey p with
    | some k => tableReaches s k lo n 3 (s.pcbD p 8)
    | none => false)))

/-- A page that fails: poisoned at its home, with one entry in the log of every partition that reaches it (R392, R421). -/
def failPage (s : State) (pa : Nat) : State :=
  let page := pa / 0x10000 * 0x10000
  let die := match s.target pa with
    | .dram d => d
    | _ => 0
  let ps := reachers s page 0x10000
  ps.foldl (fun s p => logDie s p (softHome die) causeSoft die) (poisonPage s page)

/-- A word of a store, as against memory behind a cache, whose lines fail as `cleanLine` and `dirtyLine`. -/
def inStore (s : State) (pa : Nat) : Bool := match s.target pa with
  | .bank _ _ => true
  | .store _ _ => true
  | _ => false

/-- What the record of a pool word says (R379). -/
def poolFault (slot : BitVec 4) : FaultInfo := { cause := causeSoft, aux := BitVec.setWidth 8 slot, detb := 0x10000000 }

/-- UNCORRECTABLE_ERROR (R389, R392). -/
def execUncorrectableError (w : ErrorPlace) (s : State) : Host.Outcome State Fault Refusal :=
  .next (match w with
  | .greg n i => s.updNd n (fun nd => nd.setG i.toNat (poisonOf (softElement n.elemRef)))
  | .chan n k i => poisonEntry s n k i
  | .mailbox e i => s.updEl e (fun el => { el with
      mbox := Map.modify el.mbox {} i.toNat (fun (m : Mbox) => { m with word := poisonOf (softElement e) }) })
  | .lane e v i => s.updEl e (fun el => { el with vreg := Map.set el.vreg (16 * v.toNat + i.toNat) (poisonOf (softElement e)) })
  | .acc e k i => s.updEl e (fun el => { el with acc := Map.set el.acc (16 * k.toNat + i.toNat) (poisonOf (softElement e)) })
  | .pool n slot => faultFromOutside s n slot (((slotInstr (s.nd n) slot.toNat).map opcOf).getD 0) (poolFault slot)
  | .word pa => if inStore s pa.toNat then poisonWord s (pa.toNat / 4 * 4) else s
  | .cleanLine pa second => if second ∨ s.isDram pa.toNat = false then s else failPage s pa.toNat
  | .dirtyLine pa => if s.isDram pa.toNat then failPage s pa.toNat else s)

/-- CORRECTABLE_ERROR (R392, R469): corrected, and counted in CECNT of the die. -/
def execCorrectableError (die : BitVec 5) (s : State) : Host.Outcome State Fault Refusal :=
  .next { s with cecnt := countUp s.cecnt die }

end Sys2Proof.Machine
end

