-- ==== Sys2Proof/Machine/Queue.lean ====
section
/-! DEFINITION. Queues: doorbells, mapping and unmapping, the choice of a command, and the six commands
(R257-R259, R429-R431). -/

namespace Sys2Proof.Machine

/-! ## Doorbells (R430) -/

/-- A write to a doorbell (R430): a queue in error takes none (R431). -/
def doorbell (s : State) (fn : BitVec 12) (q : BitVec 6) (v : Word) : State :=
  match s.queueReg fn q with
  | none => s
  | some r => if r.err ≠ 0 then s else ringBell s r v

/-- QUEUE_DOORBELL (R430). -/
def execQueueDoorbell (fn : BitVec 12) (q : BitVec 6) (v : Word) (s : State) : Host.Outcome State Fault Refusal :=
  .next (if s.edgeOpen (s.fnPort fn) then doorbell s fn q v else s)

/-- QUEUE_IDLE_UNMAP (R430): an idle queue makes room for a held doorbell of its partition. -/
def execQueueIdleUnmap (d : BitVec 4) (i : BitVec 6) (s : State) : Host.Outcome State Fault Refusal :=
  let q := s.qslot d i.toNat
  .next (if q.mayLeave (s.now d) ∧ s.qreg.any (fun r => decide (r.die = d) && decide (r.part = q.part) && r.wants) = true then
    serveHeld (unmapSlot s d i.toNat) d q.part
  else s)

/-! ## The choice of a command (R257) -/

/-- A slot has a command that can be read now. -/
def commandReady (s : State) (d : BitVec 4) (q : QSlot) : Bool :=
  q.mapped && decide (q.err = 0) && decide (q.announced q.bell ≠ 0) && !s.queueHost d q q.entryVa

/-- The dispatcher may accept a command: at most one in a cycle (R257), and none while it makes a pallet (DESIGN CHOICE, log entry 128). -/
def queueDue (s : State) (d : BitVec 4) : Bool :=
  (s.dieAt d).job.isNone && s.admitted d && decide ((s.dieAt d).cmdAt ≠ some s.cycle)

/-- The slot whose command comes next: of the lowest class, in rotation, up to its weight in turn. -/
def nextSlot (s : State) (d : BitVec 4) : Option Nat :=
  let live := (s.dieAt d).slot.filter (fun x => commandReady s d x.2)
  match (live.map (fun x => x.2.cls)).min? with
  | none => none
  | some c =>
    let mine := live.filter (fun x => decide (x.2.cls = c))
    let next := fun (i : Nat) => ((mine.find? (fun x => decide (i < x.1))).orElse (fun _ => mine.head?)).map Prod.fst
    match Map.find (s.dieAt d).lastSlot c with
    | none => mine.head?.map Prod.fst
    | some l => match mine.find? (fun x => decide (x.1 = l.toNat)) with
      | some x => if x.2.served < x.2.weight then some x.1 else next x.1
      | none => next l.toNat

/-- Ring entries that wait for the host's translation ask for it (R425). -/
def askRings (s : State) (d : BitVec 4) : State :=
  ((s.dieAt d).slot.filter (fun x => x.2.mapped && decide (x.2.err = 0) && decide (x.2.announced x.2.bell ≠ 0)
      && s.queueHost d x.2 x.2.entryVa)).foldl (fun s x =>
    askHost s (s.dieTlb d) (.queue d (BitVec.ofNat 6 x.1)) (x.2.stamp d) x.2.entryVa) s

/-- The slot gives up its command: SQHEAD advances and the slot counts it (R257, R430). -/
def takeEntry (s : State) (d : BitVec 4) (i : Nat) : State :=
  let q := s.qslot d i
  let same := Map.find (s.dieAt d).lastSlot q.cls = some (BitVec.ofNat 6 i) ∧ q.served < q.weight
  let s := s.setQslot d i { q with
    head := (q.head % q.size + 1) % q.size
    served := if same then q.served + 1 else 1
    idleSince := s.now d }
  s.updDie d (fun x => { x with
    lastSlot := Map.set x.lastSlot q.cls (BitVec.ofNat 6 i)
    cmdAt := some s.cycle })

/-- What a command does: an effect, an error, or a wait for a translation. -/
inductive Command where
  | done (s : State)
  | fails
  | waits (va : Nat)

/-- Fields that an OP does not name are zero (R258): of word 0, and from word `n` on. -/
def restZero (ws : List Word) (n : Nat) : Bool := decide (bitsNat (ws.getD 0 0) 0 24 = 0) && (ws.drop n).all (fun (w : Word) => decide (w = 0))

/-- The dispatcher of a die takes its next command where its OP is the one asked for; an OP that the table does not hold
comes up under each (R258). A queue in error stops (R431). -/
def command (op : Nat) (d : BitVec 4) (s : State) (go : State → Nat → QSlot → List Word → Command) : State :=
  let s := askRings s d
  match (if queueDue s d then nextSlot s d else none) with
  | none => s
  | some i =>
    let q := s.qslot d i
    let w := s.queueTouch d q q.entryVa 128 false
    let s := w.1
    if w.2 = false then s
    else match s.queueRead d q q.entryVa 32 with
    | .error _ => queueError s d i 4
    | .ok ws =>
      let o := bitsNat (ws.getD 0 0) 24 8
      if o = op then
        match go (takeEntry s d i) i q ws with
        | .done s' => s'
        | .fails => queueError (takeEntry s d i) d i 2
        | .waits va => askHost s (s.dieTlb d) (.queue d (BitVec.ofNat 6 i)) (q.stamp d) va
      else if o = 0 ∨ 6 < o then queueError (takeEntry s d i) d i 2
      else s

/-! ## The commands (R258) -/

/-- SPAWN: as `TSPN`; the completion record tells the first record, or the reason with CAUSE 0xFF (R259). -/
def execSpawn (d : BitVec 4) (s : State) : Host.Outcome State Fault Refusal :=
  .next (command 1 d s (fun s i q ws =>
    if restZero ws 23 then
      let slot := BitVec.ofNat 6 i
      match beginPallet s d q.part q.tenant q.cls slot (some (q.fn, q.q)) ((ws.drop 1).take 22) none (some slot) with
      | .ok s => .done s
      | .error e => .done (completion s d slot (some (q.fn, q.q)) e 0 0xFF)
    else .fails))

/-- Bits 5:0 of a reference are zero (R243). -/
def refOk (ref : Word) : Bool := decide (bitsNat ref 0 6 = 0)

/-- DEC: one decrement with RB none. -/
def execDec (d : BitVec 4) (s : State) : Host.Outcome State Fault Refusal :=
  .next (command 2 d s (fun s _ q ws =>
    if restZero ws 3 ∧ bitsNat (ws.getD 2 0) 1 31 = 0 ∧ refOk (ws.getD 1 0) then
      .done (sendDec s d (ws.getD 1 0) (bitAt (ws.getD 2 0) 0) none q.part)
    else .fails))

/-- A reference names the record as it is now, in the partition. A die that is not admitted answers nothing, and a reference
to a record of it names none (R416; DEDUCED, log entry 119). -/
def namesRecord (s : State) (p : BitVec 5) (ref : Word) : Bool :=
  let t := s.task (refDie ref) (refIndex ref)
  s.admitted (refDie ref) && decide (t.gen = refGen ref) && decide (t.part = p)

/-- ABORT: a live record fails, another reference is dropped as stale. -/
def execAbort (d : BitVec 4) (s : State) : Host.Outcome State Fault Refusal :=
  .next (command 3 d s (fun s _ q ws =>
    let ref := ws.getD 1 0
    let t := s.task (refDie ref) (refIndex ref)
    if restZero ws 2 ∧ refOk ref then
      if namesRecord s q.part ref ∧ t.live then .done (abortTask s (refDie ref) (refIndex ref))
      else .done (if s.admitted (refDie ref) then dropDec s (refDie ref) t q.part false else dropDec s d {} q.part false)
    else .fails))

/-- FREE: a retired or TMPL record returns to FREE. -/
def execFree (d : BitVec 4) (s : State) : Host.Outcome State Fault Refusal :=
  .next (command 4 d s (fun s _ q ws =>
    let ref := ws.getD 1 0
    let t := s.task (refDie ref) (refIndex ref)
    if restZero ws 2 ∧ refOk ref ∧ namesRecord s q.part ref ∧ (t.state = 1 ∨ (8 ≤ t.state ∧ t.state ≤ 10)) then
      .done (s.setTask (refDie ref) (refIndex ref) t.free)
    else .fails))

/-- Word 1 of REGT and UNREGT: count and first index. -/
def regtCount (ws : List Word) : Nat := bitsNat (ws.getD 1 0) 24 8 + 1
def regtBase (ws : List Word) : Nat := bitsNat (ws.getD 1 0) 0 14

/-- A record image is legal (R258): INIT, the successors and the reserved fields of R242. -/
def imageOk (t : Task) : Bool :=
  decide (1 ≤ t.init) && (List.range t.nsuc).all (fun k => sucOk (t.succ k)) && (List.range 7).all (fun k => sucZeros (t.succ k))
    && decide (t.field 0 6 1 = 0) && decide (t.field 2 0 6 = 0) && decide (t.field 3 24 8 = 0)
    && decide (t.field 7 0 6 = 0) && decide (t.field 8 8 7 = 0)

/-- A page of a range of memory that waits for the host's translation. -/
def rangeWaits (s : State) (d : BitVec 4) (q : QSlot) (va n : Nat) : Option Nat :=
  ((List.range (n / 0x10000 + 2)).map (fun i => min (va + 0x10000 * i) (va + n - 1))).find? (fun a => s.queueHost d q a)

/-- Record images copied to their places as TMPL. -/
def registerImages (s : State) (d : BitVec 4) (q : QSlot) (base n : Nat) (ws : List Word) : Option State :=
  let imgs := (List.range n).map (fun i =>
    ({ w := ((ws.drop (32 * i)).take 32).zipIdx.map (fun x => (x.2, x.1)), tenant := q.tenant } : Task))
  if imgs.all imageOk then
    some (imgs.zipIdx.foldl (fun (s : State) (x : Task × Nat) =>
      let t := ((x.1.setField 0 28 4 1).setField 0 20 8 (s.task d (base + x.2)).gen).setField 7 11 5 q.part.toNat
      s.setTask d (base + x.2) t) s)
  else none

/-- REGT: N record images are copied to FREE records. -/
def execRegt (d : BitVec 4) (s : State) : Host.Outcome State Fault Refusal :=
  .next (command 5 d s (fun s _ q ws =>
    let n := regtCount ws
    let x := regtBase ws
    let va := (ws.getD 2 0).toNat + (ws.getD 3 0).toNat * 2 ^ 32
    if restZero ws 4 = false ∨ bitsNat (ws.getD 1 0) 14 10 ≠ 0 ∨ 2 ^ 56 ≤ va ∨ freeRun s d x n = false then .fails
    else match rangeWaits s d q va (128 * n) with
    | some a => .waits a
    | none =>
      let s := (s.queueTouch d q va (128 * n) false).1
      match s.queueRead d q va (32 * n) with
      | .error _ => .fails
      | .ok ims => match registerImages s d q x n ims with
        | some s => .done s
        | none => .fails))

/-- UNREGT: N TMPL records return to FREE. -/
def execUnregt (d : BitVec 4) (s : State) : Host.Outcome State Fault Refusal :=
  .next (command 6 d s (fun s _ q ws =>
    let n := regtCount ws
    let x := regtBase ws
    if restZero ws 2 ∧ bitsNat (ws.getD 1 0) 14 10 = 0 ∧ x + n ≤ 16383
        ∧ (List.range n).all (fun i => isTemplate s d q.part (x + i)) = true then
      .done ((List.range n).foldl (fun s i => s.updTask d (x + i) Task.free) s)
    else .fails))

end Sys2Proof.Machine
end

