-- ==== Sys2Proof/Machine/Course.lean ====
section
/-! DEFINITION. A course from the acknowledgement of its tiles to its end, and the delivery of trap records
(R42, R45, R248, R254, R255, R262-R265, R380, R382). -/

namespace Sys2Proof.Machine

/-! ## The load (R45, R248, R262) -/

/-- The place of a tile in its region. -/
def Region.placeOf (g : Region) (t : BitVec 11) : Nat × Nat := (tileRow t - g.row0, tileCol t - g.col0)

/-- The record of a slot that fails R92 goes to the service core (R403). A failed load is reported in the same way; where no
slot fails, the record names slot t0 (DEDUCED, log entry 51). -/
def slotRecord (s : State) (g : Region) (x : LoadError) : State :=
  let dom := ((g.course.node (g.placeOf x.node.tile) x.node.elem.toNat x.node.node.toNat).map NodeImage.dom).getD 0
  s.sendTrap none (some x.node) g.part
    [nodeOrigin x.node x.cause, trapW1 (BitVec.ofNat 4 dom) (BitVec.ofNat 4 (x.slot.getD 0)) 0 0 .transition, 0, 0]

/-- A load that fails validation: it is reported, the region is reset and the task fails (R45, R248). -/
def failLoad (s : State) (rid : Nat) (x : LoadError) : State :=
  let g := s.rg rid
  failTask (unloadRegion (slotRecord s g x) rid true) g.die g.task.toNat x.cause

/-- A tile's part of a load is written and acknowledged; the last one completes the load. -/
def ackTile (s : State) (rid : Nat) (t : BitVec 11) : State :=
  let g := s.rg rid
  let task := s.task g.die g.task.toNat
  let s := writeTile s g task.image g.course (g.placeOf t) task.staged
  let g := { g with acked := t :: g.acked }
  let s := s.setRg rid g
  if g.tiles.all (fun x => g.acked.contains x.tile) then installEdges s g g.course else s

/-- The configuration of a tile has reached it (R177). -/
def configHere (s : State) (rid : Nat) (t : TileRef) : Bool :=
  !s.net.any (fun f => decide (f.load = .config rid) && decide (f.last = t))

/-- TILE_LOAD_ACK (R262), of a tile that the configuration has reached. The course is validated before its first tile is written. -/
def execTileLoadAck (rid : Nat) (t : BitVec 11) (s : State) : Host.Outcome State Fault Refusal :=
  let g := s.rg rid
  let task := s.task g.die g.task.toNat
  .next (if (Map.find s.region rid).isSome ∧ g.st = .loading ∧ g.holds ⟨g.die, t⟩ = true ∧ g.acked.contains t = false ∧ configHere s rid ⟨g.die, t⟩ = true then
    match (if g.acked = [] then courseError s g task.image g.course task.staged else none) with
    | some x => failLoad s rid x
    | none => ackTile s rid t
  else s)

/-! ## Opening (R42, R254, R263) -/

/-- A node of a freshly loaded course leaves OFF (R42). -/
def openNode (s : State) (n : NodeRef) : State :=
  s.updNd n (fun nd => { nd with
    st := .run
    p := bits nd.ncfg 16 8
    seq := []
    wpend := false
    nextAt := s.cycle + 1 })

/-- The slot whose access a saved latch holds: the node's last one, where it has the latch's opcode and DST code, else the
first that has. -/
def latchSlot (nd : Node) : Option (Nat × Instr) :=
  let w := nd.latchAt 0
  (nd.last.toNat :: List.range 16).findSome? (fun k => match slotInstr nd k with
    | some i => match i.fields with
      | some f => if (opcOf i).toNat = bitsNat w 0 8 ∧ f.dst.toNat = bitsNat w 20 5 then some (k, i) else none
      | none => none
    | none => none)

/-- What a restored node does with its latch (R403): a held reply completes it, a request that was sent is asked for by a
recovery query, and one that was not sent is given up, so that its slot fires again. -/
def reviveLatch (s : State) (n : NodeRef) : State :=
  let nd := s.nd n
  if nd.latchValid = false then s
  else match (if nd.latchSent ∨ nd.latchRpv then latchSlot nd else none) with
    | none => s.updNd n (fun nd => nd.setLatchBit 31 false)
    | some (k, i) =>
      match i.fields with
      | none => s
      | some f =>
      let fl : InFlight := { slot := BitVec.ofNat 4 k, instr := i, why := .latch, seqA := seqOf nd f.cha, seqB := seqOf nd f.chb }
      let s := (claim s n i f).updNd n (fun nd => { nd with
        st := .parked
        flight := some fl })
      if nd.latchRpv then completeLatch s n (nd.lheld.getD {}) else queryLatch s n

/-- A restored node leaves OFF (R42, R403): in RUN with its saved P, and with WDRN clear (R19). -/
def reviveNode (s : State) (n : NodeRef) : State :=
  let s := s.updNd n (fun nd => { nd with
    st := .run
    aligned := none
    marks := 0
    flight := none
    faulting := none
    later := none
    wdrn := false
    nextAt := s.cycle + 1 })
  recheckToken (reviveLatch s n) n

/-- The places in a course's images that stand in a tile. -/
def Region.nodesIn (g : Region) (t : BitVec 11) : List NodeRef :=
  (g.course.nodes.filter (fun x => decide (x.tile = g.placeOf t))).map (fun x => ⟨g.die, t, x.elem, x.node⟩)

/-- The regions and output ports whose RUNNING tasks feed an input port of a region (R244, R254). -/
def feedersOf (s : State) (rid i : Nat) : List (Nat × Nat) := (feedTasks s (s.rg rid) i).filterMap (fun x => if (s.rg x.1).st = .running then some x else none)

/-- A forwarding route from an output port to an input port (R254). -/
def installRoute (s : State) (rid i : Nat) (p : Nat × Nat) : State :=
  let r := addRoute s rid i ((s.rg p.1).outPort p.2)
  r.2.updRg p.1 (fun x => { x with oport := Map.set x.oport p.2 (some r.1) })

/-- An input port whose gate is open takes its next predecessor: a port is the destination of one route at a time (R176). One
that was discarded before it had a route gives its POISON and END (R255); one that runs, and whose output port is open, gets
its route (R254). -/
def linkPort (s : State) (rid i : Nat) : State :=
  if takesRoute s rid i = false then s
  else match brokenInto s rid i with
  | some x => linkBroken s rid i x
  | none =>
    match (feedersOf s rid i).find? (fun p => decide (Map.find (s.rg p.1).oport p.2 = some none) && (s.rg p.1).portOpen ((s.rg p.1).outPort p.2)) with
    | some p => installRoute s rid i p
    | none => s

/-- The gates of a tile have opened: its input ports, and the input ports that its output ports feed, take their routes. -/
def openPorts (s : State) (rid : Nat) (t : BitVec 11) : State :=
  let g := s.rg rid
  let s := (List.range g.hdr.nin).foldl (fun s i => if (g.inPort i).1.tile = t then linkPort s rid i else s) s
  s.region.foldl (fun s x => (List.range x.2.hdr.nin).foldl (fun s i =>
    if (feedersOf s x.1 i).any (fun p => decide (p.1 = rid) && decide ((g.outPort p.2).1.tile = t)) then linkPort s x.1 i else s) s) s

/-- A task enters RUNNING (R248, R254, R345): its staged store is freed, and each stream successor gets its decrement and
has the entry's output port bound to it. -/
def startTask (s : State) (rid : Nat) : State :=
  let g := s.rg rid
  let i := g.task.toNat
  let t := { (s.task g.die i).setField 0 28 4 6 with
    staged := []
    streamed := true }
  let s := s.setTask g.die i t
  (List.range t.nsuc).foldl (fun s k =>
    let e := t.succ k
    if sucKind e = 2 then
      let s := sendSuccessor s g.die t e false (remaining t (s.now g.die))
      s.updRg rid (fun x => { x with oport := Map.set x.oport (sucOport e) none })
    else s) s

/-- A tile's elements choose from node 0 on (R139). -/
def openElems (s : State) (t : TileRef) : State :=
  if isCompute t.tile then (List.range 16).foldl (fun s i => s.updEl ⟨t.die, t.tile, BitVec.ofNat 4 i⟩ (fun e => { e with lastn := 15 })) s
  else s

/-- What is common to a first opening and to one after a restore: the region's tile is open, its input ports accept, and
the task is RUNNING from the first one on. -/
def openTile (s : State) (rid : Nat) (t : BitVec 11) : State :=
  let first := decide ((s.rg rid).st = .loading)
  let s := s.updRg rid (fun (g : Region) => { g with
    st := RegionState.running
    opened := t :: g.opened
    fired := true })
  openPorts (if first then startTask s rid else s) rid t

/-- REGION_OPEN (R263): OPEN reaches a tile of a loaded region. -/
def execRegionOpen (rid : Nat) (t : BitVec 11) (s : State) : Host.Outcome State Fault Refusal :=
  let g := s.rg rid
  .next (if (Map.find s.region rid).isSome ∧ (g.st = .loading ∨ g.st = .running) ∧ g.holds ⟨g.die, t⟩ = true
      ∧ g.tiles.all (fun x => g.acked.contains x.tile) = true ∧ g.opened.contains t = false then
    let s := (g.nodesIn t).foldl (fun s n => if (s.nd n).aligned.isSome then reviveNode s n else openNode s n) (openElems s ⟨g.die, t⟩)
    openTile s rid t
  else s)

/-! ## Streams between courses (R255) -/

/-- END arrives: the route is given up, the port is at its end once no other route feeds it, and the next predecessor takes
its place. -/
def endRoute (s : State) (rid i : Nat) (e : Edge) : State :=
  let s := dropFlits { s with edge := Map.erase s.edge e.id }
  linkPort (s.updRg rid (fun g => { g with iend := setBits g.iend i 1 1 })) rid i

/-- STREAM_END (R255): END, after every token before it, reaches an input port. -/
def execStreamEnd (rid : Nat) (i : BitVec 3) (s : State) : Host.Outcome State Fault Refusal :=
  .next (match (routesInto s rid i.toNat).find? (fun e => e.ended && decide (e.flight = []) && decide (tokensOut s e = [])) with
  | none => s
  | some e => endRoute s rid i.toNat e)

/-! ## The end of a course (R248, R264) -/

/-- A sink has delivered its count (R238, R239). -/
def sinkDone (g : Region) (t : Task) (i : Nat) : Bool :=
  let w := g.sinkWord i 0
  let n := if bitAt w 16 then bitsNat (t.binds.getD (bitsNat w 0 4) (0, 0)).1 0 32 else (g.sinkWord i 1).toNat
  decide (n ≤ Map.get g.sinks 0 i)

/-- END on every route of a course (R255). -/
def endRoutes (s : State) (g : Region) : State :=
  g.oport.foldl (fun s x => match x.2 with
    | some e => if (Map.find s.edge e).isSome then s.updEd e (fun ed => { ed with ended := true }) else s
    | none => s) s

/-- The store buffers and pod queues of a region hold nothing. -/
def storesDone (s : State) (g : Region) : Bool :=
  s.elem.all (fun x => !g.holds (elemOfKey x.1).tileRef || decide (x.2.sbuf = [] ∧ x.2.podq = []))

/-- Every write of a drained course is acknowledged (R264, R331, R443). -/
def drained (s : State) (rid : Nat) : Bool :=
  let g := s.rg rid
  !boundEngine s rid && storesDone s g

/-- QUIESCENCE (R264): DRAINING, or FAILED where a sink is below its count (R248). It is declared once the store buffers and
pod queues of the course are empty too (R376, R414, R461; DEDUCED, log entry 118). -/
def execQuiescence (rid : Nat) (s : State) : Host.Outcome State Fault Refusal :=
  let g := s.rg rid
  let t := s.task g.die g.task.toNat
  .next (if (Map.find s.region rid).isSome ∧ g.st = .running ∧ g.snap.isNone ∧ g.done = [] ∧ g.qhold ≤ g.idle ∧ storesDone s g = true then
    if (List.range g.hdr.nsnk).all (sinkDone g t) then
      let s := endRoutes s g
      let s := s.setRg rid { g with st := .draining }
      s.setTask g.die g.task.toNat (t.setField 0 28 4 7)
    else failTask (unloadRegion s rid true) g.die g.task.toNat causeSink
  else s)

/-- RECONFIG_TOKEN_PASS (R248, R264): the token passes, the region is unloaded and the task retires DONE, LATE at or after
its deadline (R253). -/
def execReconfigTokenPass (rid : Nat) (s : State) : Host.Outcome State Fault Refusal :=
  let g := s.rg rid
  let i := g.task.toNat
  .next (if (Map.find s.region rid).isSome ∧ g.st = .draining ∧ drained s rid then
    let s := unloadRegion s rid false
    let t := s.task g.die i
    retire (s.setTask g.die i (if t.deadline ≤ s.now g.die then t.setField 8 15 1 1 else t)) g.die i 8
  else s)

/-- STALL_WATCHDOG (R265): the record goes to the service core and the count restarts. -/
def execStallWatchdog (rid : Nat) (s : State) : Host.Outcome State Fault Refusal :=
  let g := s.rg rid
  let w := s.wdeOf g
  .next (if (Map.find s.region rid).isSome ∧ g.st = .running ∧ w ≠ 0 ∧ 2 ^ w ≤ g.stall then
    let t := (g.tileAt (0, 0)).tile
    (s.setRg rid { g with stall := 0 }).sendTrap none (some ⟨g.die, t, 0, 0⟩) g.part
      [originWord g.die.toNat t.toNat 0 0 true causeStall, 0, 0, 0]
  else s)

/-! ## Trap records (R380, R382) -/

/-- The five tokens of a record. -/
def recordTokens (t : Trap) : List Token := t.w.map (fun v => ({ payload := v } : Token)) ++ [{ kind := kindStop1 }]

/-- The service core enters a record in the event log of its partition (R382, R421). -/
def serviceRecord (s : State) (t : Trap) : State :=
  let o := t.w.getD 0 0
  logDie s t.part o (bits o 0 8) (bits o 28 4)

/-- Tokens of a record enter a receiver's ci3 as far as it has room. -/
def enterRecord (s : State) (n : NodeRef) (ts : List Token) : List Token × State :=
  let room := 4 - ciTaken s n 3
  (ts.drop room, touchRegion (s.updNd n (fun nd => (ts.take room).foldl (fun (x : Node) t => x.enterCi 3 t) nd)) n.elemRef)

/-- The record of a receiver that takes none goes to the service core (R380). -/
def recordLost (s : State) (t : Trap) (n : NodeRef) : Bool :=
  let st := (s.nd n).st
  decide (st = .off) || (decide (st = .faulted) && decide (t.left = []))

/-- TRAP_RECORD_DELIVERY (R380): a record enters the log, or its receiver's ci3, in the order in which records came. -/
def execTrapRecordDelivery (i : Nat) (s : State) : Host.Outcome State Fault Refusal :=
  .next (match s.traps[i]?.filter (trapHere s) with
  | none => s
  | some t => match t.dest with
    | none => serviceRecord { s with traps := s.traps.eraseIdx i } t
    | some n =>
      if (s.traps.take i).any (fun x => decide (x.dest = some n)) then s
      else if recordLost s t n then serviceRecord { s with traps := s.traps.eraseIdx i } t
      else
        let r := enterRecord s n (if t.left = [] then recordTokens t else t.left)
        if r.1 = [] then { r.2 with traps := r.2.traps.eraseIdx i }
        else { r.2 with traps := r.2.traps.set i { t with left := r.1 } })

end Sys2Proof.Machine
end

