-- ==== Sys2Proof/Machine/Image.lean ====
section
/-! DEFINITION. Context images (R406-R408): the header and the node records as the manual lays them out, and the element and
memory-tile records, of which the manual gives the parts and their order and the model the places inside a part. -/

namespace Sys2Proof.Machine

/-! ## Formats -/

/-- How values of a type stand in words: written, and read back with the words that follow. -/
structure Codec (α : Type) where
  put : α → List Word
  get : List Word → Option (α × List Word)

def codecWord : Codec Word :=
  { put := fun w => [w]
    get := fun
      | w :: ws => some (w, ws)
      | [] => none }

def codecMap {α β : Type} (c : Codec α) (into : α → β) (from_ : β → α) : Codec β :=
  { put := fun b => c.put (from_ b), get := fun ws => (c.get ws).map (fun x => (into x.1, x.2)) }

def codecPair {α β : Type} (a : Codec α) (b : Codec β) : Codec (α × β) :=
  { put := fun x => a.put x.1 ++ b.put x.2
    get := fun ws => match a.get ws with
      | some (x, ws) => (b.get ws).map (fun y => ((x, y.1), y.2))
      | none => none }

def codecNat : Codec Nat :=
  codecMap (codecPair codecWord codecWord) (fun x => x.1.toNat + x.2.toNat * 2 ^ 32) (fun n => (BitVec.ofNat 32 n, BitVec.ofNat 32 (n / 2 ^ 32)))
def codecBv (n : Nat) : Codec (BitVec n) := codecMap codecNat (BitVec.ofNat n) BitVec.toNat
def codecBool : Codec Bool := codecMap codecWord (fun w => decide (w ≠ 0)) (fun b => if b then 1 else 0)

/-- Four values in turn. -/
def codecBv4 {α : Type} (c : Codec α) : Codec (α × α × α × α) := codecPair c (codecPair c (codecPair c c))

/-- `n` values in turn. -/
def getItems {α : Type} (c : Codec α) : Nat → List Word → Option (List α × List Word)
  | 0, ws => some ([], ws)
  | n + 1, ws => match c.get ws with
    | some (x, ws) => (getItems c n ws).map (fun y => (x :: y.1, y.2))
    | none => none

def codecList {α : Type} (c : Codec α) : Codec (List α) :=
  { put := fun xs => BitVec.ofNat 32 xs.length :: xs.flatMap c.put
    get := fun
      | w :: ws => getItems c w.toNat ws
      | [] => none }

def codecOption {α : Type} (c : Codec α) : Codec (Option α) := codecMap (codecList c) List.head? Option.toList

/-- Zero words up to a multiple of 64 bytes. -/
def padWords (ws : List Word) : List Word := ws ++ List.replicate ((16 - ws.length % 16) % 16) 0
def padLength (n : Nat) : Nat := n + (16 - n % 16) % 16

/-- A part of a record with its padding. -/
def codecPart {α : Type} (c : Codec α) : Codec α :=
  { put := fun x => padWords (c.put x)
    get := fun ws => (c.get ws).map (fun y => (y.1, ws.drop (padLength (ws.length - y.2.length)))) }

/-- Poison bits of words, 32 to a word. -/
def poisonMap (ws : List PWord) : List Word :=
  (List.range ((ws.length + 31) / 32)).map (fun i =>
    BitVec.ofNat 32 (((List.range 32).map (fun j => if (ws.getD (32 * i + j) {}).psn then 2 ^ j else 0)).sum))

/-- A data part of `n` words, followed by its poison bitmap (R408). -/
def codecData (n : Nat) : Codec (List PWord) :=
  { put := fun ws => padWords (ws.map PWord.val) ++ padWords (poisonMap ws)
    get := fun ws =>
      let m := padLength n + padLength ((n + 31) / 32)
      if ws.length < m then none
      else
        let bs := ws.drop (padLength n)
        some ((List.range n).map (fun i => ⟨ws.getD i 0, bitAt (bs.getD (i / 32) 0) (i % 32)⟩), ws.drop m) }

/-- Words with the poison bits of a bitmap, and the bits left over. -/
def takePoison (ws : List PWord) (bs : List Bool) : List PWord × List Bool :=
  (ws.zipIdx.map (fun x => ⟨x.1.val, bs.getD x.2 false⟩), bs.drop ws.length)

/-- A part of an element record that holds data words among others, followed by their poison bitmap (R408; its place and
width are DESIGN CHOICE, log entry 115): `words` are the data words in order, and `fill` gives them their poison. -/
def codecMarked {α : Type} (c : Codec α) (words : α → List PWord) (fill : α → List Bool → α) : Codec α :=
  { put := fun x => padWords (c.put x) ++ padWords (poisonMap (words x))
    get := fun ws => match (codecPart c).get ws with
      | none => none
      | some (x, ws) =>
        let n := (words x).length
        let m := padLength ((n + 31) / 32)
        if ws.length < m then none
        else some (fill x ((List.range n).map (fun i => bitAt (ws.getD (i / 32) 0) (i % 32))), ws.drop m) }

/-! ## The values in a record -/

/-- A value whose poison stands in a bitmap, and one with its poison beside it. -/
def codecVal : Codec PWord := codecMap codecWord PWord.clean PWord.val
def codecPWord : Codec PWord := codecMap (codecPair codecWord codecBool) (fun x => ⟨x.1, x.2⟩) (fun w => (w.val, w.psn))

/-- A token in 8 bytes (R163). -/
def codecToken : Codec Token :=
  codecMap (codecPair codecWord codecWord) (fun x => { kind := bits x.2 3 3, fmt := bits x.2 0 3, payload := x.1 })
    (fun t => (t.payload, BitVec.ofNat 32 (t.kind.toNat * 8 + t.fmt.toNat)))

def codecNodeRef : Codec NodeRef :=
  codecMap codecNat nodeOfKey NodeRef.key

def codecStamp : Codec Stamp :=
  codecMap (codecPair (codecBv 5) (codecPair (codecBv 16) (codecPair (codecBv 13) codecNodeRef)))
    (fun x => ⟨x.1, x.2.1, x.2.2.1, x.2.2.2⟩) (fun x => (x.part, x.tenant, x.keyid, x.issuer))

def codecTag : Codec Tag :=
  codecMap (codecPair codecBool (codecPair (codecBv 4) (codecPair (codecBv 4) (codecPair (codecBv 2) (codecPair codecWord (codecPair codecWord codecBool))))))
    (fun x => ⟨x.1, x.2.1, x.2.2.1, x.2.2.2.1, x.2.2.2.2.1, x.2.2.2.2.2.1, x.2.2.2.2.2.2⟩)
    (fun x => (x.valid, x.node, x.dom, x.chan, x.count, x.arrived, x.err))

/-- An update entry as its 128 bits (R314). -/
def InboxEntry.toBits (x : InboxEntry) : BitVec 128 :=
  x.opb ++ x.opa ++ BitVec.ofBool x.psb ++ BitVec.ofBool x.psa ++ x.off ++ x.op ++ x.rm ++ BitVec.ofBool x.rply
    ++ x.req.tile ++ x.req.elem ++ x.req.node ++ x.seq ++ (0 : BitVec 13)

/-- The update entry of 128 bits; its requester is on die `die` (R314). -/
def inboxEntryBits (die : BitVec 4) (w : BitVec 128) : InboxEntry :=
  { opb := bits w 96 32, opa := bits w 64 32, psb := bitAt w 63, psa := bitAt w 62, off := bits w 47 15, op := bits w 43 4, rm := bits w 41 2,
    rply := bitAt w 40, req := ⟨die, bits w 29 11, bits w 25 4, bits w 21 4⟩, seq := bits w 13 8 }

/-- An update entry in its four words; a restore gives the requester its die. -/
def codecInboxEntry : Codec InboxEntry :=
  codecMap (codecBv4 codecWord) (fun x => inboxEntryBits 0 (x.2.2.2 ++ x.2.2.1 ++ x.2.1 ++ x.1))
    (fun x => let w := x.toBits; (bits w 0 32, bits w 32 32, bits w 64 32, bits w 96 32))

def codecInbox : Codec Inbox :=
  codecMap (codecPair (codecBv 4) (codecPair codecBool (codecPair (codecBv 56) (codecPair codecNat (codecList codecInboxEntry)))))
    (fun x => ⟨x.1, x.2.1, x.2.2.1, x.2.2.2.1, x.2.2.2.2⟩) (fun x => (x.owner, x.used, x.base, x.size, x.entries))

def codecGatePoison : Codec GatePoison :=
  codecMap (codecPair codecNat (codecPair codecWord (codecPair (codecBv 4) (codecBv 2)))) (fun x => ⟨x.1, x.2.1, x.2.2.1, x.2.2.2⟩)
    (fun x => (x.gate, x.origin, x.caller, x.rci))

def codecEntry : Codec StoreEntry :=
  codecMap (codecPair (codecBv 4) (codecPair (codecBv 4) (codecPair codecStamp (codecPair (codecBv 56) (codecPair (codecList codecVal)
      (codecPair (codecBv 8) (codecPair (codecBv 10) (codecBv 4))))))))
    (fun x => { node := x.1, dom := x.2.1, stamp := x.2.2.1, va := x.2.2.2.1, words := x.2.2.2.2.1, opc := x.2.2.2.2.2.1,
                mod := x.2.2.2.2.2.2.1, port := x.2.2.2.2.2.2.2 })
    (fun x => (x.node, x.dom, x.stamp, x.va, x.words, x.opc, x.mod, x.port))

def codecKItem (c : Codec PWord) : Codec KItem :=
  codecMap (codecPair (codecList c) (codecPair (codecOption (codecList c)) (codecOption codecWord)))
    (fun x => ⟨x.1, x.2.1, x.2.2⟩) (fun x => (x.vals, x.scales, x.mark))

/-- The data words of a k-value, and the k-value with the poison of a bitmap. -/
def KItem.words (x : KItem) : List PWord := x.vals ++ x.scales.getD []
def KItem.fill (x : KItem) (bs : List Bool) : KItem × List Bool :=
  let v := takePoison x.vals bs
  match x.scales with
  | none => ({ x with vals := v.1 }, v.2)
  | some w =>
    let y := takePoison w v.2
    ({ x with
      vals := v.1
      scales := some y.1 }, y.2)

/-- Items filled in turn from a bitmap. -/
def fillItems {α : Type} (fill : α → List Bool → α × List Bool) : List α → List Bool → List α × List Bool
  | [], bs => ([], bs)
  | x :: xs, bs =>
    let y := fill x bs
    let r := fillItems fill xs y.2
    (y.1 :: r.1, r.2)

def codecShape : Codec ShapeTab :=
  codecMap (codecPair (codecList codecNat) (codecPair codecNat codecNat)) (fun x => ⟨x.1, x.2.1, x.2.2⟩) (fun x => (x.lens, x.row0, x.rstr))

/-- The code of a section's state (R221). -/
def mxCode : MxState → Nat
  | .off => 0
  | .cfg => 1
  | .run => 2
  | .hold => 3
  | .done => 4
  | .relay => 5
def mxOfCode (n : Nat) : MxState :=
  if n = 1 then .cfg else if n = 2 then .run else if n = 3 then .hold else if n = 4 then .done else if n = 5 then .relay else .off

/-- Configuration, counts and flags of a section. -/
def codecSection1 : Codec Matrix :=
  codecMap (codecPair codecNat (codecPair (codecBv 4) (codecPair codecWord (codecPair codecWord (codecPair codecBool (codecPair (codecBv 5)
      (codecPair (codecBv 16) (codecPair codecNat (codecPair codecNat (codecPair codecNat (codecOption codecShape)))))))))))
    (fun x => { st := mxOfCode x.1, owner := x.2.1, wordA := x.2.2.1, wordB := x.2.2.2.1, fzc := x.2.2.2.2.1, flags := x.2.2.2.2.2.1,
                tdone := x.2.2.2.2.2.2.1, tiles := x.2.2.2.2.2.2.2.1, total := x.2.2.2.2.2.2.2.2.1, k := x.2.2.2.2.2.2.2.2.2.1,
                shape := x.2.2.2.2.2.2.2.2.2.2 })
    (fun m => (mxCode m.st, m.owner, m.wordA, m.wordB, m.fzc, m.flags, m.tdone, m.tiles, m.total, m.k, m.shape))

/-- The drain of a section, and its forwarding. -/
def codecSection2 : Codec Matrix :=
  codecMap (codecPair (codecBv 4) (codecPair (codecBv 4) (codecPair (codecBv 2) (codecPair (codecList codecToken) (codecPair codecBool
      (codecPair codecBool codecBool))))))
    (fun x => { cfgNode := x.1, drainNode := x.2.1, drainCh := x.2.2.1, drain := x.2.2.2.1, waiting := x.2.2.2.2.1, passA := x.2.2.2.2.2.1,
                passB := x.2.2.2.2.2.2 })
    (fun m => (m.cfgNode, m.drainNode, m.drainCh, m.drain, m.waiting, m.passA, m.passB))

/-- A buffer without the markers in it: a restore marks them as passed (R403). -/
def unmarked (q : List KItem) : List KItem := q.filter (fun x => x.mark.isNone)

/-- The buffers and scales of a section. -/
def codecSection3 : Codec Matrix :=
  let ks := codecList (codecKItem codecVal)
  codecMap (codecPair ks (codecPair ks (codecPair ks (codecPair ks (codecPair (codecList (codecPair (codecKItem codecVal) (codecKItem codecVal)))
      (codecPair (codecList (codecPair codecNat codecVal)) (codecPair (codecList codecVal) (codecList codecVal))))))))
    (fun x => { feedA := x.1, feedB := x.2.1, bufA := x.2.2.1, bufB := x.2.2.2.1, group := x.2.2.2.2.1, fscale := x.2.2.2.2.2.1,
                scaleA := x.2.2.2.2.2.2.1, scaleB := x.2.2.2.2.2.2.2 })
    (fun m => (m.feedA, m.feedB, unmarked m.bufA, unmarked m.bufB, m.group, m.fscale, m.scaleA, m.scaleB))

/-- The whole of a section but for its marker and the markers in its buffers, which a restore marks as passed (R229, R403). -/
def codecMatrix : Codec Matrix :=
  codecMap (codecPair codecSection1 (codecPair codecSection2 codecSection3))
    (fun x =>
      let a := x.1
      let b := x.2.1
      let c := x.2.2
      { a with
        cfgNode := b.cfgNode
        drainNode := b.drainNode
        drainCh := b.drainCh
        drain := b.drain
        waiting := b.waiting
        passA := b.passA
        passB := b.passB
        feedA := c.feedA
        feedB := c.feedB
        bufA := c.bufA
        bufB := c.bufB
        group := c.group
        fscale := c.fscale
        scaleA := c.scaleA
        scaleB := c.scaleB })
    (fun m => (m, m, m))

/-- The data words of a section, and the section with the poison of a bitmap (R408). -/
def Matrix.dataWords (m : Matrix) : List PWord :=
  let ks := fun (q : List KItem) => q.flatMap KItem.words
  ks m.feedA ++ ks m.feedB ++ ks m.bufA ++ ks m.bufB ++ m.group.flatMap (fun x => x.1.words ++ x.2.words) ++ m.fscale.map Prod.snd ++ m.scaleA ++ m.scaleB
def Matrix.fillData (m : Matrix) (bs : List Bool) : Matrix :=
  let fa := fillItems KItem.fill m.feedA bs
  let fb := fillItems KItem.fill m.feedB fa.2
  let ba := fillItems KItem.fill m.bufA fb.2
  let bb := fillItems KItem.fill m.bufB ba.2
  let g := fillItems (fun (x : KItem × KItem) bs =>
    let a := x.1.fill bs
    let b := x.2.fill a.2
    ((a.1, b.1), b.2)) m.group bb.2
  let fs := takePoison (m.fscale.map Prod.snd) g.2
  let sa := takePoison m.scaleA fs.2
  { m with
    feedA := fa.1
    feedB := fb.1
    bufA := ba.1
    bufB := bb.1
    group := g.1
    fscale := (m.fscale.map Prod.fst).zip fs.1
    scaleA := sa.1
    scaleB := (takePoison m.scaleB sa.2).1 }

def codecStream : Codec Stream :=
  codecMap (codecPair (codecPair (codecList codecWord) (codecPair (codecBv 16) (codecPair codecStamp (codecPair codecNat (codecPair codecNat
      (codecPair codecNat (codecPair codecNat (codecList codecToken))))))))
    (codecPair codecNat (codecPair codecNat (codecPair codecBool (codecPair (codecOption (codecBv 8)) (codecPair codecBool
      (codecPair (codecList (codecPair codecNat (codecKItem codecPWord))) (codecPair (codecList codecToken) (codecPair codecBool (codecList (codecList codecToken)))))))))))
    (fun x => { desc := x.1.1, ticket := x.1.2.1, stamp := x.1.2.2.1, region := x.1.2.2.2.1, i := x.1.2.2.2.2.1, pos := x.1.2.2.2.2.2.1,
                blk := x.1.2.2.2.2.2.2.1, out := x.1.2.2.2.2.2.2.2, sent := x.2.1, permits := x.2.2.1, err := x.2.2.2.1,
                held := x.2.2.2.2.1, abandoned := x.2.2.2.2.2.1, lanes := x.2.2.2.2.2.2.1, fill := x.2.2.2.2.2.2.2.1,
                full := x.2.2.2.2.2.2.2.2.1, rows := x.2.2.2.2.2.2.2.2.2 })
    (fun st => ((st.desc, st.ticket, st.stamp, st.region, st.i, st.pos, st.blk, st.out),
      (st.sent, st.permits, st.err, st.held, st.abandoned, st.lanes, st.fill, st.full, st.rows)))

def codecPort : Codec TPort :=
  codecMap (codecPair (codecList codecToken) (codecPair (codecOption codecStream) (codecPair (codecBv 16) (codecPair codecBool codecBool))))
    (fun x => { inq := x.1, stream := x.2.1, last := x.2.2.1, err := x.2.2.2.1, drops := x.2.2.2.2 })
    (fun q => (q.inq, q.stream, q.last, q.err, q.drops))

def codecCmd : Codec StreamCmd :=
  codecMap (codecPair (codecBv 4) (codecPair (codecList codecWord) (codecPair (codecBv 16) (codecPair codecStamp codecNat))))
    (fun x => ⟨x.1, x.2.1, x.2.2.1, x.2.2.2.1, x.2.2.2.2⟩) (fun c => (c.port, c.desc, c.ticket, c.stamp, c.region))

/-! ## Node records (R407) -/

/-- Words of a list of values from index 0 on. -/
def mapWords (m : Map Word) (n : Nat) : List Word := (List.range n).map (Map.get m 0)
def dwords (d : DWord) : List Word := [bits d 0 32, bits d 32 32]

/-- `n` entries of a channel in 8 bytes each. -/
def tokenWords (q : List Token) (n : Nat) : List Word :=
  (List.range n).flatMap (fun i => match q[i]? with
    | some t => codecToken.put t
    | none => [0, 0])

/-- NSTAT with the state that the node was captured in (R396). -/
def savedNstat (nd : Node) : Word := ({ nd with st := nd.aligned.getD nd.st } : Node).nstat

/-- A node record: 128 words. -/
def nodeRecord (s : State) (n : NodeRef) : List Word :=
  let nd := s.nd n
  let counts := (List.range 4).map (fun k => (nd.ciq (BitVec.ofNat 2 k)).length * 2 ^ (3 * k) + (nd.coq (BitVec.ofNat 2 k)).length * 2 ^ (12 + 2 * k))
  [BitVec.ofNat 32 (n.tile.toNat * 256 + n.elem.toNat * 16 + n.node.toNat), nd.ncfg, savedNstat nd, nd.fpstat,
   BitVec.ofNat 32 ((if nd.wpend then 1 else 0) + (if nd.wdrn then 2 else 0)),
   BitVec.ofNat 32 (((List.range 16).map (fun i => if (nd.gReg i).psn then 2 ^ i else 0)).sum),
   BitVec.ofNat 32 (((List.range 4).map (fun k => (nd.seqAt (BitVec.ofNat 2 k)).toNat * 2 ^ (8 * k))).sum),
   BitVec.ofNat 32 counts.sum]
    ++ mapWords nd.ccfg 4 ++ mapWords nd.latch 6 ++ [0, 0]
    ++ (List.range 16).map (fun i => (nd.gReg i).val) ++ (List.range 16).flatMap (fun i => dwords (nd.slotWord i))
    ++ (List.range 4).flatMap (fun k => tokenWords (nd.ciq (BitVec.ofNat 2 k)) 4)
    ++ (List.range 4).flatMap (fun k => tokenWords (nd.coq (BitVec.ofNat 2 k)) 2) ++ List.replicate 12 0

/-- The zero fields of a record are zero (R407). -/
def recordZeros (w : List Word) : Bool :=
  let at_ := fun (i : Nat) => w.getD i 0
  decide (bitsNat (at_ 0) 19 13 = 0) && decide (bitsNat (at_ 1) 24 4 = 0) && decide (bitsNat (at_ 4) 2 30 = 0)
    && decide (bitsNat (at_ 5) 16 16 = 0) && decide (bitsNat (at_ 7) 20 12 = 0) && decide (at_ 18 = 0 ∧ at_ 19 = 0)
    && (List.range 24).all (fun i => decide (bitsNat (at_ (69 + 2 * i)) 6 26 = 0)) && (w.drop 116).all (fun (x : Word) => decide (x = 0))

/-- Tokens of a channel read back from a record. -/
def tokensAt (w : List Word) (at_ n : Nat) : List Token :=
  (List.range n).filterMap (fun i => (codecToken.get ((w.drop (at_ + 2 * i)).take 2)).map Prod.fst)

/-- Where a record's node stands on a die. -/
def recordNode (die : BitVec 4) (w : List Word) : NodeRef := ⟨die, bits (w.getD 0 0) 8 11, bits (w.getD 0 0) 4 4, bits (w.getD 0 0) 0 4⟩

/-- The held reply that a record's latch words speak of: a fault where the node was captured in FAULTED with its cause. -/
def recordReply (w : List Word) : Option Answer :=
  let l := w.getD 12 0
  let v := w.getD 17 0
  if bitAt l 29 then
    if bitsNat (w.getD 2 0) 30 2 = 3 ∧ v = BitVec.setWidth 32 (bits (w.getD 2 0) 0 8) then some { fault := some (faultOf (bits v 0 8)) }
    else some { words := [⟨v, bitAt l 28⟩] }
  else none

/-- The node that a record holds, in OFF by alignment. -/
def nodeOfRecord (w : List Word) : Node :=
  let at_ := fun (i : Nat) => w.getD i 0
  let st := at_ 2
  let ci := (List.range 4).map (fun k => (k, tokensAt w (68 + 8 * k) (bitsNat (at_ 7) (3 * k) 3)))
  let co := (List.range 4).map (fun k => (k, tokensAt w (100 + 4 * k) (bitsNat (at_ 7) (12 + 2 * k) 2)))
  { st := .off
    p := bits st 16 8
    g := (List.range 16).map (fun i => (i, ⟨at_ (20 + i), bitAt (at_ 5) i⟩))
    ci := ci.filter (fun x => decide (x.2 ≠ []))
    co := co.filter (fun x => decide (x.2 ≠ []))
    pool := (List.range 16).map (fun i => (i, at_ (37 + 2 * i) ++ at_ (36 + 2 * i)))
    fpstat := at_ 3 &&& 0x33F
    ncfg := at_ 1 &&& 0xF0FFFFFF
    last := bits st 12 4
    cause := bits st 0 8
    latch := (List.range 6).map (fun i => (i, at_ (12 + i)))
    lseq := bits (at_ 14) 24 2 ++ bits (at_ 12) 8 6
    lheld := recordReply w
    ccfg := (List.range 4).map (fun k => (k, at_ (8 + k) &&& 0xFFFFFFC0))
    seq := (List.range 4).map (fun k => (k, bits (at_ 6) (8 * k) 8))
    wpend := bitAt (at_ 4) 0
    wdrn := bitAt (at_ 4) 1
    aligned := some (if bitsNat st 30 2 = 3 then .faulted else if bitsNat st 30 2 = 2 then .parked else .run) }

end Sys2Proof.Machine
end

