-- ==== Sys2Proof/Machine/Records.lean ====
section
/-! DEFINITION. The element and memory-tile records of a context image, and the image as a whole: written from a region
and put back into it (R403, R404, R406-R408). -/

namespace Sys2Proof.Machine

/-! ## The scope of a snapshot (R393) -/

/-- The nodes of a course, in ascending order. -/
def Region.courseNodes (g : Region) : List NodeRef :=
  g.nodes.filter (fun n => g.course.nodes.any (fun x => decide (x.tile = g.placeOf n.tile) && decide (x.elem = n.elem) && decide (x.node = n.node)))

/-- The nodes in a scope. -/
def scopeNodes (s : State) (g : Region) (dom : Option (BitVec 4)) : List NodeRef := g.courseNodes.filter (nodeInScope s dom)

/-- Domains of an element that a scope takes in. -/
def scopeDoms (s : State) (dom : Option (BitVec 4)) (ns : List NodeRef) (e : ElemRef) : List (BitVec 4) :=
  let mine := (ns.filter (fun n => decide (n.elemRef = e))).map (fun n => domOf (s.nd n))
  match dom with
  | some d => [d]
  | none => ((List.range 16).map (fun i => BitVec.ofNat 4 i)).filter (fun d => mine.contains d)

/-! ## Element records (R408) -/

/-- What an element record holds of one domain. -/
structure DomainImage where
  pword : List Word := []
  cx : List DWord := []
  mbox : List (Nat × PWord) := []
  gate : List Word := []
  gatePsn : List GatePoison := []
  gateDrain : List (Nat × Nat) := []
  gateOff : Word := 0
  tags : List (Nat × Tag) := []
  inbox : List (Nat × Inbox) := []
  held : List StoreEntry := []
  vec : List (Nat × List PWord) := []
  acc : List (Nat × List PWord) := []
  bank : List (Nat × List PWord) := []
  mx : Option Matrix := none

/-- Bits of the partition words that are set, from a place on. -/
def ownedIn (pword : List Word) (w lo n : Nat) : List Nat := (List.range n).filter (fun i => bitAt (pword.getD w 0) (lo + i))

def mboxCodeOf (m : Mbox) : Nat := match m.st with
  | .empty => 0
  | .pending => 2
  | .full => 2

/-- What stands in an element for a domain. A section in RELAY saves nothing and stays as it is (R397); with the whole course it
leaves, with its configuration and what it has yet to relay (DEDUCED, log entry 105). -/
def domainImage (s : State) (e : ElemRef) (d : BitVec 4) (whole : Bool) : DomainImage :=
  let el := s.el e
  let pw := (List.range 3).map (el.pwordAt d)
  let mine := fun (i : BitVec 4) => decide (domOf (s.nd (e.nodeRef i)) = d)
  { pword := pw
    cx := (List.range 16).map (fun c => el.cxEntry d (BitVec.ofNat 4 c))
    mbox := (ownedIn pw 0 12 4).map (fun i => let m := Map.get el.mbox {} i; (mboxCodeOf m, m.word))
    gate := (List.range 8).map (fun i => if bitAt (pw.getD 2 0) i then el.gateAt i else 0)
    gatePsn := el.gatePsn.filter (fun x => bitAt (pw.getD 2 0) x.gate)
    gateDrain := el.gateDrain.filter (fun x => bitAt (pw.getD 2 0) x.1)
    gateOff := BitVec.setWidth 32 el.gateOff &&& pw.getD 2 0
    tags := el.tag.filter (fun x => decide (x.2.dom = d))
    inbox := el.inbox.filter (fun x => mine x.2.owner)
    held := (el.sbuf ++ el.podq).filter (fun x => x.held && mine x.node)
    vec := (ownedIn pw 0 16 8).map (fun i => (i, (List.range 64).map (fun j => Map.get el.vreg {} (64 * i + j))))
    acc := (ownedIn pw 0 24 4).map (fun i => (i, (List.range 16).map (fun j => Map.get el.acc {} (16 * i + j))))
    bank := (ownedIn pw 0 0 12).map (fun i => (i, s.loadWords (lsPa e (0x2000 * i)) 2048))
    mx := if el.mx.st ≠ .off ∧ (whole ∨ el.mx.st ≠ .relay) ∧ el.mx.owner = d then some el.mx else none }

/-- Parts of `n` data words, one for each index. -/
def putData (n : Nat) (xs : List (Nat × List PWord)) : List Word := xs.flatMap (fun x => (codecData n).put x.2)
def getData (n : Nat) : List Nat → List Word → Option (List (Nat × List PWord) × List Word)
  | [], ws => some ([], ws)
  | i :: is, ws => match (codecData n).get ws with
    | some (x, ws) => (getData n is ws).map (fun y => ((i, x) :: y.1, y.2))
    | none => none

def codecPwords : Codec (List Word) := codecPart (codecList codecWord)
def codecCx : Codec (List DWord) := codecPart (codecList (codecBv 64))
def codecBoxes : Codec (List (Nat × PWord)) :=
  codecMarked (codecList (codecPair codecNat codecVal)) (fun xs => xs.map Prod.snd)
    (fun xs bs => (xs.map Prod.fst).zip (takePoison (xs.map Prod.snd) bs).1)
def codecGates : Codec (List Word × List GatePoison × List (Nat × Nat) × Word) :=
  codecPart (codecPair (codecList codecWord) (codecPair (codecList codecGatePoison) (codecPair (codecList (codecPair codecNat codecNat)) codecWord)))
def codecTags : Codec (List (Nat × Tag) × List (Nat × Inbox) × List StoreEntry) :=
  codecMarked (codecPair (codecList (codecPair codecNat codecTag)) (codecPair (codecList (codecPair codecNat codecInbox)) (codecList codecEntry)))
    (fun x => x.2.2.flatMap StoreEntry.words)
    (fun x bs => (x.1, x.2.1, (fillItems (fun (y : StoreEntry) bs =>
      let w := takePoison y.words bs
      ({ y with words := w.1 }, w.2)) x.2.2 bs).1))
def codecSection : Codec (Option Matrix) :=
  codecMarked (codecOption codecMatrix) (fun m => (m.map (fun (m : Matrix) => { m with
      bufA := unmarked m.bufA
      bufB := unmarked m.bufB }.dataWords)).getD [])
    (fun m bs => m.map (fun m => m.fillData bs))

/-- The words of one domain in an element record, and what they say. -/
def putDomain (x : DomainImage) : List Word :=
  codecPwords.put x.pword ++ codecCx.put x.cx ++ codecBoxes.put x.mbox ++ codecGates.put (x.gate, x.gatePsn, x.gateDrain, x.gateOff)
    ++ codecTags.put (x.tags, x.inbox, x.held) ++ putData 64 x.vec ++ putData 16 x.acc ++ putData 2048 x.bank ++ codecSection.put x.mx

def getDomain (ws : List Word) : Option (DomainImage × List Word) := do
  let (pw, ws) ← codecPwords.get ws
  let (cx, ws) ← codecCx.get ws
  let (mb, ws) ← codecBoxes.get ws
  let (g, ws) ← codecGates.get ws
  let (t, ws) ← codecTags.get ws
  let (v, ws) ← getData 64 (ownedIn pw 0 16 8) ws
  let (a, ws) ← getData 16 (ownedIn pw 0 24 4) ws
  let (b, ws) ← getData 2048 (ownedIn pw 0 0 12) ws
  let (m, ws) ← codecSection.get ws
  some ({ pword := pw, cx := cx, mbox := mb, gate := g.1, gatePsn := g.2.1, gateDrain := g.2.2.1, gateOff := g.2.2.2, tags := t.1, inbox := t.2.1, held := t.2.2,
          vec := v, acc := a, bank := b, mx := m }, ws)

/-! ## Memory-tile records (R408) -/

/-- A deferred read in a memory-tile record: the number of its request, the requester, its address and its words. -/
structure Deferred where
  id : Nat := 0
  node : NodeRef := {}
  va : BitVec 56 := 0
  n : Nat := 0

def codecDeferred : Codec Deferred :=
  codecMap (codecPair codecNat (codecPair codecNodeRef (codecPair (codecBv 56) codecNat))) (fun x => ⟨x.1, x.2.1, x.2.2.1, x.2.2.2⟩)
    (fun x => (x.id, x.node, x.va, x.n))

/-- A read is deferred at a memory tile. -/
def sleepsAt (s : State) (t : TileRef) (r : Req) : Bool :=
  decide (r.stage = .deferred) && r.pas.any (fun p => match s.target p.1 with
    | .bank u _ => decide (u = t)
    | _ => false)

/-- A deferred read of a stream of one of these memory tiles: it is made again when its stream runs again. -/
def streamRead (ts : List TileRef) (r : Req) : Bool := match r.who with
  | .port t _ => decide (r.stage = .deferred) && ts.contains t
  | _ => false

/-- What a memory-tile record holds. -/
structure TileSave where
  mtcfg : Word := 0
  words : List Word := []
  states : List Word := []
  tickets : Nat := 0
  queue : List StreamCmd := []
  ports : List (Nat × TPort) := []
  fifo : List (Nat × List Token) := []
  pairs : List Buffers := []
  /-- deferred reads of requesters outside the course (R284, R397) -/
  deferred : List Deferred := []

/-- The two state bits of a word: 0 clean, 1 POISON, 2 FULL, 3 EMPTY. -/
def wordState (m : MTile) (i : Nat) (x : WMeta) : Nat :=
  if bitsNat m.mtcfg (2 * (i / 8192)) 2 = 3 then match x.pres with
    | .poison => 1
    | .full => 2
    | .empty => 3
  else if x.psn then 1 else 0

def tileSave (s : State) (t : TileRef) : TileSave :=
  let m := s.tl t
  let st := fun (i : Nat) => wordState m i (s.metaAt (tilePa t (4 * i)))
  { mtcfg := m.mtcfg
    words := (List.range 131072).map (fun i => memWord s.mem (tilePa t (4 * i)))
    states := (List.range 8192).map (fun j => BitVec.ofNat 32 ((List.range 16).map (fun k => st (16 * j + k) * 4 ^ k)).sum)
    tickets := m.tickets.toNat
    queue := m.queue
    ports := m.ports
    fifo := m.fifo
    pairs := m.pairs
    deferred := (s.reqs.filter (fun r => sleepsAt s t r && !streamRead [t] r)).map (fun r =>
      { id := r.id, node := r.stamp.issuer, va := r.va, n := r.pas.length }) }

def codecBuffers : Codec Buffers :=
  codecMap (codecPair codecNat (codecPair codecNat (codecBv 4))) (fun x => ⟨x.1, x.2.1, x.2.2⟩) (fun x => (x.base, x.bufs, x.full))

def codecTileRest : Codec (Nat × List Deferred × List StreamCmd × List (Nat × TPort) × List (Nat × List Token) × List Buffers) :=
  codecPart (codecPair codecNat (codecPair (codecList codecDeferred) (codecPair (codecList codecCmd)
    (codecPair (codecList (codecPair codecNat codecPort)) (codecPair (codecList (codecPair codecNat (codecList codecToken)))
      (codecList codecBuffers))))))

def putTile (x : TileSave) : List Word :=
  padWords [x.mtcfg] ++ x.words ++ x.states ++ codecTileRest.put (x.tickets, x.deferred, x.queue, x.ports, x.fifo, x.pairs)
def getTile (ws : List Word) : Option (TileSave × List Word) :=
  if ws.length < 16 + 131072 + 8192 then none
  else (codecTileRest.get (ws.drop (16 + 131072 + 8192))).map (fun y =>
    ({ mtcfg := ws.getD 0 0, words := (ws.drop 16).take 131072, states := (ws.drop (16 + 131072)).take 8192, tickets := y.1.1,
       deferred := y.1.2.1, queue := y.1.2.2.1, ports := y.1.2.2.2.1, fifo := y.1.2.2.2.2.1, pairs := y.1.2.2.2.2.2 }, y.2))

/-- What memory keeps beside word `i` of a saved tile. -/
def savedMeta (x : TileSave) (i : Nat) : WMeta :=
  let c := bitsNat (x.states.getD (i / 16) 0) (2 * (i % 16)) 2
  if bitsNat x.mtcfg (2 * (i / 8192)) 2 = 3 then { pres := if c = 1 then .poison else if c = 2 then .full else .empty, psn := decide (c = 1) }
  else { psn := decide (c = 1) }

/-- A memory tile put back for a region: its streams and commands are those of the region's nodes, under their own stamp
(R13, R403). -/
def restoreTile (s : State) (t : TileRef) (g : Region) (x : TileSave) : State :=
  let s := x.words.zipIdx.foldl (fun (s : State) (w : Word × Nat) =>
    let pa := tilePa t (4 * w.2)
    ({ s with mem := memSetWord s.mem pa w.1 }).setMeta pa (savedMeta x w.2)) (s.clearRange (tilePa t 0) 0x80000)
  let mine := fun (st : Stamp) => decide ((s.el st.issuer.elemRef).region = some g.id)
  let thaw := fun (st : Stream) => { st with
    frozen := false
    held := none
    stamp := s.stampOf st.stamp.issuer
    region := g.id }
  s.setTl t { mtcfg := x.mtcfg, tickets := BitVec.ofNat 16 x.tickets,
              queue := (x.queue.filter (fun c => mine c.stamp)).map (fun c => { c with stamp := s.stampOf c.stamp.issuer, region := g.id }),
              ports := x.ports.map (fun p => (p.1, { p.2 with stream := (p.2.stream.filter (fun st => mine st.stamp)).map thaw })),
              fifo := x.fifo, pairs := x.pairs, lastPart := some g.part, tlb := (s.tl t).tlb }

/-! ## The image (R406) -/

def imageMagic : Word := 0x4B435831

/-- The feature union of the saved pools (R91). -/
def poolFeatures (s : State) (ns : List NodeRef) : BitVec 6 :=
  ns.foldl (fun f n => (List.range 16).foldl (fun (f : BitVec 6) k => match slotInstr (s.nd n) k with
    | some i => f ||| Instr.features i
    | none => f) f) 0

/-- The words of a digest. -/
def bytesWords (bs : List Byte) : List Word := (List.range (bs.length / 4)).map (fun i => BitVec.ofNat 32 (leNat ((bs.drop (4 * i)).take 4)))

/-- The context image of a snapshot. -/
def imageOf (s : State) (g : Region) (x : Snapshot) : List Word :=
  let ns := scopeNodes s g x.dom
  let es := (ns.map NodeRef.elemRef).dedup
  let recs := ns.flatMap (nodeRecord s)
    ++ es.flatMap (fun e => (scopeDoms s x.dom ns e).flatMap (fun d => putDomain (domainImage s e d x.dom.isNone)))
    ++ (if x.dom.isNone then g.memTiles.flatMap (fun t => putTile (tileSave s t)) else [])
  let kd : Nat := if x.dom.isNone then 1 else ((x.dom.getD 0).toNat * 256)
  [imageMagic, BitVec.ofNat 32 (kd + ns.length * 2 ^ 16), BitVec.ofNat 32 (g.hdr.w + g.hdr.h * 2 ^ 16), BitVec.ofNat 32 (4 * (16 + recs.length)),
   BitVec.setWidth 32 (poolFeatures s ns), x.stamp, 0, 0] ++ (bytesWords g.hdr.digest ++ List.replicate 8 0).take 8 ++ recs

/-- An image that has been read: its header words and its records. -/
structure ContextImage where
  head : List Word := []
  nodes : List (NodeRef × List Word) := []
  elems : List (ElemRef × List (BitVec 4 × DomainImage)) := []
  tiles : List TileSave := []

def ContextImage.whole (x : ContextImage) : Bool := decide (bitsNat (x.head.getD 1 0) 0 8 = 1)
def ContextImage.dom (x : ContextImage) : BitVec 4 := bits (x.head.getD 1 0) 8 4
def ContextImage.size (x : ContextImage) : Nat := (x.head.getD 3 0).toNat
def ContextImage.digest (x : ContextImage) : List Word := x.head.drop 8

/-- The header of an image is well formed (R406). -/
def imageHeadOk (h : List Word) : Bool :=
  let kd := h.getD 1 0
  decide (h.getD 0 0 = imageMagic) && decide (bitsNat kd 0 8 ≤ 1) && decide (bitsNat kd 8 8 < 16)
    && (decide (bitsNat kd 0 8 = 0) || decide (bitsNat kd 8 8 = 0)) && decide (bitsNat (h.getD 3 0) 0 6 = 0)
    && decide (64 ≤ (h.getD 3 0).toNat) && decide ((h.getD 4 0).toNat < 64) && decide (h.getD 6 0 = 0 ∧ h.getD 7 0 = 0)

/-- The element records that follow the node records. -/
def getElems : List (ElemRef × List (BitVec 4)) → List Word → Option (List (ElemRef × List (BitVec 4 × DomainImage)) × List Word)
  | [], ws => some ([], ws)
  | (e, ds) :: es, ws =>
    let rec go : List (BitVec 4) → List Word → Option (List (BitVec 4 × DomainImage) × List Word)
      | [], ws => some ([], ws)
      | d :: ds, ws => match getDomain ws with
        | some (x, ws) => (go ds ws).map (fun y => ((d, x) :: y.1, y.2))
        | none => none
    match go ds ws with
    | some (x, ws) => (getElems es ws).map (fun y => ((e, x) :: y.1, y.2))
    | none => none

/-- `n` memory-tile records. -/
def getTiles : Nat → List Word → Option (List TileSave × List Word)
  | 0, ws => some ([], ws)
  | n + 1, ws => match getTile ws with
    | some (x, ws) => (getTiles n ws).map (fun y => (x :: y.1, y.2))
    | none => none

/-- Domains of the saved nodes of an element. -/
def savedDoms (kind1 : Bool) (dom : BitVec 4) (recs : List (NodeRef × List Word)) (e : ElemRef) : List (BitVec 4) :=
  let mine := (recs.filter (fun r => decide (r.1.elemRef = e))).map (fun r => bits (r.2.getD 1 0) 28 4)
  if kind1 then ((List.range 16).map (fun i => BitVec.ofNat 4 i)).filter (fun d => mine.contains d) else [dom]

/-- An image read from its words: none where its header or a record is malformed. -/
def parseImage (die : BitVec 4) (ntiles : Nat) (ws : List Word) : Option ContextImage :=
  let h := ws.take 16
  let n := bitsNat (h.getD 1 0) 16 16
  let recs := (List.range n).map (fun i => let w := (ws.drop (16 + 128 * i)).take 128; (recordNode die w, w))
  let es := (recs.map (fun r => r.1.elemRef)).dedup
  let whole := decide (bitsNat (h.getD 1 0) 0 8 = 1)
  if imageHeadOk h = false ∨ (h.getD 3 0).toNat ≠ 4 * ws.length ∨ ws.length < 16 + 128 * n ∨ recs.any (fun r => !recordZeros r.2) = true then none
  else match getElems (es.map (fun e => (e, savedDoms whole (bits (h.getD 1 0) 8 4) recs e))) (ws.drop (16 + 128 * n)) with
    | none => none
    | some (xs, rest) => match getTiles (if whole then ntiles else 0) rest with
      | none => none
      | some (ts, _) => some { head := h, nodes := recs, elems := xs, tiles := ts }

/-! ## Putting an image back (R403) -/

/-- The header of the block that a mapping entry of a domain names, read under the domain's stamp (R85, R233); none where the
entry is not VALID or a read faults. -/
def blockHeader (s : State) (e : ElemRef) (d : BitVec 4) (ent : DWord) : Option DWord :=
  if bitAt ent 63 then
    let x := s.domEntry e d
    let st : Stamp := { part := s.partOf e, tenant := entTenant x, keyid := entKey x, issuer := e.nodeRef 0 }
    let at_ := fun (va : Nat) => match unitCheck s (s.dieTlb e.die) st va .read 4 with
      | .ok p => some (s.loadUnder p.1 p.2).val
      | .error _ => none
    match at_ (bitsNat ent 3 53 * 8), at_ (bitsNat ent 3 53 * 8 + 4) with
    | some lo, some hi => some (hi ++ lo)
    | _, _ => none
  else none

/-- The words of a resident block read again from ADDR, under the domain's own stamp; none where a read faults. -/
def rereadBlock (s : State) (e : ElemRef) (d : BitVec 4) (n : NodeRef) (c : BitVec 4) : Option (List PWord) :=
  let el := s.el e
  let x := s.domEntry e d
  let st : Stamp := { part := s.partOf e, tenant := entTenant x, keyid := entKey x, issuer := n }
  let va := bitsNat (el.cxEntry d c) 3 53 * 8
  (List.range (2 * (hdrCells (el.cxHeader d c) + 1))).mapM (fun i => match unitCheck s (s.dieTlb e.die) st (va + 4 * i) .read 4 with
    | .ok p => some (s.loadUnder p.1 p.2)
    | .error _ => none)

/-- Resident configurations loaded again; one that cannot be leaves RES = 0. -/
def reloadBlocks (s : State) (e : ElemRef) (d : BitVec 4) (cx : List DWord) : State :=
  match (List.range 16).find? (fun i => decide (domOf (s.nd (e.nodeRef (BitVec.ofNat 4 i))) = d)) with
  | none => s
  | some i =>
    let n := e.nodeRef (BitVec.ofNat 4 i)
    (List.range 16).foldl (fun s c =>
      if bitAt (cx.getD c 0) 63 ∧ bitAt (cx.getD c 0) 62 then match rereadBlock s e d n (BitVec.ofNat 4 c) with
        | some ws => (finishLoad s n (BitVec.ofNat 4 c) ws).1
        | none => s
      else s) s

/-- HELD entries are sent again in entry order (R403). -/
def resendHeld (s : State) (e : ElemRef) (xs : List StoreEntry) : State :=
  xs.foldl (fun s x =>
    let pod := decide (x.opc = 0xC0 ∨ x.opc = 0xC1)
    let op : Op := if pod then .podStore x.mod x.words else .store x.words
    let r := s.request (if pod then .podq e else .sbuf e) x.stamp x.va op .port [] [] 0
    r.2.updEl e (fun el => el.setQueue pod (el.queueOf pod ++ [{ x with
      id := r.1
      held := false }]))) s

/-- A list of indexed values over the entries that a map has. -/
def overlay {α : Type} (m : Map α) (xs : List (Nat × α)) : Map α := xs.foldl (fun m x => Map.set m x.1 x.2) m

/-- Indexed data spread over registers of `n` words each. -/
def spread (n : Nat) (m : Map PWord) (xs : List (Nat × List PWord)) : Map PWord :=
  xs.foldl (fun m x => x.2.zipIdx.foldl (fun (m : Map PWord) w => Map.set m (n * x.1 + w.2) w.1) m) m

/-- An update of an image comes from a node of the inbox's course with the owner's TENANT, and names a word of the range (R13,
R314). -/
def courseUpdate (s : State) (e : ElemRef) (b : Inbox) (x : InboxEntry) : Bool :=
  decide ((s.el x.req.elemRef).region = (s.el e).region) && decide ((s.stampOf x.req).tenant = (s.stampOf (e.nodeRef b.owner)).tenant)
    && decide (4 * x.off.toNat < b.size)

/-- What an image holds of a domain, confined to the domain: its tags, the updates in the inboxes of its nodes and the
HELD entries of its nodes under their own stamp, and no reserved bit (R12, R13). The range and owner of an inbox stay those of the
load (DEDUCED, log entry 116). -/
def confined (s : State) (e : ElemRef) (d : BitVec 4) (x : DomainImage) : DomainImage :=
  let el := s.el e
  let mine := fun (i : BitVec 4) => decide (domOf (s.nd (e.nodeRef i)) = d)
  let pw := (List.range 3).map (fun i => cleanPword i (x.pword.getD i 0))
  let gates := fun (i : Nat) => bitAt (pw.getD 2 0) i
  { x with
    pword := pw
    gate := x.gate.map (fun w => w &&& 0xFFFFF7FF)
    gatePsn := x.gatePsn.filter (fun y => gates y.gate)
    gateDrain := x.gateDrain.filter (fun y => gates y.1)
    tags := x.tags.filter (fun y => decide (y.2.dom = d) && mine y.2.node && (match Map.find el.tag y.1 with
      | some old => decide (old.dom = d) || !old.valid
      | none => true))
    inbox := x.inbox.filterMap (fun y => ((Map.find el.inbox y.1).filter (fun old => old.used && mine old.owner)).map (fun old =>
      (y.1, { old with entries := ((y.2.entries.map (fun z => { z with req := { z.req with die := e.die } })).filter (courseUpdate s e old)).take 8 })))
    held := (x.held.filter (fun y => mine y.node)).map (fun y => { y with
      dom := d
      stamp := s.stampOf (e.nodeRef y.node) })
    cx := x.cx.map (fun w => w &&& 0xF0FFFFFFFFFFFFF8)
    mx := if el.mx.st = .off ∨ el.mx.owner = d then x.mx.map (fun m => { m with
      owner := d
      wordA := m.wordA &&& 0x3FFF }) else none }

/-- The resources of a domain in an element, put back. -/
def restoreDomain (s : State) (e : ElemRef) (d : BitVec 4) (y : DomainImage) : State :=
  let x := confined s e d y
  let el := s.el e
  let mine := fun (i : BitVec 4) => decide (domOf (s.nd (e.nodeRef i)) = d)
  let gates := ownedIn x.pword 2 0 8
  let drop := fun (q : List StoreEntry) => q.filter (fun y => !(y.held && mine y.node))
  let ids := ((el.sbuf ++ el.podq).filter (fun y => y.held && mine y.node)).map StoreEntry.id
  let boxes := (ownedIn x.pword 0 12 4).zip x.mbox
  let hdrs := x.cx.zipIdx.filterMap (fun w => (blockHeader s e d w.1).map (fun h => (16 * d.toNat + w.2, h)))
  let el := { el with
    pword := overlay el.pword (x.pword.zipIdx.map (fun w => (3 * d.toNat + w.2, w.1)))
    res := el.res.filter (fun r => decide (r.2.dom ≠ d))
    cxmap := overlay el.cxmap (x.cx.zipIdx.map (fun w => (16 * d.toNat + w.2, setBits w.1 60 3 0)))
    cxhdr := overlay el.cxhdr hdrs
    mbox := overlay el.mbox (boxes.map (fun b => (b.1, { st := if b.2.1 = 2 then .full else .empty, word := b.2.2 })))
    gate := overlay el.gate (gates.map (fun i => (i, x.gate.getD i 0)))
    gatePsn := el.gatePsn.filter (fun y => !gates.contains y.gate) ++ x.gatePsn
    gateDrain := el.gateDrain.filter (fun y => !gates.contains y.1) ++ x.gateDrain
    gateOff := gates.foldl (fun (w : BitVec 8) i => setBits w i 1 (bitsNat x.gateOff i 1)) el.gateOff
    tag := overlay (el.tag.filter (fun y => decide (y.2.dom ≠ d))) x.tags
    inbox := overlay el.inbox x.inbox
    vreg := spread 64 el.vreg x.vec
    acc := spread 16 el.acc x.acc
    mx := x.mx.getD el.mx
    sbuf := drop el.sbuf
    podq := drop el.podq }
  let s := { s with reqs := s.reqs.filter (fun r => !ids.contains r.id) }
  let s := x.bank.foldl (fun s b => s.storeWords (lsPa e (0x2000 * b.1)) b.2) (s.setEl e el)
  resendHeld (reloadBlocks s e d x.cx) e x.held

/-- A saved node, put back in OFF; the token that a FORMAT fault left stays with it. -/
def restoreNode (s : State) (n : NodeRef) (w : List Word) : State :=
  let old := s.nd n
  s.setNd n { nodeOfRecord w with badToken := old.badToken }

/-- The credits of a source are the entries that its destination has free; none is on its way. -/
def recount (s : State) (e : Edge) : Edge :=
  let out := e.flight.length + (tokensOut s e).length
  let put := fun (n : Nat) => { e with credits := n, back_ := 0, due := 0, marked := false }
  match e.dst with
  | .inp n k =>
    let nd := s.nd n
    put (if ccStrd (nd.ccfgAt k) then 0 else endCredits - (nd.ciq k).length - out)
  | .tile t p => put (endCredits - (s.tport t p).inq.length - out)
  | .out _ _ => e

/-- A restored steered channel keeps its free entries for the tokens that come back (R172). -/
def steerSpare (nd : Node) : Node :=
  { nd with spare := ((List.range 4).filter (fun k => ccStrd (nd.ccfgAt (BitVec.ofNat 2 k)))).map (fun k =>
      (k, endCredits - (nd.ciq (BitVec.ofNat 2 k)).length)) }

/-- The nodes, elements and edges of an image put back into a region. -/
def restoreParts (s : State) (rid : Nat) (x : ContextImage) : State :=
  let s := x.nodes.foldl (fun s r => (restoreNode s r.1 r.2).updNd r.1 steerSpare) s
  let s := x.elems.foldl (fun s e => e.2.foldl (fun s d => restoreDomain s e.1 d.1 d.2) s) s
  let mine := fun (e : Edge) => decide (e.region = rid) && (match e.dst with
    | .inp n _ => x.nodes.any (fun r => decide (r.1 = n))
    | _ => x.whole)
  { s with
    edge := s.edge.map (fun e => (e.1, if mine e.2 then recount s e.2 else e.2))
    net := s.net.filter (fun f => match f.load with
      | .credit k => !mine (s.ed k)
      | _ => true) }

end Sys2Proof.Machine
end

