-- ==== Sys2Proof/Machine/Snapshot.lean ====
section
/-! DEFINITION. Marker snapshots, `MARK`, `SAVE` and `REST` (0xF6-0xF8), and the pre-emption of a course and its return
(R93, R393-R405). -/

namespace Sys2Proof.Machine

/-! ## What belongs to a snapshot (R393, R394) -/

/-- The region of the course that holds an element. -/
def State.courseOf (s : State) (e : ElemRef) : Option (Nat × Region) :=
  ((s.el e).region).bind (fun r => (Map.find s.region r).map (fun g => (r, g)))

/-- A stream was issued by a node of the scope. -/
def streamInScope (s : State) (dom : Option (BitVec 4)) (st : Stream) : Bool := nodeInScope s dom st.stamp.issuer

/-- The stream of a port that belongs to a scope. -/
def scopeStream (s : State) (dom : Option (BitVec 4)) (t : TileRef) (p : BitVec 4) : Option Stream :=
  (s.tport t p).stream.filter (streamInScope s dom)

/-- An end of an edge is a node of the scope. -/
def portInScope (s : State) (g : Region) (dom : Option (BitVec 4)) : Port → Bool
  | .out n _ => g.holds n.elemRef.tileRef && nodeInScope s dom n
  | .inp n _ => g.holds n.elemRef.tileRef && nodeInScope s dom n
  | .tile _ _ => false

/-- The edges that leave a port: its binding, or the branches of its fan-out. -/
def edgesFrom (s : State) (p : Port) : List Edge := (Map.values s.edge).filter (fun e => decide (e.src = p) && !e.route)

/-- The MARK token of a snapshot (R393). -/
def markToken (x : Snapshot) : Token := { kind := kindMark, payload := x.stamp }

/-- A token on an edge goes to the scope: to a node of it, or to a port with a stream of it (R393, R394). -/
def entersScope (s : State) (g : Region) (dom : Option (BitVec 4)) (e : Edge) : Bool :=
  dom.isNone || portInScope s g dom e.dst || (match e.dst with
    | .tile t p => (scopeStream s dom t p).isSome
    | _ => false)

/-- The source of an edge sends a MARK on it: a node of the scope, a port that a stream of it feeds, or one that no stream feeds;
the course's input ports only in a snapshot of the whole (R394). -/
def bringsMark (s : State) (g : Region) (dom : Option (BitVec 4)) (e : Edge) : Bool :=
  !e.route && (match e.src with
    | .out n _ => portInScope s g dom (.out n 0)
    | .tile t p => (match (s.tl t).feeder p with
      | some x => streamInScope s dom x.2
      | none => dom.isNone || (g.inPortOf t p).isNone)
    | .inp _ _ => false)

/-- A MARK leaves a port: none where its edge has no credit or a branch no entry. The edges count as marked. -/
def pushMark (s : State) (p : Port) (x : Snapshot) : Option State :=
  let note := fun (s : State) => { s with edge := s.edge.map (fun e => (e.1, if e.2.src = p ∧ e.2.route = false then { e.2 with marked := true } else e.2)) }
  match s.edgeFrom p, s.fanFrom p with
  | some e, _ => if leavesNow s e then some (note (sendOn s e (markToken x))) else none
  | none, some f => if branchesFree f then some (note (s.setFo f.id (copyToken f (markToken x) (fun _ => none)))) else none
  | none, none => some s

/-! ## `MARK` (R400, R401) -/

/-- An edge enters a node of the domain from elsewhere (reason 3). -/
def foreignEdge (s : State) (g : Region) (rid : Nat) (d : BitVec 4) : Bool :=
  (Map.values s.edge).any (fun e => decide (e.region = rid) && portInScope s g (some d) e.dst && (match e.src with
    | .out n _ => decide (domOf (s.nd n) ≠ d)
    | .tile t p => (g.inPortOf t p).isSome || (match (s.tl t).feeder p with
      | some (_, st) => !streamInScope s (some d) st
      | none => false)
    | .inp _ _ => false))

/-- A gate session joins the domain to another (reason 4). -/
def foreignSession (s : State) (g : Region) (d : BitVec 4) : Bool :=
  g.elems.any (fun e => (List.range 8).any (fun i =>
    let x := (s.el e).gateAt i
    let a := decide (domOf (s.nd (e.nodeRef (gateNode x))) = d)
    let b := decide (domOf (s.nd (e.nodeRef (gateCaller x))) = d)
    gateValid x && decide (gateSsn x = 1 ∨ gateSsn x = 2) && (a != b)))

/-- Why a `MARK` is refused, if it is. -/
def markReason (s : State) (n : NodeRef) (rid : Nat) (g : Region) (d : BitVec 4) : Option Nat :=
  if d = domOf (s.nd n) ∨ entValid (s.domEntry n.elemRef d) = false then some 1
  else if g.snap.isSome ∨ g.done.any (fun x => decide (x.dom = some d)) = true then some 2
  else if foreignEdge s g rid d then some 3
  else if foreignSession s g d then some 4
  else none

/-- The answer of a refusal: 0x8000_0000 + reason, condition 0 (R400). -/
def turnedAway (r : Nat) : Answer := { words := [PWord.clean (BitVec.ofNat 32 (2 ^ 31 + r))], cond := false }

/-- The marks of earlier snapshots of domains that are still saved are taken off: a whole-course snapshot marks every edge of
the course anew (R404). -/
def unmarkCourse (s : State) (rid : Nat) (g : Region) : State :=
  let s := { s with edge := s.edge.map (fun e => (e.1, if e.2.region = rid then { e.2 with marked := false } else e.2)) }
  g.courseNodes.foldl (fun s n => s.updNd n (fun nd => { nd with marks := 0 })) s

/-- A snapshot begins: its stamp names it (R393). -/
def beginSnapshot (s : State) (rid : Nat) (dom : Option (BitVec 4)) : State × Word :=
  let g := s.rg rid
  let s := if dom.isNone then unmarkCourse s rid g else s
  let w : Word := BitVec.ofNat 32 (g.snaps.toNat * 2 ^ 16 + (match dom with
    | some d => d.toNat * 2 ^ 12
    | none => 2 ^ 11))
  (s.setRg rid { g with
    snap := some { dom := dom, stamp := w }
    snaps := g.snaps + 1
    idle := 0 }, w)

/-- `MARK` where it takes effect. -/
def performMark (s : State) (n : NodeRef) (d : BitVec 4) : State × Answer :=
  match s.courseOf n.elemRef with
  | none => (s, turnedAway 1)
  | some (rid, g) => match markReason s n rid g d with
    | some r => (s, turnedAway r)
    | none =>
      let r := beginSnapshot s rid (some d)
      (r.1, { words := [PWord.clean r.2] })

/-- `MARK` (R400, R401). -/
def execMark (f : Fields) (s : State) : Host.Outcome State Fault Refusal :=
  issue (.mark f) f s (fun o t =>
    if o.a.psn then .ok (t, .now (poisonResult o.a.val)) else .ok (askUnit t o (.mark (bits o.a.val 0 4))))

/-! ## Sources, arrivals and alignment (R394-R397) -/

/-- A command of the scope that is yet to run on a port, and that the snapshot does not keep back (R398). -/
def commandDue (s : State) (dom : Option (BitVec 4)) (t : TileRef) (p : BitVec 4) : Bool :=
  dom.isSome && (s.tl t).queue.any (fun c => nodeInScope s dom c.stamp.issuer && !keptBack s t c
    && (decide (c.port = p) || (decide (6 ≤ sMode c.desc) && decide (sOport c.desc = p))))

/-- What a source does when its MARK is due (R394, R395, R397): a READ or lane stream sends it after the unit that it has begun; a
port that takes tokens waits for the MARK that comes to it, and where none does saves at once, its output sending its own; an
idle port sends it once no command of the scope is to run on it. -/
def markSource (s : State) (rid : Nat) (g : Region) (x : Snapshot) (t : TileRef) (p : BitVec 4) : State :=
  let src : Port := .tile t p
  match scopeStream s x.dom t p with
  | some st =>
    if st.frozen then s
    else
      let put := fun (st : Stream) => s.setTport t p { s.tport t p with stream := some { st with frozen := true } }
      if sMode st.desc = 0 then
        let s := put { st with out := st.out ++ [markToken x] }
        { s with edge := s.edge.map (fun e => (e.1, if e.2.src = src ∧ e.2.route = false then { e.2 with marked := true } else e.2)) }
      else if sMode st.desc = 2 ∨ sMode st.desc = 3 then
        put { st with lanes := st.lanes ++ (List.range 4).map (fun l => (l, { mark := some x.stamp })) }
      else if (Map.values s.edge).any (fun e => decide (e.dst = src) && bringsMark s g x.dom e) then s
      else if sMode st.desc = 1 then put st
      else if 6 ≤ sMode st.desc then match pushMark s (.tile t (sOport st.desc)) x with
        | some s => s.setTport t p { s.tport t p with stream := some { st with frozen := true } }
        | none => s
      else s
  | none =>
    let es := edgesFrom s src
    if x.dom.isNone ∧ (g.inPortOf t p).isSome then
      let i := (g.inPortOf t p).getD 0
      if bitAt x.inSent i then s
      else match pushMark s src x with
        | some s => s.updRg rid (fun g => { g with snap := some { x with inSent := setBits x.inSent i 1 1 } })
        | none => s
    else if ((s.tl t).feeder p).isNone ∧ commandDue s x.dom t p = false ∧ es.any (fun e => entersScope s g x.dom e && !e.marked) = true then
      (pushMark s src x).getD s
    else s

/-- MARK_SEND (R394). -/
def execMarkSend (rid : Nat) (p : Port) (s : State) : Host.Outcome State Fault Refusal :=
  let g := s.rg rid
  .next (match g.snap, p with
  | some x, .tile t q => if g.st = .running ∧ g.holds t then markSource s rid g x t q else s
  | _, _ => s)

/-- The snapshot of a region in progress whose MARK a token is. -/
def snapshotOf (s : State) (rid : Nat) (t : Token) : Option Snapshot := (s.rg rid).snap.filter (fun x => decide (x.stamp = t.payload))

/-- A MARK reaches an input channel: recorded in the scope once its edge is open (R172, R173, R395), an ordinary token
elsewhere. -/
def markAtChannel (s : State) (e : Edge) (q : List Token) (t : Token) (n : NodeRef) (k : BitVec 2) : State :=
  let nd := s.nd n
  let s' := fire (s.setEd e.id { e with flight := q }) e.region
  let mine := (snapshotOf s e.region t).any (fun x => nodeInScope s x.dom n)
  if mine ∧ ccLv (nd.ccfgAt k) = false then
    if edgeOpen nd k then s'.updNd n (fun nd => { owesCredit nd k with marks := setBits nd.marks k.toNat 1 1 }) else s
  else if channelTakes s n k t then arriveChannel s' n k t else s

/-- A MARK reaches a memory-tile port (R347, R395, R397). -/
def markAtPort (s : State) (e : Edge) (q : List Token) (t : Token) (m : TileRef) (p : BitVec 4) : State :=
  let s' := fire (s.setEd e.id { e with flight := q }) e.region
  let g := s.rg e.region
  let free := fun (s : State) => s.setTport m p { s.tport m p with freed := (s.tport m p).freed + 1 }
  let freeze := fun (s : State) => s.setTport m p { s.tport m p with
    stream := (s.tport m p).stream.map (fun (st : Stream) => { st with frozen := true }) }
  match snapshotOf s e.region t with
  | none => (arrivePort s' m p t).getD s
  | some x => match scopeStream s x.dom m p with
    | some st =>
      if sMode st.desc = 1 then free (freeze s')
      else if 6 ≤ sMode st.desc then match pushMark s' (.tile m (sOport st.desc)) x with
        | some s'' => free (freeze s'')
        | none => s
      else (arrivePort s' m p t).getD s
    | none =>
      if x.dom.isNone ∧ (g.outPortOf m p).isSome then free s' else (arrivePort s' m p t).getD s

/-- MARK_ARRIVAL (R395): the first token on an edge is a MARK and reaches the edge's end. -/
def execMarkArrival (e : Nat) (s : State) : Host.Outcome State Fault Refusal :=
  let ed := s.ed e
  .next (match ed.flight with
  | [] => s
  | t :: q =>
    if t.kind ≠ kindMark then s
    else match ed.dst with
      | .inp n k => markAtChannel s ed q t n k
      | .tile m p => if ed.route && decide (s.regionOf m ≠ some ed.region) then s else markAtPort s ed q t m p
      | .out _ _ => s)

/-- Every bound input channel that counts has recorded its MARK (R396). -/
def marksIn (s : State) (n : NodeRef) : Bool :=
  let nd := s.nd n
  (List.range 4).all (fun k =>
    let k : BitVec 2 := BitVec.ofNat 2 k
    let c := nd.ccfgAt k
    !ccBound c || ccLv c || nd.marks.getLsbD k.toNat || (match s.edgeInto n k with
      | some e => e.back
      | none => true))

/-- The bound output channels of a node. -/
def boundOut (s : State) (n : NodeRef) : List (BitVec 2) :=
  ((List.range 4).map (fun k => BitVec.ofNat 2 k)).filter (fun k => (s.edgeFrom (.out n k)).isSome || (s.fanFrom (.out n k)).isSome)

/-- A MARK stands on every bound output channel of a node. -/
def sendMarks (s : State) (n : NodeRef) (x : Snapshot) : State :=
  (boundOut s n).foldl (fun s k =>
    let s := s.updNd n (fun nd => nd.setCo k (nd.coq k ++ [markToken x]))
    { s with edge := s.edge.map (fun e => (e.1, if e.2.src = .out n k then { e.2 with marked := true } else e.2)) }) s

/-- What alignment withdraws of a transition in flight (R396): an awaited load, a `PARK` and a CX trap. -/
def alignWithdraws (fl : InFlight) : Bool :=
  match fl.why with
  | .park => true
  | .cxTrap => true
  | .await _ =>
    match fl.instr with
    | .gld _ => true
    | .gldA _ => true
    | .gldv _ => true
    | .gldvP _ => true
    | .pld _ => true
    | .pprb _ => true
    | .xld _ => true
    | _ => false
  | _ => false

/-- A node aligns (R396): what is withdrawn is withdrawn, a MARK leaves on every bound output channel, and the node enters
OFF with its sessions, HELD entries and tags as they are. A node that an earlier snapshot of its domain holds in OFF only
sends its MARKs (R404). -/
def alignNode (s : State) (n : NodeRef) (x : Snapshot) : State :=
  let nd := s.nd n
  if nd.st = .off then sendMarks s n x
  else
    let s := withdraw s n
    let s := { s with reqs := s.reqs.filter (fun r => !unsentOf n r) }
    sendMarks (s.updNd n (fun m => { m with
      st := .off
      aligned := some nd.st
      wdrn := nd.flight.isSome
      flight := none
      faulting := none
      later := none })) n x

/-- A node has yet to align: it is not in OFF, or an earlier snapshot holds it and its MARKs have not left. -/
def unaligned (s : State) (n : NodeRef) : Bool :=
  decide ((s.nd n).st ≠ .off)
    || ((s.nd n).aligned.isSome && (Map.values s.edge).any (fun e => !e.marked && !e.route && (match e.src with
      | .out m _ => decide (m = n)
      | _ => false)))

/-- NODE_ALIGN (R396). -/
def execNodeAlign (n : NodeRef) (s : State) : Host.Outcome State Fault Refusal :=
  let nd := s.nd n
  .next (match s.courseOf n.elemRef with
  | none => s
  | some (_, g) => match g.snap with
    | none => s
    | some x =>
      if nodeInScope s x.dom n ∧ unaligned s n = true ∧ marksIn s n = true ∧ nd.flight.all alignWithdraws = true ∧ s.issuing n = false ∧ s.cycle ≥ nd.nextAt
          ∧ (boundOut s n).all (fun k => coSpace s n k) = true then alignNode s n x
      else s)

/-! ## Completion (R341, R397, R398, R404) -/

/-- Nothing that a lane stream has ready can move on, among what `p` picks. -/
def lanesRest (s : State) (t : TileRef) (st : Stream) (p : KItem → Bool) : Bool :=
  let sideB := decide (sMode st.desc = 3 ∨ sMode st.desc = 5)
  st.lanes.all (fun x => !p x.2 || (match laneFromTile t sideB x.1 with
    | some d => !laneRoom s sideB x.1 d
    | none => true))

/-- A port of the scope has saved: its MARK has left, or has reached it; a relay has passed it on (R394, R397, R398). -/
def portSaved (s : State) (x : Snapshot) (t : TileRef) (st : Stream) : Bool :=
  if sMode st.desc = 4 ∨ sMode st.desc = 5 then lanesRest s t st (fun i => decide (i.mark = some x.stamp))
  else st.frozen && decide (st.out = []) && lanesRest s t st (fun _ => true)

/-- The section of an element has saved: no MARK that has reached it is to be taken, and it stands between two K-steps with no
k-value to enter (R229). One in RELAY has passed the MARK on (R397). -/
def sectionSaved (s : State) (x : Snapshot) (e : ElemRef) : Bool :=
  let m := (s.el e).mx
  (markMoves s e false).isNone && (markMoves s e true).isNone && (match m.st with
    | .run => decide (m.k % 4 = 0) && decide (m.group = []) && !mayEnter s e
    | .relay => [false, true].all (fun b => (m.buf b).all (fun i => decide (i.mark ≠ some x.stamp)) || !m.pass b || !forwardRoom s e b)
    | _ => true)

/-- No token of the course is on its way, as the whole of it leaves (R404). -/
def edgesEmpty (s : State) (rid : Nat) : Bool :=
  (Map.values s.edge).all (fun e => decide (e.region ≠ rid) || e.route || (decide (e.flight = []) && decide (tokensOut s e = [])))
    && (Map.values s.fanout).all (fun x => decide (x.region ≠ rid) || x.branches.all (fun b => decide (b.buf = []) && decide (b.spaces = [])))

/-- No MARK of the scope is still on its way to a node of it (R395), and none of a whole course to any end. -/
def marksDelivered (s : State) (rid : Nat) (g : Region) (x : Snapshot) : Bool :=
  (x.dom.isSome || edgesEmpty s rid) && (Map.values s.edge).all (fun e => match e.dst with
    | .inp n k => !(portInScope s g x.dom e.dst && e.marked) || ccLv ((s.nd n).ccfgAt k) || (s.nd n).marks.getLsbD k.toNat
    | _ => true)

/-- A queued command waits behind a stream that its port holds frozen: it can start only after the restore, and the
snapshot does not wait for it (DEDUCED, log entry 52). -/
def behindFrozen (s : State) (t : TileRef) (c : StreamCmd) : Bool := match (s.tport t c.port).stream with
  | some st => st.frozen
  | none => false

/-- A snapshot is complete (R398). A whole-course snapshot saves the stream queues as they stand (R397). -/
def snapshotDone (s : State) (rid : Nat) (x : Snapshot) : Bool :=
  let g := s.rg rid
  let ns := scopeNodes s g x.dom
  ns.all (fun n => (s.nd n).aligned.isSome && !unaligned s n)
    && g.memTiles.all (fun t => (s.tl t).running.all (fun p => !streamInScope s x.dom p.2 || portSaved s x t p.2))
    && (x.dom.isNone || g.memTiles.all (fun t => (s.tl t).queue.all (fun c => !nodeInScope s x.dom c.stamp.issuer || behindFrozen s t c || keptBack s t c)))
    && (x.dom.isSome || (List.range g.hdr.nin).all (fun i => bitAt x.inSent i))
    && s.die.all (fun d => d.2.engine.all (fun e => e.2.queue.all (fun c => !(decide (c.region = some rid) && nodeInScope s x.dom c.stamp.issuer))))
    && ns.all (fun n => (List.range 4).all (fun k => decide (spacesTo s n (BitVec.ofNat 2 k) = 0)))
    && ns.all (fun n => ((s.el n.elemRef).sbuf ++ (s.el n.elemRef).podq).all (fun y => decide (y.node ≠ n.node) || y.held))
    && g.elems.all (fun e => decide ((s.el e).mx.st ≠ .relay ∧ x.dom.any (fun d => decide ((s.el e).mx.owner ≠ d)) = true) || sectionSaved s x e)
    && marksDelivered s rid g x

/-- The sections of the scope stand still until the restore and take no k-value in (R229); one in RELAY goes on (R397). -/
def holdSections (s : State) (g : Region) (x : Snapshot) : State :=
  g.elems.foldl (fun s e =>
    let m := (s.el e).mx
    let mine := match x.dom with
      | some d => decide (m.owner = d)
      | none => true
    if m.st ≠ .off ∧ m.st ≠ .relay ∧ mine = true then s.updEl e (fun el => { el with mx := { m with
      marked := m.marked.orElse (fun _ => some x.stamp)
      shut := true } })
    else s) s

/-- A `SAVE` that has waited for the snapshot sets out. -/
def wakeSaves (s : State) (g : Region) (d : BitVec 4) : State :=
  g.courseNodes.foldl (fun s n => match (s.nd n).flight with
    | some fl => match fl.why with
      | .save d' va => if d' = d then
          let r := s.request (.node n) (s.stampOf n) va (.saveImage d) .home [] [] 0
          r.2.updNd n (fun nd => { nd with flight := some { fl with why := .await r.1 } })
        else s
      | _ => s
    | none => s) s

/-- The first place of the save area behind the images of a partition's saved courses. -/
def saveOffset (s : State) (p : BitVec 5) : Nat :=
  (s.region.map (fun x => if x.2.st = .saved ∧ x.2.part = p then (x.2.saveAt + x.2.saveLen + 4095) / 4096 * 4096 else 0)).foldl max 0

/-- SAVESZ in bytes (R419). -/
def State.saveSize (s : State) (p : BitVec 5) : Nat := (s.pcbW p 0x38).toNat * 2 ^ 20

/-- A deferred read of a region's memory tiles. -/
def sleeps (s : State) (g : Region) (r : Req) : Bool := g.memTiles.any (fun t => sleepsAt s t r)

/-- The streams and commands of a memory tile's course stand in its image and leave the tile. -/
def emptyTile (s : State) (t : TileRef) (rid : Nat) : State :=
  s.updTl t (fun m => MTile.forgetBuffers { m with
    queue := m.queue.filter (fun c => decide (c.region ≠ rid))
    fifo := []
    fifoAt := []
    ports := m.ports.map (fun x => (x.1, { x.2 with stream := x.2.stream.filter (fun st => decide (st.region ≠ rid)) })) })

/-- The whole course leaves for the save area (R404): its region is free, its forwarding routes stay for its return. -/
def saveCourse (s : State) (rid : Nat) (x : Snapshot) : State :=
  let g := s.rg rid
  let ws := imageOf s g x
  let at_ := saveOffset s g.part
  if s.saveSize g.part < at_ + 4 * ws.length then s
  else
    let w := s.writePart g.part (s.pcbD g.part 0x30 + at_) (s.stagingStamp g.part).keyid (ws.flatMap (fun (v : Word) => leBytes 4 v.toNat))
    if w.2 then
      let s := w.1
      let s := { s with
        reqs := s.reqs.filter (fun r => !streamRead g.memTiles r)
        resps := s.resps.filter (fun x => match x.who with
          | .port t _ => !g.memTiles.contains t
          | _ => true) }
      let asleep := s.reqs.filter (sleeps s g)
      let bad := g.courseNodes.filterMap (fun n => (s.nd n).badToken.map (fun b => (n, b)))
      let routes := s.edge.filter (fun e => e.2.route && decide (e.2.region = rid))
      let s := { s with reqs := s.reqs.filter (fun r => !sleeps s g r) }
      let net := s.net
      let s := g.memTiles.foldl (fun s t => emptyTile s t rid) s
      let s := vacate s rid
      let s := dropFlits { s with
        edge := routes.foldl (fun (m : Map Edge) (e : Nat × Edge) => Map.set m e.1 e.2) s.edge
        net := net }
      s.setRg rid { g with
        st := .saved
        snap := none
        done := [x]
        saveAt := at_
        saveLen := 4 * ws.length
        asleep := asleep
        bad := bad
        opened := []
        idle := 0
        stall := 0 }
    else s

/-- SNAPSHOT_COMPLETE (R398). -/
def execSnapshotComplete (rid : Nat) (s : State) : Host.Outcome State Fault Refusal :=
  let g := s.rg rid
  .next (match g.snap with
  | none => s
  | some x =>
    if snapshotDone s rid x then match x.dom with
      | none => saveCourse s rid x
      | some d =>
        let s := holdSections s g x
        let s := s.updRg rid (fun g => { g with
          snap := none
          done := { x with image := imageOf s g x } :: g.done })
        wakeSaves s g d
    else s)

/-! ## `SAVE` (R402) -/

/-- Words written from an address on under a request's stamp, or the fault of the first that fails. -/
def unitWrites (s : State) (r : Req) : Nat → List Word → State × Option FaultInfo
  | _, [] => (s, none)
  | va, w :: ws => match unitCheck s (s.dieTlb r.stamp.issuer.die) r.stamp va .write 4 with
    | .error c => (s, some (accessFault c 0 (BitVec.ofNat 56 va) true .awaited))
    | .ok p => match unitStore s p (PWord.clean w) with
      | .error c => (s, some (accessFault c 0 (BitVec.ofNat 56 va) true .awaited))
      | .ok s => unitWrites s r (va + 4) ws

/-- Words read from an address on under a request's stamp, or the fault of the first that fails. -/
def unitReads (s : State) (r : Req) (va n : Nat) : Except FaultInfo (List Word) :=
  (List.range n).foldl (fun acc i => match acc with
    | .error e => .error e
    | .ok ws => match unitCheck s (s.dieTlb r.stamp.issuer.die) r.stamp (va + 4 * i) .read 4 with
      | .error c => .error (accessFault c 0 (BitVec.ofNat 56 (va + 4 * i)) false .awaited)
      | .ok p => .ok (ws ++ [(s.loadUnder p.1 p.2).val])) (.ok [])

/-- `SAVE` of a complete snapshot: the image of its completion is written, again at a second `SAVE`, and d becomes its size
(R402). -/
def performSave (s : State) (r : Req) (d : BitVec 4) : State × Answer :=
  match s.courseOf r.stamp.issuer.elemRef with
  | none => (s, turnedAway 1)
  | some (_, g) => match g.done.find? (fun x => decide (x.dom = some d)) with
    | none => (s, turnedAway 1)
    | some x =>
      match unitWrites s r r.va.toNat x.image with
      | (s, some fi) => (s, { fault := some fi, accepted := false })
      | (s, none) => (s, { words := [PWord.clean (BitVec.ofNat 32 (4 * x.image.length))] })

/-- Bytes that a `SAVE` writes. -/
def saveLength (s : State) (r : Req) (d : BitVec 4) : Nat := match s.courseOf r.stamp.issuer.elemRef with
  | none => 0
  | some (_, g) => ((g.done.find? (fun x => decide (x.dom = some d))).map (fun x => 4 * x.image.length)).getD 0

/-- The address and domain of `SAVE` and `REST`: poison, or ALIGN at the save area. -/
def saveOperands (o : Opnds) (write : Bool) : Except (Word ⊕ FaultInfo) (BitVec 56 × BitVec 4) :=
  match o.base with
  | .error w => .error (.inl w)
  | .ok va =>
    if o.b.psn then .error (.inl o.b.val)
    else if va.toNat % 4096 ≠ 0 then .error (.inr (accessFault causeAlign 0 va write .transition))
    else .ok (va, bits o.b.val 0 4)

/-- A request of `SAVE` or `REST`, of which the node parks for the answer. -/
def askImage (t : State) (o : Opnds) (va : BitVec 56) (op : Op) : State × Done :=
  let r := t.request (.node o.n) (t.stampOf o.n) va op .home [] [] 0 (t.cycle + 2)
  (r.2, .later (.await r.1))

/-- `SAVE` (R400, R402): it parks until the snapshot of D is complete. -/
def execSave (f : Fields) (s : State) : Host.Outcome State Fault Refusal :=
  issue (.save f) f s (fun o t =>
    match saveOperands o true with
    | .error (.inl w) => .ok (t, .now (poisonResult w))
    | .error (.inr fi) => .error fi
    | .ok (va, d) =>
      match t.courseOf o.n.elemRef with
      | none => .ok (t, .now { dst := (turnedAway 1).words.head?, cond := false })
      | some (_, g) =>
        if g.done.any (fun x => decide (x.dom = some d)) then .ok (askImage t o va (.saveImage d))
        else if g.snap.any (fun x => decide (x.dom = some d)) then .ok (t, .later (.save d va))
        else .ok (t, .now { dst := (turnedAway 1).words.head?, cond := false }))

/-! ## `REST` (R93, R403) -/

/-- The image of a saved node as a course image would have it, for the checks of R92. -/
def savedNodeImage (g : Region) (n : NodeRef) (w : List Word) : NodeImage :=
  let x := nodeOfRecord w
  let p := g.placeOf n.tile
  let own := match g.course.node p n.elem.toNat n.node.toNat with
    | some y => y.own
    | none => []
  { tile := p, elem := n.elem, node := n.node, pool := x.pool, ncfg := x.ncfg, ccfg := x.ccfg, own := own }

/-- The stamp of a domain's accesses in an element of a region: of its table entry, or of the domain map where the element
holds another course. -/
def domainStamp (s : State) (g : Region) (e : ElemRef) (d : BitVec 4) : Stamp :=
  let x := if (s.el e).region = some g.id then s.domEntry e d else domainEntry s g d.toNat 0
  { part := g.part, tenant := entTenant x, keyid := entKey x, issuer := e.nodeRef 0 }

/-- The header of the block that a mapping entry of an image names for a node's domain; none where the entry is not VALID or
the block does not read (R85, R233). -/
def imageHeader (s : State) (g : Region) (x : ContextImage) (n : NodeRef) (d : BitVec 4) (c : Nat) : Option DWord :=
  let ent := (((x.elems.find? (fun e => decide (e.1 = n.elemRef))).bind (fun e => e.2.find? (fun y => decide (y.1 = d)))).map
    (fun y => y.2.cx.getD c 0)).getD 0
  if bitAt ent 63 then
    let va := bitsNat ent 3 53 * 8
    let at_ := fun (va : Nat) => match unitCheck s (s.dieTlb n.die) (domainStamp s g n.elemRef d) va .read 4 with
      | .ok p => some (s.loadUnder p.1 p.2).val
      | .error _ => none
    match at_ va, at_ (va + 4) with
    | some lo, some hi => some (hi ++ lo)
    | _, _ => none
  else none

/-- The first slot of an image that fails R92, with its cause (R93): against the DOM of its record, the union that the image
records and the mapping that the restore installs (R85). -/
def imageSlotError (s : State) (g : Region) (x : ContextImage) : Option LoadError :=
  x.nodes.findSome? (fun r =>
    let p : ElemPlace := (g.placeOf r.1.tile, r.1.elem.toNat)
    let ni := savedNodeImage g r.1 r.2
    let hdr := imageHeader s g x r.1 (BitVec.ofNat 4 ni.dom)
    (List.range 16).findSome? (fun k =>
      (slotError s g (bits (x.head.getD 4 0) 0 6) hdr g.course p ni k).map (fun c => { node := r.1, slot := some k, cause := c })))

/-- A resource that an image names belongs to another domain or is being scrubbed (reason 3). -/
def imageClash (s : State) (x : ContextImage) : Bool :=
  let all : List Resource := (List.range 12).map Resource.bank ++ (List.range 4).map Resource.mbox ++ (List.range 8).map Resource.vgrp
    ++ (List.range 4).map Resource.acc ++ (List.range 32).map Resource.cell ++ (List.range 8).map Resource.gate
  x.elems.any (fun (e : ElemRef × List (BitVec 4 × DomainImage)) => e.2.any (fun d => all.any (fun r =>
    bitAt (d.2.pword.getD r.place.1 0) r.place.2 && ((s.el e.1).ownedByOther d.1 r || (s.el e.1).scrubbing r))))

/-- The words of a region's digest. -/
def Region.digestWords (g : Region) : List Word := (bytesWords g.hdr.digest ++ List.replicate 8 0).take 8

/-- The node records of an image are those of the nodes in its scope, each once and in order, with the DOM of the scope, and
its W and H are the region's: nothing else of the die is touched (R13; DEDUCED, log entry 53). -/
def recordsFit (s : State) (g : Region) (dom : Option (BitVec 4)) (x : ContextImage) : Bool :=
  decide (x.nodes.map Prod.fst = scopeNodes s g dom)
    && decide (x.head.getD 2 0 = BitVec.ofNat 32 (g.hdr.w + g.hdr.h * 2 ^ 16))
    && x.nodes.all (fun r => match dom with
      | some d => decide (bits (r.2.getD 1 0) 28 4 = d)
      | none => decide (some (bitsNat (r.2.getD 1 0) 28 4) = (g.course.node (g.placeOf r.1.tile) r.1.elem.toNat r.1.node.toNat).map NodeImage.dom))

/-- What the checks of `REST` say (R403): a reason with the slot that goes to the service core, or the image. -/
def checkImage (s : State) (g : Region) (d : BitVec 4) (ws : List Word) : Except (Nat × Option LoadError) ContextImage :=
  match parseImage g.die g.memTiles.length ws with
  | none => .error (1, none)
  | some x =>
    if x.whole ∨ s.saveSize g.part < x.size then .error (1, none)
    else if x.digest ≠ g.digestWords ∨ x.dom ≠ d ∨ recordsFit s g (some d) x = false
        ∨ (scopeNodes s g (some d)).any (fun n => (s.nd n).aligned.isNone) = true then .error (2, none)
    else if imageClash s x then .error (3, none)
    else match imageSlotError s g x with
      | some e => .error (4 + e.cause.toNat * 256, some e)
      | none => .ok x

/-- The ports of a scope go on (R403). -/
def thawPorts (s : State) (g : Region) (dom : Option (BitVec 4)) : State :=
  g.memTiles.foldl (fun s t => s.updTl t (fun m => { m with
    ports := m.ports.map (fun p => (p.1, { p.2 with stream := p.2.stream.map (fun (st : Stream) =>
      if streamInScope s dom st then { st with
        frozen := false
        held := none } else st) })) })) s

/-- The sections of a scope go on. -/
def thawSections (s : State) (g : Region) (dom : BitVec 4) : State :=
  g.elems.foldl (fun s e => if (s.el e).mx.owner = dom then s.updEl e (fun el => { el with mx := { el.mx with
    marked := none
    shut := false } }) else s) s

/-- The words of the image at the save area: as many as its header says, up to the size of the save area. -/
def imageWords (s : State) (r : Req) (limit : Nat) : Except FaultInfo (List Word) :=
  match unitReads s r r.va.toNat 16 with
  | .error e => .error e
  | .ok h => if imageHeadOk h ∧ (h.getD 3 0).toNat ≤ limit then unitReads s r r.va.toNat ((h.getD 3 0).toNat / 4) else .ok h

/-- Bytes that a `REST` reads. -/
def restLength (s : State) (r : Req) : Nat := match s.courseOf r.stamp.issuer.elemRef with
  | none => 0
  | some (_, g) => match imageWords s r (s.saveSize g.part) with
    | .ok ws => 4 * ws.length
    | .error _ => 64

/-- `REST` where it takes effect. -/
def performRest (s : State) (r : Req) (d : BitVec 4) : State × Answer :=
  match s.courseOf r.stamp.issuer.elemRef with
  | none => (s, turnedAway 2)
  | some (rid, g) => match imageWords s r (s.saveSize g.part) with
    | .error fi => (s, { fault := some fi, accepted := false })
    | .ok ws => match checkImage s g d ws with
      | .error (k, e) => ((match e with
        | some e => slotRecord s g e
        | none => s), turnedAway k)
      | .ok x =>
        let s := restoreParts s rid x
        let s := thawSections (thawPorts s g (some d)) g d
        let s := s.updRg rid (fun g => { g with done := g.done.filter (fun y => decide (y.dom ≠ some d)) })
        (x.nodes.foldl (fun s n => reviveNode s n.1) s, { words := [PWord.clean (BitVec.ofNat 32 x.size)] })

/-- `REST` (R400, R403). -/
def execRest (f : Fields) (s : State) : Host.Outcome State Fault Refusal :=
  issue (.rest f) f s (fun o t =>
    match saveOperands o false with
    | .error (.inl w) => .ok (t, .now (poisonResult w))
    | .error (.inr fi) => .error fi
    | .ok (va, d) => .ok (askImage t o va (.restore d)))

/-! ## Whole courses (R404, R405, R452) -/

/-- Pre-emption in LOADING: the load is abandoned, and the task returns to the head of the ready list with its staged store
(R248, R405). -/
def preemptLoad (s : State) (rid : Nat) : State :=
  let g := s.rg rid
  let s := abandonLoad s rid
  s.updTask g.die g.task.toNat (fun t => { t.setField 0 28 4 4 with
    front := true
    readyAt := s.now g.die })

/-- WHOLE_COURSE_PREEMPT (R404): a running course begins its snapshot, a loading one returns to READY. -/
def preemptCourse (s : State) (rid : Nat) : State :=
  let g := s.rg rid
  if g.st = .loading then preemptLoad s rid
  else if g.st = .running ∧ g.snap.isNone then (beginSnapshot s rid none).1
  else s

def execWholeCoursePreempt (rid : Nat) (s : State) : Host.Outcome State Fault Refusal :=
  .next (if (Map.find s.region rid).isSome then preemptCourse s rid else s)

/-- The words of a whole-course image in a partition's save area. -/
def savedWords (s : State) (p : BitVec 5) (at_ n : Nat) : Option (List Word) :=
  match s.readPart p (s.pcbD p 0x30 + at_) n (s.stagingStamp p).keyid with
  | .ok bs => some (bytesWords bs)
  | .error _ => none

/-- Their reads pass through the caches of their homes (R290). -/
def useSaved (s : State) (p : BitVec 5) (at_ n : Nat) : State := s.usePart p (s.pcbD p 0x30 + at_) n (s.stagingStamp p).keyid

/-- Why a whole-course image does not fit a region: its records, its digest, or the first slot that fails R92 (R93, R403). -/
def wholeError (s : State) (g : Region) (x : ContextImage) : Option LoadError :=
  if x.whole = false ∨ x.digest ≠ g.digestWords ∨ recordsFit s g none x = false then some { node := ⟨g.die, (g.tileAt (0, 0)).tile, 0, 0⟩ }
  else imageSlotError s g x

/-- A deferred read that a saved tile kept still has a requester that waits for it. -/
def stillWaits (s : State) (r : Req) : Bool := match r.who with
  | .node n => (match (s.nd n).flight with
    | some fl => decide (fl.why = .await r.id)
    | none => false)
  | _ => true

/-- A course comes back into a free region from its image (R404): all its tiles are written, and its gates open as after a
load. -/
def restoreCourse (s : State) (rid : Nat) (x : ContextImage) : State :=
  let g := s.rg rid
  let task := s.task g.die g.task.toNat
  let s := g.places.foldl (fun s p => if isMemTile (g.tileAt p).tile then s else writeTile s g task.image g.course p []) s
  let s := (g.memTiles.zip x.tiles).foldl (fun s t => restoreTile s t.1 g t.2) s
  let s := restoreParts (installEdges s g g.course) rid x
  let s := fillBlocks s g g.course task
  let ids := x.tiles.flatMap (fun t => t.deferred.map Deferred.id)
  let s := { s with reqs := s.reqs ++ g.asleep.filter (fun (r : Req) => ids.contains r.id && stillWaits s r) }
  let s := g.bad.foldl (fun s b => s.updNd b.1 (fun nd => { nd with badToken := some b.2 })) s
  s.updRg rid (fun g => { g with
    acked := g.tiles.map TileRef.tile
    opened := []
    snap := none
    done := []
    asleep := []
    bad := []
    fired := true })

end Sys2Proof.Machine
end

