-- ==== Sys2Proof/Machine/Select.lean ====
section
/-! DEFINITION. The ready list of a die, placement, the power accounts that govern it, and the start of a load
(R240, R246, R248, R253, R254, R260, R261, R404, R433, R452). -/

namespace Sys2Proof.Machine

/-! ## Power accounts (R433) -/

/-- PWRA and PWRW of a partition (R419). -/
def State.pwra (s : State) (p : Nat) : Nat := (s.pcbW (BitVec.ofNat 5 p) 0x50).toNat
def State.pwrw (s : State) (p : Nat) : Nat := max 1 (bitsNat (s.pcbW (BitVec.ofNat 5 p) 0) 8 4)

/-- The balance of a partition on a die: PWRA where nothing has been charged yet. -/
def State.balance (s : State) (d : BitVec 4) (p : Nat) : Int := (Map.find (s.dieAt d).account p).getD (s.pwra p : Int)

/-- A partition that draws: its number, its weight, and the quanta it still needs. -/
abbrev Drawer := Nat × Nat × Nat

/-- The drawing partition that takes the next quantum: the one that drew last while its turn lasts, else the next above it,
and after the highest the lowest. -/
def nextDrawer (ds : List Drawer) (last : Nat × Nat) : Option Drawer :=
  let live := ds.filter (fun x => decide (0 < x.2.2))
  (live.find? (fun x => decide (x.1 = last.1 ∧ last.2 < x.2.1))).orElse (fun _ =>
    (live.find? (fun x => decide (last.1 < x.1))).orElse (fun _ => live.head?))

/-- Quanta drawn one at a time until the pool or the need is gone: what the drawers still need, what the pool keeps, and whose
turn it is. -/
def drawPool : Nat → List Drawer → Nat × Nat → List Drawer × Nat × (Nat × Nat)
  | 0, ds, last => (ds, 0, last)
  | n + 1, ds, last => match nextDrawer ds last with
    | none => (ds, n + 1, last)
    | some x =>
      drawPool n (ds.map (fun y => if y.1 = x.1 then (y.1, y.2.1, y.2.2 - 1) else y))
        (if x.1 = last.1 ∧ last.2 < x.2.1 then (last.1, last.2 + 1) else (x.1, 1))

/-- What a charge takes of a partition, and what the partition must draw for it: what its balance does not cover. -/
def usedBy (used : List (Nat × Nat)) (p : Nat) : Nat := ((used.filter (fun x => decide (x.1 = p))).map Prod.snd).sum
def needOf (s : State) (d : BitVec 4) (used : List (Nat × Nat)) (p : Nat) : Nat := usedBy used p - (max 0 (s.balance d p)).toNat

/-- Metered quanta are charged: to the balance, then to the pool, and the rest becomes a debt. -/
def charge (s : State) (d : BitVec 4) (used : List (Nat × Nat)) : State :=
  let x := s.dieAt d
  let ps := (List.range 32).filter (fun p => decide (0 < usedBy used p))
  let r := drawPool x.pool (ps.map (fun p => (p, s.pwrw p, needOf s d used p))) x.drew
  let owed := fun (p : Nat) => ((r.1.filter (fun y => decide (y.1 = p))).map (fun y => y.2.2)).sum
  let acc := ps.foldl (fun (m : Map Int) p => Map.set m p (s.balance d p - (usedBy used p : Int) + (needOf s d used p : Int) - (owed p : Int))) x.account
  { s.setDie d { x with
      account := acc
      pool := r.2.1
      drew := r.2.2 } with
    spent := Map.modify s.spent 0 d.toNat (· + (used.map Prod.snd).sum) }

/-- The dispatcher may place a task of a partition: it has balance, or the pool has quanta. -/
def hasPower (s : State) (d : BitVec 4) (p : BitVec 5) : Bool := decide (0 < s.balance d p.toNat) || decide (0 < (s.dieAt d).pool)

/-! ## Features (R464, R465) -/

/-- FMASK of a die: zero in reduced service. -/
def State.fmaskOf (s : State) (d : BitVec 4) : BitVec 6 := if s.clk then (s.dieAt d).fmask else 0

/-! ## Placement (R240) -/

/-- STATE of a partition is PREEMPTED (R419, R427). -/
def State.preempted (s : State) (p : BitVec 5) : Bool := decide (bitsNat (s.pcbW p 0) 28 3 = 3)

/-- An origin qualifies for a course of W by H tiles. -/
def originOk (s : State) (d : BitVec 4) (p : BitVec 5) (w h : Nat) (o : Nat × Nat) : Bool :=
  decide ((o.1 + o.2) % 2 = 0) && decide (1 ≤ o.2) && decide (o.2 + w ≤ 64) && decide (o.1 + h ≤ 32)
    && (List.range w).all (fun c => decide (s.partitionAt d (o.2 + c) = some p))
    && s.region.all (fun x => decide (x.2.die ≠ d) || decide (x.2.st = .saved)
      || decide (o.1 + h ≤ x.2.row0 ∨ x.2.row0 + x.2.hdr.h ≤ o.1 ∨ o.2 + w ≤ x.2.col0 ∨ x.2.col0 + x.2.hdr.w ≤ o.2))

/-- The origin that a course takes: that of the region unloaded last where it had the same size, else the first in
ascending tile index. -/
def findOrigin (s : State) (d : BitVec 4) (p : BitVec 5) (w h : Nat) : Option (Nat × Nat) :=
  let last := match (s.dieAt d).lastRegion with
    | some (w', h', r, c) => if w' = w ∧ h' = h ∧ originOk s d p w h (r, c) = true then some (r, c) else none
    | none => none
  last.orElse (fun _ => ((List.range 2048).find? (fun t => originOk s d p w h (t / 64, t % 64))).map (fun t => (t / 64, t % 64)))

/-! ## The ready list (R254, R260) -/

/-- AGEX and BLKX (R261). -/
def Die.agex (d : Die) : Nat := bitsNat d.dcfg 0 5
def Die.blkx (d : Die) : Nat := bitsNat d.dcfg 5 5

/-- A stream predecessor of a record is RUNNING (R254). -/
def hasRunningFeeder (s : State) (d : BitVec 4) (i : Nat) : Bool :=
  let gen := (s.task d i).gen
  s.die.any (fun x => x.2.task.any (fun y => decide (y.2.state = 6) && (List.range y.2.nsuc).any (fun k =>
    let e := y.2.succ k
    decide (sucKind e = 2) && sucLoc e && decide (sucDie e = d) && decide (sucIndex e = i) && decide (sucGen e = gen))))

/-- What the order of the ready list compares, in turn: stream successors, a task pre-empted in LOADING, effective
priority, DEADLINE, entry to READY and, at equality, the index. -/
def readyKey (s : State) (d : BitVec 4) (i : Nat) : List Nat :=
  let t := s.task d i
  [if hasRunningFeeder s d i then 0 else 1, if t.front then 0 else 1, t.prio - t.promo, t.deadline, t.readyAt, i]

/-- Order of keys, first difference first. -/
def keyLe : List Nat → List Nat → Bool
  | a :: as, b :: bs => decide (a < b) || (decide (a = b) && keyLe as bs)
  | _, _ => true

/-- An entry put into a sorted list. -/
def putByKey (x : List Nat × Nat) : List (List Nat × Nat) → List (List Nat × Nat)
  | [] => [x]
  | y :: ys => if keyLe x.1 y.1 then x :: y :: ys else y :: putByKey x ys

/-- The READY tasks of a die in list order; a task whose deadline has come is no more to be selected (R253). -/
def readyList (s : State) (d : BitVec 4) : List Nat :=
  let rs := ((s.dieAt d).task.filter (fun x => decide (x.2.state = 4) && !deadlineDue x.2 (s.now d))).map Prod.fst
  (rs.foldr (fun i xs => putByKey (readyKey s d i, i) xs) []).map Prod.snd

/-- AGE_PROMOTION (R260): a task that has waited 2^AGEX die cycles since it became READY, or since its last promotion. -/
def execAgePromotion (die : BitVec 4) (i : BitVec 14) (s : State) : Host.Outcome State Fault Refusal :=
  let t := s.task die i.toNat
  .next (if t.state = 4 ∧ t.promo < t.prio ∧ t.readyAt + (t.promo + 1) * 2 ^ (s.dieAt die).agex ≤ s.now die then
    s.setTask die i.toNat { t with promo := t.promo + 1 }
  else s)

/-- HEAD_BLOCK (R260): the head of the list has found no origin for 2^BLKX die cycles. -/
def execHeadBlock (die : BitVec 4) (s : State) : Host.Outcome State Fault Refusal :=
  let x := s.dieAt die
  .next (match x.blocked with
  | some (i, since) =>
    if (readyList s die).head? = some i ∧ since + 2 ^ x.blkx ≤ s.now die then s.setDie die { x with headOnly := true } else s
  | none => s)

/-! ## The start of a load (R246, R248, R452) -/

/-- What becomes of a READY task. -/
inductive Placement where
  | at (o : Nat × Nat) (h : Header) (trec : Nat)
  | noOrigin
  | barred
  | fails (cause : BitVec 8)

/-- The header of a context image in a partition's save area. -/
def savedHead (s : State) (p : BitVec 5) : List Word := (savedWords s p 0 64).getD []

/-- The origin at which a restored course stood: where its first saved node is, less the place that the course gives it. -/
def savedOrigin (s : State) (d : BitVec 4) (p : BitVec 5) (c : Course) : Option (Nat × Nat) :=
  match savedWords s p 64 512, c.nodes with
  | some w, x :: _ =>
    let n := recordNode d w
    if x.tile.1 ≤ tileRow n.tile ∧ x.tile.2 ≤ tileCol n.tile then some (tileRow n.tile - x.tile.1, tileCol n.tile - x.tile.2) else none
  | _, _ => none

/-- Where a task may be placed; one that is loaded by restore takes its saved origin alone (R452). -/
def placeFor (s : State) (d : BitVec 4) (t : Task) (h : Header) (trec : Nat) : Placement :=
  if t.restore then match readCourse s d t.part t.image h trec with
    | .error c => .fails c
    | .ok c => match savedOrigin s d t.part c with
      | none => .fails causeCfgIllegal
      | some o => if originOk s d t.part h.w h.h o then .at o h trec else .noOrigin
  else match findOrigin s d t.part h.w h.h with
    | some o => .at o h trec
    | none => .noOrigin

/-- What the dispatcher finds for a READY task (R240, R248, R260, R433). -/
def placement (s : State) (d : BitVec 4) (i : Nat) : Placement :=
  let t := s.task d i
  if s.preempted t.part || !hasPower s d t.part then .barred
  else match readHeader s d t.part t.image with
    | .error c => .fails c
    | .ok (h, trec) => placeFor s d t h trec

/-- The report on an image of which no node can be named. -/
def badImage (g : Region) : LoadError := { node := ⟨g.die, (g.tileAt (0, 0)).tile, 0, 0⟩ }

/-- A whole-course image goes into its region, or the first slot that fails R92 is reported and nothing is restored (R93). -/
def restoreWhole (s : State) (rid : Nat) (st : RegionState) (ws : Option (List Word)) : State :=
  let g := s.rg rid
  match ws.bind (parseImage g.die g.memTiles.length) with
  | none => failLoad s rid (badImage g)
  | some x => match wholeError s g x with
    | some e => failLoad s rid e
    | none => restoreCourse (s.setRg rid { g with st := st }) rid x

/-- The image that KOPEN left in the save area goes into a fresh region in place of the course's own contents (R452). -/
def loadSaved (s : State) (rid : Nat) : State :=
  let g := s.rg rid
  let n := ((savedHead s g.part).getD 3 0).toNat
  let s := useSaved s g.part 0 (if n ≤ s.saveSize g.part then n else 64)
  match courseError s g (s.task g.die g.task.toNat).image g.course [] with
  | some x => failLoad s rid x
  | none => restoreWhole s rid g.st (if n ≤ s.saveSize g.part then savedWords s g.part 0 n else none)

/-- A task enters LOADING in a new region (R246, R248, R465). -/
def startLoad (s : State) (d : BitVec 4) (i : Nat) (o : Nat × Nat) (h : Header) (c : Course) : State :=
  let f := s.fresh
  let old := s.task d i
  let t := { old.setField 0 28 4 5 with
    front := false
    restore := false }
  let g : Region := { id := f.1, die := d, task := BitVec.ofNat 14 i, part := t.part, row0 := o.1, col0 := o.2, hdr := h, course := c,
                      fmask := s.fmaskOf d, restoring := old.restore }
  let s := (f.2.setTask d i t).setRg f.1 g
  let s := fillBlocks s g c t
  let s := { s with net := s.net ++ g.tiles.filterMap (fun x => messageFlit s 1 (.config f.1) (dispatchPlace d) (.port x 0)) }
  if old.restore then loadSaved s f.1 else s

/-- A task that is placed leaves the ready list; the head's blocking ends with it (R260). -/
def unblock (s : State) (d : BitVec 4) (i : Nat) : State :=
  s.updDie d (fun x => if (x.blocked.map Prod.fst) = some i then { x with
    blocked := none
    headOnly := false } else x)

/-- What is done with a task that can leave the ready list. -/
def takeReady (s : State) (d : BitVec 4) (i : Nat) : Placement → State
  | .at o h trec =>
    let t := s.task d i
    let w := stripTouch s d t.part t.image h.size
    let s := w.1
    if w.2 = false then s
    else match readCourse s d t.part t.image h trec with
    | .error c => failTask (unblock s d i) d i c
    | .ok c => startLoad (unblock s d i) d i o h c
  | .fails c => failTask (unblock (stripTouch s d (s.task d i).part (s.task d i).image 64).1 d i) d i c
  | .noOrigin => s
  | .barred => s

/-- A placement by which a task leaves the ready list. -/
def Placement.leaves : Placement → Bool
  | .at _ _ _ => true
  | .fails _ => true
  | .noOrigin => false
  | .barred => false

/-- The blocked head, until it is placed or leaves READY in another way (R260). -/
def blockedHead (s : State) (d : BitVec 4) : Option Nat :=
  if (s.dieAt d).headOnly then ((s.dieAt d).blocked.map Prod.fst).filter (fun i => (readyList s d).contains i) else none

/-- The dispatcher notes since when the head of its list has found no origin; a head that blocks the list stays noted, though
another task come to head it (R260). -/
def noteHead (s : State) (d : BitVec 4) (head : Nat) : State :=
  let x := s.dieAt d
  match blockedHead s d with
  | some _ => s
  | none => match placement s d head with
    | .noOrigin => if (x.blocked.map Prod.fst) = some head ∧ x.headOnly = false then s else s.setDie d { x with
        blocked := some (head, s.now d)
        headOnly := false }
    | _ => s.setDie d { x with
        blocked := none
        headOnly := false }

/-- The tasks that may be placed, in the list's order: while a head blocks it, the head and the stream successors that R254
places ahead of every other task (DEDUCED, log entry 117). -/
def candidates (s : State) (d : BitVec 4) : List Nat :=
  match blockedHead s d with
  | some i => (readyList s d).filter (fun j => decide (j = i) || hasRunningFeeder s d j)
  | none => readyList s d

/-- Loads in progress on a die. -/
def loadsOn (s : State) (d : BitVec 4) : Nat := s.region.countP (fun x => decide (x.2.die = d) && decide (x.2.st = .loading))

/-- One selection (R260). -/
def selectTask (s : State) (d : BitVec 4) : State :=
  match readyList s d with
  | [] => s
  | head :: _ =>
    let s := noteHead s d head
    match (candidates s d).find? (fun i => (placement s d i).leaves) with
    | none => s
    | some i => takeReady s d i (placement s d i)

/-! ## Courses that come back (R404) -/

/-- A saved course of a die that can come back: its partition runs and its origin is free. -/
def returning (s : State) (d : BitVec 4) : Option Nat :=
  (s.region.find? (fun x => decide (x.2.die = d) && decide (x.2.st = .saved) && !s.preempted x.2.part
    && originOk s d x.2.part x.2.hdr.w x.2.hdr.h (x.2.row0, x.2.col0))).map Prod.fst

/-- A saved course comes back; one whose image no longer reads or fits fails its task. -/
def bringBack (s : State) (rid : Nat) : State :=
  let g := s.rg rid
  restoreWhole (useSaved s g.part g.saveAt g.saveLen) rid .running (savedWords s g.part g.saveAt g.saveLen)

/-- TASK_SELECT (R260): consumption is charged as it occurs; then a saved course comes back, or the next task is placed,
while fewer than two loads are in progress. -/
def execTaskSelect (die : BitVec 4) (used : List (Nat × Nat)) (s : State) : Host.Outcome State Fault Refusal :=
  let s := charge s die used
  .next (if s.admitted die = false then s
  else match returning s die with
  | some rid => bringBack s rid
  | none => if loadsOn s die < 2 then selectTask s die else s)

end Sys2Proof.Machine
end

