-- ==== Sys2Proof/Machine/Manage.lean ====
section
/-! DEFINITION. The management rings of the two PFs and the commands on partitions, keys, translations, queues and
functions (R303, R404, R405, R417-R419, R421-R432, R467). -/

namespace Sys2Proof.Machine

/-! ## Ring entries (R427, R428) -/

/-- Byte `i` of an entry, and the little-endian value of `n` bytes from it. -/
def entByte (ws : List Word) (i : Nat) : Nat := bitsNat (ws.getD (i / 4) 0) (8 * (i % 4)) 8
def entNat (ws : List Word) (i n : Nat) : Nat := leNat ((List.range n).map (fun j => BitVec.ofNat 8 (entByte ws (i + j))))

/-- Bytes 4 on of an entry of `len` bytes are zero but for the ranges that its operands take. -/
def entZero (ws : List Word) (len : Nat) (used : List (Nat × Nat)) : Bool :=
  (List.range (len - 4)).all (fun i => used.any (fun u => decide (u.1 ≤ i + 4 ∧ i + 4 < u.1 + u.2)) || decide (entByte ws (i + 4) = 0))

/-- Commands of a ring (R427, R438, R449); the secured ones have no place there (R428). -/
def ringOps : List Nat := [0x10, 0x11, 0x12, 0x13, 0x21, 0x22, 0x30, 0x31, 0x40, 0x41, 0x50, 0x60, 0x61, 0x62, 0x72, 0x73, 0x74, 0x76]

/-- Commands that are refused outside a secured session (R427, R449). -/
def securedOps : List Nat := [0x20, 0x70, 0x71, 0x75]

/-- The entry that a ring's head names. -/
def HostPort.entry (p : HostPort) : List Word := (List.range 16).map (fun i => Map.get p.ring 0 (16 * p.mrhead.toNat + i))
def HostPort.empty (p : HostPort) : Bool := decide (p.mrhead = p.mrtail)

/-- The ring of a PF is the next to be served: one entry at a time, and the two rings in turn; none before its port has
opened (R462). -/
def mayServe (s : State) (pf : Bool) : Bool :=
  let p := s.hport pf
  let o := s.hport (!pf)
  s.edgeOpen pf && !p.empty && !o.busy && (p.busy || decide (s.turn = pf) || o.empty)

/-- What the service core does with an entry: it answers it with a status and result words, or the entry waits. -/
inductive Served where
  | answer (s : State) (status : Nat) (res : List (Nat × Word))
  | wait (s : State)

/-- Word 0 of an entry with its status, DONE set. -/
def doneWord (w : Word) (status : Nat) : Word := setBits w 8 8 (128 + status)

/-- An entry is answered: its status and results are written, and MRHEAD advances. -/
def closeEntry (s : State) (pf : Bool) (status : Nat) (res : List (Nat × Word)) : State :=
  let p := s.hport pf
  let at_ := 16 * p.mrhead.toNat
  let ring := Map.set p.ring at_ (doneWord (Map.get p.ring 0 at_) status)
  let ring := res.foldl (fun (m : Map Word) r => Map.set m (at_ + r.1) r.2) ring
  let t := s.updHport pf (fun (p : HostPort) => { p with
    ring := ring
    mrlast := p.mrhead
    mrhead := p.mrhead + 1
    busy := false })
  { (if bitAt p.mrctl 0 then t.signal (if pf then 0x800 else 0) (bitsNat p.mrctl 16 11) else t) with turn := !pf }

/-- The service core takes the next entry of a ring where its OP is the one asked for; one that no command has is malformed,
whichever is asked for. -/
def serve (op : Nat) (pf : Bool) (s : State) (go : State → List Word → Served) : State :=
  if mayServe s pf then
    let ws := (s.hport pf).entry
    if entByte ws 0 = op then match go s ws with
      | .answer s st res => closeEntry s pf st res
      | .wait s => s.updHport pf (fun p => { p with busy := true })
    else if ringOps.contains (entByte ws 0) then s
    else closeEntry s pf (if securedOps.contains (entByte ws 0) then 2 else 3) []
  else s

/-- A command that only answers a status. -/
def plain (x : State × Nat) : Served := .answer x.1 x.2 []

/-! ## Partitions (R417-R419) -/

/-- The tree node that a partition holds; 0 where it holds none. -/
def State.partNode (s : State) (p : BitVec 5) : Nat := bitsNat (s.pcbW p 0) 22 6

/-- A partition is live: it holds a node. -/
def State.partLive (s : State) (p : BitVec 5) : Bool := decide (s.partNode p ≠ 0)

/-- A TDI of a function of the partition is LOCKED or RUN (R426). -/
def partLocked (s : State) (p : BitVec 5) : Bool :=
  s.vfPart.any (fun v => decide (v.2 = p) && (match Map.get s.tdi .unlocked v.1 with
    | .locked => true
    | .run => true
    | _ => false))

/-- A partition is idle (R418). -/
def partIdle (s : State) (p : BitVec 5) : Bool :=
  s.die.all (fun d =>
      d.2.task.all (fun t => decide (t.2.state = 0) || decide (t.2.part ≠ p))
      && d.2.slot.all (fun q => !(q.2.mapped && decide (q.2.part = p)))
      && d.2.engine.all (fun e => !(e.2.leased && decide (e.2.part = p)))
      && d.2.bar.all (fun b => !((b.2.alloc || decide (0 < b.2.ref)) && decide (b.2.part = p))))
    && s.region.all (fun g => decide (g.2.part ≠ p))

/-- A control block is well formed for a partition on its node (R419). -/
def blockWf (s : State) (p : BitVec 5) (b : List Word) : Bool :=
  let w := fun (off : Nat) => b.getD (off / 4) 0
  let d := fun (off : Nat) => (w off).toNat + (w (off + 4)).toNat * 2 ^ 32
  let c := w 0
  decide (bitsNat c 28 3 ≤ 3) && decide (bitsNat c 22 6 = s.partNode p) && decide (bitsNat c 17 5 = p.toNat) && !bitAt c 7
    && decide (1 ≤ bitsNat c 8 4) && decide (1 ≤ bitsNat c 0 7 ∧ bitsNat c 0 7 ≤ 64)
    && decide (bitsNat (w 4) 13 19 = 0) && decide (d 8 % 0x10000 = 0) && decide (d 0x10 % 0x100000 = 0)
    && decide (d 0x20 % 16 = 0) && decide (1 ≤ (w 0x28).toNat ∧ (w 0x28).toNat ≤ 65535) && decide (bitsNat (w 0x2C) 29 3 = 0)
    && decide (d 0x30 % 4096 = 0) && decide (w 0x3C = 0) && decide (d 0x40 % 16 = 0)
    && decide (4 ≤ (w 0x48).toNat ∧ (w 0x48).toNat ≤ 20)
    && decide (bitsNat (w 0x4C) 12 4 = 0) && decide (bitsNat (w 0x4C) 27 5 = 0) && decide (bitsNat (w 0x4C) 0 11 ≤ 1024)
    && !(bitAt (w 0x4C) 11 && decide (bitsNat (w 0x4C) 0 11 ≠ 0))
    && (b.drop 21).all (fun (x : Word) => decide (x = 0))

/-- Only PWRW, PWRA and ELOG differ from the present block. -/
def sameBut (s : State) (p : BitVec 5) (b : List Word) : Bool :=
  (List.range 21).all (fun i =>
    let old := s.pcbW p (4 * i)
    let new := b.getD i 0
    if i = 16 ∨ i = 17 ∨ i = 20 then true
    else if i = 0 then decide (setBits old 8 4 0 = setBits new 8 4 0)
    else decide (old = new))

/-- A control block takes effect: the event log ring is empty after it (R421), and the counts of decrements of a partition
that becomes VALID are cleared (R467). -/
def setBlock (s : State) (p : BitVec 5) (b : List Word) : State :=
  let fresh := !s.pcbValid p && bitAt (b.getD 0 0) 31
  let s := s.updPt p (fun x => { x with
    pcb := (b.take 32).zipIdx.map (fun w => (w.2, w.1))
    logged := 0
    repeats := 0 })
  if fresh then { s with
    dstale := Map.erase s.dstale p.toNat
    dover := Map.erase s.dover p.toNat } else s

/-- PSET (R419, R426): `block` is what the host's memory holds at the address of the entry. -/
def execPsetCommand (pf : Bool) (block : List Word) (s : State) : Host.Outcome State Fault Refusal :=
  .next (serve 0x10 pf s (fun s ws =>
    let p : BitVec 5 := BitVec.ofNat 5 (entByte ws 4)
    if 32 ≤ entByte ws 4 ∨ entZero ws 64 [(4, 1), (8, 8)] = false then plain (s, 3)
    else if s.partLive p = false then plain (s, 2)
    else if blockWf s p block = false then plain (s, 3)
    else if partLocked s p ∨ (partIdle s p = false ∧ sameBut s p block = false) then plain (s, 2)
    else plain (setBlock s p block, 0)))

/-- The operand of a command that names a partition alone. -/
def partOperand (ws : List Word) : Option (BitVec 5) :=
  if 32 ≤ entByte ws 4 ∨ entZero ws 64 [(4, 1)] = false then none else some (BitVec.ofNat 5 (entByte ws 4))

/-- The node of a partition changes. -/
def State.setPartNode (s : State) (p : BitVec 5) (n : Nat) : State :=
  s.updPt p (fun x => { x with pcb := Map.set x.pcb 0 (setBits (Map.get x.pcb 0 0) 22 6 n) })

/-- The lowest PART that no partition has. -/
def freePart (s : State) : Option Nat := (List.range 32).find? (fun i => !s.partLive (BitVec.ofNat 5 i))

/-- PSPLIT (R418): 2n keeps PART and the block, 2n + 1 takes the lowest free PART in state UNSET. None is created before the
clock switch (R464). -/
def execPsplit (pf : Bool) (s : State) : Host.Outcome State Fault Refusal :=
  .next (serve 0x11 pf s (fun s ws => match partOperand ws with
    | none => plain (s, 3)
    | some p =>
      let n := s.partNode p
      match freePart s with
      | none => plain (s, 2)
      | some q =>
        if n = 0 ∨ 32 ≤ n ∨ s.clk = false ∨ partIdle s p = false then plain (s, 2)
        else
          let q' : BitVec 5 := BitVec.ofNat 5 q
          let s := s.setPartNode p (2 * n)
          plain (s.setPt q' { pcb := [(0, BitVec.ofNat 32 ((2 * n + 1) * 2 ^ 22 + q * 2 ^ 17))] }, 0)))

/-- The partition that holds a node. -/
def holderOf (s : State) (n : Nat) : Option (BitVec 5) :=
  (s.part.find? (fun x => decide (bitsNat (Map.get x.2.pcb 0 0) 22 6 = n))).map (fun x => BitVec.ofNat 5 x.1)

/-- A partition owns a key slot or is assigned a function (R418). -/
def partEntangled (s : State) (p : BitVec 5) : Bool :=
  s.key.any (fun k => decide (k.1 ≠ 0) && k.2.live && decide (k.2.owner = p)) || s.vfPart.any (fun v => decide (v.2 = p))

/-- PMERGE (R418): the merged partition keeps PART and the block of child 2n. -/
def execPmerge (pf : Bool) (s : State) : Host.Outcome State Fault Refusal :=
  .next (serve 0x12 pf s (fun s ws => match partOperand ws with
    | none => plain (s, 3)
    | some p =>
      let n := s.partNode p
      match holderOf s (n + 1) with
      | none => plain (s, 2)
      | some q =>
        if n < 2 ∨ n % 2 = 1 ∨ partIdle s p = false ∨ partIdle s q = false ∨ partEntangled s q = true then plain (s, 2)
        else
          let s := s.setPartNode p (n / 2)
          plain ({ s with part := Map.erase s.part q.toNat }, 0)))

/-- STATE of a partition is written. -/
def State.setPartState (s : State) (p : BitVec 5) (v : Nat) : State :=
  s.updPt p (fun x => { x with pcb := Map.set x.pcb 0 (setBits (Map.get x.pcb 0 0) 28 3 v) })

/-- Regions of a partition. -/
def partRegions (s : State) (p : BitVec 5) : List Nat := (s.region.filter (fun x => decide (x.2.part = p))).map Prod.fst

/-- A snapshot of a course of the partition is in progress. -/
def partSnaps (s : State) (p : BitVec 5) : Bool :=
  s.region.any (fun x => decide (x.2.part = p) && decide (x.2.st ≠ .saved) && x.2.snap.isSome)

/-- PPRE (R404, R405, R427): every running course begins its snapshot and every load is abandoned; a second one lets them
come back. -/
def execPpre (pf : Bool) (s : State) : Host.Outcome State Fault Refusal :=
  .next (serve 0x13 pf s (fun s ws => match partOperand ws with
    | none => plain (s, 3)
    | some p =>
      if s.partLive p = false ∨ partLocked s p = true then plain (s, 2)
      else if partSnaps s p then plain (s, 1)
      else if s.preempted p then plain (s.setPartState p (if partIdle s p then 1 else 2), 0)
      else plain ((partRegions s p).foldl preemptCourse (s.setPartState p 3), 0)))

/-! ## Keys (R422, R423) -/

/-- A request that has passed its key check against `k` and is not yet performed; deferred reads of saved memory tiles are
among them. -/
def State.keyInUse (s : State) (k : BitVec 13) (p : BitVec 5 → Bool) : Bool :=
  (s.reqs ++ s.region.flatMap (fun x => x.2.asleep)).any (fun r => decide (r.stage = .home ∨ r.stage = .deferred) && p r.stamp.part && r.pas.any (fun x => decide (x.2 = k)))

/-- A key slot's lines once its key is gone: what stands in memory is their cipher text (R422, R423). -/
def dropLines (s : State) (k : BitVec 13) : State :=
  (s.lineKey.filter (fun x => decide (x.2 = k))).foldl (fun (s : State) x =>
    { s with
      mem := writeBytes s.mem (128 * x.1) ((s.sealLine x.1 k (readBytes s.mem (128 * x.1) 128)).take 128)
      lineKey := Map.set s.lineKey x.1 0 }) s

/-- An entry of a secured command: 128 bytes with the answer's STS; it stands in the DOE mailbox (R428). -/
def secured (pf : Bool) (op : Nat) (m : List Word) (s : State) (go : State → State × Nat) : State :=
  let ws := (m ++ List.replicate 32 0).take 32
  let r := if entByte ws 0 = op then go s else (s, 3)
  r.1.updHport pf (fun p => { p with doe := ws.set 0 (doneWord (ws.getD 0 0) r.2) })

/-- KLOAD (R422, R426): the key material is the 64 bytes from 64 on. -/
def execKload (pf : Bool) (m : List Word) (s : State) : Host.Outcome State Fault Refusal :=
  .next (secured pf 0x20 m s (fun s =>
    let k := entNat m 4 2
    let p : BitVec 5 := BitVec.ofNat 5 (entByte m 6)
    if 8192 ≤ k ∨ 32 ≤ entByte m 6 ∨ entZero m 128 [(4, 3), (8, 4), (64, 64)] = false ∨ s.partLive p = false then (s, 3)
    else if k = 0 ∨ (s.keySlot (BitVec.ofNat 13 k)).live = true ∨ partLocked s p = true then (s, 2)
    else
      ({ s with key := Map.set s.key k { live := true, owner := p, share := m.getD 2 0, key := (m.drop 16).take 16 } }, 0)))

/-- Every line of a key is written back and dropped from the caches (R293, R423). -/
def dropKey (s : State) (k : BitVec 13) : State := s.evict (fun l => decide (l.keyid = k))

/-- KSHARE (R423): SHARE changes at once for new requests; where partitions lose it, the command completes when their requests
have been performed and the lines of the key have been written back and dropped. -/
def execKshare (pf : Bool) (s : State) : Host.Outcome State Fault Refusal :=
  .next (serve 0x21 pf s (fun s ws =>
    let k := entNat ws 4 2
    let x := s.keySlot (BitVec.ofNat 13 k)
    let m := ws.getD 2 0
    if 8192 ≤ k ∨ entZero ws 64 [(4, 2), (8, 4)] = false then plain (s, 3)
    else if k = 0 ∨ x.live = false ∨ (partLocked s x.owner = true ∧ x.leaving = 0) then plain (s, 2)
    else
      let gone := (x.leaving ||| x.share) &&& ~~~m
      let put := fun (s : State) (gone : Word) => { s with key := Map.set s.key k { x with
        share := m
        leaving := gone } }
      if gone = 0 then plain (put s 0, 0)
      else if s.keyInUse (BitVec.ofNat 13 k) (fun p => decide (p ≠ x.owner) && gone.getLsbD p.toNat) then .wait (put s gone)
      else plain (put (dropKey s (BitVec.ofNat 13 k)) 0, 0)))

/-- KFREE (R423): no new request, then every request already checked is performed, then the lines are dropped. -/
def execKfree (pf : Bool) (s : State) : Host.Outcome State Fault Refusal :=
  .next (serve 0x22 pf s (fun s ws =>
    let k := entNat ws 4 2
    let x := s.keySlot (BitVec.ofNat 13 k)
    if 8192 ≤ k ∨ entZero ws 64 [(4, 2)] = false then plain (s, 3)
    else if k = 0 ∨ x.live = false ∨ (partLocked s x.owner = true ∧ x.closing = false) then plain (s, 2)
    else if s.keyInUse (BitVec.ofNat 13 k) (fun _ => true) then .wait { s with key := Map.set s.key k { x with closing := true } }
    else
      let s := dropLines (dropKey s (BitVec.ofNat 13 k)) (BitVec.ofNat 13 k)
      plain ({ s with key := Map.erase s.key k }, 0)))

/-! ## Invalidation (R245, R303, R344, R387) -/

/-- What an invalidation covers: a tenant or all, a range or all. -/
structure Cover where
  part : BitVec 5 := 0
  tenant : Option (BitVec 16) := none
  range : Option (Nat × Nat) := none

/-- A translation is covered. -/
def Cover.hits (c : Cover) (e : TlbEntry) : Bool :=
  decide (e.part = c.part) && c.tenant.all (fun t => decide (e.tenant = t))
    && c.range.all (fun r => decide (e.va < r.1 + r.2 ∧ r.1 < e.va + e.size))

/-- A copy of a table entry that may lead to a covered translation: of the partition's stage 2, or of a covered tenant. -/
def Cover.hitsTable (c : Cover) (e : TableEntry) : Bool :=
  decide (e.part = c.part) && (match e.tenant, c.tenant with
    | some t, some u => decide (t = u)
    | _, _ => true)

/-- A walk that looks for a covered translation. -/
def Cover.hitsWalk (c : Cover) (x : Walk) : Bool :=
  decide (x.part = c.part) && c.tenant.all (fun t => decide (x.tenant = t))
    && c.range.all (fun r => decide (x.page * 0x10000 < r.1 + r.2 ∧ r.1 < (x.page + 1) * 0x10000))

/-- A request that has left its port with a covered translation and is not yet performed. -/
def Cover.hitsReq (c : Cover) (r : Req) : Bool :=
  decide (r.stage = .home) && decide (r.stamp.part = c.part) && c.tenant.all (fun t => decide (r.stamp.tenant = t))
    && (wordVas r.va r.op.access.1).any (fun w => c.range.all (fun x => decide (x.1 ≤ w.2 ∧ w.2 < x.1 + x.2)))

/-- Every micro-TLB, walk cache and tracker drops what is covered: a walk in flight is marked stale, and a request that has
still to be performed is translated again before it goes on. -/
def dropTranslations (s : State) (c : Cover) : State :=
  let keep := fun (xs : List TlbEntry) => xs.filter (fun e => !c.hits e)
  { s with
    die := s.die.map (fun d => (d.1, { d.2 with
      tlb := keep d.2.tlb
      wcache := d.2.wcache.filter (fun e => !c.hitsTable e)
      walks := d.2.walks.map (fun x => if c.hitsWalk x then { x with stale := true } else x) }))
    tile := s.tile.map (fun t => (t.1, { t.2 with tlb := keep t.2.tlb }))
    reqs := s.reqs.map (fun r => if c.hitsReq r then { r with
      stage := .port
      queued := false } else r) }

/-- The ports and engines that hold an access of a partition. -/
def heldUnits (s : State) (p : BitVec 5) : List HeldUnit :=
  (s.tile.flatMap (fun t => (t.2.ports.filter (fun x => x.2.stream.any (fun st => st.held.isSome && decide (st.stamp.part = p)))).map (fun x =>
      HeldUnit.port (tileOfKey t.1) (BitVec.ofNat 4 x.1))))
    ++ s.die.flatMap (fun d => (d.2.engine.filter (fun e => e.2.held.isSome && (e.2.queue.head?).any (fun c => decide (c.stamp.part = p)))).map (fun e =>
      HeldUnit.engine (BitVec.ofNat 4 d.1) (BitVec.ofNat 2 (e.1 / 8)) (BitVec.ofNat 3 e.1)))

/-- A completed invalidation lets held units and held tasks of its partition try again. -/
def wakeHeld (s : State) (p : BitVec 5) : State :=
  { s with
    replays := s.replays ++ (heldUnits s p).filter (fun u => !s.replays.contains u)
    die := s.die.map (fun d => (d.1, { d.2 with
      task := d.2.task.map (fun t => (t.1, if t.2.part = p then { t.2 with paged := false } else t.2)) })) }

/-- INVAL (R303). -/
def execInval (pf : Bool) (s : State) : Host.Outcome State Fault Refusal :=
  .next (serve 0x30 pf s (fun s ws =>
    let fl := entByte ws 5
    let n := entNat ws 16 8
    let c : Cover := { part := BitVec.ofNat 5 (entByte ws 4),
                       tenant := if fl % 2 = 1 then none else some (BitVec.ofNat 16 (entNat ws 6 2)),
                       range := if fl / 2 % 2 = 1 then none else some (entNat ws 8 8, n) }
    if 32 ≤ entByte ws 4 ∨ 4 ≤ fl ∨ n % 0x10000 ≠ 0 ∨ entZero ws 64 [(4, 20)] = false ∨ s.partLive c.part = false then plain (s, 3)
    else plain (wakeHeld (dropTranslations s c) c.part, 0)))

/-! ## Queues and functions (R426, R429, R431) -/

/-- A function number with its PFS bit is well formed (R419, R428). -/
def fnOk (f : Nat) : Bool := decide (f < 4096) && decide (f % 2048 ≤ 1024) && (decide (f < 2048) || decide (f = 2048))

/-- QREG (R429): the record is read once, and the hash of its privileged bytes is kept. -/
def execQreg (pf : Bool) (s : State) : Host.Outcome State Fault Refusal :=
  .next (serve 0x40 pf s (fun s ws =>
    let p : BitVec 5 := BitVec.ofNat 5 (entByte ws 4)
    let f := entNat ws 6 2
    let q := entByte ws 8
    let a := entNat ws 16 8
    if 32 ≤ entByte ws 4 ∨ 16 ≤ entByte ws 5 ∨ fnOk f = false ∨ 64 ≤ q ∨ entZero ws 64 [(4, 5), (16, 8)] = false
        ∨ s.partLive p = false then plain (s, 3)
    else if (s.queueReg (BitVec.ofNat 12 f) (BitVec.ofNat 6 q)).isSome then plain (s, 2)
    else
      let s := s.usePart p a 256 (s.stagingStamp p).keyid
      match s.readPart p a 256 (s.stagingStamp p).keyid with
      | .error _ => plain (s, 2)
      | .ok bs =>
        let r : QReg := { vec := leNat ((bs.drop 0x24).take 2), fn := BitVec.ofNat 12 f, q := BitVec.ofNat 6 q, part := p, tenant := BitVec.ofNat 16 (leNat ((bs.drop 8).take 2)),
                          die := BitVec.ofNat 4 (entByte ws 5), addr := BitVec.ofNat 52 a, shadow := sha256 (bs.take 0x80) }
        plain ({ s with qreg := s.qreg ++ [r] }, 0)))

/-- A registered queue is unmapped, where it is mapped, and forgotten; a doorbell that waits for its slot may take it. -/
def forgetQueue (s : State) (r : QReg) : State :=
  let s' := match s.slotOf r with
    | some i => unmapSlot s r.die i
    | none => s
  let s' : State := { s' with qreg := s'.qreg.filter (fun x => !(decide (x.fn = r.fn) && decide (x.q = r.q))) }
  serveHeld s' r.die r.part

/-- QUNREG (R427). -/
def execQunreg (pf : Bool) (s : State) : Host.Outcome State Fault Refusal :=
  .next (serve 0x41 pf s (fun s ws =>
    let f := entNat ws 6 2
    let q := entByte ws 8
    if fnOk f = false ∨ 64 ≤ q ∨ entZero ws 64 [(6, 3)] = false then plain (s, 3)
    else match s.queueReg (BitVec.ofNat 12 f) (BitVec.ofNat 6 q) with
      | none => plain (s, 2)
      | some r => plain (forgetQueue s r, 0)))

/-- A TDI is LOCKED or RUN. -/
def tdiLocked (s : State) (vf : Nat) : Bool := match Map.get s.tdi .unlocked vf with
  | .locked => true
  | .run => true
  | _ => false

/-- FASSIGN (R426): of a VF of the PF whose ring holds the command (log entry 57). -/
def execFassign (pf : Bool) (s : State) : Host.Outcome State Fault Refusal :=
  .next (serve 0x50 pf s (fun s ws =>
    let p : BitVec 5 := BitVec.ofNat 5 (entByte ws 4)
    let vf := entNat ws 6 2
    if 32 ≤ entByte ws 4 ∨ vf = 0 ∨ 1024 < vf ∨ entZero ws 64 [(4, 1), (6, 2)] = false then plain (s, 3)
    else if s.partLive p = false ∨ tdiLocked s vf = true ∨ s.vfPort vf ≠ some pf then plain (s, 2)
    else plain ({ s with vfPart := Map.set s.vfPart vf p }, 0)))

/-- Every queue of a partition enters error. -/
def partQueuesError (s : State) (p : BitVec 5) (reason : Nat) : State :=
  (s.qreg.filter (fun r => decide (r.part = p))).foldl (fun s r => regError s r.fn r.q reason) s

/-- TDI_ERROR (R426, R431). -/
def execTdiError (vf : BitVec 11) (s : State) : Host.Outcome State Fault Refusal :=
  let s' : State := { s with tdi := Map.set s.tdi vf.toNat .error }
  .next (match Map.find s.vfPart vf.toNat with
  | none => s'
  | some p => partQueuesError s' p 6)

/-- TDISP_REQUEST (R426): UNLOCKED to LOCKED, or LOCKED to RUN. -/
def execTdispRequest (vf : BitVec 11) (run : Bool) (s : State) : Host.Outcome State Fault Refusal :=
  .next (match Map.get s.tdi .unlocked vf.toNat, run with
  | .unlocked, false => { s with tdi := Map.set s.tdi vf.toNat .locked }
  | .locked, true => { s with tdi := Map.set s.tdi vf.toNat .run }
  | _, _ => s)

/-- FLR (R424): the registers of the function return to their reset values; with a PF's, NumVFs and the registers of its VFs. -/
def execFlr (fn : BitVec 12) (s : State) : Host.Outcome State Fault Refusal :=
  let south := bitAt fn 11
  let s' : State := { s with ats := Map.erase s.ats fn.toNat }
  .next (if bitsNat fn 0 11 = 0 then
    let s'' : State := { s' with ats := s'.ats.filter (fun x => decide (s.vfPort x.1 ≠ some south)) }
    s''.updHport south (fun p => { p with
      numVfs := 0
      mrtail := 0
      mrhead := 0
      mrctl := 0
      mrlast := 0
      busy := false
      ring := []
      doe := [] })
  else s')

end Sys2Proof.Machine
end

