-- ==== Sys2Proof/Machine/BringUp.lean ====
section
/-! DEFINITION. Cold reset, bring-up, temperature, power intervals, and the registers of the management page
(R10-R12, R261, R287, R292, R428, R433, R435, R445, R462-R468). -/

namespace Sys2Proof.Machine

/-! ## Reset (R11, R445, R462) -/

/-- What outlasts a loss of power: the counters in secure storage; and the model's own account of what comes next. -/
def afterReset (s : State) : State :=
  { State.reset with
    agenda := s.agenda
    taken := s.taken
    counter := s.counter }

/-- COLD_RESET (R462): steps 1 to 3 of every die. `stop` are the dies that fail step 1 or 2, and `fail`
those that fail step 3; a die goes no further than the step it fails. -/
def execColdReset (stop : BootStop) (fail : BitVec 18) (meas : List Byte) (s : State) : Host.Outcome State Fault Refusal :=
  .next { afterReset s with
    rom := stop.rom ||| stop.image
    fwfail := decide (stop.image &&& ~~~stop.rom ≠ 0)
    stfail := fail &&& ~~~(stop.rom ||| stop.image)
    booted := ~~~(stop.rom ||| stop.image ||| fail)
    fwmeas := meas }

/-- POWER_LOSS (R445). -/
def execPowerLoss (s : State) : Host.Outcome State Fault Refusal := .next (afterReset s)

/-! ## Bring-up (R462-R465) -/

/-- DIE_ADMIT (R462, R463): step 4 of a die that has passed steps 1 to 3 since the reset; it acts as admitted from the next
cycle. A die that was removed is admitted no more (R466). -/
def execDieAdmit (die : BitVec 5) (s : State) : Host.Outcome State Fault Refusal :=
  let d := die.toNat
  .next (if d < 18 ∧ bitAt s.booted d = true ∧ bitAt s.stfail d = false ∧ bitAt s.dadm d = false then { s with
    dadm := setBits s.dadm d 1 1
    admitting := setBits s.admitting d 1 1 } else s)

/-- Every channel's capacity is the same, at most 512 GiB (R289). -/
def ddrCapacity : Nat := min Config.ddrChannel (2 ^ 39)

/-- DIE_FULL_SERVICE (R462, R465): steps 5 and 6, once. The DDR-5 tier is there once both edge dies have trained their channels;
an edge die that fails its training stays where it is. -/
def execDieFullService (die : BitVec 5) (passed : BitVec 6) (s : State) : Host.Outcome State Fault Refusal :=
  let d := die.toNat
  .next (if d < 18 ∧ bitAt s.dadm d = true ∧ bitAt s.full d = false ∧ bitAt s.stfail d = false then
    let s := { s with stfail := if passed = 0x3F then s.stfail else setBits s.stfail d 1 1 }
    if d < 16 then { s.updDie (BitVec.ofNat 4 d) (fun x => { x with fmask := passed }) with full := setBits s.full d 1 1 }
    else
      let f : BitVec 18 := if passed = 0 then s.full else setBits s.full d 1 1
      { s with
        full := f
        ddr := if bitsNat f 16 2 = 3 then ddrCapacity else s.ddr }
  else s)

/-- Every admitted compute die has passed step 6. -/
def allFull (s : State) : Bool := decide (bitsNat s.dadm 0 16 ≠ 0) && (List.range 16).all (fun d => !bitAt s.dadm d || bitAt s.full d)

/-- CLOCK_SWITCH (R464). The service core has by then read the inlet temperature that THERM shows (R467; DESIGN CHOICE, log entry 59). -/
def execClockSwitch (s : State) : Host.Outcome State Fault Refusal := .next (if allFull s then { s with
    clk := true
    inlet := Config.coolant } else s)

/-- WARM_RECALIBRATION (R465): only of a clear bit, after step 6, while the die holds no resident region and
no load; a saved course holds none (R404). -/
def execWarmRecalibration (die : BitVec 4) (feature : BitVec 3) (pass : Bool) (s : State) : Host.Outcome State Fault Refusal :=
  let x := s.dieAt die
  .next (if feature.toNat < 6 ∧ bitAt s.full die.toNat = true ∧ x.fmask.getLsbD feature.toNat = false
      ∧ s.region.all (fun g => decide (g.2.die ≠ die ∨ g.2.st = .saved)) = true ∧ pass = true then
    s.setDie die { x with fmask := setBits x.fmask feature.toNat 1 1 }
  else s)

/-! ## Temperature (R466) -/

/-- The live tasks of a die that leaves admission: their regions are reset and they retire FAILED with SOFT. -/
def failLive (s : State) (d : BitVec 4) : State :=
  let s := s.updDie d (fun x => { x with job := none })
  let live := ((s.dieAt d).task.filter (fun x => x.2.live)).map Prod.fst
  live.foldl (fun s i => if (s.task d i).live then failTask (discard s d i) d i causeSoft else s) s

/-- A die leaves admission: its live tasks fail; the pod links of an edge die, whose ports close, are down. -/
def removeDie (s : State) (die : BitVec 5) : State :=
  let s : State := { s with
    dadm := setBits s.dadm die.toNat 1 0
    stfail := setBits s.stfail die.toNat 1 1 }
  if die.toNat < 16 then failLive s (BitVec.setWidth 4 die)
  else { s with linkUp := setBits s.linkUp (8 * (die.toNat - 16)) 8 0 }

/-- What a die does with its own junction temperature (R466). -/
def measured (s : State) (die : BitVec 5) (celsius : Nat) : State :=
  if 18 ≤ die.toNat then s
  else
    let s : State := { s with
      temp := Map.set s.temp die.toNat celsius
      throttled := if 105 ≤ celsius then setBits s.throttled die.toNat 1 1
        else if celsius < 100 then setBits s.throttled die.toNat 1 0 else s.throttled }
    if 115 ≤ celsius then removeDie s die else s

/-- THERMAL_THROTTLE (R466): a measurement; at 105 °C or above the die is throttled. -/
def execThermalThrottle (die : BitVec 5) (celsius : Nat) (s : State) : Host.Outcome State Fault Refusal :=
  .next (measured s die celsius)

/-- THERMAL_RECOVER (R466): a measurement; below 100 °C the die is throttled no more. -/
def execThermalRecover (die : BitVec 5) (celsius : Nat) (s : State) : Host.Outcome State Fault Refusal :=
  .next (measured s die celsius)

/-- THERMAL_REMOVAL (R466, R468): a measurement; at 115 °C or above the die is admitted again only after cold reset. -/
def execThermalRemoval (die : BitVec 5) (celsius : Nat) (s : State) : Host.Outcome State Fault Refusal :=
  .next (measured s die celsius)

/-! ## Power (R433) -/

/-- Cycles of an interval. -/
def intervalCycles : Nat := 2 ^ 20

/-- The caps of the module's dies sum to at most this. -/
def capSum : Nat := 3019

/-- A partition has tiles on a die (R417). -/
def partOnDie (s : State) (d : BitVec 4) (p : Nat) : Bool :=
  let n := s.partNode (BitVec.ofNat 5 p)
  treeCovers n d 0 || treeCovers n d 32

/-- The accounts of a new interval: what a partition left unspent goes to the pool, what it overdrew it carries on. -/
def newAccounts (s : State) (d : BitVec 4) : State :=
  let ps := (s.part.map Prod.fst).filter (fun p => partOnDie s d p || (Map.find (s.dieAt d).account p).isSome)
  let left := (ps.map (fun p => (max 0 (s.balance d p)).toNat)).sum
  let acc := ps.map (fun p => (p, (s.pwra p : Int) + min 0 (s.balance d p)))
  s.updDie d (fun x => { x with
    account := acc
    pool := left
    interval := x.ctr / intervalCycles })

/-- An interval of the die's own counter is over. An edge die has no counter (log entry 58). -/
def intervalOver (s : State) (d : Nat) : Bool :=
  decide (16 ≤ d) || decide ((s.dieAt (BitVec.ofNat 4 d)).interval < (s.dieAt (BitVec.ofNat 4 d)).ctr / intervalCycles)

/-- POWER_INTERVAL_END (R433): `cap` is the die's cap for the next interval. -/
def execPowerIntervalEnd (die : BitVec 5) (cap : Nat) (used : List (Nat × Nat)) (s : State) : Host.Outcome State Fault Refusal :=
  let d := die.toNat
  .next (if d < 18 ∧ intervalOver s d = true then
    let s := if d < 16 then newAccounts (charge s (BitVec.setWidth 4 die) used) (BitVec.setWidth 4 die)
      else { s with spent := Map.modify s.spent 0 d (· + (used.map Prod.snd).sum) }
    let others := ((s.cap.filter (fun x => decide (x.1 ≠ d))).map Prod.snd).sum
    { s with
      spentLast := Map.set s.spentLast d (Map.get s.spent 0 d)
      spent := Map.erase s.spent d
      capped := setBits s.capped d 1 0
      cap := if others + cap ≤ capSum then Map.set s.cap d cap else s.cap }
  else s)

/-- POWER_CAP_EXCEEDED (R433): `more` is what the die has been metered for in the interval and is charged to no partition yet. -/
def execPowerCapExceeded (die : BitVec 5) (more : Nat) (s : State) : Host.Outcome State Fault Refusal :=
  .next (if die.toNat < 18 ∧ Map.get s.cap 0 die.toNat < Map.get s.spent 0 die.toNat + more then
    { s with capped := setBits s.capped die.toNat 1 1 } else s)

/-! ## Registers (R10, R12, R261, R287, R292, R428, R435, R467, R468) -/

/-- Words of a PF's ring and its registers that a host writes (R428); every other place of the page is read-only. -/
def writeMgmt (s : State) (pf : Bool) (off : Nat) (v : Word) : State :=
  if off = 0x400 then s.updHport pf (fun p => { p with mrtail := bits v 0 6 })
  else if off = 0x408 then s.updHport pf (fun p => { p with mrctl := v &&& 0x07FF0001 })
  else if 0x1000 ≤ off ∧ off < 0x1200 ∧ off % 8 = 0 then doorbell s (if pf then 0x800 else 0) (BitVec.ofNat 6 ((off - 0x1000) / 8)) v
  else if 0x2000 ≤ off ∧ off < 0x3000 then s.updHport pf (fun p => { p with ring := Map.set p.ring ((off - 0x2000) / 4) v })
  else s

/-- A write of a VF to its BAR0: its doorbells; every other write is ignored (R428, R430, R467). -/
def writeVf (s : State) (fn : BitVec 12) (off : Nat) (v : Word) : State :=
  if 0x1000 ≤ off ∧ off < 0x1200 ∧ off % 8 = 0 then doorbell s fn (BitVec.ofNat 6 ((off - 0x1000) / 8)) v else s

/-- NumVFs of a PF: the two sum to at most 1,024 (R424); a larger number changes nothing (log entry 57). -/
def writeNumVfs (s : State) (south : Bool) (n : Nat) : State :=
  if n + (s.hport (!south)).numVfs ≤ 1024 then s.updHport south (fun p => { p with numVfs := n }) else s

/-- REGISTER_WRITE (R10, R12, R261, R292, R424, R428, R430, R435, R467). -/
def execRegisterWrite (r : RegWrite) (s : State) : Host.Outcome State Fault Refusal :=
  .next (match r with
  | .mgmt pf off v => if s.edgeOpen pf then writeMgmt s pf off.toNat v else s
  | .vf fn off v => if s.edgeOpen (s.fnPort fn) then writeVf s fn off.toNat v else s
  | .dcfg die v => s.updDie die (fun x => { x with dcfg := v &&& 0x3FF })
  | .waymask part v => s.updPt part (fun p => { p with waymask := v })
  | .podid v => { s with podid := v &&& 0x800003FF }
  | .numVfs south n => writeNumVfs s south n.toNat
  | .ats fn on => { s with ats := Map.set s.ats fn.toNat on })

/-- Base and size of a band of HBM4 (R287). -/
def bandBase (n : Nat) : Nat := n * 2 ^ 34
def bandSize : Nat := 2 ^ 34

/-- A band changes its mode: scrubbed to zero, every line EMPTY; only while no partition's stage 2 reaches it. -/
def changeBand (s : State) (v : BitVec 64) (n : Nat) : State :=
  if bitAt v n = bitAt s.hbmode n ∨ reachers s (bandBase n) bandSize ≠ [] then s
  else
    let s := (s.clearRange (bandBase n) bandSize).evict (fun l => decide (bandBase n ≤ 128 * l.line ∧ 128 * l.line < bandBase n + bandSize))
    { s with
      hbmode := setBits s.hbmode n 1 (bitsNat v n 1)
      lineKey := s.lineKey.filter (fun x => decide (128 * x.1 < bandBase n ∨ bandBase n + bandSize ≤ 128 * x.1)) }

/-- HBMODE_WRITE (R287). -/
def execHbmodeWrite (v : BitVec 64) (s : State) : Host.Outcome State Fault Refusal :=
  .next ((List.range 48).foldl (fun s n => changeBand s v n) s)

/-! ## What the management page reads (R428, R435, R467, R468) -/

/-- LEVEL of DSTAT. -/
def levelOf (s : State) : Nat :=
  if bitsNat s.dadm 0 16 = 0 then (if bitsNat (s.rom ||| s.stfail) 0 16 = 0xFFFF then 3 else 0) else if s.clk then 2 else 1

def dstat (s : State) : Word :=
  BitVec.ofNat 32 (levelOf s * 2 ^ 30 + (if s.fwfail then 2 ^ 29 else 0) + (if s.clk then 2 ^ 28 else 0) + s.stfail.toNat)

def thermWord (s : State) : Word :=
  BitVec.ofNat 32 ((s.temp.map Prod.snd).foldl max 0 % 256 * 2 ^ 16 + s.inlet.toNat * 2 ^ 8 + (if s.throttled = 0 then 0 else 1))

/-- A register of the management page or of a PF's ring, as the PF reads it. -/
def readMgmt (s : State) (pf : Bool) (off : Nat) : Word :=
  let p := s.hport pf
  if off = 0 then 0xD5160100
  else if off = 4 then dstat s
  else if off = 8 then BitVec.setWidth 32 s.dadm
  else if off = 0xC then s.podid
  else if off = 0x10 then thermWord s
  else if off = 0x14 then BitVec.ofNat 32 (s.spentLast.map Prod.snd).sum
  else if 0x40 ≤ off ∧ off < 0x80 then BitVec.setWidth 32 (s.fmaskOf (BitVec.ofNat 4 ((off - 0x40) / 4)))
  else if 0x80 ≤ off ∧ off < 0xC8 then Map.get s.cecnt 0 ((off - 0x80) / 4)
  else if 0x100 ≤ off ∧ off < 0x200 then
    if off % 8 = 0 then Map.get s.dstale 0 ((off - 0x100) / 8) else Map.get s.dover 0 ((off - 0x100) / 8)
  else if 0x200 ≤ off ∧ off < 0x220 then BitVec.ofNat 32 (leNat ((s.fwmeas.drop (off - 0x200)).take 4))
  else if off = 0x400 then BitVec.setWidth 32 p.mrtail
  else if off = 0x404 then BitVec.setWidth 32 p.mrhead
  else if off = 0x408 then p.mrctl
  else if off = 0x40C then BitVec.ofNat 32 ((if p.busy then 2 ^ 31 else 0) + p.mrlast.toNat)
  else if 0x2000 ≤ off ∧ off < 0x3000 then Map.get p.ring 0 ((off - 0x2000) / 4)
  else 0

end Sys2Proof.Machine
end

