-- ==== Sys2Proof/Machine/PodIn.lean ====
section
/-! DEFINITION. The receiving side of the pod: grants, requests and decrements of peer modules, links, and the pod commands
(R434-R438, R441-R444). -/

namespace Sys2Proof.Machine

/-! ## Grants (R437, R438) -/

/-- Bits of a grant's rights (R428). -/
def rightR : Nat := 0
def rightW : Nat := 1
def rightS : Nat := 2

/-- A grant holds any of R, W and S. -/
def Grant.memory (g : Grant) : Bool := g.rights.getLsbD rightR || g.rights.getLsbD rightW || g.rights.getLsbD rightS

/-- The grant that serves the memory requests of a source. -/
def State.memoryGrant (s : State) (m : BitVec 10) (t : BitVec 16) : Option Grant :=
  s.grant.find? (fun g => g.ofSource m t && g.memory && !g.revoking)

/-- A grant is the one of (SRCMOD, SRCTEN, PART). -/
def Grant.sameKey (g x : Grant) : Bool := g.ofSource x.srcMod x.srcTenant && decide (g.part = x.part)

/-- PODGRANT (R438). -/
def execPodgrant (pf : Bool) (s : State) : Host.Outcome State Fault Refusal :=
  .next (serve 0x60 pf s (fun s ws =>
    let x : Grant := { srcMod := BitVec.ofNat 10 (entNat ws 4 2), srcTenant := BitVec.ofNat 16 (entNat ws 6 2), part := BitVec.ofNat 5 (entByte ws 8),
                       tenant := BitVec.ofNat 16 (entNat ws 10 2), keyid := BitVec.ofNat 13 (entNat ws 12 2), rights := BitVec.ofNat 4 (entByte ws 14) }
    if 1024 ≤ entNat ws 4 2 ∨ 32 ≤ entByte ws 8 ∨ 8192 ≤ entNat ws 12 2 ∨ 16 ≤ entByte ws 14
        ∨ entZero ws 64 [(4, 5), (10, 5)] = false ∨ s.partLive x.part = false then plain (s, 3)
    else if x.memory ∧ s.grant.any (fun g => g.ofSource x.srcMod x.srcTenant && decide (g.part ≠ x.part) && g.memory) = true then plain (s, 2)
    else
      let others := s.grant.filter (fun g => !g.sameKey x)
      if 16384 ≤ others.length then plain (s, 1) else plain ({ s with grant := others ++ [x] }, 0)))

/-- A request accepted under a grant is not yet performed. -/
def grantInUse (s : State) (g : Grant) : Bool :=
  s.reqs.any (fun r => decide (r.stamp.part = g.part) && decide (r.msg.srcTenant = g.srcTenant) && (match r.who with
    | .peer m _ => decide (m = g.srcMod)
    | _ => false))

/-- PODREVOKE (R438): no new request, then those already accepted are performed. -/
def execPodrevoke (pf : Bool) (s : State) : Host.Outcome State Fault Refusal :=
  .next (serve 0x61 pf s (fun s ws =>
    let x : Grant := { srcMod := BitVec.ofNat 10 (entNat ws 4 2), srcTenant := BitVec.ofNat 16 (entNat ws 6 2), part := BitVec.ofNat 5 (entByte ws 8) }
    if 1024 ≤ entNat ws 4 2 ∨ 32 ≤ entByte ws 8 ∨ entZero ws 64 [(4, 5)] = false then plain (s, 3)
    else match s.grant.find? (fun g => g.sameKey x) with
      | none => plain (s, 2)
      | some g =>
        if grantInUse s g then .wait { s with grant := s.grant.map (fun y => if y.sameKey x then { y with revoking := true } else y) }
        else plain ({ s with grant := s.grant.filter (fun y => !y.sameKey x) }, 0)))

/-- PODRT (R436, R438). -/
def execPodrt (pf : Bool) (s : State) : Host.Outcome State Fault Refusal :=
  .next (serve 0x62 pf s (fun s ws =>
    let m := entNat ws 4 2
    if 1024 ≤ m ∨ entZero ws 64 [(4, 4)] = false then plain (s, 3)
    else plain ({ s with route := Map.set s.route m (BitVec.ofNat 16 (entNat ws 6 2)) }, 0)))

/-! ## Requests of peer modules (R437) -/

/-- The right that a request needs; a recovery query and an acknowledgement need none (DESIGN CHOICE, log entry 126). -/
def PodOp.right : PodOp → Option Nat
  | .write _ => some rightW
  | .read _ => some rightR
  | .add _ => some rightS
  | .query => none
  | .ack => none

/-- What the module's homes are asked to do for a request. -/
def PodOp.op : PodOp → Op
  | .write ws => .store ws
  | .read line => .load (if line then 16 else 1)
  | .add n => .atomic 0 0 (PWord.clean n)
  | .query => .probe
  | .ack => .probe

/-- Writes are of 4 or 64 bytes (R434). -/
def PodOp.sized : PodOp → Bool
  | .write ws => decide (ws.length = 1 ∨ ws.length = 16)
  | _ => true

/-- The origin record of a receiving pod port, and its edge die (R378, R434). -/
def podOrigin (port : BitVec 4) (cause : BitVec 8) : Word := originWord port.toNat 0 2 0 true cause
def podDie (port : BitVec 4) : BitVec 5 := if port.toNat < 8 then 16 else 17

/-- The answer to a request leaves on the port on which it came. -/
def replyPeer (s : State) (m : BitVec 10) (port : BitVec 4) (x : PodReply) : State :=
  { s with podSent := s.podSent ++ [{ mod := m, port := port, reply := some x }] }

/-- The partition whose log a refusal enters: that of the grant which serves the source's requests, else of any grant of the
source, else partition 0. -/
def refusalPart (s : State) (m : BitVec 10) (t : BitVec 16) : BitVec 5 :=
  match (s.memoryGrant m t).orElse (fun _ => s.grant.find? (fun g => g.ofSource m t)) with
  | some g => g.part
  | none => 0

/-- A refused request: its reason goes back, and it enters an event log. -/
def refusePeer (s : State) (r : PodMessage) (reason : Nat) (cause : BitVec 8) : State :=
  let c := if reason = 1 then causeRemote else cause
  replyPeer (logEvent s (refusalPart s r.srcMod r.srcTenant) (podOrigin r.port c) c (podDie r.port)) r.srcMod r.port { tag := r.tag, reason := some reason, cause := cause, cond := false }

/-- The address check of a request: its words under R300 with the grant's key, and what the host gives for them where it has
said so (R425). -/
def checkPeer (s : State) (st : Stamp) (va : BitVec 56) (op : Op) :
    Except (BitVec 8) (List (Nat × BitVec 13) × Option (List (Nat × BitVec 13))) :=
  let a := op.access
  match s.checkAccess {} st true (wordVas va a.1) a.2.1 (if a.1 = 16 then 64 else a.2.2) with
  | .error d => .error d.cause
  | .ok ps =>
    if ps.any (fun p => s.tearing st.part st.tenant p.1) then .error causePage
    else .ok (ps, ps.mapM (fun p => (s.hostAddr st.part st.tenant p.1).map (fun x => (x, p.2))))

/-- A request of a peer under its grant: refused by the address check, or it waits for the host's translation (R425), or goes on to
its home. -/
def admitPeer (s : State) (q : Req) : State :=
  match checkPeer s q.stamp q.va q.op with
  | .error c => refusePeer (s.dropReq q.id) q.msg 2 c
  | .ok (ps, none) => s.setReq { q with
      stage := .ats
      pri := false
      pas := ps
      gen := Map.get s.pasidGen 0 (s.pasidOf q.stamp.part q.stamp.tenant).toNat }
  | .ok (_, some ps) => goHome s { q with
      pri := false
      pas := ps } (match ps with
        | p :: _ => s.placeOf p.1 (edgeRouter (decide (8 ≤ q.podPort.toNat)) 1)
        | [] => podPlace q.podPort)

/-- What goes back to a peer for a request that its home has performed: a refusal by the home's own checks is reason 2. -/
def peerReply (tag : Nat) (op : Op) (a : Answer) : PodReply :=
  match a.fault with
  | some f => { tag := tag, reason := some 2, cause := f.cause, cond := false }
  | none => match op with
    | .atomic _ _ _ => { tag := tag, cond := a.words.all (fun w => !w.psn) }
    | .load _ => { tag := tag, words := a.words, cond := a.words.all (fun w => !w.psn) }
    | _ => { tag := tag }

/-- A recovery query of a peer (R317, R442): answered from the log, or after the request that still waits, or with NOTTAKEN. -/
def peerQuery (s : State) (r : PodMessage) : State :=
  let mine := fun (x : Req) => decide (x.msg.node = r.node) && decide (x.msg.seq = r.seq) && (match x.who, x.op with
    | .peer m _, .atomic .. => decide (m = r.srcMod)
    | _, _ => false)
  match s.logs.find? (fun x => decide (x.mod = some r.srcMod) && decide (x.node = r.node) && decide (x.seq = r.seq)) with
  | some x => replyPeer s r.srcMod r.port (peerReply r.tag (.atomic 0 0 {}) x.ans)
  | none => match s.reqs.find? mine with
    | some q => s.setReq { q with asks := q.asks ++ [r.tag] }
    | none => replyPeer s r.srcMod r.port { tag := r.tag, cond := false, notTaken := true }

/-- A peer acknowledges an answer: its log entry is freed (R317, R442). -/
def peerAck (s : State) (r : PodMessage) : State :=
  { s with logs := s.logs.filter (fun x => !(decide (x.mod = some r.srcMod) && decide (x.node = r.node) && decide (x.seq = r.seq))) }

/-- A memory request of a peer (R437). One whose host port has no room stays with the peer (R424). -/
def peerRequest (s : State) (r : PodMessage) (right : Nat) : State :=
  match s.memoryGrant r.srcMod r.srcTenant with
  | none => refusePeer s r 1 0
  | some g =>
    if g.rights.getLsbD right = false then refusePeer s r 1 0
    else
      let st : Stamp := { part := g.part, tenant := g.tenant, keyid := g.keyid }
      let q : Req := { id := s.serial, who := .peer r.srcMod r.tag, stamp := st, va := r.va, op := PodOp.op r.op, podPort := r.port
                       leaving := false, place := some (podPlace r.port), msg := r }
      let full := match checkPeer s st r.va q.op with
        | .ok (ps, _) => s.noRoom ps
        | .error _ => false
      if full then s
      else admitPeer { s with
        serial := s.serial + 1
        reqs := s.reqs ++ [q] } q

/-- POD_REQUEST_ARRIVAL (R434, R437, R442). -/
def execPodRequestArrival (r : PodMessage) (s : State) : Host.Outcome State Fault Refusal :=
  .next (if bitAt s.linkUp r.port.toNat = false ∨ PodOp.sized r.op = false then s
    else match r.op, PodOp.right r.op with
      | .query, _ => peerQuery s r
      | .ack, _ => peerAck s r
      | _, some k => peerRequest s r k
      | _, none => s)

/-! ## Decrements of peer modules (R444) -/

/-- REMOTE_DECREMENT (R444): the message goes on to the dispatcher of the die that the reference names. -/
def execRemoteDecrement (r : PodDecrement) (s : State) : Host.Outcome State Fault Refusal :=
  let m : DecMsg := { id := s.serial, pod := some (r.port, r.srcMod, r.srcTenant), src := refDie r.ref, ref := r.ref, exp := r.exp, rb := r.rb }
  .next (if bitAt s.linkUp r.port.toNat = false then s else { s with
    serial := s.serial + 1
    decs := s.decs ++ [m] })

/-! ## Links (R436, R442) -/

/-- POD_LINK_UP (R436). -/
def execPodLinkUp (port : BitVec 4) (s : State) : Host.Outcome State Fault Refusal :=
  .next (if s.edgeOpen (decide (8 ≤ port.toNat)) then { s with linkUp := setBits s.linkUp port.toNat 1 1 } else s)

/-- A request that is outstanding on a port. -/
def outstandingOn (port : BitVec 4) (r : Req) : Bool := r.op.podMod.isSome && decide (r.stage = .home) && decide (r.podPort = port)

/-- What becomes of an outstanding request: a latch access gets no answer, every other one is refused with reason 3. -/
def linkLost (s : State) (r : Req) : State := match r.who with
  | .latch _ _ => s.dropReq r.id
  | _ => refuseReq s r (remoteFault r.va (r.op.podMod.getD 0) 3 0 r.who.path)

/-- POD_LINK_FAILURE (R441, R442). -/
def execPodLinkFailure (port : BitVec 4) (s : State) : Host.Outcome State Fault Refusal :=
  let s' : State := { s with linkUp := setBits s.linkUp port.toNat 1 0 }
  .next ((s.reqs.filter (outstandingOn port)).foldl linkLost s')

end Sys2Proof.Machine
end

