-- ==== Sys2Proof/Machine/Homes.lean ====
section
/-! DEFINITION. HOME_REQUEST: a home performs an arriving request in the order of its location: memory, the die's dispatcher
and engines, tiles, nodes, the course's snapshots, and the peer modules (R273, R284, R306, R316, R317, R355-R364, R441-R443). -/

namespace Sys2Proof.Machine

/-- An answer that changes no more than its state. -/
def settled (x : State × Answer) : Performed := .done x.1 x.2

/-- A unit, or a home of memory, performs a request. -/
def perform (s : State) (r : Req) : Performed :=
  let n := r.stamp.issuer
  match r.op with
  | .flush south => .done (landAll s south) {}
  | .restore d => (match unitTouch s r.stamp r.va.toNat (restLength s r) false with
    | (s, true) => settled (performRest s r d)
    | (_, false) => .wait)
  | .saveImage d => (match unitTouch s r.stamp r.va.toNat (saveLength s r d) true with
    | (s, true) => settled (performSave s r d)
    | (_, false) => .wait)
  | .mark d => settled (performMark s n d)
  | .spawn w => takeSpawn s r w
  | .query a => if !s.admitted (refDie a) || decDue s (refDie a) then .wait else settled (answerQuery s r.stamp a)
  | .lease a b => settled (leaseEngine s n.die r.stamp a b)
  | .unlease h => settled (releaseLease s n.die r.stamp h)
  | .barAlloc k => settled (barAllocate s n.die r.stamp k)
  | .barFree h => settled (barRelease s n.die r.stamp h)
  | .poolArrive h k => settled (poolArrive s n.die r.stamp h k)
  | .poolWait h q st => poolTest s r true h q st
  | .poolTry h q st => poolTest s r false h q st
  | .engine opc h d => settled (engineCommand s n.die r.stamp opc h d)
  | .stream b d => settled (acceptStream s r.stamp b d)
  | .streamStat b c => settled (streamStatus s r.stamp b c)
  | .readSel a k => settled (performReadSel s n a k.toNat)
  | .writeSel a v k => settled (performWriteSel s n a v k.toNat)
  | .rearm a => settled (performRearm s n a)
  | .podStore m _ => settled (peerAnswer s r m)
  | .podLoad m => settled (peerAnswer s r m)
  | .podAdd m _ => settled (peerAnswer s r m)
  | _ => performMem s r

/-! ## The request port (R302, R305) -/

/-- An earlier request of its element waits at the port for a tracker (R302). -/
def trackerBefore (s : State) (r : Req) : Bool :=
  s.reqs.any (fun x => decide (x.id < r.id) && decide (x.who.elem? = r.who.elem?) && translates s x && !x.pages.all (walked s x.stamp))

/-- WALK_COMPLETE (R302, R305): the translation of a waiting request is known and the port checks it. -/
def execWalkComplete (id : Nat) (s : State) : Host.Outcome State Fault Refusal :=
  .next (match s.req id with
  | none => s
  | some r =>
    if reqHere s r ∧ r.stage = .port ∧ entryOrder s r [.port, .ats, .kept] ∧ r.own = none then
      match r.op.podMod with
      | some m =>
        if podInOrder s r [.port] then
          match sendPod s r m with
          | (s, none) => (match s.req id with
            | some r => goHome s r (podPlace r.podPort)
            | none => s)
          | (s, some a) => refuseReq s r (a.fault.getD {})
        else s
      | none => if r.who.isPeer then admitPeer s r else if !trackerBefore s r && r.pages.all (walked s r.stamp) then passPort (r.pages.foldl (fun s page => endWalk s r.stamp page) s) r else s
    else s)

/-- Requests of one peer module on one port are performed in the order of their arrival (R437, R443). -/
def peerInOrder (s : State) (r : Req) : Bool := match r.who with
  | .peer m _ => !s.reqs.any (fun x => decide (x.id < r.id) && decide (x.podPort = r.podPort) && (match x.who with
    | .peer m' _ => decide (m' = m)
    | _ => false))
  | _ => true

/-! ## Queues at a home (R281, R284, R286, R363) -/

/-- The queue in which a request waits at its home: that of a bank, of a set of a die's cache, or the dispatcher's of barrier
requests. -/
inductive HomeQueue where
  | bank (t : TileRef) (b : Nat)
  | set (die : BitVec 4) (i : Nat)
  | barriers (die : BitVec 4)
deriving DecidableEq, Repr

/-- The queue of a request; none for one that never waits behind another. -/
def homeQueue (s : State) (r : Req) : Option HomeQueue :=
  match r.op, r.pas with
  | .barAlloc _, _ => some (.barriers r.stamp.issuer.die)
  | .barFree _, _ => some (.barriers r.stamp.issuer.die)
  | .poolArrive _ _, _ => some (.barriers r.stamp.issuer.die)
  | .poolWait _ _ _, _ => some (.barriers r.stamp.issuer.die)
  | .poolTry _ _ _, _ => some (.barriers r.stamp.issuer.die)
  | _, p :: _ => (match s.target p.1 with
    | .bank t b => some (.bank t b)
    | .dram d => some (.set d (setOf p.1))
    | _ => none)
  | _, [] => none

/-- One request holds another back at its home: it waits in the same queue, or finds the home's reply log full (R281, R317). -/
def holdsBack (s : State) (x r : Req) : Bool :=
  (homeQueue s r).any (fun q => decide (homeQueue s x = some q))
    || (!logFree s x && (match x.pas, r.pas with
      | p :: _, q :: _ => decide (s.homeOf p.1 = s.homeOf q.1)
      | _, _ => false))

/-- A request that came before it waits at its home; one that has begun goes on. -/
def behind (s : State) (r : Req) : Bool :=
  !r.begun && ((if r.queued then s.reqs.takeWhile (fun x => decide (x.id ≠ r.id)) else s.reqs).any (fun x =>
    x.queued && decide (x.id ≠ r.id) && holdsBack s x r))

/-- A request that has to wait at its home stands in its queue, after those that wait there; one that has begun stays where it
is. -/
def enqueue (s : State) (r : Req) : State :=
  if r.queued || r.begun then s
  else
    let s := s.dropReq r.id
    let r : Req := { r with
      queued := true
      since := s.cycle }
    { s with reqs := s.reqs ++ [r] }

/-- The address of the next word of a request. -/
def Req.next (r : Req) : Option Nat := match r.op with
  | .load _ => r.lacks.head?.map (fun (x : Nat × Nat × BitVec 13) => x.2.1)
  | .presWrite _ => (r.pas[r.pos]?).map (fun (x : Nat × BitVec 13) => x.1)
  | .store _ => (r.pas[r.pos]?).map (fun (x : Nat × BitVec 13) => x.1)
  | _ => r.pas.head?.map (fun (x : Nat × BitVec 13) => x.1)

/-- A bank applies one access in a cycle (R281). -/
def bankFree (s : State) (r : Req) : Bool := match r.next with
  | some pa => unitFree s pa
  | none => true

/-- Accesses of a bank that a request makes at once: a clear one for each word, a presence read one for each word that it
still lacks (R281). -/
def Req.accesses (r : Req) : Nat := match r.op with
  | .presClear n => n
  | .presRead _ => r.lacks.length
  | _ => 1

/-- The bank of a request's next words applies its accesses. -/
def useBank (s : State) (r : Req) : State := match r.next with
  | some pa => useBankN s pa r.accesses
  | none => s

/-- The ports of a bank's tile whose next access goes before a request: they came to the bank no later than it (R281). -/
def portsBefore (s : State) (r : Req) : List (TileRef × Nat) :=
  match r.begun, r.next.map s.target with
  | false, some (.bank t b) => ((s.tl t).running.filter (fun x =>
      portWants s t (BitVec.ofNat 4 x.1) x.2 b
        && decide (x.2.since.getD s.cycle ≤ (if r.queued then r.since else s.cycle)))).map (fun x => (t, x.1))
  | _, _ => []

/-- The ports have come to their bank in this cycle, where they had not before. -/
def portsCame (s : State) (ps : List (TileRef × Nat)) : State :=
  ps.foldl (fun (s : State) x =>
    let p := BitVec.ofNat 4 x.2
    s.setTport x.1 p { s.tport x.1 p with
      stream := (s.tport x.1 p).stream.map (fun (st : Stream) => { st with since := some (st.since.getD s.cycle) }) }) s

/-- A request is at its home and none that goes before it is left. -/
def atHome (s : State) (r : Req) : Bool :=
  reqHere s r && decide (r.stage = .home) && s.afterDone r && entryOrder s r [.port, .ats, .kept, .home]
    && (r.op.podMod.isNone || podInOrder s r [.port, .home, .kept]) && peerInOrder s r
    && (match r.who with
      | .query .. => false
      | _ => true)

/-- A request that its home has accepted is gone, and its answer is on its way; that of a latch access is kept in the log. -/
def accepted (s : State) (r : Req) (h : Option Home) (a : Answer) : State :=
  let s := (s.dropReq r.id).answer r a
  match r.who, h with
  | .latch n seq, some h => { s with logs := s.logs ++ [{ id := r.id, home := h, node := n, seq := seq, ans := a }] }
  | _, _ => s

/-- What becomes of a performed request: a peer's answer goes back to it; one refused, or an awaited one that faults, is kept
for the resume of its node (R305, R307, R316). -/
def outcome (s : State) (r : Req) (h : Option Home) (a : Answer) : State := match r.who with
  | .peer m tag =>
    let t := s.dropReq r.id
    let t := match h with
      | some h => if a.fault.isNone then { t with logs := t.logs ++ [{ id := r.id, home := h, node := r.msg.node, seq := r.msg.seq, ans := a, acked := false, mod := some m }] } else t
      | none => t
    (tag :: r.asks).foldl (fun t tag => replyPeer t m r.podPort (peerReply tag r.op a)) t
  | .latch .. => if a.accepted then accepted s r h a else refuseReq s r (a.fault.getD {})
  | _ => match a.fault with
    | some fi => refuseReq s r fi
    | none => accepted s r h a

/-- A request at its home is performed, or waits there. -/
def performHome (s : State) (r : Req) : State := match perform s r with
  | .wait => enqueue s r
  | .more t x => useBank (t.setReq { x with queued := false }) r
  | .done t a => useBank (outcome t r (r.logHome s) a) r
  | .defer t x =>
    let t := t.dropReq r.id
    let x : Req := { x with
      stage := .deferred
      queued := false }
    useBank { t with reqs := t.reqs ++ [x] } r

/-- HOME_REQUEST (R273): a request that finds its bank taken, a port before it, or its home's reply log full waits (R281,
R317). -/
def execHomeRequest (id : Nat) (s : State) : Host.Outcome State Fault Refusal :=
  .next (match s.req id with
  | none => s
  | some r =>
    if atHome s r then
      let ps := portsBefore s r
      if ps ≠ [] then enqueue (portsCame s ps) r
      else if behind s r || !logFree s r || !bankFree s r then enqueue s r
      else performHome s r
    else s)

end Sys2Proof.Machine
end

