-- ==== Sys2Proof/Machine/Host.lean ====
section
/-! DEFINITION. What the host does: address translation and page requests, the end of a PASID, and its accesses to device
memory (R328, R364, R424, R425, R432). -/

namespace Sys2Proof.Machine

/-! ## PASIDs (R295, R432) -/

/-- PASID of a request, and the generation that is current for it. -/
def State.pasidReq (s : State) (r : Req) : BitVec 20 := s.pasidFor r.who r.stamp
def State.genReq (s : State) (r : Req) : Nat := Map.get s.pasidGen 0 (s.pasidReq r).toNat

/-- The function of a request: that of the tenant's queue, or of the queue itself (R425). -/
def State.fnReq (s : State) (r : Req) : Option (BitVec 12) := match r.who with
  | .queue d i => some (Map.get (s.dieAt d).slot {} i.toNat).fn
  | _ => (s.qreg.find? (fun q => decide (q.part = r.stamp.part) && decide (q.tenant = r.stamp.tenant))).map QReg.fn

/-- The address that a request's host access uses (R425). -/
def State.hostFor (s : State) (r : Req) (pa : Nat) : Option Nat :=
  s.hostAddrAs (((s.fnReq r).map (fun f => Map.get s.ats false f.toNat)).getD false) (s.pasidReq r) pa

/-- A function has room for one more page request (R424). -/
def pageRoom (s : State) (r : Req) : Bool :=
  decide (s.reqs.countP (fun x => x.pri && decide (s.fnReq x = s.fnReq r)) < 256)

/-! ## The ATC (R424, R425) -/

/-- The first address of a request in the host window that the ATC does not hold. -/
def missing (s : State) (r : Req) : Option Nat :=
  let n := max 1 r.op.access.1
  ((wordVas r.va n).filterMap (fun w => (s.xlate (match r.who with
      | .port t _ => s.tileTlb t
      | _ => s.dieTlb r.stamp.issuer.die) r.stamp.part r.stamp.tenant w.2).map (fun e => e.out w.2))).find? (fun pa =>
    (s.hostFor r pa).isNone)

/-- The translation of a host page enters the ATC of its port: 64 entries, of which the oldest gives way. -/
def fillAtc (s : State) (r : Req) (pa to_ : Nat) : State := match s.portOf pa with
  | none => s
  | some south =>
    let page := pa % 2 ^ 50 / 0x10000 * 0x10000
    let e : TlbEntry := { part := r.stamp.part, tenant := r.stamp.tenant, va := page, size := 0x10000, pa := to_ / 0x10000 * 0x10000 % 2 ^ 50, pasid := s.pasidReq r }
    s.updHport south (fun p => { p with atc := (p.atc ++ [e]).drop (p.atc.length + 1 - 64) })

/-! ## A request that the host has answered -/

/-- A unit holds its access with PAGE and sends its record (R387). -/
def holdUnit (s : State) (r : Req) : State :=
  let write := r.op.access.2.1.writes
  match r.who with
  | .port t p => match (s.tport t p).stream with
    | none => s
    | some st =>
      let s := s.setTport t p { s.tport t p with stream := some { st with held := some causePage } }
      heldTrap s st.stamp (portOrigin t p st causePage) 0xB0 r.va.toNat write .stream
  | .eng die kind eng =>
    let x : EngRef := ⟨die, kind, eng⟩
    match (s.engAt x).queue with
    | [] => s
    | c :: _ => heldTrap (s.setEngAt x { s.engAt x with held := some causePage }) c.stamp (x.origin causePage) c.opc r.va.toNat write .engine
  | _ => s

/-- Completion records of a slot that waited for a translation are written again. -/
def drainRing (s : State) (d : BitVec 4) (i : BitVec 6) : State :=
  let q := s.qslot d i.toNat
  q.pend.foldl (fun s ws => ringWrite s d i.toNat ws) (s.setQslot d i.toNat { q with pend := [] })

/-- A translation is there: the access goes on. -/
def accessGoesOn (s : State) (r : Req) : State := match r.who with
  | .queue d i => drainRing (s.dropReq r.id) d i
  | .port _ _ => s.dropReq r.id
  | .eng _ _ _ => s.dropReq r.id
  | .peer .. => admitPeer s r
  | _ => passPort s { r with
      stage := .port
      pri := false }

/-- The host denies an access of a queue for good (R431): one to its rings is an error of reason 4, and loses the completion
records that waited for it; one to the memory that a command names makes the command fail. -/
def queueDenied (s : State) (d : BitVec 4) (i : Nat) (r : Req) : State :=
  let q := s.qslot d i
  let ring := (match r.op with
    | .store _ => true
    | _ => false) || decide (r.va.toNat = q.entryVa % 2 ^ 56)
  if ring then queueError (s.setQslot d i { q with pend := [] }) d i 4 else queueError (takeEntry s d i) d i 2

/-- An access of a PASID that is gone faults with PAGE (R432). -/
def accessGone (s : State) (r : Req) : State := match r.who with
  | .queue d i => queueDenied (s.dropReq r.id) d i.toNat r
  | .port _ _ => holdUnit (s.dropReq r.id) r
  | .eng _ _ _ => holdUnit (s.dropReq r.id) r
  | .peer .. => refusePeer (s.dropReq r.id) r.msg 2 causePage
  | _ => refuseReq s { r with pri := false } (hostFault r causePage)

/-- Access is denied: the port sends a page request, and the access is held as a PAGE fault on its own path (R425). -/
def accessDenied (s : State) (r : Req) : State :=
  let r := { r with pri := true }
  match r.who with
  | .queue _ _ => s.setReq r
  | .peer .. => s.setReq r
  | .port _ _ => holdUnit (s.setReq r) r
  | .eng _ _ _ => holdUnit (s.setReq r) r
  | _ => refuseReq s r (hostFault r causePage)

/-- ATS_COMPLETION (R425, R432). -/
def execAtsCompletion (c : AtsAnswer) (s : State) : Host.Outcome State Fault Refusal :=
  .next (match s.req c.id with
  | none => s
  | some r =>
    if r.stage ≠ .ats ∨ r.pri = true ∨ c.gen ≠ r.gen then s
    else if r.gen < s.genReq r then accessGone s r
    else match c.addr with
      | none => if pageRoom s r then accessDenied s r else s
      | some a => match missing s r with
        | some pa => accessGoesOn (fillAtc s r pa a.toNat) r
        | none => accessGoesOn s r)

/-! ## Page request responses (R425) -/

/-- The node that a request's fault has put or will put into FAULTED. -/
def faultedNode (s : State) (r : Req) : Option NodeRef := match r.who with
  | .node n => some n
  | .latch n _ => some n
  | .sbuf e => ((s.el e).sbuf.find? (fun x => decide (x.id = r.id))).map (fun x => e.nodeRef x.node)
  | _ => none

/-- A fault that has not yet reached its node: its answer is on its way. -/
def refusalDue (s : State) (r : Req) : Bool := s.resps.any (fun x => decide (x.id = r.id) && x.ans.fault.isSome)

/-- The repair: the access of a node is made again as by RETRY or `XREARM`. -/
def replayNode (s : State) (r : Req) : State :=
  if refusalDue s r then (s.dropResp r.id).setReq { r with
    stage := .port
    pri := false }
  else match r.who, faultedNode s r with
    | .latch n _, _ => match reopenLatch s n with
      | some t => resendLatch t n
      | none => s
    | _, some n => (resumeNode s n 0).getD s
    | _, none => s

/-- The origin record of a node's last trap record with another cause. -/
def recause (nd : Node) (c : BitVec 8) : Node :=
  { nd with
    cause := c
    trec := Map.modify nd.trec 0 0 (fun w => setBits w 0 8 c.toNat) }

/-- The fault becomes PROT (R425). -/
def toProt (s : State) (r : Req) : State :=
  if refusalDue s r then
    { s with resps := s.resps.map (fun x =>
        if x.id = r.id then { x with ans := { x.ans with fault := x.ans.fault.map (fun f => { f with cause := causeProt }) } } else x) }
  else match faultedNode s r with
    | some n => if (s.nd n).st = .faulted ∧ (s.nd n).cause = causePage then s.updNd n (fun nd => recause nd causeProt) else s
    | none => s

/-- The unit of a request. -/
def Req.unit (r : Req) : Option HeldUnit := match r.who with
  | .port t p => some (.port t p)
  | .eng d k e => some (.engine d k e)
  | _ => none

/-- A unit's held access becomes PROT (R425). -/
def unitProt (s : State) (va : Nat) : HeldUnit → State
  | .port t p => s.setTport t p { s.tport t p with stream := (s.tport t p).stream.map (fun (st : Stream) => { st with
      held := none
      denied := va :: st.denied }) }
  | .engine d k e => s.setEngAt ⟨d, k, e⟩ { s.engAt ⟨d, k, e⟩ with
      held := none
      queue := (s.engAt ⟨d, k, e⟩).queue.modifyHead (fun (c : EngCmd) => { c with denied := va :: c.denied }) }

/-- PAGE_REQUEST_RESPONSE (R425, R432): one that belongs to an older generation of its PASID is discarded. -/
def execPageRequestResponse (id : Nat) (x : PriResponse) (s : State) : Host.Outcome State Fault Refusal :=
  .next (match s.req id with
  | none => s
  | some r =>
    if r.pri = false then s
    else
      let s1 := s.setReq { r with pri := false }
      if r.gen < s.genReq r then match r.who with
        | .queue d i => queueDenied (s.dropReq id) d i.toNat r
        | .port _ _ => s.dropReq id
        | .eng _ _ _ => s.dropReq id
        | .peer .. => refusePeer (s.dropReq id) r.msg 2 causePage
        | _ => s1
      else match x, r.unit, r.who with
        | .success, some u, _ => replayUnit (s.dropReq id) u
        | _, some u, _ => unitProt (s.dropReq id) r.va.toNat u
        | .success, none, .peer .. => admitPeer s r
        | _, none, .peer .. => refusePeer (s.dropReq id) r.msg 2 causeProt
        | .success, none, .queue d i => drainRing (s.dropReq id) d i
        | _, none, .queue d i => queueDenied (s.dropReq id) d i.toNat r
        | .success, none, _ => if r.stage = .kept then replayNode s1 { r with pri := false } else s1
        | _, none, _ => if r.stage = .kept then toProt s1 r else s1)

/-! ## The end of a PASID (R432) -/

/-- The requests of a PASID that the host has still to answer. -/
def pasidInFlight (s : State) (p : BitVec 20) : Bool :=
  s.reqs.any (fun r => decide (s.pasidReq r = p) && (decide (r.stage = .ats) || r.pri || (decide (r.stage = .home)
    && r.pas.any (fun x => (s.portOf x.1).isSome) && (match r.op with
      | .store _ => false
      | _ => true))))

/-- PTEAR begins: generations rise, slots enter error, and ATS invalidations leave on both ports. -/
def beginTear (s : State) (p : BitVec 20) : State :=
  let mine := s.die.flatMap (fun d => (d.2.slot.filter (fun q => q.2.mapped && decide (bits (Map.get q.2.rec_ 0 1) 0 20 = p))).map (fun q => (d.1, q.1)))
  let s := mine.foldl (fun (s : State) x =>
    let d : BitVec 4 := BitVec.ofNat 4 x.1
    queueError (s.setQslot d x.2 { s.qslot d x.2 with gen := (s.qslot d x.2).gen + 1 }) d x.2 5) s
  let s : State := { s with pasidGen := Map.modify s.pasidGen 0 p.toNat (· + 1) }
  [false, true].foldl (fun (s : State) b => s.updHport b (fun h => { h with
    tearing := p :: h.tearing
    invals := p :: h.invals })) s

/-- PTEAR ends. -/
def endTear (s : State) (p : BitVec 20) : State :=
  [false, true].foldl (fun (s : State) b => s.updHport b (fun h => { h with tearing := h.tearing.filter (fun x => decide (x ≠ p)) })) s

/-- PTEAR (R432). -/
def execPtear (pf : Bool) (s : State) : Host.Outcome State Fault Refusal :=
  .next (serve 0x31 pf s (fun s ws =>
    let p : BitVec 20 := BitVec.ofNat 20 (entNat ws 4 4)
    let torn := (s.hport false).tearing.contains p
    if 2 ^ 20 ≤ entNat ws 4 4 ∨ entZero ws 64 [(4, 4)] = false then plain (s, 3)
    else if torn = false then .wait (beginTear s p)
    else if (s.hport pf).busy = false then plain (s, 1)
    else if (s.hport false).invals.contains p ∨ (s.hport true).invals.contains p ∨ pasidInFlight s p then .wait s
    else plain (endTear s p, 0)))

/-- ATS_INVALIDATION_COMPLETION (R432): the port's ATC holds nothing more of the PASID. -/
def execAtsInvalidationCompletion (port : Bool) (pasid : BitVec 20) (s : State) : Host.Outcome State Fault Refusal :=
  .next (if (s.hport port).invals.contains pasid then
    s.updHport port (fun h => { h with
      invals := h.invals.filter (fun x => decide (x ≠ pasid))
      atc := h.atc.filter (fun e => decide (e.pasid ≠ pasid)) })
  else s)

/-! ## Accesses of host agents (R328, R364) -/

/-- The home die of a word. -/
def State.homeDie (s : State) (pa : Nat) : BitVec 4 := match s.target pa with
  | .dram d => d
  | .bank t _ => t.die
  | .store e _ => e.die
  | _ => 0

/-- The key under which a line stands. -/
def State.keyAt (s : State) (pa : Nat) : BitVec 13 := (Map.find s.lineKey (pa / 128)).getD 0

/-- The log of a refused access of a function to a barrier word (R364): of the partition that holds the VF, else of the one
that covers column 1 of the home die. -/
def logBarrier (s : State) (fn : BitVec 12) (pa : Nat) : State :=
  let d := s.homeDie pa
  let vf := if bitsNat fn 0 11 = 0 then none else Map.find s.vfPart (bitsNat fn 0 11)
  match vf.orElse (fun _ => s.partitionAt d 1) with
  | none => s
  | some p => logDie s p (originWord d.toNat 0 0 0 true causeBarrierStore) causeBarrierStore d

/-- Any other write or atomic of a host agent to a live barrier word: Completer Abort, and an entry in the log. -/
def barrierAbort (s : State) (fn : BitVec 12) (pa : Nat) : State := { logBarrier s fn pa with hostAns := none }

/-- A host agent may reach a word: it lies in memory, in a bank in store mode, behind a cache (R276, R279), or in the memory of the
host itself (R328). -/
def hostReaches (s : State) (pa : Nat) : Bool := decide (pa % 4 = 0) && (match s.target pa with
  | .dram _ => s.clk
  | .bank t b => decide (s.bankMode t b = 0)
  | .host _ => true
  | _ => false)

/-- A host agent's access passes through the bank or the cache of the word's home. It names no partition and leaves no line behind
(R281, R290, R293; DESIGN CHOICE, log entry 123). -/
def hostUses (s : State) (pa : Nat) (k : BitVec 13) (write : Bool) : State := useBankAt (s.useLine 0 pa k write true) pa

/-- A write of a host agent at the word's home; to the memory of the host it takes effect at once (R328). -/
def hostStore (s : State) (pa : Nat) (v : Word) : State := match s.target pa with
  | .host _ => s.storeWord (s.hostCell pa) (PWord.clean v)
  | _ => homeStore (hostUses s pa 0 true) pa 0 (PWord.clean v)

/-- HOST_FETCHADD (R364): on the low doubleword of a live barrier word an arrival of n in 1-65,535; its answer is the low
doubleword as it stood. Elsewhere the device is no completer of it (R424). -/
def execHostFetchadd (fn : BitVec 12) (pa : BitVec 52) (n : Word) (s : State) : Host.Outcome State Fault Refusal :=
  let a := pa.toNat
  let k := s.keyAt a
  .next (if s.edgeOpen (s.fnPort fn) = false ∨ unitMay s none a true = false then s
  else if s.barrierAt a then
    if a % 8 = 0 ∧ 1 ≤ n.toNat ∧ n.toNat ≤ 65535 then match wordArrive (hostUses s a k true) a k n.toNat with
      | some x => { x.1 with hostAns := some (PWord.clean (bits (s.load64Under a k) 0 32)) }
      | none => barrierAbort s fn a
    else barrierAbort s fn a
  else { s with hostAns := none })

/-- HOST_BARRIER_WRITE (R364). -/
def execHostBarrierWrite (fn : BitVec 12) (pa : BitVec 52) (s : State) : Host.Outcome State Fault Refusal :=
  .next (if s.edgeOpen (s.fnPort fn) = true ∧ s.barrierAt pa.toNat = true then barrierAbort s fn pa.toNat else s)

/-- A read of a function's BAR0 (R428, R430, R467): a VF reads zero where a PF's management page and ring stand. What a
doorbell reads as is not stated: a free value. -/
def readBar0 (s : State) (fn : BitVec 12) (off : Nat) : State :=
  if 0x1000 ≤ off ∧ off < 0x1200 then
    let x := s.free
    { x.2 with hostAns := some (PWord.clean x.1) }
  else { s with hostAns := some (PWord.clean (if bitsNat fn 0 11 = 0 then readMgmt s (bitAt fn 11) off else 0)) }

/-- HOST_ACCESS (R328): the access takes its place in the order of the location's home; while its bank is taken it waits
(R281). -/
def execHostAccess (a : HostAccess) (s : State) : Host.Outcome State Fault Refusal :=
  .next (match a with
  | .read pa =>
    if (s.edgeOpen false = false ∧ s.edgeOpen true = false) ∨ unitMay s none pa.toNat false = false then s
    else if hostReaches s pa.toNat then { hostUses s pa.toNat 0 false with hostAns := some (s.loadUnder (s.hostCell pa.toNat) 0) }
    else { s with hostAns := none }
  | .write fn pa v =>
    if s.edgeOpen (s.fnPort fn) = false ∨ unitMay s none pa.toNat true = false then s
    else if s.barrierAt pa.toNat then barrierAbort s fn pa.toNat
    else if hostReaches s pa.toNat then { hostStore s pa.toNat v with hostAns := some (PWord.clean v) }
    else { s with hostAns := none }
  | .bar0 fn off => if s.edgeOpen (s.fnPort fn) then readBar0 s fn off.toNat else s)

end Sys2Proof.Machine
end

