-- ==== Sys2Proof/Machine/Kem.lean ====
section
/-! DEFINITION. ML-KEM-1024 of FIPS 203, with SHA-3 and SHAKE of FIPS 202, as R18 takes them: the kiln's exchange keys (R446,
R447). -/

namespace Sys2Proof.Machine

/-! ## Keccak (FIPS 202) -/

/-- The round constants of Keccak-f[1600], and the rotations of its 25 lanes, lane x + 5y at place x + 5y. -/
def keccakRound : List DWord :=
    [0x0000000000000001, 0x0000000000008082, 0x800000000000808A, 0x8000000080008000, 0x000000000000808B, 0x0000000080000001]
    ++ [0x8000000080008081, 0x8000000000008009, 0x000000000000008A, 0x0000000000000088, 0x0000000080008009, 0x000000008000000A]
    ++ [0x000000008000808B, 0x800000000000008B, 0x8000000000008089, 0x8000000000008003, 0x8000000000008002, 0x8000000000000080]
    ++ [0x000000000000800A, 0x800000008000000A, 0x8000000080008081, 0x8000000000008080, 0x0000000080000001, 0x8000000080008008]
def keccakTurn : List Nat :=
  [0, 1, 62, 28, 27] ++ [36, 44, 6, 55, 20] ++ [3, 10, 43, 25, 39] ++ [41, 45, 15, 21, 8] ++ [18, 2, 61, 56, 14]

/-- One round: theta, rho, pi, chi and iota. -/
def keccakStep (a : List DWord) (rc : DWord) : List DWord :=
  let at_ := fun (a : List DWord) (i : Nat) => a.getD i 0
  let c := (List.range 5).map (fun x => (List.range 5).foldl (fun (v : DWord) y => v ^^^ at_ a (x + 5 * y)) 0)
  let a := (List.range 25).map (fun i => at_ a i ^^^ at_ c ((i % 5 + 4) % 5) ^^^ (at_ c ((i % 5 + 1) % 5)).rotateLeft 1)
  -- the lane at (x, y) after pi comes from (x + 3y, x)
  let b := (List.range 25).map (fun i =>
    let j := (i % 5 + 3 * (i / 5)) % 5 + 5 * (i % 5)
    (at_ a j).rotateLeft (keccakTurn.getD j 0))
  (List.range 25).map (fun i =>
    let y := 5 * (i / 5)
    let v := at_ b i ^^^ (~~~at_ b (y + (i + 1) % 5 % 5) &&& at_ b (y + (i % 5 + 2) % 5))
    if i = 0 then v ^^^ rc else v)

/-- Keccak-f[1600]. -/
def keccak (a : List DWord) : List DWord := keccakRound.foldl keccakStep a

/-- The sponge of a rate in bytes: what a message leaves, with its domain bits. -/
def absorb (rate : Nat) (dom : Byte) (m : List Byte) : List DWord :=
  let n := rate - m.length % rate
  let pad := if n = 1 then [dom ||| 0x80] else dom :: List.replicate (n - 2) 0 ++ [0x80]
  let p := m ++ pad
  (pieces rate (p.length / rate) p).foldl (fun a b =>
    keccak ((List.range 25).map (fun i => a.getD i 0 ^^^ BitVec.ofNat 64 (leNat ((b.drop (8 * i)).take 8))))) (List.replicate 25 0)

/-- `n` blocks squeezed from the sponge. -/
def squeeze (rate : Nat) : Nat → List DWord → List Byte
  | 0, _ => []
  | n + 1, a => ((a.flatMap (fun (w : DWord) => leBytes 8 w.toNat)).take rate) ++ squeeze rate n (keccak a)

/-- SHA3-256, SHA3-512, and `n` bytes of SHAKE128 and SHAKE256. -/
def sha3x256 (m : List Byte) : List Byte := (squeeze 136 1 (absorb 136 0x06 m)).take 32
def sha3x512 (m : List Byte) : List Byte := (squeeze 72 1 (absorb 72 0x06 m)).take 64
def shake128 (n : Nat) (m : List Byte) : List Byte := (squeeze 168 ((n + 167) / 168) (absorb 168 0x1F m)).take n
def shake256 (n : Nat) (m : List Byte) : List Byte := (squeeze 136 ((n + 135) / 136) (absorb 136 0x1F m)).take n

/-! ## Polynomials of 256 coefficients modulo 3,329 -/

abbrev Poly := List Nat

def kemQ : Nat := 3329

def polyAdd (a b : Poly) : Poly := List.zipWith (fun x y => (x + y) % kemQ) a b
def polySub (a b : Poly) : Poly := List.zipWith (fun x y => (x + kemQ - y) % kemQ) a b
def polyScale (c : Nat) (a : Poly) : Poly := a.map (fun x => c * x % kemQ)

/-- 17 to a power. -/
def zetaPow (n : Nat) : Nat := n.repeat (fun x => 17 * x % kemQ) 1

/-- The seven bits of a number in reverse order. -/
def rev7 (n : Nat) : Nat := (List.range 7).foldl (fun v i => 2 * v + n / 2 ^ i % 2) 0

/-- NTT: `n` layers of butterflies, from number `k` on. -/
def nttFrom : Nat → Nat → Poly → Poly
  | 0, _, f => f
  | n + 1, k, f =>
    let a := f.take (2 ^ (n + 1))
    let b := polyScale (zetaPow (rev7 k)) (f.drop (2 ^ (n + 1)))
    nttFrom n (2 * k) (polyAdd a b) ++ nttFrom n (2 * k + 1) (polySub a b)
def ntt (f : Poly) : Poly := nttFrom 7 1 f

/-- Its inverse. -/
def invFrom : Nat → Nat → Poly → Poly
  | 0, _, f => f
  | n + 1, k, f =>
    let a := invFrom n (2 * k) (f.take (2 ^ (n + 1)))
    let b := invFrom n (2 * k + 1) (f.drop (2 ^ (n + 1)))
    polyAdd a b ++ polyScale (zetaPow (256 - rev7 k)) (polySub a b)
def invNtt (f : Poly) : Poly := polyScale 3303 (invFrom 7 1 f)

/-- The product of two transformed polynomials: 128 products of two coefficients each. -/
def nttMul (f g : Poly) : Poly :=
  ((pieces 2 128 f).zip (pieces 2 128 g)).zipIdx.flatMap (fun x =>
    let a0 := x.1.1.getD 0 0
    let a1 := x.1.1.getD 1 0
    let b0 := x.1.2.getD 0 0
    let b1 := x.1.2.getD 1 0
    [(a0 * b0 + a1 * b1 % kemQ * zetaPow (2 * rev7 x.2 + 1)) % kemQ, (a0 * b1 + a1 * b0) % kemQ])

/-- The inner product of two transformed vectors. -/
def nttDot (a b : List Poly) : Poly := (List.zipWith nttMul a b).foldl polyAdd (List.replicate 256 0)

/-! ## Encodings, sampling and compression -/

/-- Bits of bytes, the lowest first, and bytes of bits. -/
def bitsOf (b : List Byte) : List Bool := b.flatMap (fun x => (List.range 8).map (fun i => x.getLsbD i))
def ofBits (b : List Bool) : Nat := b.foldr (fun x v => 2 * v + (if x then 1 else 0)) 0

/-- A polynomial with coefficients of `d` bits in 32d bytes, and back; with 12 bits the coefficients are taken modulo q. -/
def encodePoly (d : Nat) (f : Poly) : List Byte :=
  let b := f.flatMap (fun x => (List.range d).map (fun i => Nat.testBit x i))
  (pieces 8 (32 * d) b).map (fun x => BitVec.ofNat 8 (ofBits x))
def decodePoly (d : Nat) (b : List Byte) : Poly :=
  (pieces d 256 (bitsOf b)).map (fun x => if d = 12 then ofBits x % kemQ else ofBits x)

/-- Compression to `d` bits, and decompression. -/
def kemCompress (d : Nat) (f : Poly) : Poly := f.map (fun x => (x * 2 ^ (d + 1) + kemQ) / (2 * kemQ) % 2 ^ d)
def kemDecompress (d : Nat) (f : Poly) : Poly := f.map (fun y => (2 * kemQ * y + 2 ^ d) / 2 ^ (d + 1))

/-- A uniform polynomial from a seed: of 280 groups of three bytes, the first 256 candidates below q. -/
def sampleNtt (seed : List Byte) : Poly :=
  ((pieces 3 280 (shake128 840 seed)).flatMap (fun b =>
    let x := leNat b
    [x % 4096, x / 4096].filter (fun y => decide (y < kemQ)))).take 256

/-- A polynomial of small coefficients: the PRF with one byte, and differences of two bits each. -/
def sampleSmall (seed : List Byte) (n : Nat) : Poly :=
  (pieces 4 256 (bitsOf (shake256 128 (seed ++ [BitVec.ofNat 8 n])))).map (fun b =>
    let one := fun (i : Nat) => if b.getD i false then 1 else 0
    (one 0 + one 1 + kemQ - one 2 - one 3) % kemQ)
def smallVec (seed : List Byte) (from_ : Nat) : List Poly := (List.range 4).map (fun i => sampleSmall seed (from_ + i))

/-- Row `i` of the matrix of a seed, and its column `i`. -/
def matrixRow (rho : List Byte) (i : Nat) : List Poly :=
  (List.range 4).map (fun j => sampleNtt (rho ++ [BitVec.ofNat 8 j, BitVec.ofNat 8 i]))
def matrixCol (rho : List Byte) (i : Nat) : List Poly :=
  (List.range 4).map (fun j => sampleNtt (rho ++ [BitVec.ofNat 8 i, BitVec.ofNat 8 j]))

/-! ## K-PKE and ML-KEM -/

/-- The four polynomials of a vector in an encoding of `d` bits. -/
def decodeVec (d : Nat) (b : List Byte) : List Poly := (pieces (32 * d) 4 b).map (decodePoly d)

/-- K-PKE.KeyGen: the public key, and the encoded secret vector. -/
def pkeKeys (d : List Byte) : List Byte × List Byte :=
  let g := sha3x512 (d ++ [4])
  let s := (smallVec (g.drop 32) 0).map ntt
  let e := (smallVec (g.drop 32) 4).map ntt
  let t := (List.range 4).map (fun i => polyAdd (nttDot (matrixRow (g.take 32) i) s) (e.getD i []))
  (t.flatMap (encodePoly 12) ++ g.take 32, s.flatMap (encodePoly 12))

/-- K-PKE.Encrypt. -/
def pkeEncrypt (ek m r : List Byte) : List Byte :=
  let t := decodeVec 12 ek
  let rho := (ek.drop 1536).take 32
  let y := (smallVec r 0).map ntt
  let e1 := smallVec r 4
  let u := (List.range 4).map (fun i => polyAdd (invNtt (nttDot (matrixCol rho i) y)) (e1.getD i []))
  let v := polyAdd (polyAdd (invNtt (nttDot t y)) (sampleSmall r 8)) (kemDecompress 1 (decodePoly 1 m))
  u.flatMap (fun p => encodePoly 11 (kemCompress 11 p)) ++ encodePoly 5 (kemCompress 5 v)

/-- K-PKE.Decrypt. -/
def pkeDecrypt (dk c : List Byte) : List Byte :=
  let u := (decodeVec 11 c).map (kemDecompress 11)
  let v := kemDecompress 5 (decodePoly 5 (c.drop 1408))
  encodePoly 1 (kemCompress 1 (polySub v (invNtt (nttDot (decodeVec 12 dk) (u.map ntt)))))

/-- The public key of a seed of 64 bytes, d and z: the encapsulation key (ML-KEM.KeyGen_internal). -/
def kemPublic (seed : List Byte) : List Byte := (pkeKeys (seed.take 32)).1

/-- The check of an encapsulation key: its length, and coefficients below q (FIPS 203, 7.2). -/
def kemKeyOk (ek : List Byte) : Bool :=
  decide (ek.length = 1568) && decide ((decodeVec 12 ek).flatMap (encodePoly 12) = ek.take 1536)

/-- ML-KEM.Encaps_internal: the cipher text and the shared secret, of a key and 32 random bytes. -/
def kemSeal (m ek : List Byte) : List Byte × List Byte :=
  let g := sha3x512 (m ++ sha3x256 ek)
  (pkeEncrypt ek m (g.drop 32), g.take 32)

/-- ML-KEM.Decaps_internal with the key of a seed: the shared secret; one of z where the cipher text is not what its message
encrypts to. -/
def kemOpen (seed c : List Byte) : List Byte :=
  let k := pkeKeys (seed.take 32)
  let m := pkeDecrypt k.2 c
  let g := sha3x512 (m ++ sha3x256 k.1)
  if pkeEncrypt k.1 m (g.drop 32) = c then g.take 32 else shake256 32 (seed.drop 32 ++ c)

end Sys2Proof.Machine
end

