-- ==== Sys2Proof/Machine/Slh.lean ====
section
/-! DEFINITION. SLH-DSA-SHA2-256s of FIPS 205, with SHA-512 of FIPS 180-4, as R18 takes them: the kiln's identity key and the
signatures of its quotes (R446, R448, R451). -/

namespace Sys2Proof.Machine

/-! ## SHA-512 (FIPS 180-4) -/

/-- The round constants and the initial hash value. -/
def sha512Round : List DWord :=
    [0x428A2F98D728AE22, 0x7137449123EF65CD, 0xB5C0FBCFEC4D3B2F, 0xE9B5DBA58189DBBC, 0x3956C25BF348B538]
    ++ [0x59F111F1B605D019, 0x923F82A4AF194F9B, 0xAB1C5ED5DA6D8118, 0xD807AA98A3030242, 0x12835B0145706FBE]
    ++ [0x243185BE4EE4B28C, 0x550C7DC3D5FFB4E2, 0x72BE5D74F27B896F, 0x80DEB1FE3B1696B1, 0x9BDC06A725C71235]
    ++ [0xC19BF174CF692694, 0xE49B69C19EF14AD2, 0xEFBE4786384F25E3, 0x0FC19DC68B8CD5B5, 0x240CA1CC77AC9C65]
    ++ [0x2DE92C6F592B0275, 0x4A7484AA6EA6E483, 0x5CB0A9DCBD41FBD4, 0x76F988DA831153B5, 0x983E5152EE66DFAB]
    ++ [0xA831C66D2DB43210, 0xB00327C898FB213F, 0xBF597FC7BEEF0EE4, 0xC6E00BF33DA88FC2, 0xD5A79147930AA725]
    ++ [0x06CA6351E003826F, 0x142929670A0E6E70, 0x27B70A8546D22FFC, 0x2E1B21385C26C926, 0x4D2C6DFC5AC42AED]
    ++ [0x53380D139D95B3DF, 0x650A73548BAF63DE, 0x766A0ABB3C77B2A8, 0x81C2C92E47EDAEE6, 0x92722C851482353B]
    ++ [0xA2BFE8A14CF10364, 0xA81A664BBC423001, 0xC24B8B70D0F89791, 0xC76C51A30654BE30, 0xD192E819D6EF5218]
    ++ [0xD69906245565A910, 0xF40E35855771202A, 0x106AA07032BBD1B8, 0x19A4C116B8D2D0C8, 0x1E376C085141AB53]
    ++ [0x2748774CDF8EEB99, 0x34B0BCB5E19B48A8, 0x391C0CB3C5C95A63, 0x4ED8AA4AE3418ACB, 0x5B9CCA4F7763E373]
    ++ [0x682E6FF3D6B2B8A3, 0x748F82EE5DEFB2FC, 0x78A5636F43172F60, 0x84C87814A1F0AB72, 0x8CC702081A6439EC]
    ++ [0x90BEFFFA23631E28, 0xA4506CEBDE82BDE9, 0xBEF9A3F7B2C67915, 0xC67178F2E372532B, 0xCA273ECEEA26619C]
    ++ [0xD186B8C721C0C207, 0xEADA7DD6CDE0EB1E, 0xF57D4F7FEE6ED178, 0x06F067AA72176FBA, 0x0A637DC5A2C898A6]
    ++ [0x113F9804BEF90DAE, 0x1B710B35131C471B, 0x28DB77F523047D84, 0x32CAAB7B40C72493, 0x3C9EBE0A15C9BEBC]
    ++ [0x431D67C49C100D4C, 0x4CC5D4BECB3E42B6, 0x597F299CFC657E2A, 0x5FCB6FAB3AD6FAEC, 0x6C44198C4A475817]
def sha512Init : List DWord :=
    [0x6A09E667F3BCC908, 0xBB67AE8584CAA73B, 0x3C6EF372FE94F82B, 0xA54FF53A5F1D36F1]
    ++ [0x510E527FADE682D1, 0x9B05688C2B3E6C1F, 0x1F83D9ABFB41BD6B, 0x5BE0CD19137E2179]

/-- A message with its padding. -/
def sha512Pad (m : List Byte) : List Byte :=
  m ++ [0x80] ++ List.replicate ((239 - m.length % 128) % 128) 0 ++ beBytes 16 (8 * m.length)

/-- The message schedule grown by `n` words; the latest word stands first. -/
def sha512Schedule : Nat → List DWord → List DWord
  | 0, w => w
  | n + 1, w =>
    let x := w.getD 14 0
    let y := w.getD 1 0
    let s0 := x.rotateRight 1 ^^^ x.rotateRight 8 ^^^ (x >>> 7)
    let s1 := y.rotateRight 19 ^^^ y.rotateRight 61 ^^^ (y >>> 6)
    sha512Schedule n ((w.getD 15 0 + s0 + w.getD 6 0 + s1) :: w)

/-- One round on the eight working words. -/
def sha512Step (v : List DWord) (kw : DWord × DWord) : List DWord := match v with
  | [a, b, c, d, e, f, g, h] =>
    let s1 := e.rotateRight 14 ^^^ e.rotateRight 18 ^^^ e.rotateRight 41
    let ch := (e &&& f) ^^^ (~~~e &&& g)
    let t1 := h + s1 + ch + kw.1 + kw.2
    let s0 := a.rotateRight 28 ^^^ a.rotateRight 34 ^^^ a.rotateRight 39
    let maj := (a &&& b) ^^^ (a &&& c) ^^^ (b &&& c)
    [t1 + s0 + maj, a, b, c, d + t1, e, f, g]
  | _ => v

/-- The hash value after a block of 128 bytes. -/
def sha512Block (h : List DWord) (b : List Byte) : List DWord :=
  let w := (pieces 8 16 b).map (fun x => BitVec.ofNat 64 (beNat x))
  let ws := (sha512Schedule 64 w.reverse).reverse
  (h.zip ((sha512Round.zip ws).foldl sha512Step h)).map (fun x => x.1 + x.2)

/-- SHA-512. -/
def sha512 (m : List Byte) : List Byte :=
  let p := sha512Pad m
  ((pieces 128 (p.length / 128) p).foldl sha512Block sha512Init).flatMap (fun (w : DWord) => beBytes 8 w.toNat)

/-- HMAC with SHA-512. -/
def hmac512 (key m : List Byte) : List Byte :=
  let k := if 128 < key.length then sha512 key else key
  let k := k ++ List.replicate (128 - k.length) 0
  sha512 (k.map (· ^^^ 0x5C) ++ sha512 (k.map (· ^^^ 0x36) ++ m))

/-! ## Addresses and hash functions: n = 32, h = 64, d = 8, a = 14, k = 22, w = 16 -/

/-- An address, of the fields that its compressed form of 22 bytes holds. -/
structure SlhAdrs where
  layer : Nat := 0
  tree : Nat := 0
  kind : Nat := 0
  pair : Nat := 0
  /-- chain, or height in a tree -/
  mid : Nat := 0
  /-- place in a chain or in a tree -/
  idx : Nat := 0

def SlhAdrs.bytes (a : SlhAdrs) : List Byte :=
  beBytes 1 a.layer ++ beBytes 8 a.tree ++ beBytes 1 a.kind ++ beBytes 4 a.pair ++ beBytes 4 a.mid ++ beBytes 4 a.idx

/-- The kinds of address. -/
def adrsWots : Nat := 0
def adrsWotsPk : Nat := 1
def adrsTree : Nat := 2
def adrsFors : Nat := 3
def adrsForsRoots : Nat := 4
def adrsWotsPrf : Nat := 5
def adrsForsPrf : Nat := 6

/-- An address of another kind: the rest of it is cleared, but for a key pair that is kept. -/
def SlhAdrs.as (a : SlhAdrs) (kind : Nat) (pair : Nat) : SlhAdrs := { layer := a.layer, tree := a.tree, kind := kind, pair := pair }

/-- F and PRF, with SHA-256; H and T, with SHA-512. -/
def slhF (seed : List Byte) (a : SlhAdrs) (m : List Byte) : List Byte := sha256 (seed ++ List.replicate 32 0 ++ a.bytes ++ m)
def slhH (seed : List Byte) (a : SlhAdrs) (m : List Byte) : List Byte :=
  (sha512 (seed ++ List.replicate 96 0 ++ a.bytes ++ m)).take 32

/-- `n` bytes of MGF1 with SHA-512. -/
def mgf512 (n : Nat) (seed : List Byte) : List Byte :=
  ((List.range ((n + 63) / 64)).flatMap (fun i => sha512 (seed ++ beBytes 4 i))).take n

/-- H_msg: 47 bytes. -/
def slhDigest (r pk m : List Byte) : List Byte :=
  mgf512 47 (r ++ pk.take 32 ++ sha512 (r ++ pk ++ m))

/-- `n` numbers of `b` bits, the highest bits first. -/
def baseBits (b n : Nat) (x : List Byte) : List Nat :=
  let v := beNat x
  let all := 8 * x.length
  (List.range n).map (fun i => v / 2 ^ (all - b * (i + 1)) % 2 ^ b)

/-! ## WOTS+ -/

/-- `n` steps of a chain from place `i` on. -/
def wotsChain (seed : List Byte) (a : SlhAdrs) : Nat → Nat → List Byte → List Byte
  | 0, _, x => x
  | n + 1, i, x => wotsChain seed a n (i + 1) (slhF seed { a with idx := i } x)

/-- The 67 digits of a message of 32 bytes: 64 and the three of their checksum. -/
def wotsDigits (m : List Byte) : List Nat :=
  let d := baseBits 4 64 m
  d ++ baseBits 4 3 (beBytes 2 ((d.map (15 - ·)).sum * 16))

/-- The secret of chain `i` of a key pair. -/
def wotsSecret (sk seed : List Byte) (a : SlhAdrs) (pair i : Nat) : List Byte :=
  slhF seed { a.as adrsWotsPrf pair with mid := i } sk

/-- The public key of the ends of the chains. -/
def wotsRoot (seed : List Byte) (a : SlhAdrs) (pair : Nat) (ends : List (List Byte)) : List Byte :=
  slhH seed (a.as adrsWotsPk pair) ends.flatten

def wotsKey (sk seed : List Byte) (a : SlhAdrs) (pair : Nat) : List Byte :=
  wotsRoot seed a pair ((List.range 67).map (fun i =>
    wotsChain seed { a.as adrsWots pair with mid := i } 15 0 (wotsSecret sk seed a pair i)))

def wotsSign (sk seed : List Byte) (a : SlhAdrs) (pair : Nat) (m : List Byte) : List Byte :=
  (wotsDigits m).zipIdx.flatMap (fun x => wotsChain seed { a.as adrsWots pair with mid := x.2 } x.1 0 (wotsSecret sk seed a pair x.2))

/-- The public key that a signature gives. -/
def wotsFrom (seed : List Byte) (a : SlhAdrs) (pair : Nat) (sig m : List Byte) : List Byte :=
  wotsRoot seed a pair (((wotsDigits m).zip (pieces 32 67 sig)).zipIdx.map (fun x =>
    wotsChain seed { a.as adrsWots pair with mid := x.2 } (15 - x.1.1) x.1.1 x.1.2))

/-! ## Trees -/

/-- The node of height `z` and place `i` of a tree: `leaf` gives its leaves, `adrs` the address of a node. -/
def slhNode (seed : List Byte) (leaf : Nat → List Byte) (adrs : Nat → Nat → SlhAdrs) : Nat → Nat → List Byte
  | 0, i => leaf i
  | z + 1, i => slhH seed (adrs (z + 1) i) (slhNode seed leaf adrs z (2 * i) ++ slhNode seed leaf adrs z (2 * i + 1))

/-- The root that a path gives, from the node of height `z` and place `i` on. -/
def slhClimb (seed : List Byte) (adrs : Nat → Nat → SlhAdrs) : List (List Byte) → Nat → Nat → List Byte → List Byte
  | [], _, _, x => x
  | y :: ys, z, i, x =>
    slhClimb seed adrs ys (z + 1) (i / 2) (slhH seed (adrs (z + 1) (i / 2)) (if i % 2 = 0 then x ++ y else y ++ x))

/-- The path of place `i`: its neighbours at the heights below `n`. -/
def slhPath (node : Nat → Nat → List Byte) (n i : Nat) : List Byte :=
  (List.range n).flatMap (fun j => node j (if i / 2 ^ j % 2 = 0 then i / 2 ^ j + 1 else i / 2 ^ j - 1))

/-! ## XMSS and the hypertree -/

def xmssAdrs (a : SlhAdrs) (z i : Nat) : SlhAdrs := { a.as adrsTree 0 with
  mid := z
  idx := i }
def xmssNode (sk seed : List Byte) (a : SlhAdrs) : Nat → Nat → List Byte := slhNode seed (wotsKey sk seed a) (xmssAdrs a)
def xmssSign (sk seed : List Byte) (a : SlhAdrs) (i : Nat) (m : List Byte) : List Byte :=
  wotsSign sk seed a i m ++ slhPath (xmssNode sk seed a) 8 i
def xmssFrom (seed : List Byte) (a : SlhAdrs) (i : Nat) (sig m : List Byte) : List Byte :=
  slhClimb seed (xmssAdrs a) (pieces 32 8 (sig.drop 2144)) 0 i (wotsFrom seed a i (sig.take 2144) m)

/-- The trees of `n` layers from layer `j` on sign a message, or give the root. -/
def treeSign (sk seed : List Byte) : Nat → Nat → Nat → Nat → List Byte → List Byte
  | 0, _, _, _, _ => []
  | n + 1, j, tree, leaf, m =>
    let a : SlhAdrs := { layer := j, tree := tree }
    let sig := xmssSign sk seed a leaf m
    sig ++ treeSign sk seed n (j + 1) (tree / 256) (tree % 256) (xmssFrom seed a leaf sig m)
def treeFrom (seed : List Byte) : Nat → Nat → Nat → Nat → List Byte → List Byte → List Byte
  | 0, _, _, _, _, m => m
  | n + 1, j, tree, leaf, sig, m =>
    treeFrom seed n (j + 1) (tree / 256) (tree % 256) (sig.drop 2400)
      (xmssFrom seed { layer := j, tree := tree } leaf (sig.take 2400) m)

/-! ## FORS -/

def forsAdrs (a : SlhAdrs) (z i : Nat) : SlhAdrs := { a with
  mid := z
  idx := i }

/-- The secret of leaf `i` of a FORS key. -/
def forsSecret (sk seed : List Byte) (a : SlhAdrs) (i : Nat) : List Byte :=
  slhF seed { a.as adrsForsPrf a.pair with idx := i } sk
def forsLeaf (sk seed : List Byte) (a : SlhAdrs) (i : Nat) : List Byte := slhF seed (forsAdrs a 0 i) (forsSecret sk seed a i)

/-- The leaf numbers that a digest selects, one in each of the 22 trees. -/
def forsPicks (md : List Byte) : List Nat := (baseBits 14 22 md).zipIdx.map (fun x => x.2 * 2 ^ 14 + x.1)

def forsSign (sk seed : List Byte) (a : SlhAdrs) (md : List Byte) : List Byte :=
  (forsPicks md).flatMap (fun i =>
    forsSecret sk seed a i ++ slhPath (slhNode seed (forsLeaf sk seed a) (forsAdrs a)) 14 i)
def forsFrom (seed : List Byte) (a : SlhAdrs) (sig md : List Byte) : List Byte :=
  slhH seed (a.as adrsForsRoots a.pair) (((forsPicks md).zip (pieces 480 22 sig)).flatMap (fun x =>
    slhClimb seed (forsAdrs a) (pieces 32 14 (x.2.drop 32)) 0 x.1 (slhF seed (forsAdrs a 0 x.1) (x.2.take 32))))

/-! ## SLH-DSA -/

/-- Where a digest points: the FORS message, the tree and the leaf. -/
def slhParts (d : List Byte) : List Byte × Nat × Nat := (d.take 39, beNat ((d.drop 39).take 7), beNat ((d.drop 46).take 1))

/-- A message as it is signed: pure, with an empty context (PRESUMED, log entry 127). -/
def slhMessage (m : List Byte) : List Byte := 0 :: 0 :: m

/-- The public key of a seed of 96 bytes: SK.seed, SK.prf and PK.seed. -/
def slhPublic (key : List Byte) : List Byte :=
  let seed := (key.drop 64).take 32
  seed ++ xmssNode (key.take 32) seed { layer := 7 } 8 0

/-- The signature of a message with the key of a seed and 32 random bytes. -/
def slhSign (key rand msg : List Byte) : List Byte :=
  let sk := key.take 32
  let seed := (key.drop 64).take 32
  let m := slhMessage msg
  let r := (hmac512 ((key.drop 32).take 32) (rand ++ m)).take 32
  let x := slhParts (slhDigest r (slhPublic key) m)
  let a : SlhAdrs := { tree := x.2.1, kind := adrsFors, pair := x.2.2 }
  let fors := forsSign sk seed a x.1
  r ++ fors ++ treeSign sk seed 8 0 x.2.1 x.2.2 (forsFrom seed a fors x.1)

/-- A signature of a message verifies under a public key. -/
def slhVerify (pk msg sig : List Byte) : Bool :=
  let seed := pk.take 32
  let x := slhParts (slhDigest (sig.take 32) pk (slhMessage msg))
  let a : SlhAdrs := { tree := x.2.1, kind := adrsFors, pair := x.2.2 }
  decide (sig.length = 29792) && decide (pk.length = 64) && decide (treeFrom seed 8 0 x.2.1 x.2.2 (sig.drop 10592)
    (forsFrom seed a ((sig.drop 32).take 10560) x.1) = pk.drop 32)

end Sys2Proof.Machine
end

