-- ==== Sys2Proof/Machine/Kiln.lean ====
section
/-! DEFINITION. The kiln: tenant counters, nonces, quotes, and sealed checkpoints (R445-R453). -/

namespace Sys2Proof.Machine

/-! ## Tenant counters (R445) -/

/-- The slot of the LIVE counter of a TID. -/
def State.counterOf (s : State) (tid : BitVec 64) : Option Nat := (s.counter.find? (fun x => x.2.live && decide (x.2.tid = tid))).map Prod.fst

/-- The value of a TID's counter, where it is LIVE and bound to a partition. -/
def State.counterVal (s : State) (tid : BitVec 64) (p : BitVec 5) : Option Nat :=
  (s.counterOf tid).bind (fun i => let c := Map.get s.counter {} i
    if c.part = p then some c.val.toNat else none)

/-- A counter's value rises (R445). -/
def raiseCounter (s : State) (tid : BitVec 64) (v : Nat) : State := match s.counterOf tid with
  | none => s
  | some i => { s with counter := Map.modify s.counter {} i (fun c => { c with val := BitVec.ofNat 64 (min (max c.val.toNat v) (2 ^ 64 - 1)) }) }

/-- KCTR (R449): binds a FREE slot, with value 0. -/
def execKctr (pf : Bool) (m : List Word) (s : State) : Host.Outcome State Fault Refusal :=
  .next (secured pf 0x70 m s (fun s =>
    let p : BitVec 5 := BitVec.ofNat 5 (entByte m 4)
    let tid : BitVec 64 := BitVec.ofNat 64 (entNat m 8 8)
    let i := entNat m 16 2
    if 32 ≤ entByte m 4 ∨ 4096 ≤ i ∨ entZero m 128 [(4, 1), (8, 10)] = false ∨ s.partLive p = false then (s, 3)
    else if (Map.get s.counter {} i).live = true ∨ (s.counterOf tid).isSome = true then (s, 2)
    else ({ s with counter := Map.set s.counter i { live := true, tid := tid, part := p } }, 0)))

/-- KCTRFREE (R449). -/
def execKctrfree (pf : Bool) (m : List Word) (s : State) : Host.Outcome State Fault Refusal :=
  .next (secured pf 0x71 m s (fun s =>
    let i := entNat m 16 2
    if 4096 ≤ i ∨ entZero m 128 [(16, 2)] = false then (s, 3)
    else if (Map.get s.counter {} i).live = false then (s, 2)
    else ({ s with counter := Map.erase s.counter i }, 0)))

/-! ## Nonces and quotes (R448, R449) -/

/-- Words as bytes, and a list of bytes as words. -/
def wordsBytes (ws : List Word) : List Byte := ws.flatMap (fun (w : Word) => leBytes 4 w.toNat)

/-- Free words. -/
def freeWords : Nat → State → List Word × State
  | 0, s => ([], s)
  | n + 1, s =>
    let f := s.free
    let r := freeWords n f.2
    (f.1 :: r.1, r.2)

/-- KNONCE (R449): 32 random bytes, of which at most 16 nonces are outstanding. -/
def execKnonce (pf : Bool) (s : State) : Host.Outcome State Fault Refusal :=
  .next (serve 0x72 pf s (fun s ws =>
    if entZero ws 64 [] = false then plain (s, 3)
    else
      let r := freeWords 8 s
      .answer { r.2 with nonce := (r.2.nonce ++ [wordsBytes r.1]).drop (r.2.nonce.length + 1 - 16) } 0
        (r.1.zipIdx.map (fun x => (8 + x.2, x.1)))))

/-- Bytes `n` of an entry from byte `i` on. -/
def entBytes (ws : List Word) (i n : Nat) : List Byte := ((wordsBytes ws).drop i).take n

/-- A list of bytes cut or filled with zeros to a length. -/
def padTo (n : Nat) (bs : List Byte) : List Byte := (bs ++ List.replicate n 0).take n

/-- The seeds of the exchange key and of the identity key (R446, R448), and the random bytes of a free choice. -/
def exchangeSeed (s : State) : List Byte := padTo 64 (Config.exchangeSeed s.fwmeas)
def identitySeed : List Byte := padTo 96 Config.identitySeed
def kilnRandom (n : Word) : List Byte := padTo 32 (Config.kilnRandom n.toNat)

/-- The bytes of a quote before its signature (R448). -/
def quoteBody (s : State) (nonce : List Byte) (tid : BitVec 64) : List Byte :=
  let id := if s.modValid then s.modId.toNat else 0x83FF
  let masks := (List.range 16).flatMap (fun d => leBytes 4 (if bitAt s.dadm d then (s.fmaskOf (BitVec.ofNat 4 d)).toNat else 0))
  let val := match s.counterOf tid with
    | some i => if tid = 0 then 0 else (Map.get s.counter {} i).val.toNat
    | none => 0
  leBytes 4 0x51544531 ++ leBytes 4 1 ++ leBytes 2 id ++ List.replicate 6 0 ++ padTo 32 nonce ++ padTo 32 s.fwmeas
    ++ padTo 64 (slhPublic identitySeed) ++ masks ++ leBytes 8 tid.toNat ++ leBytes 8 val ++ List.replicate 32 0
    ++ padTo 1568 (kemPublic (exchangeSeed s))

/-- KQUOTE (R448, R449). -/
def execKquote (pf : Bool) (s : State) : Host.Outcome State Fault Refusal :=
  .next (serve 0x73 pf s (fun s ws =>
    let p : BitVec 5 := BitVec.ofNat 5 (entByte ws 54)
    let k : BitVec 13 := BitVec.ofNat 13 (entNat ws 52 2)
    if 32 ≤ entByte ws 54 ∨ 8192 ≤ entNat ws 52 2 ∨ entZero ws 64 [(4, 51)] = false ∨ s.partLive p = false then plain (s, 3)
    else
      let body := quoteBody s (entBytes ws 4 32) (BitVec.ofNat 64 (entNat ws 36 8))
      let f := s.free
      let r := f.2.writePart p (entNat ws 44 8) k (body ++ padTo 29792 (slhSign identitySeed (kilnRandom f.1) body))
      plain (r.1, if r.2 then 0 else 2)))

/-! ## Kiln images (R446, R447) -/

/-- The tenant measurement of a context image's header (R446). -/
def measureOf (h : List Word) : List Byte :=
  let b := wordsBytes h
  let at_ := fun (i n : Nat) => (b.drop i).take n
  sha256 (at_ 0x20 32 ++ at_ 0x10 4 ++ at_ 4 1 ++ at_ 5 1 ++ at_ 8 2 ++ at_ 0xA 2 ++ List.replicate 22 0)

/-- ASCII bytes of a label. -/
def ascii (x : String) : List Byte := x.toList.map (fun c => BitVec.ofNat 8 c.toNat)

/-- K of an image (R446). -/
def sealKey (meas : List Byte) (tid : BitVec 64) (ctr : Nat) : List Byte :=
  hkdf meas Config.sroot (ascii "DS16KILN" ++ leBytes 8 tid.toNat ++ leBytes 8 ctr)

/-- KW of a wrapped image (R447). -/
def wrapKey (meas ss : List Byte) (tid : BitVec 64) (ctr dst : Nat) : List Byte :=
  hkdf meas ss (ascii "DS16WRAP" ++ leBytes 8 tid.toNat ++ leBytes 8 ctr ++ leBytes 2 dst)

/-- The nonce of a segment, or of the header at index 0xFFFF_FFFF. -/
def sealNonce (i ctr : Nat) : List Byte := leBytes 4 i ++ leBytes 8 ctr
def headerIndex : Nat := 0xFFFFFFFF

/-- Plain bytes of a segment, and what it takes with its tag. -/
def segBytes : Nat := 2 ^ 20
def segStride : Nat := 1048592

/-- The header fields of a kiln image. -/
structure KilnHead where
  wrap : Bool := false
  tid : BitVec 64 := 0
  ctr : Nat := 0
  feat : Word := 0
  plen : Nat := 0
  src : Nat := 0
  dst : Nat := 0
  meas : List Byte := []

/-- Segments of an image. -/
def KilnHead.nseg (h : KilnHead) : Nat := (h.plen + segBytes - 1) / segBytes

/-- Bytes of an image. -/
def KilnHead.size (h : KilnHead) : Nat := 0x800 + h.plen + 16 * h.nseg

/-- Bytes 0x000-0x05F: the associated data of every encryption. -/
def KilnHead.bytes (h : KilnHead) : List Byte :=
  leBytes 4 0x4B494C31 ++ leBytes 2 1 ++ leBytes 2 (if h.wrap then 1 else 0) ++ leBytes 8 h.tid.toNat ++ leBytes 8 h.ctr
    ++ leBytes 4 h.feat.toNat ++ leBytes 4 h.nseg ++ leBytes 8 h.plen ++ leBytes 2 h.src ++ leBytes 2 h.dst ++ List.replicate 4 0
    ++ padTo 32 h.meas ++ List.replicate 16 0

/-- The first 2 KiB of an image: its fields, its wrapped key and its header tag. -/
def KilnHead.page (h : KilnHead) (key : List Byte) (kem wkey : List Byte) : List Byte :=
  let front := padTo 0x700 (padTo 0x680 (h.bytes ++ padTo 1568 kem) ++ padTo 48 wkey)
  padTo 0x800 (front ++ padTo 16 (gcmSeal key (sealNonce headerIndex h.ctr) front []))

/-- The fields of an image's first page; none where they are not consistent (R447, R452). -/
def kilnHead (b : List Byte) : Option KilnHead :=
  let n := fun (i k : Nat) => leNat ((b.drop i).take k)
  let h : KilnHead := { wrap := decide (n 6 2 = 1), tid := BitVec.ofNat 64 (n 8 8), ctr := n 0x10 8, feat := BitVec.ofNat 32 (n 0x18 4),
                        plen := n 0x20 8, src := n 0x28 2, dst := n 0x2A 2, meas := (b.drop 0x30).take 32 }
  if n 0 4 = 0x4B494C31 ∧ n 4 2 = 1 ∧ n 6 2 ≤ 1 ∧ 64 ≤ h.plen ∧ n 0x1C 4 = h.nseg ∧ 1 ≤ h.nseg ∧ h.nseg ≤ 2 ^ 20 then some h else none

/-- The segments of plain bytes. -/
def segments : Nat → List Byte → List (List Byte)
  | 0, _ => []
  | n + 1, b => b.take segBytes :: segments n (b.drop segBytes)

/-- The sealed segments of an image, each with its tag. -/
def sealAll (h : KilnHead) (key b : List Byte) : List Byte :=
  (segments h.nseg b).zipIdx.flatMap (fun x => gcmSeal key (sealNonce x.2 h.ctr) h.bytes x.1)

/-- The first 96 bytes of an image as they stood when its segments were sealed: an export copies the segments and changes WRAP and
DSTMOD (R451). -/
def sealedHead (page : List Byte) : List Byte :=
  page.take 6 ++ [0, 0] ++ (page.drop 8).take 0x22 ++ [0, 0] ++ (page.drop 0x2C).take 0x34

/-- The plain bytes of an image: none where the header tag or a segment's tag is wrong. -/
def openAll (h : KilnHead) (key page body : List Byte) : Option (List Byte) :=
  let aad := sealedHead page
  match gcmOpen key (sealNonce headerIndex h.ctr) (page.take 0x700) ((page.drop 0x700).take 16) with
  | none => none
  | some _ => ((List.range h.nseg).mapM (fun i =>
      gcmOpen key (sealNonce i h.ctr) aad ((body.drop (i * segStride)).take (min segBytes (h.plen - i * segBytes) + 16)))).map List.flatten

/-! ## The commands (R449-R452) -/

/-- A snapshot of a partition is in progress, or a restore: a `REST` under way, or a course that is loading by restore. -/
def snapRuns (s : State) (p : BitVec 5) : Bool :=
  s.region.any (fun x => decide (x.2.part = p) && (x.2.snap.isSome || (x.2.restoring && decide (x.2.st = .loading))))
    || s.reqs.any (fun r => decide (r.stamp.part = p) && (match r.op with
      | .restore _ => decide (r.stage = .home)
      | _ => false))

/-- A status of 4-6 enters the partition's event log (R449). -/
def kilnStatus (s : State) (p : BitVec 5) (die : BitVec 4) (st : Nat) : State :=
  let c := if st = 4 then causeStaleImage else if st = 5 then causeFeature else causeAuth
  if 4 ≤ st then logDie s p (originWord die.toNat 0 0 0 true c) c die else s

/-- A kiln command that ends with a status. -/
def kilnEnds (s : State) (p : BitVec 5) (die : BitVec 4) (st : Nat) : State × Nat := (kilnStatus s p die st, st)

/-- The words of bytes. -/
def asWords (b : List Byte) : List Word := bytesWords b

/-- What `KSEAL` does (R450). -/
def sealImage (s : State) (ws : List Word) : State × Nat :=
  let p : BitVec 5 := BitVec.ofNat 5 (entByte ws 4)
  let tid : BitVec 64 := BitVec.ofNat 64 (entNat ws 8 8)
  let src := entNat ws 16 8
  let dst := entNat ws 24 8
  let ks : BitVec 13 := BitVec.ofNat 13 (entNat ws 40 2)
  let kd : BitVec 13 := BitVec.ofNat 13 (entNat ws 42 2)
  if 32 ≤ entByte ws 4 ∨ 8192 ≤ entNat ws 40 2 ∨ 8192 ≤ entNat ws 42 2 ∨ entZero ws 64 [(4, 1), (8, 36)] = false ∨ s.partLive p = false then (s, 3)
  else if snapRuns s p then (s, 1)
  else
  let s := s.usePart p src 64 ks
  match s.readPart p src 64 ks, s.counterVal tid p with
  | .ok hb, some v =>
    let hw := asWords hb
    let n := (hw.getD 3 0).toNat
    let h : KilnHead := { tid := tid, ctr := v + 1, feat := hw.getD 4 0, plen := n, src := s.modId.toNat, meas := measureOf hw }
    if imageHeadOk hw = false ∨ 2 ^ 64 - 1 ≤ v ∨ entNat ws 32 8 < h.size then (s, 2)
    else
      let s := (raiseCounter s tid (v + 1)).usePart p src n ks
      match s.readPart p src n ks with
      | .error _ => (s, 2)
      | .ok b =>
        let key := sealKey h.meas tid h.ctr
        let r := s.writePart p dst kd (h.page key [] [] ++ sealAll h key b)
        (r.1, if r.2 then 0 else 2)
  | _, _ => (s, 2)

/-- KSEAL (R450). -/
def execKseal (pf : Bool) (s : State) : Host.Outcome State Fault Refusal := .next (serve 0x74 pf s (fun s ws => plain (sealImage s ws)))

/-- A context image holds a latch with VALID = 1 in some record (R451). -/
def holdsLatch (b : List Byte) : Bool :=
  let ws := asWords b
  (List.range (bitsNat (ws.getD 1 0) 16 16)).any (fun i => (nodeOfRecord ((ws.drop (16 + 128 * i)).take 128)).latchValid)

/-- The quote of a peer: its signature verifies, its identity is the expected one, its nonce is the one named and is
outstanding (R451). -/
def quoteOk (s : State) (q nonce idHash : List Byte) : Bool :=
  let at_ := fun (i n : Nat) => (q.drop i).take n
  slhVerify (at_ 0x50 64) (q.take 0x720) (at_ 0x720 29792) && decide (sha256 (at_ 0x50 64) = idHash)
    && decide (at_ 0x10 32 = nonce) && s.nonce.contains nonce

/-- Some die of a quote has every feature (R451). -/
def quoteFits (q : List Byte) (feat : Word) : Bool :=
  (List.range 16).any (fun d => decide (feat &&& ~~~(BitVec.ofNat 32 (leNat ((q.drop (0x90 + 4 * d)).take 4))) = 0))

/-- What `KEXPORT` does with an image that it has read (R451). One of counter 2^64 - 1 is refused with status 2, since no counter
value would make it stale (DESIGN CHOICE, log entry 122). -/
def exportImage (s : State) (p : BitVec 5) (h : KilnHead) (page body quote nonce idHash : List Byte) : Nat ⊕ (State × List Byte) :=
  let key := sealKey h.meas h.tid h.ctr
  match openAll h key page body with
  | none => .inl 6
  | some b =>
    if h.wrap ∨ h.src ≠ s.modId.toNat ∨ (s.counterVal h.tid p).isNone = true then .inl 6
    else if h.ctr < (s.counterVal h.tid p).getD 0 then .inl 4
    else if holdsLatch b ∨ 2 ^ 64 - 1 ≤ h.ctr then .inl 2
    else if quoteOk s quote nonce idHash = false ∨ kemKeyOk ((quote.drop 0x100).take 1568) = false then .inl 6
    else
      let s : State := { s with nonce := s.nonce.erase nonce }
      if quoteFits quote h.feat = false then .inl 5
      else
        let dst := leNat ((quote.drop 8).take 2)
        let f := s.free
        let kem := kemSeal (kilnRandom f.1) ((quote.drop 0x100).take 1568)
        let h' := { h with
          wrap := true
          dst := dst }
        let wk := gcmSeal (wrapKey h.meas kem.2 h.tid h.ctr dst) (List.replicate 12 0) h'.bytes key
        .inr (f.2, h'.page key kem.1 wk ++ body)

/-- Bytes of an image after its first page. -/
def bodyLen (h : KilnHead) : Nat := h.size - 0x800

/-- An image read from a partition: its first page, its fields and its segments. -/
def readKiln (s : State) (p : BitVec 5) (a : Nat) (k : BitVec 13) : Option (List Byte × KilnHead × List Byte) :=
  match s.readPart p a 0x800 k with
  | .error _ => none
  | .ok page => match kilnHead page with
    | none => none
    | some h => match s.readPart p (a + 0x800) (bodyLen h) k with
      | .error _ => none
      | .ok body => some (page, h, body)

/-- The reads of an image pass through the caches of their homes (R290). -/
def useKiln (s : State) (p : BitVec 5) (a : Nat) (k : BitVec 13) : State :=
  let s := s.usePart p a 0x800 k
  match s.readPart p a 0x800 k with
  | .error _ => s
  | .ok page => match kilnHead page with
    | none => s
    | some h => s.usePart p (a + 0x800) (bodyLen h) k

/-- The end of an export that passed its checks: the image is written, and the counter rises (R451). -/
def finishExport (s : State) (p : BitVec 5) (tid : BitVec 64) (ctr dst : Nat) (kd : BitVec 13) (b : List Byte) : State × Nat :=
  let w := s.writePart p dst kd b
  if w.2 then (raiseCounter w.1 tid (ctr + 1), 0) else (w.1, 2)

/-- KEXPORT (R449, R451): a nonce that was checked is consumed, whatever the check after it says. -/
def execKexport (pf : Bool) (m : List Word) (s : State) : Host.Outcome State Fault Refusal :=
  .next (secured pf 0x75 m s (fun s =>
    let p : BitVec 5 := BitVec.ofNat 5 (entByte m 4)
    let ks : BitVec 13 := BitVec.ofNat 13 (entNat m 40 2)
    let kd : BitVec 13 := BitVec.ofNat 13 (entNat m 42 2)
    let nonce := entBytes m 64 32
    if 32 ≤ entByte m 4 ∨ 8192 ≤ entNat m 40 2 ∨ 8192 ≤ entNat m 42 2 ∨ entZero m 128 [(4, 1), (8, 36), (64, 64)] = false
        ∨ s.partLive p = false then (s, 3)
    else
    let s := (useKiln s p (entNat m 16 8) ks).usePart p (entNat m 24 8) 31616 ks
    match readKiln s p (entNat m 16 8) ks, s.readPart p (entNat m 24 8) 31616 ks with
    | some (page, h, body), .ok quote =>
      if h.tid ≠ BitVec.ofNat 64 (entNat m 8 8) then kilnEnds s p 0 6
      else match exportImage s p h page body quote nonce (entBytes m 96 32) with
      | .inl 5 => kilnEnds { s with nonce := s.nonce.erase nonce } p 0 5
      | .inl st => kilnEnds s p 0 st
      | .inr (s, b) => finishExport s p h.tid h.ctr (entNat m 32 8) kd b
    | _, _ => (s, 2)))

/-- K of an image that is to be opened (R452). -/
def openKey (s : State) (h : KilnHead) (page : List Byte) : Option (List Byte) :=
  if h.wrap then
    let ss := kemOpen (exchangeSeed s) ((page.drop 0x60).take 1568)
    gcmOpen (wrapKey h.meas ss h.tid h.ctr h.dst) (List.replicate 12 0) (page.take 0x60) ((page.drop 0x680).take 48)
  else some (sealKey h.meas h.tid h.ctr)

/-- The task of a whole-course image: WAITING or READY, of the partition, and of a course image of the same DIGEST. -/
def taskFits (s : State) (p : BitVec 5) (die : BitVec 4) (ref : Word) (digest : List Byte) : Bool :=
  let t := s.task die (refIndex ref)
  decide (refDie ref = die) && namesRecord s p ref && decide (t.state = 2 ∨ t.state = 4) && (match readHeader s die p t.image with
    | .ok (h, _) => decide (h.digest = digest)
    | .error _ => false)

/-- The checks of `KOPEN` on an image, in order: a status, or its plain bytes (R452). -/
def openChecks (s : State) (p : BitVec 5) (die : BitVec 4) (ref : Word) (page : List Byte) (h : KilnHead) (body : List Byte) : Except Nat (List Byte) :=
  match s.counterVal h.tid p with
  | none => .error 2
  | some v =>
    if (if h.wrap then h.dst else h.src) ≠ s.modId.toNat then .error 2
    else if h.ctr < v then .error 4
    else if h.feat &&& ~~~(BitVec.setWidth 32 (s.fmaskOf die)) ≠ 0 then .error 5
    else match (openKey s h page).bind (fun key => openAll h key page body) with
      | none => .error 6
      | some b =>
        let hw := asWords (b.take 64)
        if measureOf hw ≠ h.meas ∨ hw.getD 4 0 ≠ h.feat then .error 6
        else if snapRuns s p then .error 1
        else if s.saveSize p < h.plen then .error 2
        else if bitsNat (hw.getD 1 0) 0 8 = 1 ∧ taskFits s p die ref ((b.drop 0x20).take 32) = false then .error 2
        else .ok b

/-- An opened image goes to the save area, the counter rises to its CTR, and the task of a whole course is loaded from it. -/
def finishOpen (s : State) (p : BitVec 5) (die : BitVec 4) (ref : Word) (h : KilnHead) (b : List Byte) : State × Nat :=
  let w := s.writePart p (s.pcbD p 0x30) (s.stagingStamp p).keyid b
  if w.2 then
    let s := raiseCounter w.1 h.tid h.ctr
    (if bitsNat ((asWords (b.take 64)).getD 1 0) 0 8 = 1 then s.updTask die (refIndex ref) (fun t => { t with restore := true }) else s, 0)
  else (w.1, 2)

/-- KOPEN (R452). -/
def execKopen (pf : Bool) (s : State) : Host.Outcome State Fault Refusal :=
  .next (serve 0x76 pf s (fun s ws =>
    let p : BitVec 5 := BitVec.ofNat 5 (entByte ws 4)
    let die : BitVec 4 := BitVec.ofNat 4 (entByte ws 5)
    let ref := ws.getD 4 0
    if 32 ≤ entByte ws 4 ∨ 16 ≤ entByte ws 5 ∨ 8192 ≤ entNat ws 20 2 ∨ entZero ws 64 [(4, 2), (8, 14)] = false
        ∨ s.partLive p = false then plain (s, 3)
    else
    let s := useKiln s p (entNat ws 8 8) (BitVec.ofNat 13 (entNat ws 20 2))
    match readKiln s p (entNat ws 8 8) (BitVec.ofNat 13 (entNat ws 20 2)) with
    | none => plain (s, 2)
    | some (page, h, body) => match openChecks s p die ref page h body with
      | .error st => plain (kilnEnds s p die st)
      | .ok b => plain (finishOpen s p die ref h b)))

end Sys2Proof.Machine
end

