-- ==== Sys2Proof/Machine/Dispatch.lean ====
section
/-! DEFINITION. What every instruction and step of the opcode table does: one arm per constructor, each one call of its meaning. -/

namespace Sys2Proof.Machine

def exec (i : Instr) (s : State) : Host.Outcome State Fault Refusal :=
  match i with
  | .nop f => Sys2Proof.Machine.execNop f s
  | .mov f => Sys2Proof.Machine.execMov f s
  | .li f => Sys2Proof.Machine.execLi f s
  | .lui f => Sys2Proof.Machine.execLui f s
  | .add f => Sys2Proof.Machine.execAdd f s
  | .sub f => Sys2Proof.Machine.execSub f s
  | .adds f => Sys2Proof.Machine.execAdds f s
  | .subs f => Sys2Proof.Machine.execSubs f s
  | .mul f => Sys2Proof.Machine.execMul f s
  | .mulhI32 f => Sys2Proof.Machine.execMulhI32 f s
  | .mulhN32 f => Sys2Proof.Machine.execMulhN32 f s
  | .mac f => Sys2Proof.Machine.execMac f s
  | .divI32 f => Sys2Proof.Machine.execDivI32 f s
  | .divN32 f => Sys2Proof.Machine.execDivN32 f s
  | .modI32 f => Sys2Proof.Machine.execModI32 f s
  | .modN32 f => Sys2Proof.Machine.execModN32 f s
  | .and f => Sys2Proof.Machine.execAnd f s
  | .or f => Sys2Proof.Machine.execOr f s
  | .xor f => Sys2Proof.Machine.execXor f s
  | .andn f => Sys2Proof.Machine.execAndn f s
  | .shl f => Sys2Proof.Machine.execShl f s
  | .shr f => Sys2Proof.Machine.execShr f s
  | .sar f => Sys2Proof.Machine.execSar f s
  | .rol f => Sys2Proof.Machine.execRol f s
  | .clz f => Sys2Proof.Machine.execClz f s
  | .popc f => Sys2Proof.Machine.execPopc f s
  | .brev f => Sys2Proof.Machine.execBrev f s
  | .sext f => Sys2Proof.Machine.execSext f s
  | .zext f => Sys2Proof.Machine.execZext f s
  | .bfx f => Sys2Proof.Machine.execBfx f s
  | .bfi f => Sys2Proof.Machine.execBfi f s
  | .sel f => Sys2Proof.Machine.execSel f s
  | .cmpEq f => Sys2Proof.Machine.execCmpEq f s
  | .cmpNe f => Sys2Proof.Machine.execCmpNe f s
  | .cmpLtI32 f => Sys2Proof.Machine.execCmpLtI32 f s
  | .cmpLeI32 f => Sys2Proof.Machine.execCmpLeI32 f s
  | .cmpLtN32 f => Sys2Proof.Machine.execCmpLtN32 f s
  | .cmpLeN32 f => Sys2Proof.Machine.execCmpLeN32 f s
  | .minI32 f => Sys2Proof.Machine.execMinI32 f s
  | .maxI32 f => Sys2Proof.Machine.execMaxI32 f s
  | .minN32 f => Sys2Proof.Machine.execMinN32 f s
  | .maxN32 f => Sys2Proof.Machine.execMaxN32 f s
  | .abs f => Sys2Proof.Machine.execAbs f s
  | .neg f => Sys2Proof.Machine.execNeg f s
  | .pset f => Sys2Proof.Machine.execPset f s
  | .pget f => Sys2Proof.Machine.execPget f s
  | .tst f => Sys2Proof.Machine.execTst f s
  | .lea f => Sys2Proof.Machine.execLea f s
  | .fadd f => Sys2Proof.Machine.execFadd f s
  | .fsub f => Sys2Proof.Machine.execFsub f s
  | .fmul f => Sys2Proof.Machine.execFmul f s
  | .fma f => Sys2Proof.Machine.execFma f s
  | .fmin f => Sys2Proof.Machine.execFmin f s
  | .fmax f => Sys2Proof.Machine.execFmax f s
  | .fcmpEq f => Sys2Proof.Machine.execFcmpEq f s
  | .fcmpLt f => Sys2Proof.Machine.execFcmpLt f s
  | .fcmpLe f => Sys2Proof.Machine.execFcmpLe f s
  | .fcmpUn f => Sys2Proof.Machine.execFcmpUn f s
  | .fabs f => Sys2Proof.Machine.execFabs f s
  | .fneg f => Sys2Proof.Machine.execFneg f s
  | .frcp f => Sys2Proof.Machine.execFrcp f s
  | .frsq f => Sys2Proof.Machine.execFrsq f s
  | .fexp2 f => Sys2Proof.Machine.execFexp2 f s
  | .flog2 f => Sys2Proof.Machine.execFlog2 f s
  | .cvtF f => Sys2Proof.Machine.execCvtF f s
  | .cvtIf f => Sys2Proof.Machine.execCvtIf f s
  | .cvtFi f => Sys2Proof.Machine.execCvtFi f s
  | .cvtNf f => Sys2Proof.Machine.execCvtNf f s
  | .cvtFn f => Sys2Proof.Machine.execCvtFn f s
  | .pack2 f => Sys2Proof.Machine.execPack2 f s
  | .unpk f => Sys2Proof.Machine.execUnpk f s
  | .scale f => Sys2Proof.Machine.execScale f s
  | .ldW f => Sys2Proof.Machine.execLdW f s
  | .ldH f => Sys2Proof.Machine.execLdH f s
  | .ldHs f => Sys2Proof.Machine.execLdHs f s
  | .ldB f => Sys2Proof.Machine.execLdB f s
  | .ldBs f => Sys2Proof.Machine.execLdBs f s
  | .stW f => Sys2Proof.Machine.execStW f s
  | .stH f => Sys2Proof.Machine.execStH f s
  | .stB f => Sys2Proof.Machine.execStB f s
  | .ldc f => Sys2Proof.Machine.execLdc f s
  | .ldP f => Sys2Proof.Machine.execLdP f s
  | .stP f => Sys2Proof.Machine.execStP f s
  | .ldxW f => Sys2Proof.Machine.execLdxW f s
  | .stxW f => Sys2Proof.Machine.execStxW f s
  | .lcas f => Sys2Proof.Machine.execLcas f s
  | .ladd f => Sys2Proof.Machine.execLadd f s
  | .emit f => Sys2Proof.Machine.execEmit f s
  | .stop f => Sys2Proof.Machine.execStop f s
  | .fwd f => Sys2Proof.Machine.execFwd f s
  | .drop f => Sys2Proof.Machine.execDrop f s
  | .tagf f => Sys2Proof.Machine.execTagf f s
  | .sclo f => Sys2Proof.Machine.execSclo f s
  | .head f => Sys2Proof.Machine.execHead f s
  | .idle f => Sys2Proof.Machine.execIdle f s
  | .vadd f => Sys2Proof.Machine.execVadd f s
  | .vsub f => Sys2Proof.Machine.execVsub f s
  | .vmul f => Sys2Proof.Machine.execVmul f s
  | .vfma f => Sys2Proof.Machine.execVfma f s
  | .vmin f => Sys2Proof.Machine.execVmin f s
  | .vmax f => Sys2Proof.Machine.execVmax f s
  | .vcmp f => Sys2Proof.Machine.execVcmp f s
  | .vsel f => Sys2Proof.Machine.execVsel f s
  | .vand f => Sys2Proof.Machine.execVand f s
  | .vor f => Sys2Proof.Machine.execVor f s
  | .vxor f => Sys2Proof.Machine.execVxor f s
  | .vshl f => Sys2Proof.Machine.execVshl f s
  | .vshr f => Sys2Proof.Machine.execVshr f s
  | .vcvt f => Sys2Proof.Machine.execVcvt f s
  | .vdot f => Sys2Proof.Machine.execVdot f s
  | .vscale f => Sys2Proof.Machine.execVscale f s
  | .vld f => Sys2Proof.Machine.execVld f s
  | .vst f => Sys2Proof.Machine.execVst f s
  | .vldx f => Sys2Proof.Machine.execVldx f s
  | .vstx f => Sys2Proof.Machine.execVstx f s
  | .vbcast f => Sys2Proof.Machine.execVbcast f s
  | .vext f => Sys2Proof.Machine.execVext f s
  | .vins f => Sys2Proof.Machine.execVins f s
  | .vperm f => Sys2Proof.Machine.execVperm f s
  | .vredAdd f => Sys2Proof.Machine.execVredAdd f s
  | .vredMax f => Sys2Proof.Machine.execVredMax f s
  | .vredMin f => Sys2Proof.Machine.execVredMin f s
  | .vscan f => Sys2Proof.Machine.execVscan f s
  | .vpack f => Sys2Proof.Machine.execVpack f s
  | .vunpk f => Sys2Proof.Machine.execVunpk f s
  | .vout f => Sys2Proof.Machine.execVout f s
  | .vin f => Sys2Proof.Machine.execVin f s
  | .mcfg f => Sys2Proof.Machine.execMcfg f s
  | .mrun f => Sys2Proof.Machine.execMrun f s
  | .mdrain f => Sys2Proof.Machine.execMdrain f s
  | .mclr f => Sys2Proof.Machine.execMclr f s
  | .mldk f => Sys2Proof.Machine.execMldk f s
  | .mstk f => Sys2Proof.Machine.execMstk f s
  | .mshape f => Sys2Proof.Machine.execMshape f s
  | .mpass f => Sys2Proof.Machine.execMpass f s
  | .mstat f => Sys2Proof.Machine.execMstat f s
  | .mfeed f => Sys2Proof.Machine.execMfeed f s
  | .mscl f => Sys2Proof.Machine.execMscl f s
  | .mfin f => Sys2Proof.Machine.execMfin f s
  | .mfinAbort f => Sys2Proof.Machine.execMfinAbort f s
  | .rncv f => Sys2Proof.Machine.execRncv f s
  | .rnct f => Sys2Proof.Machine.execRnct f s
  | .rnadd f => Sys2Proof.Machine.execRnadd f s
  | .rnsub f => Sys2Proof.Machine.execRnsub f s
  | .rnmul f => Sys2Proof.Machine.execRnmul f s
  | .rnmac f => Sys2Proof.Machine.execRnmac f s
  | .rnneg f => Sys2Proof.Machine.execRnneg f s
  | .vrncv f => Sys2Proof.Machine.execVrncv f s
  | .vrnct f => Sys2Proof.Machine.execVrnct f s
  | .vrnmac f => Sys2Proof.Machine.execVrnmac f s
  | .vrndot f => Sys2Proof.Machine.execVrndot f s
  | .gld f => Sys2Proof.Machine.execGld f s
  | .gst f => Sys2Proof.Machine.execGst f s
  | .gldA f => Sys2Proof.Machine.execGldA f s
  | .gstL f => Sys2Proof.Machine.execGstL f s
  | .pld f => Sys2Proof.Machine.execPld f s
  | .pst f => Sys2Proof.Machine.execPst f s
  | .pclr f => Sys2Proof.Machine.execPclr f s
  | .pprb f => Sys2Proof.Machine.execPprb f s
  | .fence f => Sys2Proof.Machine.execFence f s
  | .aupd f => Sys2Proof.Machine.execAupd f s
  | .afet f => Sys2Proof.Machine.execAfet f s
  | .acas f => Sys2Proof.Machine.execAcas f s
  | .aapl f => Sys2Proof.Machine.execAapl f s
  | .gldv f => Sys2Proof.Machine.execGldv f s
  | .gldvP f => Sys2Proof.Machine.execGldvP f s
  | .gstv f => Sys2Proof.Machine.execGstv f s
  | .gstvP f => Sys2Proof.Machine.execGstvP f s
  | .xrearm f => Sys2Proof.Machine.execXrearm f s
  | .strm f => Sys2Proof.Machine.execStrm f s
  | .strmq f => Sys2Proof.Machine.execStrmq f s
  | .strmqCan f => Sys2Proof.Machine.execStrmqCan f s
  | .cntb f => Sys2Proof.Machine.execCntb f s
  | .balc f => Sys2Proof.Machine.execBalc f s
  | .bfre f => Sys2Proof.Machine.execBfre f s
  | .barv f => Sys2Proof.Machine.execBarv f s
  | .barvW f => Sys2Proof.Machine.execBarvW f s
  | .bwt f => Sys2Proof.Machine.execBwt f s
  | .bwtW f => Sys2Proof.Machine.execBwtW f s
  | .btry f => Sys2Proof.Machine.execBtry f s
  | .btryW f => Sys2Proof.Machine.execBtryW f s
  | .ecpy f => Sys2Proof.Machine.execEcpy f s
  | .ecmp f => Sys2Proof.Machine.execEcmp f s
  | .edcp f => Sys2Proof.Machine.execEdcp f s
  | .ecol f => Sys2Proof.Machine.execEcol f s
  | .cjoin f => Sys2Proof.Machine.execCjoin f s
  | .lease f => Sys2Proof.Machine.execLease f s
  | .lrel f => Sys2Proof.Machine.execLrel f s
  | .mbar f => Sys2Proof.Machine.execMbar f s
  | .xst f => Sys2Proof.Machine.execXst f s
  | .xstv f => Sys2Proof.Machine.execXstv f s
  | .xsig f => Sys2Proof.Machine.execXsig f s
  | .xld f => Sys2Proof.Machine.execXld f s
  | .xwait f => Sys2Proof.Machine.execXwait f s
  | .xfen f => Sys2Proof.Machine.execXfen f s
  | .tspn f => Sys2Proof.Machine.execTspn f s
  | .tdec f => Sys2Proof.Machine.execTdec f s
  | .tdecRmt f => Sys2Proof.Machine.execTdecRmt f s
  | .tqry f => Sys2Proof.Machine.execTqry f s
  | .lntl f => Sys2Proof.Machine.execLntl f s
  | .lntlLast f => Sys2Proof.Machine.execLntlLast f s
  | .gret f => Sys2Proof.Machine.execGret f s
  | .did f => Sys2Proof.Machine.execDid f s
  | .dpart f => Sys2Proof.Machine.execDpart f s
  | .gate f => Sys2Proof.Machine.execGate f s
  | .cxld f => Sys2Proof.Machine.execCxld f s
  | .cxul f => Sys2Proof.Machine.execCxul f s
  | .cxq f => Sys2Proof.Machine.execCxq f s
  | .ispz f => Sys2Proof.Machine.execIspz f s
  | .unpz f => Sys2Proof.Machine.execUnpz f s
  | .cx code f => Sys2Proof.Machine.execCx code f s
  | .trap f => Sys2Proof.Machine.execTrap f s
  | .brk f => Sys2Proof.Machine.execBrk f s
  | .park f => Sys2Proof.Machine.execPark f s
  | .wake f => Sys2Proof.Machine.execWake f s
  | .syrd f => Sys2Proof.Machine.execSyrd f s
  | .sywrFpstat f => Sys2Proof.Machine.execSywrFpstat f s
  | .sywrResumeRetry f => Sys2Proof.Machine.execSywrResumeRetry f s
  | .sywrResumeSkip f => Sys2Proof.Machine.execSywrResumeSkip f s
  | .sywrGreg f => Sys2Proof.Machine.execSywrGreg f s
  | .sywrPortctlReplay f => Sys2Proof.Machine.execSywrPortctlReplay f s
  | .sywrPortctlAbandon f => Sys2Proof.Machine.execSywrPortctlAbandon f s
  | .mark f => Sys2Proof.Machine.execMark f s
  | .save f => Sys2Proof.Machine.execSave f s
  | .rest f => Sys2Proof.Machine.execRest f s
  | .halt f => Sys2Proof.Machine.execHalt f s
  | .longOperationComplete n => Sys2Proof.Machine.execLongOperationComplete n s
  | .memoryResponse id => Sys2Proof.Machine.execMemoryResponse id s
  | .tokenSend p => Sys2Proof.Machine.execTokenSend p s
  | .tokenArrival e => Sys2Proof.Machine.execTokenArrival e s
  | .creditReturn e => Sys2Proof.Machine.execCreditReturn e s
  | .fanoutCopy k => Sys2Proof.Machine.execFanoutCopy k s
  | .branchSend k b => Sys2Proof.Machine.execBranchSend k b s
  | .quoinEmit t p => Sys2Proof.Machine.execQuoinEmit t p s
  | .gatePoisonDelivery e g => Sys2Proof.Machine.execGatePoisonDelivery e g s
  | .scrubComplete e => Sys2Proof.Machine.execScrubComplete e s
  | .kvalueEnter e => Sys2Proof.Machine.execKvalueEnter e s
  | .relayForward l sideB => Sys2Proof.Machine.execRelayForward l sideB s
  | .tileComplete e => Sys2Proof.Machine.execTileComplete e s
  | .drainTokenSend e => Sys2Proof.Machine.execDrainTokenSend e s
  | .matrixMark e => Sys2Proof.Machine.execMatrixMark e s
  | .queueDoorbell fn q v => Sys2Proof.Machine.execQueueDoorbell fn q v s
  | .queueIdleUnmap die slot => Sys2Proof.Machine.execQueueIdleUnmap die slot s
  | .spawn die => Sys2Proof.Machine.execSpawn die s
  | .dec die => Sys2Proof.Machine.execDec die s
  | .abort die => Sys2Proof.Machine.execAbort die s
  | .free die => Sys2Proof.Machine.execFree die s
  | .regt die => Sys2Proof.Machine.execRegt die s
  | .unregt die => Sys2Proof.Machine.execUnregt die s
  | .decrementApply id => Sys2Proof.Machine.execDecrementApply id s
  | .stagingComplete die idx => Sys2Proof.Machine.execStagingComplete die idx s
  | .deadlineExpiry die idx => Sys2Proof.Machine.execDeadlineExpiry die idx s
  | .agePromotion die idx => Sys2Proof.Machine.execAgePromotion die idx s
  | .headBlock die => Sys2Proof.Machine.execHeadBlock die s
  | .taskSelect die used => Sys2Proof.Machine.execTaskSelect die used s
  | .tileLoadAck region tile => Sys2Proof.Machine.execTileLoadAck region tile s
  | .regionOpen region tile => Sys2Proof.Machine.execRegionOpen region tile s
  | .quiescence region => Sys2Proof.Machine.execQuiescence region s
  | .reconfigTokenPass region => Sys2Proof.Machine.execReconfigTokenPass region s
  | .stallWatchdog region => Sys2Proof.Machine.execStallWatchdog region s
  | .streamEnd region iport => Sys2Proof.Machine.execStreamEnd region iport s
  | .homeRequest id => Sys2Proof.Machine.execHomeRequest id s
  | .walkComplete id => Sys2Proof.Machine.execWalkComplete id s
  | .storeAck id => Sys2Proof.Machine.execStoreAck id s
  | .storeRefusal id => Sys2Proof.Machine.execStoreRefusal id s
  | .inboxEntry id => Sys2Proof.Machine.execInboxEntry id s
  | .latchReply id => Sys2Proof.Machine.execLatchReply id s
  | .latchTimeout n => Sys2Proof.Machine.execLatchTimeout n s
  | .recoveryQuery id => Sys2Proof.Machine.execRecoveryQuery id s
  | .streamStart t p => Sys2Proof.Machine.execStreamStart t p s
  | .streamEmit t p => Sys2Proof.Machine.execStreamEmit t p s
  | .tagAck id => Sys2Proof.Machine.execTagAck id s
  | .tagToken e tag => Sys2Proof.Machine.execTagToken e tag s
  | .engineRun die kind eng => Sys2Proof.Machine.execEngineRun die kind eng s
  | .engineComplete die kind eng => Sys2Proof.Machine.execEngineComplete die kind eng s
  | .leaseExpiry die kind eng => Sys2Proof.Machine.execLeaseExpiry die kind eng s
  | .hostFetchadd fn pa n => Sys2Proof.Machine.execHostFetchadd fn pa n s
  | .hostBarrierWrite fn pa => Sys2Proof.Machine.execHostBarrierWrite fn pa s
  | .hostAccess a => Sys2Proof.Machine.execHostAccess a s
  | .trapRecordDelivery idx => Sys2Proof.Machine.execTrapRecordDelivery idx s
  | .portReplay u => Sys2Proof.Machine.execPortReplay u s
  | .uncorrectableError w => Sys2Proof.Machine.execUncorrectableError w s
  | .markSend region p => Sys2Proof.Machine.execMarkSend region p s
  | .markArrival e => Sys2Proof.Machine.execMarkArrival e s
  | .nodeAlign n => Sys2Proof.Machine.execNodeAlign n s
  | .snapshotComplete region => Sys2Proof.Machine.execSnapshotComplete region s
  | .wholeCoursePreempt region => Sys2Proof.Machine.execWholeCoursePreempt region s
  | .psplit pf => Sys2Proof.Machine.execPsplit pf s
  | .pmerge pf => Sys2Proof.Machine.execPmerge pf s
  | .ppre pf => Sys2Proof.Machine.execPpre pf s
  | .kload pf m => Sys2Proof.Machine.execKload pf m s
  | .kshare pf => Sys2Proof.Machine.execKshare pf s
  | .kfree pf => Sys2Proof.Machine.execKfree pf s
  | .inval pf => Sys2Proof.Machine.execInval pf s
  | .ptear pf => Sys2Proof.Machine.execPtear pf s
  | .qreg pf => Sys2Proof.Machine.execQreg pf s
  | .qunreg pf => Sys2Proof.Machine.execQunreg pf s
  | .fassign pf => Sys2Proof.Machine.execFassign pf s
  | .podgrant pf => Sys2Proof.Machine.execPodgrant pf s
  | .podrevoke pf => Sys2Proof.Machine.execPodrevoke pf s
  | .podrt pf => Sys2Proof.Machine.execPodrt pf s
  | .kctr pf m => Sys2Proof.Machine.execKctr pf m s
  | .kctrfree pf m => Sys2Proof.Machine.execKctrfree pf m s
  | .knonce pf => Sys2Proof.Machine.execKnonce pf s
  | .kquote pf => Sys2Proof.Machine.execKquote pf s
  | .kseal pf => Sys2Proof.Machine.execKseal pf s
  | .kexport pf m => Sys2Proof.Machine.execKexport pf m s
  | .kopen pf => Sys2Proof.Machine.execKopen pf s
  | .atsCompletion c => Sys2Proof.Machine.execAtsCompletion c s
  | .pageRequestResponse id r => Sys2Proof.Machine.execPageRequestResponse id r s
  | .flr fn => Sys2Proof.Machine.execFlr fn s
  | .tdiError vf => Sys2Proof.Machine.execTdiError vf s
  | .powerIntervalEnd die cap used => Sys2Proof.Machine.execPowerIntervalEnd die cap used s
  | .podRequestArrival r => Sys2Proof.Machine.execPodRequestArrival r s
  | .remoteDecrement r => Sys2Proof.Machine.execRemoteDecrement r s
  | .podLinkFailure port => Sys2Proof.Machine.execPodLinkFailure port s
  | .coldReset stop fail meas => Sys2Proof.Machine.execColdReset stop fail meas s
  | .dieAdmit die => Sys2Proof.Machine.execDieAdmit die s
  | .clockSwitch => Sys2Proof.Machine.execClockSwitch s
  | .warmRecalibration die feature pass => Sys2Proof.Machine.execWarmRecalibration die feature pass s
  | .thermalThrottle die celsius => Sys2Proof.Machine.execThermalThrottle die celsius s
  | .thermalRecover die celsius => Sys2Proof.Machine.execThermalRecover die celsius s
  | .thermalRemoval die celsius => Sys2Proof.Machine.execThermalRemoval die celsius s
  | .registerWrite r => Sys2Proof.Machine.execRegisterWrite r s
  | .psetCommand pf block => Sys2Proof.Machine.execPsetCommand pf block s
  | .hbmodeWrite v => Sys2Proof.Machine.execHbmodeWrite v s
  | .replyAcknowledgement id => Sys2Proof.Machine.execReplyAcknowledgement id s
  | .powerCapExceeded die more => Sys2Proof.Machine.execPowerCapExceeded die more s
  | .dieFullService die passed => Sys2Proof.Machine.execDieFullService die passed s
  | .podLinkUp port => Sys2Proof.Machine.execPodLinkUp port s
  | .powerLoss => Sys2Proof.Machine.execPowerLoss s
  | .correctableError die => Sys2Proof.Machine.execCorrectableError die s
  | .atsInvalidationCompletion port pasid => Sys2Proof.Machine.execAtsInvalidationCompletion port pasid s
  | .tdispRequest vf run => Sys2Proof.Machine.execTdispRequest vf run s

end Sys2Proof.Machine
end

