-- ==== Sys2Proof/Machine/Step.lean ====
section
/-! DEFINITION. One step of the module: what stands first on the agenda happens, a clock cycle passing where nothing
does. -/

namespace Sys2Proof.Machine

/-- An instruction as it issues: where two steps share a word, the value of operand b tells them apart (R385, R387). -/
def refine (s : State) (n : NodeRef) (i : Instr) : Instr :=
  match i with
  | .sywrResumeRetry f => if bitsNat (readCode s n f f.sb).val 0 2 = 1 then .sywrResumeSkip f else i
  | .sywrPortctlReplay f => if (readCode s n f f.sb).val = 1 then .sywrPortctlAbandon f else i
  | _ => i

/-- What the element notes of an issue (R139, R188, R265, R340). -/
def noteIssue (s : State) (p : Cursor) (i : Instr) : State :=
  let s := { s with cur := p }
  let banks := localBanks s p.node i
  let s := touchRegion s p.node.elemRef
  s.updEl p.node.elemRef (fun e => { e with
    lastn := p.node.node
    lsAt := some s.cycle
    lsBanks := banks
    pipeAt := if isPipe i then some s.cycle else e.pipeAt })

/-- The state after an issue: a fault that came in the issue cycle is taken where it need not wait (R173). -/
def afterIssue (n : NodeRef) : Host.Outcome State Fault Refusal → Host.Outcome State Fault Refusal
  | .next t => .next (lateFault t n)
  | .fault x => .fault x
  | .refused x => .refused x

/-- A transition that was chosen for the present cycle issues (R139); one whose node has left RUN does not. -/
def turn (s : State) (p : Cursor) : Host.Outcome State Fault Refusal :=
  let nd := s.nd p.node
  if nd.st = .run ∧ nd.flight = none then
    match decode? (nd.slotWord p.slot.toNat) with
    | none => .fault .undecodable
    | some i => afterIssue p.node (exec (refine s p.node i) (noteIssue s p i))
  else .next s

/-- The close of a cycle: its issues, one a step, and then its end. -/
def close (s : State) : Host.Outcome State Fault Refusal :=
  match s.picks with
  | [] => .next (endCycle s)
  | p :: ps => turn { s with picks := ps } p

/-- One step. The issues of a cycle come after its other steps: they were chosen at the end of the cycle before, and what
they read is what the cycle leaves, which S2 sees in the next one (R27, R35, R40, R139). -/
def step (s : State) : Host.Outcome State Fault Refusal :=
  if s.closing then close s
  else match s.agenda with
  | [] => .next (closeCycle s)
  | .cycle :: rest => .next (closeCycle { s with agenda := rest })
  | .event i :: rest => exec i { s with agenda := rest }

/-- The state in which the next step fetches and runs the word `w` of `nbits` bits: it stands in slot t0 of a node in RUN
whose element takes the next issue cycle. -/
def State.withFetchWord (s : State) (nbits w : Nat) : State :=
  placeWord s (if nbits ≤ 64 then BitVec.ofNat 64 (w % 2 ^ nbits) else 0)

end Sys2Proof.Machine
end

