-- ==== Sys2Proof/Certificates/Slice0/Obligations.lean ====
section
/-! DEFINITION. The statements for the provers. -/

namespace Sys2Proof.Claims

open Sys2Proof.Machine

/-! ## Vocabulary: the issue of a node instruction -/

/-- S1 lets the transition pass: the issuing node may use every resource that the slot names, and the slot writes no
return channel outside a session (R147, R161). -/
def Passes (s : State) (i : Instr) (f : Fields) : Prop :=
  refusedAt s.atIssue s.cur.node i f = none ∧ gateFault s.atIssue s.cur.node i f = none

/-- The transition passes S1 and no scalar operand that it reads is poisoned. -/
def Clean (s : State) (i : Instr) (f : Fields) : Prop := Passes s i f ∧ (issueOps s i f).psn = none

/-- The transition completes at its S4, three cycles after its issue, with result `r`, and its execution changes nothing
itself: the next state is that of the issue with the effects of `r` (stated by the S4 statements below). -/
def Completes (s : State) (i : Instr) (f : Fields) (r : Result) : Prop :=
  exec i s = .next (finishesAt s i f (issueClaim s i f) r)

/-- On clean operands the transition completes with the value, condition and flags that `g` computes from its operands. -/
def Gives (s : State) (f : Fields) (i : Instr) (fmt : BitVec 3) (g : Opnds → Word × Bool × BitVec 6) : Prop :=
  Clean s i f → Completes s i f (cleanResult fmt (g (issueOps s i f)))

/-- On clean operands the transition parks its node, and its S4 falls `lat + 2` cycles after the issue with the value that
`g` computes. -/
def GivesAfter (s : State) (f : Fields) (i : Instr) (fmt : BitVec 3) (lat : Nat) (g : Opnds → Word × Bool × BitVec 6) : Prop :=
  Clean s i f →
    exec i s = .next (parksAt s i f (issueClaim s i f) (.long (s.cycle + 2 + lat) (cleanResult fmt (g (issueOps s i f)))))

/-- An integer result: no flag, and the condition of R37. -/
def int (w : Word) : Word × Bool × BitVec 6 := (w, decide (w ≠ 0), 0)

/-- The clamp of R112. -/
def clamp (x : Int) : Word :=
  if x < -2147483648 then 0x80000000 else if 2147483647 < x then 0x7FFFFFFF else BitVec.ofInt 32 x

end Sys2Proof.Claims

open Sys2Proof Sys2Proof.Machine Sys2Proof.Claims

/-- R112: moves, constants, additions and multiplications. `imm16` is SA, SB and IMM6 together (R86). -/
def Sys2Proof.Claims.IntegerMovesAndSums : Prop := ∀ (s : State) (f : Fields),
  (Passes s (.nop f) f → Completes s (.nop f) f {}) ∧
  Gives s f (.mov f) 0 (fun o => int o.a.val) ∧
  Gives s f (.li f) 0 (fun _ => int ((f.sa ++ f.sb ++ f.imm : BitVec 16).signExtend 32)) ∧
  Gives s f (.lui f) 0 (fun o => int (BitVec.ofNat 32 ((f.sa ++ f.sb ++ f.imm : BitVec 16).toNat * 65536 + o.d.val.toNat % 65536))) ∧
  Gives s f (.add f) 0 (fun o => int (BitVec.ofNat 32 (o.a.val.toNat + o.b.val.toNat))) ∧
  Gives s f (.sub f) 0 (fun o => int (BitVec.ofInt 32 (o.a.val.toNat - o.b.val.toNat))) ∧
  Gives s f (.adds f) 0 (fun o => int (clamp (o.a.val.toInt + o.b.val.toInt))) ∧
  Gives s f (.subs f) 0 (fun o => int (clamp (o.a.val.toInt - o.b.val.toInt))) ∧
  Gives s f (.mul f) 0 (fun o => int (BitVec.ofNat 32 (o.a.val.toNat * o.b.val.toNat))) ∧
  Gives s f (.mulhI32 f) 0 (fun o => int (((o.a.val.signExtend 64) * (o.b.val.signExtend 64)).extractLsb' 32 32)) ∧
  Gives s f (.mulhN32 f) 0 (fun o => int (((o.a.val.setWidth 64) * (o.b.val.setWidth 64)).extractLsb' 32 32)) ∧
  Gives s f (.mac f) 0 (fun o => int (BitVec.ofNat 32 (o.d.val.toNat + o.a.val.toNat * o.b.val.toNat)))

/-- R113: division truncates toward zero and parks with E = 17; a zero divisor gives 0xFFFF_FFFF and the dividend, and
0x8000_0000 / −1 gives 0x8000_0000 with remainder 0. -/
def Sys2Proof.Claims.Division : Prop := ∀ (s : State) (f : Fields),
  GivesAfter s f (.divI32 f) 0 17 (fun o => int (if o.b.val = 0 then 0xFFFFFFFF else o.a.val.sdiv o.b.val)) ∧
  GivesAfter s f (.divN32 f) 0 17 (fun o => int (if o.b.val = 0 then 0xFFFFFFFF else o.a.val / o.b.val)) ∧
  GivesAfter s f (.modI32 f) 0 17 (fun o => int (if o.b.val = 0 then o.a.val else o.a.val.srem o.b.val)) ∧
  GivesAfter s f (.modN32 f) 0 17 (fun o => int (if o.b.val = 0 then o.a.val else o.a.val % o.b.val))

/-- R114: logic and shifts. -/
def Sys2Proof.Claims.LogicAndShifts : Prop := ∀ (s : State) (f : Fields),
  Gives s f (.and f) 0 (fun o => int (o.a.val &&& o.b.val)) ∧
  Gives s f (.or f) 0 (fun o => int (o.a.val ||| o.b.val)) ∧
  Gives s f (.xor f) 0 (fun o => int (o.a.val ^^^ o.b.val)) ∧
  Gives s f (.andn f) 0 (fun o => int (o.a.val &&& ~~~o.b.val)) ∧
  Gives s f (.shl f) 0 (fun o => int (BitVec.ofNat 32 (o.a.val.toNat * 2 ^ (o.b.val.toNat % 64)))) ∧
  Gives s f (.shr f) 0 (fun o => int (BitVec.ofNat 32 (o.a.val.toNat / 2 ^ (o.b.val.toNat % 64)))) ∧
  Gives s f (.sar f) 0 (fun o => int (BitVec.ofInt 32 (o.a.val.toInt / 2 ^ (o.b.val.toNat % 64)))) ∧
  Gives s f (.rol f) 0 (fun o => int (o.a.val.rotateLeft (o.b.val.toNat % 32)))

/-- R115: bit fields and selection. `len` is b[12:8], 0 meaning 32; SEL reads p[N] of the issuing node. -/
def Sys2Proof.Claims.BitFields : Prop := ∀ (s : State) (f : Fields),
  let pos := fun (b : Word) => b.toNat % 32
  let len := fun (b : Word) => if b.toNat / 256 % 32 = 0 then 32 else b.toNat / 256 % 32
  Gives s f (.clz f) 0 (fun o => int o.a.val.clz) ∧
  Gives s f (.popc f) 0 (fun o => int o.a.val.cpop) ∧
  Gives s f (.brev f) 0 (fun o => int o.a.val.reverse) ∧
  Gives s f (.sext f) 0 (fun o => int ((o.a.val.setWidth (o.b.val.toNat % 32 + 1)).signExtend 32)) ∧
  Gives s f (.zext f) 0 (fun o => int ((o.a.val.setWidth (o.b.val.toNat % 32 + 1)).setWidth 32)) ∧
  Gives s f (.bfx f) 0 (fun o => int (BitVec.ofNat 32 (o.a.val.toNat / 2 ^ pos o.b.val % 2 ^ len o.b.val))) ∧
  (∀ r : Word, (∀ k, k < 32 → r.getLsbD k =
      let o := issueOps s (.bfi f) f
      (if pos o.b.val ≤ k ∧ k < pos o.b.val + len o.b.val then o.a.val.getLsbD (k - pos o.b.val) else o.d.val.getLsbD k)) →
    Gives s f (.bfi f) 0 (fun _ => int r)) ∧
  Gives s f (.sel f) 0 (fun o => int (if (s.nd s.cur.node).p.getLsbD (f.imm.toNat % 8) then o.a.val else o.b.val))

/-- R116: comparisons, extrema and predicates. -/
def Sys2Proof.Claims.ComparesAndPredicates : Prop := ∀ (s : State) (f : Fields),
  let bool := fun (b : Bool) => (((if b then 1 else 0 : Word), b, 0) : Word × Bool × BitVec 6)
  Gives s f (.cmpEq f) 0 (fun o => bool (decide (o.a.val = o.b.val))) ∧
  Gives s f (.cmpNe f) 0 (fun o => bool (decide (o.a.val ≠ o.b.val))) ∧
  Gives s f (.cmpLtI32 f) 0 (fun o => bool (o.a.val.slt o.b.val)) ∧
  Gives s f (.cmpLeI32 f) 0 (fun o => bool (o.a.val.sle o.b.val)) ∧
  Gives s f (.cmpLtN32 f) 0 (fun o => bool (o.a.val.ult o.b.val)) ∧
  Gives s f (.cmpLeN32 f) 0 (fun o => bool (o.a.val.ule o.b.val)) ∧
  Gives s f (.minI32 f) 0 (fun o => int (if o.b.val.slt o.a.val then o.b.val else o.a.val)) ∧
  Gives s f (.maxI32 f) 0 (fun o => int (if o.a.val.slt o.b.val then o.b.val else o.a.val)) ∧
  Gives s f (.minN32 f) 0 (fun o => int (if o.b.val.ult o.a.val then o.b.val else o.a.val)) ∧
  Gives s f (.maxN32 f) 0 (fun o => int (if o.a.val.ult o.b.val then o.b.val else o.a.val)) ∧
  Gives s f (.abs f) 0 (fun o => int (if o.a.val.msb then -o.a.val else o.a.val)) ∧
  Gives s f (.neg f) 0 (fun o => int (-o.a.val)) ∧
  (Clean s (.pset f) f → Completes s (.pset f) f
    { cond := (issueOps s (.pset f) f).a.val.getLsbD ((issueOps s (.pset f) f).b.val.toNat % 32) }) ∧
  Gives s f (.pget f) 0 (fun _ => int ((s.nd s.cur.node).p.setWidth 32)) ∧
  Gives s f (.tst f) 0 (fun o => (o.a.val &&& o.b.val, decide (o.a.val &&& o.b.val = o.b.val), 0)) ∧
  Gives s f (.lea f) 0 (fun o => int (BitVec.ofNat 32 (o.a.val.toNat + o.b.val.toNat * 2 ^ (f.imm.toNat % 8))))

/-- R25, R110: a scalar operation that reads a poisoned operand writes POISON with the origin of the first poisoned one in
the order SA, SB, DST, takes condition 0 and sets no flag. -/
def Sys2Proof.Claims.PoisonedScalarsStayPoisoned : Prop := ∀ (s : State) (f : Fields) (w : Word) (i : Instr),
  i ∈ ([.mov f, .add f, .sub f, .adds f, .subs f, .mul f, .mulhI32 f, .mulhN32 f, .mac f, .lui f, .and f, .or f, .xor f, .andn f,
    .shl f, .shr f, .sar f, .rol f, .clz f, .popc f, .brev f, .sext f, .zext f, .bfx f, .bfi f, .sel f, .cmpEq f, .cmpNe f,
    .cmpLtI32 f, .cmpLeI32 f, .cmpLtN32 f, .cmpLeN32 f, .minI32 f, .maxI32 f, .minN32 f, .maxN32 f, .abs f, .neg f, .tst f, .lea f,
    .fadd f, .fsub f, .fmul f, .fma f, .fmin f, .fmax f, .fcmpEq f, .fcmpLt f, .fcmpLe f, .fcmpUn f, .fabs f, .fneg f,
    .cvtF f, .cvtIf f, .cvtFi f, .cvtNf f, .cvtFn f, .pack2 f, .unpk f, .scale f] : List Instr) →
  Passes s i f → (issueOps s i f).psn = some w →
  Completes s i f { dst := some ⟨w, true⟩, cond := false }

namespace Sys2Proof.Claims

/-- The canonical NaN of FP32 (R53). -/
def nan32 : Word := 0x7FC00000

/-- A word is an FP32 NaN. -/
def isNan32 (w : Word) : Bool := decide (0x7F800000 < w.toNat % 0x80000000)

/-- An FP32 input as FZ leaves it: a subnormal becomes a zero of its own sign (R58). -/
def flush32 (fz : Bool) (w : Word) : Word := if fz && decide (w.toNat % 0x80000000 < 0x00800000) then w &&& 0x80000000 else w

/-- The place of a number in the order of FP32 in which −0 lies below +0. -/
def rank32 (w : Word) : Int := if w.msb then -((w.toNat % 0x80000000 : Nat) : Int) - 1 else (w.toNat % 0x80000000 : Nat)

/-- The value of a number up to the sign of zero. -/
def size32 (w : Word) : Int := if w.msb then -((w.toNat % 0x80000000 : Nat) : Int) else (w.toNat % 0x80000000 : Nat)

/-- An exact FP32 result: no flag. -/
def exact32 (w : Word) : Word × Bool × BitVec 6 := int w

/-- A comparison of FP32 numbers: 0 where an operand is a NaN. -/
def compare32 (o : Opnds) (p : Int → Int → Bool) : Word × Bool × BitVec 6 :=
  int (if !isNan32 o.a.val && !isNan32 o.b.val && p (size32 (flush32 o.fz o.a.val)) (size32 (flush32 o.fz o.b.val)) then 1 else 0)

end Sys2Proof.Claims

/-- R117: the FP32 sums and products deliver their correctly rounded result and its flags (`addOp` and the rest round the
exact value once); R118: the approximations park with E = 13.
Where R118 states no value, and which rows set NX, the model's reading stands (log entries 7, 62, 63). -/
def Sys2Proof.Claims.FloatArithmetic : Prop := ∀ (s : State) (f : Fields),
  let code := fun (r : Nat × BitVec 6) => ((BitVec.ofNat 32 r.1, decide (BitVec.ofNat 32 r.1 ≠ 0), r.2) : Word × Bool × BitVec 6)
  let rm := Rounding.ofCode (f.imm.extractLsb' 0 2)
  Gives s f (.fadd f) 1 (fun o => code (fmtFp32.addOp rm o.fz o.a.val.toNat o.b.val.toNat)) ∧
  Gives s f (.fsub f) 1 (fun o => code (fmtFp32.subOp rm o.fz o.a.val.toNat o.b.val.toNat)) ∧
  Gives s f (.fmul f) 1 (fun o => code (fmtFp32.mulOp rm o.fz o.a.val.toNat o.b.val.toNat)) ∧
  Gives s f (.fma f) 1 (fun o => code (fmtFp32.fmaOp rm o.fz o.a.val.toNat o.b.val.toNat o.d.val.toNat)) ∧
  GivesAfter s f (.frcp f) 1 13 (fun o => code (frcpOp o.fz o.a.val)) ∧
  GivesAfter s f (.frsq f) 1 13 (fun o => code (frsqOp o.fz o.a.val)) ∧
  GivesAfter s f (.fexp2 f) 1 13 (fun o => code (fexp2Op o.fz o.a.val)) ∧
  GivesAfter s f (.flog2 f) 1 13 (fun o => code (flog2Op o.fz o.a.val))

/-- R117 with R53 and R58: extrema, comparisons and sign operations, on bits. A NaN gives 0x7FC0_0000, a comparison with a
NaN gives 0, −0 lies below +0 for the extrema alone, and FZ flushes the inputs. -/
def Sys2Proof.Claims.FloatOrderAndSign : Prop := ∀ (s : State) (f : Fields),
  Gives s f (.fmin f) 1 (fun o => exact32 (if isNan32 o.a.val || isNan32 o.b.val then nan32
    else if rank32 (flush32 o.fz o.b.val) < rank32 (flush32 o.fz o.a.val) then flush32 o.fz o.b.val else flush32 o.fz o.a.val)) ∧
  Gives s f (.fmax f) 1 (fun o => exact32 (if isNan32 o.a.val || isNan32 o.b.val then nan32
    else if rank32 (flush32 o.fz o.a.val) < rank32 (flush32 o.fz o.b.val) then flush32 o.fz o.b.val else flush32 o.fz o.a.val)) ∧
  Gives s f (.fcmpEq f) 0 (fun o => compare32 o (fun x y => decide (x = y))) ∧
  Gives s f (.fcmpLt f) 0 (fun o => compare32 o (fun x y => decide (x < y))) ∧
  Gives s f (.fcmpLe f) 0 (fun o => compare32 o (fun x y => decide (x ≤ y))) ∧
  Gives s f (.fcmpUn f) 0 (fun o => int (if isNan32 o.a.val || isNan32 o.b.val then 1 else 0)) ∧
  Gives s f (.fabs f) 1 (fun o => exact32 (if isNan32 o.a.val then nan32 else flush32 o.fz o.a.val &&& 0x7FFFFFFF)) ∧
  Gives s f (.fneg f) 1 (fun o => exact32 (if isNan32 o.a.val then nan32 else flush32 o.fz o.a.val ^^^ 0x80000000))

/-- R119-R123: conversions, packing and scaling. The target's tag is the FMT of a token that carries the result (R109). -/
def Obligations.Conversions : Prop := ∀ (s : State) (f : Fields),
  let tag := fun (lo : Nat) => f.imm.toNat / 2 ^ lo % 8
  let code := fun (r : Nat × BitVec 6) => ((BitVec.ofNat 32 r.1, decide (BitVec.ofNat 32 r.1 ≠ 0), r.2) : Word × Bool × BitVec 6)
  let word := fun (r : Word × BitVec 6) => ((r.1, decide (r.1 ≠ 0), r.2) : Word × Bool × BitVec 6)
  let rm := Rounding.ofCode (f.imm.extractLsb' 0 2)
  let part := fun (w : Word) (width : Nat) => (w >>> (width * (f.imm.toNat % 4))).setWidth width
  Gives s f (.cvtF f) (f.imm.extractLsb' 3 3) (fun o => word (convertTags (tag 3) (tag 0) o.fz o.a.val o.b.val)) ∧
  Gives s f (.cvtIf f) 1 (fun o => code (fmtFp32.ofInt rm (if f.imm.getLsbD 2 then (o.a.val.toNat : Int) else o.a.val.toInt))) ∧
  Gives s f (.cvtFi f) 0 (fun o => word (fpToInt rm (f.imm.getLsbD 2) (fmtFp32.decode o.fz o.a.val.toNat))) ∧
  Gives s f (.cvtNf f) 1 (fun o => code (fmtFp32.deliver .nearest o.fz
    (decodeBlock (tag 0) (narrowElem (tag 0) o.a.val (tag 3)) (o.b.val.toNat % 256)))) ∧
  Gives s f (.cvtFn f) (f.imm.extractLsb' 0 3) (fun o => word (encodeInto (tag 0) o.satf o.d.val (tag 3)
    (fmtFp32.decode o.fz o.a.val.toNat) (o.b.val.toNat % 256))) ∧
  Gives s f (.pack2 f) (f.imm.extractLsb' 0 3) (fun o => int (BitVec.ofNat 32 (o.a.val.toNat % 65536 + o.b.val.toNat % 65536 * 65536))) ∧
  Gives s f (.unpk f) 0 (fun o => int (
    if f.imm.getLsbD 2 then (if f.imm.getLsbD 3 then (part o.a.val 16).signExtend 32 else (part o.a.val 16).setWidth 32)
    else if f.imm.getLsbD 3 then (part o.a.val 8).signExtend 32 else (part o.a.val 8).setWidth 32)) ∧
  Gives s f (.scale f) 1 (fun o => code (fmtFp32.scaleOp rm o.fz o.a.val.toNat o.b.val.toInt))

namespace Sys2Proof.Claims

/-- The origin of a poisoned address of a local-store access. -/
def badAddress (s : State) (i : Instr) (f : Fields) : Option Word := firstPoison [(issueOps s i f).a, (issueOps s i f).b]

/-- The issuing node's element, and the byte of the physical map that stands for a byte of its local store (R278). -/
def here (s : State) : ElemRef := s.cur.node.elemRef
def localPa (s : State) (a : Nat) : Nat := lsPa (here s) a

/-- The effective addresses of R126. -/
def ea (s : State) (i : Instr) (f : Fields) : Word := (issueOps s i f).a.val + (issueOps s i f).b.val
def eax (s : State) (i : Instr) (f : Fields) : Word :=
  BitVec.ofNat 32 ((issueOps s i f).a.val.toNat + 4 * (issueOps s i f).b.val.toNat)

/-- The address is clean and no check of R28 fails for `len` bytes at `a`. -/
def Accessible (s : State) (i : Instr) (f : Fields) (a : Word) (len : Nat) (write : Bool) : Prop :=
  Passes s i f ∧ badAddress s i f = none ∧ s.lsCheck s.cur.node a len write 0 = none

/-- A load of `len` bytes at `a` completes with the bytes extended by `ext`; a POISON word gives its stored bits poisoned
(R124, R126). -/
def Loads (s : State) (i : Instr) (f : Fields) (a : Word) (len : Nat) (ext : BitVec (8 * len) → Word) : Prop :=
  Accessible s i f a len false →
    let w := s.lsWord (here s) a.toNat
    Completes s i f (if w.psn then { dst := some w, cond := false }
      else cleanResult 0 (int (ext ((w.val >>> (8 * (a.toNat % 4))).setWidth (8 * len)))))

/-- A store of the low `len` bytes of clean d at `a` leaves the other bytes of the word and completes; its condition is that
of the bytes stored. A word store clears the word's poison mark, a narrower one leaves it (R126). -/
def Stores (s : State) (i : Instr) (f : Fields) (a : Word) (len : Nat) : Prop :=
  Accessible s i f a len true → (issueOps s i f).d.psn = false →
    ∃ t, exec i s = .next (finishesAt s i f t { cond := decide ((issueOps s i f).d.val.toNat % 2 ^ (8 * len) ≠ 0) }) ∧
      (∀ k, k < len → memGet t.mem (localPa s (a.toNat + k)) = (issueOps s i f).d.val.extractLsb' (8 * k) 8) ∧
      (∀ pa, pa < localPa s a.toNat ∨ localPa s (a.toNat + len) ≤ pa → memGet t.mem pa = memGet s.mem pa) ∧
      (t.lsWord (here s) a.toNat).psn = (decide (len < 4) && (s.lsWord (here s) a.toNat).psn) ∧
      t.node = s.atIssue.node

/-- A store of poisoned data writes its origin record into the whole word and marks the word POISON (R126). -/
def StoresPoison (s : State) (i : Instr) (f : Fields) (a : Word) (len : Nat) : Prop :=
  Accessible s i f a len true → (issueOps s i f).d.psn = true →
    ∃ t, exec i s = .next (finishesAt s i f t { cond := false }) ∧ t.lsWord (here s) a.toNat = (issueOps s i f).d ∧
      (∀ pa, pa < localPa s (a.toNat / 4 * 4) ∨ localPa s (a.toNat / 4 * 4 + 4) ≤ pa → memGet t.mem pa = memGet s.mem pa)

end Sys2Proof.Claims

/-- R28: the checks of a local-store access of `len` bytes at `a`, PROT first, then ALIGN, then DOMAIN. -/
def Sys2Proof.Claims.LocalStoreChecks : Prop := ∀ (s : State) (n : NodeRef) (a : Word) (len : Nat) (write : Bool) (aux : Nat),
  (len = 1 ∨ len = 2 ∨ len = 4) →
  let usable := fun (b : Nat) => s.mayUse n (.bank b)
  (0x18000 < a.toNat + len → (s.lsCheck n a len write aux).map FaultInfo.cause = some 0x07) ∧
  (a.toNat + len ≤ 0x18000 → a.toNat % len ≠ 0 → (s.lsCheck n a len write aux).map FaultInfo.cause = some 0x0A) ∧
  (a.toNat + len ≤ 0x18000 → a.toNat % len = 0 → usable (a.toNat / 0x2000) = false →
    (s.lsCheck n a len write aux).map FaultInfo.cause = some 0x04) ∧
  (a.toNat + len ≤ 0x18000 → a.toNat % len = 0 → usable (a.toNat / 0x2000) = true → s.lsCheck n a len write aux = none)

/-- R124, R126: the local loads deliver the bytes at their address. -/
def Sys2Proof.Claims.LocalLoads : Prop := ∀ (s : State) (f : Fields),
  Loads s (.ldW f) f (ea s (.ldW f) f) 4 (fun x => x) ∧
  Loads s (.ldH f) f (ea s (.ldH f) f) 2 (fun x => x.setWidth 32) ∧
  Loads s (.ldHs f) f (ea s (.ldHs f) f) 2 (fun x => x.signExtend 32) ∧
  Loads s (.ldB f) f (ea s (.ldB f) f) 1 (fun x => x.setWidth 32) ∧
  Loads s (.ldBs f) f (ea s (.ldBs f) f) 1 (fun x => x.signExtend 32) ∧
  Loads s (.ldxW f) f (eax s (.ldxW f) f) 4 (fun x => x)

/-- R126: the local stores write the bytes at their address, change no other byte of memory, and set the poison mark of
their word as the rule says. -/
def Sys2Proof.Claims.LocalStores : Prop := ∀ (s : State) (f : Fields), Memory.wf s.mem = true →
  (Stores s (.stW f) f (ea s (.stW f) f) 4 ∧ StoresPoison s (.stW f) f (ea s (.stW f) f) 4) ∧
  (Stores s (.stH f) f (ea s (.stH f) f) 2 ∧ StoresPoison s (.stH f) f (ea s (.stH f) f) 2) ∧
  (Stores s (.stB f) f (ea s (.stB f) f) 1 ∧ StoresPoison s (.stB f) f (ea s (.stB f) f) 1) ∧
  (Stores s (.stxW f) f (eax s (.stxW f) f) 4 ∧ StoresPoison s (.stxW f) f (eax s (.stxW f) f) 4)

/-- R126, R28, R38: a local load or store that fails a check faults at its S4, and nothing else of it happens; one with a poisoned
address makes no access (R110). -/
def Sys2Proof.Claims.LocalAccessesFaultAlone : Prop := ∀ (s : State) (f : Fields),
  let row := fun (i : Instr) (a : Word) (len : Nat) (write : Bool) =>
    (∀ fi, Passes s i f → badAddress s i f = none → s.lsCheck s.cur.node a len write 0 = some fi → exec i s = .next (failsAt s i f fi)) ∧
    (∀ w, Passes s i f → badAddress s i f = some w →
      Completes s i f (if write then { cond := false } else { dst := some ⟨w, true⟩, cond := false }))
  row (.ldW f) (ea s (.ldW f) f) 4 false ∧ row (.ldH f) (ea s (.ldH f) f) 2 false ∧ row (.ldHs f) (ea s (.ldHs f) f) 2 false ∧
  row (.ldB f) (ea s (.ldB f) f) 1 false ∧ row (.ldBs f) (ea s (.ldBs f) f) 1 false ∧ row (.ldxW f) (eax s (.ldxW f) f) 4 false ∧
  row (.ldP f) (ea s (.ldP f) f) 4 false ∧
  row (.stW f) (ea s (.stW f) f) 4 true ∧ row (.stH f) (ea s (.stH f) f) 2 true ∧ row (.stB f) (ea s (.stB f) f) 1 true ∧
  row (.stxW f) (eax s (.stxW f) f) 4 true ∧ row (.stP f) (ea s (.stP f) f) 4 true

/-- R127-R130: the constant block, words moved with their poison state, compare-and-swap and atomic add in the local
store. What `LCAS` gives where the memory word and the new value are both poisoned is the model's reading (log entry 64). -/
def Obligations.LocalStoreSpecials : Prop := ∀ (s : State) (f : Fields),
  let e := here s
  let ldc := issueOps s (.ldc f) f
  let cas := issueOps s (.lcas f) f
  let add := issueOps s (.ladd f) f
  (Clean s (.ldc f) f → (ldc.a.val + ldc.b.val).toNat < 64 → Completes s (.ldc f) f
    (cleanResult 0 (int (Map.get (s.el e).cblk 0 (64 * (domOf (s.nd s.cur.node)).toNat + (ldc.a.val + ldc.b.val).toNat))))) ∧
  (Clean s (.ldc f) f → 64 ≤ (ldc.a.val + ldc.b.val).toNat →
    ∃ fi, exec (.ldc f) s = .next (failsAt s (.ldc f) f fi) ∧ fi.cause = 0x07) ∧
  (Accessible s (.ldP f) f (ea s (.ldP f) f) 4 false →
    let w := s.lsWord e (ea s (.ldP f) f).toNat
    Completes s (.ldP f) f { dst := some (PWord.clean w.val), cond := w.psn }) ∧
  (Accessible s (.stP f) f (ea s (.stP f) f) 4 true →
    exec (.stP f) s = .next (finishesAt s (.stP f) f ((issueClaim s (.stP f) f).setLsWord e (ea s (.stP f) f).toNat
      (PWord.clean (issueOps s (.stP f) f).d.val)) { cond := true })) ∧
  (∀ fi, Passes s (.lcas f) f → badAddress s (.lcas f) f = none → s.lsCheck s.cur.node cas.a.val 4 true 0 = some fi →
    exec (.lcas f) s = .next (failsAt s (.lcas f) f fi)) ∧
  (Accessible s (.lcas f) f cas.a.val 4 true →
    let old := s.lsWord e cas.a.val.toNat
    let swapped := (issueClaim s (.lcas f) f).setLsWord e cas.a.val.toNat cas.d
    (old.psn = true → Completes s (.lcas f) f { dst := some old, cond := false }) ∧
    (old.psn = false → old.val = cas.b.val → exec (.lcas f) s = .next (finishesAt s (.lcas f) f swapped
      (if cas.d.psn then { dst := some cas.d, cond := false } else { dst := some old, cond := true }))) ∧
    (old.psn = false → old.val ≠ cas.b.val → Completes s (.lcas f) f
      { dst := some (if cas.d.psn then cas.d else old), cond := false })) ∧
  (∀ w, Passes s (.lcas f) f → badAddress s (.lcas f) f = some w → Completes s (.lcas f) f { dst := some ⟨w, true⟩, cond := false }) ∧
  (Passes s (.ladd f) f → add.a.psn = true → Completes s (.ladd f) f { dst := some add.a, cond := false }) ∧
  (∀ fi, Passes s (.ladd f) f → add.a.psn = false → s.lsCheck s.cur.node add.a.val 4 true 0 = some fi →
    exec (.ladd f) s = .next (failsAt s (.ladd f) f fi)) ∧
  (Passes s (.ladd f) f → add.a.psn = false → s.lsCheck s.cur.node add.a.val 4 true 0 = none → add.b.psn = true →
    exec (.ladd f) s = .next (finishesAt s (.ladd f) f ((issueClaim s (.ladd f) f).setLsWord e add.a.val.toNat add.b)
      { dst := some add.b, cond := false })) ∧
  (Accessible s (.ladd f) f add.a.val 4 true →
    let old := s.lsWord e add.a.val.toNat
    (old.psn = true → Completes s (.ladd f) f { dst := some old, cond := false }) ∧
    (old.psn = false → exec (.ladd f) s = .next (finishesAt s (.ladd f) f
      ((issueClaim s (.ladd f) f).setLsWord e add.a.val.toNat (PWord.clean (old.val + add.b.val)))
      { dst := some old, cond := decide (old.val + add.b.val ≠ 0) })))

/-- R131-R137: the token instructions. A token is enqueued at S4 by the result's KIND and FMT (R38).
FMT of the tokens made of STOP and SPACE heads, and the IDLE of `lc`, are the model's reading (log entries 66, 67). -/
def Obligations.TokenInstructions : Prop := ∀ (s : State) (f : Fields),
  let low := f.imm.extractLsb' 0 3
  let high := f.imm.extractLsb' 3 3
  let nd := s.nd s.cur.node
  let headOf := fun (c : BitVec 5) => ((nd.ciq (BitVec.ofNat 2 (c.toNat - 16))).head?).getD {}
  (Clean s (.emit f) f → Completes s (.emit f) f { dst := some (PWord.clean
      (if high = 1 then (issueOps s (.emit f) f).a.val &&& 0xFF else (issueOps s (.emit f) f).a.val)), kind := high, fmt := low }) ∧
  (Clean s (.stop f) f → Completes s (.stop f) f
    { dst := some (issueOps s (.stop f) f).a, kind := BitVec.ofNat 3 (f.imm.toNat % 4 + 1) }) ∧
  (∀ k : BitVec 2, f.sa.toNat = 16 + k.toNat → nd.ciq k ≠ [] → Clean s (.fwd f) f → Completes s (.fwd f) f
    { dst := some (PWord.clean (headOf f.sa).payload), kind := (headOf f.sa).kind, fmt := (headOf f.sa).fmt }) ∧
  (∀ k : BitVec 2, f.sa.toNat = 16 + k.toNat → nd.ciq k ≠ [] → Clean s (.tagf f) f → Completes s (.tagf f) f
    { dst := some (PWord.clean (headOf f.sa).payload), kind := (headOf f.sa).kind,
      fmt := if (headOf f.sa).kind = 0 ∨ ((headOf f.sa).kind = 1 ∧ (low = 4 ∨ low = 5 ∨ low = 6)) then low else (headOf f.sa).fmt }) ∧
  (Passes s (.drop f) f → Completes s (.drop f) f {}) ∧
  (Clean s (.sclo f) f →
    let e := scaleOf low.toNat (fmtFp32.decode (issueOps s (.sclo f) f).fz (issueOps s (.sclo f) f).a.val.toNat)
    Completes s (.sclo f) f { dst := some (PWord.clean (BitVec.ofNat 32 e)), kind := 1, fmt := low, cond := decide (e ≠ 255) }) ∧
  (Passes s (.head f) f → Completes s (.head f) f
    { dst := some (PWord.clean s.cur.head),
      cond := if f.imm.getLsbD 2 then decide (s.cur.head.toNat / 65536 % 8 < 2) else s.cur.head.getLsbD 6 }) ∧
  (f.imm.getLsbD 2 = false →
    let k := f.imm.extractLsb' 0 2
    let w := headWord nd f
    ((nd.ciq k).length ≤ 4 → w.toNat / 65536 = (nd.ciq k).length) ∧ w.toNat / 256 % 256 = (nd.seqAt k).toNat ∧
      w.getLsbD 7 = ccLv (nd.ccfgAt k) ∧ w.getLsbD 6 = decide (nd.ciq k ≠ []) ∧
      w.extractLsb' 3 3 = (((nd.ciq k).head?).getD {}).fmt ∧ w.extractLsb' 0 3 = (((nd.ciq k).head?).getD {}).kind) ∧
  (f.imm.getLsbD 2 = true → headWord nd f = BitVec.ofNat 32 ((nd.coq (f.imm.extractLsb' 0 2)).length * 65536)) ∧
  (∀ j, nd.ncfg.getLsbD j = true → decode (nd.slotWord j) = .ok (.head f) → headSeen nd j = headWord nd f) ∧
  Gives s f (.idle f) 0 (fun o => int (s.lc (here s) - o.a.val))

namespace Sys2Proof.Claims

/-- A field of a word as a number: `n` bits from bit `lo` on. -/
def field (w : Word) (lo n : Nat) : Nat := w.toNat / 2 ^ lo % 2 ^ n

/-- What a scalar operand code reads for a node (R23-R25, R84): a g register, the head of an input channel (poisoned where
its KIND is POISON), a mailbox, 0, the word hk of the channel CHA (R24), lc, or the immediate. -/
def operand (s : State) (f : Fields) (c : BitVec 5) : PWord :=
  let nd := s.nd s.cur.node
  let head := fun (k : Nat) => (Map.get nd.ci [] k).head?
  if c.toNat < 16 then Map.get nd.g {} c.toNat
  else if c.toNat < 20 then (match head (c.toNat - 16) with
    | some t => ⟨t.payload, decide (t.kind = 6)⟩
    | none => {})
  else if 24 ≤ c.toNat ∧ c.toNat < 28 then (Map.get (s.el (here s)).mbox {} (c.toNat - 24)).word
  else if c.toNat = 29 ∧ f.cha.toNat < 4 then
    ⟨BitVec.ofNat 32 ((Map.get nd.seq 0 f.cha.toNat).toNat * 256 + (match head f.cha.toNat with
      | some t => t.fmt.toNat * 8 + t.kind.toNat
      | none => 0)), false⟩
  else if c.toNat = 30 then ⟨BitVec.ofNat 32 (s.cycle + (s.el (here s)).lcOff + 1), false⟩
  else if c.toNat = 31 then ⟨f.imm.signExtend 32, false⟩
  else {}

end Sys2Proof.Claims

/-- R23-R25, R84, R85: what a transition reads in S2 through SA, SB and DST where they are scalar sources. -/
def Sys2Proof.Claims.OperandsRead : Prop := ∀ (s : State) (f : Fields) (i : Instr), i.fields = some f →
  (∀ c, i ≠ .cx c f) → i ≠ .did f →
  (i.shape.sa = .scalar ∨ i.shape.sa = .ciOnly → (issueOps s i f).a = operand s f f.sa) ∧
  (i.shape.sb = .scalar ∨ i.shape.sb = .ciOnly → (issueOps s i f).b = operand s f f.sb) ∧
  (i.shape.dst = .read ∨ i.shape.dst = .readWritten → (issueOps s i f).d = operand s f f.dst)

/-- R146, R147, R161, R193: where S1 refuses a transition, every node instruction faults with it, and nothing else of it takes
effect: DOMAIN with the number of a named resource that the node's domain does not own or that is being scrubbed. One that
writes the return channel of a gate's callee outside an ACTIVE session makes its claims and raises GATE at its S4.
Which of several resources is named is the model's reading (log entry 69). -/
def Sys2Proof.Claims.RefusedTransitionsFault : Prop := ∀ (s : State) (i : Instr) (f : Fields), i.fields = some f →
  (∀ fi, refusedAt s.atIssue s.cur.node i f = some fi → exec i s = .next (faultsAt s i f fi) ∧
    fi.cause = 0x04 ∧ ∃ r ∈ namedResources s s.cur.node i f, s.mayUse s.cur.node r.1 = false ∧ fi.deta = BitVec.ofNat 32 r.2 ∧
      fi.detb = BitVec.ofNat 32 (r.1.rkind * 2 ^ 28)) ∧
  (refusedAt s.atIssue s.cur.node i f = none → ∀ fi, gateFault s.atIssue s.cur.node i f = some fi → fi.cause = 0x0B ∧
    exec i s = .next (failsAt s i f fi)) ∧
  (Passes s i f ↔
    (∀ r ∈ namedResources s s.cur.node i f, s.mayUse s.cur.node r.1 = true) ∧
    (∀ k : BitVec 2, writesDst i = true → f.dst.toNat = 20 + k.toNat →
      ∀ g, g < 8 → let x := (s.el (here s)).gateAt g
        field x 31 1 = 1 → field x 24 4 = s.cur.node.node.toNat → field x 6 2 = k.toNat →
        ∃ h, h < 8 ∧ let y := (s.el (here s)).gateAt h
          field y 31 1 = 1 ∧ field y 24 4 = s.cur.node.node.toNat ∧ field y 6 2 = k.toNat ∧ field y 29 2 = 2))

/-- R38, R42, R161, R162, R378-R380: taking a fault. The node enters FAULTED with the cause and the trap record; its other
registers, channels and slots stay, as do memory and every other node and element; a gate session whose callee it is ends
in FAULTED, and its replies still on co[RET] keep RDRN set (where its caller is OFF they are dropped); and the record leaves for the supervisor that the node's domain names, or for the service core. -/
def Sys2Proof.Claims.TakingAFault : Prop := ∀ (s : State) (n : NodeRef) (slot : BitVec 4) (opc : BitVec 8) (fi : FaultInfo)
    (keep : Option InFlight),
  let t := takeFault s n slot opc fi keep
  let nd := s.nd n
  let dom := field nd.ncfg 28 4
  let x := Map.get (s.el n.elemRef).dtab 0 dom
  let slotless := fi.path = .storeBuffer ∨ fi.path = .channel ∨ fi.path = .stream ∨ fi.path = .engine
  let w0 : Word := BitVec.ofNat 32 (n.die.toNat * 2 ^ 28 + n.tile.toNat * 2 ^ 17 + n.elem.toNat * 2 ^ 13 + n.node.toNat * 2 ^ 9
    + fi.cause.toNat)
  let w1 : Word := BitVec.ofNat 32 (dom * 2 ^ 28 + (if slotless then 0 else slot.toNat * 2 ^ 24)
    + (if fi.path = .channel then 0 else opc.toNat * 2 ^ 16) + fi.aux.toNat * 2 ^ 8 + fi.path.code * 2 ^ 5)
  let sv : NodeRef := ⟨n.die, x.extractLsb' 44 11, x.extractLsb' 40 4, x.extractLsb' 36 4⟩
  (∃ ty co, t.nd n = { nd with st := .faulted, cause := fi.cause, trec := ty, flight := none, faulting := keep, co := co } ∧
    ((s.el n.elemRef).gateOff = 0 → co = nd.co) ∧ Map.get ty 0 0 = w0 ∧ Map.get ty 0 1 = w1 ∧ Map.get ty 0 2 = fi.deta ∧ Map.get ty 0 3 = fi.detb) ∧
  (∀ m, m ≠ n → t.nd m = s.nd m) ∧
  (∀ e, e ≠ n.elemRef → t.el e = s.el e) ∧
  (let ends := fun (g : Nat) => let y := (s.el n.elemRef).gateAt g
      field y 31 1 = 1 ∧ field y 24 4 = n.node.toNat ∧ (field y 29 2 = 1 ∨ field y 29 2 = 2)
    ∃ gs gd go, t.el n.elemRef = { s.el n.elemRef with
        gate := gs
        gateDrain := gd
        gateOff := go
        gatePsn := (s.el n.elemRef).gatePsn ++ ((List.range 8).filter (fun g => decide (ends g))).map (fun g =>
          let y := (s.el n.elemRef).gateAt g
          { gate := g, origin := w0 ||| 0x100, caller := y.extractLsb' 12 4, rci := y.extractLsb' 4 2 }) } ∧
      ((s.el n.elemRef).gateOff = 0 → go = 0) ∧
      ∀ g, g < 8 → let y := (s.el n.elemRef).gateAt g
        let left := ((nd.coq (y.extractLsb' 6 2)).length - drainBefore (s.el n.elemRef) g : Nat)
        Map.get gs 0 g &&& 0xEFFFFFFF = (if ends g then y ||| 0x60000000 else y) &&& 0xEFFFFFFF ∧
        (¬ends g → (Map.get gs 0 g).getLsbD 28 = y.getLsbD 28) ∧
        (ends g → field y 29 2 = 1 → (Map.get gs 0 g).getLsbD 28 = false) ∧
        (ends g → field y 29 2 = 2 → (∀ j, j < 8 → j ≠ g → ¬ends j) → (s.el n.elemRef).gateOff = 0 →
          (Map.get gs 0 g).getLsbD 28 = decide (0 < left) ∧
          gd = (s.el n.elemRef).gateDrain ++ (if 0 < left then [(g, left)] else []))) ∧
  (∃ r : Trap, t.traps = s.traps ++ [r] ∧ r.id = s.serial ∧ r.leaving = true ∧ r.dest = (if x.getLsbD 60 = true ∧ sv ≠ n then some sv else none) ∧ r.sender = some n ∧
    r.part = s.partOf n.elemRef ∧ r.w = [w0, w1, fi.deta, fi.detb] ∧ r.left = []) ∧
  t = { s with node := t.node, elem := t.elem, traps := t.traps, serial := s.serial + 1 }

namespace Sys2Proof.Claims

/-- The mailbox state after the claims of S1: a mailbox that the transition reads is EMPTY, and the one that it writes
is PENDING (R146). -/
def claimed (s : State) (i : Instr) (f : Fields) (m : Nat) : Mbox :=
  let x := Map.get (s.el (here s)).mbox {} m
  if writesDst i = true ∧ f.dst.toNat = 24 + m then { x with st := .pending }
  else if m ∈ mboxReads s.atIssue s.cur.node i f then { x with st := .empty } else x

/-- The channel `k` of a node after a token pop of S4 that names the channel `c` (R36, R38): its head is consumed where
`dq` is set, but not on a latest-value channel whose token has been replaced since S2, when `came` tokens had arrived
(R175). -/
def popped (nd : Node) (dq : Bool) (c : BitVec 3) (came k : Nat) (q : List Token) : List Token :=
  if dq = true ∧ c.toNat = k ∧ ¬((Map.get nd.ccfg 0 k).getLsbD 30 = true ∧ Map.get nd.came 0 k ≠ came) then q.tail else q

/-- A transition of a node is in flight and its S4 falls in the present cycle. -/
def InS4 (s : State) (n : NodeRef) (fl : InFlight) (f : Fields) (act : S4Act) : Prop :=
  (s.nd n).flight = some fl ∧ fl.instr.fields = some f ∧ ∃ due, due ≤ s.cycle ∧ fl.why = .s4 due act

end Sys2Proof.Claims

/-- R36-R41, R79: what a completing transition writes at its S4. The result goes through DST alone, a mailbox becomes FULL,
flags are raised and never cleared, POP changes the one bit that PSEL names, and the pops take the heads of CHA and CHB.
Where no other transition is in the pipelines, the end of the cycle does exactly this. -/
def Sys2Proof.Claims.EffectsOfS4 : Prop := ∀ (s : State) (n : NodeRef) (fl : InFlight) (f : Fields) (r : Result), fl.instr.wf = true →
  InS4 s n fl f (.done r) → (s.nd n).later = none → r.dst2 = none →
  let u := settleNode s n
  let i := fl.instr
  let old := s.nd n
  let new := u.nd n
  (∀ k, k < 16 → new.gReg k = if writesDst i = true ∧ f.dst.toNat = k then (r.dst).getD (old.gReg k) else old.gReg k) ∧
  (∀ k : BitVec 2, new.coq k = if writesDst i = true ∧ f.dst.toNat = 20 + k.toNat then
      old.coq k ++ (match r.dst with
        | some v => [if v.psn then { kind := 6, fmt := 0, payload := v.val }
            else { kind := r.kind, fmt := if r.kind = 0 ∨ r.kind = 1 then r.fmt else 0, payload := v.val }]
        | none => [])
    else old.coq k) ∧
  (∀ k : BitVec 2, Map.sorted old.ci = true →
    new.ciq k = popped old f.dqb f.chb fl.seqB k.toNat (popped old f.dqa f.cha fl.seqA k.toNat (old.ciq k))) ∧
  new.fpstat.toNat / 64 = old.fpstat.toNat / 64 ∧ new.fpstat.extractLsb' 0 6 = old.fpstat.extractLsb' 0 6 ||| r.flags ∧
  (∀ k, k < 8 → new.p.getLsbD k = if f.psel.toNat = k ∧ f.pop ≠ 0 then (if f.pop = 1 then true else if f.pop = 2 then false else r.cond)
    else old.p.getLsbD k) ∧
  new.st = .run ∧ new.last = old.last ∧ new.nextAt = max old.nextAt (s.cycle + 1) ∧ new.flight = none ∧ new.cause = old.cause ∧
  new.trec = old.trec ∧ new.latch = old.latch ∧ new.ncfg = old.ncfg ∧ new.pool = old.pool ∧ new.ccfg = old.ccfg ∧ new.seq = old.seq ∧
  (∀ m, m < 4 → writesDst i = true → f.dst.toNat = 24 + m → ∀ v, r.dst = some v →
    Map.get (u.el n.elemRef).mbox {} m = { st := .full, word := v }) ∧
  (busyElems s = [n.elemRef] → (∀ m, m.elemRef = n.elemRef → m ≠ n → (s.nd m).flight = none) → settle s = u)

/-- R36, R38, R42, R146: the frame of S4. A completing transition changes its own node and, of its element, the mailbox that
DST names and the lanes of its result; every other node, element, special register and every byte of memory is as before.
A transition whose execution failed takes its fault at S4 and nothing else of it takes effect: the mailboxes it read are FULL
again and the one it was to write is EMPTY. Before its S4 a transition changes nothing.
The word of a mailbox that was filled again stays (the model's choice, log entry 30). -/
def Sys2Proof.Claims.FrameOfS4 : Prop := ∀ (s : State) (n : NodeRef) (fl : InFlight) (f : Fields),
  let i := fl.instr
  (∀ r, InS4 s n fl f (.done r) → (s.nd n).later = none →
    let u := settleNode s n
    (∀ pa, memGet u.mem pa = memGet s.mem pa) ∧
    (∀ m, m ≠ n → u.nd m = s.nd m) ∧
    (∀ e, e ≠ n.elemRef → u.el e = s.el e) ∧
    (∃ mb vs, u.el n.elemRef = { s.el n.elemRef with mbox := mb, vreg := vs } ∧
      (∀ m, ¬(writesDst i = true ∧ f.dst.toNat = 24 + m) → Map.get mb {} m = Map.get (s.el n.elemRef).mbox {} m) ∧
      (∀ k, k ∉ r.lanes.map Prod.fst → Map.get vs {} k = Map.get (s.el n.elemRef).vreg {} k) ∧
      (∀ k v, (k, v) ∈ r.lanes → (r.lanes.map Prod.fst).Nodup → Map.get vs {} k = v)) ∧
    u = { s with node := u.node, elem := u.elem }) ∧
  (∀ fi, InS4 s n fl f (.fault fi) → ∃ t mb, settleNode s n = takeFault t n fl.slot (opcOf i) fi (some fl) ∧
    t.nd n = { s.nd n with later := none } ∧ (∀ m, m ≠ n → t.nd m = s.nd m) ∧ (∀ e, e ≠ n.elemRef → t.el e = s.el e) ∧
    t.el n.elemRef = { s.el n.elemRef with mbox := mb } ∧ t = { s with node := t.node, elem := t.elem } ∧
    ∀ m, m < 4 → let x := Map.get (s.el n.elemRef).mbox {} m
      Map.get mb {} m = if writesDst i = true ∧ f.dst.toNat = 24 + m ∧ x.st = .pending then { x with st := .empty }
        else if m ∈ mboxReads s n i f ∧ x.st = .empty then { x with st := .full } else x) ∧
  (∀ due r, (s.nd n).flight = some fl → fl.why = .s4 due (.done r) → fl.parks = false → s.cycle < due → settleNode s n = s)

/-- R146, R40, R141: the issue itself. It notes LAST and the next issue cycle in the node, claims the mailboxes that the slot
names, holds the element for three cycles where the instruction is one that does, and changes nothing else. -/
def Sys2Proof.Claims.FrameOfTheIssue : Prop := ∀ (s : State) (i : Instr) (f : Fields), i.fields = some f → i.wf = true →
  let t := issueClaim s i f
  t.nd s.cur.node = { s.nd s.cur.node with last := s.cur.slot, nextAt := s.cycle + 4, prefer := none } ∧
  (∀ n, n ≠ s.cur.node → t.nd n = s.nd n) ∧
  (∀ e, e ≠ here s → t.el e = s.el e) ∧
  (∃ mb hu lh, t.el (here s) = { s.el (here s) with mbox := mb, holdUntil := hu, lastHold := lh } ∧
    (∀ m, m < 4 → Map.get mb {} m = claimed s i f m) ∧
    (holds i = true → hu = s.cycle + 4 ∧ lh = some (s.cycle + 3)) ∧
    (holds i = false → hu = (s.el (here s)).holdUntil ∧ lh = (s.el (here s)).lastHold)) ∧
  t = { s with node := t.node, elem := t.elem }

/-- R41-R43, R143: a transition of a parking class parks its node in its S3, two cycles after its issue; its effects fall on its
final S4 and no earlier. The S4 of a long operation comes in the cycle it was given, returns the node to RUN and writes
everything that a completing transition writes; `LONG_OPERATION_COMPLETE` in that cycle makes it fall in it. -/
def Sys2Proof.Claims.LongOperationsComplete : Prop := ∀ (s : State) (n : NodeRef) (fl : InFlight) (f : Fields) (due : Nat) (r : Result),
  (s.nd n).flight = some fl → fl.why = .long due r → fl.instr.fields = some f → (s.nd n).later = none →
  (s.cycle < due → exec (.longOperationComplete n) s = .next s) ∧
  (due ≤ s.cycle → fl.issued + 3 ≤ s.cycle → exec (.longOperationComplete n) s = .next (s.updNd n (fun nd =>
    { nd with flight := some { fl with why := .s4 s.cycle (.done r) } }))) ∧
  (s.cycle < due → (s.nd n).st = .run → fl.parks = true → s.cycle = fl.issued + 2 →
    settleNode s n = s.updNd n (fun nd => { nd with st := .parked })) ∧
  (s.cycle < due → s.cycle ≠ fl.issued + 2 → settleNode s n = s) ∧
  (due ≤ s.cycle →
    settleNode s n = commit (s.updNd n (fun nd => { nd with
      st := .run
      flight := none
      nextAt := max nd.nextAt (s.cycle + 1) })) n fl.instr f fl.seqA fl.seqB r)

/-- R80, R89: decoding the word of a legal node instruction gives it back, whatever its operands. Two pairs of steps share
one word: there the decoder gives the first of the pair. -/
def Obligations.DecodeInvertsEncode : Prop := ∀ (i : Instr) (f : Fields), i.fields = some f → i.wf = true →
  decode (encode i) = .ok i.spelled ∧ decodeBytes (bytesOfWord (encode i)) = .ok i.spelled

/-- R80: a word that decodes holds nothing that its instruction does not say: encoding it gives back the word, all 64 bits. -/
def Sys2Proof.Claims.EncodeInvertsDecode : Prop := ∀ (w : DWord) (i : Instr), decode w = .ok i →
  encode i = w ∧ i.wf = true ∧ i.spelled = i ∧ ∃ f, i.fields = some f ∧ f = fieldsOf w

/-- Words that the spec's examples write out, each with its instruction. -/
def Obligations.DecodedWords : Prop :=
  decode 0x010003F040861000 = .ok (.add { pmask := 1, cha := 0, ka := 0, dst := 1, sa := 1, sb := 16, dqa := true }) ∧
  decode 0x0000FFF0217E0018 = .ok (.li { dst := 2, sa := 31, sb := 16, imm := 0x18 }) ∧
  decode 0x000003FE2A401000 = .ok (.cx 2 { cha := 0, ka := 0, dst := 20, sa := 16, dqa := true }) ∧
  decode 0x0301FFFD00100159 = .ok (.lntlLast { pmask := 3, pval := 1, sa := 4, psel := 1, pop := 1, imm := 0x19 }) ∧
  decode 0x0000FFF632212001 = .ok (.vfma { dst := 4, sa := 8, sb := 9, imm := 1 }) ∧
  decode 0x0301FFFC90100140 = .ok (.tdec { pmask := 3, pval := 1, sa := 4, psel := 1, pop := 1 }) ∧
  decode 0x0000FFFAA288E000 = .ok (.afet { dst := 5, sa := 2, sb := 7 }) ∧
  decode 0x0000FFFA80000004 = .ok (.fence { imm := 4 }) ∧
  decode 0x0101FFFB62888003 = .ok (.bwtW { pmask := 1, pval := 1, dst := 5, sa := 2, sb := 4, imm := 3 })

/-- R89, R44, R82: the reserved opcodes and `ILL` are refused by name, and so is every word that breaks a check of its
fields. -/
def Sys2Proof.Claims.IllegalWordsRefused : Prop := ∀ w : DWord,
  let o := w.toNat / 2 ^ 28 % 256
  let f := fieldsOf w
  (o = 0xFF → decode w = .error .ill) ∧
  (o = 0x57 ∨ (0x8C ≤ o ∧ o ≤ 0x8F) ∨ (0x9B ≤ o ∧ o ≤ 0x9F) ∨ o = 0xC6 ∨ o = 0xC7 ∨ (0xCB ≤ o ∧ o ≤ 0xCF) ∨ (0xDA ≤ o ∧ o ≤ 0xDF)
    ∨ (0xFA ≤ o ∧ o ≤ 0xFE) ↔ decode w = .error .reservedOpcode) ∧
  (f.pval &&& ~~~f.pmask ≠ 0 → ∀ i, decode w ≠ .ok i) ∧
  ((4 ≤ f.cha.toNat ∧ f.cha ≠ 7) ∨ (4 ≤ f.chb.toNat ∧ f.chb ≠ 7) ∨ (f.cha = 7 ∧ f.ka ≠ 7) ∨ (f.chb = 7 ∧ f.kb ≠ 7) ∨
    (f.dqa = true ∧ f.cha = 7) ∨ (f.dqb = true ∧ f.chb = 7) ∨ (f.cha = f.chb ∧ f.dqa = true ∧ f.dqb = true) ∨
    (f.cha = f.chb ∧ f.cha ≠ 7 ∧ f.ka ≠ f.kb ∧ f.ka ≠ 7 ∧ f.kb ≠ 7) → ∀ i, decode w ≠ .ok i) ∧
  (∀ i, decode w = .ok i →
    (i.shape.sa = .scalar → ¬(20 ≤ f.sa.toNat ∧ f.sa.toNat ≤ 23) ∧ f.sa ≠ 31 ∧ (f.sa = 29 → f.cha ≠ 7)) ∧
    (i.shape.sb = .scalar → ¬(20 ≤ f.sb.toNat ∧ f.sb.toNat ≤ 23) ∧ (f.sb = 29 → f.cha ≠ 7)) ∧
    (i.shape.dst = .written → ¬(16 ≤ f.dst.toNat ∧ f.dst.toNat ≤ 19) ∧ f.dst.toNat ≤ 28))

/-- In the issues of a cycle, the step of one that was chosen runs the instruction that the word of its slot decodes to: exec
of it on the state that the cycle's other steps leave, once the element has noted the issue; a fault that came in the same
cycle is then taken where it need not wait. Two steps share the word of another, and operand b tells them apart. A node that
has left RUN in the cycle issues nothing. -/
def Obligations.StepRunsTheDecodedSlot : Prop := ∀ (s : State) (p : Cursor) (ps : List Cursor), s.closing = true → s.picks = p :: ps →
  let u := { s with picks := ps }
  let n := p.node
  ((s.nd n).st ≠ .run ∨ (s.nd n).flight ≠ none → step s = .next u) ∧
  (∀ i, (s.nd n).st = .run → (s.nd n).flight = none → decode ((s.nd n).slotWord p.slot.toNat) = .ok i →
    step s = afterIssue n (exec (refine u n i) (noteIssue u p i)) ∧
    (∀ t, (t.nd n).later = none → afterIssue n (.next t) = .next t) ∧
    (∀ f, i = .sywrResumeRetry f → field (operand { u with cur := p } f f.sb).val 0 2 = 1 → refine u n i = .sywrResumeSkip f) ∧
    (∀ f, i = .sywrPortctlReplay f → (operand { u with cur := p } f f.sb).val = 1 → refine u n i = .sywrPortctlAbandon f) ∧
    ((∀ f, i ≠ .sywrResumeRetry f) → (∀ f, i ≠ .sywrPortctlReplay f) → refine u n i = i))

/-- What the element notes of an issue: the node and slot that run, LASTN, and the cycle of its last pipe transition
(R139, R188), the banks that its S3 takes (R340); the node's course has fired (R265). Nothing else changes. -/
def Sys2Proof.Claims.IssueIsNoted : Prop := ∀ (s : State) (p : Cursor) (i : Instr),
  let n := p.node
  let t := noteIssue s p i
  t.cur = p ∧
  t.el n.elemRef = { s.el n.elemRef with
    lastn := n.node
    lsAt := some s.cycle
    lsBanks := localBanks { s with cur := p } n i
    pipeAt := if isPipe i then some s.cycle else (s.el n.elemRef).pipeAt } ∧
  (∀ e, e ≠ n.elemRef → t.el e = s.el e) ∧
  (∀ r, t.rg r = if (s.el n.elemRef).region = some r then { s.rg r with fired := true } else s.rg r) ∧
  t = { s with cur := t.cur, elem := t.elem, region := t.region }

/-- A step in which an event takes place runs that event. Where no event is left in a cycle, the cycle closes: the transitions
in flight reach their stages, and then what the cycle issues follows. A step with nothing left to issue ends the clock cycle,
which raises the module's cycle and the counter of every die by one (R9, R15, R23); a die that is throttled or capped may skip a
cycle (R433, R466). What the next cycle issues is chosen from the state that the cycle leaves (R27, R35), for every element that
has a node (R139).
That a cycle passes where the agenda is empty, and the start and the phase of the die counters, are the model's choice (log entries 2, 3). -/
def Obligations.StepRunsEvents : Prop := ∀ (s : State) (rest : List Act),
  (∀ i, s.closing = false → s.agenda = .event i :: rest → step s = exec i { s with agenda := rest }) ∧
  (s.closing = false → s.agenda = .cycle :: rest → step s = .next { settle { s with agenda := rest } with closing := true }) ∧
  (s.closing = false → s.agenda = [] → step s = .next { settle s with closing := true }) ∧
  (s.closing = true → s.picks = [] → ∃ t, step s = .next t ∧ t.cycle = s.cycle + 1 ∧ t.closing = false ∧
    (∀ n k, (∃ h, { node := n, slot := BitVec.ofNat 4 k, head := h } ∈ t.picks ∧ k < 16) ↔
      (∃ m v, (m, v) ∈ t.node ∧ select { t with picks := [] } (nodeOfKey m).elemRef = some (n, k))) ∧
    (∀ p ∈ t.picks, p.head = headSeen (t.nd p.node) p.slot.toNat) ∧
    (∀ d : BitVec 4, (s.throttled.getLsbD d.toNat = false ∧ s.capped.getLsbD d.toNat = false → (t.dieAt d).ctr = (s.dieAt d).ctr + 1) ∧
      ((t.dieAt d).ctr = (s.dieAt d).ctr + 1 ∨ (t.dieAt d).ctr = (s.dieAt d).ctr)))

/-- R34, R35, R40, R139: what an element issues is ready. The node is in RUN with no transition in flight and its domain is
not suspended; the slot is enabled, its guard holds, its channel operands have tokens and space and its mailboxes are in
the state they need; and no lower slot of the node is ready. -/
def Sys2Proof.Claims.OnlyReadySlotsIssue : Prop := ∀ (s : State) (e : ElemRef) (n : NodeRef) (k : Nat) (i : Instr) (f : Fields),
  select s e = some (n, k) → decode ((s.nd n).slotWord k) = .ok i → i.fields = some f →
  let nd := s.nd n
  let kindAt := fun (c : BitVec 3) => (Map.get nd.ci [] c.toNat).head?.map Token.kind
  n.elemRef = e ∧ k < 16 ∧ nd.st = .run ∧ nd.flight = none ∧ nd.nextAt ≤ s.cycle ∧ nd.ncfg.getLsbD k = true ∧
  (s.domEntry e (domOf nd)).getLsbD 61 = false ∧
  nd.p &&& f.pmask = f.pval ∧
  (f.cha.toNat < 4 → ∃ x, kindAt f.cha = some x ∧ (f.ka = 7 ∨ x = f.ka)) ∧
  (f.chb.toNat < 4 → ∃ x, kindAt f.chb = some x ∧ (f.kb = 7 ∨ x = f.kb)) ∧
  (∀ c ∈ readCodes s n i f, 16 ≤ c.toNat → c.toNat < 20 → Map.get nd.ci [] (c.toNat - 16) ≠ []) ∧
  (∀ j : BitVec 2, writesDst i = true → f.dst.toNat = 20 + j.toNat → (nd.coq j).length < 2) ∧
  (∀ m ∈ mboxReads s n i f, (s.el e).owns (domOf nd) (.mbox m) = true → (Map.get (s.el e).mbox {} m).st = .full) ∧
  (∀ m, mboxWrite i f = some m → (s.el e).owns (domOf nd) (.mbox m) = true → (Map.get (s.el e).mbox {} m).st = .empty) ∧
  (nd.prefer = none → ∀ j < k, ∀ i', nd.ncfg.getLsbD j = true → decode (nd.slotWord j) = .ok i' → ready s n i' = false)

/-- R139: the element looks at its nodes in rotation from the one after LASTN, and the first that can issue does. -/
def Sys2Proof.Claims.NodesTakeTurns : Prop := ∀ (s : State) (e : ElemRef) (n : NodeRef) (k : Nat), select s e = some (n, k) →
  ∀ m : BitVec 4, (m - (s.el e).lastn - 1).toNat < (n.node - (s.el e).lastn - 1).toNat →
    eligible s (e.nodeRef m) = false ∨ readySlot s (e.nodeRef m) = none

/-- R27, R275: memory stays in its one canonical form: addresses rise strictly and no listed byte is zero, so equal
memories are equal lists. -/
def Obligations.MemoryStaysCanonical : Prop := ∀ s t : State, Memory.wf s.mem = true → step s = .next t → Memory.wf t.mem = true

namespace Sys2Proof.Claims

/-- The requests of the machine, those that a saved course keeps among them (R404). -/
def allRequests (s : State) : List Req := s.reqs ++ s.region.flatMap (fun g => g.2.asleep)

/-- Each request has a number of its own, and the tables of regions, of counters and of a node's input channels are in order. -/
def Numbered (s : State) : Prop :=
  ((allRequests s).map Req.id).Nodup ∧ (∀ r ∈ allRequests s, r.id < s.serial) ∧ Map.sorted s.region = true ∧ Map.sorted s.counter = true ∧
  ∀ x ∈ s.node, Map.sorted x.2.ci = true

end Sys2Proof.Claims

/-- R26, R305, R423, R445: what the model's data keep, which other statements assume: requests have distinct numbers, and a number names
one region, one counter slot and one channel. It holds after reset. -/
def Obligations.NumbersStayDistinct : Prop := Numbered State.reset ∧ ∀ s t : State, Numbered s → step s = .next t → Numbered t

/-- Reset: its memory is canonical. R11, R19, R42, R79, R241, R270, R317, R362, R417, R422, R462: every node is OFF with
empty registers, no die is admitted, partition 0 holds its own node, and key slot 0 is live.
DCFG and the values of registers for which the spec states no reset value are the model's choice (log entries 5, 11). -/
def Obligations.ResetState : Prop :=
  let s := State.reset
  Memory.wf s.mem = true ∧ s.dadm = 0 ∧ s.cycle = 0 ∧ s.reqs = [] ∧ s.edge = [] ∧ s.region = [] ∧
  (∀ n, s.nd n = {}) ∧ (s.nd fetchNode).st = .off ∧ (∀ e, s.el e = {}) ∧
  (∀ d : BitVec 4, (s.dieAt d).dcfg = 0x108) ∧
  (s.part.map Prod.fst = [0]) ∧ (Map.get s.key {} 0).live = true ∧ (∀ k, k ≠ 0 → (Map.get s.key {} k).live = false)

namespace Sys2Proof.Claims

/-- Lane `l` of a vector register of the issuing node's element (R187). -/
def lane (s : State) (v : BitVec 5) (l : Nat) : PWord := Map.get (s.el (here s)).vreg {} (16 * v.toNat + l)

/-- One lane of a result: the first poisoned input, in the order given, poisons it (R191). -/
def outLane (ins : List PWord) (r : Word × BitVec 6) : PWord :=
  match ins.find? PWord.psn with
  | some w => w
  | none => ⟨r.1, false⟩

/-- The result that writes 16 lanes of register `v` (R191, R192): its condition says that any bit is set, and is 0, with no
flag, where a poisoned value was read; the flags of all lanes are ORed (R190). -/
def lanesResult (v : BitVec 5) (ins : Nat → List PWord) (g : Nat → Word × BitVec 6) : Result :=
  let out := fun (l : Nat) => outLane (ins l) (g l)
  let bad := (List.range 16).any (fun l => (out l).psn)
  { lanes := (List.range 16).map (fun l => (16 * v.toNat + l, out l)), cond := !bad && (List.range 16).any (fun l => decide ((out l).val ≠ 0)), flags := if bad then 0 else (List.range 16).foldl (fun x l => x ||| (if (ins l).any PWord.psn then 0 else (g l).2)) 0 }

/-- A transition that passes S1 writes 16 lanes of the register that DST names. -/
def Lanewise (s : State) (i : Instr) (f : Fields) (ins : Nat → List PWord) (g : Nat → Word × BitVec 6) : Prop :=
  Passes s i f → Completes s i f (lanesResult f.dst ins g)

/-- An operation on the INT value of a lane (tag 0), on its FP32 value (tag 1) or on each of its two 16-bit elements
(tags 2 and 3) (R187, R190). -/
def byElement (tag : Nat) (int : Word → Word → Word → Word) (fp : FpFmt → Nat → Nat → Nat → Nat × BitVec 6) (a b d : Word) :
    Word × BitVec 6 :=
  if tag = 0 then (int a b d, 0)
  else if tag = 1 then (BitVec.ofNat 32 (fp fmtFp32 a.toNat b.toNat d.toNat).1, (fp fmtFp32 a.toNat b.toNat d.toNat).2)
  else
    let F := if tag = 2 then fmtBf16 else fmtFp16
    let x := fp F (a.toNat % 65536) (b.toNat % 65536) (d.toNat % 65536)
    let y := fp F (a.toNat / 65536) (b.toNat / 65536) (d.toNat / 65536)
    (BitVec.ofNat 32 (x.1 % 65536 + 65536 * (y.1 % 65536)), x.2 ||| y.2)

/-- The magnitude bits of a code, whether it is a NaN, its input as FZ leaves it, and its place in the order, in which −0 lies
below +0; for each binary format (R52, R53, R58). -/
def magOf (F : FpFmt) (c : Nat) : Nat := c % 2 ^ (F.ew + F.mw)
def nanOf (F : FpFmt) (c : Nat) : Bool := decide ((2 ^ F.ew - 1) * 2 ^ F.mw < magOf F c)
def flushOf (F : FpFmt) (fz : Bool) (c : Nat) : Nat := if fz && decide (magOf F c < 2 ^ F.mw) then c - magOf F c else c
def rankOf (F : FpFmt) (c : Nat) : Int := if c = magOf F c then (magOf F c : Int) else -(magOf F c : Int) - 1
def sizeOfCode (F : FpFmt) (c : Nat) : Int := if c = magOf F c then (magOf F c : Int) else -(magOf F c : Int)

/-- The greater or the lesser of two codes; NaN if either is NaN. -/
def extremum (great : Bool) (fz : Bool) (F : FpFmt) (a b : Nat) : Nat × BitVec 6 :=
  let x := flushOf F fz a
  let y := flushOf F fz b
  (if nanOf F a || nanOf F b then (2 ^ F.ew - 1) * 2 ^ F.mw + 2 ^ (F.mw - 1)
   else if decide (rankOf F x < rankOf F y) = great then y else x, 0)

/-- The comparisons of R196 on two numbers and on two integers. -/
def holdsFp (cc : Nat) (fz : Bool) (F : FpFmt) (a b : Nat) : Bool :=
  let nan := nanOf F a || nanOf F b
  let x := sizeOfCode F (flushOf F fz a)
  let y := sizeOfCode F (flushOf F fz b)
  if cc = 0 then !nan && decide (x = y) else if cc = 1 then nan || decide (x ≠ y)
  else if cc = 2 then !nan && decide (x < y) else if cc = 3 then !nan && decide (x ≤ y) else nan
def holdsInt (cc : Nat) (a b : Word) : Bool :=
  if cc = 0 then decide (a = b) else if cc = 1 then decide (a ≠ b) else if cc = 2 then a.slt b else if cc = 3 then a.sle b
  else if cc = 5 then a.ult b else a.ule b

end Sys2Proof.Claims

/-- R187, R190-R192, R195: element-wise vector arithmetic. Each element is rounded once, in IMM6[4:3]'s mode, with FZ of the
issuing node. -/
def Sys2Proof.Claims.VectorArithmetic : Prop := ∀ (s : State) (f : Fields),
  let nd := s.nd s.cur.node
  let fz := nd.fpstat.getLsbD 8
  let tag := f.imm.toNat % 8
  let rm := Rounding.ofCode (f.imm.extractLsb' 3 2)
  let u := f.imm.getLsbD 3
  let two := fun (l : Nat) => [lane s f.sa l, lane s f.sb l]
  let three := fun (l : Nat) => [lane s f.sa l, lane s f.sb l, lane s f.dst l]
  let on := fun (g : Word → Word → Word → Word × BitVec 6) (l : Nat) => g (lane s f.sa l).val (lane s f.sb l).val (lane s f.dst l).val
  tag ≤ 3 →
  Lanewise s (.vadd f) f two (on (byElement tag (fun a b _ => a + b) (fun F a b _ => F.addOp rm fz a b))) ∧
  Lanewise s (.vsub f) f two (on (byElement tag (fun a b _ => a - b) (fun F a b _ => F.subOp rm fz a b))) ∧
  Lanewise s (.vmul f) f two (on (byElement tag (fun a b _ => a * b) (fun F a b _ => F.mulOp rm fz a b))) ∧
  Lanewise s (.vfma f) f three (on (byElement tag (fun a b d => d + a * b) (fun F a b d => F.fmaOp rm fz a b d))) ∧
  Lanewise s (.vmin f) f two (on (byElement tag (fun a b _ => if (if u then b.ult a else b.slt a) then b else a)
    (fun F a b _ => extremum false fz F a b))) ∧
  Lanewise s (.vmax f) f two (on (byElement tag (fun a b _ => if (if u then a.ult b else a.slt b) then b else a)
    (fun F a b _ => extremum true fz F a b))) ∧
  (tag ≠ 0 → Lanewise s (.vscale f) f two (fun l => on (byElement tag (fun a _ _ => a)
    (fun F x _ _ => F.scaleOp rm fz x (lane s f.sb l).val.toInt)) l))

/-- R196-R198: vector comparisons, selection, logic, shifts and conversions. -/
def Sys2Proof.Claims.VectorLogicAndConversion : Prop := ∀ (s : State) (f : Fields),
  let fz := (s.nd s.cur.node).fpstat.getLsbD 8
  let tag := f.imm.toNat % 8
  let cc := f.imm.toNat / 8
  let two := fun (l : Nat) => [lane s f.sa l, lane s f.sb l]
  let three := fun (l : Nat) => [lane s f.sa l, lane s f.sb l, lane s f.dst l]
  let on := fun (g : Word → Word → Word → Word) (l : Nat) => (g (lane s f.sa l).val (lane s f.sb l).val (lane s f.dst l).val, (0 : BitVec 6))
  let narrowing := tag = 1 ∧ (cc = 2 ∨ cc = 3)
  ((Instr.vcmp f).wf = true → Lanewise s (.vcmp f) f two (fun l => byElement tag (fun a b _ => if holdsInt cc a b then 0xFFFFFFFF else 0)
    (fun F a b _ => (if holdsFp cc fz F a b then 2 ^ (F.ew + F.mw + 1) - 1 else 0, 0)) (lane s f.sa l).val (lane s f.sb l).val 0)) ∧
  Lanewise s (.vsel f) f three (on (fun a b d => (d &&& a) ||| (~~~d &&& b))) ∧
  Lanewise s (.vand f) f two (on (fun a b _ => a &&& b)) ∧
  Lanewise s (.vor f) f two (on (fun a b _ => a ||| b)) ∧
  Lanewise s (.vxor f) f two (on (fun a b _ => a ^^^ b)) ∧
  Lanewise s (.vshl f) f two (on (fun a b _ => BitVec.ofNat 32 (a.toNat * 2 ^ (b.toNat % 64)))) ∧
  Lanewise s (.vshr f) f two (on (fun a b _ => if f.imm.getLsbD 3 then BitVec.ofInt 32 (a.toInt / 2 ^ (b.toNat % 64))
    else BitVec.ofNat 32 (a.toNat / 2 ^ (b.toNat % 64)))) ∧
  ((Instr.vcvt f).wf = true → Lanewise s (.vcvt f) f (fun l => if narrowing then two l else [lane s f.sa l]) (fun l =>
    let a := (lane s f.sa l).val
    if tag = 0 then (BitVec.ofNat 32 (fmtFp32.ofInt .nearest a.toInt).1, (fmtFp32.ofInt .nearest a.toInt).2)
    else if cc = 0 then fpToInt .nearest false (fmtFp32.decode fz a.toNat)
    else convertTags cc tag fz a (if narrowing then (lane s f.sb l).val else 0)))

namespace Sys2Proof.Claims

/-- Byte `j` of a word as an integer. -/
def byteVal (unsigned : Bool) (w : Word) (j : Nat) : Int :=
  if unsigned then ((w.extractLsb' (8 * j) 8).toNat : Int) else (w.extractLsb' (8 * j) 8).toInt

/-- The sum of the four byte products of two words (R199, R209). -/
def dot4 (unsigned : Bool) (a b : Word) : Int :=
  byteVal unsigned a 0 * byteVal unsigned b 0 + byteVal unsigned a 1 * byteVal unsigned b 1
    + byteVal unsigned a 2 * byteVal unsigned b 2 + byteVal unsigned a 3 * byteVal unsigned b 3

/-- An accumulator with an exact term added and rounded once to FP32 (R74). -/
def plus (rm : Rounding) (fz : Bool) (acc : Nat × BitVec 6) (t : FVal × BitVec 6) : Nat × BitVec 6 :=
  let r := FVal.add rm (fmtFp32.decode fz acc.1) t.1
  let d := fmtFp32.deliver rm fz r.1
  (d.1, acc.2 ||| t.2 ||| r.2 ||| d.2)

/-- The exact sum of the products of the elements of a narrow group, unscaled (R74, R199). -/
def products (tag : Nat) (a b : Word) (es : List Nat) : FVal × BitVec 6 :=
  let w := if tag = 6 then 6 else 8
  let val := fun (x : Word) (e : Nat) => decodeBlock tag (x.toNat / 2 ^ (w * e) % 2 ^ w) 127
  let sum := fun (x y : FVal × BitVec 6) => ((FVal.add .nearest x.1 y.1).1, x.2 ||| y.2 ||| (FVal.add .nearest x.1 y.1).2)
  match es.map (fun e => FVal.mul (val a e) (val b e)) with
  | [] => (.fin false 0 0, 0)
  | p :: ps => ps.foldl sum p

/-- `x · 2^(sa−127) · 2^(sb−127)`; a scale of 0xFF makes it NaN. -/
def withScales (s : Word) (x : FVal × BitVec 6) : FVal × BitVec 6 :=
  let sa := s.toNat % 256
  let sb := s.toNat / 256 % 256
  (if sa = 255 ∨ sb = 255 then .nan else x.1.scale ((sa : Int) + sb - 254), x.2)

end Sys2Proof.Claims

/-- R199: `VDOT` accumulates the dot product of each lane: bytes modulo 2^32; 16-bit elements in order, each sum rounded
once in RM; narrow groups in order, each exact, scaled and rounded to nearest even. -/
def Sys2Proof.Claims.VectorDots : Prop := ∀ (s : State) (f : Fields),
  let fz := (s.nd s.cur.node).fpstat.getLsbD 8
  let tag := f.imm.toNat % 8
  let rm := Rounding.ofCode (f.imm.extractLsb' 3 2)
  let a := fun l => (lane s f.sa l).val
  let b := fun l => (lane s f.sb l).val
  let d := fun l => (lane s f.dst l).val
  let sc := fun l => Map.get (s.el (here s)).vreg {} (16 * (f.sb.toNat + 1) + l)
  (tag = 0 → Lanewise s (.vdot f) f (fun l => [lane s f.sa l, lane s f.sb l, lane s f.dst l])
    (fun l => (BitVec.ofInt 32 ((d l).toNat + dot4 (f.imm.getLsbD 3) (a l) (b l)), 0))) ∧
  (tag = 2 ∨ tag = 3 → Lanewise s (.vdot f) f (fun l => [lane s f.sa l, lane s f.sb l, lane s f.dst l]) (fun l =>
    let F := if tag = 2 then fmtBf16 else fmtFp16
    let term := fun (e : Nat) => FVal.mul (F.decode fz ((a l).toNat / 2 ^ (16 * e) % 65536)) (F.decode fz ((b l).toNat / 2 ^ (16 * e) % 65536))
    let r := plus rm fz (plus rm fz ((d l).toNat, 0) (term 0)) (term 1)
    (BitVec.ofNat 32 r.1, r.2))) ∧
  (tag = 4 ∨ tag = 5 ∨ tag = 6 → Lanewise s (.vdot f) f (fun l => [lane s f.sa l, lane s f.sb l, sc l, lane s f.dst l]) (fun l =>
    let g := fun (es : List Nat) => withScales (sc l).val (products tag (a l) (b l) es)
    let r := if tag = 6 then plus .nearest fz (plus .nearest fz ((d l).toNat, 0) (g [0, 1, 2, 3])) (g [4])
      else plus .nearest fz (plus .nearest fz ((d l).toNat, 0) (g [0, 1])) (g [2, 3])
    (BitVec.ofNat 32 r.1, r.2)))

namespace Sys2Proof.Claims

/-- The address of lane `l` of a vector load or store (R200). -/
def eaSeq (s : State) (i : Instr) (f : Fields) (l : Nat) : Word := ea s i f + BitVec.ofNat 32 (4 * l)
def eaIdx (s : State) (i : Instr) (f : Fields) (l : Nat) : Word :=
  BitVec.ofNat 32 ((issueOps s i f).a.val.toNat + 4 * (lane s f.sb l).val.toNat)

/-- Every lane of `ls` passes the checks of R28, and the scalar operands are clean. -/
def LanesAccessible (s : State) (i : Instr) (f : Fields) (a : Nat → Word) (ls : List Nat) (write : Bool) : Prop :=
  Passes s i f ∧ badAddress s i f = none ∧ ∀ l ∈ ls, s.lsCheck s.cur.node (a l) 4 write l = none

/-- Some lane of `ls` fails: the record names the lowest lane that fails the first failing check, in the order PROT, ALIGN,
DOMAIN (R200). -/
def FirstFailure (s : State) (a : Nat → Word) (ls : List Nat) (write : Bool) (fi : FaultInfo) : Prop :=
  ∃ l ∈ ls, s.lsCheck s.cur.node (a l) 4 write l = some fi ∧
    ∀ m ∈ ls, ∀ x, s.lsCheck s.cur.node (a m) 4 write m = some x →
      (fi.cause = 0x07 ∨ (fi.cause = 0x0A ∧ x.cause ≠ 0x07) ∨ (fi.cause = 0x04 ∧ x.cause = 0x04)) ∧ (x.cause = fi.cause → l ≤ m)

/-- The lanes whose index in SB is clean. -/
def cleanLanes (s : State) (f : Fields) : List Nat := (List.range 16).filter (fun l => !(lane s f.sb l).psn)

/-- A vector load from the addresses `a` of the lanes `ls`; the other lanes are poisoned by their index (R200). -/
def LoadsLanes (s : State) (i : Instr) (f : Fields) (a : Nat → Word) (ls : List Nat) : Prop :=
  (LanesAccessible s i f a ls false →
    Lanewise s i f (fun l => [if l ∈ ls then s.lsWord (here s) (a l).toNat else lane s f.sb l])
      (fun l => ((s.lsWord (here s) (a l).toNat).val, 0))) ∧
  (∀ fi, Passes s i f → badAddress s i f = none → FirstFailure s a ls false fi → exec i s = .next (failsAt s i f fi)) ∧
  (∀ w, badAddress s i f = some w → Lanewise s i f (fun _ => [⟨w, true⟩]) (fun _ => (0, 0)))

/-- A vector store to the addresses `a` of the lanes `ls`, in ascending order, with its memory frame (R200, R201). -/
def StoresLanes (s : State) (i : Instr) (f : Fields) (a : Nat → Word) (ls : List Nat) : Prop :=
  (LanesAccessible s i f a ls true →
    ∃ t, exec i s = .next (finishesAt s i f t
        { cond := decide (ls = List.range 16) && ls.all (fun l => !(lane s f.dst l).psn) }) ∧
      t.node = s.atIssue.node ∧
      (∀ l ∈ ls, (∀ m ∈ ls, l < m → a m ≠ a l) → t.lsWord (here s) (a l).toNat = lane s f.dst l) ∧
      (∀ pa, (∀ l ∈ ls, pa < localPa s (a l).toNat ∨ localPa s (a l).toNat + 4 ≤ pa) → memGet t.mem pa = memGet s.mem pa)) ∧
  (∀ fi, Passes s i f → badAddress s i f = none → FirstFailure s a ls true fi → exec i s = .next (failsAt s i f fi)) ∧
  (∀ w, Passes s i f → badAddress s i f = some w → Completes s i f { cond := false })

end Sys2Proof.Claims

/-- R200, R201: the vector loads and stores. -/
def Sys2Proof.Claims.VectorLoadsAndStores : Prop := ∀ (s : State) (f : Fields),
  LoadsLanes s (.vld f) f (eaSeq s (.vld f) f) (List.range 16) ∧
  LoadsLanes s (.vldx f) f (eaIdx s (.vldx f) f) (cleanLanes s f) ∧
  (Memory.wf s.mem = true →
    StoresLanes s (.vst f) f (eaSeq s (.vst f) f) (List.range 16) ∧
    StoresLanes s (.vstx f) f (eaIdx s (.vstx f) f) (cleanLanes s f))

namespace Sys2Proof.Claims

/-- The pairwise tree of R74 over 2^n terms from index `2^n · k` on. -/
def tree (op : Word → Word → Word × BitVec 6) (x : Nat → Word) : Nat → Nat → Word × BitVec 6
  | 0, k => (x k, 0)
  | n + 1, k =>
    let l := tree op x n (2 * k)
    let r := tree op x n (2 * k + 1)
    ((op l.1 r.1).1, l.2 ||| r.2 ||| (op l.1 r.1).2)

/-- A reduction (R203): a poisoned mask poisons the result; else the lowest included poisoned lane does; else the tree over
the lanes, with `none0` in the place of an excluded one. -/
def Reduces (s : State) (i : Instr) (f : Fields) (none0 : Word) (op : Word → Word → Word × BitVec 6) : Prop :=
  let fmt := f.imm.extractLsb' 0 3
  let mask := (issueOps s i f).b
  let included := (List.range 16).filter (fun l => !mask.val.getLsbD l)
  Passes s i f →
    (mask.psn = true → Completes s i f { dst := some mask, fmt := fmt, cond := false }) ∧
    (∀ w, mask.psn = false → (included.map (lane s f.sa)).find? PWord.psn = some w →
      Completes s i f { dst := some w, fmt := fmt, cond := false }) ∧
    (mask.psn = false → (included.map (lane s f.sa)).find? PWord.psn = none →
      let r := tree op (fun l => if mask.val.getLsbD l then none0 else (lane s f.sa l).val) 4 0
      Completes s i f { dst := some ⟨r.1, false⟩, fmt := fmt, cond := decide (r.1 ≠ 0), flags := r.2 })

/-- The running value of `VSCAN` (R204): lane 0, then each lane added. -/
def running (op : Word → Word → Word) (x : Nat → Word) (x0 : Word) : Nat → Word
  | 0 => x0
  | n + 1 => op (running op x x0 n) (x (n + 1))

/-- Flags that the running value raises up to lane `n`, one addition at a time. -/
def runningFlags (op : Word → Word → Word × BitVec 6) (x : Nat → Word) (x0 : Word) (n : Nat) : BitVec 6 :=
  match n with
  | 0 => 0
  | k + 1 => (op (running (fun a b => (op a b).1) x x0 k) (x (k + 1))).2

end Sys2Proof.Claims

/-- R202-R204: moving lanes, reductions and prefix sums.
The sign of a zero sum in round-down, and that `VINS` writes all 16 lanes at S4, are the model's reading (log entries 61, 110). -/
def Sys2Proof.Claims.VectorMovesAndReductions : Prop := ∀ (s : State) (f : Fields),
  let nd := s.nd s.cur.node
  let fz := nd.fpstat.getLsbD 8
  let fp := f.imm.getLsbD 0
  let rm := Rounding.ofCode (f.imm.extractLsb' 3 2)
  let l0 := f.imm.toNat % 16
  let code := fun (r : Nat × BitVec 6) => (BitVec.ofNat 32 r.1, r.2)
  let add := fun (x y : Word) => if fp then code (fmtFp32.addOp rm fz x.toNat y.toNat) else (x + y, 0)
  let pick := fun (great : Bool) (x y : Word) =>
    if fp then code (extremum great fz fmtFp32 x.toNat y.toNat)
    else (if (if f.imm.getLsbD 5 then x.ult y else x.slt y) = great then y else x, (0 : BitVec 6))
  (Lanewise s (.vbcast f) f (fun _ => [(issueOps s (.vbcast f) f).a]) (fun _ => ((issueOps s (.vbcast f) f).a.val, 0))) ∧
  (Passes s (.vext f) f → Completes s (.vext f) f
    { dst := some (lane s f.sa l0), cond := !(lane s f.sa l0).psn && decide ((lane s f.sa l0).val ≠ 0) }) ∧
  (Passes s (.vins f) f →
    let a := (issueOps s (.vins f) f).a
    let out := fun (l : Nat) => if l = l0 then a else lane s f.dst l
    Completes s (.vins f) f { lanes := (List.range 16).map (fun l => (16 * f.dst.toNat + l, out l)), cond := !a.psn && (List.range 16).any (fun l => decide ((out l).val ≠ 0)) }) ∧
  Lanewise s (.vperm f) f (fun l => [lane s f.sb l, lane s f.sa ((lane s f.sb l).val.toNat % 16)])
    (fun l => ((lane s f.sa ((lane s f.sb l).val.toNat % 16)).val, 0)) ∧
  ((Instr.vredAdd f).wf = true → Reduces s (.vredAdd f) f (if fp then 0x80000000 else 0) add) ∧
  ((Instr.vredMax f).wf = true →
    Reduces s (.vredMax f) f (if fp then 0xFF800000 else if f.imm.getLsbD 5 then 0 else 0x80000000) (pick true)) ∧
  ((Instr.vredMin f).wf = true →
    Reduces s (.vredMin f) f (if fp then 0x7F800000 else if f.imm.getLsbD 5 then 0xFFFFFFFF else 0x7FFFFFFF) (pick false)) ∧
  ((Instr.vscan f).wf = true →
    let mask := (issueOps s (.vscan f) f).b
    let x := fun (l : Nat) => if mask.val.getLsbD l then PWord.clean (if fp then 0x80000000 else 0) else lane s f.sa l
    let x0 := if fp then (if nanOf fmtFp32 (x 0).val.toNat then 0x7FC00000 else BitVec.ofNat 32 (flushOf fmtFp32 fz (x 0).val.toNat))
      else (x 0).val
    (mask.psn = true → Lanewise s (.vscan f) f (fun l => (List.range (l + 1)).map (lane s f.sa) ++ [mask]) (fun _ => (0, 0))) ∧
    (mask.psn = false → Lanewise s (.vscan f) f (fun l => (List.range (l + 1)).map x)
      (fun l => (running (fun a b => (add a b).1) (fun l => (x l).val) x0 l, runningFlags add (fun l => (x l).val) x0 l))))

namespace Sys2Proof.Claims

/-- Where element `e` of a 32-element narrow block stands in its lanes (R205), and the element's code there. -/
def perWord (tag : Nat) : Nat := if tag = 6 then 5 else 4
def elemBits (tag : Nat) : Nat := if tag = 6 then 6 else 8
def elemAt (tag : Nat) (w : Word) (e : Nat) : Nat := field w (elemBits tag * (e % perWord tag)) (elemBits tag)

/-- Lane `l` holds an element of half `h` of the block; and the half writes all of the lane. -/
def inHalf (tag h l : Nat) : Bool := (List.range 16).any (fun k => decide ((16 * h + k) / perWord tag = l))
def wholeLane (tag h l : Nat) : Bool :=
  (List.range (perWord tag)).all (fun j => decide (16 * h ≤ perWord tag * l + j ∧ perWord tag * l + j < 16 * h + 16)) ||
    decide (tag = 6 ∧ h = 1 ∧ l = 6)

end Sys2Proof.Claims

/-- R205, R206: packing into narrow blocks, unpacking, and lanes to and from channels. `VPACK` writes the positions of its 16
elements, and zero into the unused bits of an E2M3 lane; a lane that receives a poisoned element is poisoned as a whole.
That a lane is poisoned as a whole, and which lanes `VPACK` and `VIN` write at S4, are the model's reading (log entries 68, 110). -/
def Sys2Proof.Claims.VectorPackingAndChannels : Prop := ∀ (s : State) (f : Fields),
  let nd := s.nd s.cur.node
  let fz := nd.fpstat.getLsbD 8
  let satf := nd.fpstat.getLsbD 9
  let tag := f.imm.toNat % 8
  let h := f.imm.toNat / 8 % 2
  let sc := (issueOps s (.vpack f) f).b
  let usc := (issueOps s (.vunpk f) f).b
  let ob := (issueOps s (.vout f) f).b
  let ib := (issueOps s (.vin f) f).b
  let ia := (issueOps s (.vin f) f).a
  let el := fun (k : Nat) => encodeBlock tag satf (fmtFp32.decode fz (lane s f.sa k).val.toNat) (sc.val.toNat % 256)
  (4 ≤ tag → tag ≤ 6 → Passes s (.vpack f) f →
    ∃ out : Nat → PWord, ∃ cond, ∃ fl, Completes s (.vpack f) f
        { lanes := (List.range 16).map (fun l => (16 * f.dst.toNat + l, out l)), cond := cond, flags := fl } ∧
      (∀ l, l < 16 → inHalf tag h l = false → out l = lane s f.dst l) ∧
      (∀ l, l < 16 → inHalf tag h l = true → ((out l).psn = true ↔
        (∃ k, k < 16 ∧ (16 * h + k) / perWord tag = l ∧ (lane s f.sa k).psn = true) ∨ sc.psn = true ∨
        (wholeLane tag h l = false ∧ (lane s f.dst l).psn = true))) ∧
      (∀ k, k < 16 → let l := (16 * h + k) / perWord tag
        (out l).psn = false → elemAt tag (out l).val (16 * h + k) = (el k).1) ∧
      (∀ e, e < 32 → e / 16 ≠ h → let l := e / perWord tag
        inHalf tag h l = true → (out l).psn = false → elemAt tag (out l).val e = elemAt tag (lane s f.dst l).val e) ∧
      (∀ l, tag = 6 → inHalf tag h l = true → (out l).psn = false → field (out l).val 30 2 = 0) ∧
      (tag = 6 → h = 1 → (out 6).psn = false → field (out 6).val 12 18 = 0) ∧
      ((∃ l, l < 16 ∧ inHalf tag h l = true ∧ (out l).psn = true) → cond = false ∧ fl = 0) ∧
      ((∀ l, l < 16 → inHalf tag h l = true → (out l).psn = false) → fl = (List.range 16).foldl (fun x k => x ||| (el k).2) 0 ∧
        (cond = true ↔ ∃ l, l < 16 ∧ (out l).val ≠ 0))) ∧
  (4 ≤ tag → tag ≤ 6 → Lanewise s (.vunpk f) f (fun k => [lane s f.sa ((16 * h + k) / perWord tag), usc]) (fun k =>
    let r := fmtFp32.deliver .nearest fz (decodeBlock tag (elemAt tag (lane s f.sa ((16 * h + k) / perWord tag)).val (16 * h + k))
      (usc.val.toNat % 256))
    (BitVec.ofNat 32 r.1, r.2))) ∧
  (Passes s (.vout f) f →
    let v := if ob.psn then ob else lane s f.sa (ob.val.toNat % 16)
    Completes s (.vout f) f { dst := some v, kind := 0, fmt := f.imm.extractLsb' 0 3, cond := !v.psn && decide (ob.val = 15) }) ∧
  (Passes s (.vin f) f → (ib.psn = true → Completes s (.vin f) f { cond := false }) ∧
    (ib.psn = false → Completes s (.vin f) f { lanes := [(16 * f.dst.toNat + ib.val.toNat % 16, ia)], cond := !ia.psn && decide (ib.val = 15) }))

namespace Sys2Proof.Claims

/-- A valid RN30 word, and the word of an integer (R68, R70). -/
def rnOk (w : Word) : Bool := decide (field w 30 2 = 0 ∧ field w 10 10 < 1023 ∧ field w 20 10 < 1021)
def rnOf (v : Int) : Word := BitVec.ofNat 32 ((v % 1021).toNat * 2 ^ 20 + (v % 1023).toNat * 2 ^ 10 + (v % 1024).toNat)

/-- A residue operation, channel by channel (R71). -/
def rn (op : Int → Int → Int) (x y : Word) : Word :=
  if rnOk x && rnOk y then
    BitVec.ofNat 32 ((op (field x 20 10) (field y 20 10) % 1021).toNat * 2 ^ 20 + (op (field x 10 10) (field y 10 10) % 1023).toNat * 2 ^ 10
      + (op (field x 0 10) (field y 0 10) % 1024).toNat)
  else 0xFFFFFFFF

/-- The signed input of `RNCV` by its type, and its encoding with NV out of range (R207). -/
def rnIn (t : Nat) (a : Word) : Int :=
  if t = 0 then a.toInt else if t = 1 then (a.extractLsb' 0 16).toInt else (a.extractLsb' 0 8).toInt
def rnEnc (v : Int) : Word × BitVec 6 := if -534775296 ≤ v ∧ v ≤ 534775295 then (rnOf v, 0) else (0xFFFFFFFF, 16)

/-- Reconstruction, rounding shift and clamp (R208): `t` gives the range and `half` the rounding. -/
def rnBack (t : Nat) (half : Bool) (a b : Word) : Word × BitVec 6 :=
  let n := b.toNat % 32
  let v := (rnValue a + (if half ∧ n ≠ 0 then 2 ^ (n - 1) else 0)) / 2 ^ n
  let m : Int := if t = 0 then 2147483648 else if t = 1 then 32768 else 128
  if rnOk a then (BitVec.ofInt 32 (if v < -m then -m else if m ≤ v then m - 1 else v), 0) else (0x80000000, 32)

end Sys2Proof.Claims

/-- R71-R73, R207-R209: the residue instructions, scalar and by lane. -/
def Sys2Proof.Claims.ResidueInstructions : Prop := ∀ (s : State) (f : Fields),
  let word := fun (r : Word × BitVec 6) => ((r.1, decide (r.1 ≠ 0), r.2) : Word × Bool × BitVec 6)
  let t := f.imm.toNat % 4
  let half := f.imm.getLsbD 2
  let u := f.imm.getLsbD 0
  let shift := (issueOps s (.vrnct f) f).b
  let a := fun (l : Nat) => lane s f.sa l
  let b := fun (l : Nat) => lane s f.sb l
  let d := fun (l : Nat) => lane s f.dst l
  Gives s f (.rncv f) 7 (fun o => word (rnEnc (rnIn t o.a.val))) ∧
  Gives s f (.rnct f) 0 (fun o => word (rnBack t half o.a.val o.b.val)) ∧
  Gives s f (.rnadd f) 7 (fun o => int (rn (· + ·) o.a.val o.b.val)) ∧
  Gives s f (.rnsub f) 7 (fun o => int (rn (· - ·) o.a.val o.b.val)) ∧
  Gives s f (.rnmul f) 7 (fun o => int (rn (· * ·) o.a.val o.b.val)) ∧
  Gives s f (.rnmac f) 7 (fun o => int (if rnOk o.d.val && rnOk o.a.val && rnOk o.b.val then rn (· + ·) o.d.val (rn (· * ·) o.a.val o.b.val)
    else 0xFFFFFFFF)) ∧
  Gives s f (.rnneg f) 7 (fun o => int (rn (· - ·) 0 o.a.val)) ∧
  Lanewise s (.vrncv f) f (fun l => [a l]) (fun l => rnEnc (rnIn t (a l).val)) ∧
  Lanewise s (.vrnct f) f (fun l => [a l, shift]) (fun l => rnBack t half (a l).val shift.val) ∧
  Lanewise s (.vrnmac f) f (fun l => [a l, b l, d l]) (fun l => (if rnOk (d l).val && rnOk (a l).val && rnOk (b l).val then
    rn (· + ·) (d l).val (rn (· * ·) (a l).val (b l).val) else 0xFFFFFFFF, 0)) ∧
  Lanewise s (.vrndot f) f (fun l => [a l, b l, d l]) (fun l => (if rnOk (d l).val then
    rn (· + ·) (d l).val (rnOf (dot4 u (a l).val (b l).val)) else 0xFFFFFFFF, 0))

/-- R69-R72: a valid word stands for one integer from −HALF to HALF − 1, an integer in that range is what its encoding
stands for, and the operations are those of the integers modulo M = 1024 · 1023 · 1021. -/
def Sys2Proof.Claims.ResidueWordsAreIntegers : Prop :=
  (∀ v : Int, -534775296 ≤ v → v ≤ 534775295 → rnOk (rnOf v) = true ∧ rnValue (rnOf v) = v) ∧
  (∀ w, rnOk w = true → -534775296 ≤ rnValue w ∧ rnValue w ≤ 534775295 ∧ rnOf (rnValue w) = w) ∧
  (∀ x y, rnOk x = true → rnOk y = true →
    (rnValue (rn (· + ·) x y) - (rnValue x + rnValue y)) % 1069550592 = 0 ∧
    (rnValue (rn (· - ·) x y) - (rnValue x - rnValue y)) % 1069550592 = 0 ∧
    (rnValue (rn (· * ·) x y) - rnValue x * rnValue y) % 1069550592 = 0)

/-- R52-R55, R58: a number that a format represents is delivered as itself, exactly and without a flag, in every rounding
mode; and an FP32 value read with FZ is never a subnormal. -/
def Obligations.RepresentableNumbersAreExact : Prop := ∀ (F : FpFmt) (rm : Rounding), F ∈ [fmtFp32, fmtBf16, fmtFp16] →
  (∀ c, c < 2 ^ (F.ew + F.mw + 1) → nanOf F c = false → F.deliver rm false (F.decode false c) = (c, 0)) ∧
  (∀ c, c < 2 ^ (F.ew + F.mw + 1) → nanOf F c = true → F.deliver rm false (F.decode false c) = (F.canonNan, 0)) ∧
  (∀ c, c < 2 ^ (F.ew + F.mw + 1) → F.decode true c = F.decode false (flushOf F true c)) ∧
  (∀ fz c, c < 2 ^ (F.ew + F.mw + 1) → nanOf F (F.deliver rm fz (F.decode fz c)).1 = true → (F.deliver rm fz (F.decode fz c)).1 = F.canonNan)

namespace Sys2Proof.Claims

/-- The transition completes with `r` in the state `t` that its execution leaves. -/
def Does (s : State) (i : Instr) (f : Fields) (t : State) (r : Result) : Prop := exec i s = .next (finishesAt s i f t r)

/-- The transition sends the request `r`, which takes the next number, and parks until its answer (R41). -/
def Asks (s : State) (i : Instr) (f : Fields) (r : Req) : Prop :=
  exec i s = .next (parksAt s i f { issueClaim s i f with serial := s.serial + 1, reqs := s.reqs ++ [r] } (.await s.serial))

/-- A request of the issuing node under its stamp (R295); it may leave its element from the cycle of its S3 on. -/
def ask (s : State) (va : BitVec 56) (op : Op) (stage : Stage) : Req :=
  { id := s.serial, who := .node s.cur.node, stamp := s.stampOf s.cur.node, va := va, op := op, stage := stage, from_ := s.cycle + 2 }

/-- The transition passes to its S4 with the lanes or words `vs`, and nothing of it happens before. -/
def Acts (s : State) (i : Instr) (f : Fields) (vs : List PWord) : Prop := exec i s = .next (actsAt s i f (issueClaim s i f) vs)

/-- The transition `i` of node `n` has its S4 in the present cycle; it read `a`, `b` and `d` and the words `ws`. -/
def Late (s : State) (n : NodeRef) (i : Instr) (f : Fields) (a b d : PWord) (ws : List PWord) : Prop :=
  ∃ fl, fl.instr = i ∧ InS4 s n fl f (.late a b d ws)

/-- The S4 of the node's transition leaves the state `t` with result `r` (stated by the S4 statements). -/
def EndsIn (s : State) (n : NodeRef) (t : State) (r : Result) : Prop := settleNode s n = finish t n r

/-- A node of the issuing node's element. -/
def beside (s : State) (k : Nat) : NodeRef := (here s).nodeRef (BitVec.ofNat 4 k)

/-- The issuing node, its domain, and whether that is privileged (R90, R148). -/
def self (s : State) : Node := s.nd s.cur.node
def myDom (s : State) : BitVec 4 := domOf (self s)
def isPriv (s : State) : Bool := (Map.get (s.el (here s)).dtab 0 (myDom s).toNat).getLsbD 62

/-- A refusal about another node, domain entry or domain's words (R145, R156, R379). -/
def refusedNode (k : Nat) : FaultInfo := { cause := 0x04, deta := BitVec.ofNat 32 k, detb := 0x50000000 }

end Sys2Proof.Claims

/-- R40, R143-R145: the S3 of `PARK` consumes a pending wake or parks; the S4 of `WAKE` releases a node parked by `PARK` or by a
CX trap, and leaves WPEND set in any other. The released park's S4 comes in the next cycle with condition 1, and a trapped slot
is tried first again. -/
def Obligations.ParkAndWake : Prop := ∀ (s : State) (f : Fields),
  let a := (issueOps s (.wake f) f).a
  let m := beside s (a.val.toNat % 16)
  let allowed := domOf (s.nd m) = myDom s ∨ isPriv s = true
  (Passes s (.park f) f → Acts s (.park f) f []) ∧
  (∀ n fl a b d ws, (s.nd n).flight = some fl → fl.instr = .park f → fl.why = .s4 (s.cycle + 1) (.late a b d ws) → fl.parks = false → (s.nd n).later = none →
    settleNode s n = s.updNd n (fun nd => if nd.wpend then { nd with
        wpend := false
        flight := some { fl with why := .s4 (s.cycle + 1) (.done { cond := false }) } }
      else { nd with
        st := .parked
        flight := some { fl with why := .park } })) ∧
  (Passes s (.wake f) f → a.psn = true → Completes s (.wake f) f { cond := false }) ∧
  (Passes s (.wake f) f → a.psn = false → ¬allowed → exec (.wake f) s = .next (failsAt s (.wake f) f (refusedNode m.node.toNat))) ∧
  (Passes s (.wake f) f → a.psn = false → allowed → Acts s (.wake f) f []) ∧
  (∀ n a b d ws, Late s n (.wake f) f a b d ws →
    let m := n.elemRef.nodeRef (a.val.extractLsb' 0 4)
    let parkedBy := fun (why : Flight) (fl : InFlight) => (s.nd m).st = .parked ∧ (s.nd m).flight = some fl ∧ fl.why = why
    (∀ fl, parkedBy .park fl → EndsIn s n (s.updNd m (fun nd => { nd with
      st := .run
      nextAt := s.cycle + 2
      flight := some { fl with why := .s4 (s.cycle + 1) (.done { cond := true }) } })) { cond := true }) ∧
    (∀ fl, parkedBy .cxTrap fl → EndsIn s n (s.updNd m (fun nd => { nd with
      st := .run
      nextAt := s.cycle + 2
      flight := none
      prefer := some fl.slot })) { cond := true }) ∧
    ((∀ fl, ¬parkedBy .park fl ∧ ¬parkedBy .cxTrap fl) → EndsIn s n (s.updNd m (fun nd => { nd with wpend := true })) { cond := false }))

/-- R155, R158-R161: calling a gate and returning. A transition that may not call raises GATE, and DOMAIN while the gate is
being scrubbed, and claims nothing. S1 claims the gate and counts the argument, and `LNTL.last` holds the callee back; at S4 the
argument enters ci3 of the callee, and `LNTL.last` makes the session ACTIVE and gives the callee ENTRY. The S4 of `GRET` ends
the session with STOP1 and clears P. Other entries of the gate table stay.
What `LNTL` asks of the callee's STATE is the model's reading (log entry 33), and so are the lowest gate among several ACTIVE ones,
RKIND 5 with the gate's number in the record of a gate being scrubbed, and gate 0 in the record of a `GRET` without a session
(log entries 103, 107, 108). -/
def Obligations.GateCalls : Prop := ∀ (s : State) (f : Fields),
  let gi := f.imm.toNat % 8
  let k := f.imm.toNat / 16 % 4
  let g := (s.el (here s)).gateAt gi
  let ssn := field g 29 2
  let n := beside s (field g 24 4)
  let st := (s.nd n).st
  let bad := field g 31 1 = 0 ∨ ssn = 3 ∨ n = s.cur.node ∨ st = .off ∨ st = .faulted ∨ (ssn = 1 ∧ field g 4 2 ≠ k) ∨
    field g 0 4 = field g 8 3 + 1
  let mine := ssn = 0 ∨ (ssn = 1 ∧ field g 12 4 = s.cur.node.node.toNat)
  let scrubbed := (s.el (here s)).scrubbing (.gate gi)
  let token := fun (stop : Bool) (a : PWord) => if a.psn then ({ kind := 6, payload := a.val } : Token)
    else { kind := if stop then 2 else 0, payload := a.val }
  let call := fun (i : Instr) (last : Bool) =>
    (Passes s i f →
      (scrubbed = true → exec i s = .next (failsAt s i f { cause := 0x04, deta := BitVec.ofNat 32 gi, detb := 0x50000000 })) ∧
      (scrubbed = false → bad → exec i s = .next (failsAt s i f { cause := 0x0B, aux := BitVec.ofNat 8 gi })) ∧
      (scrubbed = false → ¬bad → mine → ∃ t gs go, exec i s = .next (actsAt s i f t []) ∧
        t = { issueClaim s i f with node := t.node, elem := t.elem } ∧
        (∀ m, t.nd m = if last = true ∧ m = n then { s.nd n with nextAt := max (s.nd n).nextAt (s.cycle + 4) } else s.atIssue.nd m) ∧
        (∀ e, e ≠ here s → t.el e = s.el e) ∧ t.el (here s) = { (issueClaim s i f).el (here s) with gate := gs, gateOff := go } ∧
        (∀ j, j < 8 → go.getLsbD j = (!(decide (ssn = 0) && decide (j = gi)) && (s.el (here s)).gateOff.getLsbD j)) ∧
        (∀ j, j ≠ gi → Map.get gs 0 j = (s.el (here s)).gateAt j) ∧
        let y := Map.get gs 0 gi
        field y 29 2 = 1 ∧ field y 12 4 = s.cur.node.node.toNat ∧ field y 4 2 = k ∧ field y 0 4 = (field g 0 4 + 1) % 16 ∧
          y &&& 0x9FFF0FC0 = g &&& 0x9FFF0FC0)) ∧
    (∀ c a b d ws, Late s c i f a b d ws →
      let g := (s.el c.elemRef).gateAt gi
      let n := c.elemRef.nodeRef (g.extractLsb' 24 4)
      let open_ := field g 29 2 = 1 ∧ field g 12 4 = c.node.toNat
      (¬open_ → EndsIn s c s { cond := !a.psn }) ∧
      (open_ → ∃ t gs, EndsIn s c t { cond := !a.psn } ∧ t = { s with node := t.node, elem := t.elem } ∧
        (∀ m, m ≠ n → t.nd m = s.nd m) ∧ (t.nd n).ciq 3 = (s.nd n).ciq 3 ++ [token false a] ∧
        (t.nd n).p = (if last then BitVec.ofNat 8 (field g 16 8) else (s.nd n).p) ∧
        (∀ e, e ≠ c.elemRef → t.el e = s.el e) ∧ t.el c.elemRef = { s.el c.elemRef with gate := gs } ∧
        (∀ j, j ≠ gi → Map.get gs 0 j = (s.el c.elemRef).gateAt j) ∧
        field (Map.get gs 0 gi) 29 2 = (if last then 2 else 1) ∧ Map.get gs 0 gi &&& 0x9FFFFFFF = g &&& 0x9FFFFFFF))
  let active := fun (n : NodeRef) (j : Nat) => let x := (s.el n.elemRef).gateAt j
    field x 31 1 = 1 ∧ field x 24 4 = n.node.toNat ∧ field x 29 2 = 2
  call (.lntl f) false ∧ call (.lntlLast f) true ∧
  (Passes s (.gret f) f → (∀ j, j < 8 → ¬active s.cur.node j) → exec (.gret f) s = .next (failsAt s (.gret f) f { cause := 0x0B })) ∧
  (Passes s (.gret f) f → (∃ j, j < 8 ∧ active s.cur.node j) → Acts s (.gret f) f []) ∧
  (∀ n a b d ws, Late s n (.gret f) f a b d ws → ∀ j, j < 8 → active n j → (∀ x, x < j → ¬active n x) →
    (s.el n.elemRef).gateOff.getLsbD j = false →
    let x := (s.el n.elemRef).gateAt j
    let r : BitVec 2 := x.extractLsb' 6 2
    ∃ t gs go gd, EndsIn s n t { cond := !a.psn } ∧ t = { s with node := t.node, elem := t.elem } ∧
      (∀ m, m ≠ n → t.nd m = s.nd m) ∧ (t.nd n).p = 0 ∧ (t.nd n).coq r = (s.nd n).coq r ++ [token true a] ∧
      (∀ e, e ≠ n.elemRef → t.el e = s.el e) ∧
      t.el n.elemRef = { s.el n.elemRef with gate := gs, gateOff := go, gateDrain := gd } ∧
      (∀ y, y ≠ j → Map.get gs 0 y = (s.el n.elemRef).gateAt y) ∧
      field (Map.get gs 0 j) 29 2 = 0 ∧ field (Map.get gs 0 j) 28 1 = 1 ∧ field (Map.get gs 0 j) 0 4 = 0 ∧
      Map.get gs 0 j &&& 0x8FFFFFF0 = x &&& 0x8FFFFFF0)

/-- R36, R141, R154-R157, R159: reading domain state, moving resources between domains, opening gates, and suspending and
resuming a domain. The privileged forms act at S4; one that may not act takes condition 0 and changes nothing but the hold of
the element at its issue.
That d takes the old entry of a refused `GATE` is the model's reading (log entry 32). -/
def Sys2Proof.Claims.DomainInstructions : Prop := ∀ (s : State) (f : Fields),
  let entry := fun (e : ElemRef) (d : Nat) => Map.get (s.el e).dtab 0 d
  let word := fun (e : ElemRef) (d w : Nat) => Map.get (s.el e).pword 0 (3 * d + w)
  let sel := f.imm.toNat % 8
  let da := (issueOps s (.did f) f).a
  let d := da.val.toNat % 16
  let pw := f.imm.toNat % 4
  let gi := f.imm.toNat % 8
  let starts := fun (i : Instr) => Passes s i f →
    (∀ w, (issueOps s i f).psn = some w → Completes s i f { dst := some ⟨w, true⟩, cond := false }) ∧
    ((issueOps s i f).psn = none → Acts s i f [])
  let susp := fun (i : Instr) (on : Bool) => ∀ n a b d ws, Late s n i f a b d ws →
    let e := n.elemRef
    let x := a.val.toNat % 16
    let no := x = (domOf (s.nd n)).toNat ∨ (entry e x).getLsbD 63 = false ∨ (entry e x).getLsbD 61 = on
    (no → EndsIn s n s { dst := some {}, cond := false }) ∧
    (¬no → ∃ dt, EndsIn s n (s.updEl e (fun el => { el with dtab := dt }))
        { dst := some ⟨BitVec.ofNat 32 ((List.range 16).countP (fun k => let m := e.nodeRef (BitVec.ofNat 4 k)
          decide (domOf (s.nd m) = BitVec.ofNat 4 x ∧ (s.nd m).st ≠ .off))), false⟩, cond := true } ∧
      (∀ y, y ≠ x → Map.get dt 0 y = entry e y) ∧ (∀ b, b < 64 → (Map.get dt 0 x).getLsbD b = if b = 61 then on else (entry e x).getLsbD b))
  (Passes s (.did f) f → (Instr.did f).wf = true →
    (sel = 0 → Completes s (.did f) f (cleanResult 0 (int ((myDom s).setWidth 32)))) ∧
    (sel ≠ 0 → da = operand s f f.sa) ∧
    (sel ≠ 0 → da.psn = true → Completes s (.did f) f { dst := some da, cond := false }) ∧
    (sel ≠ 0 → da.psn = false → d ≠ (myDom s).toNat → isPriv s = false → exec (.did f) s = .next (failsAt s (.did f) f (refusedNode d))) ∧
    (sel ≠ 0 → da.psn = false → (d = (myDom s).toNat ∨ isPriv s = true) → Completes s (.did f) f (cleanResult 0 (int
      (if sel = 1 then (entry (here s) d).extractLsb' 0 32 else if sel = 2 then (entry (here s) d).extractLsb' 32 32
       else word (here s) d (sel - 3)))))) ∧
  starts (.dpart f) ∧ starts (.gate f) ∧ starts (.ispz f) ∧ starts (.unpz f) ∧
  (∀ n a b d ws, Late s n (.dpart f) f a b d ws →
    let el := s.el n.elemRef
    let pd := a.val.toNat % 16
    let old := word n.elemRef pd pw
    let barred := (entry n.elemRef pd).getLsbD 63 = false ∨ partRefused el (BitVec.ofNat 4 pd) pw old b.val = true
    (barred → EndsIn s n s { dst := some ⟨old, false⟩, cond := false }) ∧
    (¬barred → ∃ ps lost, EndsIn s n (s.updEl n.elemRef (fun e => { e with pword := ps, scrub := e.scrub ++ lost }))
        { dst := some ⟨old, false⟩, cond := true } ∧
      (∀ x, Map.get ps 0 x = if x = 3 * pd + pw then b.val else Map.get el.pword 0 x) ∧
      (∀ r c, (r, c) ∈ lost ↔ ∃ k, k < 32 ∧ resourceOf pw k = some r ∧ old.getLsbD k = true ∧ b.val.getLsbD k = false ∧
        c = s.cycle + (match r with
          | .bank _ => 256
          | .vgrp _ => 2
          | _ => 1)))) ∧
  (∀ n a b d ws, Late s n (.gate f) f a b d ws →
    let el := s.el n.elemRef
    let gold := el.gateAt gi
    let callee := n.elemRef.nodeRef (a.val.extractLsb' 24 4)
    let gbad := field gold 29 2 = 1 ∨ field gold 29 2 = 2 ∨ field gold 28 1 = 1 ∨ el.owns (domOf (s.nd callee)) (.gate gi) = false ∨
      field (Map.get (s.nd callee).ccfg 0 3) 31 1 = 1 ∨ coBound s callee (a.val.extractLsb' 6 2) = true
    (gbad → EndsIn s n s { dst := some ⟨gold, false⟩, cond := false }) ∧
    (¬gbad → ∃ gs, EndsIn s n (s.updEl n.elemRef (fun e => { e with gate := gs })) { dst := some ⟨gold, false⟩, cond := true } ∧
      (∀ j, j ≠ gi → Map.get gs 0 j = el.gateAt j) ∧ Map.get gs 0 gi &&& 0x8FFF07C0 = a.val &&& 0x8FFF07C0 ∧
      field (Map.get gs 0 gi) 29 2 = 0 ∧ field (Map.get gs 0 gi) 0 4 = 0)) ∧
  susp (.ispz f) true ∧ susp (.unpz f) false

/-- R154: `DPART` may not take a resource that another domain owns or that is being scrubbed, may not give up a gate in a
session, nor set a reserved bit. -/
def Sys2Proof.Claims.PartitionWordRules : Prop := ∀ (e : Elem) (d : BitVec 4) (w : Nat) (old new : Word), w < 3 →
  (partRefused e d w old new = true ↔
    (∃ b, b < 32 ∧ new.getLsbD b = true ∧ resourceOf w b = none) ∨
    (∃ b r, b < 32 ∧ resourceOf w b = some r ∧ new.getLsbD b = true ∧ old.getLsbD b = false ∧
      ((∃ x : BitVec 4, x ≠ d ∧ e.owns x r = true) ∨ e.scrubbing r = true)) ∨
    (∃ b r, b < 32 ∧ resourceOf w b = some r ∧ old.getLsbD b = true ∧ new.getLsbD b = false ∧
      ((w = 2 ∧ field (e.gateAt b) 29 2 ≠ 0) ∨ e.mx.holds r = true))) ∧
  (∀ b, b < 32 → (resourceOf w b = none ↔ (w = 0 ∧ 28 ≤ b) ∨ (w = 2 ∧ 8 ≤ b))) ∧
  (∀ b r, b < 32 → resourceOf w b = some r → r.place = (w, b))

namespace Sys2Proof.Claims

/-- What a selector of a node reads, and the condition (R384). -/
def selector (nd : Node) (k : Nat) : Word × Bool :=
  if k = 0 then (nd.ncfg, true)
  else if k = 1 then (BitVec.ofNat 32 ((match nd.st with
    | .off => 0
    | .run => 1
    | .parked => 2
    | .faulted => 3) * 2 ^ 30 + nd.p.toNat * 2 ^ 16 + nd.last.toNat * 2 ^ 12 + nd.cause.toNat), true)
  else if k = 2 then (nd.fpstat, true)
  else if k = 3 then (0, true)
  else if k < 8 then (Map.get nd.ccfg 0 (k - 4), true)
  else if k < 14 then (Map.get nd.latch 0 (k - 8), true)
  else if k < 18 then (Map.get nd.trec 0 (k - 14), true)
  else ((Map.get nd.g {} (k - 32)).val, (Map.get nd.g {} (k - 32)).psn)

/-- FPSTAT as a `SYWR` leaves it (R384): SATF and FZ are written, flags are cleared where the word has ones. -/
def fpstatWritten (old v : Word) : Word :=
  BitVec.ofNat 32 (field v 8 2 * 256 + (old &&& ~~~v).toNat % 64)

end Sys2Proof.Claims

/-- R383, R384, R386: reading and writing system registers, and the two traps. A selector of the node itself acts at S4;
one of another node or of a memory tile is asked of it and the node parks; a poisoned operand makes no access. -/
def Sys2Proof.Claims.SystemRegisters : Prop := ∀ (s : State) (f : Fields),
  let sel := f.imm.toNat
  let ra := issueOps s (.syrd f) f
  let row := fun (i : Instr) =>
    (Passes s i f →
      let o := issueOps s i f
      let away := sel = 48 ∨ sel = 49 ∨ o.a.val.getLsbD 31 = true
      (∀ w, o.psn = some w → Completes s i f { cond := false }) ∧
      (o.psn = none → away → Asks s i f (ask s 0 (.writeSel o.a.val o.b.val f.imm) .home)) ∧
      (o.psn = none → ¬away → Acts s i f [])) ∧
    (∀ n a b d ws, Late s n i f a b d ws →
      (sel = 2 → EndsIn s n (s.updNd n (fun nd => { nd with fpstat := fpstatWritten nd.fpstat b.val })) {}) ∧
      (32 ≤ sel → sel < 48 → ∃ gs, EndsIn s n (s.updNd n (fun nd => { nd with g := gs })) {} ∧
        ∀ k, Map.get gs {} k = if k = sel - 32 then ⟨b.val, false⟩ else Map.get (s.nd n).g {} k) ∧
      (sel = 3 → (s.nd n).st ≠ .faulted → EndsIn s n s { cond := false }) ∧
      (sel ≠ 2 → sel ≠ 3 → ¬(32 ≤ sel ∧ sel < 48) → EndsIn s n s { cond := false }))
  (Passes s (.syrd f) f →
    (∀ w, ra.psn = some w → Completes s (.syrd f) f { dst := some ⟨w, true⟩, cond := false }) ∧
    (ra.psn = none → (sel = 48 ∨ sel = 49 ∨ ra.a.val.getLsbD 31 = true) → Asks s (.syrd f) f (ask s 0 (.readSel ra.a.val f.imm) .home)) ∧
    (ra.psn = none → sel ≠ 48 → sel ≠ 49 → ra.a.val.getLsbD 31 = false → Completes s (.syrd f) f
      { dst := some ⟨(selector (s.atIssue.nd s.cur.node) sel).1, false⟩, cond := (selector (s.atIssue.nd s.cur.node) sel).2 })) ∧
  row (.sywrFpstat f) ∧ row (.sywrGreg f) ∧ row (.sywrResumeRetry f) ∧ row (.sywrResumeSkip f) ∧ row (.sywrPortctlReplay f) ∧
  row (.sywrPortctlAbandon f) ∧
  (Passes s (.trap f) f → exec (.trap f) s = .next (failsAt s (.trap f) f { cause := 0x01, deta := (issueOps s (.trap f) f).a.val })) ∧
  (Passes s (.brk f) f → exec (.brk f) s = .next (failsAt s (.brk f) f { cause := 0x0D, aux := BitVec.ofNat 8 sel }))

/-- R385: the return from a fault. An action word is refused unless the node is FAULTED with no VALID latch and the word's
zero fields are zero; an accepted one puts the node into RUN, or back into PARKED where its awaited request is sent again,
and writes P where WP is set. It changes no memory. -/
def Sys2Proof.Claims.ReturnFromAFault : Prop := ∀ (s : State) (n : NodeRef) (w : Word),
  let nd := s.nd n
  let path := field (Map.get nd.trec 0 1) 5 3
  let full := ∃ fl f k, nd.faulting = some fl ∧ fl.instr.fields = some f ∧ writesDst fl.instr = true ∧ coCode f.dst = some k ∧
    2 ≤ (nd.coq k).length
  let refused := nd.st ≠ .faulted ∨ field (Map.get nd.latch 0 0) 31 1 = 1 ∨ field w 16 16 ≠ 0 ∨ field w 4 4 ≠ 0 ∨ 2 ≤ field w 0 2 ∨
    (field w 0 2 = 1 ∧ path ≤ 1 ∧ full)
  (refused → resumeNode s n w = none) ∧
  (¬refused → ∃ t, resumeNode s n w = some t ∧ t.mem = s.mem ∧
    (∀ fl, nd.faulting = some fl → nd.badToken = none → field w 0 2 = 1 → path ≤ 1 → (t.nd n).st = .run) ∧
    (nd.badToken = none → field w 0 2 = 0 → (∀ fl id, nd.faulting = some fl → fl.why ≠ .await id) → (t.nd n).st = .run ∧ (t.nd n).flight = nd.flight) ∧
    (nd.badToken = none → field w 0 2 = 0 → path = 1 → ∀ fl id f, nd.faulting = some fl → fl.why = .await id → fl.instr.fields = some f →
      (t.nd n).st = .parked ∧ (t.nd n).flight = some fl) ∧
    (field w 3 1 = 1 → (t.nd n).p = BitVec.ofNat 8 (field w 8 8)))

namespace Sys2Proof.Claims

/-- The matrix section of the issuing node's element, and whether another domain owns it (R219). -/
def sec (s : State) : Matrix := (s.el (here s)).mx
def foreignSec (s : State) : Prop := (sec s).st ≠ .off ∧ (sec s).owner ≠ myDom s

/-- The section of an element changed. -/
def withSec (s : State) (e : ElemRef) (m : Matrix) : State := s.updEl e (fun el => { el with mx := m })

/-- The banks that an operand format uses (R210). -/
def banksOf (wordA : Word) : List Nat := if field wordA 0 3 = 2 ∨ field wordA 0 3 = 3 then [field wordA 4 2] else [0, 1, 2, 3]

/-- The rows and columns of a tile, and where output (r, c) stands among the accumulator words (R210). -/
def edgeOf (wordA : Word) : Nat := if field wordA 0 3 = 2 ∨ field wordA 0 3 = 3 then 4 else 8
def placeOf (wordA : Word) (r c : Nat) : Nat :=
  if edgeOf wordA = 4 then 16 * field wordA 4 2 + 4 * r + c else 16 * (2 * (r / 4) + c / 4) + 4 * (r % 4) + c % 4

/-- Accumulators with some banks made zero and clean. -/
def zeroed (acc acc' : Map PWord) (banks : List Nat) : Prop :=
  ∀ k i, i < 16 → Map.get acc' {} (16 * k + i) = if k ∈ banks then {} else Map.get acc {} (16 * k + i)

/-- The tokens of local row `r` of tile `t` (R222, R223). -/
def rowTokens (m : Matrix) (acc : Map PWord) (t r : Nat) : List Token :=
  let word := fun (c : Nat) => Map.get acc {} (placeOf m.wordA r c)
  let row := (List.range (edgeOf m.wordA)).map (fun c => (if (word c).psn then { kind := 6, payload := (word c).val }
    else { kind := 0, fmt := if field m.wordA 0 3 = 0 then 7 else 1, payload := (word c).val } : Token))
  match m.shape with
  | none => row
  | some sh =>
    let g := sh.row0 + t * sh.rstr + r
    if sh.lens.sum ≤ g then []
    else match (List.range sh.lens.length).find? (fun j => decide ((sh.lens.take (j + 1)).sum = g + 1)) with
      | some j => row ++ [{ kind := 2, payload := BitVec.ofNat 32 j }]
      | none => row

/-- The drain buffer takes the section's tile for a node and channel; the section begins its next tile, cleared where ZERO
is set, or is DONE (R218, R222). -/
def Drained (e e' : Elem) (node : BitVec 4) (ch : BitVec 2) : Prop :=
  let m := e.mx
  let toks := (List.range (edgeOf m.wordA)).flatMap (rowTokens m e.acc (m.tiles - 1))
  (m.tiles < m.total → ∃ acc, e' = { e with
      mx := { m with drain := toks, drainNode := node, drainCh := ch, waiting := false, st := .run, k := 0, group := [] }
      acc := acc } ∧ zeroed e.acc acc (if m.wordA.getLsbD 13 then banksOf m.wordA else [])) ∧
  (m.total ≤ m.tiles → e' = { e with
      mx := { m with drain := toks, drainNode := node, drainCh := ch, waiting := false, st := .done } })

/-- The words of `MCFG` are legal together (R217, R220). -/
def legalCfg (a b : Word) (tiles : Nat) : Prop :=
  let opf := field a 0 3
  let narrow := 4 ≤ opf ∧ opf ≤ 6
  field a 14 18 = 0 ∧ opf ≠ 1 ∧ opf ≠ 7 ∧ (opf = 2 ∨ opf = 3 ∨ field a 4 2 = 0) ∧ (opf = 0 ∨ field a 3 1 = 0) ∧
  ¬(field a 8 1 = 1 ∧ field a 6 1 = 1) ∧ ¬(field a 9 1 = 1 ∧ field a 7 1 = 1) ∧ field b 0 16 ≠ 0 ∧ tiles ≠ 0 ∧
  (narrow → (field a 6 1 = 0 ∨ field a 7 1 = 0) → field b 0 16 % 8 = 0)

end Sys2Proof.Claims

/-- R36, R217-R220, R224: configuring, starting, draining and clearing the matrix section, at S4. An opcode of a domain that
does not own a section in use raises DOMAIN; a bank that the node's domain does not own does too; reserved fields leave
everything as it was, with condition 0. -/
def Sys2Proof.Claims.MatrixSetUp : Prop := ∀ (s : State) (f : Fields),
  let c := issueOps s (.mcfg f) f
  let asked := fun (e : ElemRef) (b : Word) => if field b 16 16 = 0 then taskTiles s e else field b 16 16
  let reserved := field c.a.val 0 3 = 1 ∨ field c.a.val 0 3 = 7
  let usable := fun (k : Nat) => s.mayUse s.cur.node (.acc k)
  let alien := fun (i : Instr) => Passes s i f → foreignSec s → exec i s = .next (faultsAt s i f { cause := 0x04, detb := 0x30000000 })
  let starts := fun (i : Instr) => Passes s i f → ¬foreignSec s → Acts s i f []
  alien (.mrun f) ∧ alien (.mdrain f) ∧ alien (.mclr f) ∧ alien (.mldk f) ∧ alien (.mstk f) ∧ alien (.mshape f) ∧ alien (.mfeed f) ∧
  alien (.mscl f) ∧ alien (.mfin f) ∧ alien (.mfinAbort f) ∧
  starts (.mrun f) ∧ starts (.mdrain f) ∧ starts (.mclr f) ∧
  (Passes s (.mcfg f) f →
    (c.psn ≠ none → Completes s (.mcfg f) f { cond := false }) ∧
    (c.psn = none → reserved → Completes s (.mcfg f) f { cond := false }) ∧
    (c.psn = none → ¬reserved → (∃ k ∈ banksOf c.a.val, usable k = false) → ∃ k ∈ banksOf c.a.val, usable k = false ∧
      exec (.mcfg f) s = .next (failsAt s (.mcfg f) f { cause := 0x04, deta := BitVec.ofNat 32 k, detb := 0x30000000 })) ∧
    (c.psn = none → ¬reserved → (∀ k ∈ banksOf c.a.val, usable k = true) → ¬legalCfg c.a.val c.b.val (asked (here s) c.b.val) →
      Completes s (.mcfg f) f { cond := false }) ∧
    (c.psn = none → (∀ k ∈ banksOf c.a.val, usable k = true) → legalCfg c.a.val c.b.val (asked (here s) c.b.val) → Acts s (.mcfg f) f [])) ∧
  (∀ n a b d ws, Late s n (.mcfg f) f a b d ws → EndsIn s n (withSec s n.elemRef { (s.el n.elemRef).mx with
      st := .cfg
      owner := domOf (s.nd n)
      wordA := a.val
      wordB := b.val
      fzc := (s.nd n).fpstat.getLsbD 8
      flags := 0
      tdone := 0
      tiles := 0
      total := asked n.elemRef b.val
      k := 0
      shape := none
      cfgNode := n.node
      waiting := false
      group := []
      scaleA := []
      scaleB := []
      passA := a.val.getLsbD 8
      passB := a.val.getLsbD 9
      marked := none }) {}) ∧
  (∀ n a b d ws, Late s n (.mrun f) f a b d ws → let el := s.el n.elemRef
    ∃ acc, EndsIn s n (s.setEl n.elemRef { el with mx := { el.mx with st := .run, k := 0, group := [] }, acc := acc }) {} ∧
      zeroed el.acc acc (if el.mx.wordA.getLsbD 13 then banksOf el.mx.wordA else [])) ∧
  (∀ n a b d ws, Late s n (.mdrain f) f a b d ws → ∀ k : BitVec 2, f.dst.toNat = 20 + k.toNat →
    ∃ e, EndsIn s n (s.setEl n.elemRef e) {} ∧ Drained (s.el n.elemRef) e n.node k) ∧
  (∀ n a b d ws, Late s n (.mclr f) f a b d ws → ∃ acc, EndsIn s n (s.updEl n.elemRef (fun e => { e with acc := acc })) {} ∧
    zeroed (s.el n.elemRef).acc acc ((List.range 4).filter (fun k => f.imm.getLsbD k)))

/-- R25, R36, R223, R224: moving a bank to and from the local store in S3, and binding a shape. The words are one access under
the checks of R200; a bank and a shape are written at S4. A record that is malformed leaves the section without a shape and
raises no fault. -/
def Sys2Proof.Claims.MatrixBanksAndShapes : Prop := ∀ (s : State) (f : Fields), Memory.wf s.mem = true → ¬foreignSec s →
  let word := fun (l : Nat) => s.lsWord (here s) l
  let clean := fun (ws : List PWord) => ws.all (fun w => !w.psn)
  let bank := fun (l : Nat) => Map.get (s.el (here s)).acc {} (16 * f.dst.toNat + l)
  let row := fun (i : Instr) (write : Bool) (good : Prop) => Passes s i f →
    ((issueOps s i f).psn ≠ none → Completes s i f { cond := false }) ∧
    (∀ fi, (issueOps s i f).psn = none → FirstFailure s (eaSeq s i f) (List.range 16) write fi → exec i s = .next (failsAt s i f fi)) ∧
    ((issueOps s i f).psn = none → (∀ l, l < 16 → s.lsCheck s.cur.node (eaSeq s i f l) 4 write l = none) → good)
  let o := issueOps s (.mshape f) f
  let at_ := fun (j : Nat) => o.a.val + BitVec.ofNat 32 (4 * j)
  let count := word (at_ 0).toNat
  let n := count.val.toNat
  let counted := count.psn = false ∧ 1 ≤ n ∧ n ≤ 64
  row (.mldk f) false (Acts s (.mldk f) f ((List.range 16).map (fun l => word (eaSeq s (.mldk f) f l).toNat))) ∧
  (∀ n a b d ws, Late s n (.mldk f) f a b d ws → ws.length = 16 →
    ∃ acc, EndsIn s n (s.updEl n.elemRef (fun e => { e with acc := acc })) { cond := clean ws } ∧
      ∀ x, Map.get acc {} x = if 16 * f.dst.toNat ≤ x ∧ x < 16 * f.dst.toNat + 16
        then ws.getD (x - 16 * f.dst.toNat) {} else Map.get (s.el n.elemRef).acc {} x) ∧
  row (.mstk f) true (∃ t, Does s (.mstk f) f t { cond := clean ((List.range 16).map bank) } ∧ t.node = s.atIssue.node ∧
    (∀ l, l < 16 → t.lsWord (here s) (eaSeq s (.mstk f) f l).toNat = bank l) ∧
    (∀ pa, (∀ l, l < 16 → pa < localPa s (eaSeq s (.mstk f) f l).toNat ∨ localPa s (eaSeq s (.mstk f) f l).toNat + 4 ≤ pa) →
      memGet t.mem pa = memGet s.mem pa)) ∧
  (Passes s (.mshape f) f →
    (o.psn ≠ none → Completes s (.mshape f) f { cond := false }) ∧
    (∀ fi, o.psn = none → s.lsCheck s.cur.node (at_ 0) 4 false 0 = some fi → exec (.mshape f) s = .next (failsAt s (.mshape f) f fi)) ∧
    (o.psn = none → s.lsCheck s.cur.node (at_ 0) 4 false 0 = none → ¬counted → Acts s (.mshape f) f []) ∧
    (∀ fi, o.psn = none → s.lsCheck s.cur.node (at_ 0) 4 false 0 = none → counted → FirstFailure s at_ (List.range (n + 1)) false fi →
      exec (.mshape f) s = .next (failsAt s (.mshape f) f fi)) ∧
    (o.psn = none → counted → (∀ j, j ≤ n → s.lsCheck s.cur.node (at_ j) 4 false j = none) →
      Acts s (.mshape f) f ((List.range n).map (fun j => word (at_ (j + 1)).toNat)))) ∧
  (∀ n a b d ws, Late s n (.mshape f) f a b d ws →
    let sound := ws ≠ [] ∧ ∀ w ∈ ws, w.psn = false ∧ 1 ≤ w.val.toNat ∧ w.val.toNat ≤ 65535
    let bound := fun (x : Option ShapeTab) => withSec s n.elemRef { (s.el n.elemRef).mx with shape := x }
    (sound → EndsIn s n (bound (some { lens := ws.map (fun w => w.val.toNat), row0 := field b.val 0 16, rstr := field b.val 16 16 })) {}) ∧
    (¬sound → EndsIn s n (bound none) { cond := false }))

namespace Sys2Proof.Claims

/-- Element (r, k) of the lanes that `MFEED` reads (R226), poisoned with its lane. -/
def fed (ls : Nat → PWord) (opf r k : Nat) : PWord :=
  let n := 8 * r + k
  let x := if opf = 2 ∨ opf = 3 then (n / 2, 16 * (n % 2), 16) else if opf = 6 then (n / 5, 6 * (n % 5), 6) else (n / 4, 8 * (n % 4), 8)
  let w := ls x.1
  if w.psn then w else ⟨BitVec.ofNat 32 (field w.val x.2.1 x.2.2), false⟩

/-- The eight k-values that a side is fed: in a narrow format with the scales of its rows or columns, 0xFF before the first
`MSCL`; a poisoned scale poisons the elements it scales (R226, R227). -/
def fedSide (m : Matrix) (ls : Nat → PWord) (base : Nat) : List KItem :=
  let opf := field m.wordA 0 3
  let narrow := 4 ≤ opf ∧ opf ≤ 6
  let sc := fun (r : Nat) => Map.get m.fscale (⟨255, false⟩ : PWord) (base + r)
  (List.range 8).map (fun k =>
    ({ vals := (List.range (edgeOf m.wordA)).map (fun r =>
         let v := fed ls opf r k
         if narrow ∧ v.psn = false ∧ (sc r).psn = true then sc r else v),
       scales := if narrow then some ((List.range (edgeOf m.wordA)).map sc) else none } : KItem))

/-- PSN of R221: an accumulator word in use is poisoned. A section in OFF or RELAY uses none. -/
def secPoisoned (e : Elem) : Prop :=
  e.mx.st ≠ .off ∧ e.mx.st ≠ .relay ∧ ∃ k ∈ banksOf e.mx.wordA, ∃ i, i < 16 ∧ (Map.get e.acc {} (16 * k + i)).psn = true

/-- STATE of R221. -/
def stateCode (m : Matrix) : Nat := match m.st with
  | .off => 0
  | .cfg => 1
  | .run => 2
  | .hold => 3
  | .done => 4
  | .relay => 5

end Sys2Proof.Claims

/-- R36, R219, R221, R224-R228: relaying, status, feeding, scales and the end of the section's work, at S4. That a section in
OFF or RELAY uses no accumulator word, and that K-steps left are counted in CFG, RUN and HOLD, are the model's
reading, and so is that an element whose scale is poisoned too keeps its own record (log entries 34, 35, 111). -/
def Obligations.MatrixControl : Prop := ∀ (s : State) (f : Fields),
  let lanes := fun (v : BitVec 5) => (List.range 16).map (lane s v)
  let sel := f.imm.toNat % 4
  let done := fun (i : Instr) (m' : Matrix → Matrix) => (Passes s i f → ¬foreignSec s → Acts s i f []) ∧
    (∀ n a b d ws, Late s n i f a b d ws → let el := s.el n.elemRef
      (secPoisoned el → EndsIn s n (withSec s n.elemRef (m' el.mx)) { dst := some ⟨el.mx.tdone.setWidth 32, false⟩, cond := false }) ∧
      (¬secPoisoned el → EndsIn s n (withSec s n.elemRef (m' el.mx)) { dst := some ⟨el.mx.tdone.setWidth 32, false⟩, cond := true }))
  (Passes s (.mpass f) f → ((issueOps s (.mpass f) f).a.psn = true → Completes s (.mpass f) f { cond := false }) ∧
    ((issueOps s (.mpass f) f).a.psn = false → Acts s (.mpass f) f [])) ∧
  (∀ n a b d ws, Late s n (.mpass f) f a b d ws → EndsIn s n (withSec s n.elemRef { (s.el n.elemRef).mx with
      passA := a.val.getLsbD 0
      passB := a.val.getLsbD 1
      owner := domOf (s.nd n)
      st := if field a.val 0 2 = 0 then .off else .relay }) {}) ∧
  (Passes s (.mstat f) f → Acts s (.mstat f) f []) ∧
  (∀ n a b d ws, Late s n (.mstat f) f a b d ws →
    let el := s.el n.elemRef
    let m := el.mx
    let alien := m.st ≠ .off ∧ m.owner ≠ domOf (s.nd n)
    let stat := fun (w : Word) => EndsIn s n (if f.imm.getLsbD 2 then withSec s n.elemRef { m with flags := 0 } else s) (cleanResult 0 (int w))
    (alien → EndsIn s n s (cleanResult 0 (int (BitVec.ofNat 32 (stateCode m * 2 ^ 13))))) ∧
    (¬alien → sel = 0 → ∃ w, stat w ∧ field w 16 16 = m.tdone.toNat ∧ field w 13 3 = stateCode m ∧
      (field w 12 1 = 1 ↔ m.shape ≠ none) ∧ (field w 11 1 = 1 ↔ secPoisoned el) ∧ (field w 10 1 = 1 ↔ m.fzc = true) ∧
      (field w 9 1 = 1 ↔ m.drain ≠ []) ∧ field w 5 4 = 0 ∧ field w 0 5 = m.flags.toNat) ∧
    (¬alien → sel = 1 → stat (if m.st = .cfg ∨ m.st = .run ∨ m.st = .hold then BitVec.ofNat 32 (field m.wordB 0 16 - m.k / 4) else 0)) ∧
    (¬alien → sel = 2 → stat m.wordA) ∧ (¬alien → sel = 3 → stat m.wordB)) ∧
  (Passes s (.mfeed f) f → ¬foreignSec s → Acts s (.mfeed f) f (lanes f.sa ++ lanes f.sb)) ∧
  (∀ n a b d ws, Late s n (.mfeed f) f a b d ws → ws.length = 32 →
    let m := (s.el n.elemRef).mx
    let fa := m.wordA.getLsbD 6
    let fb := m.wordA.getLsbD 7
    let la := fun (l : Nat) => ws.getD l {}
    let lb := fun (l : Nat) => ws.getD (16 + l) {}
    let bad := fun (ls : Nat → PWord) => ∃ l, l < (if field m.wordA 0 3 = 6 then 13 else 16) ∧ (ls l).psn = true
    let m' := { m with
      feedA := if fa then fedSide m la 0 else m.feedA
      feedB := if fb then fedSide m lb 8 else m.feedB }
    ((fa = true ∧ bad la) ∨ (fb = true ∧ bad lb) → EndsIn s n (withSec s n.elemRef m') { cond := false }) ∧
    (¬((fa = true ∧ bad la) ∨ (fb = true ∧ bad lb)) → EndsIn s n (withSec s n.elemRef m') {})) ∧
  (Passes s (.mscl f) f → ¬foreignSec s → Acts s (.mscl f) f (lanes f.sa)) ∧
  (∀ n a b d ws, Late s n (.mscl f) f a b d ws → ws.length = 16 →
    ∃ sc, EndsIn s n (withSec s n.elemRef { (s.el n.elemRef).mx with fscale := sc }) { cond := ws.all (fun w => !w.psn) } ∧
      ∀ l, l < 16 → Map.get sc {} l = if (ws.getD l {}).psn then ws.getD l {} else ⟨(ws.getD l {}).val &&& 0xFF, false⟩) ∧
  done (.mfin f) (fun m => { m with st := .off }) ∧
  done (.mfinAbort f) (fun m => { m with st := .off, k := 0, group := [], feedA := [], feedB := [], bufA := [], bufB := [], drain := [], waiting := false })

namespace Sys2Proof.Claims

/-- Where a k-value that an element forwards on a side goes has room; where the side does not forward none is needed (R214,
R215). -/
def roomToForward (s : State) (e : ElemRef) (sideB : Bool) : Prop :=
  (s.el e).mx.pass sideB = false ∨ ∃ d, laneNext s e sideB = some d ∧ laneRoom s sideB (subLane e.elem sideB) d = true

/-- A MARK that stands in the input buffer of a side and stops the section: one of a snapshot in whose scope it is (R229). -/
def stopMarks (s : State) (e : ElemRef) (sideB : Bool) : List Word :=
  if (s.el e).mx.st = .relay then [] else (((s.el e).mx.buf sideB).filterMap KItem.mark).filter (fun w => sectionInScope s e w)

/-- The MARK that a side gives up between two K-steps: the first that stops the section, wherever it stands in the buffer, or
else one at the head. -/
def sideMark (s : State) (e : ElemRef) (sideB : Bool) (w : Word) : Prop :=
  (stopMarks s e sideB).head? = some w ∨ (stopMarks s e sideB = [] ∧ ∃ x q, (s.el e).mx.buf sideB = x :: q ∧ x.mark = some w)

/-- A section in RUN may enter a k-value (R215, R222, R229). -/
def mayEnterNow (s : State) (e : ElemRef) (a b : KItem) : Prop :=
  let m := (s.el e).mx
  m.st = .run ∧ m.waiting = false ∧ m.k < 4 * field m.wordB 0 16 ∧ ((m.marked = none ∧ stopMarks s e false = [] ∧ stopMarks s e true = []) ∨ m.k % 4 ≠ 0) ∧
  (m.src false).head? = some a ∧ (m.src true).head? = some b ∧ a.mark = none ∧ b.mark = none ∧
  roomToForward s e false ∧ roomToForward s e true

end Sys2Proof.Claims

/-- R211, R214, R215, R218, R222, R225, R229: what moves the section. A k-value is entered, leaves its sources and goes on
where a side forwards; a relay passes k-values on unchanged; a complete tile drains, waits or holds; the drain buffer sends
its tokens in order; a MARK that reaches the head of a
sub-lane between two K-steps goes on; and a section of the snapshot's scope takes its MARK from anywhere in a sub-lane's
buffer between two K-steps, sends it on and stops. That the MARK overtakes the k-values before it in the buffer, which are
saved with the section, is the model's reading (log entry 114). -/
def Obligations.MatrixEvents : Prop := ∀ (s : State) (e : ElemRef),
  let m := (s.el e).mx
  (∀ a b, mayEnterNow s e a b → exec (.kvalueEnter e) s = .next
    (touchRegion ((forwardItem (forwardItem s e false a) e true b).updEl e (fun el => { el with
      mx := (enterValue ((el.mx.dropSrc false).dropSrc true) el.acc a b).1
      acc := (enterValue ((el.mx.dropSrc false).dropSrc true) el.acc a b).2 })) e)) ∧
  ((∀ a b, ¬mayEnterNow s e a b) → exec (.kvalueEnter e) s = .next s) ∧
  (∀ side x q d, m.st = .relay → m.pass side = true → m.buf side = x :: q → laneNext s e side = some d →
    laneRoom s side (subLane e.elem side) d = true → exec (.relayForward (.element e) side) s = .next
      (forwardItem (s.updEl e (fun el => { el with mx := el.mx.setBuf side q })) e side x)) ∧
  (∀ (t : TileRef) (p : BitVec 4) side st x d, (Map.get (s.tl t).ports {} p.toNat).stream = some st → st.frozen = false →
    Stream.mode st = (if side then 5 else 4) → st.lanes.head? = some x → laneFromTile t side x.1 = some d → laneRoom s side x.1 d = true →
    exec (.relayForward (.stream t p) side) s = .next (lanePush (s.updTl t (fun m => { m with ports := Map.modify m.ports {} p.toNat (fun q =>
      { q with stream := some { st with lanes := st.lanes.tail } }) })) side x.1 x.2 d)) ∧
  (m.st = .run → m.waiting = false → m.k = 4 * field m.wordB 0 16 →
    let e1 := { s.el e with mx := { m with tdone := m.tdone + 1, tiles := m.tiles + 1 } }
    (m.wordA.getLsbD 10 = true → m.drain = [] → ∃ e2, Drained e1 e2 m.cfgNode (m.wordA.extractLsb' 11 2) ∧
      exec (.tileComplete e) s = .next (s.setEl e e2)) ∧
    (m.wordA.getLsbD 10 = true → m.drain ≠ [] → exec (.tileComplete e) s = .next (s.setEl e { e1 with mx := { e1.mx with waiting := true } })) ∧
    (m.wordA.getLsbD 10 = false → exec (.tileComplete e) s = .next (s.setEl e { e1 with mx := { e1.mx with st := .hold } }))) ∧
  (∀ t q, m.drain = t :: q → let n := e.nodeRef m.drainNode
    ((s.nd n).coq m.drainCh).length + owedTo s n m.drainCh < 2 → (s.nd n).aligned = none → q ≠ [] ∨ m.waiting = false →
    exec (.drainTokenSend e) s = .next ((s.updNd n (fun nd => nd.setCo m.drainCh (nd.coq m.drainCh ++ [t]))).updEl e (fun el =>
      { el with mx := { el.mx with drain := q } }))) ∧
  (∀ t, m.drain = [t] → m.waiting = true → let n := e.nodeRef m.drainNode
    ((s.nd n).coq m.drainCh).length + owedTo s n m.drainCh < 2 → (s.nd n).aligned = none →
    ∃ e2, Drained { s.el e with mx := { m with drain := [] } } e2 m.cfgNode (m.wordA.extractLsb' 11 2) ∧
    exec (.drainTokenSend e) s = .next ((s.updNd n (fun nd => nd.setCo m.drainCh (nd.coq m.drainCh ++ [t]))).setEl e e2)) ∧
  ((s.nd (e.nodeRef m.drainNode)).aligned ≠ none → exec (.drainTokenSend e) s = .next s) ∧
  (∀ (side : Bool) w, (m.st = .relay ∨ (m.k % 4 = 0 ∧ m.group = [])) → sideMark s e side w → roomToForward s e side →
    (side = true → (∀ v, sideMark s e false v → ¬roomToForward s e false)) →
    let stops := m.st ≠ .relay ∧ sectionInScope s e w = true
    (stops → exec (.matrixMark e) s = .next ((forwardItem s e side { mark := some w }).updEl e (fun el => { el with
      mx := { (el.mx.setBuf side ((el.mx.buf side).eraseP (fun x => x.mark == some w))) with marked := el.mx.marked.orElse (fun _ => some w) } }))) ∧
    (¬stops → exec (.matrixMark e) s = .next ((forwardItem s e side { mark := some w }).updEl e (fun el => { el with
      mx := el.mx.setBuf side ((el.mx.buf side).eraseP (fun x => x.mark == some w)) })))) ∧
  (m.st ≠ .relay → m.k % 4 ≠ 0 → exec (.matrixMark e) s = .next s)

/-- R74, R212, R213, R217: what an entered k-value does to the accumulators. A poisoned operand poisons the row or column
and the first poison stays; a clean accumulator takes the exact sum of a complete group, scaled in a narrow format and
rounded once to nearest even, or an exact residue; every other word stays. The flags kept are NV, OF, UF and NX.
That FZC flushes what stands in a bank, and that A's record goes before B's, are the model's reading (log entries 60, 111). -/
def Obligations.MatrixAccumulation : Prop := ∀ (m : Matrix) (acc : Map PWord) (a b : KItem),
  let t := enterValue m acc a b
  let opf := field m.wordA 0 3
  let narrow := 4 ≤ opf ∧ opf ≤ 6
  let side := fun (xs : Option (List PWord)) (old : List PWord) => xs.getD (if narrow ∧ m.k % 32 = 0 then [] else old)
  let sa := side a.scales m.scaleA
  let sb := side b.scales m.scaleB
  let scale : List PWord → Nat → Nat := fun xs i => ((xs[i]?).map (fun w => w.val.toNat % 256)).getD 255
  let group := m.group ++ [(a, b)]
  let full := (if opf = 4 ∨ opf = 5 then 2 else if opf = 6 then 4 else 1) ≤ group.length
  let av := fun (x : KItem × KItem) (r : Nat) => (x.1.vals.getD r {}).val
  let bv := fun (x : KItem × KItem) (c : Nat) => (x.2.vals.getD c {}).val
  let first := group.headD (a, b)
  let sum := fun (x y : FVal × BitVec 6) => ((FVal.add .nearest x.1 y.1).1, x.2 ||| y.2 ||| (FVal.add .nearest x.1 y.1).2)
  let products := fun (r c : Nat) => match group.map (fun x => FVal.mul (decodeBlock opf (av x r).toNat 127) (decodeBlock opf (bv x c).toNat 127)) with
    | [] => (FVal.fin false 0 0, (0 : BitVec 6))
    | p :: ps => ps.foldl sum p
  let F := if opf = 2 then fmtBf16 else fmtFp16
  let term := fun (r c : Nat) =>
    if narrow then
      let p := products r c
      (if scale sa r = 255 ∨ scale sb c = 255 then FVal.nan else p.1.scale ((scale sa r : Int) + scale sb c - 254), p.2)
    else FVal.mul (F.decode m.fzc ((av first r).toNat % 65536)) (F.decode m.fzc ((bv first c).toNat % 65536))
  let added := fun (r c : Nat) (w : Word) =>
    if opf = 0 then (rn (· + ·) w (rnOf (byteVal (m.wordA.getLsbD 3) (av first r) 0 * byteVal (m.wordA.getLsbD 3) (bv first c) 0)), (0 : BitVec 6))
    else ((BitVec.ofNat 32 (plus .nearest m.fzc (w.toNat, 0) (term r c)).1), (plus .nearest m.fzc (w.toNat, 0) (term r c)).2)
  let hit := fun (r c : Nat) => [a.vals.getD r {}, b.vals.getD c {}].find? PWord.psn
  let edge := edgeOf m.wordA
  opf ≠ 1 → opf ≠ 7 →
  (∀ r c, r < edge → c < edge → let p := placeOf m.wordA r c
    Map.get t.2 {} p = if (Map.get acc {} p).psn then Map.get acc {} p
      else match hit r c with
        | some w => w
        | none => if full then ⟨(added r c (Map.get acc {} p).val).1, false⟩ else Map.get acc {} p) ∧
  (∀ p, (∀ r c, r < edge → c < edge → p ≠ placeOf m.wordA r c) → Map.get t.2 {} p = Map.get acc {} p) ∧
  t.1.k = m.k + 1 ∧ t.1.scaleA = sa ∧ t.1.scaleB = sb ∧ t.1.group = (if full then [] else group) ∧
  (∀ j, j < 5 → (t.1.flags.getLsbD j = true ↔ m.flags.getLsbD j = true ∨ (j ≠ 3 ∧ full ∧ ∃ r c, r < edge ∧ c < edge ∧
    (Map.get acc {} (placeOf m.wordA r c)).psn = false ∧ hit r c = none ∧
    (added r c (Map.get acc {} (placeOf m.wordA r c)).val).2.getLsbD j = true))) ∧
  t.1 = { m with k := t.1.k, scaleA := sa, scaleB := sb, group := t.1.group, flags := t.1.flags }

namespace Sys2Proof.Claims

/-- The mapping entry of CX `c` in the issuing node's domain, and the header of its block (R231, R233). -/
def cxEnt (s : State) (c : Nat) : DWord := Map.get (s.el (here s)).cxmap 0 (16 * (myDom s).toNat + c)
def cxHdr (s : State) (c : Nat) : DWord := Map.get (s.el (here s)).cxhdr 0 (16 * (myDom s).toNat + c)
def dfield (w : DWord) (lo n : Nat) : Nat := w.toNat / 2 ^ lo % 2 ^ n

/-- The values of a block's cells: a cell's value and flags are its function of its sources, which name cells, inputs, the
constant or zero (R231, R232). -/
def CellsHold (fz : Bool) (cells : List DWord) (ins : List Word) (v : Nat → Word × BitVec 6) : Prop :=
  ∀ k c, cells[k]? = some c →
    let src := fun (lo : Nat) => let x := dfield c lo 7
      if x < 32 then (v x).1 else if x < 35 then ins.getD (x - 32) 0 else if x = 35 then BitVec.ofNat 32 (dfield c 32 32) else 0
    v k = cellFn fz (dfield c 0 6) (Rounding.ofCode (c.extractLsb' 27 2)) (src 6) (src 13) (src 20)

/-- The graph of cell sources is acyclic: every cell stands above the cells that it names (R231). -/
def Acyclic (cells : List DWord) (rank : Nat → Nat) : Prop :=
  ∀ k c, cells[k]? = some c → rank k < cells.length ∧
    ∀ lo ∈ [6, 13, 20], dfield c lo 7 < 32 → dfield c lo 7 < cells.length ∧ rank (dfield c lo 7) < rank k

end Sys2Proof.Claims

/-- R232: the cell functions are the scalar opcodes' own. -/
def Sys2Proof.Claims.CellFunctions : Prop := ∀ (fz : Bool) (rm : Rounding) (x y z : Word),
  let fp := fun (r : Nat × BitVec 6) => (BitVec.ofNat 32 r.1, r.2)
  let cell := fun (n : Nat) => cellFn fz n rm x y z
  let neg := fun (w : Word) => if isNan32 w then nan32 else flush32 fz w ^^^ 0x80000000
  cell 0 = (x, 0) ∧ cell 1 = (BitVec.ofNat 32 (x.toNat + y.toNat), 0) ∧ cell 2 = (BitVec.ofInt 32 (x.toNat - y.toNat), 0) ∧
  cell 3 = (BitVec.ofNat 32 (x.toNat * y.toNat), 0) ∧ cell 4 = (x &&& y, 0) ∧ cell 5 = (x ||| y, 0) ∧ cell 6 = (x ^^^ y, 0) ∧
  cell 7 = (BitVec.ofNat 32 (x.toNat * 2 ^ (y.toNat % 64)), 0) ∧ cell 8 = (BitVec.ofNat 32 (x.toNat / 2 ^ (y.toNat % 64)), 0) ∧
  cell 9 = (BitVec.ofInt 32 (x.toInt / 2 ^ (y.toNat % 64)), 0) ∧ cell 10 = (if y.slt x then y else x, 0) ∧
  cell 11 = (if x.slt y then y else x, 0) ∧ cell 12 = (if z ≠ 0 then x else y, 0) ∧ cell 13 = (if x.slt y then 1 else 0, 0) ∧
  cell 14 = fp (fmtFp32.addOp rm fz x.toNat y.toNat) ∧ cell 15 = fp (fmtFp32.subOp rm fz x.toNat y.toNat) ∧
  cell 16 = fp (fmtFp32.fmaOp rm fz x.toNat y.toNat z.toNat) ∧ cell 17 = (neg x, 0) ∧
  cell 18 = fp (extremum false fz fmtFp32 x.toNat y.toNat) ∧ cell 19 = fp (extremum true fz fmtFp32 x.toNat y.toNat) ∧
  cell 20 = (if !isNan32 x && !isNan32 y && decide (size32 (flush32 fz x) < size32 (flush32 fz y)) then 1 else 0, 0) ∧
  cell 21 = (if isNan32 x then nan32 else flush32 fz x &&& 0x7FFFFFFF, 0) ∧ cell 22 = fp (fmtFp32.ofInt rm x.toInt) ∧
  cell 23 = fpToInt rm false (fmtFp32.decode fz x.toNat) ∧ cell 24 = fp (fmtFp32.mulOp rm fz x.toNat y.toNat) ∧ cell 25 = (x.clz, 0)

/-- R109, R234, R235: a firing of a custom opcode. An entry that is not mapped faults; one that is not resident traps to the
domain's loader node, which gives back every mailbox and leaves CAUSE as it was, or faults where no loader is named; a
resident one parks for its latency, and its outputs are the values of the cells that its header names. -/
def Sys2Proof.Claims.CustomFirings : Prop := ∀ (s : State) (c : BitVec 4) (f : Fields), Passes s (.cx c f) f →
  let i := Instr.cx c f
  let el := s.el (here s)
  let ent := cxEnt s c.toNat
  let x := Map.get el.dtab 0 (myDom s).toNat
  let r := Map.get el.res {} (dfield ent 60 2)
  let h := r.header
  let usable := ∀ p ∈ r.place, el.owns (myDom s) (.cell p) = true ∧ el.scrubbing (.cell p) = false
  let latency := dfield h 9 5 + 1
  let ii := dfield h 14 5 + 1
  let busy := fun (n : Nat) => (issueClaim s i f).updEl (here s) (fun e => { e with
    res := Map.set e.res (dfield ent 60 2) { r with freeAt := s.cycle + n } })
  let o := issueOps s i f
  let fz := (self s).fpstat.getLsbD 8
  let info := fun (cause : BitVec 8) => ({ cause := cause, aux := c.setWidth 8, deta := ent.extractLsb' 0 32, detb := ent.extractLsb' 32 32 } : FaultInfo)
  let inputs := dfield h 19 2
  let fmt : BitVec 3 := if dfield ((r.cells[dfield h 22 7]?).getD 0) 0 6 ∈ [14, 15, 16, 17, 18, 19, 21, 22, 24] then 1 else 0
  (ent.getLsbD 63 = false → exec i s = .next (failsAt s i f (info 0x02))) ∧
  (ent.getLsbD 63 = true → ent.getLsbD 62 = false → x.getLsbD 59 = false → exec i s = .next (failsAt s i f (info 0x03))) ∧
  (ent.getLsbD 63 = true → ent.getLsbD 62 = false → x.getLsbD 59 = true → ∃ t tr, exec i s = .next (parksAt s i f t .cxTrap) ∧
    t.mem = s.mem ∧ t.node = s.atIssue.node ∧ t.traps = s.traps ++ [tr] ∧ tr.w.length = 4 ∧ tr.w[2]? = some (info 0x03).deta ∧
    tr.w[3]? = some (info 0x03).detb ∧ (tr.w[0]?).map (fun w => field w 0 8) = some 0x03 ∧ (tr.w[1]?).map (fun w => field w 5 3) = some 5 ∧
    tr.dest = (if dfield x 55 4 = s.cur.node.node.toNat then none else some (beside s (dfield x 55 4))) ∧
    ((∀ m ∈ mboxReads s s.cur.node i f, (Map.get el.mbox {} m).st = .full) →
      (∀ m, mboxWrite i f = some m → (Map.get el.mbox {} m).st = .empty ∧ m ∉ mboxReads s s.cur.node i f) →
      ∀ m, Map.get (t.el (here s)).mbox {} m = Map.get el.mbox {} m)) ∧
  (ent.getLsbD 63 = true → ent.getLsbD 62 = true → ¬usable → ∃ p ∈ r.place,
    exec i s = .next (failsAt s i f { cause := 0x04, deta := BitVec.ofNat 32 p, detb := 0x40000000 })) ∧
  (ent.getLsbD 63 = true → ent.getLsbD 62 = true → usable → f.imm ≠ 1 →
    let ins := [o.a, o.b, o.d].take inputs
    (∀ w, ins.find? PWord.psn = some w → exec i s = .next (parksAt s i f (busy ii) (.long (s.cycle + 2 + latency)
      { dst := some w, fmt := fmt, dst2 := if h.getLsbD 21 then some w else none, cond := false }))) ∧
    (∀ v rank, ins.find? PWord.psn = none → Acyclic r.cells rank → CellsHold fz r.cells (ins.map PWord.val) v →
      dfield h 22 7 < r.cells.length → dfield h 29 7 < r.cells.length →
      exec i s = .next (parksAt s i f (busy ii) (.long (s.cycle + 2 + latency)
        { dst := some ⟨(v (dfield h 22 7)).1, false⟩, fmt := fmt, dst2 := if h.getLsbD 21 then some ⟨(v (dfield h 29 7)).1, false⟩ else none, cond := decide ((v (dfield h 22 7)).1 ≠ 0), flags := (List.range r.cells.length).foldl (fun x k => x ||| (v k).2) 0 })))) ∧
  (ent.getLsbD 63 = true → ent.getLsbD 62 = true → usable → f.imm = 1 →
    let ins := fun (l : Nat) => [lane s f.sa l, lane s f.sb l, lane s f.dst l].take inputs
    ∀ v : Nat → Nat → Word × BitVec 6, ∀ rank, Acyclic r.cells rank → dfield h 22 7 < r.cells.length → dfield h 29 7 < r.cells.length →
      (∀ l, l < 16 → CellsHold fz r.cells ((ins l).map PWord.val) (v l)) →
      let fl := fun (l : Nat) => (List.range r.cells.length).foldl (fun x k => x ||| (v l k).2) 0
      let one := lanesResult f.dst ins (fun l => ((v l (dfield h 22 7)).1, fl l))
      exec i s = .next (parksAt s i f (busy (16 * ii)) (.long (s.cycle + 2 + latency + 15 * ii)
        (if h.getLsbD 21 = true ∧ f.dst.toNat ≤ 30 then
          { one with lanes := one.lanes ++ (List.range 16).map (fun l => (16 * (f.dst.toNat + 1) + l, outLane (ins l) ((v l (dfield h 29 7)).1, 0))) }
        else one))))

/-- R236: loading, unloading and asking after a custom configuration. `CXLD` reads the block as a global read whose answer is
awaited; too few cells that are owned at all raise DOMAIN; an unmapped or resident entry, or too few free cells or slots,
takes condition 0. That a `CXLD` so refused leaves d unwritten, what DETA then shows, and that too few owned cells come first are the
model's (log entries 86, 70, 112). -/
def Obligations.CustomLoader : Prop := ∀ (s : State) (f : Fields),
  let el := s.el (here s)
  let d := myDom s
  let la := (issueOps s (.cxld f) f).a
  let lc := la.val.toNat % 16
  let ent := cxEnt s lc
  let nc := dfield (cxHdr s lc) 0 5 + 1
  let nm := dfield (cxHdr s lc) 5 4
  let owned := (List.range 32).filter (fun c => el.owns d (.cell c))
  let free := owned.filter (fun c => !el.scrubbing (.cell c) && !(Map.values el.res).any (fun r => r.used && r.place.contains c))
  let low := fun (cs : List Nat) => (cs.filter (fun c => decide (c < 8))).length
  let slots := (List.range 4).filter (fun k => !(Map.get el.res {} k).used)
  let bad := owned.length < nc ∨ low owned < nm
  let tight := free.length < nc ∨ low free < nm ∨ slots = []
  let ua := (issueOps s (.cxul f) f).a
  let qa := (issueOps s (.cxq f) f).a
  let q := cxEnt s (qa.val.toNat % 16)
  let qh := cxHdr s (qa.val.toNat % 16)
  (Passes s (.cxld f) f →
    (la.psn = true → Completes s (.cxld f) f { dst := some la, cond := false }) ∧
    (la.psn = false → (ent.getLsbD 63 = false ∨ ent.getLsbD 62 = true) → Completes s (.cxld f) f { cond := false }) ∧
    (la.psn = false → ent.getLsbD 63 = true → ent.getLsbD 62 = false → bad →
      exec (.cxld f) s = .next (failsAt s (.cxld f) f { cause := 0x04, deta := BitVec.ofNat 32 lc, detb := 0x40000000 })) ∧
    (la.psn = false → ent.getLsbD 63 = true → ent.getLsbD 62 = false → ¬bad → tight → Completes s (.cxld f) f { cond := false }) ∧
    (la.psn = false → ent.getLsbD 63 = true → ent.getLsbD 62 = false → ¬bad → ¬tight →
      Asks s (.cxld f) f (ask s (BitVec.ofNat 56 (dfield ent 3 53 * 8)) (.cxBlock (BitVec.ofNat 4 lc) (2 * (nc + 1))) .port))) ∧
  (Passes s (.cxul f) f →
    (ua.psn = true → Completes s (.cxul f) f { dst := some ua, cond := false }) ∧ (ua.psn = false → Acts s (.cxul f) f [])) ∧
  (∀ n a b d ws, Late s n (.cxul f) f a b d ws →
    let el := s.el n.elemRef
    let k := 16 * (domOf (s.nd n)).toNat + a.val.toNat % 16
    let ent := Map.get el.cxmap 0 k
    (ent.getLsbD 62 = false → EndsIn s n s { dst := some {}, cond := false }) ∧
    (ent.getLsbD 62 = true → ∃ cm, EndsIn s n (s.updEl n.elemRef (fun e => { e with
        cxmap := cm
        res := Map.erase e.res (dfield ent 60 2) })) { dst := some ⟨1, false⟩, cond := true } ∧
      ∀ x, Map.get cm 0 x = if x = k then ent &&& 0x8FFFFFFFFFFFFFFF else Map.get el.cxmap 0 x)) ∧
  (Passes s (.cxq f) f →
    (qa.psn = true → Completes s (.cxq f) f { dst := some qa, cond := false }) ∧
    (qa.psn = false → q.getLsbD 63 = false → Completes s (.cxq f) f { dst := some {}, cond := false }) ∧
    (qa.psn = false → q.getLsbD 63 = true → Completes s (.cxq f) f { dst := some ⟨BitVec.ofNat 32 (dfield q 60 4 * 2 ^ 28 + dfield qh 9 5 * 2 ^ 23
      + dfield qh 14 5 * 2 ^ 18 + dfield qh 19 2 * 2 ^ 16 + dfield qh 21 1 * 2 ^ 15 + dfield qh 0 5 * 2 ^ 10 + dfield qh 5 4 * 2 ^ 6), false⟩, cond := q.getLsbD 62 }))

namespace Sys2Proof.Claims

/-- The words of the register pair that SA names, the address in them, and the address with the offset operand b (R304). -/
def pairRegs (s : State) (f : Fields) : List PWord := [Map.get (self s).g {} f.sa.toNat, Map.get (self s).g {} (f.sa.toNat + 1)]
def pairVa (s : State) (f : Fields) : BitVec 56 :=
  BitVec.ofNat 56 (field (Map.get (self s).g {} (f.sa.toNat + 1)).val 0 24 * 2 ^ 32 + (Map.get (self s).g {} f.sa.toNat).val.toNat)
def offsetVa (s : State) (i : Instr) (f : Fields) : BitVec 56 := pairVa s f + (issueOps s i f).b.val.signExtend 56

/-- The origin record of a poisoned address (R304). -/
def badPair (s : State) (f : Fields) : Option Word := ((pairRegs s f).find? PWord.psn).map PWord.val
def badVa (s : State) (i : Instr) (f : Fields) : Option Word :=
  ((pairRegs s f ++ [(issueOps s i f).b]).find? PWord.psn).map PWord.val

/-- The address of word `j` of an access. -/
def wordVa (va : BitVec 56) (j : Nat) : Nat := (va.toNat + 4 * j) % 2 ^ 56

/-- A store entry names the word at an address (R306). -/
def names (x : StoreEntry) (tenant : BitVec 16) (va : Nat) : Bool :=
  decide (x.stamp.tenant = tenant) && (List.range x.words.length).any (fun j => decide (wordVa x.va j / 4 = va / 4))

/-- Word `j` of an entry has been performed, at this address and under this key (R323). -/
def PerformedAt (s : State) (x : StoreEntry) (j : Nat) (p : Nat × BitVec 13) : Prop :=
  (∃ r, s.req x.id = some r ∧ r.stage = .home ∧ j < r.pos ∧ r.pas[j]? = some p) ∨
  (s.req x.id = none ∧ ∃ a, s.resp x.id = some a ∧ a.ans.fault = none ∧ a.pas[j]? = some p)

/-- The word of an entry at an address has been performed, and its home holds another by now. -/
def Overtaken (s : State) (x : StoreEntry) (va : Nat) : Prop := ∃ j p, j < x.words.length ∧ wordVa x.va j / 4 = va / 4 ∧
  (∀ k, k < j → wordVa x.va k / 4 ≠ va / 4) ∧ PerformedAt s x j p ∧ some (s.homeWord p.1 p.2) ≠ x.words[j]?

/-- The entries of the issuing node that are not yet acknowledged. -/
def unacked (s : State) : List Nat := ((s.el (here s)).sbuf.filter (fun x => decide (x.node = s.cur.node.node))).map StoreEntry.id

/-- What a load takes for its `n` words from the entries that its S3 finds in the store buffer (R306, R309). -/
def forwarded (s : State) (i : Instr) (f : Fields) (own : Bool) (va : BitVec 56) (n : Nat) : List (Option PWord) :=
  if va.toNat % 4 = 0 then
    (List.range n).map (fun j => forward (issueClaim s i f) (entriesAtS3 (issueClaim s i f) (here s)) s.cur.node (s.stampOf s.cur.node) own (wordVa va j))
  else []

/-- The words of an access lie in two pages of 64 KiB (R308). -/
def twoLeaves (va : BitVec 56) (n : Nat) : Prop := wordVa va (n - 1) / 65536 ≠ va.toNat / 65536

/-- The scalar and the vector result of a load (R37, R192, R308). -/
def scalarGot (ws : List PWord) : Result :=
  { dst := some (ws.headD {}), cond := !(ws.headD {}).psn && decide ((ws.headD {}).val ≠ 0) }
def vectorGot (f : Fields) (ws : List PWord) : Result := lanesResult f.dst (fun l => [ws.getD l {}]) (fun l => ((ws.getD l {}).val, 0))

/-- The address that a node's registers and an offset give (R304). -/
def vaOf (nd : Node) (f : Fields) (b : PWord) : BitVec 56 :=
  BitVec.ofNat 56 (field (Map.get nd.g {} (f.sa.toNat + 1)).val 0 24 * 2 ^ 32 + (Map.get nd.g {} f.sa.toNat).val.toNat) + b.val.signExtend 56

/-- The state in which a node has made an entry: it stands last in the buffer and its request waits to leave (R306). -/
def entryMade (s : State) (n : NodeRef) (i : Instr) (va : BitVec 56) (ws : List PWord) : State :=
  let r : Req := { id := s.serial, who := .sbuf n.elemRef, stamp := s.stampOf n, va := va, op := .store ws, stage := .port }
  ({ s with serial := s.serial + 1, reqs := s.reqs ++ [r] } : State).updEl n.elemRef (fun e => { e with sbuf := e.sbuf ++
    [{ id := s.serial, node := n.node, dom := domOf (s.nd n), stamp := s.stampOf n, va := va, words := ws, opc := opcOf i }] })

/-- The state in which the zero-length reads of the host flush have left, one for each host port that has acknowledged a store
of the node since its last one (R309). -/
def flushing (s : State) (i : Instr) (f : Fields) : List Bool × State :=
  let c := issueClaim s i f
  let ports := [false, true].filter (fun south => (self s).hostAck.getLsbD (if south then 1 else 0))
  (ports, { c with
    serial := s.serial + ports.length
    reqs := s.reqs ++ ports.zipIdx.map (fun x =>
      ({ id := s.serial + x.2, who := .node s.cur.node, stamp := s.stampOf s.cur.node, op := .flush x.1, stage := .home } : Req)) })

end Sys2Proof.Claims

/-- R304-R306, R308, R309, R311: global loads. A poisoned address writes DST poisoned. A load whose words are all in the store
buffer, and in one page, completes with them; any other parks with its request, which takes the words found there along. `GLD.A` of scope 2 to 6
looks at the node's own entries alone, and its request waits for the other entries of the word when it leaves. Presence loads
and the probe park with a request and look at no entry. -/
def Sys2Proof.Claims.GlobalLoads : Prop := ∀ (s : State) (f : Fields),
  let row := fun (i : Instr) (got : List PWord → Result) (op : Op) (n : Nat) (looks own : Bool) =>
    let va := offsetVa s i f
    let fwd := if looks then forwarded s i f own va n else []
    (Passes s i f → ∀ w, badVa s i f = some w → Completes s i f (got (List.replicate n ⟨w, true⟩))) ∧
    (Passes s i f → badVa s i f = none → ¬twoLeaves va n → ∀ ws : List PWord, ws.length = n → fwd = ws.map some → Completes s i f (got ws)) ∧
    (Passes s i f → badVa s i f = none → (twoLeaves va n ∨ ∀ ws : List PWord, ws.length = n → fwd ≠ ws.map some) → Asks s i f { ask s va op .port with
      fwd := fwd, acquire := own })
  row (.gld f) scalarGot (.load 1) 1 true false ∧
  row (.gldA f) scalarGot (.load 1) 1 true (decide (2 ≤ f.imm.toNat % 8)) ∧
  row (.gldv f) (vectorGot f) (.load 16) 16 true false ∧
  row (.pld f) scalarGot (.presRead 1) 1 false false ∧
  row (.pprb f) scalarGot .probe 1 false false ∧
  row (.gldvP f) (vectorGot f) (.presRead 16) 16 false false

/-- R306: forwarding takes the word of the youngest entry of the same TENANT, KEYID and word-aligned address; a HELD entry
serves its own node alone, and a word that has been performed and written again since serves none (DEDUCED, log entry 120). The entries that a load's S3 finds are those of the buffer, then those of which the S4 comes
before. -/
def Sys2Proof.Claims.YoungestEntryForwards : Prop :=
  (∀ (s : State) (q : List StoreEntry) (n : NodeRef) (st : Stamp) (own : Bool) (va : Nat) (w : PWord),
    let fits := fun (x : StoreEntry) => names x st.tenant va = true ∧ x.stamp.keyid = st.keyid ∧
      (x.node = n.node ∨ (x.held = false ∧ own = false)) ∧ ¬Overtaken s x va
    forward s q n st own va = some w ↔ ∃ older x younger j, q = older ++ [x] ++ younger ∧ fits x ∧ (∀ y ∈ younger, ¬fits y) ∧
      x.words[j]? = some w ∧ wordVa x.va j / 4 = va / 4 ∧ ∀ k, k < j → wordVa x.va k / 4 ≠ va / 4) ∧
  (∀ (s : State) (e : ElemRef), ∃ made, entriesAtS3 s e = (s.el e).sbuf ++ made ∧
    ((∀ n, n.elemRef = e → (s.nd n).flight = none) → made = []) ∧
    (∀ x ∈ made, ∃ n fl due, n.elemRef = e ∧ (s.nd n).flight = some fl ∧ makesEntry fl.instr = true ∧ due ≤ s.cycle + 1 ∧
      x.node = n.node ∧ x.stamp = s.stampOf n ∧ ∃ a b d, fl.why = .s4 due (.late a b d x.words)))

/-- R36, R304, R306, R308-R310: global stores, releases and fences. A store makes its entry at S4, the last of the buffer, and
takes condition 1 unless it stores poison. A release or fence of scope 2 to 6 parks until the node's earlier entries are
acknowledged; of scope 6 also for the reads of the host flush. -/
def Obligations.GlobalStores : Prop := ∀ (s : State) (f : Fields),
  let makes := fun (i : Instr) => ∀ n a b d ws, Late s n i f a b d ws → b.psn = false →
    (Map.get (s.nd n).g {} f.sa.toNat).psn = false → (Map.get (s.nd n).g {} (f.sa.toNat + 1)).psn = false →
    EndsIn s n (entryMade s n i (vaOf (s.nd n) f b) ws) { cond := !ws.any PWord.psn }
  let plain := fun (i : Instr) (ws : List PWord) =>
    (Passes s i f → ∀ w, badVa s i f = some w → Completes s i f { cond := false }) ∧
    (Passes s i f → badVa s i f = none → Acts s i f ws)
  let d := (issueOps s (.gstL f) f).d
  let scope := f.imm.toNat % 8
  let waits := fun (i : Instr) (act : ReleaseAct) (done : Prop) =>
    (scope < 2 → done) ∧
    (2 ≤ scope → unacked s ≠ [] →
      exec i s = .next (parksAt s i f (issueClaim s i f) (.release act (unacked s) (decide (scope = 6))))) ∧
    (2 ≤ scope → unacked s = [] → (scope ≠ 6 ∨ (self s).hostAck = 0) → done) ∧
    (unacked s = [] → scope = 6 → (self s).hostAck ≠ 0 → exec i s = .next (parksAt s i f (flushing s i f).2
      (.release act ((List.range (flushing s i f).1.length).map (fun k => s.serial + k)) false)))
  plain (.gst f) [(issueOps s (.gst f) f).d] ∧ makes (.gst f) ∧
  plain (.gstv f) ((List.range 16).map (lane s f.dst)) ∧ makes (.gstv f) ∧
  (Passes s (.gstL f) f → ∀ w, badVa s (.gstL f) f = some w → Completes s (.gstL f) f { cond := false }) ∧
  (Passes s (.gstL f) f → badVa s (.gstL f) f = none →
    waits (.gstL f) (.storeEntry (offsetVa s (.gstL f) f) d) (Acts s (.gstL f) f [d])) ∧ makes (.gstL f) ∧
  (Passes s (.fence f) f → waits (.fence f) .fence (Completes s (.fence f) f {}))

namespace Sys2Proof.Claims

/-- The retry latch as an access fills it (R316): its six words for address, operation code, rounding, operands and route. -/
def LatchFilled (s : State) (i : Instr) (f : Fields) (va : BitVec 56) (op rm : Nat) (a b : PWord) (own : Bool) (l : Map Word) : Prop :=
  let q := ((self s).lseq + 1).toNat
  let w := Map.get l 0 0
  w.getLsbD 31 = true ∧ field w 28 3 = 0 ∧ w.getLsbD 27 = a.psn ∧ w.getLsbD 26 = b.psn ∧ w.getLsbD 25 = own ∧
  field w 20 5 = f.dst.toNat ∧ field w 16 4 = op ∧ field w 14 2 = rm ∧ field w 8 6 = q % 64 ∧ field w 0 8 = (opcOf i).toNat ∧
  Map.get l 0 1 = va.setWidth 32 ∧ Map.get l 0 2 = BitVec.ofNat 32 (q / 64 * 2 ^ 24 + va.toNat / 2 ^ 32) ∧
  Map.get l 0 3 = a.val ∧ Map.get l 0 4 = b.val ∧ Map.get l 0 5 = 0

/-- The transition goes through the latch: SEQ counts, the latch is filled, and the node parks until the reply; its request may
leave from its S3 on, once the entries named are acknowledged (R305, R313, R316). -/
def Latches (s : State) (i : Instr) (f : Fields) (va : BitVec 56) (op : Op) (code rm : Nat) (a b : PWord)
    (own : Option OwnedBy) (after : List Nat) : Prop :=
  let c := issueClaim s i f
  let q := (self s).lseq + 1
  let r : Req := { id := s.serial, who := .latch s.cur.node q, stamp := s.stampOf s.cur.node, va := va, op := op, stage := .port, after := after, from_ := s.cycle + 2, own := own, rply := decide (opcOf i ≠ 0xA9) }
  ∃ l, LatchFilled s i f va code rm a b own.isSome l ∧
    exec i s = .next (parksAt s i f { c.updNd s.cur.node (fun nd => { nd with latch := l, lseq := q, lheld := none }) with
      serial := s.serial + 1, reqs := s.reqs ++ [r] } .latch)

/-- The address lies in an owned range of the issuing node's course whose owner has the node's TENANT (R314). -/
def OwnedAt (s : State) (va : BitVec 56) (x : OwnedBy) : Prop :=
  (s.el (here s)).region = some x.region ∧ ∃ key e box, (key, e) ∈ s.elem ∧ x.elem = elemOfKey key ∧ e.region = some x.region ∧ (x.box, box) ∈ e.inbox ∧
    box.used = true ∧ box.base.toNat ≤ va.toNat ∧ va.toNat < box.base.toNat + box.size ∧
    (s.stampOf (x.elem.nodeRef box.owner)).tenant = (s.stampOf s.cur.node).tenant ∧ x.off.toNat = (va.toNat - box.base.toNat) / 4 % 2 ^ 15

/-- Where an atomic goes: to an owner of its word, or to the word's home where there is none (R313, R314). -/
def Routed (s : State) (va : BitVec 56) (own : Option OwnedBy) : Prop :=
  (∀ x, own = some x → OwnedAt s va x) ∧ (own = none → ∀ x, ¬OwnedAt s va x)

end Sys2Proof.Claims

/-- R304, R305, R311, R312, R314, R316: the accesses through the retry latch. A poisoned address, a poisoned expected value and a poisoned count make no access and leave the latch alone. -/
def Sys2Proof.Claims.LatchAccesses : Prop := ∀ (s : State) (f : Fields),
  let bad := fun (i : Instr) (reads : Bool) (x : Option Word) => Passes s i f → ∀ w, x = some w →
    Completes s i f (if reads then { dst := some ⟨w, true⟩, cond := false } else { cond := false })
  let op := f.imm.toNat % 16
  let rm := f.imm.toNat / 16
  let here := pairVa s f
  let update := fun (i : Instr) => Passes s i f → badPair s f = none → ∃ own, Routed s here own ∧
    Latches s i f here (.atomic (f.imm.extractLsb' 0 4) (f.imm.extractLsb' 4 2) (issueOps s i f).b) op rm (issueOps s i f).b {} own []
  let cas := issueOps s (.acas f) f
  let clr := issueOps s (.pclr f) f
  let all := (List.range 16).map (lane s f.dst)
  bad (.aupd f) false (badPair s f) ∧ update (.aupd f) ∧
  bad (.afet f) true (badPair s f) ∧ update (.afet f) ∧
  bad (.acas f) true (((pairRegs s f ++ [cas.b]).find? PWord.psn).map PWord.val) ∧
  (Passes s (.acas f) f → badVa s (.acas f) f = none → ∃ own, Routed s here own ∧
    Latches s (.acas f) f here (.cas cas.b cas.d) 12 0 cas.b cas.d own []) ∧
  bad (.pst f) false (badVa s (.pst f) f) ∧
  (Passes s (.pst f) f → badVa s (.pst f) f = none → Latches s (.pst f) f (offsetVa s (.pst f) f)
    (.presWrite [(issueOps s (.pst f) f).d]) 0 0 {} (issueOps s (.pst f) f).d none []) ∧
  bad (.pclr f) true (badVa s (.pclr f) f) ∧
  (Passes s (.pclr f) f → badVa s (.pclr f) f = none → Latches s (.pclr f) f here (.presClear clr.b.val.toNat) 0 0 clr.b {} none []) ∧
  bad (.gstvP f) false (badVa s (.gstvP f) f) ∧
  (Passes s (.gstvP f) f → badVa s (.gstvP f) f = none → Latches s (.gstvP f) f (offsetVa s (.gstvP f) f) (.presWrite all) 0 0 {}
    ⟨0, all.any PWord.psn⟩ none [])

namespace Sys2Proof.Claims

/-- The new word of an atomic and its flags, by its OP and rounding (R312). -/
def updated (fz : Bool) (rm : Rounding) (op : Nat) (old v : Word) : Word × BitVec 6 :=
  let nan := isNan32 old || isNan32 v
  let x := flush32 fz old
  let y := flush32 fz v
  if op = 0 then (BitVec.ofNat 32 (old.toNat + v.toNat), 0)
  else if op = 1 then (old &&& v, 0)
  else if op = 2 then (old ||| v, 0)
  else if op = 3 then (old ^^^ v, 0)
  else if op = 4 then (if v.toInt < old.toInt then v else old, 0)
  else if op = 5 then (if old.toInt < v.toInt then v else old, 0)
  else if op = 6 then (if v.toNat < old.toNat then v else old, 0)
  else if op = 7 then (if old.toNat < v.toNat then v else old, 0)
  else if op = 8 then (v, 0)
  else if op = 9 then
    let r := fmtFp32.addOp rm fz old.toNat v.toNat
    (BitVec.ofNat 32 r.1, r.2)
  else if op = 10 then (if nan then nan32 else if rank32 y < rank32 x then y else x, 0)
  else (if nan then nan32 else if rank32 x < rank32 y then y else x, 0)

end Sys2Proof.Claims

/-- R312: what an atomic leaves in its word: a POISON word stays, a poisoned operand poisons the word, and each OP has its
value; `ACAS` swaps where all 32 bits agree.
Which poisoned operand comes first is the model's reading (log entry 38). -/
def Sys2Proof.Claims.AtomicWords : Prop := ∀ (fz : Bool) (rm : Rounding) (op : Nat) (old v e : PWord), op < 12 →
  atomicWord fz rm op old v = (if old.psn then (old, 0) else if v.psn then (v, 0)
    else let r := updated fz rm op old.val v.val
      (⟨r.1, false⟩, r.2)) ∧
  casWord old e v = (if old.psn = false ∧ old.val = e.val then v else old)

/-- R28, R312, R314, R315, R318: applying the head entry of an update inbox, and re-arming a latch. A failing check leaves the
entry at the head; otherwise the word is written, the entry leaves, and a reply goes out where one is owed.
`XREARM` of a poisoned operand takes condition 0 (the model's reading, log entry 89). -/
def Sys2Proof.Claims.InboxApplication : Prop := ∀ (s : State) (f : Fields),
  let i := Instr.aapl f
  let o := issueOps s i f
  let k := f.imm.toNat % 4
  let box := Map.get (s.el (here s)).inbox {} k
  let xo := issueOps s (.xrearm f) f
  (Passes s i f → o.a.psn = true → Completes s i f { dst := some o.a, cond := false }) ∧
  (Passes s i f → o.a.psn = false → ∀ x rest, box.entries = x :: rest →
    let at_ : Word := BitVec.ofNat 32 (o.a.val.toNat + 4 * x.off.toNat)
    let old := s.lsWord (here s) at_.toNat
    let new := if x.op = 12 then (casWord old ⟨x.opa, false⟩ ⟨x.opb, x.psb⟩, 0)
      else atomicWord ((self s).fpstat.getLsbD 8) (Rounding.ofCode x.rm) x.op.toNat old ⟨x.opa, x.psa⟩
    (∀ fi, s.lsCheck s.cur.node at_ 4 true 0 = some fi → exec i s = .next (failsAt s i f fi)) ∧
    (s.lsCheck s.cur.node at_ 4 true 0 = none → ∃ t,
      Does s i f t { dst := some old, cond := decide (new.1 ≠ old), flags := new.2 } ∧
      t.lsWord (here s) at_.toNat = new.1 ∧
      (∀ pa, pa < localPa s at_.toNat ∨ localPa s (at_.toNat + 4) ≤ pa → memGet t.mem pa = memGet s.mem pa) ∧
      Map.get (t.el (here s)).inbox {} k = { box with entries := rest } ∧
      (∀ j, j ≠ k → Map.get (t.el (here s)).inbox {} j = Map.get (s.el (here s)).inbox {} j) ∧
      t.node = (issueClaim s i f).node ∧
      (x.rply = false → t.resps = s.resps) ∧
      (x.rply = true → ∃ r, t.resps = s.resps ++ [r] ∧ r.who = .latch x.req x.seq ∧ r.src = some (.port (here s).tileRef (here s).elem.toNat) ∧ r.ans.words = [old] ∧ r.ans.fault = none))) ∧
  (Passes s (.xrearm f) f → xo.a.psn = true → Completes s (.xrearm f) f { cond := false }) ∧
  (Passes s (.xrearm f) f → xo.a.psn = false → Asks s (.xrearm f) f (ask s 0 (.rearm xo.a.val) .home))

namespace Sys2Proof.Claims

/-- A poisoned operand sends nothing: DST is written poisoned, with condition 0 (R25, R342). -/
def SendsNothing (s : State) (i : Instr) (f : Fields) (bad : Option Word) : Prop :=
  Passes s i f → ∀ w, bad = some w → Completes s i f { dst := some ⟨w, true⟩, cond := false }

/-- On clean scalar operands a request goes to a unit and the node parks for the answer. -/
def AsksUnit (s : State) (i : Instr) (f : Fields) (op : Opnds → Op) : Prop :=
  SendsNothing s i f (issueOps s i f).psn ∧ (Clean s i f → Asks s i f (ask s 0 (op (issueOps s i f)) .home))

/-- The descriptor of `n` words at the local address a is checked under R28 as one access and read; a failing check faults, a
POISON word sends nothing (R25, R266, R341, R352). -/
def SendsDescriptor (s : State) (i : Instr) (f : Fields) (n : Nat) (op : Opnds → List Word → Op) : Prop :=
  let o := issueOps s i f
  let a := fun (j : Nat) => BitVec.ofNat 32 (o.a.val.toNat + 4 * j)
  let ws := (List.range n).map (fun j => s.lsWord (here s) (a j).toNat)
  let open_ := ∀ j, j < n → s.lsCheck s.cur.node (a j) 4 false j = none
  SendsNothing s i f o.psn ∧
  (Clean s i f → ∀ fi, FirstFailure s a (List.range n) false fi → exec i s = .next (failsAt s i f fi)) ∧
  (Clean s i f → open_ → ∀ w, ws.find? PWord.psn = some w → Completes s i f { dst := some w, cond := false }) ∧
  (Clean s i f → open_ → (∀ w ∈ ws, w.psn = false) → Asks s i f (ask s 0 (op o (ws.map PWord.val)) .home))

end Sys2Proof.Claims

/-- R341, R342, R352, R355, R357, R361-R365: the commands for streams, engines, leases and barriers, and the arrivals and
waits at a barrier. A poisoned word of a descriptor sends nothing (the model's reading, log entry 40). -/
def Sys2Proof.Claims.UnitInstructions : Prop := ∀ (s : State) (f : Fields),
  let st := f.imm.getLsbD 1
  let quorum := fun (i : Instr) => (issueOps s i f).b.val.setWidth 16
  let word := fun (i : Instr) (op : Op) => SendsNothing s i f (badVa s i f) ∧
    (Passes s i f → badVa s i f = none → Asks s i f (ask s (pairVa s f) op .port))
  let latched := fun (i : Instr) (op : Word → Op) => SendsNothing s i f (badVa s i f) ∧
    (Passes s i f → badVa s i f = none →
      Latches s i f (pairVa s f) (op (issueOps s i f).b.val) 0 0 (issueOps s i f).b {} none (unacked s))
  SendsDescriptor s (.strm f) f 32 (fun o ws => .stream o.b.val ws) ∧
  SendsDescriptor s (.ecpy f) f 32 (fun o ws => .engine 0xB8 o.b.val ws) ∧
  SendsDescriptor s (.ecmp f) f 32 (fun o ws => .engine 0xB9 o.b.val ws) ∧
  SendsDescriptor s (.edcp f) f 32 (fun o ws => .engine 0xBA o.b.val ws) ∧
  SendsDescriptor s (.ecol f) f 32 (fun o ws => .engine 0xBB o.b.val ws) ∧
  AsksUnit s (.strmq f) f (fun o => .streamStat o.b.val false) ∧
  AsksUnit s (.strmqCan f) f (fun o => .streamStat o.b.val true) ∧
  AsksUnit s (.balc f) f (fun o => .barAlloc o.a.val) ∧
  AsksUnit s (.bfre f) f (fun o => .barFree o.a.val) ∧
  AsksUnit s (.lease f) f (fun o => .lease o.a.val o.b.val) ∧
  AsksUnit s (.lrel f) f (fun o => .unlease o.a.val) ∧
  AsksUnit s (.bwt f) f (fun o => .poolWait o.a.val (quorum (.bwt f)) st) ∧
  AsksUnit s (.btry f) f (fun o => .poolTry o.a.val (quorum (.btry f)) st) ∧
  SendsNothing s (.barv f) f (issueOps s (.barv f) f).psn ∧
  (Clean s (.barv f) f → Asks s (.barv f) f { ask s 0 (.poolArrive (issueOps s (.barv f) f).a.val (issueOps s (.barv f) f).b.val) .home with
    after := unacked s }) ∧
  latched (.barvW f) .barArrive ∧ latched (.mbar f) .barMake ∧
  word (.bwtW f) (.barWait (quorum (.bwtW f)) st) ∧ word (.btryW f) (.barTry (quorum (.btryW f)) st)

/-- R353, R366: binding a completion tag, and joining SPACE heads. -/
def Sys2Proof.Claims.TagsAndJoins : Prop := ∀ (s : State) (f : Fields),
  let o := issueOps s (.cntb f) f
  let k := f.imm.toNat % 16
  let e := here s
  let old := Map.get (s.el e).tag {} k
  let head := fun (c : BitVec 3) => (if c.toNat < 4 then (((self s).ciq (c.extractLsb' 0 2)).head?).getD {} else {}).payload
  let a := head f.cha
  SendsNothing s (.cntb f) f o.psn ∧
  (Clean s (.cntb f) f → (old.valid = true ∨ o.a.val = 0) → Completes s (.cntb f) f { dst := some {}, cond := false }) ∧
  (Clean s (.cntb f) f → old.valid = false → o.a.val ≠ 0 → ∃ tags,
    Does s (.cntb f) f ((issueClaim s (.cntb f) f).updEl e (fun el => { el with tag := tags }))
      { dst := some ⟨BitVec.ofNat 32 (e.die.toNat * 2 ^ 28 + e.tile.toNat * 2 ^ 17 + e.elem.toNat * 2 ^ 13 + k * 2 ^ 9), false⟩, cond := true } ∧
    (∀ j, j ≠ k → Map.get tags {} j = Map.get (s.el e).tag {} j) ∧
    Map.get tags {} k = { valid := true, node := s.cur.node.node, dom := myDom s, chan := f.imm.extractLsb' 4 2, count := o.a.val }) ∧
  (Passes s (.cjoin f) f → Completes s (.cjoin f) f
    { dst := some ⟨BitVec.ofNat 32 (a.toNat / 256 * 256 + 7), false⟩, kind := 7,
      cond := decide (f.chb = 7 ∨ a.toNat / 65536 = (head f.chb).toNat / 65536) })

namespace Sys2Proof.Claims

/-- The state in which a node has made an entry of the pod queue: it stands last and its request waits to leave (R440). -/
def podEntryMade (s : State) (n : NodeRef) (i : Instr) (va : BitVec 56) (m : BitVec 10) (ws : List PWord) : State :=
  let r : Req := { id := s.serial, who := .podq n.elemRef, stamp := s.stampOf n, va := va, op := .podStore m ws, stage := .port }
  ({ s with serial := s.serial + 1, reqs := s.reqs ++ [r] } : State).updEl n.elemRef (fun e => { e with podq := e.podq ++
    [{ id := s.serial, node := n.node, dom := domOf (s.nd n), stamp := s.stampOf n, va := va, words := ws, opc := opcOf i, mod := m }] })

end Sys2Proof.Claims

/-- R36, R304, R440, R442, R443: the instructions of the pod. The S4 of a store makes its entry in the pod queue; `XSIG` goes
through the retry latch, a load and a wait park for their answer, and `XFEN` parks until the node's entries are
acknowledged. -/
def Obligations.PodInstructions : Prop := ∀ (s : State) (f : Fields),
  let m := fun (i : Instr) => (issueOps s i f).b.val.setWidth 10
  let va := pairVa s f
  let skips := fun (i : Instr) => Passes s i f → badVa s i f ≠ none → Completes s i f { cond := false }
  let entry := fun (i : Instr) (ws : List PWord) => skips i ∧ (Passes s i f → badVa s i f = none → Acts s i f ws) ∧
    (∀ n a b d vs, Late s n i f a b d vs → (Map.get (s.nd n).g {} f.sa.toNat).psn = false →
      (Map.get (s.nd n).g {} (f.sa.toNat + 1)).psn = false →
      EndsIn s n (podEntryMade s n i (vaOf (s.nd n) f {}) (b.val.setWidth 10) vs) { cond := !vs.any PWord.psn })
  let mine := ((s.el (here s)).podq.filter (fun x => decide (x.node = s.cur.node.node))).map StoreEntry.id
  entry (.xst f) [(issueOps s (.xst f) f).d] ∧
  entry (.xstv f) ((List.range 16).map (lane s f.dst)) ∧
  skips (.xsig f) ∧
  (Passes s (.xsig f) f → badVa s (.xsig f) f = none → Latches s (.xsig f) f va (.podAdd (m (.xsig f)) (f.imm.setWidth 32)) 0 0
    ⟨f.imm.setWidth 32, false⟩ (issueOps s (.xsig f) f).b none []) ∧
  SendsNothing s (.xld f) f (badVa s (.xld f) f) ∧
  (Passes s (.xld f) f → badVa s (.xld f) f = none → Asks s (.xld f) f (ask s va (.podLoad (m (.xld f))) .port)) ∧
  SendsNothing s (.xwait f) f (badVa s (.xwait f) f) ∧
  (Passes s (.xwait f) f → badVa s (.xwait f) f = none → Asks s (.xwait f) f (ask s va (.xwait (issueOps s (.xwait f) f).b.val) .port)) ∧
  (Passes s (.xfen f) f → mine = [] → Completes s (.xfen f) f {}) ∧
  (Passes s (.xfen f) f → mine ≠ [] →
    exec (.xfen f) s = .next (parksAt s (.xfen f) f (issueClaim s (.xfen f) f) (.release .podFence mine false)))

namespace Sys2Proof.Claims

/-- The S4 of a decrement of node `n`: its message leaves for the dispatcher of its die; no register, memory or channel changes
(R267, R469). -/
def Decrements (s : State) (n : NodeRef) (ref : Word) (exp : Bool) : Prop :=
  EndsIn s n { s with
      serial := s.serial + 1
      decs := s.decs ++ [{ id := s.serial, node := some n, src := n.die, ref := ref, exp := exp, rb := none, part := s.partOf n.elemRef, leaving := true }] }
    { cond := true }

end Sys2Proof.Claims

/-- R266-R268, R386, R400, R402: tasks and snapshots. `TSPN`, `TQRY`, `MARK`, `SAVE` and `REST` park for their answer,
the S4 of `TDEC` sends one decrement, and `HALT` in the privileged domain aborts its own task; elsewhere it raises DOMAIN
with RKIND 7. That a poisoned word of a `TSPN` descriptor sends nothing, where a `TDEC` for a die that is not admitted ends, and what
`HALT` does to its own node, are the model's reading (log entries 40, 83, 75). -/
def Obligations.TaskInstructions : Prop := ∀ (s : State) (f : Fields),
  let dec := issueOps s (.tdec f) f
  let rmt := issueOps s (.tdecRmt f) f
  let port := podPort s s.cur.node.die (rmt.b.val.setWidth 10)
  let image := fun (i : Instr) => SendsNothing s i f (badVa s i f) ∧
    (Passes s i f → badVa s i f = none → (pairVa s f).toNat % 4096 ≠ 0 → ∃ fi, exec i s = .next (failsAt s i f fi) ∧ fi.cause = 0x0A)
  let ready := fun (i : Instr) => Passes s i f ∧ badVa s i f = none ∧ (pairVa s f).toNat % 4096 = 0
  let dom := fun (i : Instr) => (issueOps s i f).b.val.setWidth 4
  let none_ := Completes s (.save f) f { dst := some ⟨0x80000001, false⟩, cond := false }
  SendsDescriptor s (.tspn f) f 22 (fun _ ws => .spawn ws) ∧
  AsksUnit s (.tqry f) f (fun o => .query o.a.val) ∧
  (Passes s (.tdec f) f → dec.a.psn = true → Completes s (.tdec f) f { cond := false }) ∧
  (Passes s (.tdec f) f → dec.a.psn = false → Acts s (.tdec f) f []) ∧
  (∀ n a b d ws, Late s n (.tdec f) f a b d ws → Decrements s n a.val (f.imm.getLsbD 1)) ∧
  (Passes s (.tdecRmt f) f → (rmt.a.psn = true ∨ rmt.b.psn = true ∨ 1024 ≤ rmt.b.val.toNat ∨ port = none) →
    Completes s (.tdecRmt f) f { cond := false }) ∧
  (Passes s (.tdecRmt f) f → rmt.a.psn = false → rmt.b.psn = false → rmt.b.val.toNat < 1024 → port ≠ none →
    Acts s (.tdecRmt f) f []) ∧
  (∀ n a b d ws, Late s n (.tdecRmt f) f a b d ws → ∀ p, podPort s n.die (b.val.setWidth 10) = some p →
    let x : PodDecrement := { srcMod := s.podid.setWidth 10, srcTenant := (s.stampOf n).tenant, port := p, ref := a.val, exp := f.imm.getLsbD 1, rb := none }
    EndsIn s n { s with podSent := s.podSent ++ [{ mod := b.val.setWidth 10, port := p, dec := some x }] } { cond := true }) ∧
  AsksUnit s (.mark f) f (fun o => .mark (o.a.val.setWidth 4)) ∧
  image (.save f) ∧ image (.rest f) ∧
  (ready (.rest f) → Asks s (.rest f) f (ask s (pairVa s f) (.restore (dom (.rest f))) .home)) ∧
  (ready (.save f) → s.courseOf (here s) = none → none_) ∧
  (ready (.save f) → ∀ rid g, s.courseOf (here s) = some (rid, g) → (∃ x ∈ g.done, x.dom = some (dom (.save f))) →
    Asks s (.save f) f (ask s (pairVa s f) (.saveImage (dom (.save f))) .home)) ∧
  (ready (.save f) → ∀ rid g, s.courseOf (here s) = some (rid, g) → (∀ x ∈ g.done, x.dom ≠ some (dom (.save f))) →
    (∃ x, g.snap = some x ∧ x.dom = some (dom (.save f))) →
    exec (.save f) s = .next (parksAt s (.save f) f (issueClaim s (.save f) f) (.save (dom (.save f)) (pairVa s f)))) ∧
  (ready (.save f) → ∀ rid g, s.courseOf (here s) = some (rid, g) → (∀ x ∈ g.done, x.dom ≠ some (dom (.save f))) →
    (∀ x, g.snap = some x → x.dom ≠ some (dom (.save f))) → none_) ∧
  (Passes s (.halt f) f → isPriv s = false → exec (.halt f) s = .next (failsAt s (.halt f) f { cause := 0x04, detb := 0x70000000 })) ∧
  (Passes s (.halt f) f → isPriv s = true → ∀ d k, s.taskOf (here s) = some (d, k) → exec (.halt f) s = .next
    (abortTask ((parksAt s (.halt f) f (issueClaim s (.halt f) f) .park).updTask d k (fun t => t.setWord 31 (operand s f f.sa).val)) d k))

namespace Sys2Proof.Claims

/-- The destination of an edge is a latest-value channel, whose source needs no credit (R175). -/
def toLatest (s : State) (e : Edge) : Bool := match e.dst with
  | .inp n k => (Map.get (s.nd n).ccfg 0 k.toNat).getLsbD 30
  | _ => false

/-- A token leaves on an edge: it spends a credit and enters the router of its source as a flit; every other edge stays (R167,
R168, R177, R178). -/
def LeavesOn (s t : State) (e : Edge) (tok : Token) : Prop :=
  t.ed e.id = { e with credits := if toLatest s e then e.credits else e.credits - 1 } ∧ (∀ j, j ≠ e.id → t.ed j = s.ed j) ∧
  t.net = s.net ++ [{ vn := 0, load := .toks (flitWord e.num [tok]), here := portTile e.src, path := e.path, out := localPort e.dst,
                      inp := if e.fan.isSome then 20 else localPort e.src, ready := s.cycle }]

/-- The place of a channel in the rotation of its element's port: the channel after the one served last is first (R176). -/
def rotation (s : State) (n : NodeRef) (k : BitVec 2) : Nat := ((n.node ++ k).toNat + 63 - (s.el n.elemRef).sentLast.toNat) % 64

/-- The port of an element notes the channel that it has served (R176). -/
def portServed (s t : State) (n : NodeRef) (k : BitVec 2) : Prop :=
  (∀ e, e ≠ n.elemRef → t.el e = s.el e) ∧
    t.el n.elemRef = { s.el n.elemRef with sentLast := n.node ++ k, sentAt := some s.cycle }

/-- No node but `n`, and no channel of `n` but its input `k`, differ. -/
def OnlyInput (s t : State) (n : NodeRef) (k : BitVec 2) : Prop :=
  (∀ m, m ≠ n → t.nd m = s.nd m) ∧ (∀ j, j ≠ k → (t.nd n).ciq j = (s.nd n).ciq j) ∧ (t.nd n).co = (s.nd n).co ∧
  (t.nd n).g = (s.nd n).g ∧ (t.nd n).p = (s.nd n).p ∧ (t.nd n).fpstat = (s.nd n).fpstat

/-- A DATA or SCALE token has the format that the channel accepts; the others pass (R171). -/
def fits (c : Word) (t : Token) : Bool :=
  if t.kind = 0 then !c.getLsbD 29 || decide (t.fmt.toNat = field c 26 3)
  else if t.kind = 1 then !c.getLsbD 29 || decide (t.fmt.toNat = field c 26 3 ∧ 4 ≤ t.fmt.toNat ∧ t.fmt.toNat ≤ 6)
  else true

/-- INBLK and BCNT after a token is admitted; none where it fails by its place in the block (R174). -/
def blockAfter (c : Word) (t : Token) : Option (Bool × Nat) :=
  let now := (c.getLsbD 13, field c 6 7)
  let open_ := now.1 && decide (now.2 < field c 15 6 + 1)
  if ¬(c.getLsbD 29 ∧ 4 ≤ field c 26 3 ∧ field c 26 3 ≤ 6) then some now
  else if t.kind = 1 then (if open_ then none else some (true, 0))
  else if t.kind = 0 then (if open_ then some (true, now.2 + 1) else none)
  else if t.kind = 6 then some (if open_ then (true, now.2 + 1) else now)
  else if t.kind = 2 ∨ t.kind = 3 ∨ t.kind = 4 then some (false, 0)
  else some now

/-- A flit brings a permit to an input channel (R350). -/
def bringsPermit (n : NodeRef) (k : BitVec 2) : FlitLoad → Bool
  | .space m j _ => decide (m = n ∧ j = k)
  | _ => false

/-- A channel has entries for one more token that no edge brings, beside the permits on their way to it: no part of a trap record
is entering it (R162, R350, R380). -/
def roomAt (s : State) (n : NodeRef) (k : BitVec 2) : Prop :=
  ((s.nd n).ciq k).length + (if k = 3 then argsOwed s n else 0) + (s.net.filter (fun f => bringsPermit n k f.load)).length < 4 ∧ (k = 3 → ∀ r ∈ s.traps, r.dest = some n → r.left = [])

end Sys2Proof.Claims

/-- R166-R168, R176, R177, R182: `TOKEN_SEND` from an output channel. An element's port serves one channel in a cycle, the
next in rotation that could send; the head of that channel leaves on its edge, or is copied by `FANOUT_COPY` into every branch.
A permit leaves its branch for the channel that it names on virtual network 1 (R177, R350).
`CREDIT_RETURN` makes one credit that has come back usable from the next cycle; `BRANCH_SEND` sends from one branch, with the
permit that its token closes (R183). -/
def Obligations.TokensLeave : Prop := ∀ (s : State),
  (∀ n k, isCompute n.tile = true → (sendTurn s n k = true ↔ (s.el n.elemRef).sentAt ≠ some s.cycle ∧ sendable s n k = true ∧
    ∀ m c, m.elemRef = n.elemRef → rotation s m c < rotation s n k → sendable s m c = false)) ∧
  (∀ n k e, s.edgeFrom (.out n k) = some e → (sendable s n k = true ↔ heldBack s n = false ∧ (s.nd n).coq k ≠ [] ∧
    (toLatest s e = true ∨ 0 < e.credits) ∧ bufferUse s (portTile e.src) (if e.fan.isSome then 20 else localPort e.src) 0 < 4)) ∧
  (∀ n k e tok q, s.edgeFrom (.out n k) = some e → (s.nd n).coq k = tok :: q →
    (sendTurn s n k = false → exec (.tokenSend (.out n k)) s = .next s) ∧
    (sendTurn s n k = true → ∃ t, exec (.tokenSend (.out n k)) s = .next t ∧ LeavesOn s t e tok ∧ portServed s t n k ∧
      (t.nd n).coq k = q ∧ (∀ j, j ≠ k → (t.nd n).coq j = (s.nd n).coq j) ∧ (t.nd n).ci = (s.nd n).ci ∧ (∀ m, m ≠ n → t.nd m = s.nd m) ∧
      t = { s with node := t.node, elem := t.elem, edge := t.edge, region := t.region, net := t.net })) ∧
  (∀ id, (s.ed id).back_ = 0 → exec (.creditReturn id) s = .next s) ∧
  (∀ id, 0 < (s.ed id).back_ → ∃ t, exec (.creditReturn id) s = .next t ∧
    t.ed id = { s.ed id with back_ := (s.ed id).back_ - 1, due := (s.ed id).due + 1 } ∧ (∀ j, j ≠ id → t.ed j = s.ed j) ∧
    t = { s with edge := t.edge, region := t.region }) ∧
  (∀ x n c tok q, (s.fo x).src = .out n c → (s.nd n).coq c = tok :: q → (s.fo x).branches ≠ [] →
    ((∃ b ∈ (s.fo x).branches, 16 ≤ b.buf.length) → exec (.fanoutCopy x) s = .next s) ∧
    ((∀ b ∈ (s.fo x).branches, b.buf.length < 16) → sendTurn s n c = true → ∃ t, exec (.fanoutCopy x) s = .next t ∧ (t.nd n).coq c = q ∧
      portServed s t n c ∧
      (t.fo x).branches = (s.fo x).branches.map (fun b => { b with buf := b.buf ++ [(tok, none)] }) ∧ (∀ m, m ≠ n → t.nd m = s.nd m) ∧
      t = { s with node := t.node, elem := t.elem, fanout := t.fanout, region := t.region })) ∧
  (∀ x b br tok p rest, (s.fo x).branches[b]? = some br → br.spaces = [] → br.buf = (tok, p) :: rest → (s.ed br.edge).fan ≠ none →
    let may := (toLatest s (s.ed br.edge) = true ∨ 0 < (s.ed br.edge).credits) ∧ bufferUse s (portTile (s.ed br.edge).src) 20 0 < 4
    (¬may → exec (.branchSend x b) s = .next s) ∧
    (may → ∃ t sent, exec (.branchSend x b) s = .next t ∧ LeavesOn s t (s.ed br.edge) tok ∧
      (t.fo x).branches = (s.fo x).branches.set b { br with buf := rest, spaces := sent } ∧
      t = { s with fanout := t.fanout, edge := t.edge, region := t.region, net := t.net } ∧
      sent = (match p with
        | none => []
        | some y => if y.w ≠ 0 ∧ y.no % y.w = 0 then
            [({ kind := 7, payload := BitVec.ofNat 32 (y.no / y.w % 65536 * 65536 + y.w * 256 + b) }, y.chan)] else []))) ∧
  (∀ x b br tok w rest, (s.fo x).branches[b]? = some br → br.spaces = (tok, w) :: rest → br.buf = [] →
    let n : NodeRef := ⟨Machine.Port.dieOf (s.fo x).src, w.extractLsb' 16 11, w.extractLsb' 12 4, w.extractLsb' 8 4⟩
    let k : BitVec 2 := w.extractLsb' 0 2
    roomAt s n k → ∃ t, exec (.branchSend x b) s = .next t ∧ (t.fo x).branches = (s.fo x).branches.set b { br with spaces := rest } ∧
      t = { s with net := t.net, fanout := t.fanout, region := t.region } ∧
      t.net = s.net ++ [{ vn := 1, load := .space n k tok, here := portTile (s.fo x).src, inp := 20, waits := true,
                          path := routeTo (portTile (s.fo x).src) n.elemRef.tileRef, out := n.elem.toNat, ready := s.cycle }])

/-- R171-R175: `TOKEN_ARRIVAL` at an input channel. A steered channel holds its edge. An admitted token enters, SEQ counts it
and the block count follows R174; a failing one goes to ci3 of the steer node, or stays at the edge stage with FORMAT; a
latest-value channel keeps the newest. -/
def Sys2Proof.Claims.TokensArrive : Prop := ∀ (s : State) (id : Nat) (tok : Token) (q : List Token) (n : NodeRef) (k : BitVec 2),
  (s.ed id).flight = tok :: q → (s.ed id).dst = .inp n k → tok.kind ≠ 5 →
  let c := Map.get (s.nd n).ccfg 0 k.toNat
  let m := n.elemRef.nodeRef (c.extractLsb' 21 4)
  let stage := ∀ x, (s.nd n).badToken = some x → x.1 ≠ k
  let opened := c.getLsbD 30 = false ∧ c.getLsbD 14 = false ∧ stage ∧ (s.nd n).marks.getLsbD k.toNat = false
  let taken := fun (t : State) => exec (.tokenArrival id) s = .next t ∧ t.ed id = { s.ed id with flight := q } ∧ (∀ j, j ≠ id → t.ed j = s.ed j) ∧
    t.mem = s.mem ∧ t.tile = s.tile ∧ t.net = s.net
  let enters := fun (t : State) (old : List Token) => (t.nd n).ciq k = old ++ [tok] ∧ (t.nd n).seqAt k = (s.nd n).seqAt k + 1
  (c.getLsbD 30 = true → (tok.kind = 0 ∨ tok.kind = 6) → fits c tok = true → ∃ t, taken t ∧ enters t [] ∧ OnlyInput s t n k) ∧
  (c.getLsbD 30 = true → tok.kind ≠ 0 → tok.kind ≠ 6 → ∃ t, taken t ∧ t.node = s.node) ∧
  (c.getLsbD 30 = true → fits c tok = false → tok.kind = 0 → (s.nd n).flight = none → s.issuing n = false → (s.nd n).st = .run → ∃ t, taken t ∧
    (t.nd n).ciq k = (s.nd n).ciq k ∧ (t.nd n).seqAt k = (s.nd n).seqAt k ∧ (t.nd n).st = .faulted ∧ (t.nd n).cause = 0x05) ∧
  (c.getLsbD 30 = false → c.getLsbD 14 = true → exec (.tokenArrival id) s = .next s) ∧
  (opened → fits c tok = true → ∀ b, blockAfter c tok = some b → ((s.nd n).ciq k).length < 4 → ∃ t, taken t ∧ t.elem = s.elem ∧ enters t ((s.nd n).ciq k) ∧
    OnlyInput s t n k ∧ let c' := Map.get (t.nd n).ccfg 0 k.toNat
      c'.getLsbD 13 = b.1 ∧ field c' 6 7 = b.2 ∧ c' &&& 0xFFFFC03F = c &&& 0xFFFFC03F) ∧
  (opened → fits c tok = false → c.getLsbD 25 = true → roomAt s m 3 → ∃ t, taken t ∧ t.elem = s.elem ∧ (t.nd m).ciq 3 = (s.nd m).ciq 3 ++ [tok] ∧
    ((m = n ∧ k = 3) ∨ (t.nd n).ciq k = (s.nd n).ciq k) ∧ Map.get (t.nd n).ccfg 0 k.toNat = c ||| 0x4000) ∧
  (opened → (fits c tok = false ∧ c.getLsbD 25 = false) ∨ (fits c tok = true ∧ blockAfter c tok = none) → (s.nd n).badToken = none →
    (s.nd n).st = .run → (s.nd n).flight = none → s.issuing n = false → ∃ t, taken t ∧ (t.nd n).badToken = some (k, tok, false) ∧ (t.nd n).ci = (s.nd n).ci ∧
      (t.nd n).st = .faulted ∧ (t.nd n).cause = 0x05)

/-- R155, R162, R184: a gate's POISON token reaches the caller's channel once it has space; the scrub of a resource whose time
has come clears it and frees it; and a quoin port takes its block in row order and emits it in column order. -/
def Sys2Proof.Claims.GatesScrubsAndQuoins : Prop := ∀ (s : State),
  (∀ e (g : BitVec 3) x, (s.el e).gatePsn.find? (fun x => decide (x.gate = g.toNat)) = some x →
    let n := e.nodeRef x.caller
    roomAt s n x.rci → (s.nd n).aligned = none → ∃ t, exec (.gatePoisonDelivery e g) s = .next t ∧
      (t.nd n).ciq x.rci = (s.nd n).ciq x.rci ++ [{ kind := 6, payload := x.origin }] ∧ OnlyInput s t n x.rci ∧
      t.el e = { s.el e with gatePsn := (s.el e).gatePsn.erase x } ∧ (∀ d, d ≠ e → t.el d = s.el d) ∧
      t = { s with node := t.node, elem := t.elem }) ∧
  (∀ e r c before after, (s.el e).scrub = before ++ [(r, c)] ++ after → c ≤ s.cycle → (∀ y ∈ before, s.cycle < y.2) → Memory.wf s.mem = true →
    ∃ t, exec (.scrubComplete e) s = .next t ∧ (t.el e).scrub = before ++ after ∧ (∀ d, d ≠ e → t.el d = s.el d) ∧
      (match r with
      | .bank i => ∀ pa, memGet t.mem pa = if lsPa e (0x2000 * i) ≤ pa ∧ pa < lsPa e (0x2000 * i) + 0x2000 then 0 else memGet s.mem pa
      | .mbox i => t.mem = s.mem ∧ Map.get (t.el e).mbox {} i = {} ∧ ∀ j, j ≠ i → Map.find (t.el e).mbox j = Map.find (s.el e).mbox j
      | .vgrp i => t.mem = s.mem ∧ ∀ j, Map.get (t.el e).vreg {} j = if j / 64 = i then {} else Map.get (s.el e).vreg {} j
      | .acc i => t.mem = s.mem ∧ zeroed (s.el e).acc (t.el e).acc [i]
      | .gate i => t.mem = s.mem ∧ ((t.el e).gateAt i).getLsbD 31 = false
      | .cell _ => t.mem = s.mem)) ∧
  (∀ m p st, (s.tport m p).stream = some st → field (st.desc.getD 0 0) 0 4 = 6 → st.frozen = false →
    let side := field (st.desc.getD 0 0) 24 4 + 1
    let next := fun (t : State) => exec (.quoinEmit m p) s = .next t ∧ t = { s with tile := t.tile, region := t.region }
    (st.full = true → st.out ≠ [] → exec (.quoinEmit m p) s = .next s) ∧
    (st.full = true → st.out = [] → st.fill.length = side * side → (∀ x ∈ st.fill, x.kind = 0 ∨ x.kind = 6) → ∃ t st', next t ∧
      (t.tport m p).stream = some st' ∧ st'.full = false ∧ st'.fill = [] ∧ st'.out.length = side * side ∧
      ∀ j, j < side * side → st'.out[j]? = st.fill[j % side * side + j / side]?) ∧
    (st.full = false → ∀ tok rest, (s.tport m p).inq = tok :: rest → (tok.kind = 0 ∨ tok.kind = 6) → ∃ t st', next t ∧
      (t.tport m p).inq = rest ∧ (t.tport m p).stream = some st' ∧ st'.fill = st.fill ++ [tok] ∧ st'.out = st.out ∧
      st'.full = decide (st.fill.length + 1 = side * side)) ∧
    (st.full = false → st.fill = [] → ∀ tok rest, (s.tport m p).inq = tok :: rest → (tok.kind = 2 ∨ tok.kind = 3 ∨ tok.kind = 4) → ∃ t st', next t ∧
      (t.tport m p).stream = some st' ∧ st'.out = st.out ++ [tok] ∧ st'.full = false))

namespace Sys2Proof.Claims

/-- An access of kind `a` suits its target and the page `e` (R276, R278, R280, R283, R286, R294, R300, R311, R313). -/
def suits (s : State) (node : Bool) (e : TlbEntry) (pa : Nat) (a : Access) : Bool :=
  let plain := decide (a = .read ∨ a = .write)
  let mode := match a with
    | .atomic m => m
    | _ => false
  let ordinary := plain || (match a with
    | .atomic _ => true
    | .barrier => true
    | _ => false)
  let range := fun (unit span : Nat) => match a with
    | .presClear n => decide (n ≠ 0 ∧ pa % span + n * unit ≤ span)
    | _ => true
  let whole := match a with
    | .presWrite w => w
    | _ => true
  !(a.writes && e.rdonly) && !mode && (match s.target pa with
    | .hole => false
    | .store _ _ => !node && plain
    | .host _ => plain
    | .bank t b => if ordinary then decide (s.bankMode t b = 0) else decide (s.bankMode t b = 3) && range 4 0x8000
    | .dram _ => if ordinary then !e.p else e.p && whole && range 64 e.size)

/-- The 64-bit entry of a table at `table` for an address at level `l`, as a walk for partition `p` and stage `t` reads it
(R296, R302): the walk cache's copy of an entry of levels 3 to 1, else the memory under key `k`. -/
def entryOf (s : State) (wc : List TableEntry) (p : BitVec 5) (t : Option (BitVec 16)) (k : BitVec 13) (table l addr : Nat) : DWord :=
  let shift := [16, 21, 30, 43].getD l 0
  let width := [5, 9, 13, 13].getD l 0
  let pa := table + 8 * (addr / 2 ^ shift % 2 ^ width)
  match (if l = 0 then none else wc.find? (fun x => decide (x.part = p) && decide (x.tenant = t) && decide (x.pa = pa))) with
  | some x => x.word
  | none => s.load64Under pa k

/-- A table of level `l` stands at a legal place (R297, R299). -/
def tableAt (s : State) (table l : Nat) : Prop := table % [256, 4096, 65536, 65536].getD l 1 = 0 ∧ s.isDram table = true

/-- The first cycle in which the answer of a dispatcher's instruction may enter its element's port: 2h + 8 after the request left,
for the h steps between its tile and tile (16, 0) (R469). -/
def soonest (r : Req) : Nat :=
  let t := r.stamp.issuer.tile.toNat
  if r.op.dispatched then r.left + 2 * ((t / 64 - 16) + (16 - t / 64) + t % 64) + 8 else 0

/-- The answer of a performed request is the last one sent, and the request is gone. -/
def Answered (s t : State) (r : Req) (a : Answer) : Prop :=
  (∃ earlier, t.resps = earlier ++ [{ id := r.id, who := r.who, op := r.op, va := r.va, ans := a, src := r.place, floor := soonest r, pas := r.pas }]) ∧ t.req r.id = none

/-- The answer of a latch access is kept in its home's reply log too (R317). -/
def AnsweredLatch (s t : State) (r : Req) (n : NodeRef) (seq : BitVec 8) (h : Home) (a : Answer) : Prop :=
  Answered s t r a ∧ t.logs = s.logs ++ [{ id := r.id, home := h, node := n, seq := seq, ans := a }]

/-- A request that is refused stays for its node's resume, and its refusal is on its way (R305, R307, R316). -/
def refused (s : State) (r : Req) (fi : FaultInfo) : State :=
  { s with
    reqs := s.reqs.map (fun (x : Req) => if x.id = r.id then { r with stage := .kept } else x)
    resps := s.resps ++ [{ id := r.id, who := r.who, op := r.op, va := r.va, ans := { accepted := false, fault := some fi }, src := r.place, floor := soonest r, pas := r.pas }] }

/-- Every word that a list of word addresses does not hold keeps its bytes, its poison and presence mark. -/
def OnlyWords (s t : State) (pas : List Nat) : Prop := ∀ pa, (∀ p ∈ pas, pa / 4 ≠ p / 4) → memGet t.mem pa = memGet s.mem pa ∧ t.metaAt pa = s.metaAt pa

/-- Nothing differs but requests, answers and reply logs, the lines of the caches (R290), and the cycles in which banks were
accessed (R281). -/
def OnlyCaches (s t : State) : Prop :=
  t = { s with die := t.die, tile := t.tile, elem := t.elem, reqs := t.reqs, resps := t.resps, logs := t.logs } ∧
  (∀ d, t.dieAt d = { s.dieAt d with cache := (t.dieAt d).cache }) ∧ (∀ m, t.tl m = { s.tl m with bankAt := (t.tl m).bankAt }) ∧
  ∀ e, t.el e = { s.el e with winAt := (t.el e).winAt }

/-- A request at its home with its translated words, which is now performed: no request and no port goes before it, the reply log
has room, and its bank has applied no other access in the cycle (R273, R281, R317). -/
def AtHome (s : State) (id : Nat) (r : Req) (p : Nat × BitVec 13) (ps : List (Nat × BitVec 13)) : Prop :=
  s.req id = some r ∧ atHome s r = true ∧ bankFree s r = true ∧ behind s r = false ∧ logFree s r = true ∧
  portsBefore s r = [] ∧ r.pas = p :: ps

/-- A request that has to wait at its home stands last in its queue (R284, R286, R363). -/
def WaitsAtHome (s : State) (id : Nat) (r : Req) : Prop :=
  exec (.homeRequest id) s = .next (if r.queued ∨ 0 < r.pos then s else
    { s with reqs := s.reqs.filter (fun x => decide (x.id ≠ id)) ++ [{ r with queued := true, since := s.cycle }] })

/-- A word outside the host windows, which reads as memory holds it under its key. -/
def notHost (s : State) (p : Nat × BitVec 13) : Prop := ∀ south, s.target p.1 ≠ .host south

/-- The line of a word is held under no other key than the word's own (R293). -/
def sameKey (s : State) (p : Nat × BitVec 13) : Prop := s.isDram p.1 = true → ∀ k, Map.find s.lineKey (p.1 / 128) = some k → k = p.2

end Sys2Proof.Claims

/-- R300, R301: the checks of an access to one word, in order: PAGE, PROT, alignment, DOMAIN; what passes uses the physical
address of the translation and the key that R301 selects. -/
def Sys2Proof.Claims.AccessChecks : Prop := ∀ (s : State) (tlb : Mmu) (st : Stamp) (node : Bool) (va : Nat) (a : Access) (al : Nat),
  let got := s.checkAccess tlb st node [(0, va)] a al
  let cause := fun (c : BitVec 8) => ∃ d, got = .error d ∧ d.cause = c ∧ d.va = va
  let live := fun (k : BitVec 13) (shared : Bool) =>
    if k = 0 then s.pcbPlain st.part = true
    else (s.keySlot k).live = true ∧ (s.keySlot k).closing = false ∧
      ((s.keySlot k).owner = st.part ∨ (shared = true ∧ (s.keySlot k).share.getLsbD st.part.toNat = true))
  (s.xlate tlb st.part st.tenant va = none → cause 0x06) ∧
  (∀ e, s.xlate tlb st.part st.tenant va = some e →
    let pa := e.pa + (va - e.va)
    let align := match a with
      | .presClear _ => if s.isDram pa then 64 else 4
      | _ => al
    let keyed := if e.s then live e.keyid true else e.keyid = st.keyid ∧ live st.keyid false
    (suits s node e pa a = false → cause 0x07) ∧
    (suits s node e pa a = true → va % align ≠ 0 → cause 0x0A) ∧
    (suits s node e pa a = true → va % align = 0 → ¬keyed → cause 0x04) ∧
    (suits s node e pa a = true → va % align = 0 → keyed → got = .ok [(pa, if e.s then e.keyid else st.keyid)]))

/-- R295-R299, R302: the walk of one stage through its tables to a 1 GiB, a 2 MiB or a 64 KiB leaf, the entries that make it fail,
and the translation of both stages together. -/
def Sys2Proof.Claims.TableWalks : Prop := ∀ (s : State) (wc : List TableEntry) (q : BitVec 5) (st : Option (BitVec 16)) (key : BitVec 13) (addr root : Nat),
  let e3 := entryOf s wc q st key root 3 addr
  let t2 := dfield e3 8 44 * 256
  let e2 := entryOf s wc q st key t2 2 addr
  let t1 := dfield e2 8 44 * 256
  let e1 := entryOf s wc q st key t1 1 addr
  let t0 := dfield e1 8 44 * 256
  let e0 := entryOf s wc q st key t0 0 addr
  let table := fun (e : DWord) => e.getLsbD 0 = true ∧ e.getLsbD 1 = false ∧ dfield e 52 12 = 0 ∧ dfield e 2 6 = 0
  let leaf := fun (e : DWord) (size : Nat) => e.getLsbD 0 = true ∧ e.getLsbD 1 = true ∧ dfield e 45 2 = 0 ∧ dfield e 2 7 = 0 ∧
    dfield e 9 36 * 65536 % size = 0 ∧ (st = none → dfield e 49 15 = 0)
  let found := fun (e : DWord) (size : Nat) => walkFrom s wc q st key addr 3 root = some { base := dfield e 9 36 * 65536, size := size, word := e }
  let top := tableAt s root 3 ∧ table e3 ∧ tableAt s t2 2
  let mid := top ∧ table e2 ∧ tableAt s t1 1
  let low := mid ∧ table e1 ∧ tableAt s t0 0
  let fails := walkFrom s wc q st key addr 3 root = none
  (top → leaf e2 0x40000000 → found e2 0x40000000) ∧ (mid → leaf e1 0x200000 → found e1 0x200000) ∧ (low → leaf e0 0x10000 → found e0 0x10000) ∧
  (¬tableAt s root 3 ∨ ¬table e3 → fails) ∧
  (tableAt s root 3 ∧ table e3 → ¬tableAt s t2 2 → fails) ∧
  (top → ¬table e2 → ¬leaf e2 0x40000000 → fails) ∧
  (mid → ¬table e1 → ¬leaf e1 0x200000 → fails) ∧
  (low → ¬leaf e0 0x10000 → fails) ∧
  (∀ p tenant va k l1 l2, s.tableKey p = some k → (s.tenantEntry p tenant).getLsbD 63 = true →
    walkFrom s wc p (some tenant) k va 3 (dfield (s.tenantEntry p tenant) 0 36 * 65536) = some l1 →
    s.stage2 p (l1.base + va % l1.size) wc = some l2 → l2.base + (l1.base + va % l1.size) % l2.size < 0x8000000000000 →
    l1.size ∣ l2.size ∨ l2.size ∣ l1.size → 0 < l1.size → 0 < l2.size → l1.base % l1.size = 0 → l2.base % l2.size = 0 →
    ∃ e, s.walk wc p tenant va = some e ∧ e.size = min l1.size l2.size ∧ e.va ≤ va ∧ va < e.va + e.size ∧
      e.pa + (va - e.va) = l2.base + (l1.base + va % l1.size) % l2.size ∧ e.keyid = l1.word.extractLsb' 51 13 ∧
      e.s = l1.word.getLsbD 50 ∧ e.p = l1.word.getLsbD 49 ∧ e.rdonly = (l1.word.getLsbD 48 || l2.word.getLsbD 48) ∧
      e.nc = (l1.word.getLsbD 47 || l2.word.getLsbD 47)) ∧
  (∀ p tenant va, (s.tenantEntry p tenant).getLsbD 63 = false → s.walk wc p tenant va = none)

/-- R273, R293, R305-R308, R312, R313, R323, R328, R364: a home performs a load, a store, an atomic or a compare-and-swap, and
answers. The words of a load and of a store are performed one by one, the lowest first (the model's choice, log entry 13); a load takes no word that the store
buffer gave. A load changes nothing in memory; a store and an atomic change the one word alone; a store to a live barrier word
is refused. -/
def Obligations.HomesOfMemory : Prop := ∀ (s : State) (id : Nat) (r : Req) (p : Nat × BitVec 13) (ps : List (Nat × BitVec 13)),
  AtHome s id r p ps → Memory.wf s.mem = true →
  let pas := p :: ps
  let given := fun (j : Nat) => r.fwd.getD j none
  (∀ q : Nat × BitVec 13, notHost s q → s.homeWord q.1 q.2 = s.loadUnder q.1 q.2) ∧
  (∀ n k, r.who = .node n → r.op = .load k → pas.length = k → r.fwd.length ≤ k →
    ((∀ j, j < k → given j ≠ none) → ∃ t ws, exec (.homeRequest id) s = .next t ∧ OnlyCaches s t ∧ Answered s t r { words := ws } ∧
      ws.length = k ∧ ∀ j, j < k → ws[j]? = given j) ∧
    (∀ i q, i < k → given i = none → (∀ j, j < i → given j ≠ none) → pas[i]? = some q →
      let word := fun (j : Nat) => if j = i then some (s.homeWord q.1 q.2) else given j
      ((∀ j, i < j → j < k → given j ≠ none) → ∃ t ws, exec (.homeRequest id) s = .next t ∧ OnlyCaches s t ∧ Answered s t r { words := ws } ∧
        ws.length = k ∧ ∀ j, j < k → ws[j]? = word j) ∧
      ((∃ j, i < j ∧ j < k ∧ given j = none) → ∃ t x, exec (.homeRequest id) s = .next t ∧ OnlyCaches s t ∧ t.resps = s.resps ∧
        t.req id = some x ∧ x = { r with fwd := x.fwd, pos := r.pos + 1, queued := false } ∧ ∀ j, j < k → x.fwd.getD j none = word j))) ∧
  (∀ e ws i, r.who = .sbuf e → r.op = .store ws → r.pos = 0 → s.barrierWord r = some i → ∃ t fi, exec (.homeRequest id) s = .next t ∧
    OnlyCaches (refused s r fi) t ∧ t.reqs = (refused s r fi).reqs ∧ t.resps = (refused s r fi).resps ∧
    fi.cause = 0x09 ∧ fi.aux = BitVec.ofNat 8 i ∧ fi.deta = BitVec.ofNat 32 (r.va.toNat + 4 * i)) ∧
  (∀ e ws q, r.who = .sbuf e → r.op = .store ws → (r.pos = 0 → s.barrierWord r = none) → pas[r.pos]? = some q → q.1 % 4 = 0 → notHost s q →
    sameKey s q → ∃ t, exec (.homeRequest id) s = .next t ∧ t.loadUnder q.1 q.2 = ws.getD r.pos {} ∧ OnlyWords s t [q.1] ∧
      t.node = s.node ∧ t.elem = s.elem ∧
      (r.pos + 1 = pas.length → ∃ a, Answered s t r a ∧ a.fault = none) ∧
      (r.pos + 1 < pas.length → (s.reqs.map Req.id).Nodup → t.req id = some { r with pos := r.pos + 1, queued := false })) ∧
  (∀ n seq h op rm v, r.who = .latch n seq → r.op = .atomic op rm v → r.logHome s = some h → s.barrierAt p.1 = false → p.1 % 4 = 0 →
    notHost s p → sameKey s p → ∃ t, exec (.homeRequest id) s = .next t ∧
      AnsweredLatch s t r n seq h { words := [s.loadUnder p.1 p.2], cond := !(s.loadUnder p.1 p.2).psn && decide ((s.loadUnder p.1 p.2).val ≠ 0) } ∧
      t.loadUnder p.1 p.2 = (atomicWord false .nearest op.toNat (s.loadUnder p.1 p.2) v).1 ∧ OnlyWords s t [p.1] ∧ t.node = s.node) ∧
  (∀ n seq h e v, r.who = .latch n seq → r.op = .cas e v → r.logHome s = some h → s.barrierAt p.1 = false → p.1 % 4 = 0 → notHost s p →
    sameKey s p → ∃ t, exec (.homeRequest id) s = .next t ∧
      AnsweredLatch s t r n seq h { words := [s.loadUnder p.1 p.2], cond := !(s.loadUnder p.1 p.2).psn && decide ((s.loadUnder p.1 p.2).val = e.val) } ∧
      t.loadUnder p.1 p.2 = casWord (s.loadUnder p.1 p.2) e v ∧ OnlyWords s t [p.1] ∧ t.node = s.node)

/-- R282-R286, R311, R329: presence reads, writes, clears and probes at their home. A read of an EMPTY word is deferred while the store
has room; a write of an EMPTY word sets it and answers the reads deferred on it; one of any other word is WRITE_TWICE and
changes nothing; a clear leaves the words with deferred reads and counts them. None of them touches a live barrier word. DEFR of a probe
that would count 1,024 is 1,023 (the model's choice, log entry 129). -/
def Sys2Proof.Claims.PresenceHomes : Prop := ∀ (s : State) (id : Nat) (r : Req) (p : Nat × BitVec 13),
  AtHome s id r p [] → s.presBarrier r = none →
  let st := s.presAt p.1
  let v := (s.loadUnder p.1 p.2).val
  let frame := OnlyCaches s
  (∀ n, r.who = .node n → r.op = .presRead 1 → r.fwd = [] →
    (st ≠ .empty → ∃ t, exec (.homeRequest id) s = .next t ∧ frame t ∧ Answered s t r { words := [⟨v, decide (st = .poison)⟩] }) ∧
    (st = .empty → s.deferRoom { r with fwd := [none] } = true → ∃ t r', exec (.homeRequest id) s = .next t ∧ frame t ∧ t.resps = s.resps ∧
      t.reqs = s.reqs.filter (fun x => decide (x.id ≠ id)) ++ [r'] ∧ r'.stage = .deferred ∧ r'.id = r.id ∧ r'.who = r.who ∧ r'.op = r.op ∧ r'.pas = r.pas ∧ r'.queued = false) ∧
    (st = .empty → s.deferRoom { r with fwd := [none] } = false → WaitsAtHome s id r)) ∧
  (∀ n seq h w, r.who = .latch n seq → r.op = .presWrite [w] → r.pos = 0 → r.logHome s = some h → s.isDram p.1 = false → s.writtenNow r = false →
    (st ≠ .empty → ∃ t a fi, exec (.homeRequest id) s = .next t ∧ AnsweredLatch s t r n seq h a ∧ a.fault = some fi ∧ fi.cause = 0x08 ∧
      frame t) ∧
    (st = .empty → Memory.wf s.mem = true → p.1 % 4 = 0 → (s.reqs.map Req.id).Nodup → ∃ t, exec (.homeRequest id) s = .next t ∧
      AnsweredLatch s t r n seq h {} ∧ t.presAt p.1 = (if w.psn then .poison else .full) ∧ (t.loadUnder p.1 p.2).val = w.val ∧
      OnlyWords s t [p.1] ∧
      ∀ d ∈ s.reqs, d.stage = .deferred → d.op = .presRead 1 → d.pas = [p] → d.fwd = [none] → ∃ x ∈ t.resps, x.id = d.id ∧ x.who = d.who ∧
        x.ans = { words := [⟨w.val, w.psn⟩] })) ∧
  (∀ n seq h k, r.who = .latch n seq → r.op = .presClear k → r.logHome s = some h → s.isDram p.1 = false → p.1 % 4 = 0 →
    (∀ j, j < k → s.isDram (p.1 + 4 * j) = false) →
    let kept := fun (j : Nat) => s.readsOn (p.1 + 4 * j) ≠ 0 ∨ s.inFlightOn (p.1 + 4 * j) = true
    ∃ t a, exec (.homeRequest id) s = .next t ∧ AnsweredLatch s t r n seq h a ∧ t.mem = s.mem ∧
      (∃ c, a = { words := [⟨BitVec.ofNat 32 c, false⟩], cond := decide (c = 0) } ∧ ∃ js : List Nat, js.Nodup ∧ js.length = c ∧ ∀ j, j ∈ js ↔ j < k ∧ kept j) ∧
      (∀ j, j < k → ¬kept j → (t.metaAt (p.1 + 4 * j)).pres = .empty) ∧
      ∀ pa, (∀ j, j < k → ¬kept j → pa / 4 ≠ p.1 / 4 + j) → t.metaAt pa = s.metaAt pa) ∧
  (∀ n, r.who = .node n → r.op = .probe →
    let said : Word := BitVec.ofNat 32 (min (s.readsOn (s.unitOf p.1)) 1023 * 256 + (if st = .empty then 0 else if st = .full then 1 else 2))
    ∃ t, exec (.homeRequest id) s = .next t ∧ frame t ∧ Answered s t r { words := [⟨said, false⟩], cond := decide (st = .full) })

/-- R360-R364: barrier words at their home. Arrivals count down LEFT; the last of a phase starts the next one with LEFT as COUNT;
a count of 0 or above 2^24 − 1 is refused; a test answers PHASE with PASS and STALE; `MBAR` makes a word of phase 0. -/
def Sys2Proof.Claims.BarrierWords : Prop := ∀ (s : State) (id : Nat) (r : Req) (p : Nat × BitVec 13),
  AtHome s id r p [] → Memory.wf s.mem = true → sameKey s p → p.1 % 8 = 0 →
  let w := s.load64Under p.1 p.2
  let phase := dfield w 48 16
  let count := dfield w 24 24
  let left := dfield w 0 24
  let made := fun (ph c l : Nat) => BitVec.ofNat 64 (ph * 2 ^ 48 + c * 2 ^ 24 + l)
  let writes := fun (t : State) (x : DWord) => t.load64Under p.1 p.2 = x ∧ (∀ pa, pa < p.1 ∨ p.1 + 8 ≤ pa → memGet t.mem pa = memGet s.mem pa)
  (∀ n seq h k, r.who = .latch n seq → r.op = .barArrive k → r.logHome s = some h → s.barrierAt p.1 = true →
    let a := k.toNat
    ((a = 0 ∨ 16777215 < a) → ∃ t, exec (.homeRequest id) s = .next t ∧ AnsweredLatch s t r n seq h { words := [⟨0xFFFFFFFF, false⟩], cond := false } ∧ t.mem = s.mem) ∧
    (1 ≤ a → a < left → ∃ t, exec (.homeRequest id) s = .next t ∧ AnsweredLatch s t r n seq h { words := [⟨BitVec.ofNat 32 phase, false⟩], cond := true } ∧
      writes t (made phase count (left - a))) ∧
    (1 ≤ a → left ≤ a → a ≤ 16777215 → ∃ t, exec (.homeRequest id) s = .next t ∧
      AnsweredLatch s t r n seq h { words := [⟨BitVec.ofNat 32 phase, false⟩], cond := decide (a = left) } ∧
      writes t (made ((phase + 1) % 65536) count count))) ∧
  (∀ n q cs, r.who = .node n → r.op = .barTry q cs → s.barrierAt p.1 = true →
    let dist := (phase + 65536 - q.toNat) % 65536
    let pass := decide (1 ≤ dist ∧ dist < 32768)
    let stale := decide (2 ≤ dist ∧ dist < 32768)
    let said : Word := BitVec.ofNat 32 (phase + (if pass then 65536 else 0) + (if stale then 131072 else 0))
    ∃ t, exec (.homeRequest id) s = .next t ∧ OnlyCaches s t ∧
      Answered s t r { words := [⟨said, false⟩], cond := if cs then stale else pass }) ∧
  (∀ n q cs, r.who = .node n → r.op = .barWait q cs → s.barrierAt p.1 = true → s.deferRoom r = true →
    let dist := (phase + 65536 - q.toNat) % 65536
    (1 ≤ dist ∧ dist < 32768 → ∃ t a, exec (.homeRequest id) s = .next t ∧ Answered s t r a ∧ t.mem = s.mem) ∧
    (¬(1 ≤ dist ∧ dist < 32768) → ∃ t, exec (.homeRequest id) s = .next t ∧ t.resps = s.resps ∧ t.mem = s.mem ∧
      ∃ x ∈ t.reqs, x.id = id ∧ x.stage = .deferred ∧ x.op = r.op)) ∧
  (∀ n seq h k, r.who = .latch n seq → r.op = .barMake k → r.logHome s = some h → (s.metaAt p.1).barrier = false →
    (1 ≤ k.toNat ∧ k.toNat ≤ 16777215 → ∃ t, exec (.homeRequest id) s = .next t ∧ AnsweredLatch s t r n seq h { cond := true } ∧
      writes t (made 0 k.toNat k.toNat) ∧ t.barrierAt p.1 = true) ∧
    (k = 0 ∨ 16777215 < k.toNat → ∃ t, exec (.homeRequest id) s = .next t ∧ AnsweredLatch s t r n seq h { cond := false } ∧ t.mem = s.mem))

namespace Sys2Proof.Claims

/-- The answer of a number has reached its requester (R305, R322), and is taken off its way. -/
def answerTo (s : State) (id : Nat) (p : Resp) : Prop := s.resp id = some p ∧ respHere s p = true
def taken (s : State) (id : Nat) : State := { s with resps := s.resps.filter (fun x => decide (x.id ≠ id)) }

/-- The result that an awaited answer gives its transition (R37, R192, R305, R308, R311). -/
def awaited (i : Instr) (f : Fields) (a : Answer) : Result :=
  match i with
  | .gld _ => scalarGot a.words
  | .gldA _ => scalarGot a.words
  | .pld _ => scalarGot a.words
  | .xld _ => scalarGot a.words
  | .gldv _ => vectorGot f a.words
  | .gldvP _ => vectorGot f a.words
  | _ => { dst := a.words.head?, cond := a.cond && !(a.words.headD {}).psn }

/-- The result that a reply gives the access in the latch (R311, R312, R316, R362, R440). -/
def replied (i : Instr) (nd : Node) (a : Answer) : Result :=
  let w := a.words.headD {}
  let l := fun (k : Nat) => Map.get nd.latch 0 k
  let bad := fun (v : Word) => ({ dst := some ⟨v, true⟩, cond := false } : Result)
  match i with
  | .aupd _ => { cond := !(l 0).getLsbD 27 }
  | .afet _ => if (l 0).getLsbD 27 then bad (l 3) else scalarGot [w]
  | .acas _ => if (l 0).getLsbD 26 then bad (l 4) else if w.psn then bad w.val else { dst := some w, cond := a.cond }
  | .pst _ => { cond := !(l 0).getLsbD 26 }
  | .gstvP _ => { cond := !(l 0).getLsbD 26 }
  | _ => { dst := a.words.head?, cond := a.cond && !w.psn }

/-- The latch of a node with one of its status bits changed. -/
def latchBit (nd nd' : Node) (k : Nat) (b : Bool) : Prop :=
  (Map.get nd'.latch 0 0).getLsbD k = b ∧ (∀ j, j < 32 → j ≠ k → (Map.get nd'.latch 0 0).getLsbD j = (Map.get nd.latch 0 0).getLsbD j) ∧
  ∀ j, j ≠ 0 → Map.get nd'.latch 0 j = Map.get nd.latch 0 j

/-- The acknowledgement that a peer module gets for the answer of an `XSIG` (R317, R442). -/
def peerTold (s : State) (p : Resp) (n : NodeRef) (q : BitVec 8) : List PodSent :=
  match p.op.podMod with
  | none => []
  | some m => if p.ans.accepted = true ∧ p.ans.notTaken = false then (match podPort s n.die m with
      | none => []
      | some k => [{ mod := m, port := k, msg := some { srcMod := s.podid.setWidth 10, srcTenant := (s.stampOf n).tenant, port := k,
                                                        va := p.va, op := .ack, node := n, seq := q } }]) else []

/-- The access that a reply names is the one in the latch. -/
def inLatch (s : State) (n : NodeRef) (q : BitVec 8) : Prop := (Map.get (s.nd n).latch 0 0).getLsbD 31 = true ∧ (s.nd n).lseq = q

end Sys2Proof.Claims

/-- R300, R302, R305-R307, R313, R316: at the end of a cycle a request leaves its element where its S3 has come, the entries
that it waits for are acknowledged and, for a latch access, no entry of the element names a word of it; a latch access that
leaves sets SENT. At the die's request port it waits for the walk of each of its pages that the micro-TLB does not hold; then it
leaves for its home with its physical words, or is refused with the first failing check; an `XWAIT` with an address above the
pod's is refused with REMOTE (DEDUCED, log entry 125). A walk reads its tables as it begins (the model's reading, log entry 55); so are which entry a full micro-TLB gives up and when two accesses name one word (log entries 14, 37). -/
def Sys2Proof.Claims.RequestsLeave : Prop := ∀ (s : State),
  (let t := launchMessages s
    let leaves := fun (r : Req) => r ∈ s.reqs ∧ r.leaving = true ∧ r.from_ ≤ s.cycle ∧
      (r.acquire = true ∨ ∀ id ∈ r.after, ∀ x ∈ (s.el r.stamp.issuer.elemRef).sbuf, x.id ≠ id) ∧
      (∀ n q, r.who = .latch n q → r.op.podMod = none → wordsBuffered s r = false) ∧ hasCredit s r = true
    (∀ r, leaves r → departed s r ∈ t.reqs ∧ (departed s r).left = s.cycle ∧
      (r.own = none → (∀ n q, r.who ≠ .query n q) → ∀ a p, requesterPlace r.who = some (.port a p) →
        let control := r.op.dispatched = true ∨ (match r.op with
          | .stream _ _ | .streamStat _ _ | .readSel _ _ | .writeSel _ _ _ | .rearm _ | .mark _ | .saveImage _ | .restore _ => True
          | _ => False)
        (r.op.dispatched = true → r.stage = .home → (∀ x, r.op ≠ .query x) → (a, p) ≠ (⟨r.stamp.issuer.die, 1024⟩, 0) →
          ∃ f ∈ t.net, f.vn = 1 ∧ f.load = .msg r.id ∧ f.here = a ∧ f.inp = p ∧ f.last = ⟨r.stamp.issuer.die, 1024⟩) ∧
        (¬control → r.stage = .port → (a, p) ≠ (stripTile r.stamp.issuer.elemRef.tileRef, 0) →
          ∃ f ∈ t.net, f.vn = 2 ∧ f.load = .msg r.id ∧ f.here = a ∧ f.inp = p)) ∧
      (∀ o a p, r.own = some o → requesterPlace r.who = some (.port a p) → (a, p) ≠ (o.elem.tileRef, o.elem.elem.toNat) → r.op.dispatched = false →
        r.stage = .port → ∃ f ∈ t.net, f.load = .msg r.id ∧ f.here = a ∧ f.inp = p ∧ f.last = o.elem.tileRef)) ∧
    (∀ r ∈ s.reqs, r.leaving = true → ¬leaves r → r ∈ t.reqs) ∧
    (∀ n, let sends := ∃ r q, leaves r ∧ r.who = .latch n q
      (sends → latchBit (s.nd n) (t.nd n) 30 true ∧ (t.nd n).lsent = s.cycle) ∧ (¬sends → t.nd n = s.nd n))) ∧
  (∀ id r, s.req id = some r → r.stage = .port → reqHere s r = true → r.own = none → r.op.podMod = none →
    entryOrder s r [.port, .ats, .kept] = true → trackerBefore s r = false → (∀ m k, r.who ≠ .peer m k) →
    let die := r.stamp.issuer.die
    let missing := fun (page : Nat) => s.misses (s.dieTlb die) r.stamp.part r.stamp.tenant (page * 65536) = true
    let tracked := fun (page : Nat) (x : Walk) => (s.dieAt die).walks.find? (fun x => x.isFor r.stamp page) = some x
    ((∃ page ∈ r.pages, missing page ∧ ∀ x, ¬tracked page x) → exec (.walkComplete id) s = .next s) ∧
    ((∀ page ∈ r.pages, ¬missing page ∧ ∀ x, ¬tracked page x) →
      let far := ∃ b, r.op = .xwait b ∧ 2 ^ 52 ≤ r.va.toNat
      (far → ∃ fi, exec (.walkComplete id) s = .next (refused s r fi) ∧ fi.cause = 0x10) ∧
      (∀ fi, ¬far → s.checkReq r = .error fi → exec (.walkComplete id) s = .next (refused s r fi)) ∧
      (∀ ps, ¬far → s.checkReq r = .ok ps → (∀ p ∈ ps, notHost s p) → ∃ t x, exec (.walkComplete id) s = .next t ∧ t = { s with reqs := t.reqs, net := t.net } ∧
        t.req id = some x ∧ x = { r with stage := .home, pas := ps, nc := x.nc, place := x.place } ∧
        (∀ a p, ps.head? = some a → r.place = some p → ∃ q, x.place = some q ∧ (∀ m b, s.target a.1 = .bank m b → q = .port m b) ∧
          (q = p ∧ t.net = s.net ∨ q ≠ p ∧ ∃ f, f.vn = 2 ∧ f.load = .msg id ∧ t.net = s.net ++ [f])))) ∧
    (∀ page x e, r.pages = [page] → tracked page x → x.tlbs = [none] → x.stale = false → x.found = some e → ∃ t, exec (.walkComplete id) s = .next t ∧
      (t.dieAt die).tlb = ((s.dieAt die).tlb ++ [e]).drop ((s.dieAt die).tlb.length + 1 - 32) ∧
      (t.dieAt die).walks = (s.dieAt die).walks.erase x ∧ ∀ d, d ≠ die → t.dieAt d = s.dieAt d))

/-- R37, R305, R308, R311: `MEMORY_RESPONSE` completes the transition that awaits it, or makes its node FAULTED. -/
def Sys2Proof.Claims.AwaitedAnswers : Prop := ∀ (s : State) (id : Nat) (p : Resp) (n : NodeRef) (fl : InFlight) (f : Fields),
  (s.resp id = some p → respHere s p = false → exec (.memoryResponse id) s = .next s) ∧
  (answerTo s id p → p.who = .node n → (s.nd n).flight = some fl → fl.why = .await id → fl.instr.fields = some f →
  (∀ b, p.op ≠ .flush b) → (∀ c k, p.op ≠ .cxBlock c k) →
  (∀ fi, p.ans.fault = some fi → exec (.memoryResponse id) s = .next (faultInFlight (taken s id) n fi)) ∧
  (p.ans.fault = none → (∀ g, fl.instr = .gldv g ∨ fl.instr = .gldvP g → p.ans.words.length = 16) →
    (∀ i ∈ [Instr.afet f, .acas f, .aupd f, .pst f, .gstvP f], fl.instr ≠ i) →
    exec (.memoryResponse id) s = .next (complete (taken s id) n (awaited fl.instr f p.ans))))

/-- R306, R307, R309: an acknowledged entry is freed, and a fence that waits for it alone ends; a refused one becomes HELD in its
place and its node faults, one of a node in OFF is dropped (the model's reading, log entry 91). -/
def Sys2Proof.Claims.StoresAcknowledged : Prop := ∀ (s : State) (id : Nat) (p : Resp) (e : ElemRef) (x : StoreEntry),
  answerTo s id p → p.who = .sbuf e → (s.el e).sbuf.find? (fun y => decide (y.id = id)) = some x →
  let n := e.nodeRef x.node
  let freed := ((taken s id).updEl e (fun el => { el with sbuf := (s.el e).sbuf.filter (fun y => decide (y.id ≠ id)) })).updNd n
    (fun nd => { nd with hostAck := nd.hostAck ||| (match p.ans.words.head? with
      | some w => w.val.extractLsb' 0 2
      | none => 0) })
  (p.ans.fault = none → (∀ fl act ids fh, (s.nd n).flight = some fl → fl.why = .release act ids fh → id ∉ ids) →
    exec (.storeAck id) s = .next freed) ∧
  (p.ans.fault = none → ∀ fl, (s.nd n).flight = some fl → fl.why = .release .fence [id] false →
    exec (.storeAck id) s = .next (complete (freed.updNd n (fun nd => { nd with flight := some { fl with why := .release .fence [] false } })) n {})) ∧
  (p.ans.fault = none → ∀ fl act ids fh, (s.nd n).flight = some fl → fl.why = .release act ids fh → id ∈ ids → (∃ j ∈ ids, j ≠ id) →
    exec (.storeAck id) s = .next (freed.updNd n (fun nd => { nd with
      flight := some { fl with why := .release act (ids.filter (fun j => decide (j ≠ id))) fh } }))) ∧
  (∀ fi, p.ans.fault = some fi → (∃ r ∈ s.reqs, r.id = id ∧ r.stage = .kept) → (s.nd n).st = .run → (s.nd n).flight = none → s.issuing n = false →
    ∃ t, exec (.storeRefusal id) s = .next t ∧ (t.nd n).st = .faulted ∧ (t.nd n).cause = fi.cause ∧ t.mem = s.mem ∧
      (t.el e).sbuf = (s.el e).sbuf.map (fun (y : StoreEntry) => if y.id = id then { y with held := true } else y)) ∧
  (∀ fi, p.ans.fault = some fi → (s.nd n).st = .off → (s.nd n).aligned = none → ∃ t, exec (.storeRefusal id) s = .next t ∧ t.node = s.node ∧
    (t.el e).sbuf = (s.el e).sbuf.filter (fun y => decide (y.id ≠ id)))

/-- R314, R315, R330: `INBOX_ENTRY`: an atomic for an owned word enters the inbox that its S3 found, under a credit, as the entry that R314 lays out;
an `AUPD` is answered as the inbox accepts it; a misaligned one is refused with ALIGN. -/
def Sys2Proof.Claims.InboxEntries : Prop := ∀ (s : State) (id : Nat) (r : Req) (n : NodeRef) (q : BitVec 8),
  ∀ o : OwnedBy, s.req id = some r → r.who = .latch n q → r.own = some o → r.stage = .port → reqHere s r = true →
  let e := o.elem
  let k := o.box
  (r.va.toNat % 4 ≠ 0 → ∃ fi, exec (.inboxEntry id) s = .next (refused s r fi) ∧ fi.cause = 0x0A) ∧
  (r.va.toNat % 4 = 0 → (s.el e).region ≠ some o.region → exec (.inboxEntry id) s = .next { s with reqs := s.reqs.filter (fun x => decide (x.id ≠ id)) }) ∧
  (r.va.toNat % 4 = 0 → (s.el e).region = some o.region →
    let box := Map.get (s.el e).inbox {} k
    (box.entries.length < 8 → s.logRoom (.inbox e) = true → ∃ t x, exec (.inboxEntry id) s = .next t ∧
      Map.get (t.el e).inbox {} k = { box with entries := box.entries ++ [x] } ∧ t.req id = none ∧ t.mem = s.mem ∧
      t.node = s.node ∧ (∀ d, d ≠ e → t.el d = s.el d) ∧
      (∀ old new, r.op = .cas old new → x.opa = old.val ∧ x.psa = old.psn ∧ x.opb = new.val ∧ x.psb = new.psn ∧ x.op = 12) ∧
      (∀ op rm v, r.op = .atomic op rm v → x.opa = v.val ∧ x.psa = v.psn ∧ x.opb = 0 ∧ x.psb = false ∧ x.op = op ∧ x.rm = rm) ∧
      x.req = n ∧ x.seq = q ∧ x.off = o.off ∧ x.rply = r.rply ∧
      (x.rply = true → t.resps = s.resps) ∧
      (x.rply = false → t.resps = s.resps ++ [{ id := r.id, who := r.who, op := r.op, va := r.va, ans := {}, src := r.place, floor := soonest r, pas := r.pas }])) ∧
    (8 ≤ box.entries.length ∨ s.logRoom (.inbox e) = false → exec (.inboxEntry id) s = .next s))

/-- R316-R318: replies to the retry latch, its timeout, recovery queries and the acknowledgement of replies. A reply for another
access is only acknowledged; one that the node awaits completes it and clears VALID; one that finds it FAULTED is held in
the latch; a fault found in application is held and makes the node FAULTED; a refusal returns SENT to 0. -/
def Sys2Proof.Claims.LatchReplies : Prop := ∀ (s : State) (id : Nat) (p : Resp) (n : NodeRef) (q : BitVec 8),
  (answerTo s id p → p.who = .latch n q →
    let s' := { taken s id with
      logs := s.logs.map (fun (x : LogEntry) => if x.id = id then { x with acked := true } else x)
      podSent := s.podSent ++ peerTold s p n q }
    (¬inLatch s n q → exec (.latchReply id) s = .next s') ∧
    (inLatch s n q → p.ans.notTaken = false → p.ans.fault = none → ∀ fl f, (s.nd n).flight = some fl → fl.why = .latch →
      fl.instr.fields = some f → (∀ i ∈ [Instr.aupd f, .afet f, .acas f, .pst f, .gstvP f, .pclr f, .xsig f, .barvW f, .mbar f], fl.instr = i →
        field (Map.get (s.nd n).latch 0 0) 0 8 = (opcOf i).toNat) →
      fl.instr ∈ [Instr.aupd f, .afet f, .acas f, .pst f, .gstvP f, .pclr f, .xsig f, .barvW f, .mbar f] →
      ∃ t, exec (.latchReply id) s = .next (complete t n (replied fl.instr (s.nd n) p.ans)) ∧ latchBit (s.nd n) (t.nd n) 31 false ∧
        t = { s' with node := t.node } ∧ ∀ m, m ≠ n → t.nd m = s.nd m) ∧
    (inLatch s n q → p.ans.notTaken = false → p.ans.fault = none → (s.nd n).st = .faulted → (s.nd n).flight = none → ∃ t, exec (.latchReply id) s = .next t ∧
      t = { s' with node := t.node } ∧ (∀ m, m ≠ n → t.nd m = s.nd m) ∧ (t.nd n).st = .faulted ∧
      (Map.get (t.nd n).latch 0 0).getLsbD 29 = true ∧ (Map.get (t.nd n).latch 0 0).getLsbD 28 = (p.ans.words.headD {}).psn ∧
      Map.get (t.nd n).latch 0 5 = (p.ans.words.headD {}).val ∧ (t.nd n).lheld = some p.ans) ∧
    (inLatch s n q → p.ans.notTaken = false → p.ans.accepted = true → (∃ fl, (s.nd n).flight = some fl ∧ fl.why = .latch ∧ fl.rearmed = false) →
      ∀ fi, p.ans.fault = some fi → ∃ t,
      exec (.latchReply id) s = .next (faultInFlight t n fi) ∧ t = { s' with node := t.node } ∧ (Map.get (t.nd n).latch 0 0).getLsbD 29 = true ∧
      Map.get (t.nd n).latch 0 5 = fi.cause.setWidth 32) ∧
    (inLatch s n q → p.ans.notTaken = false → p.ans.accepted = false → (∃ fl, (s.nd n).flight = some fl ∧ fl.why = .latch) → ∀ fi, p.ans.fault = some fi → ∃ t,
      exec (.latchReply id) s = .next (faultInFlight t n fi) ∧ t = { s' with node := t.node } ∧ latchBit (s.nd n) (t.nd n) 30 false) ∧
    (inLatch s n q → p.ans.notTaken = true → ∀ r, s.latchReq n = some r → ∃ t, exec (.latchReply id) s = .next t ∧
      latchBit (s.nd n) (t.nd n) 30 false ∧ t.reqs = s.reqs.map (fun (x : Req) => if x.id = r.id then
        { r with stage := .port, leaving := true, queued := false, pas := [], nc := [], pos := 0, from_ := 0 } else x))) ∧
  (let w := Map.get (s.nd n).latch 0 0
    let waits := (s.nd n).st = .parked ∧ w.getLsbD 31 = true ∧ w.getLsbD 30 = true ∧ w.getLsbD 29 = false
    (waits → (s.nd n).lsent + 1048576 ≤ s.cycle → ∃ fi, exec (.latchTimeout n) s = .next (faultInFlight s n fi) ∧ fi.cause = 0x0C ∧
      fi.aux = (s.nd n).lseq ∧ fi.deta = Map.get (s.nd n).latch 0 1) ∧
    (¬waits ∨ s.cycle < (s.nd n).lsent + 1048576 → exec (.latchTimeout n) s = .next s)) ∧
  (∀ r, s.req id = some r → reqHere s r = true → r.who = .query n q →
    (∀ x, s.logs.find? (fun x => decide (x.mod = none ∧ x.node = n ∧ x.seq = q)) = some x → ∃ t, exec (.recoveryQuery id) s = .next t ∧
      t.resps = s.resps ++ [{ id := x.id, who := .latch n q, op := r.op, va := r.va, ans := x.ans, src := r.place }] ∧ t.req id = none) ∧
    ((∀ x ∈ s.logs, ¬(x.mod = none ∧ x.node = n ∧ x.seq = q)) → s.stillWaits n q = true → exec (.recoveryQuery id) s = .next s) ∧
    ((∀ x ∈ s.logs, ¬(x.mod = none ∧ x.node = n ∧ x.seq = q)) → s.stillWaits n q = false → r.op.podMod = none → ∃ t, exec (.recoveryQuery id) s = .next t ∧
      t.resps = s.resps ++ [{ id := id, who := .latch n q, op := r.op, va := r.va, ans := { notTaken := true }, src := r.place }] ∧ t.req id = none ∧ t.mem = s.mem)) ∧
  exec (.replyAcknowledgement id) s = .next { s with logs := s.logs.filter (fun x => !(x.acked && decide (x.id = id))) }

namespace Sys2Proof.Claims

/-- A request of a node at the unit that performs it, which needs no translation (R342, R383). -/
def AtUnit (s : State) (id : Nat) (r : Req) (op : Op) : Prop :=
  s.req id = some r ∧ atHome s r = true ∧ behind s r = false ∧ r.pas = [] ∧ (∃ n, r.who = .node n) ∧ r.op = op

/-- A unit answers with the word `w` and the condition `c`; nothing but what is named differs. -/
def Says (s t : State) (id : Nat) (r : Req) (w : Word) (c : Bool) : Prop :=
  exec (.homeRequest id) s = .next t ∧ Answered s t r { words := [⟨w, false⟩], cond := c }

/-- Only the dispatcher of one die differs, with the requests and answers on their way. -/
def OnlyDie (s t : State) (d : BitVec 4) : Prop :=
  t = { s with reqs := t.reqs, resps := t.resps, die := t.die } ∧ ∀ x, x ≠ d → t.dieAt x = s.dieAt x

/-- Only one pool barrier, or one engine, of a die differs. -/
def OnlyBarrier (s t : State) (d : BitVec 4) (i : Nat) : Prop :=
  OnlyDie s t d ∧ (∃ b, t.dieAt d = { s.dieAt d with bar := b }) ∧ ∀ j, j ≠ i → (t.dieAt d).barrier j = (s.dieAt d).barrier j
def OnlyEngine (s t : State) (d : BitVec 4) (k n : Nat) : Prop :=
  OnlyDie s t d ∧ (∃ x, t.dieAt d = { s.dieAt d with engine := x }) ∧ ∀ j, j ≠ 8 * k + n → Map.get (t.dieAt d).engine {} j = Map.get (s.dieAt d).engine {} j

/-- A handle names pool barrier `i` for a requester (R360). -/
def names_ (s : State) (d : BitVec 4) (st : Stamp) (h : Word) (i : Nat) : Prop :=
  let b := (s.dieAt d).barrier i
  i = field h 0 12 ∧ field h 28 4 = d.toNat ∧ field h 20 8 = b.gen.toNat ∧ (b.alloc = true ∨ b.ref ≠ 0) ∧ b.part = st.part ∧ b.tenant = st.tenant

end Sys2Proof.Claims

/-- R360-R363: pool barriers at the die's dispatcher: allocation of the lowest free one, release, arrivals and waits. A stale
handle does nothing. -/
def Sys2Proof.Claims.PoolBarriers : Prop := ∀ (s : State) (id : Nat) (r : Req),
  let d := r.stamp.issuer.die
  let bar := fun (i : Nat) => (s.dieAt d).barrier i
  let isFree := fun (i : Nat) => (bar i).alloc = false ∧ (bar i).ref = 0
  let stale := fun (h : Word) => ∀ i, ¬names_ s d r.stamp h i
  (∀ a, AtUnit s id r (.barAlloc a) →
    let c : BitVec 16 := a.setWidth 16
    (∀ i, i < 4096 → isFree i → (∀ j, j < i → ¬isFree j) → c ≠ 0 → ∃ t,
      Says s t id r (BitVec.ofNat 32 (d.toNat * 2 ^ 28 + (bar i).gen.toNat * 2 ^ 20 + i)) true ∧ OnlyBarrier s t d i ∧
      (t.dieAt d).barrier i = { alloc := true, ref := 1, gen := (bar i).gen, part := r.stamp.part, tenant := r.stamp.tenant, count := c, left := c }) ∧
    ((c = 0 ∨ ∀ i, i < 4096 → ¬isFree i) → ∃ t, Says s t id r 0 false ∧ t = { s with reqs := t.reqs, resps := t.resps })) ∧
  (∀ h, AtUnit s id r (.barFree h) →
    (∀ i, names_ s d r.stamp h i → (bar i).alloc = true → ∃ t a, exec (.homeRequest id) s = .next t ∧ Answered s t r a ∧ a.cond = true ∧
      OnlyBarrier s t d i ∧ (t.dieAt d).barrier i =
        (if (bar i).ref = 1 then { gen := (bar i).gen + 1 } else { bar i with alloc := false, ref := (bar i).ref - 1 })) ∧
    ((stale h ∨ ∃ i, names_ s d r.stamp h i ∧ (bar i).alloc = false) → ∃ t a, exec (.homeRequest id) s = .next t ∧ Answered s t r a ∧
      a.cond = false ∧ t = { s with reqs := t.reqs, resps := t.resps })) ∧
  (∀ h n, AtUnit s id r (.poolArrive h n) →
    (stale h ∨ n = 0 ∨ 65535 < n.toNat → ∃ t, Says s t id r 0xFFFFFFFF false ∧ t = { s with reqs := t.reqs, resps := t.resps }) ∧
    (∀ i, names_ s d r.stamp h i → 1 ≤ n.toNat → n.toNat < (bar i).left.toNat → ∃ t, Says s t id r ((bar i).phase.setWidth 32) true ∧
      OnlyBarrier s t d i ∧ (t.dieAt d).barrier i = { bar i with left := (bar i).left - n.setWidth 16 }) ∧
    (∀ i, names_ s d r.stamp h i → 1 ≤ n.toNat → (bar i).left.toNat ≤ n.toNat → n.toNat ≤ 65535 → (∀ x ∈ s.reqs, x.stage ≠ .deferred) → ∃ t,
      Says s t id r ((bar i).phase.setWidth 32) (decide (n.toNat = (bar i).left.toNat)) ∧ OnlyBarrier s t d i ∧
      (t.dieAt d).barrier i = { bar i with phase := (bar i).phase + 1, left := (bar i).count })) ∧
  (∀ h q cs wait, AtUnit s id r (if wait then .poolWait h q cs else .poolTry h q cs) →
    (stale h → ∃ t, Says s t id r 0xFFFFFFFF false ∧ t = { s with reqs := t.reqs, resps := t.resps }) ∧
    (∀ i, names_ s d r.stamp h i →
      let dist := ((bar i).phase - q).toNat
      let pass := decide (1 ≤ dist ∧ dist < 32768)
      let stl := decide (2 ≤ dist ∧ dist < 32768)
      (pass = true ∨ wait = false → ∃ t, Says s t id r (BitVec.ofNat 32 ((bar i).phase.toNat + (if pass then 65536 else 0) + (if stl then 131072 else 0)))
        (if cs then stl else pass) ∧ t = { s with reqs := t.reqs, resps := t.resps }) ∧
      (pass = false → wait = true → s.poolWaits d < 1024 → ∃ t, exec (.homeRequest id) s = .next t ∧ OnlyBarrier s t d i ∧ t.resps = s.resps ∧
        (t.dieAt d).barrier i = { bar i with ref := (bar i).ref + 1 } ∧ ∃ x ∈ t.reqs, x.id = id ∧ x.stage = .deferred ∧ x.op = r.op) ∧
      (pass = false → wait = true → 1024 ≤ s.poolWaits d → WaitsAtHome s id r)))

/-- R268, R318, R355, R383: the other units that answer a node: leases of engines, the state of a task's record, the registers
of another node, and the re-arming of its latch. -/
def Sys2Proof.Claims.UnitsAnswer : Prop := ∀ (s : State) (id : Nat) (r : Req),
  let d := r.stamp.issuer.die
  let same := fun (t : State) => t = { s with reqs := t.reqs, resps := t.resps }
  (∀ a b, AtUnit s id r (.lease a b) →
    let k := field a 0 2
    let count := [8, 4, 4, 0].getD k 0
    let engine := fun (n : Nat) => Map.get (s.dieAt d).engine {} (8 * k + n)
    let lapsed := fun (n : Nat) => (engine n).leased = true ∧ ∃ e, (engine n).expiry = some e ∧ e ≤ (s.dieAt d).ctr
    let gen := fun (n : Nat) (v : BitVec 8) => (lapsed n ∧ v = (engine n).gen + 1) ∨ (¬lapsed n ∧ v = (engine n).gen)
    let idle := fun (n : Nat) => ((engine n).leased = false ∨ lapsed n) ∧ (engine n).queue = []
    ((∀ n, n < count → ¬idle n) → ∃ t, Says s t id r 0 false ∧ same t) ∧
    (∀ n, n < count → idle n → (∀ m, m < n → ¬idle m) →
      ∃ t v, gen n v ∧ Says s t id r (BitVec.ofNat 32 (d.toNat * 2 ^ 28 + k * 2 ^ 26 + n * 2 ^ 23 + v.toNat * 2 ^ 15)) true ∧ OnlyEngine s t d k n ∧
        let y := Map.get (t.dieAt d).engine {} (8 * k + n)
        y.leased = true ∧ y.part = r.stamp.part ∧ y.tenant = r.stamp.tenant ∧ y.gen = v ∧
        y.expiry = (if b = 0 then none else some ((s.dieAt d).ctr + b.toNat)) ∧ y.tasks = (if field a 8 8 = 0 then none else some (field a 8 8)))) ∧
  (∀ h, AtUnit s id r (.unlease h) →
    let k := field h 26 2
    let n := field h 23 3
    let x := Map.get (s.dieAt d).engine {} (8 * k + n)
    let mine := field h 28 4 = d.toNat ∧ n < [8, 4, 4, 0].getD k 0 ∧ x.leased = true ∧ field h 15 8 = x.gen.toNat ∧ x.part = r.stamp.part ∧ x.tenant = r.stamp.tenant ∧
      ∀ e, x.expiry = some e → (s.dieAt d).ctr < e
    (¬mine → ∃ t a, exec (.homeRequest id) s = .next t ∧ Answered s t r a ∧ a.cond = false ∧ same t) ∧
    (mine → ∃ t a, exec (.homeRequest id) s = .next t ∧ Answered s t r a ∧ a.cond = true ∧ OnlyEngine s t d k n ∧
      Map.get (t.dieAt d).engine {} (8 * k + n) = { x with leased := false, gen := x.gen + 1, expiry := none, tasks := none })) ∧
  (∀ a, AtUnit s id r (.query a) →
    let x := s.task (a.extractLsb' 28 4) (field a 14 14)
    let due := s.admitted (a.extractLsb' 28 4) = true ∧ (decsAt s (a.extractLsb' 28 4) = [] ∨ (s.dieAt (a.extractLsb' 28 4)).decAt = some s.cycle)
    (¬due → r.queued = true → exec (.homeRequest id) s = .next s) ∧
    (due → x.part ≠ r.stamp.part → ∃ t, Says s t id r 0 false ∧ same t) ∧
    (due → x.part = r.stamp.part → ∃ t w, Says s t id r w (decide (x.gen = field a 6 8 ∧ 2 ≤ x.state)) ∧ same t ∧
      field w 28 4 = x.state ∧ field w 20 8 = x.gen ∧ w.getLsbD 19 = x.expf ∧ field w 16 2 = 0 ∧ field w 0 16 = x.cnt)) ∧
  (∀ a (sel : BitVec 6), AtUnit s id r (.readSel a sel) → sel ≠ 48 → sel ≠ 49 →
    let m : NodeRef := ⟨d, a.extractLsb' 8 11, a.extractLsb' 4 4, a.extractLsb' 0 4⟩
    (remotePermitted s r.stamp.issuer m = false → ∃ t, Says s t id r 0 false ∧ same t) ∧
    (remotePermitted s r.stamp.issuer m = true → ∃ t, Says s t id r (selector (s.nd m) sel.toNat).1 (selector (s.nd m) sel.toNat).2 ∧ same t)) ∧
  (∀ a v (sel : BitVec 6), AtUnit s id r (.writeSel a v sel) → sel ≠ 48 → sel ≠ 49 →
    let m : NodeRef := ⟨d, a.extractLsb' 8 11, a.extractLsb' 4 4, a.extractLsb' 0 4⟩
    let told := fun (c : Bool) (t : State) => exec (.homeRequest id) s = .next t ∧ Answered s t r { cond := c }
    (remotePermitted s r.stamp.issuer m = false → ∃ t, told false t ∧ same t) ∧
    ((s.nd m).st ≠ .faulted → ∃ t, told false t ∧ same t) ∧
    (remotePermitted s r.stamp.issuer m = true → (s.nd m).st = .faulted → 32 ≤ sel.toNat → sel.toNat < 48 → ∃ t, told true t ∧
      (∀ k, Map.get (t.nd m).g {} k = if k = sel.toNat - 32 then ⟨v, false⟩ else Map.get (s.nd m).g {} k) ∧ (∀ k, k ≠ m → t.nd k = s.nd k) ∧
      t = { s with reqs := t.reqs, resps := t.resps, node := t.node })) ∧
  (∀ a, AtUnit s id r (.rearm a) →
    let m : NodeRef := ⟨d, a.extractLsb' 8 11, a.extractLsb' 4 4, a.extractLsb' 0 4⟩
    let w := Map.get (s.nd m).latch 0 0
    let ok := remotePermitted s r.stamp.issuer m = true
    (¬ok → ∃ t, Says s t id r 4 false ∧ same t) ∧
    (ok → (s.nd m).st ≠ .faulted → ∃ t, Says s t id r 3 false ∧ same t) ∧
    (ok → (s.nd m).st = .faulted → w.getLsbD 31 = false → ∃ t, Says s t id r 2 false ∧ same t) ∧
    (∀ fl f x, ok → (s.nd m).st = .faulted → w.getLsbD 31 = true → w.getLsbD 30 = false → (s.nd m).faulting = some fl → fl.why = .latch →
      fl.instr.fields = some f → s.latchReq m = some x → x.id ≠ id → ∃ t, Says s t id r 0 true ∧ (t.nd m).st = .parked ∧ (t.nd m).flight = some fl ∧
        (∃ y ∈ t.reqs, y = { x with stage := .port, leaving := true, queued := false, pas := [], nc := [], pos := 0, from_ := 0 }) ∧ ∀ k, k ≠ m → t.nd k = s.nd k))

namespace Sys2Proof.Claims

/-- A field of a task's record (R242). -/
def tfield (t : Task) (w lo n : Nat) : Nat := field (Map.get t.w 0 w) lo n

/-- The state code, generation and counter of a record. -/
def tstate (t : Task) : Nat := tfield t 0 28 4
def tgen (t : Task) : Nat := tfield t 0 20 8
def tcnt (t : Task) : Nat := tfield t 1 16 16

/-- A record's deadline; all ones is none (R242). -/
def tdeadline (t : Task) : Nat := (Map.get t.w 0 5).toNat + (Map.get t.w 0 6).toNat * 2 ^ 32

/-- A count that stays at its greatest value. -/
def counted (m m' : Map Word) (p : BitVec 5) : Prop :=
  (∀ j, j ≠ p.toNat → Map.get m' 0 j = Map.get m 0 j) ∧
  (Map.get m' 0 p.toNat).toNat = min ((Map.get m 0 p.toNat).toNat + 1) 0xFFFFFFFF

/-- A record has retired with a state code: it holds it where KEEP is set, else it is FREE with its next GEN (R250). -/
def Retired (s t : State) (d : BitVec 4) (i code : Nat) : Prop :=
  let old := s.task d i
  let new := t.task d i
  (tfield old 0 11 1 = 1 → tstate new = code ∧ tgen new = tgen old) ∧ (tfield old 0 11 1 = 0 → tstate new = 0 ∧ tgen new = (tgen old + 1) % 256) ∧
  ∀ e j, (e, j) ≠ (d, i) → t.task e j = s.task e j

/-- Every record but one stays. -/
def OnlyTask (s t : State) (d : BitVec 4) (i : Nat) : Prop := ∀ e j, (e, j) ≠ (d, i) → t.task e j = s.task e j

end Sys2Proof.Claims

/-- R248-R250, R253, R256, R260: what becomes of a task's record. A decrement counts down a WAITING record, or is dropped and
counted; at 1 the record enters STAGING, or retires as R249 says; the hod's completion makes it READY, its deadline EXPIRED;
waiting promotes it, and a head that finds no origin blocks the list. That each task's share of the store is counted on its own is the
model's reading (log entry 84). -/
def Sys2Proof.Claims.TasksProceed : Prop := ∀ (s : State),
  (∀ id m, s.decs.find? (fun x => decide (x.id = id)) = some m →
    ((decsAt s (m.ref.extractLsb' 28 4)).head? ≠ some m ∨ (s.dieAt (m.ref.extractLsb' 28 4)).decAt = some s.cycle → exec (.decrementApply id) s = .next s) ∧
    ((decsAt s (m.ref.extractLsb' 28 4)).head? = some m → (s.dieAt (m.ref.extractLsb' 28 4)).decAt ≠ some s.cycle → m.pod = none → s.admitted (m.ref.extractLsb' 28 4) = true →
    let d : BitVec 4 := m.ref.extractLsb' 28 4
    let i := field m.ref 14 14
    let t := s.task d i
    let stale := tgen t ≠ field m.ref 6 8 ∨ tstate t ≤ 1 ∨ m.part.toNat ≠ tfield t 7 11 5
    let under := if tstate t ≠ 0 then (Map.get t.w 0 7).extractLsb' 11 5 else m.part
    let exp := m.exp = true ∨ tfield t 0 14 1 = 1
    let due := match m.rb with
      | some rb => if tfield t 0 13 1 = 1 then min (tdeadline t) ((s.dieAt d).ctr + rb) else tdeadline t
      | none => tdeadline t
    let runs := fun (u : State) => exec (.decrementApply id) s = .next u ∧ u.decs.find? (fun x => decide (x.id = id)) = none
    (stale → ∃ u, runs u ∧ counted s.dstale u.dstale under ∧ u.dover = s.dover ∧ ∀ e j, u.task e j = s.task e j) ∧
    (¬stale → tstate t ≠ 2 → ∃ u, runs u ∧ counted s.dover u.dover under ∧ u.dstale = s.dstale ∧ ∀ e j, u.task e j = s.task e j) ∧
    (¬stale → tstate t = 2 → tcnt t ≠ 2 → due < 2 ^ 64 → ∃ u, runs u ∧ OnlyTask s u d i ∧ tcnt (u.task d i) = tcnt t - 1 ∧
      tstate (u.task d i) = 2 ∧ tdeadline (u.task d i) = due ∧ (tfield (u.task d i) 0 14 1 = 1 ↔ exp)) ∧
    (¬stale → tstate t = 2 → tcnt t = 2 → due < 2 ^ 64 → (exp ∧ tfield t 0 16 1 = 0) ∨ due ≤ (s.dieAt d).ctr → ∃ u,
      exec (.decrementApply id) s = .next u ∧ Retired s u d i 9) ∧
    (¬stale → tstate t = 2 → tcnt t = 2 → due < 2 ^ 64 → ¬(exp ∧ tfield t 0 16 1 = 0) → (s.dieAt d).ctr < due →
      (t.image = 0 → ∃ u, exec (.decrementApply id) s = .next u ∧ Retired s u d i 8) ∧
      (t.image ≠ 0 → ∃ u, runs u ∧ OnlyTask s u d i ∧ let t' := u.task d i
        t'.stagedAt = (s.dieAt d).ctr ∧
        (∀ bs, readBindings s (t.part) t = .ok bs → t'.binds = bs ∧
          (stagedBindings s t ≠ [] → tstate t' = 3) ∧ (stagedBindings s t = [] → tstate t' = 4 ∧ tcnt t' = 0 ∧ t'.readyAt = (s.dieAt d).ctr)) ∧
        (∀ b c a, readBindings s (t.part) t = .error (b, c, a) → tstate t' = 3 ∧ t'.paged = decide (c = 0x06) ∧ t'.stuck = decide (c ≠ 0x06) ∧
          ∃ x, u.traps = s.traps ++ [x]))))) ∧
  (∀ d (i : BitVec 14),
    let t := s.task d i.toNat
    let now := (s.dieAt d).ctr
    let staged := stagedBindings s t
    let hard := tfield t 0 15 1 = 1
    let late := tdeadline t ≤ now ∧ tdeadline t ≠ 2 ^ 64 - 1 ∧ (tstate t = 3 ∨ tstate t = 4 ∨ (hard ∧ (tstate t = 5 ∨ tstate t = 6)))
    (tstate t = 3 → t.stuck = false → t.paged = false → t.binds ≠ [] →
      (∀ b ∈ staged, let n := (t.binds.getD b (0, 0)).2
        n % 4 = 0 ∧ 4 ≤ n ∧ n ≤ 524288) → stageUnits s t = 0 ∨ unitsBefore s d i.toNat + stageUnits s t ≤ 2048 →
      (useRanges s d t).2 = true → ∀ xs, readStaged (useRanges s d t).1 d t = .ok xs → ∃ u, exec (.stagingComplete d i) s = .next u ∧
        (∀ e j, (e, j) ≠ (d, i.toNat) → u.task e j = { s.task e j with staged := (u.task e j).staged }) ∧
        tstate (u.task d i.toNat) = 4 ∧ tcnt (u.task d i.toNat) = 0 ∧ (u.task d i.toNat).readyAt = now ∧ (u.task d i.toNat).promo = 0 ∧
        (u.task d i.toNat).staged = xs) ∧
    (late → exec (.deadlineExpiry d i) s = .next (retire (discard s d i.toNat) d i.toNat 9)) ∧
    (late → s.regionOfTask d i.toNat = none → ∃ u, exec (.deadlineExpiry d i) s = .next u ∧ Retired s u d i.toNat 9) ∧
    (¬late → exec (.deadlineExpiry d i) s = .next s) ∧
    (let wait := 2 ^ field (s.dieAt d).dcfg 0 5
      let rises := tstate t = 4 ∧ t.promo < tfield t 0 17 3 ∧ t.readyAt + (t.promo + 1) * wait ≤ now
      (rises → exec (.agePromotion d i) s = .next (s.setTask d i.toNat { t with promo := t.promo + 1 })) ∧
      (¬rises → exec (.agePromotion d i) s = .next s))) ∧
  (∀ d i since, (s.dieAt d).blocked = some (i, since) →
    let blocks := (readyList s d).head? = some i ∧ since + 2 ^ field (s.dieAt d).dcfg 5 5 ≤ (s.dieAt d).ctr
    (blocks → exec (.headBlock d) s = .next (s.setDie d { s.dieAt d with headOnly := true })) ∧ (¬blocks → exec (.headBlock d) s = .next s))

/-- R240, R246, R248, R260, R261, R404: `TASK_SELECT`: while fewer than two loads are in progress, the first task of the ready list that
can be placed enters LOADING in a new region at its origin; once a head has blocked the list, no task is placed
before it but stream successors of running tasks (log entry 117). -/
def Sys2Proof.Claims.TasksAreSelected : Prop := ∀ (s : State) (d : BitVec 4) (used : List (Nat × Nat)) (head : Nat) (rest : List Nat),
  let s0 := charge s d used
  let s1 := noteHead s0 d head
  let blocks := fun (i : Nat) => (s1.dieAt d).headOnly = true ∧ (s1.dieAt d).blocked.map Prod.fst = some i ∧ i ∈ readyList s1 d
  let may := fun (j : Nat) => (∀ i, ¬blocks i) ∨ blocks j ∨ hasRunningFeeder s1 d j = true
  (s.admitted d = false → exec (.taskSelect d used) s = .next s0) ∧
  (s.admitted d = true → returning s0 d = none → 2 ≤ loadsOn s0 d → exec (.taskSelect d used) s = .next s0) ∧
  (s.admitted d = true → returning s0 d = none → loadsOn s0 d < 2 → readyList s0 d = [] → exec (.taskSelect d used) s = .next s0) ∧
  (∀ before i after o h k c, s.admitted d = true → returning s0 d = none → loadsOn s0 d < 2 → readyList s0 d = head :: rest →
    readyList s1 d = before ++ [i] ++ after → (∀ j ∈ before, may j → (placement s1 d j).leaves = false) → may i → placement s1 d i = .at o h k →
    let w := stripTouch s1 d (s1.task d i).part (s1.task d i).image h.size
    w.2 = true → readCourse w.1 d (s1.task d i).part (s1.task d i).image h k = .ok c → (s1.task d i).restore = false → ∃ t, exec (.taskSelect d used) s = .next t ∧
      tstate (t.task d i) = 5 ∧ OnlyTask s1 t d i ∧ ∃ rid, (t.rg rid).st = .loading ∧ (t.rg rid).task.toNat = i % 16384 ∧ (t.rg rid).die = d ∧
        (t.rg rid).row0 = o.1 ∧ (t.rg rid).col0 = o.2 ∧ (t.rg rid).course = c)

namespace Sys2Proof.Claims

/-- A dispatcher takes a command: it makes no pallet, its die is admitted, and it has taken none in this cycle (R257; log entry 128). -/
def MayTake (s : State) (d : BitVec 4) : Prop := (s.dieAt d).job = none ∧ s.admitted d = true ∧ (s.dieAt d).cmdAt ≠ some s.cycle

/-- The command that the dispatcher of a die takes next: its slot, and the 32 words of its entry (R257, R258). -/
def Takes (s s0 : State) (d : BitVec 4) (op i : Nat) (ws : List Word) : Prop :=
  let a := askRings s d
  let w := a.queueTouch d (a.qslot d i) (a.qslot d i).entryVa 128 false
  MayTake a d ∧ nextSlot a d = some i ∧ w.2 = true ∧ s0 = w.1 ∧
  s0.queueRead d (s0.qslot d i) (s0.qslot d i).entryVa 32 = .ok ws ∧ field (ws.getD 0 0) 24 8 = op

/-- The fields that an OP does not name are zero: bits 23:0 of word 0 and the words from `n` on (R258). -/
def RestZero (ws : List Word) (n : Nat) : Prop := field (ws.getD 0 0) 0 24 = 0 ∧ ∀ w ∈ ws.drop n, w = 0

/-- A queue has stopped with an error (R431). -/
def QueueStops (s t : State) (d : BitVec 4) (i reason : Nat) : Prop :=
  ∀ r, s.queueReg (s.qslot d i).fn (s.qslot d i).q = some r → (s.qslot d i).mapped = true → r.err = 0 →
    ∃ x, t.queueReg r.fn r.q = some x ∧ x.err = reason

/-- The records of a run of places are all FREE, or all TMPL of a partition (R242, R258). -/
def allFree (s : State) (d : BitVec 4) (x n : Nat) : Prop := x + n ≤ 16383 ∧ ∀ k, k < n → tstate (s.task d (x + k)) = 0
def allTemplates (s : State) (d : BitVec 4) (p : BitVec 5) (x n : Nat) : Prop :=
  x + n ≤ 16383 ∧ ∀ k, k < n → tstate (s.task d (x + k)) = 1 ∧ tfield (s.task d (x + k)) 7 11 5 = p.toNat

end Sys2Proof.Claims

/-- R257-R259, R429-R431: the six commands of a queue, each as the dispatcher takes it. A command that fails a check changes no record
and puts its queue in error with reason 2. A die takes one in a cycle, and, as the model has it (log entry 128), none while it makes a
pallet; a reference to a die that is not admitted names no record (log entry 119). -/
def Sys2Proof.Claims.QueueCommands : Prop :=
  (∀ (s : State) (d : BitVec 4), ¬MayTake (askRings s d) d →
    exec (.spawn d) s = .next (askRings s d) ∧ exec (.dec d) s = .next (askRings s d) ∧ exec (.abort d) s = .next (askRings s d) ∧
    exec (.free d) s = .next (askRings s d) ∧ exec (.regt d) s = .next (askRings s d) ∧ exec (.unregt d) s = .next (askRings s d)) ∧
  ∀ (s s0 : State) (d : BitVec 4) (i : Nat) (ws : List Word),
  let q := s0.qslot d i
  let w := fun (k : Nat) => ws.getD k 0
  let s1 := takeEntry s0 d i
  let ref := w 1
  let td : BitVec 4 := ref.extractLsb' 28 4
  let ti := field ref 14 14
  let t := s1.task td ti
  let named := s0.admitted td = true ∧ tgen t = field ref 6 8 ∧ tfield t 7 11 5 = q.part.toNat
  let low := field ref 0 6 = 0
  let n := field (w 1) 24 8 + 1
  let x := field (w 1) 0 14
  let va := (w 2).toNat + (w 3).toNat * 2 ^ 32
  let errs := fun (e : Instr) => ∃ u, exec e s = .next u ∧ QueueStops s1 u d i 2 ∧ ∀ e j, u.task e j = s0.task e j
  (Takes s s0 d 1 i ws → let made := beginPallet s1 d q.part q.tenant q.cls (BitVec.ofNat 6 i) (some (q.fn, q.q)) ((ws.drop 1).take 22) none (some (BitVec.ofNat 6 i))
    (RestZero ws 23 → (∀ u, made = .ok u → exec (.spawn d) s = .next u) ∧
      (∀ e, made = .error e → exec (.spawn d) s = .next (completion s1 d (BitVec.ofNat 6 i) (some (q.fn, q.q)) e 0 0xFF))) ∧ (¬RestZero ws 23 → errs (.spawn d))) ∧
  (Takes s s0 d 2 i ws →
    (RestZero ws 3 → field (w 2) 1 31 = 0 → low → s0.admitted td = true → ∃ u, exec (.dec d) s = .next u ∧
      u.decs = s0.decs ++ [{ id := s0.serial, src := d, ref := ref, exp := (w 2).getLsbD 0, rb := none, part := q.part, leaving := decide (td ≠ d) }] ∧
      ∀ e j, u.task e j = s0.task e j) ∧
    (¬RestZero ws 3 ∨ field (w 2) 1 31 ≠ 0 ∨ ¬low → errs (.dec d))) ∧
  (Takes s s0 d 3 i ws →
    (RestZero ws 2 → low → named → 2 ≤ tstate t → tstate t ≤ 7 → exec (.abort d) s = .next (abortTask s1 td ti)) ∧
    (RestZero ws 2 → low → named → 2 ≤ tstate t → tstate t ≤ 7 → s1.regionOfTask td ti = none → ∃ u, exec (.abort d) s = .next u ∧ Retired s1 u td ti 10) ∧
    (RestZero ws 2 → low → ¬(named ∧ 2 ≤ tstate t ∧ tstate t ≤ 7) → ∃ u, exec (.abort d) s = .next u ∧
      counted s0.dstale u.dstale (if s0.admitted td = true ∧ tstate t ≠ 0 then (Map.get t.w 0 7).extractLsb' 11 5 else q.part) ∧ ∀ e j, u.task e j = s0.task e j) ∧
    (¬RestZero ws 2 ∨ ¬low → errs (.abort d))) ∧
  (Takes s s0 d 4 i ws →
    let ok := RestZero ws 2 ∧ low ∧ named ∧ (tstate t = 1 ∨ (8 ≤ tstate t ∧ tstate t ≤ 10))
    (ok → ∃ u, exec (.free d) s = .next u ∧ OnlyTask s1 u td ti ∧ tstate (u.task td ti) = 0 ∧ tgen (u.task td ti) = (tgen t + 1) % 256) ∧
    (¬ok → errs (.free d))) ∧
  (Takes s s0 d 5 i ws →
    let ok := RestZero ws 4 ∧ field (w 1) 14 10 = 0 ∧ va < 2 ^ 56 ∧ allFree s1 d x n
    (¬ok → errs (.regt d)) ∧
    (∀ ims, ok → rangeWaits s1 d q va (128 * n) = none → (s1.queueTouch d q va (128 * n) false).1.queueRead d q va (32 * n) = .ok ims → ims.length = 32 * n →
      let word := fun (k j : Nat) => ims.getD (32 * k + j) 0
      let succ := fun (k j : Nat) => (word k (18 + 2 * j) ++ word k (17 + 2 * j) : DWord)
      let legal := fun (k : Nat) => 1 ≤ field (word k 1) 0 16 ∧ (∀ j, j < field (word k 0) 7 3 → sucOk (succ k j) = true) ∧ (∀ j, j < 7 → dfield (succ k j) 0 19 = 0) ∧ field (word k 0) 6 1 = 0 ∧
        field (word k 2) 0 6 = 0 ∧ field (word k 3) 24 8 = 0 ∧ field (word k 7) 0 6 = 0 ∧ field (word k 8) 8 7 = 0
      ((∃ k, k < n ∧ ¬legal k) → errs (.regt d)) ∧
      ((∀ k, k < n → legal k) → ∃ u, exec (.regt d) s = .next u ∧ (∀ e j, (e ≠ d ∨ j < x ∨ x + n ≤ j) → u.task e j = s0.task e j) ∧
        ∀ k, k < n → tstate (u.task d (x + k)) = 1 ∧ tgen (u.task d (x + k)) = tgen (s0.task d (x + k)) ∧
          tfield (u.task d (x + k)) 7 11 5 = q.part.toNat ∧ ∀ j, 8 ≤ j → j < 32 → Map.get (u.task d (x + k)).w 0 j = word k j))) ∧
  (Takes s s0 d 6 i ws →
    let ok := RestZero ws 2 ∧ field (w 1) 14 10 = 0 ∧ allTemplates s1 d q.part x n
    (¬ok → errs (.unregt d)) ∧
    (ok → ∃ u, exec (.unregt d) s = .next u ∧ (∀ e j, (e ≠ d ∨ j < x ∨ x + n ≤ j) → u.task e j = s0.task e j) ∧
      ∀ k, k < n → tstate (u.task d (x + k)) = 0 ∧ tgen (u.task d (x + k)) = (tgen (s0.task d (x + k)) + 1) % 256))

/-- R242, R252, R258, R266: pallets. A malformed template is refused with 2, one for which there is no run of FREE records with 1;
else each record is copied, one in each die cycle, with its moved successors, renamed bindings and new fields, and then the
records that have nothing to wait for enter, one in each cycle; the reference of the first follows the last of them. Where the search for a run begins again is the model's reading
(log entry 73). -/
def Sys2Proof.Claims.PalletsAreMade : Prop := ∀ (s : State) (d : BitVec 4),
  (∀ (p : BitVec 5) (tenant : BitVec 16) (prio : Nat) (slot : BitVec 6) (queue : Option (BitVec 12 × BitVec 6)) (ws : List Word) (req : Option Nat) (cq : Option (BitVec 6)),
    let w := fun (k : Nat) => ws.getD k 0
    let n := field (w 0) 24 8 + 1
    let base := field (w 0) 0 14
    let cont : DWord := w 3 ++ w 2
    let formed := field (w 0) 14 10 = 0 ∧ field (w 5) 1 31 = 0 ∧ sucOk cont = true ∧ dfield cont 0 19 = 0 ∧ allTemplates s d p base n
    let place := fun (k : Nat) => ((s.dieAt d).cursor + k) % 16383
    let made := beginPallet s d p tenant prio slot queue ws req cq
    (¬formed → made = .error 2) ∧
    (formed → (∀ k, k < 16383 → ¬allFree s d (place k) n) → made = .error 1) ∧
    (formed → ∀ k, k < 16383 → allFree s d (place k) n → (∀ m, m < k → ¬allFree s d (place m) n) → ∃ u j, made = .ok u ∧
      OnlyDie s u d ∧ (u.dieAt d).task = (s.dieAt d).task ∧ (u.dieAt d).job = some j ∧ (u.dieAt d).cursor = (place k + n) % 16383 ∧
      j.first = place k ∧ j.written = 0 ∧ j.entered = 0 ∧ j.req = req ∧ j.slot = cq ∧ j.recs.length = n ∧
      ∀ i x, j.recs[i]? = some x →
        let m := s.task d (base + i)
        let word := fun (c : Nat) => Map.get x.w 0 c
        let handle := fun (y : Task) (b : Nat) => tfield y (9 + b / 2) (16 * (b % 2)) 16
        let succ := fun (y : Task) (c : Nat) => (Map.get y.w 0 (18 + 2 * c) ++ Map.get y.w 0 (17 + 2 * c) : DWord)
        tstate x = 2 ∧ tgen x = tgen (s.task d (place k + i)) ∧ x.tenant = tenant ∧ x.queue = queue ∧ tcnt x = tfield m 1 0 16 ∧ tfield x 0 14 1 = 0 ∧
        tfield x 8 15 1 = 0 ∧ tfield x 8 0 8 = 0 ∧ tfield x 0 17 3 = max (tfield m 0 17 3) prio % 8 ∧ tfield x 0 0 6 = slot.toNat ∧
        word 31 = w 4 ∧ tfield x 0 11 1 = (if (w 5).getLsbD 0 then 1 else tfield m 0 11 1) ∧
        word 4 = (if w 1 = 0 then Map.get m.w 0 4 else w 1) ∧
        (∀ b, b < 16 → let renames := fun (y : Nat) => field (w (6 + y)) 0 16 = handle m b ∧ field (w (6 + y)) 0 16 ≠ 0xFFFF
          (∀ y, y < 16 → renames y → (∀ z, z < y → ¬renames z) → handle x b = field (w (6 + y)) 16 16) ∧
          ((∀ y, y < 16 → ¬renames y) → handle x b = handle m b)) ∧
        (∀ c, c < 7 → let e := succ m c
          let inside := e.getLsbD 51 = true ∧ dfield e 47 4 = d.toNat ∧ base ≤ dfield e 33 14 ∧ dfield e 33 14 < base + n
          let at_ := place k + (dfield e 33 14 - base)
          (inside → dfield (succ x c) 33 14 = at_ ∧ dfield (succ x c) 25 8 = tgen (s.task d at_) ∧ dfield (succ x c) 47 17 = dfield e 47 17 ∧
            dfield (succ x c) 0 25 = dfield e 0 25) ∧
          (¬inside → e.getLsbD 51 = true ∧ dfield e 33 14 = 16383 → succ x c = cont) ∧
          (¬inside → ¬(e.getLsbD 51 = true ∧ dfield e 33 14 = 16383) → succ x c = e)))) ∧
  (∀ j, (s.dieAt d).job = some j →
    let u := palletTick s d
    let i := j.first + j.entered
    let enters := tcnt (s.task d i) = 1 ∧ tstate (s.task d i) = 2
    let rest : PalletJob := { j with entered := j.entered + 1 }
    (∀ x, j.recs[j.written]? = some x → (s.dieAt d).ctr + (Map.get x.w 0 4).toNat < 2 ^ 64 → OnlyTask s u d (j.first + j.written) ∧
      let y := u.task d (j.first + j.written)
      (∀ k, k ≠ 5 → k ≠ 6 → Map.get y.w 0 k = Map.get x.w 0 k) ∧ y.tenant = x.tenant ∧
      tdeadline y = (if Map.get x.w 0 4 = 0 then 2 ^ 64 - 1 else (s.dieAt d).ctr + (Map.get x.w 0 4).toNat) ∧
      (u.dieAt d).job = some { j with written := j.written + 1 }) ∧
    (j.recs[j.written]? = none → j.entered + 1 < j.recs.length → u =
      (if enters then enter (s.updDie d (fun x => { x with job := some rest })) d i else s.updDie d (fun x => { x with job := some rest }))) ∧
    (j.recs[j.written]? = none → j.recs.length ≤ j.entered + 1 → ¬enters → ∀ id r, j.slot = none → j.req = some id → s.req id = some r →
      (u.dieAt d).job = none ∧ (∀ e k, u.task e k = s.task e k) ∧
      Answered s u r { words := [⟨BitVec.ofNat 32 (d.toNat * 2 ^ 28 + j.first * 2 ^ 14 + tgen (s.task d j.first) * 2 ^ 6), false⟩] })) ∧
  ((s.dieAt d).job = none → palletTick s d = s)

/-- R430, R431: doorbells. A value in the ring that does not move back announces its entries; any other puts the queue in error with
reason 3; an unmapped queue is mapped first, where its record still has its hash; an idle slot makes room for a held doorbell. -/
def Sys2Proof.Claims.Doorbells : Prop := ∀ (s : State) (fn : BitVec 12) (k : BitVec 6) (v : Word) (r : QReg),
  (s.edgeOpen (s.fnPort fn) = false → exec (.queueDoorbell fn k v) s = .next s) ∧
  (s.edgeOpen (s.fnPort fn) = true → s.queueReg fn k = some r →
  (r.err ≠ 0 → exec (.queueDoorbell fn k v) s = .next s) ∧
  (∀ i, r.err = 0 → s.slotOf r = some i →
    let q := s.qslot r.die i
    let n := 2 ^ field (Map.get q.rec_ 0 8) 0 8
    let ahead := fun (b : Nat) => (b + n - q.head % n) % n
    (v.toNat < n → ahead q.bell ≤ ahead v.toNat →
      exec (.queueDoorbell fn k v) s = .next (s.setQslot r.die i { q with bell := v.toNat, idleSince := (s.dieAt r.die).ctr })) ∧
    (n ≤ v.toNat ∨ ahead v.toNat < ahead q.bell → ∃ t x, exec (.queueDoorbell fn k v) s = .next t ∧ t.queueReg fn k = some x ∧ x.err = 3)) ∧
  (∀ i bs, r.err = 0 → s.slotOf r = none → s.openSlot r.die r.part = some i →
    s.readPart r.part r.addr.toNat 0x90 (s.stagingStamp r.part).keyid = .ok bs → bs.length = 0x90 →
    (sha256 (bs.take 0x80) ≠ r.shadow → ∃ t x, exec (.queueDoorbell fn k v) s = .next t ∧ t.queueReg fn k = some x ∧ x.err = 1) ∧
    (sha256 (bs.take 0x80) = r.shadow → ∃ t, exec (.queueDoorbell fn k v) s = .next t ∧ (t.qslot r.die i).mapped = true ∧
      (t.qslot r.die i).fn = fn ∧ (t.qslot r.die i).q = k ∧ (t.qslot r.die i).part = r.part))) ∧
  (∀ d (i : BitVec 6),
    let q := s.qslot d i.toNat
    let n := 2 ^ field (Map.get q.rec_ 0 8) 0 8
    let waits := ∃ y ∈ s.qreg, y.die = d ∧ y.part = q.part ∧ (y.bell ≠ none ∨ y.pend ≠ [])
    let leaves := q.mapped = true ∧ (q.bell + n - q.head % n) % n = 0 ∧ q.pend = [] ∧ q.idleSince + 1048576 ≤ (s.dieAt d).ctr
    (leaves → waits → exec (.queueIdleUnmap d i) s = .next (serveHeld (unmapSlot s d i.toNat) d q.part)) ∧
    (¬(leaves ∧ waits) → exec (.queueIdleUnmap d i) s = .next s))

namespace Sys2Proof.Claims

/-- Every record but one stays, save for the ports that a discarded predecessor breaks (R255). -/
def OtherTasks (s u : State) (d : BitVec 4) (i : Nat) : Prop :=
  ∀ e j, (e, j) ≠ (d, i) → u.task e j = { s.task e j with broken := (u.task e j).broken }

/-- A region's course ends with its task in a retired state: its tiles are free (R240, R248, R250). -/
def CourseEnds (s u : State) (rid : Nat) (g : Region) (code : Nat) : Prop :=
  let old := s.task g.die g.task.toNat
  let new := u.task g.die g.task.toNat
  (tfield old 0 11 1 = 1 → tstate new = code ∧ tgen new = tgen old) ∧
  (tfield old 0 11 1 = 0 → tstate new = 0 ∧ tgen new = (tgen old + 1) % 256) ∧
  OtherTasks s u g.die g.task.toNat ∧ Map.find u.region rid = none

/-- A failed task that keeps its record says why (R248). -/
def Cause (s u : State) (g : Region) (c : Nat) : Prop :=
  tfield (s.task g.die g.task.toNat) 0 11 1 = 1 → tfield (u.task g.die g.task.toNat) 8 0 8 = c

/-- The count of tokens that a sink must deliver: a constant of the image, or the low word of a binding (R238, R239). -/
def sinkCount (g : Region) (t : Task) (i : Nat) : Nat :=
  let w := g.sinkWord i 0
  if w.getLsbD 16 then (t.binds.getD (field w 0 4) (0, 0)).1.toNat % 2 ^ 32 else (g.sinkWord i 1).toNat

end Sys2Proof.Claims

/-- R30, R42, R45, R248, R250, R254, R262, R263: the load and the opening of a course. The first tile's write is preceded by
the checks, once the write has come from the dispatcher, and one that fails ends the task FAILED with its cause and reports the slot, and no node leaves OFF; else the tile is written and acknowledged, and with
the last one the edges stand. OPEN puts a tile's nodes in RUN with P := PINIT, once every tile has acknowledged, and the first
one puts the task in RUNNING, with a decrement to each stream successor.
Where the report goes, and where checks that are no slot's stand in the order, is the model's (log entries 50, 51). -/
def Sys2Proof.Claims.CoursesLoadAndOpen : Prop := ∀ (s : State) (rid : Nat) (g : Region) (t : BitVec 11),
  Map.find s.region rid = some g → g.holds ⟨g.die, t⟩ = true →
  let d := g.die
  let i := g.task.toNat
  let task := s.task d i
  let bad := courseError s g task.image g.course task.staged
  let complete := ∀ x ∈ g.tiles, x.tile ∈ g.acked
  let mine := g.nodesIn t
  (configHere s rid ⟨d, t⟩ = false → exec (.tileLoadAck rid t) s = .next s) ∧
  (g.st = .loading → t ∉ g.acked → configHere s rid ⟨d, t⟩ = true →
    (∀ x, g.acked = [] → bad = some x → ∃ u, exec (.tileLoadAck rid t) s = .next u ∧ CourseEnds s u rid g 10 ∧ Cause s u g x.cause.toNat ∧
      ∃ y ∈ u.traps, y.dest = none ∧ y.part = g.part ∧ (y.w.getD 0 0).extractLsb' 9 23 = x.node.die ++ x.node.tile ++ x.node.elem ++ x.node.node ∧
        field (y.w.getD 0 0) 0 8 = x.cause.toNat ∧ field (y.w.getD 1 0) 24 4 = (x.slot.getD 0) % 16) ∧
    (g.acked ≠ [] ∨ bad = none → ∃ u, exec (.tileLoadAck rid t) s = .next u ∧ u.rg rid = { g with acked := t :: g.acked } ∧ u.die = s.die ∧
      (isMemTile t = false → ∀ e n : BitVec 4,
        let y := g.course.node (g.placeOf t) e.toNat n.toNat
        let nd := u.nd ⟨d, t, e, n⟩
        nd.st = .off ∧ nd.flight = none ∧ (∀ x, y = some x → nd.pool = x.pool ∧ nd.ncfg = x.ncfg ∧ ∀ r, Map.get nd.g {} r = ⟨Map.get x.g 0 r, false⟩)) ∧
      ((∀ x ∈ g.tiles, x.tile ∈ t :: g.acked) → ∀ x ∈ g.course.edges, ∃ ed ∈ Map.values u.edge, ed.src = g.portAt x.1 ∧
        ed.dst = g.portAt x.2.1 ∧ ed.back = x.2.2 ∧ ed.credits = 4 ∧ ed.flight = []))) ∧
  (g.st = .loading ∨ g.st = .running → t ∉ g.opened → (∀ n ∈ mine, (s.nd n).aligned = none) →
    (¬complete → exec (.regionOpen rid t) s = .next s) ∧
    (complete → ∃ u, exec (.regionOpen rid t) s = .next u ∧ (u.rg rid).st = .running ∧ (u.rg rid).opened = t :: g.opened ∧
      (∀ n ∈ mine, (u.nd n).st = .run ∧ (u.nd n).p = (s.nd n).ncfg.extractLsb' 16 8) ∧ (∀ n, n ∉ mine → u.nd n = s.nd n) ∧
      (g.st = .loading → OtherTasks s u d i ∧ tstate (u.task d i) = 6 ∧ (u.task d i).staged = [] ∧
        ∀ k, k < tfield task 0 7 3 → let e := task.succ k
          sucKind e = 2 → sucLoc e = true → s.admitted (sucDie e) = true → ∃ m ∈ u.decs,
            m.ref = BitVec.ofNat 32 ((sucDie e).toNat * 2 ^ 28 + sucIndex e * 2 ^ 14 + sucGen e * 2 ^ 6) ∧ m.exp = false) ∧
      (g.st = .running → ∀ e j, u.task e j = { s.task e j with broken := (u.task e j).broken })))

/-- R248, R253, R255, R264, R265, R382: the end of a course. `STREAM_END` closes the one route into a port; quiescence takes the task to DRAINING,
or to FAILED with SINK where a sink is below its count; the reconfiguration token retires it DONE, LATE at its deadline,
once every write is acknowledged; a stalled region is reported and counts anew. That quiescence waits for empty store buffers
and pod queues is read from R376, R414 and R461 (log entry 118). The origin word of the stall record, the region's north-west
tile with SRCK 1, is the model's (log entry 29). -/
def Sys2Proof.Claims.CoursesEnd : Prop := ∀ (s : State) (rid : Nat) (g : Region), Map.find s.region rid = some g →
  let d := g.die
  let i := g.task.toNat
  let task := s.task d i
  let met := ∀ k, k < g.hdr.nsnk → sinkCount g task k ≤ Map.get g.sinks 0 k
  let stored := ∀ x ∈ s.elem, g.holds (elemOfKey x.1).tileRef = true → x.2.sbuf = [] ∧ x.2.podq = []
  let quiet := g.snap = none ∧ g.done = [] ∧ 4 * (g.hdr.w + g.hdr.h) + 32 ≤ g.idle ∧ stored
  let empty := stored ∧ ∀ x ∈ s.die, ∀ y ∈ x.2.engine, ∀ c ∈ y.2.queue, c.region ≠ some rid
  (∀ (p : BitVec 3) e, routesInto s rid p.toNat = [e] → Map.find s.edge e.id = some e → e.ended = true → e.flight = [] →
    tokensOut s e = [] → feedersOf s rid p.toNat = [] → (∀ x ∈ task.broken, x.1 ≠ p.toNat) → ∃ u,
    exec (.streamEnd rid p) s = .next u ∧ u.rg rid = { g with iend := g.iend ||| (1 <<< p.toNat) } ∧ Map.find u.edge e.id = none ∧
    (∀ j, j ≠ e.id → u.ed j = s.ed j) ∧ u = { s with edge := u.edge, region := u.region, net := u.net }) ∧
  (∀ (p : BitVec 3) e, routesInto s rid p.toNat = [e] → (e.ended = false ∨ e.flight ≠ [] ∨ tokensOut s e ≠ []) →
    exec (.streamEnd rid p) s = .next s) ∧
  (g.st = .running →
    (¬quiet → exec (.quiescence rid) s = .next s) ∧
    (quiet → met → ∃ u, exec (.quiescence rid) s = .next u ∧ u.rg rid = { g with st := .draining } ∧ OnlyTask s u d i ∧ tstate (u.task d i) = 7 ∧
      (∀ x ∈ g.oport, ∀ e ed, x.2 = some e → Map.find s.edge e = some ed → (u.ed e).ended = true) ∧ u.node = s.node ∧ u.mem = s.mem) ∧
    (quiet → ¬met → ∃ u, exec (.quiescence rid) s = .next u ∧ CourseEnds s u rid g 10 ∧ Cause s u g 0x14)) ∧
  (g.st = .draining →
    (¬empty → exec (.reconfigTokenPass rid) s = .next s) ∧
    (empty → ∃ u, exec (.reconfigTokenPass rid) s = .next u ∧ CourseEnds s u rid g 8 ∧
      (tdeadline task ≤ (s.dieAt d).ctr → tfield task 0 11 1 = 1 → tfield (u.task d i) 8 15 1 = 1))) ∧
  (g.st = .running →
    let w := tfield task 7 6 5
    let t := g.row0 * 64 + g.col0
    (w ≠ 0 ∧ 2 ^ w ≤ g.stall → t < 2048 → ∃ u, exec (.stallWatchdog rid) s = .next u ∧ u.rg rid = { g with stall := 0 } ∧
      (∃ x : Trap, u.traps = s.traps ++ [x] ∧ x.dest = none ∧ x.part = g.part ∧
        x.w = [BitVec.ofNat 32 (d.toNat * 2 ^ 28 + t * 2 ^ 17 + 2 ^ 8 + 0x0E), 0, 0, 0]) ∧
      u = { s with traps := u.traps, region := u.region, serial := u.serial }) ∧
    (w = 0 ∨ g.stall < 2 ^ w → exec (.stallWatchdog rid) s = .next s))

/-- R380, R382: `TRAP_RECORD_DELIVERY` of a record that has come. One without a receiver, or whose receiver is OFF or FAULTED, goes to the event log; else its four words
and a STOP1 enter the receiver's ci3 as far as it has room, and a later record waits for the whole of it. That the rest of a
record, part of which has entered, follows also where its receiver has faulted since is the model's (log entry 78). -/
def Sys2Proof.Claims.TrapRecordsArrive : Prop := ∀ (s : State) (i : Nat) (t : Trap), s.traps[i]? = some t → trapHere s t = true →
  let gone := s.traps.eraseIdx i
  let logged := logEvent { s with traps := gone } t.part (t.w.getD 0 0) ((t.w.getD 0 0).extractLsb' 0 8) ((t.w.getD 0 0).extractLsb' 28 4 |>.setWidth 5)
  (t.dest = none → exec (.trapRecordDelivery i) s = .next logged) ∧
  (∀ n, t.dest = some n → (∃ x ∈ s.traps.take i, x.dest = some n) → exec (.trapRecordDelivery i) s = .next s) ∧
  (∀ n, t.dest = some n → (∀ x ∈ s.traps.take i, x.dest ≠ some n) →
    let off := (s.nd n).st = .off ∨ ((s.nd n).st = .faulted ∧ t.left = [])
    let ts : List Token := if t.left = [] then t.w.map (fun v => { payload := v }) ++ [{ kind := 2 }] else t.left
    let room := 4 - ((s.nd n).ciq 3).length
    (off → exec (.trapRecordDelivery i) s = .next logged) ∧
    (¬off → ∃ u, exec (.trapRecordDelivery i) s = .next u ∧ (u.nd n).ciq 3 = (s.nd n).ciq 3 ++ ts.take room ∧ OnlyInput s u n 3 ∧
      u.traps = (if ts.length ≤ room then gone else s.traps.set i { t with left := ts.drop room }) ∧ u.mem = s.mem ∧ u.edge = s.edge))

namespace Sys2Proof.Claims

/-- A field of a stream descriptor (R346). -/
def sfield (d : List Word) (w lo n : Nat) : Nat := field (d.getD w 0) lo n

/-- Iterations of dimension `j`, elements of one iteration of dimension `k`, and the index of dimension `j` at place `i` (R348). -/
def dim (d : List Word) (j : Nat) : Nat := sfield d (3 + j / 2) (16 * (j % 2)) 16 + 1
def inner (d : List Word) (k : Nat) : Nat := ((List.range k).map (dim d)).prod
def index (d : List Word) (i j : Nat) : Nat := i / inner d j % dim d j

/-- The address at place `i` of a sequence without indirection and with one buffer (R348). -/
def placeAddr (d : List Word) (i : Nat) : Nat :=
  let steps : Int := ((List.range 4).map (fun j => (index d i j : Int) * (d.getD (5 + j) 0).toInt)).sum
  ((((d.getD 1 0).toNat + (d.getD 2 0).toNat * 2 ^ 32 : Nat) + steps) % 2 ^ 56).toNat

/-- The stop that closes place `i`, if one does: the highest dimension that ends there and has one (R348). -/
def stopAfter (d : List Word) (i : Nat) : List Token :=
  let ends := fun (k : Nat) => (i + 1) % inner d k = 0 ∧ sfield d 0 (18 + k) 1 = 1
  if ends 3 then [{ kind := 4 }] else if ends 2 then [{ kind := 3 }] else if ends 1 then [{ kind := 2 }] else []

/-- A stream of one word a place over its tile's own store: no scales, no packing, no ragged rows, no indirection, one buffer. -/
def plainStream (d : List Word) (mode : Nat) : Prop :=
  sfield d 0 0 4 = mode ∧ sfield d 0 7 1 = 0 ∧ sfield d 0 11 2 = 0 ∧ sfield d 0 28 4 = 0 ∧ sfield d 9 31 1 = 0 ∧ sfield d 10 31 1 = 0

/-- A stream runs on a port. -/
def runs (s : State) (t : TileRef) (p : BitVec 4) (st : Stream) : Prop := (s.tport t p).stream = some st ∧ st.frozen = false ∧ st.held = none

/-- Only one port of one tile differs. -/
def OnlyPort (s u : State) (t : TileRef) (p : BitVec 4) : Prop := (∀ q, q ≠ p → u.tport t q = s.tport t q) ∧ ∀ x, x ≠ t → u.tl x = s.tl x

/-- The cause that refuses a word of the tile's own store to a stream (R280, R347, R348). -/
def refusal_ (s : State) (t : TileRef) (va : Nat) : Option (BitVec 8) :=
  if 0x80000 ≤ va then some 0x07
  else if s.bankMode t (va / 0x8000) = 1 ∨ s.bankMode t (va / 0x8000) = 2 then some 0x07
  else if va % 4 ≠ 0 then some 0x0A
  else none

/-- A stream may access a word of the tile's own store in this cycle: the bank is free, no request that can be performed came to it
before the stream did, and no store stands between two words of which this is the second (R281, R323). -/
def bankOpen (s : State) (t : TileRef) (st : Stream) (va : Nat) (write : Bool) : Prop :=
  (∀ c, Map.find (s.tl t).bankAt (va / 0x8000) = some c → c < s.cycle) ∧
  (∀ r, s.bankHead t (va / 0x8000) = some r → r.since < st.since.getD s.cycle → stuck s r = true) ∧
  (write = true → s.beingWritten (tilePa t va) = false)

/-- A stream notes the cycle in which its access came to the bank, and waits. -/
def PortWaits (s : State) (t : TileRef) (p : BitVec 4) (st : Stream) : State :=
  s.setTport t p { s.tport t p with stream := some { st with since := some (st.since.getD s.cycle) } }

/-- The presence read of one word by a stream, as it stands deferred at its bank (R283, R347). -/
def presenceRead (s : State) (t : TileRef) (p : BitVec 4) (st : Stream) (va : Nat) : Req :=
  { id := s.serial, who := .port t p, stamp := st.stamp, va := BitVec.ofNat 56 va, op := .presRead 1, stage := .deferred,
    pas := [(tilePa t va, st.stamp.keyid)], fwd := [none], leaving := false }

/-- The acknowledgement of a written word is on its way to the command's tag; tag 0 is none (R354). -/
def Acked (s u : State) (d : List Word) (st : Stream) (bad : Bool) : Prop :=
  if d.getD 14 0 = 0 then u.tags = s.tags
  else ∃ n, u.tags = s.tags ++ [{ id := n, ref := d.getD 14 0, tenant := st.stamp.tenant, n := 1, err := bad }]

end Sys2Proof.Claims

/-- R263, R281, R283, R346-R349, R352, R394: memory-tile streams. A queued command starts once its port, its generator and the
tile are free for it. A READ turns each place's word into a token, and a stop where a dimension ends; a refused word is POISON with the
port's origin and sets ERR; the read of an EMPTY presence word is deferred at its bank while that has room, and its answer gives the
token; at its end the stream is gone, with its ticket and ERR kept. A WRITE stores each DATA or POISON token at its place and acknowledges
it, moves on at a stop and drops the other kinds; in a presence bank it fills the word, and a word that is not EMPTY refuses it. Both
wait for a bank that has been accessed in the cycle, or at which another access came first. A lane stream injects k-values as far as the
lane has room, and a FIFO port fills its banks' queue; the bank in which a token of it stands is the model's (log entry 121). A queued
command that a snapshot holds back does not start. -/
def Sys2Proof.Claims.StreamsRun : Prop := ∀ (s : State) (t : TileRef) (p : BitVec 4), isMemTile t.tile = true →
  let bank := fun (va : Nat) => s.bankMode t (va / 0x8000)
  let origin := fun (d : List Word) (c : BitVec 8) => BitVec.ofNat 32 (t.die.toNat * 2 ^ 28 + t.tile.toNat * 2 ^ 17 + p.toNat * 2 ^ 13 + sfield d 0 4 3 * 2 ^ 9 + 2 ^ 8 + c.toNat)
  (∀ c, (s.tl t).queue.find? (fun c => decide (c.port = p)) = some c → sfield c.desc 16 0 5 = 0 →
    let free := fun (q : BitVec 4) => ∀ x ∈ (s.tl t).ports, ∀ y, x.2.stream = some y → x.1 ≠ q.toNat ∧ (6 ≤ sfield y.desc 0 0 4 → field (y.desc.getD 11 0) 0 4 ≠ q.toNat)
    let starts := free p ∧ (6 ≤ sfield c.desc 0 0 4 → free (BitVec.ofNat 4 (sfield c.desc 11 0 4))) ∧
      (∀ x ∈ (s.tl t).ports, ∀ y, x.2.stream = some y → sfield y.desc 0 4 3 ≠ sfield c.desc 0 4 3) ∧
      ∀ r, s.regionOf t = some r → c.region ≠ r ∨ t.tile ∈ (s.rg r).opened
    let starts := starts ∧ keptBack s t c = false
    (¬starts → exec (.streamStart t p) s = .next s) ∧
    (starts → ∃ u x, exec (.streamStart t p) s = .next u ∧ (u.tport t p).stream = some x ∧ x.desc = c.desc ∧ x.ticket = c.ticket ∧
      x.stamp = c.stamp ∧ x.i = 0 ∧ (u.tport t p).drops = false ∧ (u.tl t).queue = (s.tl t).queue.erase c ∧ OnlyPort s u t p ∧ u = { s with tile := u.tile })) ∧
  (∀ st, runs s t p st → plainStream st.desc 0 → st.out = [] →
    let d := st.desc
    let va := placeAddr d st.i
    let pa := tilePa t va
    (st.i < inner d 4 →
      let sends := fun (tok : Token) (bad : Bool) => ∃ u x, exec (.streamEmit t p) s = .next u ∧ (u.tport t p).stream = some x ∧
        x.out = tok :: stopAfter d st.i ∧ x.i = st.i + 1 ∧ x.err = (st.err || bad) ∧ x.desc = d ∧ OnlyPort s u t p ∧
        u = { s with tile := u.tile, region := u.region, reqs := s.reqs.filter (fun r => decide (r.who ≠ .port t p)), resps := s.resps.filter (fun r => decide (r.who ≠ .port t p)) }
      let data := fun (w : PWord) => (if w.psn then { kind := 6, payload := w.val } else { fmt := BitVec.ofNat 3 (sfield d 0 8 3), payload := w.val } : Token)
      (refusal_ s t va = none → ¬bankOpen s t st va false → exec (.streamEmit t p) s = .next (PortWaits s t p st)) ∧
      (bankOpen s t st va false → (∀ r ∈ s.reqs, r.who ≠ .port t p) →
        (∀ c, refusal_ s t va = some c → sends { kind := 6, payload := origin d c } true) ∧
        (refusal_ s t va = none → bank va = 0 → sends (data (s.loadUnder pa st.stamp.keyid)) false) ∧
        (refusal_ s t va = none → bank va = 3 → (∀ x ∈ s.resps, x.who ≠ .port t p) →
          let w := (s.loadUnder pa st.stamp.keyid).val
          let r := presenceRead s t p st va
          (s.presAt pa = .empty → exec (.streamEmit t p) s = .next (if s.deferRoom r then { s with serial := s.serial + 1, reqs := s.reqs ++ [r] } else s)) ∧
          (s.presAt pa = .full → sends (data ⟨w, false⟩) false) ∧
          (s.presAt pa = .poison → sends (data ⟨w, true⟩) false))) ∧
      (bankOpen s t st va false → refusal_ s t va = none → bank va = 3 → ∀ x w, s.resps.find? (fun x => decide (x.who = .port t p)) = some x →
        x.ans.words = [w] → sends (data w) false)) ∧
    (inner d 4 ≤ st.i → sfield d 16 0 5 = 0 → d.getD 15 0 = 0xFFFFFFFF → ∃ u, exec (.streamEmit t p) s = .next u ∧
      u.tport t p = { s.tport t p with stream := none, last := st.ticket, err := st.err } ∧ OnlyPort s u t p ∧ u = { s with tile := u.tile })) ∧
  (∀ st tok q, runs s t p st → plainStream st.desc 1 → (s.tport t p).inq = tok :: q → st.i + 1 < inner st.desc 4 → Memory.wf s.mem = true →
    (∀ r ∈ s.reqs, r.stage ≠ .deferred) →
    let d := st.desc
    let va := placeAddr d st.i
    let pa := tilePa t va
    let takes := fun (u : State) (i : Nat) (bad : Bool) => exec (.streamEmit t p) s = .next u ∧ (u.tport t p).inq = q ∧
      (u.tport t p).freed = (s.tport t p).freed + 1 ∧ OnlyPort s u t p ∧ ∃ x, (u.tport t p).stream = some x ∧ x.i = i ∧ x.err = (st.err || bad) ∧ x.desc = d
    (tok.kind = 0 ∨ tok.kind = 6 → refusal_ s t va = none → ¬bankOpen s t st va true → exec (.streamEmit t p) s = .next (PortWaits s t p st)) ∧
    (tok.kind = 0 ∨ (tok.kind = 6 ∧ (s.rg st.region).logged = true) → refusal_ s t va = none → bankOpen s t st va true → s.barrierAt pa = false →
      (bank va = 0 → ∃ u, takes u (st.i + 1) false ∧ u.loadUnder pa st.stamp.keyid = ⟨tok.payload, decide (tok.kind = 6)⟩ ∧ OnlyWords s u [pa] ∧
        Acked s u d st (decide (tok.kind = 6))) ∧
      (bank va = 3 → s.presAt pa = .empty → ∃ u, takes u (st.i + 1) false ∧ (u.loadUnder pa st.stamp.keyid).val = tok.payload ∧
        u.presAt pa = (if tok.kind = 6 then .poison else .full) ∧ OnlyWords s u [pa] ∧ Acked s u d st (decide (tok.kind = 6))) ∧
      (bank va = 3 → s.presAt pa ≠ .empty → ∃ u, takes u (st.i + 1) true ∧ u.mem = s.mem ∧ Acked s u d st true)) ∧
    (tok.kind = 0 ∨ tok.kind = 6 → refusal_ s t va ≠ none → ∃ u, takes u (st.i + 1) true ∧ u.mem = s.mem ∧ Acked s u d st true) ∧
    (∀ k, 1 ≤ k → k ≤ 3 → tok.kind.toNat = k + 1 →
      let next := if st.i % inner d k = 0 then st.i else (st.i / inner d k + 1) * inner d k
      next < inner d 4 → ∃ u, takes u next false ∧ u.mem = s.mem ∧ u.tags = s.tags) ∧
    (tok.kind = 5 ∨ tok.kind = 7 → ∃ u, takes u st.i false ∧ u.mem = s.mem ∧ u.tags = s.tags)) ∧
  (∀ st l x xs e, (s.tport t p).stream = some st → (st.frozen = true ∨ st.held = none) → sfield st.desc 0 0 4 = 2 ∨ sfield st.desc 0 0 4 = 3 →
    st.lanes = (l, x) :: xs →
    let b := decide (sfield st.desc 0 0 4 = 3)
    let m := (s.el e).mx
    let full := m.st = .off ∨ m.shut = true ∨ 8 ≤ (m.buf b).countP (fun x => x.mark.isNone)
    laneFromTile t b l = some (.elem e) → (full → exec (.streamEmit t p) s = .next s) ∧
      (¬full → ∃ u, exec (.streamEmit t p) s = .next u ∧ (u.el e).mx = m.setBuf b (m.buf b ++ [x]) ∧ (∀ a, a ≠ e → u.el a = s.el a) ∧
        (u.tport t p).stream = some { st with lanes := xs } ∧ OnlyPort s u t p ∧ u.node = s.node ∧ u.mem = s.mem)) ∧
  (∀ st tok q, runs s t p st → sfield st.desc 0 0 4 = 7 → (s.tport t p).inq = tok :: q →
    let b := (sfield st.desc 1 0 32 + sfield st.desc 2 0 24 * 2 ^ 32) / 0x8000
    let held := Map.get (s.tl t).fifo [] b
    let may := unitMay s st.since (fifoPa s t b held.length) true
    (8192 * (sfield st.desc 0 28 4 + 1) ≤ held.length → exec (.streamEmit t p) s = .next s) ∧
    (held.length < 8192 * (sfield st.desc 0 28 4 + 1) → may = false → exec (.streamEmit t p) s = .next (PortWaits s t p st)) ∧
    (held.length < 8192 * (sfield st.desc 0 28 4 + 1) → may = true → ∃ u, exec (.streamEmit t p) s = .next u ∧ Map.get (u.tl t).fifo [] b = held ++ [tok] ∧
      (u.tport t p).inq = q ∧ OnlyPort s u t p ∧ u.mem = s.mem))

/-- R177, R353, R354, R378: `TAG_ACK`, once the acknowledgement has come over virtual network 1, adds an acknowledgement to a live tag, or drops it with an entry in the event log; `TAG_TOKEN` sends the token
of a satisfied tag, POISON where a write failed, and the tag is free.
The origin word of the entry is the model's reading (log entry 29). -/
def Sys2Proof.Claims.TagsCount : Prop := ∀ (s : State),
  (∀ id m, s.tags.find? (fun x => decide (x.id = id)) = some m →
    let e : ElemRef := ⟨m.ref.extractLsb' 28 4, m.ref.extractLsb' 17 11, m.ref.extractLsb' 13 4⟩
    let x := Map.get (s.el e).tag {} (field m.ref 9 4)
    let holder := (s.domEntry e (BitVec.ofNat 4 (field (s.nd (e.nodeRef x.node)).ncfg 28 4))).extractLsb' 16 16
    let gone := { s with tags := s.tags.filter (fun y => decide (y.id ≠ id)) }
    let dropped := fun (c : BitVec 8) => exec (.tagAck id) s = .next (logEvent gone ((s.partitionAt e.die (e.tile.toNat % 64)).getD 0)
      (BitVec.ofNat 32 (field m.ref 9 23 * 2 ^ 9 + 2 ^ 8 + c.toNat)) c (e.die.setWidth 5))
    (m.leaving = true ∨ s.onWay m.id = true → exec (.tagAck id) s = .next s) ∧
    (m.leaving = false → s.onWay m.id = false →
    (x.valid = false → dropped 0x11) ∧
    (x.valid = true → holder ≠ m.tenant → dropped 0x04) ∧
    (x.valid = true → holder = m.tenant → ∃ u, exec (.tagAck id) s = .next u ∧ (∀ a, a ≠ e → u.el a = s.el a) ∧
      (∀ k, k ≠ field m.ref 9 4 → Map.get (u.el e).tag {} k = Map.get (s.el e).tag {} k) ∧
      Map.get (u.el e).tag {} (field m.ref 9 4) = { x with arrived := BitVec.ofNat 32 (x.arrived.toNat + m.n), err := x.err || m.err } ∧
      u = { gone with elem := u.elem }))) ∧
  (∀ (e : ElemRef) (k : BitVec 4),
    let x := Map.get (s.el e).tag {} k.toNat
    let n := e.nodeRef x.node
    let ready := x.valid = true ∧ x.count.toNat ≤ x.arrived.toNat ∧ roomAt s n x.chan
    (¬ready → exec (.tagToken e k) s = .next s) ∧
    (ready → ∃ u, exec (.tagToken e k) s = .next u ∧ OnlyInput s u n x.chan ∧ (u.nd n).ciq x.chan = (s.nd n).ciq x.chan ++
        [if x.err then { kind := 6, payload := BitVec.ofNat 32 (e.die.toNat * 2 ^ 28 + e.tile.toNat * 2 ^ 17 + e.elem.toNat * 2 ^ 13 + x.node.toNat * 2 ^ 9 + 0x07) }
          else { payload := x.arrived }] ∧
      (Map.get (u.el e).tag {} k.toNat).valid = false ∧ (∀ a, a ≠ e → u.el a = s.el a) ∧ u.mem = s.mem))

namespace Sys2Proof.Claims

/-- The head of an engine's queue (R356). -/
def engine (s : State) (d : BitVec 4) (k : BitVec 2) (n : BitVec 3) : Engine := Map.get (s.dieAt d).engine {} (8 * k.toNat + n.toNat)

/-- A word of a command as its check at the die's port leaves it (R300, R339): where it lies, or the cause that refuses it. A write to a
presence bank is a presence write (R280, R359), and PAGE is PROT once the command was abandoned (R388) or the host has denied the
address (R425). -/
def reach (s : State) (d : BitVec 4) (x : Engine) (c : EngCmd) (va : Nat) (write : Bool) : Except (BitVec 8) (Nat × BitVec 13) :=
  let as := fun (a : Access) => unitCheck s (s.dieTlb d) c.stamp va a 4
  let got : Except (BitVec 8) (Nat × BitVec 13) := if write then (match as .write, as (.presWrite false) with
    | .error e, .ok p => if e = 0x07 then .ok p else .error e
    | r, _ => r) else as .read
  match got with
  | .ok p => .ok p
  | .error e => .error (if e = 0x06 ∧ (x.abandoned = true ∨ c.denied.contains (va % 2 ^ 56) = true) then 0x07 else e)

/-- A word of a command is refused with a cause, or lies somewhere. -/
def refusedFor (s : State) (d : BitVec 4) (x : Engine) (c : EngCmd) (va : Nat) (write : Bool) (e : BitVec 8) : Bool :=
  match reach s d x c va write with
  | .ok _ => false
  | .error a => decide (a = e)

/-- A word of a command may be accessed in this cycle: its bank is free and no access came to it first, or it is refused (R281, R340). -/
def openTo (s : State) (d : BitVec 4) (x : Engine) (c : EngCmd) (va : Nat) (write : Bool) : Prop :=
  ∀ p, reach s d x c va write = .ok p → unitMay s c.since p.1 write = true

/-- The operations of `ECOL` on two words (R357). -/
def combined (op : Nat) (a b : Word) : Word :=
  match op with
  | 0 => (updated false .nearest 9 a b).1
  | 1 => BitVec.ofNat 32 (a.toNat + b.toNat)
  | 2 => (updated false .nearest 11 a b).1
  | 3 => (updated false .nearest 10 a b).1
  | 4 => if a.toInt < b.toInt then b else a
  | 5 => if b.toInt < a.toInt then b else a
  | _ => rnOp (· + ·) a b

/-- The value of a written word: POISON with the origin of its first poisoned source, else the sources combined in order (R357, R389). -/
def collected (op : Nat) : List PWord → PWord
  | [] => {}
  | w :: ws => match (w :: ws).find? PWord.psn with
    | some x => ⟨x.val, true⟩
    | none => ⟨ws.foldl (fun a x => combined op a x.val) w.val, false⟩

/-- An acknowledgement is on its way to a command's tag (R354). -/
def AckedTo (s u : State) (ref : Word) (tenant : BitVec 16) (bad : Bool) : Prop :=
  if ref = 0 then u.tags = s.tags else ∃ n, u.tags = s.tags ++ [{ id := n, ref := ref, tenant := tenant, n := 1, err := bad }]

/-- A lease has ended (R355). -/
def leaseOver (x : Engine) : Engine := { x with leased := false, gen := x.gen + 1, expiry := none, tasks := none }

end Sys2Proof.Claims

/-- R281, R339, R340, R354-R357, R359, R362, R387: pool engines. A step of a copy or of a collective that reads no word which it also writes
makes one word, the combination of its sources, once they are translated and their banks are free, and acknowledges it to the tag; after the last word the
command has run. A refused write ends it with a failed acknowledgement, a write to a presence word that is not EMPTY too; a PAGE holds
it and sends its record. A command that has run leaves the queue; a lease ends at its cycle; a held access is tried again after a
replay. -/
def Sys2Proof.Claims.EnginesRun : Prop := ∀ (s : State) (d : BitVec 4) (k : BitVec 2) (n : BitVec 3),
  let x := engine s d k n
  (∀ c rest, x.queue = c :: rest → c.ran = false → c.fail = false → c.pre = [] → x.held = none → (∀ r ∈ s.reqs, r.who ≠ .eng d k n) →
    c.opc = 0xB8 ∨ (c.opc = 0xBB ∧ field (c.desc.getD 7 0) 0 3 ≠ 7) → Memory.wf s.mem = true →
    (∀ r ∈ s.reqs, r.stage ≠ .deferred) →
    let w := fun (j : Nat) => (c.desc.getD j 0).toNat
    let addr := fun (j : Nat) => w j + w (j + 1) * 2 ^ 32
    let len := w 4 / 4
    let words := len * (if c.opc = 0xB8 then field (c.desc.getD 7 0) 16 16 + 1 else 1)
    let row := fun (base : Nat) (stride : Word) (i : Nat) => (((base : Int) + (i / len : Nat) * stride.toInt + 4 * (i % len : Nat)) % 2 ^ 56).toNat
    let dstOf := fun (i : Nat) => if c.opc = 0xB8 then row (addr 2) (c.desc.getD 9 0) i else (addr 2 + 4 * i) % 2 ^ 56
    let srcsOf := fun (i : Nat) => if c.opc = 0xB8 then [row (addr 0) (c.desc.getD 8 0) i]
      else (List.range (field (c.desc.getD 7 0) 3 3 + 1)).map (fun j => (addr (16 + 2 * j) + 4 * i) % 2 ^ 56)
    let dst := dstOf c.pos
    let srcs := srcsOf c.pos
    let walk := unitWalk s c.stamp none (dst :: srcs)
    let s1 := walk.1
    let got := fun (va : Nat) => match reach s1 d x c va false with
      | .ok p => s1.homeWord p.1 p.2
      | .error e => ⟨BitVec.ofNat 32 (d.toNat * 2 ^ 28 + 1024 * 2 ^ 17 + k.toNat * 2 ^ 13 + n.toNat * 2 ^ 9 + 2 ^ 8 + e.toNat), true⟩
    let v := collected (if c.opc = 0xB8 then 0 else field (c.desc.getD 7 0) 0 3) (srcs.map got)
    let free := (∀ va ∈ srcs, openTo s1 d x c va false) ∧ openTo s1 d x c dst true
    let holds := fun (va : Nat) => ∃ u tr, exec (.engineRun d k n) s = .next u ∧ engine u d k n = { x with held := some 0x06 } ∧ u.mem = s.mem ∧
      u.tags = s.tags ∧ u.traps = s.traps ++ [tr] ∧ tr.sender = some c.stamp.issuer ∧ tr.w[2]? = some (BitVec.ofNat 32 va)
    let writes := fun (u : State) => exec (.engineRun d k n) s = .next u ∧ AckedTo s u (c.desc.getD 5 0) c.stamp.tenant v.psn ∧
      engine u d k n = { x with queue := (if c.pos + 1 < words then { c with pos := c.pos + 1, since := none, denied := [] } else { c with ran := true }) :: rest } ∧
      u.node = s.node ∧ u.elem = s.elem
    let ends := ∃ u, exec (.engineRun d k n) s = .next u ∧ AckedTo s u (c.desc.getD 5 0) c.stamp.tenant true ∧
      engine u d k n = { x with queue := { c with ran := true } :: rest } ∧ u.node = s.node ∧ u.elem = s.elem
    let stays := fun (q : EngCmd) => ∃ u, exec (.engineRun d k n) s = .next u ∧ engine u d k n = { x with queue := q :: rest } ∧ u.mem = s.mem ∧
      u.tags = s.tags ∧ u.node = s.node
    let pres := fun (p : Nat) => ∃ t b, s.target p = .bank t b ∧ s.bankMode t b = 3
    (∀ i j, i < words → j < words → dstOf i ∉ srcsOf j) → c.pos < words → (walk.2 = false → stays c) ∧ (walk.2 = true →
    (∀ va, srcs.find? (fun va => refusedFor s1 d x c va false 0x06) = some va → needsHost s1 (s1.dieTlb d) c.stamp va .read = false → holds va) ∧
    ((∀ va ∈ srcs, refusedFor s1 d x c va false 0x06 = false) →
      (¬free → stays { c with since := some (c.since.getD s.cycle) }) ∧
      (free → refusedFor s1 d x c dst true 0x06 = true → needsHost s1 (s1.dieTlb d) c.stamp dst .write = false → holds dst) ∧
      (∀ e, free → reach s1 d x c dst true = .error e → e ≠ 0x06 → ends) ∧
      (∀ p : Nat × BitVec 13, free → reach s1 d x c dst true = .ok p → s.barrierAt p.1 = true → ends) ∧
      (∀ p : Nat × BitVec 13, free → reach s1 d x c dst true = .ok p → s.barrierAt p.1 = false →
        (¬pres p.1 → notHost s p → p.1 % 4 = 0 → sameKey s p → ∃ u, writes u ∧ u.loadUnder p.1 p.2 = v ∧ OnlyWords s u [p.1]) ∧
        (pres p.1 → s.presAt p.1 = .empty → p.1 % 4 = 0 → ∃ u, writes u ∧ (u.loadUnder p.1 p.2).val = v.val ∧
          u.presAt p.1 = (if v.psn then .poison else .full) ∧ OnlyWords s u [p.1]) ∧
        (pres p.1 → s.presAt p.1 ≠ .empty → ends))))) ∧
  (∀ c rest, x.queue = c :: rest → (c.ran = false → exec (.engineComplete d k n) s = .next s) ∧
    (c.ran = true → c.desc.getD 6 0 = 0xFFFFFFFF → ∃ u, exec (.engineComplete d k n) s = .next u ∧
      engine u d k n = { x with queue := rest, abandoned := false } ∧ u = { s with die := u.die, region := u.region })) ∧
  (let ends := x.leased = true ∧ ∃ c, x.expiry = some c ∧ c ≤ (s.dieAt d).ctr;
    (¬ends → exec (.leaseExpiry d k n) s = .next s) ∧
    (ends → ∃ u, exec (.leaseExpiry d k n) s = .next u ∧ engine u d k n = leaseOver x ∧ OnlyEngine s u d k.toNat n.toNat)) ∧
  (∀ h : HeldUnit, h ∉ s.replays → exec (.portReplay h) s = .next s) ∧
  (.engine d k n ∈ s.replays → ∃ u, exec (.portReplay (.engine d k n)) s = .next u ∧ engine u d k n = { x with held := none } ∧
    u.replays = s.replays.erase (.engine d k n) ∧ u.mem = s.mem ∧ u.node = s.node) ∧
  (∀ (t : TileRef) (p : BitVec 4) st, .port t p ∈ s.replays → (s.tport t p).stream = some st → st.frozen = false → ∃ u,
    exec (.portReplay (.port t p)) s = .next u ∧ (u.tport t p).stream = some { st with held := none } ∧ OnlyPort s u t p ∧
    u.replays = s.replays.erase (.port t p) ∧ u.mem = s.mem ∧ u.node = s.node)

/-- R276, R328, R364, R424, R428: what a host agent does to device memory. A read or a write of a word, of device memory or of the
host's own, takes its place at the home;
a FetchAdd on the low half of a live barrier word makes arrivals and answers the half as it stood; any other write to one
is aborted, changes nothing, and is logged. An access waits for a port whose edge die has not been admitted and for a bank. A VF reads zero in the management page and the ring of its BAR0; a doorbell reads as some word. -/
def Sys2Proof.Claims.HostAccesses : Prop := ∀ (s : State) (fn : BitVec 12) (pa : BitVec 52) (v : Word),
  let a := pa.toNat
  let k : BitVec 13 := (Map.find s.lineKey (a / 128)).getD 0
  let w := s.load64Under a k
  let home : BitVec 4 := match s.target a with
    | .dram d => d
    | .bank t _ => t.die
    | .store e _ => e.die
    | _ => 0
  let who := if fn.toNat % 2048 = 0 then none else Map.find s.vfPart (fn.toNat % 2048)
  let log := fun (p : BitVec 5) => logEvent s p (BitVec.ofNat 32 (home.toNat * 2 ^ 28 + 2 ^ 8 + 0x09)) 0x09 (home.setWidth 5)
  let aborts := fun (i : Instr) => (∀ p, who = some p → exec i s = .next { log p with hostAns := none }) ∧
    (∀ p, who = none → s.partitionAt home 1 = some p → exec i s = .next { log p with hostAns := none }) ∧
    (who = none → s.partitionAt home 1 = none → exec i s = .next { s with hostAns := none })
  let n := v.toNat
  let count := dfield w 24 24
  let left := dfield w 0 24
  let phase := dfield w 48 16
  let opened := s.edgeOpen (s.fnPort fn) = true
  let free := fun (w : Bool) => unitMay s none a w = true
  let cell := s.hostCell a
  ((¬opened ∨ ¬free true → exec (.hostFetchadd fn pa v) s = .next s) ∧ (¬opened → exec (.hostBarrierWrite fn pa) s = .next s)) ∧
  (s.barrierAt a = false → (opened → free true → exec (.hostFetchadd fn pa v) s = .next { s with hostAns := none }) ∧
    exec (.hostBarrierWrite fn pa) s = .next s) ∧
  (s.barrierAt a = true → opened → aborts (.hostBarrierWrite fn pa) ∧ (free true → a % 8 ≠ 0 ∨ n = 0 ∨ 65535 < n → aborts (.hostFetchadd fn pa v))) ∧
  (s.barrierAt a = true → opened → free true → a % 8 = 0 → 1 ≤ n → n ≤ 65535 → Memory.wf s.mem = true → ∃ u, exec (.hostFetchadd fn pa v) s = .next u ∧
    u.hostAns = some ⟨BitVec.ofNat 32 (w.toNat % 2 ^ 32), false⟩ ∧ (∀ q, q < a ∨ a + 8 ≤ q → memGet u.mem q = memGet s.mem q) ∧
    u.load64Under a k = BitVec.ofNat 64 (if n < left then phase * 2 ^ 48 + count * 2 ^ 24 + (left - n)
      else (phase + 1) % 65536 * 2 ^ 48 + count * 2 ^ 24 + count)) ∧
  (let reachable := a % 4 = 0 ∧ ((s.isDram a = true ∧ s.clk = true) ∨ (∃ t b, s.target a = .bank t b ∧ s.bankMode t b = 0) ∨ ∃ p, s.target a = .host p)
    let up := s.edgeOpen false = true ∨ s.edgeOpen true = true
    (¬up ∨ ¬free false → exec (.hostAccess (.read pa)) s = .next s) ∧
    (up → free false → reachable → ∃ u, exec (.hostAccess (.read pa)) s = .next u ∧ u.hostAns = some (s.loadUnder cell 0) ∧
      u = { s with hostAns := u.hostAns, die := u.die, tile := u.tile, elem := u.elem }) ∧
    (up → free false → ¬reachable → exec (.hostAccess (.read pa)) s = .next { s with hostAns := none }) ∧
    (¬opened ∨ ¬free true → exec (.hostAccess (.write fn pa v)) s = .next s) ∧
    (opened → free true → s.barrierAt a = true → aborts (.hostAccess (.write fn pa v))) ∧
    (opened → free true → ¬reachable → s.barrierAt a = false → exec (.hostAccess (.write fn pa v)) s = .next { s with hostAns := none }) ∧
    (opened → free true → reachable → s.barrierAt a = false → Memory.wf s.mem = true → sameKey s (cell, 0) → (∀ r ∈ s.reqs, r.stage ≠ .deferred) → ∃ u,
      exec (.hostAccess (.write fn pa v)) s = .next u ∧ u.loadUnder cell 0 = ⟨v, false⟩ ∧ OnlyWords s u [cell] ∧ u.hostAns = some ⟨v, false⟩ ∧ u.node = s.node)) ∧
  (∀ off : BitVec 14,
    let door := 0x1000 ≤ off.toNat ∧ off.toNat < 0x1200
    (¬opened → exec (.hostAccess (.bar0 fn off)) s = .next s) ∧
    (opened → ¬door → fn.toNat % 2048 ≠ 0 → exec (.hostAccess (.bar0 fn off)) s = .next { s with hostAns := some ⟨0, false⟩ }) ∧
    (opened → ¬door → fn.toNat % 2048 = 0 → exec (.hostAccess (.bar0 fn off)) s = .next { s with hostAns := some ⟨readMgmt s (fn.getLsbD 11) off.toNat, false⟩ }) ∧
    (opened → door → ∃ u x, exec (.hostAccess (.bar0 fn off)) s = .next u ∧ u.hostAns = some ⟨x, false⟩ ∧ u.mem = s.mem ∧ u.node = s.node ∧ u.die = s.die))

namespace Sys2Proof.Claims

/-- A node belongs to a snapshot's scope: the whole course, or a domain (R393). -/
def inScope (s : State) (x : Snapshot) (n : NodeRef) : Prop := ∀ d, x.dom = some d → field (s.nd n).ncfg 28 4 = d.toNat

/-- The MARK token of a snapshot (R393). -/
def mark (x : Snapshot) : Token := { kind := 5, payload := x.stamp }

/-- Every bound input channel has its MARK, but for latest-value and back channels (R396). -/
def marked (s : State) (n : NodeRef) : Prop := ∀ k : BitVec 2,
  let c := Map.get (s.nd n).ccfg 0 k.toNat
  c.getLsbD 31 = true → c.getLsbD 30 = false → (s.nd n).marks.getLsbD k.toNat = true ∨ ∀ e, s.edgeInto n k = some e → e.back = true

/-- An output channel of a node is bound. -/
def bound (s : State) (n : NodeRef) (k : BitVec 2) : Prop := s.edgeFrom (.out n k) ≠ none ∨ s.fanFrom (.out n k) ≠ none

end Sys2Proof.Claims

/-- R389, R391, R392, R421, R469: what an error does. A register, a lane, an accumulator or mailbox word becomes poisoned with cause SOFT; a
channel's token becomes POISON; a pool word faults its node; a word of a store becomes POISON; a clean line is read again, and a
line that is lost poisons its 64 KiB page; a corrected error is counted.
What a lost page leaves of its lines' states is the model's reading (log entry 79). -/
def Sys2Proof.Claims.ErrorsPoison : Prop := ∀ (s : State) (n : NodeRef) (e : ElemRef),
  let soft := fun (e : ElemRef) => BitVec.ofNat 32 (e.die.toNat * 2 ^ 28 + e.tile.toNat * 2 ^ 17 + e.elem.toNat * 2 ^ 13 + 0x0C)
  let strikes := fun (w : ErrorPlace) (u : State) => exec (.uncorrectableError w) s = .next u
  let nd := s.nd n
  let el := s.el e
  (∀ i : BitVec 4, strikes (.greg n i) (s.setNd n { nd with g := Map.set nd.g i.toNat ⟨soft n.elemRef, true⟩ })) ∧
  (∀ (v : BitVec 5) (l : BitVec 4), strikes (.lane e v l) (s.setEl e { el with vreg := Map.set el.vreg (16 * v.toNat + l.toNat) ⟨soft e, true⟩ })) ∧
  (∀ (a : BitVec 2) (l : BitVec 4), strikes (.acc e a l) (s.setEl e { el with acc := Map.set el.acc (16 * a.toNat + l.toNat) ⟨soft e, true⟩ })) ∧
  (∀ i : BitVec 2, ∃ u, strikes (.mailbox e i) u ∧ (Map.get (u.el e).mbox {} i.toNat).word = ⟨soft e, true⟩ ∧
    (Map.get (u.el e).mbox {} i.toNat).st = (Map.get el.mbox {} i.toNat).st ∧ (∀ j, j ≠ i.toNat → Map.get (u.el e).mbox {} j = Map.get el.mbox {} j) ∧
    u = s.setEl e { el with mbox := (u.el e).mbox }) ∧
  (∀ (k : BitVec 2) (i : Nat), ∃ u, strikes (.chan n k i) u ∧ u = s.setNd n { nd with ci := (u.nd n).ci, co := (u.nd n).co } ∧
    (∀ j, (u.nd n).ciq j = if i < 4 ∧ j = k then (nd.ciq k).modify i (fun _ => { kind := 6, payload := soft n.elemRef }) else nd.ciq j) ∧
    (∀ j, (u.nd n).coq j = if 4 ≤ i ∧ j = k then (nd.coq k).modify (i - 4) (fun _ => { kind := 6, payload := soft n.elemRef }) else nd.coq j)) ∧
  (∀ slot : BitVec 4, (nd.st = .off ∨ nd.st = .faulted → strikes (.pool n slot) s) ∧
    (nd.st = .run → nd.flight = none → s.issuing n = false → ∃ u, strikes (.pool n slot) u ∧ (u.nd n).st = .faulted ∧ (u.nd n).cause = 0x0C ∧
      field (Map.get (u.nd n).trec 0 1) 8 8 = slot.toNat ∧ (∀ m, m ≠ n → u.nd m = s.nd m) ∧ u.mem = s.mem)) ∧
  (∀ (pa : BitVec 52) b off, s.target pa.toNat = .store b off → Memory.wf s.mem = true → (∀ r ∈ s.reqs, r.stage ≠ .deferred) → ∃ u, strikes (.word pa) u ∧
    (u.loadWord (pa.toNat / 4 * 4) = ⟨soft b, true⟩) ∧ OnlyWords s u [pa.toNat]) ∧
  (∀ pa : BitVec 52, strikes (.cleanLine pa true) s ∧ (s.isDram pa.toNat = false → strikes (.cleanLine pa false) s ∧ strikes (.dirtyLine pa) s)) ∧
  (∀ (pa : BitVec 52) d, s.target pa.toNat = .dram d → reachers s (pa.toNat / 0x10000 * 0x10000) 0x10000 = [] →
    (∀ r ∈ s.reqs, r.stage ≠ .deferred) → ∃ u,
    strikes (.dirtyLine pa) u ∧ strikes (.cleanLine pa false) u ∧
    (∀ a, a % 4 = 0 → a / 0x10000 = pa.toNat / 0x10000 → (u.metaAt a).psn = true) ∧
    (∀ a, a / 0x10000 ≠ pa.toNat / 0x10000 → memGet u.mem a = memGet s.mem a ∧ (u.metaAt a).psn = (s.metaAt a).psn) ∧ u.node = s.node) ∧
  (∀ d : BitVec 5, ∃ u, exec (.correctableError d) s = .next u ∧ counted s.cecnt u.cecnt d ∧ u = { s with cecnt := u.cecnt })

/-- R229, R393-R398, R404, R405: marker snapshots. A READ stream freezes behind its MARK; a MARK is recorded at a channel of the
scope once its edge is open, and takes no entry; a node aligns once all its channels are marked, nothing is in flight that it has to finish
and its outputs have space, sends its MARKs and is OFF; a node that an earlier snapshot holds in OFF only sends them. A complete snapshot of
a domain keeps its image for its restore, one of a whole course leaves for the save area; a pre-empted course begins a snapshot of the
whole, with the marks of earlier ones taken off, or returns from LOADING to READY.
What a domain's image keeps and which queued commands hold a snapshot back are the model's reading (log entries 46, 52). -/
def Sys2Proof.Claims.SnapshotsProceed : Prop := ∀ (s : State) (rid : Nat) (g : Region), Map.find s.region rid = some g →
  (∀ x (t : TileRef) (p : BitVec 4) st, g.snap = some x → g.st = .running → g.holds t = true → (s.tport t p).stream = some st →
    inScope s x st.stamp.issuer →
    (st.frozen = true → exec (.markSend rid (.tile t p)) s = .next s) ∧
    (st.frozen = false → sfield st.desc 0 0 4 = 0 → ∃ u, exec (.markSend rid (.tile t p)) s = .next u ∧
      (u.tport t p).stream = some { st with frozen := true, out := st.out ++ [mark x] } ∧ OnlyPort s u t p ∧ u = { s with tile := u.tile, edge := u.edge })) ∧
  (∀ x id e tok q n k, g.snap = some x → Map.find s.edge id = some e → e.id = id → e.region = rid → e.dst = .inp n k → e.flight = tok :: q → tok = mark x →
    inScope s x n → (Map.get (s.nd n).ccfg 0 k.toNat).getLsbD 30 = false →
    (edgeOpen (s.nd n) k = false → exec (.markArrival id) s = .next s) ∧
    (edgeOpen (s.nd n) k = true → ∃ u, exec (.markArrival id) s = .next u ∧ (u.nd n).marks = (s.nd n).marks ||| (1 <<< k.toNat) ∧ (u.nd n).ci = (s.nd n).ci ∧
      Map.get (u.nd n).freed 0 k.toNat = Map.get (s.nd n).freed 0 k.toNat + 1 ∧ u.ed id = { e with flight := q } ∧ (∀ m, m ≠ n → u.nd m = s.nd m))) ∧
  (∀ x n, g.snap = some x → (s.el n.elemRef).region = some rid →
    let nd := s.nd n
    let owes := nd.st ≠ .off ∨ (nd.aligned ≠ none ∧ ∃ id e k, (id, e) ∈ s.edge ∧ e.marked = false ∧ e.route = false ∧ e.src = .out n k)
    let aligns := inScope s x n ∧ owes ∧ marked s n ∧ nd.nextAt ≤ s.cycle ∧ s.issuing n = false ∧ (∀ k, bound s n k → coSpace s n k = true)
    let marks := fun (u : State) => (∀ k, bound s n k → (u.nd n).coq k = nd.coq k ++ [mark x]) ∧ (∀ k, ¬bound s n k → (u.nd n).coq k = nd.coq k) ∧
      (u.nd n).ci = nd.ci ∧ (u.nd n).g = nd.g ∧ (u.nd n).p = nd.p ∧ (u.nd n).latch = nd.latch ∧ (∀ m, m ≠ n → u.nd m = s.nd m) ∧
      u.elem = s.elem ∧ u.mem = s.mem
    (¬aligns → exec (.nodeAlign n) s = .next s) ∧
    ((∃ fl, nd.flight = some fl ∧ alignWithdraws fl = false) → exec (.nodeAlign n) s = .next s) ∧
    (aligns → nd.st ≠ .off → nd.flight = none → ∃ u, exec (.nodeAlign n) s = .next u ∧ (u.nd n).st = .off ∧ (u.nd n).aligned = some nd.st ∧ marks u) ∧
    (aligns → nd.st = .off → nd.flight = none → ∃ u, exec (.nodeAlign n) s = .next u ∧ (u.nd n).st = .off ∧ (u.nd n).aligned = nd.aligned ∧ marks u)) ∧
  (∀ x, g.snap = some x →
    let whole := imageOf s g x
    let at_ := saveOffset s g.part
    let put := s.writePart g.part (s.pcbD g.part 0x30 + at_) (s.stagingStamp g.part).keyid (whole.flatMap (fun (v : Word) => leBytes 4 v.toNat))
    (snapshotDone s rid x = false → exec (.snapshotComplete rid) s = .next s) ∧
    (snapshotDone s rid x = true → ∀ n ∈ g.courseNodes, inScope s x n → (s.nd n).aligned ≠ none ∧ ∀ y ∈ (s.el n.elemRef).sbuf, y.node = n.node → y.held = true) ∧
    (∀ d, snapshotDone s rid x = true → x.dom = some d → ∃ u, exec (.snapshotComplete rid) s = .next u ∧ (u.rg rid).snap = none ∧
      (u.rg rid).done = { x with image := imageOf (holdSections s g x) g x } :: g.done ∧ (u.rg rid).st = g.st ∧ u.mem = s.mem) ∧
    (snapshotDone s rid x = true → x.dom = none → at_ + 4 * whole.length ≤ (s.pcbW g.part 0x38).toNat * 2 ^ 20 → put.2 = true → ∃ u,
      exec (.snapshotComplete rid) s = .next u ∧ (u.rg rid).st = .saved ∧ (u.rg rid).saveAt = at_ ∧ (u.rg rid).saveLen = 4 * whole.length ∧
      (u.rg rid).done = [x] ∧ (u.rg rid).snap = none ∧ u.mem = put.1.mem ∧ ∀ n ∈ g.nodes, (u.nd n).st = .off)) ∧
  (g.st = .loading → ∃ u, exec (.wholeCoursePreempt rid) s = .next u ∧ Map.find u.region rid = none ∧ OnlyTask s u g.die g.task.toNat ∧
    tstate (u.task g.die g.task.toNat) = 4 ∧ (u.task g.die g.task.toNat).staged = (s.task g.die g.task.toNat).staged ∧ (u.task g.die g.task.toNat).front = true) ∧
  (g.st = .running → g.snap = none → ∃ u, exec (.wholeCoursePreempt rid) s = .next u ∧
    u.rg rid = { g with snap := some { dom := none, stamp := BitVec.ofNat 32 (g.snaps.toNat * 2 ^ 16 + 2 ^ 11) }, snaps := g.snaps + 1, idle := 0 } ∧
    (∀ id e, Map.find s.edge id = some e → Map.find u.edge id = some (if e.region = rid then { e with marked := false } else e)) ∧
    (∀ n, n ∈ g.courseNodes → u.nd n = { s.nd n with marks := 0 }) ∧ (∀ n, n ∉ g.courseNodes → u.nd n = s.nd n) ∧
    u = { s with region := u.region, edge := u.edge, node := u.node })

namespace Sys2Proof.Claims

/-- The little-endian value of bytes of an entry (R428). -/
def bytesAt (ws : List Word) (i n : Nat) : Nat := ((List.range n).map (fun j => field (ws.getD ((i + j) / 4) 0) (8 * ((i + j) % 4)) 8 * 256 ^ j)).sum

/-- The bytes of an entry that its command does not list are zero. -/
def blank (ws : List Word) (len : Nat) (used : List (Nat × Nat)) : Prop :=
  ∀ i, 4 ≤ i → i < len → (∀ u ∈ used, i < u.1 ∨ u.1 + u.2 ≤ i) → bytesAt ws i 1 = 0

/-- The entry that the service core takes next: the head of a ring whose turn it is, once its port has opened (R427, R428, R462). -/
def Entry (s : State) (pf : Bool) (ws : List Word) : Prop :=
  let p := s.hport pf
  let o := s.hport (!pf)
  s.edgeOpen pf = true ∧ p.mrhead ≠ p.mrtail ∧ o.busy = false ∧ (p.busy = true ∨ s.turn = pf ∨ o.mrhead = o.mrtail) ∧
  ws = (List.range 16).map (fun i => Map.get p.ring 0 (16 * p.mrhead.toNat + i))

/-- An entry is answered with a status after its effect `u`: DONE and the status in its STS byte, its OP and TAG as they were, and the ring goes on. -/
def Finishes (e : Instr) (s u : State) (pf : Bool) (status : Nat) : Prop := ∃ t, exec e s = .next t ∧
  let p := s.hport pf
  let q := t.hport pf
  let old := Map.get p.ring 0 (16 * p.mrhead.toNat)
  let new := Map.get q.ring 0 (16 * p.mrhead.toNat)
  t = { u with port := t.port, turn := !pf } ∧ t.hport (!pf) = u.hport (!pf) ∧ q.mrhead = p.mrhead + 1 ∧ q.mrlast = p.mrhead ∧ q.busy = false ∧
  q.mrtail = p.mrtail ∧ q.mrctl = p.mrctl ∧ field new 8 8 = 128 + status ∧ field new 0 8 = field old 0 8 ∧ field new 16 16 = field old 16 16

/-- An entry waits: it is being served. -/
def Waits (e : Instr) (s u : State) (pf : Bool) : Prop := ∃ t, exec e s = .next t ∧ (t.hport pf).busy = true ∧
  (t.hport pf).mrhead = (s.hport pf).mrhead ∧ t = { u with port := t.port }

/-- CTL of a partition's control block, and the node that it holds (R417, R419). -/
def ctl (s : State) (p : Nat) : Word := Map.get (Map.get s.part {} p).pcb 0 0
def nodeOf (s : State) (p : Nat) : Nat := field (ctl s p) 22 6

/-- A partition is idle (R418). -/
def Idle (s : State) (p : Nat) : Prop :=
  (∀ d ∈ s.die, (∀ t ∈ d.2.task, tstate t.2 = 0 ∨ tfield t.2 7 11 5 ≠ p) ∧ (∀ q ∈ d.2.slot, q.2.mapped = true → q.2.part.toNat ≠ p) ∧
    (∀ e ∈ d.2.engine, e.2.leased = true → e.2.part.toNat ≠ p) ∧ ∀ b ∈ d.2.bar, (b.2.alloc = true ∨ 0 < b.2.ref) → b.2.part.toNat ≠ p) ∧
  ∀ g ∈ s.region, g.2.part.toNat ≠ p

/-- A TDI of the partition is LOCKED or RUN (R426). -/
def Locked (s : State) (p : Nat) : Prop := ∃ v ∈ s.vfPart, v.2.toNat = p ∧ (Map.get s.tdi .unlocked v.1 = .locked ∨ Map.get s.tdi .unlocked v.1 = .run)

/-- Only the control blocks and logs of the partitions named differ. -/
def OnlyParts (s u : State) (ps : List Nat) : Prop := u = { s with part := u.part } ∧ ∀ j, j ∉ ps → Map.get u.part {} j = Map.get s.part {} j

end Sys2Proof.Claims

/-- R404, R405, R417-R419, R426-R428: the ring and the partition commands. An entry of no command is malformed and one that needs a secured session is refused;
`PSPLIT` gives node 2n to the partition and 2n + 1 to the lowest free PART; `PMERGE` joins two idle siblings; `PPRE` pre-empts every running course, and a
second one lets them return; `PSET` replaces the control block and empties the event log. What is refused changes nothing.
STATE after a second `PPRE` is the model's reading (log entry 80). -/
def Sys2Proof.Claims.PartitionCommands : Prop := ∀ (s : State) (pf : Bool) (block ws : List Word), Entry s pf ws →
  let op := bytesAt ws 0 1
  let p := bytesAt ws 4 1
  let n := nodeOf s p
  let one := p < 32 ∧ blank ws 64 [(4, 1)]
  let isFree := fun (q : Nat) => q < 32 ∧ nodeOf s q = 0 ∧ ∀ j, j < q → nodeOf s j ≠ 0
  (∀ e ∈ [Instr.psplit pf, .pmerge pf, .ppre pf, .kshare pf, .kfree pf, .inval pf, .qunreg pf, .fassign pf, .podrt pf, .knonce pf],
    (op ∉ [0x10, 0x11, 0x12, 0x13, 0x20, 0x21, 0x22, 0x30, 0x31, 0x40, 0x41, 0x50, 0x60, 0x61, 0x62, 0x70, 0x71, 0x72, 0x73, 0x74, 0x75, 0x76] → Finishes e s s pf 3) ∧
    (op ∈ [0x20, 0x70, 0x71, 0x75] → Finishes e s s pf 2)) ∧
  (op = 0x11 →
    (¬one → Finishes (.psplit pf) s s pf 3) ∧
    (one → (n = 0 ∨ 32 ≤ n ∨ s.clk = false ∨ ¬Idle s p ∨ ∀ q, ¬isFree q) → Finishes (.psplit pf) s s pf 2) ∧
    (∀ q, one → 1 ≤ n → n < 32 → s.clk = true → Idle s p → isFree q → ∃ u, Finishes (.psplit pf) s u pf 0 ∧ OnlyParts s u [p, q] ∧ nodeOf u p = 2 * n ∧
      nodeOf u q = 2 * n + 1 ∧ field (ctl u q) 28 4 = 0 ∧ field (ctl u q) 17 5 = q ∧ field (ctl u p) 28 4 = field (ctl s p) 28 4)) ∧
  (op = 0x12 →
    let sibling := fun (q : Nat) => q < 32 ∧ nodeOf s q = n + 1 ∧ ∀ x ∈ s.part, field (Map.get x.2.pcb 0 0) 22 6 = n + 1 → x.1 = q
    let entangled := fun (q : Nat) => (∃ k ∈ s.key, k.1 ≠ 0 ∧ k.2.live = true ∧ k.2.owner.toNat = q) ∨ ∃ v ∈ s.vfPart, v.2.toNat = q
    (¬one → Finishes (.pmerge pf) s s pf 3) ∧
    (one → (∀ x ∈ s.part, field (Map.get x.2.pcb 0 0) 22 6 ≠ n + 1) → Finishes (.pmerge pf) s s pf 2) ∧
    (∀ q, one → sibling q → (n < 2 ∨ n % 2 = 1 ∨ ¬Idle s p ∨ ¬Idle s q ∨ entangled q) → Finishes (.pmerge pf) s s pf 2) ∧
    (∀ q, one → sibling q → 2 ≤ n → n % 2 = 0 → Idle s p → Idle s q → ¬entangled q → ∃ u, Finishes (.pmerge pf) s u pf 0 ∧
      OnlyParts s u [p, q] ∧ nodeOf u p = n / 2 ∧ Map.find u.part q = none)) ∧
  (op = 0x13 →
    let snaps := ∃ x ∈ s.region, x.2.part.toNat = p ∧ x.2.st ≠ .saved ∧ x.2.snap ≠ none
    (¬one → Finishes (.ppre pf) s s pf 3) ∧
    (one → (n = 0 ∨ Locked s p) → Finishes (.ppre pf) s s pf 2) ∧
    (one → n ≠ 0 → ¬Locked s p → snaps → Finishes (.ppre pf) s s pf 1) ∧
    (one → n ≠ 0 → ¬Locked s p → ¬snaps → field (ctl s p) 28 3 = 3 → ∃ u, Finishes (.ppre pf) s u pf 0 ∧ OnlyParts s u [p] ∧
      (Idle s p → field (ctl u p) 28 3 = 1) ∧ (¬Idle s p → field (ctl u p) 28 3 = 2)) ∧
    (one → n ≠ 0 → ¬Locked s p → ¬snaps → field (ctl s p) 28 3 ≠ 3 → ∃ u, Finishes (.ppre pf) s u pf 0 ∧ field (ctl u p) 28 3 = 3 ∧
      ∀ rid g, Map.find s.region rid = some g → g.part.toNat = p → g.st = .running → ∃ x, (u.rg rid).snap = some x ∧ x.dom = none)) ∧
  (op = 0x10 →
    let q : BitVec 5 := BitVec.ofNat 5 p
    let shape := p < 32 ∧ blank ws 64 [(4, 1), (8, 8)]
    (¬shape → Finishes (.psetCommand pf block) s s pf 3) ∧
    (shape → n = 0 → Finishes (.psetCommand pf block) s s pf 2) ∧
    (shape → n ≠ 0 → blockWf s q block = false → Finishes (.psetCommand pf block) s s pf 3) ∧
    (shape → n ≠ 0 → blockWf s q block = true → (Locked s p ∨ (¬Idle s p ∧ sameBut s q block = false)) → Finishes (.psetCommand pf block) s s pf 2) ∧
    (shape → n ≠ 0 → blockWf s q block = true → ¬Locked s p → (Idle s p ∨ sameBut s q block = true) → ∃ u, Finishes (.psetCommand pf block) s u pf 0 ∧
      (∀ i, i < 32 → Map.get (u.pt q).pcb 0 i = block.getD i 0) ∧ (u.pt q).logged = 0 ∧ (u.pt q).repeats = 0 ∧ (∀ j, j ≠ p → Map.get u.part {} j = Map.get s.part {} j) ∧
      u = { s with part := u.part, dstale := u.dstale, dover := u.dover } ∧
      ((ctl s p).getLsbD 31 = false → (block.getD 0 0).getLsbD 31 = true → Map.get u.dstale 0 p = 0 ∧ Map.get u.dover 0 p = 0)))

namespace Sys2Proof.Claims

/-- A secured command is answered on the DOE mailbox with its status, after its effect `u` (R428). -/
def Secured (e : Instr) (s u : State) (pf : Bool) (m : List Word) (status : Nat) : Prop := ∃ t, exec e s = .next t ∧
  t = { u with port := t.port } ∧ t.hport (!pf) = u.hport (!pf) ∧ field ((t.hport pf).doe.getD 0 0) 8 8 = 128 + status ∧
  ∀ i, 1 ≤ i → i < 32 → (t.hport pf).doe.getD i 0 = m.getD i 0

/-- A checked request that names a key is still to be performed, one that a saved memory tile keeps too (R404, R423). -/
def keyBusy (s : State) (k : Nat) (who : BitVec 5 → Prop) : Prop :=
  ∃ r, (r ∈ s.reqs ∨ ∃ g ∈ s.region, r ∈ g.2.asleep) ∧ (r.stage = .home ∨ r.stage = .deferred) ∧ who r.stamp.part ∧ ∃ x ∈ r.pas, x.2.toNat = k

/-- The caches alone differ, and no line of a key stands in one (R293, R423). -/
def Uncached (s u : State) (k : Nat) : Prop := ∀ d, u.dieAt d = { s.dieAt d with cache := (u.dieAt d).cache } ∧
  ∀ i, (∀ l ∈ (u.dieAt d).cacheSet i, l.keyid.toNat ≠ k) ∧ ∀ l ∈ (s.dieAt d).cacheSet i, l.keyid.toNat ≠ k → l ∈ (u.dieAt d).cacheSet i

end Sys2Proof.Claims

/-- R303, R422, R423, R426-R428, R432: keys, invalidation and the end of a PASID. `KLOAD` makes a FREE slot LIVE; `KSHARE` and `KFREE` wait for the
requests already checked, the first where partitions lose the key and for theirs, and both drop its lines from the caches; a freed key's
lines alone change and stand under no key; `INVAL` drops what it covers from every micro-TLB and walk
cache, marks the walks that look for it stale, and has requests that left with it translated again (the model's choice, log entry 44);
`PTEAR` raises the PASID's generation, waits for both ports and for what is in flight, and is busy while another runs. -/
def Sys2Proof.Claims.KeyCommands : Prop := ∀ (s : State) (pf : Bool) (ws m : List Word),
  let op := bytesAt ws 0 1
  (let k := bytesAt m 4 2
    let p := bytesAt m 6 1
    let wf := bytesAt m 0 1 = 0x20 ∧ k < 8192 ∧ p < 32 ∧ blank m 128 [(4, 3), (8, 4), (64, 64)] ∧ nodeOf s p ≠ 0
    let bad := k = 0 ∨ (Map.get s.key {} k).live = true ∨ Locked s p
    (¬wf → Secured (.kload pf m) s s pf m 3) ∧ (wf → bad → Secured (.kload pf m) s s pf m 2) ∧
    (wf → ¬bad → ∃ u, Secured (.kload pf m) s u pf m 0 ∧ u = { s with key := u.key } ∧ (∀ j, j ≠ k → Map.get u.key {} j = Map.get s.key {} j) ∧
      Map.get u.key {} k = { live := true, owner := BitVec.ofNat 5 p, share := m.getD 2 0, key := (m.drop 16).take 16 })) ∧
  (Entry s pf ws → op = 0x21 →
    let k := bytesAt ws 4 2
    let x := Map.get s.key {} k
    let v := ws.getD 2 0
    let wf := k < 8192 ∧ blank ws 64 [(4, 2), (8, 4)]
    let gone := (x.leaving ||| x.share) &&& ~~~v
    let bad := k = 0 ∨ x.live = false ∨ (Locked s x.owner.toNat ∧ x.leaving = 0)
    let lost := keyBusy s k (fun p => p ≠ x.owner ∧ gone.getLsbD p.toNat = true)
    let set := fun (u : State) (left : Word) => (∀ j, j ≠ k → Map.get u.key {} j = Map.get s.key {} j) ∧ Map.get u.key {} k = { x with share := v, leaving := left }
    (¬wf → Finishes (.kshare pf) s s pf 3) ∧ (wf → bad → Finishes (.kshare pf) s s pf 2) ∧
    (wf → ¬bad → gone = 0 → ∃ u, Finishes (.kshare pf) s u pf 0 ∧ set u 0 ∧ u = { s with key := u.key }) ∧
    (wf → ¬bad → gone ≠ 0 → lost → ∃ u, Waits (.kshare pf) s u pf ∧ set u gone ∧ u = { s with key := u.key }) ∧
    (wf → ¬bad → gone ≠ 0 → ¬lost → ∃ u, Finishes (.kshare pf) s u pf 0 ∧ set u 0 ∧ Uncached s u k ∧ u = { s with key := u.key, die := u.die })) ∧
  (Entry s pf ws → op = 0x22 →
    let k := bytesAt ws 4 2
    let x := Map.get s.key {} k
    let wf := k < 8192 ∧ blank ws 64 [(4, 2)]
    let bad := k = 0 ∨ x.live = false ∨ (Locked s x.owner.toNat ∧ x.closing = false)
    let used := keyBusy s k (fun _ => True)
    (¬wf → Finishes (.kfree pf) s s pf 3) ∧ (wf → bad → Finishes (.kfree pf) s s pf 2) ∧
    (wf → ¬bad → used → ∃ u, Waits (.kfree pf) s u pf ∧ u = { s with key := u.key } ∧ (∀ j, j ≠ k → Map.get u.key {} j = Map.get s.key {} j) ∧
      Map.get u.key {} k = { x with closing := true }) ∧
    (wf → ¬bad → ¬used → ∃ u, Finishes (.kfree pf) s u pf 0 ∧ Map.find u.key k = none ∧ (∀ j, j ≠ k → Map.get u.key {} j = Map.get s.key {} j) ∧
      u = { s with key := u.key, mem := u.mem, lineKey := u.lineKey, die := u.die } ∧ Uncached s u k ∧
      (∀ y ∈ s.lineKey, y.2.toNat = k → Map.find u.lineKey y.1 = some 0) ∧
      ∀ i, (∀ y ∈ s.lineKey, y.1 = i → y.2.toNat ≠ k) → Map.find u.lineKey i = Map.find s.lineKey i ∧ ∀ a, a / 128 = i → memGet u.mem a = memGet s.mem a)) ∧
  (Entry s pf ws → op = 0x30 →
    let p := bytesAt ws 4 1
    let fl := bytesAt ws 5 1
    let at_ := bytesAt ws 8 8
    let len := bytesAt ws 16 8
    let wf := p < 32 ∧ fl < 4 ∧ len % 0x10000 = 0 ∧ blank ws 64 [(4, 20)] ∧ nodeOf s p ≠ 0
    let kept := fun (e : TlbEntry) => !(decide (e.part.toNat = p) && (decide (fl % 2 = 1) || decide (e.tenant.toNat = bytesAt ws 6 2)) &&
      (decide (2 ≤ fl) || decide (e.va < at_ + len ∧ at_ < e.va + e.size)))
    let passed := fun (r : Req) => r.stage = .home ∧ r.stamp.part.toNat = p ∧ (fl % 2 = 1 ∨ r.stamp.tenant.toNat = bytesAt ws 6 2) ∧
      ∃ w ∈ wordVas r.va r.op.access.1, 2 ≤ fl ∨ (at_ ≤ w.2 ∧ w.2 < at_ + len)
    (¬wf → Finishes (.inval pf) s s pf 3) ∧
    (wf → ∃ u, Finishes (.inval pf) s u pf 0 ∧ (∀ d, (u.dieAt d).tlb = (s.dieAt d).tlb.filter kept) ∧ (∀ t, (u.tl t).tlb = (s.tl t).tlb.filter kept) ∧
      (∀ d, ∀ e ∈ (u.dieAt d).wcache, e ∈ (s.dieAt d).wcache ∧ (e.part.toNat = p → fl % 2 = 0 ∧ ∃ t, e.tenant = some t ∧ t.toNat ≠ bytesAt ws 6 2)) ∧
      (∀ d, ∀ x ∈ (u.dieAt d).walks, x.part.toNat = p → (fl % 2 = 1 ∨ x.tenant.toNat = bytesAt ws 6 2) →
        (2 ≤ fl ∨ (x.page * 0x10000 < at_ + len ∧ at_ < (x.page + 1) * 0x10000)) → x.stale = true) ∧
      (∀ r ∈ s.reqs, (passed r → { r with stage := .port, queued := false } ∈ u.reqs) ∧ (¬passed r → r ∈ u.reqs)) ∧
      u = { s with die := u.die, tile := u.tile, replays := u.replays, reqs := u.reqs } ∧ ∀ h ∈ s.replays, h ∈ u.replays)) ∧
  (Entry s pf ws → op = 0x31 →
    let v := bytesAt ws 4 4
    let p : BitVec 20 := BitVec.ofNat 20 v
    let wf := v < 2 ^ 20 ∧ blank ws 64 [(4, 4)]
    let torn := p ∈ (s.hport false).tearing
    let due := p ∈ (s.hport false).invals ∨ p ∈ (s.hport true).invals ∨ pasidInFlight s p = true
    (¬wf → Finishes (.ptear pf) s s pf 3) ∧
    (wf → ¬torn → ∃ u, Waits (.ptear pf) s u pf ∧ Map.get u.pasidGen 0 v = Map.get s.pasidGen 0 v + 1 ∧ ∀ b, p ∈ (u.hport b).tearing ∧ p ∈ (u.hport b).invals) ∧
    (wf → torn → (s.hport pf).busy = false → Finishes (.ptear pf) s s pf 1) ∧
    (wf → torn → (s.hport pf).busy = true → due → Waits (.ptear pf) s s pf) ∧
    (wf → torn → (s.hport pf).busy = true → ¬due → ∃ u, Finishes (.ptear pf) s u pf 0 ∧ (∀ b, p ∉ (u.hport b).tearing) ∧ u = { s with port := u.port }))

/-- R418, R426, R427, R429, R436-R438: queues, functions, grants and routes. `QREG` keeps the record's place, tenant, vector and shadow hash; `QUNREG` forgets the queue;
`FASSIGN` gives a VF of the ring's own PF to a partition (which VFs are a PF's is the model's choice, log entry 57; so are status 2 for a queue that is registered, entry 81, and the key under which its record is read, entry 41); `PODGRANT` adds or replaces a grant, of which only one of a source holds a memory right; `PODREVOKE` waits for
what was accepted; `PODRT` sets a route mask. -/
def Obligations.QueueAndPodCommands : Prop := ∀ (s : State) (pf : Bool) (ws : List Word), Entry s pf ws →
  let op := bytesAt ws 0 1
  (op = 0x40 →
    let p := bytesAt ws 4 1
    let f := bytesAt ws 6 2
    let q := bytesAt ws 8 1
    let a := bytesAt ws 16 8
    let wf := p < 32 ∧ bytesAt ws 5 1 < 16 ∧ f < 4096 ∧ f % 2048 ≤ 1024 ∧ (2048 ≤ f → f = 2048) ∧ q < 64 ∧ blank ws 64 [(4, 5), (16, 8)] ∧ nodeOf s p ≠ 0
    let there := s.queueReg (BitVec.ofNat 12 f) (BitVec.ofNat 6 q) ≠ none
    let k : BitVec 13 := (s.pcbW (BitVec.ofNat 5 p) 0x2C).extractLsb' 16 13
    let v := s.usePart (BitVec.ofNat 5 p) a 256 k
    let got := v.readPart (BitVec.ofNat 5 p) a 256 k
    (¬wf → Finishes (.qreg pf) s s pf 3) ∧ (wf → there → Finishes (.qreg pf) s s pf 2) ∧ (∀ c, wf → ¬there → got = .error c → Finishes (.qreg pf) s v pf 2) ∧
    (∀ bs, wf → ¬there → got = .ok bs → Finishes (.qreg pf) s { v with
      qreg := s.qreg ++ [{ fn := BitVec.ofNat 12 f, q := BitVec.ofNat 6 q, part := BitVec.ofNat 5 p, tenant := BitVec.ofNat 16 ((bs.getD 8 0).toNat + (bs.getD 9 0).toNat * 256), die := BitVec.ofNat 4 (bytesAt ws 5 1), addr := BitVec.ofNat 52 a, shadow := sha256 (bs.take 128), vec := (bs.getD 0x24 0).toNat + (bs.getD 0x25 0).toNat * 256 }] } pf 0)) ∧
  (op = 0x41 →
    let f := bytesAt ws 6 2
    let q := bytesAt ws 8 1
    let wf := f < 4096 ∧ f % 2048 ≤ 1024 ∧ (2048 ≤ f → f = 2048) ∧ q < 64 ∧ blank ws 64 [(6, 3)]
    let reg := s.queueReg (BitVec.ofNat 12 f) (BitVec.ofNat 6 q)
    (¬wf → Finishes (.qunreg pf) s s pf 3) ∧ (wf → reg = none → Finishes (.qunreg pf) s s pf 2) ∧
    (wf → reg ≠ none → ∃ u, Finishes (.qunreg pf) s u pf 0 ∧ u.queueReg (BitVec.ofNat 12 f) (BitVec.ofNat 6 q) = none ∧ u.node = s.node)) ∧
  (op = 0x50 →
    let p := bytesAt ws 4 1
    let v := bytesAt ws 6 2
    let wf := p < 32 ∧ 1 ≤ v ∧ v ≤ 1024 ∧ blank ws 64 [(4, 1), (6, 2)]
    let north := (s.hport false).numVfs
    let mine := if pf then north < v ∧ v ≤ north + (s.hport true).numVfs else v ≤ north
    let bad := nodeOf s p = 0 ∨ Map.get s.tdi .unlocked v = .locked ∨ Map.get s.tdi .unlocked v = .run ∨ ¬mine
    (¬wf → Finishes (.fassign pf) s s pf 3) ∧ (wf → bad → Finishes (.fassign pf) s s pf 2) ∧
    (wf → ¬bad → ∃ u, Finishes (.fassign pf) s u pf 0 ∧ u = { s with vfPart := u.vfPart } ∧ Map.find u.vfPart v = some (BitVec.ofNat 5 p) ∧
      ∀ j, j ≠ v → Map.find u.vfPart j = Map.find s.vfPart j)) ∧
  (op = 0x60 →
    let x : Grant := { srcMod := BitVec.ofNat 10 (bytesAt ws 4 2), srcTenant := BitVec.ofNat 16 (bytesAt ws 6 2), part := BitVec.ofNat 5 (bytesAt ws 8 1), tenant := BitVec.ofNat 16 (bytesAt ws 10 2), keyid := BitVec.ofNat 13 (bytesAt ws 12 2), rights := BitVec.ofNat 4 (bytesAt ws 14 1) }
    let wf := bytesAt ws 4 2 < 1024 ∧ bytesAt ws 8 1 < 32 ∧ bytesAt ws 12 2 < 8192 ∧ bytesAt ws 14 1 < 16 ∧ blank ws 64 [(4, 5), (10, 5)] ∧ nodeOf s (bytesAt ws 8 1) ≠ 0
    let mem := fun (g : Grant) => g.rights.toNat % 8 ≠ 0
    let source := fun (g : Grant) => g.srcMod = x.srcMod ∧ g.srcTenant = x.srcTenant
    let clash := mem x ∧ ∃ g ∈ s.grant, source g ∧ g.part ≠ x.part ∧ mem g
    let others := s.grant.filter (fun g => !decide (g.srcMod = x.srcMod ∧ g.srcTenant = x.srcTenant ∧ g.part = x.part))
    (¬wf → Finishes (.podgrant pf) s s pf 3) ∧ (wf → clash → Finishes (.podgrant pf) s s pf 2) ∧
    (wf → ¬clash → 16384 ≤ others.length → Finishes (.podgrant pf) s s pf 1) ∧
    (wf → ¬clash → others.length < 16384 → Finishes (.podgrant pf) s { s with grant := others ++ [x] } pf 0)) ∧
  (op = 0x61 →
    let wf := bytesAt ws 4 2 < 1024 ∧ bytesAt ws 8 1 < 32 ∧ blank ws 64 [(4, 5)]
    let mine := fun (g : Grant) => decide (g.srcMod.toNat = bytesAt ws 4 2 ∧ g.srcTenant.toNat = bytesAt ws 6 2 ∧ g.part.toNat = bytesAt ws 8 1)
    let used := fun (g : Grant) => ∃ r ∈ s.reqs, r.stamp.part = g.part ∧ r.msg.srcTenant = g.srcTenant ∧ ∃ t, r.who = .peer g.srcMod t
    (¬wf → Finishes (.podrevoke pf) s s pf 3) ∧ (wf → (∀ g ∈ s.grant, mine g = false) → Finishes (.podrevoke pf) s s pf 2) ∧
    (∀ g, wf → s.grant.find? mine = some g → used g → Waits (.podrevoke pf) s { s with
      grant := s.grant.map (fun y => if mine y then { y with revoking := true } else y) } pf) ∧
    (∀ g, wf → s.grant.find? mine = some g → ¬used g → Finishes (.podrevoke pf) s { s with grant := s.grant.filter (fun y => !mine y) } pf 0)) ∧
  (op = 0x62 →
    let m := bytesAt ws 4 2
    let wf := m < 1024 ∧ blank ws 64 [(4, 4)]
    (¬wf → Finishes (.podrt pf) s s pf 3) ∧
    (wf → ∃ u, Finishes (.podrt pf) s u pf 0 ∧ u = { s with route := u.route } ∧ Map.get u.route 0 m = BitVec.ofNat 16 (bytesAt ws 6 2) ∧
      ∀ j, j ≠ m → Map.get u.route 0 j = Map.get s.route 0 j))

namespace Sys2Proof.Claims

/-- The LIVE counter of a tenant identity, and its value where it is bound to a partition (R445). -/
def liveCounter (s : State) (tid : BitVec 64) : Option Counter := (s.counter.find? (fun x => x.2.live && decide (x.2.tid = tid))).map Prod.snd
def bound_ (s : State) (tid : BitVec 64) (p v : Nat) : Prop := ∃ c, liveCounter s tid = some c ∧ c.part.toNat = p ∧ c.val.toNat = v

/-- The counter of a tenant identity is LIVE with a value. -/
def counterAt (s : State) (tid : BitVec 64) (v : Nat) : Prop := ∃ c, liveCounter s tid = some c ∧ c.val.toNat = v

/-- The counter slots are in the order of their numbers: none stands in the table twice (kept by every step: `NumbersStayDistinct`). -/
def oneEach (s : State) : Prop := Map.sorted s.counter = true

/-- A status from 4 on enters the partition's event log (R449). -/
def logged_ (s : State) (p : Nat) (d : BitVec 4) (c : BitVec 8) : State :=
  logEvent s (BitVec.ofNat 5 p) (BitVec.ofNat 32 (d.toNat * 2 ^ 28 + 2 ^ 8 + c.toNat)) c (d.setWidth 5)

end Sys2Proof.Claims

/-- R445-R452: the kiln. `KCTR` binds a FREE slot with value 0 and `KCTRFREE` erases one; `KNONCE` keeps the last 16 nonces; `KQUOTE` writes
a signed quote; `KSEAL` raises the tenant's counter before anything is written and seals the image; `KEXPORT` consumes the nonce, wraps the image
for the peer, and makes every image at or below its CTR stale; `KOPEN` refuses a stale image, and else hands the plain image to the save area.
No value of a LIVE counter falls. How a refusal's origin word stands is the model's (log entry 29); so are the status of an image at the
last counter value (log entry 122) and the exact use of the two algorithms (log entry 127). -/
def Obligations.KilnCommands : Prop := ∀ (s : State) (pf : Bool) (ws m : List Word), oneEach s →
  (∀ e ∈ [Instr.kctr pf m, .knonce pf, .kquote pf, .kseal pf, .kexport pf m, .kopen pf], ∀ t, exec e s = .next t →
    ∀ i c, Map.find s.counter i = some c → c.live = true →
      ∃ c', Map.find t.counter i = some c' ∧ c'.live = true ∧ c'.tid = c.tid ∧ c'.part = c.part ∧ c.val.toNat ≤ c'.val.toNat) ∧
  let op := bytesAt ws 0 1
  let p := bytesAt ws 4 1
  let part : BitVec 5 := BitVec.ofNat 5 p
  (let i := bytesAt m 16 2
    let q := bytesAt m 4 1
    let tid : BitVec 64 := BitVec.ofNat 64 (bytesAt m 8 8)
    let wf := bytesAt m 0 1 = 0x70 ∧ q < 32 ∧ i < 4096 ∧ blank m 128 [(4, 1), (8, 10)] ∧ nodeOf s q ≠ 0
    let bad := (Map.get s.counter {} i).live = true ∨ liveCounter s tid ≠ none
    (¬wf → Secured (.kctr pf m) s s pf m 3) ∧ (wf → bad → Secured (.kctr pf m) s s pf m 2) ∧
    (wf → ¬bad → ∃ u, Secured (.kctr pf m) s u pf m 0 ∧ u = { s with counter := u.counter } ∧ (∀ j, j ≠ i → Map.get u.counter {} j = Map.get s.counter {} j) ∧
      Map.get u.counter {} i = { live := true, tid := tid, part := BitVec.ofNat 5 q, val := 0 })) ∧
  (let i := bytesAt m 16 2
    let wf := bytesAt m 0 1 = 0x71 ∧ i < 4096 ∧ blank m 128 [(16, 2)]
    (¬wf → Secured (.kctrfree pf m) s s pf m 3) ∧ (wf → (Map.get s.counter {} i).live = false → Secured (.kctrfree pf m) s s pf m 2) ∧
    (wf → (Map.get s.counter {} i).live = true → ∃ u, Secured (.kctrfree pf m) s u pf m 0 ∧ u = { s with counter := u.counter } ∧ Map.find u.counter i = none ∧
      ∀ j, j ≠ i → Map.get u.counter {} j = Map.get s.counter {} j)) ∧
  (Entry s pf ws → op = 0x72 →
    (¬blank ws 64 [] → Finishes (.knonce pf) s s pf 3) ∧
    (blank ws 64 [] → ∃ u b, Finishes (.knonce pf) s u pf 0 ∧ b.length = 32 ∧ u.nonce = (s.nonce ++ [b]).drop (s.nonce.length - 15) ∧
      u = { s with nonce := u.nonce, taken := u.taken })) ∧
  (Entry s pf ws → op = 0x73 →
    let q := bytesAt ws 54 1
    let k := bytesAt ws 52 2
    let wf := q < 32 ∧ k < 8192 ∧ blank ws 64 [(4, 51)] ∧ nodeOf s q ≠ 0
    let body := quoteBody s (((ws.flatMap (fun (w : Word) => leBytes 4 w.toNat)).drop 4).take 32) (BitVec.ofNat 64 (bytesAt ws 36 8))
    let f := s.free
    let put := f.2.writePart (BitVec.ofNat 5 q) (bytesAt ws 44 8) (BitVec.ofNat 13 k) (body ++ padTo 29792 (slhSign identitySeed (kilnRandom f.1) body))
    (¬wf → Finishes (.kquote pf) s s pf 3) ∧ (wf → Finishes (.kquote pf) s put.1 pf (if put.2 then 0 else 2))) ∧
  (Entry s pf ws → op = 0x74 →
    let tid : BitVec 64 := BitVec.ofNat 64 (bytesAt ws 8 8)
    let ks := bytesAt ws 40 2
    let kd := bytesAt ws 42 2
    let wf := p < 32 ∧ ks < 8192 ∧ kd < 8192 ∧ blank ws 64 [(4, 1), (8, 36)] ∧ nodeOf s p ≠ 0
    let snaps := (∃ x ∈ s.region, x.2.part = part ∧ (x.2.snap ≠ none ∨ (x.2.restoring = true ∧ x.2.st = .loading))) ∨
      ∃ r ∈ s.reqs, r.stamp.part = part ∧ r.stage = .home ∧ ∃ ws, r.op = .restore ws
    let s1 := s.usePart part (bytesAt ws 16 8) 64 (BitVec.ofNat 13 ks)
    let head := s1.readPart part (bytesAt ws 16 8) 64 (BitVec.ofNat 13 ks)
    (¬wf → Finishes (.kseal pf) s s pf 3) ∧ (wf → snaps → Finishes (.kseal pf) s s pf 1) ∧
    (wf → ¬snaps → (∀ v, ¬bound_ s tid p v) → Finishes (.kseal pf) s s1 pf 2) ∧
    (∀ v hb, wf → ¬snaps → bound_ s tid p v → head = .ok hb →
      let hw := bytesWords hb
      let n := (hw.getD 3 0).toNat
      let h : KilnHead := { tid := tid, ctr := v + 1, feat := hw.getD 4 0, plen := n, src := field s.podid 0 10, meas := measureOf hw }
      let refused := imageHeadOk hw = false ∨ v = 2 ^ 64 - 1 ∨ bytesAt ws 32 8 < h.size
      (refused → Finishes (.kseal pf) s s1 pf 2) ∧
      (¬refused → ∃ u st, Finishes (.kseal pf) s u pf st ∧ (st = 0 ∨ st = 2) ∧ counterAt u tid (v + 1) ∧
        (st = 0 → ∃ (w : State) (b : List Byte), u = (w.writePart part (bytesAt ws 24 8) (BitVec.ofNat 13 kd) (h.page (sealKey h.meas tid (v + 1)) [] [] ++ sealAll h (sealKey h.meas tid (v + 1)) b)).1 ∧
          w = { s with counter := w.counter, die := w.die } ∧ w.readPart part (bytesAt ws 16 8) n (BitVec.ofNat 13 ks) = .ok b)))) ∧
  (let q := bytesAt m 4 1
    let tid : BitVec 64 := BitVec.ofNat 64 (bytesAt m 8 8)
    let ks := bytesAt m 40 2
    let kd := bytesAt m 42 2
    let bytes := m.flatMap (fun (w : Word) => leBytes 4 w.toNat)
    let nonce := (bytes.drop 64).take 32
    let wf := bytesAt m 0 1 = 0x75 ∧ q < 32 ∧ ks < 8192 ∧ kd < 8192 ∧ blank m 128 [(4, 1), (8, 36), (64, 64)] ∧ nodeOf s q ≠ 0
    let s1 := (useKiln s (BitVec.ofNat 5 q) (bytesAt m 16 8) (BitVec.ofNat 13 ks)).usePart (BitVec.ofNat 5 q) (bytesAt m 24 8) 31616 (BitVec.ofNat 13 ks)
    let image := readKiln s1 (BitVec.ofNat 5 q) (bytesAt m 16 8) (BitVec.ofNat 13 ks)
    let quote := s1.readPart (BitVec.ofNat 5 q) (bytesAt m 24 8) 31616 (BitVec.ofNat 13 ks)
    (¬wf → Secured (.kexport pf m) s s pf m 3) ∧ (wf → image = none → Secured (.kexport pf m) s s1 pf m 2) ∧
    (∀ page h body qb b v, wf → image = some (page, h, body) → quote = .ok qb → h.tid = tid → openAll h (sealKey h.meas tid h.ctr) page body = some b →
      h.wrap = false → h.src = field s.podid 0 10 → bound_ s tid q v →
      (h.ctr < v → Secured (.kexport pf m) s (logged_ s1 q 0 0x12) pf m 4) ∧
      let stays := holdsLatch b = true ∨ 2 ^ 64 - 1 ≤ h.ctr
      let proven := quoteOk s qb nonce ((bytes.drop 96).take 32) = true ∧ kemKeyOk ((qb.drop 0x100).take 1568) = true
      (v ≤ h.ctr → stays → Secured (.kexport pf m) s s1 pf m 2) ∧
      (v ≤ h.ctr → ¬stays → ¬proven → Secured (.kexport pf m) s (logged_ s1 q 0 0x15) pf m 6) ∧
      (v ≤ h.ctr → ¬stays → proven →
        (quoteFits qb h.feat = false → Secured (.kexport pf m) s (logged_ { s1 with nonce := s.nonce.erase nonce } q 0 0x0F) pf m 5) ∧
        (quoteFits qb h.feat = true → ∃ u st, Secured (.kexport pf m) s u pf m st ∧ (st = 0 ∨ st = 2) ∧ u.nonce = s.nonce.erase nonce ∧
          (st = 0 → counterAt u tid (h.ctr + 1)))))) ∧
  (Entry s pf ws → op = 0x76 →
    let die : BitVec 4 := BitVec.ofNat 4 (bytesAt ws 5 1)
    let wf := p < 32 ∧ bytesAt ws 5 1 < 16 ∧ bytesAt ws 20 2 < 8192 ∧ blank ws 64 [(4, 2), (8, 14)] ∧ nodeOf s p ≠ 0
    let s1 := useKiln s part (bytesAt ws 8 8) (BitVec.ofNat 13 (bytesAt ws 20 2))
    let image := readKiln s1 part (bytesAt ws 8 8) (BitVec.ofNat 13 (bytesAt ws 20 2))
    (¬wf → Finishes (.kopen pf) s s pf 3) ∧ (wf → image = none → Finishes (.kopen pf) s s1 pf 2) ∧
    (∀ page h body v, wf → image = some (page, h, body) → bound_ s h.tid p v → (if h.wrap then h.dst else h.src) = field s.podid 0 10 →
      (h.ctr < v → Finishes (.kopen pf) s (logged_ s1 p die 0x12) pf 4) ∧
      (∀ b, openChecks s1 part die (ws.getD 4 0) page h body = .ok b → h.ctr < 2 ^ 64 →
        let put := s1.writePart part (s.pcbD part 0x30) ((s.pcbW part 0x2C).extractLsb' 16 13) b
        (put.2 = false → Finishes (.kopen pf) s put.1 pf 2) ∧
        (put.2 = true → ∃ u, Finishes (.kopen pf) s u pf 0 ∧ counterAt u h.tid h.ctr ∧ u.mem = put.1.mem)) ∧
      (∀ b, openChecks s1 part die (ws.getD 4 0) page h body = .ok b → v ≤ h.ctr)))

/-- R378, R436, R437, R441, R442, R444: what the pod brings. A peer's request is served under the one grant of its source that holds its right, with the
grant's key, once its link is up, waits for the host's translation, or is refused with reason 1 or 2 and logged; a recovery query is answered
from the log, and an acknowledgement empties it; a peer's decrement needs right D for the record's own PART; a link that fails
leaves its buffered stores HELD with reason 3 and its latch accesses without an answer.
The cause and the die of the log entry, its time, and how queries and a request that has to wait are served are the model's
(log entries 58, 82, 126). -/
def Sys2Proof.Claims.PeersAndLinks : Prop := ∀ (s : State),
  (∀ r : PodMessage,
    let source := fun (g : Grant) => decide (g.srcMod = r.srcMod ∧ g.srcTenant = r.srcTenant)
    let serving := fun (g : Grant) => source g && decide (g.rights.toNat % 8 ≠ 0) && !g.revoking
    let up := s.linkUp.getLsbD r.port.toNat = true
    let sized := ∀ ws, r.op = .write ws → ws.length = 1 ∨ ws.length = 16
    let needs := match r.op with
      | .write _ => 1
      | .add _ => 2
      | _ => 0
    let op : Op := match r.op with
      | .read line => .load (if line then 16 else 1)
      | .write ws => .store ws
      | .add n => .atomic 0 0 ⟨n, false⟩
      | _ => .probe
    let origin := fun (c : BitVec 8) => BitVec.ofNat 32 (r.port.toNat * 2 ^ 28 + 2 * 2 ^ 13 + 2 ^ 8 + c.toNat)
    let edge : BitVec 5 := if r.port.toNat < 8 then 16 else 17
    let logOf := (((s.grant.find? serving).orElse (fun _ => s.grant.find? source)).map Grant.part).getD 0
    let tells := fun (x : PodReply) => { s with podSent := s.podSent ++ [{ mod := r.srcMod, port := r.port, reply := some x }] }
    let turned := fun (reason : Nat) (c cause : BitVec 8) => ∃ u, exec (.podRequestArrival r) s = .next { logEvent { s with serial := u } logOf (origin c) c edge with
      podSent := s.podSent ++ [{ mod := r.srcMod, port := r.port, reply := some { tag := r.tag, reason := some reason, cause := cause, cond := false } }] }
    (¬up ∨ ¬sized → exec (.podRequestArrival r) s = .next s) ∧
    (up → sized → r.op ≠ .query → r.op ≠ .ack → (∀ x ∈ s.reqs, x.id ≠ s.serial) →
      (s.grant.find? serving = none → turned 1 0x10 0) ∧
      (∀ g, s.grant.find? serving = some g →
        let st : Stamp := { part := g.part, tenant := g.tenant, keyid := g.keyid }
        let comes := fun (q : Req) => q.id = s.serial ∧ q.who = .peer r.srcMod r.tag ∧ q.stamp = st ∧ q.va = r.va ∧ q.op = op ∧ q.msg = r
        let room := fun (ps : List (Nat × BitVec 13)) => s.noRoom ps = false
        (g.rights.getLsbD needs = false → turned 1 0x10 0) ∧
        (∀ c, g.rights.getLsbD needs = true → checkPeer s st r.va op = .error c → turned 2 c c) ∧
        (∀ ps qs, g.rights.getLsbD needs = true → checkPeer s st r.va op = .ok (ps, qs) → ¬room ps → exec (.podRequestArrival r) s = .next s) ∧
        (∀ ps, g.rights.getLsbD needs = true → checkPeer s st r.va op = .ok (ps, none) → room ps → ∃ q,
          exec (.podRequestArrival r) s = .next { s with serial := s.serial + 1, reqs := s.reqs ++ [q] } ∧ comes q ∧ q.stage = .ats ∧ q.pri = false ∧ q.pas = ps) ∧
        (∀ ps qs, g.rights.getLsbD needs = true → checkPeer s st r.va op = .ok (ps, some qs) → room ps → ∃ u q, exec (.podRequestArrival r) s = .next u ∧
          u = { s with serial := u.serial, reqs := s.reqs ++ [q], net := u.net } ∧ comes q ∧ q.stage = .home ∧ q.pas = qs))) ∧
    (let mine := fun (x : LogEntry) => decide (x.mod = some r.srcMod) && decide (x.node = r.node) && decide (x.seq = r.seq)
      let waits := fun (x : Req) => decide (x.msg.node = r.node) && decide (x.msg.seq = r.seq) && (match x.who, x.op with
        | .peer m _, .atomic _ _ _ => decide (m = r.srcMod)
        | _, _ => false)
      (up → r.op = .ack → exec (.podRequestArrival r) s = .next { s with logs := s.logs.filter (fun x => !mine x) }) ∧
      (∀ x, up → r.op = .query → s.logs.find? mine = some x → ∃ y, exec (.podRequestArrival r) s = .next (tells y) ∧ y.tag = r.tag ∧ y.notTaken = false) ∧
      (∀ q, up → r.op = .query → s.logs.find? mine = none → s.reqs.find? waits = some q →
        exec (.podRequestArrival r) s = .next (s.setReq { q with asks := q.asks ++ [r.tag] })) ∧
      (up → r.op = .query → s.logs.find? mine = none → s.reqs.find? waits = none →
        exec (.podRequestArrival r) s = .next (tells { tag := r.tag, cond := false, notTaken := true })))) ∧
  (∀ r : PodDecrement, (s.linkUp.getLsbD r.port.toNat = false → exec (.remoteDecrement r) s = .next s) ∧
    (s.linkUp.getLsbD r.port.toNat = true → exec (.remoteDecrement r) s = .next { s with
    serial := s.serial + 1
    decs := s.decs ++ [{ id := s.serial, pod := some (r.port, r.srcMod, r.srcTenant), src := r.ref.extractLsb' 28 4, ref := r.ref, exp := r.exp, rb := r.rb }] })) ∧
  (∀ id m port mod tenant, s.decs.find? (fun x => decide (x.id = id)) = some m → m.pod = some (port, mod, tenant) →
    (decsAt s (m.ref.extractLsb' 28 4)).head? = some m → (s.dieAt (m.ref.extractLsb' 28 4)).decAt ≠ some s.cycle →
    let d : BitVec 4 := m.ref.extractLsb' 28 4
    let i := field m.ref 14 14
    let t := s.task d i
    let under : BitVec 5 := (Map.get t.w 0 7).extractLsb' 11 5
    let mine := s.grant.find? (fun g => decide (g.srcMod = mod ∧ g.srcTenant = tenant) && decide (g.part = under) && !g.revoking)
    let stale := tgen t ≠ field m.ref 6 8 ∨ tstate t ≤ 1 ∨ tfield t 0 10 1 = 0
    let dropped := ∃ u, exec (.decrementApply id) s = .next u ∧ (∀ e j, u.task e j = s.task e j) ∧ u.dover = s.dover ∧ counted s.dstale u.dstale under
    (mine = none → dropped) ∧
    (∀ g, mine = some g → g.rights.getLsbD 3 = false ∨ s.admitted d = false → dropped) ∧
    (∀ g, mine = some g → g.rights.getLsbD 3 = true → s.admitted d = true → stale → tstate t ≠ 0 → dropped) ∧
    (∀ g, mine = some g → g.rights.getLsbD 3 = true → s.admitted d = true → ¬stale → tstate t = 2 → tcnt t ≠ 2 → ∃ u,
      exec (.decrementApply id) s = .next u ∧ OnlyTask s u d i ∧ tstate (u.task d i) = 2 ∧ tcnt (u.task d i) = tcnt t - 1)) ∧
  (∀ p : BitVec 4, let opened := s.edgeOpen (decide (8 ≤ p.toNat)) = true
    (opened → exec (.podLinkUp p) s = .next { s with linkUp := s.linkUp ||| (1 <<< p.toNat) }) ∧ (¬opened → exec (.podLinkUp p) s = .next s)) ∧
  (∀ p : BitVec 4, (s.reqs.map Req.id).Nodup → ∃ u, exec (.podLinkFailure p) s = .next u ∧
    u.linkUp = s.linkUp &&& ~~~((1 : BitVec 16) <<< p.toNat) ∧ u = { s with linkUp := u.linkUp, reqs := u.reqs, resps := u.resps } ∧
    ∀ r ∈ s.reqs,
      let lost := r.op.podMod ≠ none ∧ r.stage = .home ∧ r.podPort = p
      (¬lost → r ∈ u.reqs ∧ u.resp r.id = s.resp r.id) ∧
      (lost → (∃ n q, r.who = .latch n q) → u.req r.id = none ∧ u.resp r.id = s.resp r.id) ∧
      (lost → (∀ n q, r.who ≠ .latch n q) → s.resp r.id = none → u.req r.id = some { r with stage := .kept } ∧ ∃ x fi, u.resp r.id = some x ∧ x.who = r.who ∧
        x.ans.fault = some fi ∧ fi.cause = 0x10 ∧ fi.aux = 0 ∧ field fi.detb 20 2 = 3 ∧ (∀ m, r.op.podMod = some m → field fi.detb 22 10 = m.toNat)))

/-- R424, R425, R432: what the host answers. A translation enters the ATC of its port; one that denies access, or that is of an older generation, makes the
access fault with PAGE; a page response lets the access be made again, or turns its fault into PROT, for an engine that of the denied address; an invalidation drops the PASID's
translations of the port.
That a denied page request changes the record that stands is the model's reading (log entry 39). -/
def Sys2Proof.Claims.HostAnswers : Prop := ∀ (s : State),
  (∀ (c : AtsAnswer) r, s.req c.id = some r →
    let live := r.stage = .ats ∧ r.pri = false ∧ c.gen = r.gen
    let page := accessFault 0x06 0 r.va r.op.access.2.1.writes r.who.path
    (¬live → exec (.atsCompletion c) s = .next s) ∧
    (∀ n, live → r.who = .node n → r.gen < s.genReq r → exec (.atsCompletion c) s = .next (refused s r page)) ∧
    (∀ n, live → r.who = .node n → s.genReq r ≤ r.gen → c.addr = none → pageRoom s r = true → exec (.atsCompletion c) s = .next (refused s { r with pri := true } page)) ∧
    (∀ a pa south, live → s.genReq r ≤ r.gen → c.addr = some a → missing s r = some pa → s.target pa = .host south → (∀ d q, r.who ≠ .queue d q) → (∀ m t, r.who ≠ .peer m t) → ∃ u,
      exec (.atsCompletion c) s = .next u ∧ u.mem = s.mem ∧ (u.hport (!south)) = s.hport (!south) ∧
      ∃ e ∈ (u.hport south).atc, e.part = r.stamp.part ∧ e.tenant = r.stamp.tenant ∧ e.va = pa % 2 ^ 50 / 0x10000 * 0x10000 ∧ e.pa = a.toNat / 0x10000 * 0x10000 % 2 ^ 50 ∧
        e.pasid = s.pasidReq r)) ∧
  (∀ id r (x : PriResponse), s.req id = some r →
    (r.pri = false → exec (.pageRequestResponse id x) s = .next s) ∧
    (∀ n, r.pri = true → r.who = .node n → r.gen < s.genReq r → exec (.pageRequestResponse id x) s = .next (s.setReq { r with pri := false })) ∧
    (∀ n, r.pri = true → r.who = .node n → s.genReq r ≤ r.gen → r.stage = .kept → (∀ y ∈ s.resps, y.id ≠ id) → x ≠ .success →
      (s.nd n).st = .faulted → (s.nd n).cause = 0x06 → ∃ u, exec (.pageRequestResponse id x) s = .next u ∧ (u.nd n).cause = 0x07 ∧
      (u.nd n).st = .faulted ∧ (∀ m, m ≠ n → u.nd m = s.nd m) ∧ u.mem = s.mem) ∧
    (∀ y f, r.pri = true → (∀ d q, r.who ≠ .queue d q) → (∀ t p, r.who ≠ .port t p) → (∀ d k e, r.who ≠ .eng d k e) → (∀ m t, r.who ≠ .peer m t) → s.genReq r ≤ r.gen → r.stage = .kept →
      s.resp id = some y → y.ans.fault = some f → x = .success → ∃ u, exec (.pageRequestResponse id x) s = .next u ∧ u.resp id = none ∧
      ∃ q, u.req id = some q ∧ q.stage = .port ∧ q.pri = false ∧ q.va = r.va ∧ q.op = r.op) ∧
    (∀ d k n, r.pri = true → r.who = .eng d k n → s.genReq r ≤ r.gen → ∃ u, exec (.pageRequestResponse id x) s = .next u ∧ u.req id = none ∧
      engine u d k n = (if x = .success then { engine s d k n with held := none } else { engine s d k n with held := none, queue := (engine s d k n).queue.modifyHead (fun c => { c with denied := r.va.toNat :: c.denied }) }) ∧ u.mem = s.mem)) ∧
  (∀ (port : Bool) (p : BitVec 20),
    let h := s.hport port
    (p ∉ h.invals → exec (.atsInvalidationCompletion port p) s = .next s) ∧
    (p ∈ h.invals → ∃ u, exec (.atsInvalidationCompletion port p) s = .next u ∧ u = { s with port := u.port } ∧ u.hport (!port) = s.hport (!port) ∧
      u.hport port = { h with invals := h.invals.filter (fun x => decide (x ≠ p)), atc := h.atc.filter (fun e => decide (e.pasid ≠ p)) }))

/-- R424, R426, R431: functions. An FLR returns the function's registers to reset, and with a PF's those of its VFs; a TDI goes from UNLOCKED to LOCKED and from LOCKED to RUN; one that enters
ERROR puts every queue of its partition in error with reason 6.
What an FLR clears is the model's reading (log entry 28). -/
def Sys2Proof.Claims.FunctionsAndInterfaces : Prop := ∀ (s : State),
  (∀ fn : BitVec 12, ∃ u, exec (.flr fn) s = .next u ∧ Map.find u.ats fn.toNat = none ∧ u = { s with ats := u.ats, port := u.port } ∧
    (fn.toNat % 2048 ≠ 0 → u.port = s.port ∧ ∀ j, j ≠ fn.toNat → Map.find u.ats j = Map.find s.ats j) ∧
    (fn.toNat % 2048 = 0 → let b := fn.getLsbD 11
      (∀ j, s.vfPort j = some b → Map.find u.ats j = none) ∧ (∀ j, j ≠ fn.toNat → s.vfPort j ≠ some b → Map.find u.ats j = Map.find s.ats j) ∧
      (u.hport b).numVfs = 0 ∧ (u.hport b).ring = [] ∧ (u.hport b).doe = [] ∧ u.hport (!b) = s.hport (!b) ∧ (u.hport b).mrtail = 0 ∧ (u.hport b).mrhead = 0 ∧ (u.hport b).mrctl = 0 ∧ (u.hport b).mrlast = 0 ∧ (u.hport b).busy = false)) ∧
  (∀ (v : BitVec 11) (run : Bool),
    let now := Map.get s.tdi .unlocked v.toNat
    let next : TdiState := if run then .run else .locked
    let moves := (now = .unlocked ∧ run = false) ∨ (now = .locked ∧ run = true)
    (moves → exec (.tdispRequest v run) s = .next { s with tdi := Map.set s.tdi v.toNat next }) ∧ (¬moves → exec (.tdispRequest v run) s = .next s)) ∧
  (∀ v : BitVec 11, ∃ u, exec (.tdiError v) s = .next u ∧ Map.get u.tdi .unlocked v.toNat = .error ∧ u.node = s.node ∧
    ∀ p, Map.find s.vfPart v.toNat = some p → ∀ r ∈ s.qreg, r.part = p → ∃ x ∈ u.qreg, x.fn = r.fn ∧ x.q = r.q ∧ (r.err = 0 → s.queueReg r.fn r.q = some r → x.err = 6))

/-- R9-R12, R287, R424, R428, R430, R435, R445, R462-R468: bring-up. A cold reset and a loss of power keep the tenant counters alone; a die is admitted unless it stopped in ROM
or failed its self-test, and acts as admitted from the next cycle; training raises its feature mask, which only gains bits until the next reset; the clock switches once
every admitted compute die has passed (the inlet temperature that THERM then shows is no value of the spec's, log entry 59); the registers take what their fields hold and nothing else, NumVFs as log entry 57 has it; a band of HBM4 changes its mode only while no partition reaches it,
and is scrubbed. -/
def Sys2Proof.Claims.BringUp : Prop := ∀ (s : State),
  let off : State := { State.reset with agenda := s.agenda, taken := s.taken, counter := s.counter }
  (∀ (rom fw fail : BitVec 18) (meas : List Byte), exec (.coldReset { rom := rom, image := fw } fail meas) s = .next { off with rom := rom ||| fw, fwfail := decide (fw &&& ~~~rom ≠ 0), stfail := fail &&& ~~~(rom ||| fw), booted := ~~~(rom ||| fw ||| fail), fwmeas := meas }) ∧
  exec .powerLoss s = .next off ∧
  (∀ d : BitVec 5,
    let ok := d.toNat < 18 ∧ s.booted.getLsbD d.toNat = true ∧ s.stfail.getLsbD d.toNat = false ∧ s.dadm.getLsbD d.toNat = false
    (ok → exec (.dieAdmit d) s = .next { s with dadm := s.dadm ||| (1 <<< d.toNat), admitting := s.admitting ||| (1 <<< d.toNat) } ∧
      (∀ u : State, u.admitting = s.admitting ||| (1 <<< d.toNat) → d.toNat < 16 → u.admitted (d.setWidth 4) = false) ∧ (endCycle s).admitting = 0) ∧ (¬ok → exec (.dieAdmit d) s = .next s)) ∧
  (∀ (d : BitVec 5) (passed : BitVec 6),
    let due := d.toNat < 18 ∧ s.dadm.getLsbD d.toNat = true ∧ s.full.getLsbD d.toNat = false ∧ s.stfail.getLsbD d.toNat = false
    (¬due → exec (.dieFullService d passed) s = .next s) ∧
    (due → ∃ u, exec (.dieFullService d passed) s = .next u ∧ u = { s with stfail := u.stfail, full := u.full, die := u.die, ddr := u.ddr } ∧
      (∀ j, j ≠ d.toNat → u.stfail.getLsbD j = s.stfail.getLsbD j ∧ u.full.getLsbD j = s.full.getLsbD j) ∧
      u.stfail.getLsbD d.toNat = (s.stfail.getLsbD d.toNat || decide (passed ≠ 0x3F)) ∧
      (d.toNat < 16 → u.full.getLsbD d.toNat = true ∧ u.ddr = s.ddr ∧ ∀ x : BitVec 4, u.dieAt x = (if x.toNat = d.toNat then { s.dieAt x with fmask := passed } else s.dieAt x)) ∧
      (16 ≤ d.toNat → u.die = s.die ∧ u.full.getLsbD d.toNat = decide (passed ≠ 0)))) ∧
  (let every := (∃ d, d < 16 ∧ s.dadm.getLsbD d = true) ∧ ∀ d, d < 16 → s.dadm.getLsbD d = true → s.full.getLsbD d = true;
    (every → exec .clockSwitch s = .next { s with clk := true, inlet := Config.coolant }) ∧ (¬every → exec .clockSwitch s = .next s)) ∧
  (∀ (d : BitVec 4) (f : BitVec 3) (pass : Bool),
    let x := s.dieAt d
    let gains := f.toNat < 6 ∧ s.full.getLsbD d.toNat = true ∧ x.fmask.getLsbD f.toNat = false ∧ (∀ g ∈ s.region, g.2.die ≠ d ∨ g.2.st = .saved) ∧ pass = true
    (gains → exec (.warmRecalibration d f pass) s = .next (s.setDie d { x with fmask := x.fmask ||| (1 <<< f.toNat) })) ∧
    (¬gains → exec (.warmRecalibration d f pass) s = .next s)) ∧
  (∀ (pf : Bool) (o : BitVec 14) (v : Word) (fn : BitVec 12) (d : BitVec 4) (p : BitVec 5) (w : BitVec 16) (on : Bool),
    let h := s.hport pf
    let puts := fun (x : HostPort) => ∃ u, exec (.registerWrite (.mgmt pf o v)) s = .next u ∧ u.hport pf = x ∧ u.hport (!pf) = s.hport (!pf) ∧ u = { s with port := u.port }
    let opened := s.edgeOpen pf = true
    (¬opened → exec (.registerWrite (.mgmt pf o v)) s = .next s) ∧
    (opened → o = 0x400 → puts { h with mrtail := v.extractLsb' 0 6 }) ∧ (opened → o = 0x408 → puts { h with mrctl := v &&& 0x07FF0001 }) ∧
    (opened → 0x2000 ≤ o.toNat → o.toNat < 0x3000 → ∃ u, exec (.registerWrite (.mgmt pf o v)) s = .next u ∧ Map.get (u.hport pf).ring 0 ((o.toNat - 0x2000) / 4) = v ∧
      (∀ j, j ≠ (o.toNat - 0x2000) / 4 → Map.get (u.hport pf).ring 0 j = Map.get h.ring 0 j) ∧ u.hport pf = { h with ring := (u.hport pf).ring } ∧ u = { s with port := u.port }) ∧
    let door := 0x1000 ≤ o.toNat ∧ o.toNat < 0x1200 ∧ o.toNat % 8 = 0
    let bell := fun (f : BitVec 12) => exec (.queueDoorbell f (BitVec.ofNat 6 ((o.toNat - 0x1000) / 8)) v) s
    (o ≠ 0x400 → o ≠ 0x408 → (o.toNat < 0x2000 ∨ 0x3000 ≤ o.toNat) → ¬door → exec (.registerWrite (.mgmt pf o v)) s = .next s) ∧
    (door → exec (.registerWrite (.mgmt pf o v)) s = bell (if pf then 0x800 else 0) ∧ exec (.registerWrite (.vf fn o v)) s = bell fn) ∧
    (¬door → exec (.registerWrite (.vf fn o v)) s = .next s) ∧
    (∀ k : BitVec 11, let room := k.toNat + (s.hport (!pf)).numVfs ≤ 1024;
      (room → ∃ u, exec (.registerWrite (.numVfs pf k)) s = .next u ∧ u.hport pf = { h with numVfs := k.toNat } ∧ u.hport (!pf) = s.hport (!pf) ∧
        u = { s with port := u.port }) ∧ (¬room → exec (.registerWrite (.numVfs pf k)) s = .next s)) ∧
    exec (.registerWrite (.dcfg d v)) s = .next (s.setDie d { s.dieAt d with dcfg := v &&& 0x3FF }) ∧
    exec (.registerWrite (.waymask p w)) s = .next (s.setPt p { s.pt p with waymask := w }) ∧
    exec (.registerWrite (.podid v)) s = .next { s with podid := v &&& 0x800003FF } ∧
    exec (.registerWrite (.ats fn on)) s = .next { s with ats := Map.set s.ats fn.toNat on }) ∧
  (∀ (v : BitVec 64) (n : Nat), n < 48 → (∀ j, j < 48 → j ≠ n → v.getLsbD j = s.hbmode.getLsbD j) →
    let moves := v.getLsbD n ≠ s.hbmode.getLsbD n ∧ reachers s (n * 2 ^ 34) (2 ^ 34) = []
    (¬moves → exec (.hbmodeWrite v) s = .next s) ∧
    (moves → ∃ u, exec (.hbmodeWrite v) s = .next u ∧ (∀ j, j < 64 → u.hbmode.getLsbD j = (if j = n then v.getLsbD n else s.hbmode.getLsbD j)) ∧
      (∀ a, n * 2 ^ 34 ≤ a → a < (n + 1) * 2 ^ 34 → memGet u.mem a = 0 ∧ u.metaAt a = {}) ∧
      (∀ a, a < n * 2 ^ 34 ∨ (n + 1) * 2 ^ 34 ≤ a → memGet u.mem a = memGet s.mem a) ∧ u.node = s.node ∧ u.part = s.part))

/-- R433, R466, R468: temperature and power. Any of its own measurements is what a die acts on: from 105 °C it is throttled until it is below 100 °C; from 115 °C it leaves admission, its
regions are reset and its live tasks retire FAILED with SOFT; at the end of an interval of 2^20 cycles what a partition left goes to the pool and what it
overdrew stays its debt; a die above its cap is capped for the rest of the interval.
What was spent is an operand (log entry 76). -/
def Sys2Proof.Claims.HeatAndPower : Prop := ∀ (s : State) (d : BitVec 5) (n : Nat),
  let die : BitVec 4 := d.setWidth 4
  let bit : BitVec 18 := 1 <<< d.toNat
  (∀ e ∈ [Instr.thermalThrottle d n, .thermalRecover d n, .thermalRemoval d n],
    let base : State := { s with temp := Map.set s.temp d.toNat n, throttled := if 105 ≤ n then s.throttled ||| bit else if n < 100 then s.throttled &&& ~~~bit else s.throttled };
    (18 ≤ d.toNat → exec e s = .next s) ∧ (d.toNat < 18 → n < 115 → exec e s = .next base) ∧
    (16 ≤ d.toNat → d.toNat < 18 → 115 ≤ n → exec e s = .next { base with dadm := s.dadm &&& ~~~bit, stfail := s.stfail ||| bit, linkUp := setBits s.linkUp (8 * (d.toNat - 16)) 8 0 }) ∧
    (d.toNat < 16 → 115 ≤ n → ∃ u, exec e s = .next u ∧ u.dadm = s.dadm &&& ~~~bit ∧ u.stfail = s.stfail ||| bit ∧ u.temp = base.temp ∧ u.throttled = base.throttled ∧
      (∀ x i, x ≠ die → u.task x i = { s.task x i with broken := (u.task x i).broken }) ∧
      ∀ i, let t := s.task die i
        (2 ≤ tstate t ∧ tstate t ≤ 7 → if tfield t 0 11 1 = 1 then tstate (u.task die i) = 10 ∧ tfield (u.task die i) 8 0 8 = 0x0C else tstate (u.task die i) = 0) ∧
        (tstate t ≤ 1 ∨ 8 ≤ tstate t → u.task die i = { t with broken := (u.task die i).broken }))) ∧
  (let sums := ((s.cap.filter (fun x => decide (x.1 ≠ d.toNat))).map Prod.snd).sum + n ≤ 3019;
    let ended := 16 ≤ d.toNat ∨ (s.dieAt die).interval < (s.dieAt die).ctr / 2 ^ 20
    (18 ≤ d.toNat ∨ ¬ended → exec (.powerIntervalEnd d n []) s = .next s) ∧
    (d.toNat < 18 → ended → ∃ u, exec (.powerIntervalEnd d n []) s = .next u ∧ u.capped = s.capped &&& ~~~bit ∧ Map.get u.spentLast 0 d.toNat = Map.get s.spent 0 d.toNat ∧
      Map.get u.spent 0 d.toNat = 0 ∧ (sums → Map.get u.cap 0 d.toNat = n) ∧ (¬sums → u.cap = s.cap) ∧ u.node = s.node ∧ u.mem = s.mem ∧
      (d.toNat < 16 → ∀ p, p < 32 → (Map.find s.part p).isSome → partOnDie s die p = true →
        Map.find (u.dieAt die).account p = some ((field (s.pcbW (BitVec.ofNat 5 p) 0x50) 0 32 : Int) + min 0 (s.balance die p))))) ∧
  (let above := d.toNat < 18 ∧ Map.get s.cap 0 d.toNat < Map.get s.spent 0 d.toNat + n;
    (above → exec (.powerCapExceeded d n) s = .next { s with capped := s.capped ||| bit }) ∧ (¬above → exec (.powerCapExceeded d n) s = .next s))

/-- Integer moves and sums, division, logic and shifts. -/
def Obligations.IntegerArithmetic : Prop := Sys2Proof.Claims.IntegerMovesAndSums ∧ Sys2Proof.Claims.Division ∧ Sys2Proof.Claims.LogicAndShifts

/-- Bit fields, counts, comparisons and the predicate operations. -/
def Obligations.BitFieldsAndComparisons : Prop := Sys2Proof.Claims.BitFields ∧ Sys2Proof.Claims.ComparesAndPredicates

/-- FP32 arithmetic, order, sign and class. -/
def Obligations.FloatArithmeticAndOrder : Prop := Sys2Proof.Claims.FloatArithmetic ∧ Sys2Proof.Claims.FloatOrderAndSign

/-- The checks of a local-store access, its loads and stores, and the faults of a checked access. -/
def Obligations.LocalStoreAccesses : Prop := Sys2Proof.Claims.LocalStoreChecks ∧ Sys2Proof.Claims.LocalLoads ∧ Sys2Proof.Claims.LocalStores ∧ Sys2Proof.Claims.LocalAccessesFaultAlone

/-- What the operands of an issue are, and the results of poisoned operands. -/
def Obligations.PoisonedOperands : Prop := Sys2Proof.Claims.OperandsRead ∧ Sys2Proof.Claims.PoisonedScalarsStayPoisoned

/-- A refused transition faults, and what taking a fault does. -/
def Obligations.FaultEntry : Prop := Sys2Proof.Claims.RefusedTransitionsFault ∧ Sys2Proof.Claims.TakingAFault

/-- The effects of a transition at its S4, and what they leave unchanged. -/
def Obligations.EffectsAndFrameOfS4 : Prop := Sys2Proof.Claims.EffectsOfS4 ∧ Sys2Proof.Claims.FrameOfS4

/-- What an issue changes before S4, and the end of an operation that parks its node. -/
def Obligations.FrameOfTheIssueAndLongOperations : Prop := Sys2Proof.Claims.FrameOfTheIssue ∧ Sys2Proof.Claims.LongOperationsComplete

/-- An accepted word is the encoding of the instruction read from it, and the words refused. -/
def Obligations.CanonicalWords : Prop := Sys2Proof.Claims.EncodeInvertsDecode ∧ Sys2Proof.Claims.IllegalWordsRefused

/-- What the turn of a node does, and the order of the nodes of one tile. -/
def Obligations.NodesIssueInTurn : Prop := Sys2Proof.Claims.IssueIsNoted ∧ Sys2Proof.Claims.OnlyReadySlotsIssue ∧ Sys2Proof.Claims.NodesTakeTurns

/-- Lane arithmetic, moves, scans and reductions. -/
def Obligations.VectorArithmeticAndMoves : Prop := Sys2Proof.Claims.VectorArithmetic ∧ Sys2Proof.Claims.VectorMovesAndReductions

/-- Lane comparisons, selection, logic, shifts, conversions and dot products. -/
def Obligations.VectorLogicAndDots : Prop := Sys2Proof.Claims.VectorLogicAndConversion ∧ Sys2Proof.Claims.VectorDots

/-- Vector memory accesses, packing and the vector channel operations. -/
def Obligations.VectorMemoryAndPacking : Prop := Sys2Proof.Claims.VectorLoadsAndStores ∧ Sys2Proof.Claims.VectorPackingAndChannels

/-- Residue words and the residue instructions. -/
def Obligations.ResidueArithmetic : Prop := Sys2Proof.Claims.ResidueWordsAreIntegers ∧ Sys2Proof.Claims.ResidueInstructions

/-- The domain instructions and the partition word's rules. -/
def Obligations.DomainsAndPartitionWords : Prop := Sys2Proof.Claims.DomainInstructions ∧ Sys2Proof.Claims.PartitionWordRules

/-- System registers and the return from a fault. -/
def Obligations.SystemRegistersAndReturns : Prop := Sys2Proof.Claims.SystemRegisters ∧ Sys2Proof.Claims.ReturnFromAFault

/-- The matrix unit's configuration, banks and shapes. -/
def Obligations.MatrixConfiguration : Prop := Sys2Proof.Claims.MatrixSetUp ∧ Sys2Proof.Claims.MatrixBanksAndShapes

/-- The functions of the custom cells and the firings of a program. -/
def Obligations.CustomCells : Prop := Sys2Proof.Claims.CellFunctions ∧ Sys2Proof.Claims.CustomFirings

/-- Node loads from global memory and the store buffer's forwarding. -/
def Obligations.GlobalLoadsAndForwarding : Prop := Sys2Proof.Claims.GlobalLoads ∧ Sys2Proof.Claims.YoungestEntryForwards

/-- Latch accesses, the words of atomics, and the inbox. -/
def Obligations.LatchesAndAtomicWords : Prop := Sys2Proof.Claims.LatchAccesses ∧ Sys2Proof.Claims.AtomicWords ∧ Sys2Proof.Claims.InboxApplication

/-- Units, tags and joins as node instructions see them. -/
def Obligations.UnitsTagsAndJoins : Prop := Sys2Proof.Claims.UnitInstructions ∧ Sys2Proof.Claims.TagsAndJoins

/-- Tokens that arrive at a node or a sink, gates, scrubs and quoins. -/
def Obligations.TokensArriveAndGate : Prop := Sys2Proof.Claims.TokensArrive ∧ Sys2Proof.Claims.GatesScrubsAndQuoins

/-- The checks of an access to global memory and the walk of the page tables. -/
def Obligations.AddressTranslation : Prop := Sys2Proof.Claims.AccessChecks ∧ Sys2Proof.Claims.TableWalks

/-- Presence words and barrier words at their homes. -/
def Obligations.PresenceAndBarrierHomes : Prop := Sys2Proof.Claims.PresenceHomes ∧ Sys2Proof.Claims.BarrierWords

/-- Requests leave their node, and what an answer does there. -/
def Obligations.RequestsAreAnswered : Prop := Sys2Proof.Claims.RequestsLeave ∧ Sys2Proof.Claims.AwaitedAnswers ∧ Sys2Proof.Claims.StoresAcknowledged

/-- Entries reach the inbox and replies reach the latches. -/
def Obligations.InboxAndLatchEvents : Prop := Sys2Proof.Claims.InboxEntries ∧ Sys2Proof.Claims.LatchReplies

/-- Pool barriers and the units' answers. -/
def Obligations.BarriersAndUnits : Prop := Sys2Proof.Claims.PoolBarriers ∧ Sys2Proof.Claims.UnitsAnswer

/-- Task slots from their selection to their end, and pallets. -/
def Obligations.TasksRun : Prop := Sys2Proof.Claims.TasksProceed ∧ Sys2Proof.Claims.TasksAreSelected ∧ Sys2Proof.Claims.PalletsAreMade

/-- The queues' commands and the doorbells. -/
def Obligations.QueuesAndDoorbells : Prop := Sys2Proof.Claims.QueueCommands ∧ Sys2Proof.Claims.Doorbells

/-- A course's load, opening and end, and the trap records it sends. -/
def Obligations.CoursesAndTraps : Prop := Sys2Proof.Claims.CoursesLoadAndOpen ∧ Sys2Proof.Claims.CoursesEnd ∧ Sys2Proof.Claims.TrapRecordsArrive

/-- Stream ports and completion tags. -/
def Obligations.StreamsAndTags : Prop := Sys2Proof.Claims.StreamsRun ∧ Sys2Proof.Claims.TagsCount

/-- Engine commands and the accesses of the host window. -/
def Obligations.EnginesAndHostAccesses : Prop := Sys2Proof.Claims.EnginesRun ∧ Sys2Proof.Claims.HostAccesses

/-- Detected errors and the steps of a snapshot. -/
def Obligations.ErrorsAndSnapshots : Prop := Sys2Proof.Claims.ErrorsPoison ∧ Sys2Proof.Claims.SnapshotsProceed

/-- The management commands of partitions and keys. -/
def Obligations.PartitionAndKeyCommands : Prop := Sys2Proof.Claims.PartitionCommands ∧ Sys2Proof.Claims.KeyCommands

/-- Links to other modules, the host's answers, and the functions' interfaces. -/
def Obligations.LinksAndInterfaces : Prop := Sys2Proof.Claims.PeersAndLinks ∧ Sys2Proof.Claims.HostAnswers ∧ Sys2Proof.Claims.FunctionsAndInterfaces

/-- Bring-up, temperature and power. -/
def Obligations.BringUpAndPower : Prop := Sys2Proof.Claims.BringUp ∧ Sys2Proof.Claims.HeatAndPower
end

