-- ==== Sys2Proof/Laws/Maps.lean ====
section
/-! SUPPORT. Laws of the finite maps, and of the keys under which nodes, elements and tiles are held. -/

namespace Sys2Proof

@[simp] theorem Map.find_nil {α : Type} (k : Nat) : Map.find ([] : Map α) k = none := rfl

@[simp] theorem Map.get_nil {α : Type} (d : α) (k : Nat) : Map.get ([] : Map α) d k = d := rfl

@[simp] theorem Map.find_set_self {α : Type} (m : Map α) (k : Nat) (v : α) : Map.find (Map.set m k v) k = some v := by
  induction m with
  | nil => simp [Map.set, Map.find]
  | cons x m ih =>
    obtain ⟨k', v'⟩ := x
    unfold Map.set
    split
    · simp [Map.find]
    · split
      · simp [Map.find]
      · rename_i h
        simp [Map.find, Ne.symm h, ih]

theorem Map.find_set_ne {α : Type} (m : Map α) {k k' : Nat} (v : α) (h : k' ≠ k) :
    Map.find (Map.set m k v) k' = Map.find m k' := by
  induction m with
  | nil => simp [Map.set, Map.find, Ne.symm h]
  | cons x m ih =>
    obtain ⟨k1, v1⟩ := x
    unfold Map.set
    split
    · simp [Map.find, Ne.symm h]
    · split
      · rename_i h2
        subst h2
        simp [Map.find, Ne.symm h]
      · simp [Map.find, ih]

@[simp] theorem Map.get_set_self {α : Type} (m : Map α) (d : α) (k : Nat) (v : α) : Map.get (Map.set m k v) d k = v := by
  simp [Map.get]

theorem Map.get_set_ne {α : Type} (m : Map α) (d : α) {k k' : Nat} (v : α) (h : k' ≠ k) :
    Map.get (Map.set m k v) d k' = Map.get m d k' := by
  simp [Map.get, Map.find_set_ne m v h]

theorem Map.get_set {α : Type} (m : Map α) (d : α) (k k' : Nat) (v : α) :
    Map.get (Map.set m k v) d k' = if k' = k then v else Map.get m d k' := by
  split
  · rename_i h
    subst h
    simp
  · rename_i h
    exact Map.get_set_ne m d v h

theorem Map.find_erase_ne {α : Type} (m : Map α) {k k' : Nat} (h : k' ≠ k) :
    Map.find (Map.erase m k) k' = Map.find m k' := by
  induction m with
  | nil => rfl
  | cons x m ih =>
    obtain ⟨k1, v1⟩ := x
    unfold Map.erase
    split
    · rename_i h2
      subst h2
      rw [ih]
      simp [Map.find, Ne.symm h]
    · simp [Map.find, ih]

@[simp] theorem Map.find_erase_self {α : Type} (m : Map α) (k : Nat) : Map.find (Map.erase m k) k = none := by
  induction m with
  | nil => rfl
  | cons x m ih =>
    obtain ⟨k1, v1⟩ := x
    unfold Map.erase
    split
    · exact ih
    · rename_i h
      simp [Map.find, Ne.symm h, ih]

@[simp] theorem Map.get_erase_self {α : Type} (m : Map α) (d : α) (k : Nat) : Map.get (Map.erase m k) d k = d := by
  simp [Map.get]

theorem Map.get_erase_ne {α : Type} (m : Map α) (d : α) {k k' : Nat} (h : k' ≠ k) :
    Map.get (Map.erase m k) d k' = Map.get m d k' := by
  simp [Map.get, Map.find_erase_ne m h]

/-- Different tiles are held under different keys. -/
theorem TileRef.key_inj {a b : TileRef} (h : a.key = b.key) : a = b := by
  obtain ⟨d, t⟩ := a
  obtain ⟨d', t'⟩ := b
  simp only [TileRef.key] at h
  have h1 := t.isLt
  have h2 := t'.isLt
  have h3 : d.toNat = d'.toNat := by omega
  have h4 : t.toNat = t'.toNat := by omega
  rw [BitVec.eq_of_toNat_eq h3, BitVec.eq_of_toNat_eq h4]

/-- Different elements are held under different keys. -/
theorem ElemRef.key_inj {a b : ElemRef} (h : a.key = b.key) : a = b := by
  obtain ⟨d, t, e⟩ := a
  obtain ⟨d', t', e'⟩ := b
  simp only [ElemRef.key] at h
  have h1 := t.isLt
  have h2 := t'.isLt
  have h1' := e.isLt
  have h2' := e'.isLt
  have h3 : d.toNat = d'.toNat := by omega
  have h4 : t.toNat = t'.toNat := by omega
  have h5 : e.toNat = e'.toNat := by omega
  rw [BitVec.eq_of_toNat_eq h3, BitVec.eq_of_toNat_eq h4, BitVec.eq_of_toNat_eq h5]

/-- Different nodes are held under different keys. -/
theorem NodeRef.key_inj {a b : NodeRef} (h : a.key = b.key) : a = b := by
  obtain ⟨d, t, e, n⟩ := a
  obtain ⟨d', t', e', n'⟩ := b
  simp only [NodeRef.key] at h
  have h1 := t.isLt
  have h2 := t'.isLt
  have h1' := e.isLt
  have h2' := e'.isLt
  have h1'' := n.isLt
  have h2'' := n'.isLt
  have h3 : d.toNat = d'.toNat := by omega
  have h4 : t.toNat = t'.toNat := by omega
  have h5 : e.toNat = e'.toNat := by omega
  have h6 : n.toNat = n'.toNat := by omega
  rw [BitVec.eq_of_toNat_eq h3, BitVec.eq_of_toNat_eq h4, BitVec.eq_of_toNat_eq h5, BitVec.eq_of_toNat_eq h6]

end Sys2Proof
end

