-- ==== Sys2Proof/Laws/State.lean ====
section
/-! SUPPORT. What each named update of the state changes, field by field, and what it leaves. -/

namespace Sys2Proof.Machine

@[simp] theorem State.setNd_agenda (s : State) (n : NodeRef) (v : Node) : (s.setNd n v).agenda = s.agenda := rfl
@[simp] theorem State.setNd_picks (s : State) (n : NodeRef) (v : Node) : (s.setNd n v).picks = s.picks := rfl
@[simp] theorem State.setNd_closing (s : State) (n : NodeRef) (v : Node) : (s.setNd n v).closing = s.closing := rfl
@[simp] theorem State.setNd_cur (s : State) (n : NodeRef) (v : Node) : (s.setNd n v).cur = s.cur := rfl
@[simp] theorem State.setNd_cycle (s : State) (n : NodeRef) (v : Node) : (s.setNd n v).cycle = s.cycle := rfl
@[simp] theorem State.setNd_serial (s : State) (n : NodeRef) (v : Node) : (s.setNd n v).serial = s.serial := rfl
@[simp] theorem State.setNd_taken (s : State) (n : NodeRef) (v : Node) : (s.setNd n v).taken = s.taken := rfl
@[simp] theorem State.setNd_elem (s : State) (n : NodeRef) (v : Node) : (s.setNd n v).elem = s.elem := rfl
@[simp] theorem State.setNd_tile (s : State) (n : NodeRef) (v : Node) : (s.setNd n v).tile = s.tile := rfl
@[simp] theorem State.setNd_mem (s : State) (n : NodeRef) (v : Node) : (s.setNd n v).mem = s.mem := rfl
@[simp] theorem State.setNd_wmeta (s : State) (n : NodeRef) (v : Node) : (s.setNd n v).wmeta = s.wmeta := rfl
@[simp] theorem State.setNd_lineKey (s : State) (n : NodeRef) (v : Node) : (s.setNd n v).lineKey = s.lineKey := rfl
@[simp] theorem State.setNd_posted (s : State) (n : NodeRef) (v : Node) : (s.setNd n v).posted = s.posted := rfl
@[simp] theorem State.setNd_edge (s : State) (n : NodeRef) (v : Node) : (s.setNd n v).edge = s.edge := rfl
@[simp] theorem State.setNd_net (s : State) (n : NodeRef) (v : Node) : (s.setNd n v).net = s.net := rfl
@[simp] theorem State.setNd_grants (s : State) (n : NodeRef) (v : Node) : (s.setNd n v).grants = s.grants := rfl
@[simp] theorem State.setNd_fanout (s : State) (n : NodeRef) (v : Node) : (s.setNd n v).fanout = s.fanout := rfl
@[simp] theorem State.setNd_reqs (s : State) (n : NodeRef) (v : Node) : (s.setNd n v).reqs = s.reqs := rfl
@[simp] theorem State.setNd_resps (s : State) (n : NodeRef) (v : Node) : (s.setNd n v).resps = s.resps := rfl
@[simp] theorem State.setNd_logs (s : State) (n : NodeRef) (v : Node) : (s.setNd n v).logs = s.logs := rfl
@[simp] theorem State.setNd_tags (s : State) (n : NodeRef) (v : Node) : (s.setNd n v).tags = s.tags := rfl
@[simp] theorem State.setNd_replays (s : State) (n : NodeRef) (v : Node) : (s.setNd n v).replays = s.replays := rfl
@[simp] theorem State.setNd_traps (s : State) (n : NodeRef) (v : Node) : (s.setNd n v).traps = s.traps := rfl
@[simp] theorem State.setNd_decs (s : State) (n : NodeRef) (v : Node) : (s.setNd n v).decs = s.decs := rfl
@[simp] theorem State.setNd_podSent (s : State) (n : NodeRef) (v : Node) : (s.setNd n v).podSent = s.podSent := rfl
@[simp] theorem State.setNd_die (s : State) (n : NodeRef) (v : Node) : (s.setNd n v).die = s.die := rfl
@[simp] theorem State.setNd_region (s : State) (n : NodeRef) (v : Node) : (s.setNd n v).region = s.region := rfl
@[simp] theorem State.setNd_part (s : State) (n : NodeRef) (v : Node) : (s.setNd n v).part = s.part := rfl
@[simp] theorem State.setNd_key (s : State) (n : NodeRef) (v : Node) : (s.setNd n v).key = s.key := rfl
@[simp] theorem State.setNd_hbmode (s : State) (n : NodeRef) (v : Node) : (s.setNd n v).hbmode = s.hbmode := rfl
@[simp] theorem State.setNd_ddr (s : State) (n : NodeRef) (v : Node) : (s.setNd n v).ddr = s.ddr := rfl
@[simp] theorem State.setNd_qreg (s : State) (n : NodeRef) (v : Node) : (s.setNd n v).qreg = s.qreg := rfl
@[simp] theorem State.setNd_turn (s : State) (n : NodeRef) (v : Node) : (s.setNd n v).turn = s.turn := rfl
@[simp] theorem State.setNd_port (s : State) (n : NodeRef) (v : Node) : (s.setNd n v).port = s.port := rfl
@[simp] theorem State.setNd_pasidGen (s : State) (n : NodeRef) (v : Node) : (s.setNd n v).pasidGen = s.pasidGen := rfl
@[simp] theorem State.setNd_vfPart (s : State) (n : NodeRef) (v : Node) : (s.setNd n v).vfPart = s.vfPart := rfl
@[simp] theorem State.setNd_tdi (s : State) (n : NodeRef) (v : Node) : (s.setNd n v).tdi = s.tdi := rfl
@[simp] theorem State.setNd_ats (s : State) (n : NodeRef) (v : Node) : (s.setNd n v).ats = s.ats := rfl
@[simp] theorem State.setNd_podid (s : State) (n : NodeRef) (v : Node) : (s.setNd n v).podid = s.podid := rfl
@[simp] theorem State.setNd_route (s : State) (n : NodeRef) (v : Node) : (s.setNd n v).route = s.route := rfl
@[simp] theorem State.setNd_linkUp (s : State) (n : NodeRef) (v : Node) : (s.setNd n v).linkUp = s.linkUp := rfl
@[simp] theorem State.setNd_grant (s : State) (n : NodeRef) (v : Node) : (s.setNd n v).grant = s.grant := rfl
@[simp] theorem State.setNd_hostAns (s : State) (n : NodeRef) (v : Node) : (s.setNd n v).hostAns = s.hostAns := rfl
@[simp] theorem State.setNd_counter (s : State) (n : NodeRef) (v : Node) : (s.setNd n v).counter = s.counter := rfl
@[simp] theorem State.setNd_nonce (s : State) (n : NodeRef) (v : Node) : (s.setNd n v).nonce = s.nonce := rfl
@[simp] theorem State.setNd_dadm (s : State) (n : NodeRef) (v : Node) : (s.setNd n v).dadm = s.dadm := rfl
@[simp] theorem State.setNd_booted (s : State) (n : NodeRef) (v : Node) : (s.setNd n v).booted = s.booted := rfl
@[simp] theorem State.setNd_admitting (s : State) (n : NodeRef) (v : Node) : (s.setNd n v).admitting = s.admitting := rfl
@[simp] theorem State.setNd_stfail (s : State) (n : NodeRef) (v : Node) : (s.setNd n v).stfail = s.stfail := rfl
@[simp] theorem State.setNd_fwfail (s : State) (n : NodeRef) (v : Node) : (s.setNd n v).fwfail = s.fwfail := rfl
@[simp] theorem State.setNd_rom (s : State) (n : NodeRef) (v : Node) : (s.setNd n v).rom = s.rom := rfl
@[simp] theorem State.setNd_clk (s : State) (n : NodeRef) (v : Node) : (s.setNd n v).clk = s.clk := rfl
@[simp] theorem State.setNd_fwmeas (s : State) (n : NodeRef) (v : Node) : (s.setNd n v).fwmeas = s.fwmeas := rfl
@[simp] theorem State.setNd_full (s : State) (n : NodeRef) (v : Node) : (s.setNd n v).full = s.full := rfl
@[simp] theorem State.setNd_temp (s : State) (n : NodeRef) (v : Node) : (s.setNd n v).temp = s.temp := rfl
@[simp] theorem State.setNd_inlet (s : State) (n : NodeRef) (v : Node) : (s.setNd n v).inlet = s.inlet := rfl
@[simp] theorem State.setNd_throttled (s : State) (n : NodeRef) (v : Node) : (s.setNd n v).throttled = s.throttled := rfl
@[simp] theorem State.setNd_capped (s : State) (n : NodeRef) (v : Node) : (s.setNd n v).capped = s.capped := rfl
@[simp] theorem State.setNd_spent (s : State) (n : NodeRef) (v : Node) : (s.setNd n v).spent = s.spent := rfl
@[simp] theorem State.setNd_spentLast (s : State) (n : NodeRef) (v : Node) : (s.setNd n v).spentLast = s.spentLast := rfl
@[simp] theorem State.setNd_cap (s : State) (n : NodeRef) (v : Node) : (s.setNd n v).cap = s.cap := rfl
@[simp] theorem State.setNd_cecnt (s : State) (n : NodeRef) (v : Node) : (s.setNd n v).cecnt = s.cecnt := rfl
@[simp] theorem State.setNd_dstale (s : State) (n : NodeRef) (v : Node) : (s.setNd n v).dstale = s.dstale := rfl
@[simp] theorem State.setNd_dover (s : State) (n : NodeRef) (v : Node) : (s.setNd n v).dover = s.dover := rfl

@[simp] theorem State.setEl_agenda (s : State) (e : ElemRef) (v : Elem) : (s.setEl e v).agenda = s.agenda := rfl
@[simp] theorem State.setEl_picks (s : State) (e : ElemRef) (v : Elem) : (s.setEl e v).picks = s.picks := rfl
@[simp] theorem State.setEl_closing (s : State) (e : ElemRef) (v : Elem) : (s.setEl e v).closing = s.closing := rfl
@[simp] theorem State.setEl_cur (s : State) (e : ElemRef) (v : Elem) : (s.setEl e v).cur = s.cur := rfl
@[simp] theorem State.setEl_cycle (s : State) (e : ElemRef) (v : Elem) : (s.setEl e v).cycle = s.cycle := rfl
@[simp] theorem State.setEl_serial (s : State) (e : ElemRef) (v : Elem) : (s.setEl e v).serial = s.serial := rfl
@[simp] theorem State.setEl_taken (s : State) (e : ElemRef) (v : Elem) : (s.setEl e v).taken = s.taken := rfl
@[simp] theorem State.setEl_node (s : State) (e : ElemRef) (v : Elem) : (s.setEl e v).node = s.node := rfl
@[simp] theorem State.setEl_tile (s : State) (e : ElemRef) (v : Elem) : (s.setEl e v).tile = s.tile := rfl
@[simp] theorem State.setEl_mem (s : State) (e : ElemRef) (v : Elem) : (s.setEl e v).mem = s.mem := rfl
@[simp] theorem State.setEl_wmeta (s : State) (e : ElemRef) (v : Elem) : (s.setEl e v).wmeta = s.wmeta := rfl
@[simp] theorem State.setEl_lineKey (s : State) (e : ElemRef) (v : Elem) : (s.setEl e v).lineKey = s.lineKey := rfl
@[simp] theorem State.setEl_posted (s : State) (e : ElemRef) (v : Elem) : (s.setEl e v).posted = s.posted := rfl
@[simp] theorem State.setEl_edge (s : State) (e : ElemRef) (v : Elem) : (s.setEl e v).edge = s.edge := rfl
@[simp] theorem State.setEl_net (s : State) (e : ElemRef) (v : Elem) : (s.setEl e v).net = s.net := rfl
@[simp] theorem State.setEl_grants (s : State) (e : ElemRef) (v : Elem) : (s.setEl e v).grants = s.grants := rfl
@[simp] theorem State.setEl_fanout (s : State) (e : ElemRef) (v : Elem) : (s.setEl e v).fanout = s.fanout := rfl
@[simp] theorem State.setEl_reqs (s : State) (e : ElemRef) (v : Elem) : (s.setEl e v).reqs = s.reqs := rfl
@[simp] theorem State.setEl_resps (s : State) (e : ElemRef) (v : Elem) : (s.setEl e v).resps = s.resps := rfl
@[simp] theorem State.setEl_logs (s : State) (e : ElemRef) (v : Elem) : (s.setEl e v).logs = s.logs := rfl
@[simp] theorem State.setEl_tags (s : State) (e : ElemRef) (v : Elem) : (s.setEl e v).tags = s.tags := rfl
@[simp] theorem State.setEl_replays (s : State) (e : ElemRef) (v : Elem) : (s.setEl e v).replays = s.replays := rfl
@[simp] theorem State.setEl_traps (s : State) (e : ElemRef) (v : Elem) : (s.setEl e v).traps = s.traps := rfl
@[simp] theorem State.setEl_decs (s : State) (e : ElemRef) (v : Elem) : (s.setEl e v).decs = s.decs := rfl
@[simp] theorem State.setEl_podSent (s : State) (e : ElemRef) (v : Elem) : (s.setEl e v).podSent = s.podSent := rfl
@[simp] theorem State.setEl_die (s : State) (e : ElemRef) (v : Elem) : (s.setEl e v).die = s.die := rfl
@[simp] theorem State.setEl_region (s : State) (e : ElemRef) (v : Elem) : (s.setEl e v).region = s.region := rfl
@[simp] theorem State.setEl_part (s : State) (e : ElemRef) (v : Elem) : (s.setEl e v).part = s.part := rfl
@[simp] theorem State.setEl_key (s : State) (e : ElemRef) (v : Elem) : (s.setEl e v).key = s.key := rfl
@[simp] theorem State.setEl_hbmode (s : State) (e : ElemRef) (v : Elem) : (s.setEl e v).hbmode = s.hbmode := rfl
@[simp] theorem State.setEl_ddr (s : State) (e : ElemRef) (v : Elem) : (s.setEl e v).ddr = s.ddr := rfl
@[simp] theorem State.setEl_qreg (s : State) (e : ElemRef) (v : Elem) : (s.setEl e v).qreg = s.qreg := rfl
@[simp] theorem State.setEl_turn (s : State) (e : ElemRef) (v : Elem) : (s.setEl e v).turn = s.turn := rfl
@[simp] theorem State.setEl_port (s : State) (e : ElemRef) (v : Elem) : (s.setEl e v).port = s.port := rfl
@[simp] theorem State.setEl_pasidGen (s : State) (e : ElemRef) (v : Elem) : (s.setEl e v).pasidGen = s.pasidGen := rfl
@[simp] theorem State.setEl_vfPart (s : State) (e : ElemRef) (v : Elem) : (s.setEl e v).vfPart = s.vfPart := rfl
@[simp] theorem State.setEl_tdi (s : State) (e : ElemRef) (v : Elem) : (s.setEl e v).tdi = s.tdi := rfl
@[simp] theorem State.setEl_ats (s : State) (e : ElemRef) (v : Elem) : (s.setEl e v).ats = s.ats := rfl
@[simp] theorem State.setEl_podid (s : State) (e : ElemRef) (v : Elem) : (s.setEl e v).podid = s.podid := rfl
@[simp] theorem State.setEl_route (s : State) (e : ElemRef) (v : Elem) : (s.setEl e v).route = s.route := rfl
@[simp] theorem State.setEl_linkUp (s : State) (e : ElemRef) (v : Elem) : (s.setEl e v).linkUp = s.linkUp := rfl
@[simp] theorem State.setEl_grant (s : State) (e : ElemRef) (v : Elem) : (s.setEl e v).grant = s.grant := rfl
@[simp] theorem State.setEl_hostAns (s : State) (e : ElemRef) (v : Elem) : (s.setEl e v).hostAns = s.hostAns := rfl
@[simp] theorem State.setEl_counter (s : State) (e : ElemRef) (v : Elem) : (s.setEl e v).counter = s.counter := rfl
@[simp] theorem State.setEl_nonce (s : State) (e : ElemRef) (v : Elem) : (s.setEl e v).nonce = s.nonce := rfl
@[simp] theorem State.setEl_dadm (s : State) (e : ElemRef) (v : Elem) : (s.setEl e v).dadm = s.dadm := rfl
@[simp] theorem State.setEl_booted (s : State) (e : ElemRef) (v : Elem) : (s.setEl e v).booted = s.booted := rfl
@[simp] theorem State.setEl_admitting (s : State) (e : ElemRef) (v : Elem) : (s.setEl e v).admitting = s.admitting := rfl
@[simp] theorem State.setEl_stfail (s : State) (e : ElemRef) (v : Elem) : (s.setEl e v).stfail = s.stfail := rfl
@[simp] theorem State.setEl_fwfail (s : State) (e : ElemRef) (v : Elem) : (s.setEl e v).fwfail = s.fwfail := rfl
@[simp] theorem State.setEl_rom (s : State) (e : ElemRef) (v : Elem) : (s.setEl e v).rom = s.rom := rfl
@[simp] theorem State.setEl_clk (s : State) (e : ElemRef) (v : Elem) : (s.setEl e v).clk = s.clk := rfl
@[simp] theorem State.setEl_fwmeas (s : State) (e : ElemRef) (v : Elem) : (s.setEl e v).fwmeas = s.fwmeas := rfl
@[simp] theorem State.setEl_full (s : State) (e : ElemRef) (v : Elem) : (s.setEl e v).full = s.full := rfl
@[simp] theorem State.setEl_temp (s : State) (e : ElemRef) (v : Elem) : (s.setEl e v).temp = s.temp := rfl
@[simp] theorem State.setEl_inlet (s : State) (e : ElemRef) (v : Elem) : (s.setEl e v).inlet = s.inlet := rfl
@[simp] theorem State.setEl_throttled (s : State) (e : ElemRef) (v : Elem) : (s.setEl e v).throttled = s.throttled := rfl
@[simp] theorem State.setEl_capped (s : State) (e : ElemRef) (v : Elem) : (s.setEl e v).capped = s.capped := rfl
@[simp] theorem State.setEl_spent (s : State) (e : ElemRef) (v : Elem) : (s.setEl e v).spent = s.spent := rfl
@[simp] theorem State.setEl_spentLast (s : State) (e : ElemRef) (v : Elem) : (s.setEl e v).spentLast = s.spentLast := rfl
@[simp] theorem State.setEl_cap (s : State) (e : ElemRef) (v : Elem) : (s.setEl e v).cap = s.cap := rfl
@[simp] theorem State.setEl_cecnt (s : State) (e : ElemRef) (v : Elem) : (s.setEl e v).cecnt = s.cecnt := rfl
@[simp] theorem State.setEl_dstale (s : State) (e : ElemRef) (v : Elem) : (s.setEl e v).dstale = s.dstale := rfl
@[simp] theorem State.setEl_dover (s : State) (e : ElemRef) (v : Elem) : (s.setEl e v).dover = s.dover := rfl

@[simp] theorem State.setTl_agenda (s : State) (t : TileRef) (v : MTile) : (s.setTl t v).agenda = s.agenda := rfl
@[simp] theorem State.setTl_picks (s : State) (t : TileRef) (v : MTile) : (s.setTl t v).picks = s.picks := rfl
@[simp] theorem State.setTl_closing (s : State) (t : TileRef) (v : MTile) : (s.setTl t v).closing = s.closing := rfl
@[simp] theorem State.setTl_cur (s : State) (t : TileRef) (v : MTile) : (s.setTl t v).cur = s.cur := rfl
@[simp] theorem State.setTl_cycle (s : State) (t : TileRef) (v : MTile) : (s.setTl t v).cycle = s.cycle := rfl
@[simp] theorem State.setTl_serial (s : State) (t : TileRef) (v : MTile) : (s.setTl t v).serial = s.serial := rfl
@[simp] theorem State.setTl_taken (s : State) (t : TileRef) (v : MTile) : (s.setTl t v).taken = s.taken := rfl
@[simp] theorem State.setTl_node (s : State) (t : TileRef) (v : MTile) : (s.setTl t v).node = s.node := rfl
@[simp] theorem State.setTl_elem (s : State) (t : TileRef) (v : MTile) : (s.setTl t v).elem = s.elem := rfl
@[simp] theorem State.setTl_mem (s : State) (t : TileRef) (v : MTile) : (s.setTl t v).mem = s.mem := rfl
@[simp] theorem State.setTl_wmeta (s : State) (t : TileRef) (v : MTile) : (s.setTl t v).wmeta = s.wmeta := rfl
@[simp] theorem State.setTl_lineKey (s : State) (t : TileRef) (v : MTile) : (s.setTl t v).lineKey = s.lineKey := rfl
@[simp] theorem State.setTl_posted (s : State) (t : TileRef) (v : MTile) : (s.setTl t v).posted = s.posted := rfl
@[simp] theorem State.setTl_edge (s : State) (t : TileRef) (v : MTile) : (s.setTl t v).edge = s.edge := rfl
@[simp] theorem State.setTl_net (s : State) (t : TileRef) (v : MTile) : (s.setTl t v).net = s.net := rfl
@[simp] theorem State.setTl_grants (s : State) (t : TileRef) (v : MTile) : (s.setTl t v).grants = s.grants := rfl
@[simp] theorem State.setTl_fanout (s : State) (t : TileRef) (v : MTile) : (s.setTl t v).fanout = s.fanout := rfl
@[simp] theorem State.setTl_reqs (s : State) (t : TileRef) (v : MTile) : (s.setTl t v).reqs = s.reqs := rfl
@[simp] theorem State.setTl_resps (s : State) (t : TileRef) (v : MTile) : (s.setTl t v).resps = s.resps := rfl
@[simp] theorem State.setTl_logs (s : State) (t : TileRef) (v : MTile) : (s.setTl t v).logs = s.logs := rfl
@[simp] theorem State.setTl_tags (s : State) (t : TileRef) (v : MTile) : (s.setTl t v).tags = s.tags := rfl
@[simp] theorem State.setTl_replays (s : State) (t : TileRef) (v : MTile) : (s.setTl t v).replays = s.replays := rfl
@[simp] theorem State.setTl_traps (s : State) (t : TileRef) (v : MTile) : (s.setTl t v).traps = s.traps := rfl
@[simp] theorem State.setTl_decs (s : State) (t : TileRef) (v : MTile) : (s.setTl t v).decs = s.decs := rfl
@[simp] theorem State.setTl_podSent (s : State) (t : TileRef) (v : MTile) : (s.setTl t v).podSent = s.podSent := rfl
@[simp] theorem State.setTl_die (s : State) (t : TileRef) (v : MTile) : (s.setTl t v).die = s.die := rfl
@[simp] theorem State.setTl_region (s : State) (t : TileRef) (v : MTile) : (s.setTl t v).region = s.region := rfl
@[simp] theorem State.setTl_part (s : State) (t : TileRef) (v : MTile) : (s.setTl t v).part = s.part := rfl
@[simp] theorem State.setTl_key (s : State) (t : TileRef) (v : MTile) : (s.setTl t v).key = s.key := rfl
@[simp] theorem State.setTl_hbmode (s : State) (t : TileRef) (v : MTile) : (s.setTl t v).hbmode = s.hbmode := rfl
@[simp] theorem State.setTl_ddr (s : State) (t : TileRef) (v : MTile) : (s.setTl t v).ddr = s.ddr := rfl
@[simp] theorem State.setTl_qreg (s : State) (t : TileRef) (v : MTile) : (s.setTl t v).qreg = s.qreg := rfl
@[simp] theorem State.setTl_turn (s : State) (t : TileRef) (v : MTile) : (s.setTl t v).turn = s.turn := rfl
@[simp] theorem State.setTl_port (s : State) (t : TileRef) (v : MTile) : (s.setTl t v).port = s.port := rfl
@[simp] theorem State.setTl_pasidGen (s : State) (t : TileRef) (v : MTile) : (s.setTl t v).pasidGen = s.pasidGen := rfl
@[simp] theorem State.setTl_vfPart (s : State) (t : TileRef) (v : MTile) : (s.setTl t v).vfPart = s.vfPart := rfl
@[simp] theorem State.setTl_tdi (s : State) (t : TileRef) (v : MTile) : (s.setTl t v).tdi = s.tdi := rfl
@[simp] theorem State.setTl_ats (s : State) (t : TileRef) (v : MTile) : (s.setTl t v).ats = s.ats := rfl
@[simp] theorem State.setTl_podid (s : State) (t : TileRef) (v : MTile) : (s.setTl t v).podid = s.podid := rfl
@[simp] theorem State.setTl_route (s : State) (t : TileRef) (v : MTile) : (s.setTl t v).route = s.route := rfl
@[simp] theorem State.setTl_linkUp (s : State) (t : TileRef) (v : MTile) : (s.setTl t v).linkUp = s.linkUp := rfl
@[simp] theorem State.setTl_grant (s : State) (t : TileRef) (v : MTile) : (s.setTl t v).grant = s.grant := rfl
@[simp] theorem State.setTl_hostAns (s : State) (t : TileRef) (v : MTile) : (s.setTl t v).hostAns = s.hostAns := rfl
@[simp] theorem State.setTl_counter (s : State) (t : TileRef) (v : MTile) : (s.setTl t v).counter = s.counter := rfl
@[simp] theorem State.setTl_nonce (s : State) (t : TileRef) (v : MTile) : (s.setTl t v).nonce = s.nonce := rfl
@[simp] theorem State.setTl_dadm (s : State) (t : TileRef) (v : MTile) : (s.setTl t v).dadm = s.dadm := rfl
@[simp] theorem State.setTl_booted (s : State) (t : TileRef) (v : MTile) : (s.setTl t v).booted = s.booted := rfl
@[simp] theorem State.setTl_admitting (s : State) (t : TileRef) (v : MTile) : (s.setTl t v).admitting = s.admitting := rfl
@[simp] theorem State.setTl_stfail (s : State) (t : TileRef) (v : MTile) : (s.setTl t v).stfail = s.stfail := rfl
@[simp] theorem State.setTl_fwfail (s : State) (t : TileRef) (v : MTile) : (s.setTl t v).fwfail = s.fwfail := rfl
@[simp] theorem State.setTl_rom (s : State) (t : TileRef) (v : MTile) : (s.setTl t v).rom = s.rom := rfl
@[simp] theorem State.setTl_clk (s : State) (t : TileRef) (v : MTile) : (s.setTl t v).clk = s.clk := rfl
@[simp] theorem State.setTl_fwmeas (s : State) (t : TileRef) (v : MTile) : (s.setTl t v).fwmeas = s.fwmeas := rfl
@[simp] theorem State.setTl_full (s : State) (t : TileRef) (v : MTile) : (s.setTl t v).full = s.full := rfl
@[simp] theorem State.setTl_temp (s : State) (t : TileRef) (v : MTile) : (s.setTl t v).temp = s.temp := rfl
@[simp] theorem State.setTl_inlet (s : State) (t : TileRef) (v : MTile) : (s.setTl t v).inlet = s.inlet := rfl
@[simp] theorem State.setTl_throttled (s : State) (t : TileRef) (v : MTile) : (s.setTl t v).throttled = s.throttled := rfl
@[simp] theorem State.setTl_capped (s : State) (t : TileRef) (v : MTile) : (s.setTl t v).capped = s.capped := rfl
@[simp] theorem State.setTl_spent (s : State) (t : TileRef) (v : MTile) : (s.setTl t v).spent = s.spent := rfl
@[simp] theorem State.setTl_spentLast (s : State) (t : TileRef) (v : MTile) : (s.setTl t v).spentLast = s.spentLast := rfl
@[simp] theorem State.setTl_cap (s : State) (t : TileRef) (v : MTile) : (s.setTl t v).cap = s.cap := rfl
@[simp] theorem State.setTl_cecnt (s : State) (t : TileRef) (v : MTile) : (s.setTl t v).cecnt = s.cecnt := rfl
@[simp] theorem State.setTl_dstale (s : State) (t : TileRef) (v : MTile) : (s.setTl t v).dstale = s.dstale := rfl
@[simp] theorem State.setTl_dover (s : State) (t : TileRef) (v : MTile) : (s.setTl t v).dover = s.dover := rfl

@[simp] theorem State.setDie_agenda (s : State) (d : BitVec 4) (v : Die) : (s.setDie d v).agenda = s.agenda := rfl
@[simp] theorem State.setDie_picks (s : State) (d : BitVec 4) (v : Die) : (s.setDie d v).picks = s.picks := rfl
@[simp] theorem State.setDie_closing (s : State) (d : BitVec 4) (v : Die) : (s.setDie d v).closing = s.closing := rfl
@[simp] theorem State.setDie_cur (s : State) (d : BitVec 4) (v : Die) : (s.setDie d v).cur = s.cur := rfl
@[simp] theorem State.setDie_cycle (s : State) (d : BitVec 4) (v : Die) : (s.setDie d v).cycle = s.cycle := rfl
@[simp] theorem State.setDie_serial (s : State) (d : BitVec 4) (v : Die) : (s.setDie d v).serial = s.serial := rfl
@[simp] theorem State.setDie_taken (s : State) (d : BitVec 4) (v : Die) : (s.setDie d v).taken = s.taken := rfl
@[simp] theorem State.setDie_node (s : State) (d : BitVec 4) (v : Die) : (s.setDie d v).node = s.node := rfl
@[simp] theorem State.setDie_elem (s : State) (d : BitVec 4) (v : Die) : (s.setDie d v).elem = s.elem := rfl
@[simp] theorem State.setDie_tile (s : State) (d : BitVec 4) (v : Die) : (s.setDie d v).tile = s.tile := rfl
@[simp] theorem State.setDie_mem (s : State) (d : BitVec 4) (v : Die) : (s.setDie d v).mem = s.mem := rfl
@[simp] theorem State.setDie_wmeta (s : State) (d : BitVec 4) (v : Die) : (s.setDie d v).wmeta = s.wmeta := rfl
@[simp] theorem State.setDie_lineKey (s : State) (d : BitVec 4) (v : Die) : (s.setDie d v).lineKey = s.lineKey := rfl
@[simp] theorem State.setDie_posted (s : State) (d : BitVec 4) (v : Die) : (s.setDie d v).posted = s.posted := rfl
@[simp] theorem State.setDie_edge (s : State) (d : BitVec 4) (v : Die) : (s.setDie d v).edge = s.edge := rfl
@[simp] theorem State.setDie_net (s : State) (d : BitVec 4) (v : Die) : (s.setDie d v).net = s.net := rfl
@[simp] theorem State.setDie_grants (s : State) (d : BitVec 4) (v : Die) : (s.setDie d v).grants = s.grants := rfl
@[simp] theorem State.setDie_fanout (s : State) (d : BitVec 4) (v : Die) : (s.setDie d v).fanout = s.fanout := rfl
@[simp] theorem State.setDie_reqs (s : State) (d : BitVec 4) (v : Die) : (s.setDie d v).reqs = s.reqs := rfl
@[simp] theorem State.setDie_resps (s : State) (d : BitVec 4) (v : Die) : (s.setDie d v).resps = s.resps := rfl
@[simp] theorem State.setDie_logs (s : State) (d : BitVec 4) (v : Die) : (s.setDie d v).logs = s.logs := rfl
@[simp] theorem State.setDie_tags (s : State) (d : BitVec 4) (v : Die) : (s.setDie d v).tags = s.tags := rfl
@[simp] theorem State.setDie_replays (s : State) (d : BitVec 4) (v : Die) : (s.setDie d v).replays = s.replays := rfl
@[simp] theorem State.setDie_traps (s : State) (d : BitVec 4) (v : Die) : (s.setDie d v).traps = s.traps := rfl
@[simp] theorem State.setDie_decs (s : State) (d : BitVec 4) (v : Die) : (s.setDie d v).decs = s.decs := rfl
@[simp] theorem State.setDie_podSent (s : State) (d : BitVec 4) (v : Die) : (s.setDie d v).podSent = s.podSent := rfl
@[simp] theorem State.setDie_region (s : State) (d : BitVec 4) (v : Die) : (s.setDie d v).region = s.region := rfl
@[simp] theorem State.setDie_part (s : State) (d : BitVec 4) (v : Die) : (s.setDie d v).part = s.part := rfl
@[simp] theorem State.setDie_key (s : State) (d : BitVec 4) (v : Die) : (s.setDie d v).key = s.key := rfl
@[simp] theorem State.setDie_hbmode (s : State) (d : BitVec 4) (v : Die) : (s.setDie d v).hbmode = s.hbmode := rfl
@[simp] theorem State.setDie_ddr (s : State) (d : BitVec 4) (v : Die) : (s.setDie d v).ddr = s.ddr := rfl
@[simp] theorem State.setDie_qreg (s : State) (d : BitVec 4) (v : Die) : (s.setDie d v).qreg = s.qreg := rfl
@[simp] theorem State.setDie_turn (s : State) (d : BitVec 4) (v : Die) : (s.setDie d v).turn = s.turn := rfl
@[simp] theorem State.setDie_port (s : State) (d : BitVec 4) (v : Die) : (s.setDie d v).port = s.port := rfl
@[simp] theorem State.setDie_pasidGen (s : State) (d : BitVec 4) (v : Die) : (s.setDie d v).pasidGen = s.pasidGen := rfl
@[simp] theorem State.setDie_vfPart (s : State) (d : BitVec 4) (v : Die) : (s.setDie d v).vfPart = s.vfPart := rfl
@[simp] theorem State.setDie_tdi (s : State) (d : BitVec 4) (v : Die) : (s.setDie d v).tdi = s.tdi := rfl
@[simp] theorem State.setDie_ats (s : State) (d : BitVec 4) (v : Die) : (s.setDie d v).ats = s.ats := rfl
@[simp] theorem State.setDie_podid (s : State) (d : BitVec 4) (v : Die) : (s.setDie d v).podid = s.podid := rfl
@[simp] theorem State.setDie_route (s : State) (d : BitVec 4) (v : Die) : (s.setDie d v).route = s.route := rfl
@[simp] theorem State.setDie_linkUp (s : State) (d : BitVec 4) (v : Die) : (s.setDie d v).linkUp = s.linkUp := rfl
@[simp] theorem State.setDie_grant (s : State) (d : BitVec 4) (v : Die) : (s.setDie d v).grant = s.grant := rfl
@[simp] theorem State.setDie_hostAns (s : State) (d : BitVec 4) (v : Die) : (s.setDie d v).hostAns = s.hostAns := rfl
@[simp] theorem State.setDie_counter (s : State) (d : BitVec 4) (v : Die) : (s.setDie d v).counter = s.counter := rfl
@[simp] theorem State.setDie_nonce (s : State) (d : BitVec 4) (v : Die) : (s.setDie d v).nonce = s.nonce := rfl
@[simp] theorem State.setDie_dadm (s : State) (d : BitVec 4) (v : Die) : (s.setDie d v).dadm = s.dadm := rfl
@[simp] theorem State.setDie_booted (s : State) (d : BitVec 4) (v : Die) : (s.setDie d v).booted = s.booted := rfl
@[simp] theorem State.setDie_admitting (s : State) (d : BitVec 4) (v : Die) : (s.setDie d v).admitting = s.admitting := rfl
@[simp] theorem State.setDie_stfail (s : State) (d : BitVec 4) (v : Die) : (s.setDie d v).stfail = s.stfail := rfl
@[simp] theorem State.setDie_fwfail (s : State) (d : BitVec 4) (v : Die) : (s.setDie d v).fwfail = s.fwfail := rfl
@[simp] theorem State.setDie_rom (s : State) (d : BitVec 4) (v : Die) : (s.setDie d v).rom = s.rom := rfl
@[simp] theorem State.setDie_clk (s : State) (d : BitVec 4) (v : Die) : (s.setDie d v).clk = s.clk := rfl
@[simp] theorem State.setDie_fwmeas (s : State) (d : BitVec 4) (v : Die) : (s.setDie d v).fwmeas = s.fwmeas := rfl
@[simp] theorem State.setDie_full (s : State) (d : BitVec 4) (v : Die) : (s.setDie d v).full = s.full := rfl
@[simp] theorem State.setDie_temp (s : State) (d : BitVec 4) (v : Die) : (s.setDie d v).temp = s.temp := rfl
@[simp] theorem State.setDie_inlet (s : State) (d : BitVec 4) (v : Die) : (s.setDie d v).inlet = s.inlet := rfl
@[simp] theorem State.setDie_throttled (s : State) (d : BitVec 4) (v : Die) : (s.setDie d v).throttled = s.throttled := rfl
@[simp] theorem State.setDie_capped (s : State) (d : BitVec 4) (v : Die) : (s.setDie d v).capped = s.capped := rfl
@[simp] theorem State.setDie_spent (s : State) (d : BitVec 4) (v : Die) : (s.setDie d v).spent = s.spent := rfl
@[simp] theorem State.setDie_spentLast (s : State) (d : BitVec 4) (v : Die) : (s.setDie d v).spentLast = s.spentLast := rfl
@[simp] theorem State.setDie_cap (s : State) (d : BitVec 4) (v : Die) : (s.setDie d v).cap = s.cap := rfl
@[simp] theorem State.setDie_cecnt (s : State) (d : BitVec 4) (v : Die) : (s.setDie d v).cecnt = s.cecnt := rfl
@[simp] theorem State.setDie_dstale (s : State) (d : BitVec 4) (v : Die) : (s.setDie d v).dstale = s.dstale := rfl
@[simp] theorem State.setDie_dover (s : State) (d : BitVec 4) (v : Die) : (s.setDie d v).dover = s.dover := rfl

@[simp] theorem State.setRg_agenda (s : State) (i : Nat) (v : Region) : (s.setRg i v).agenda = s.agenda := rfl
@[simp] theorem State.setRg_picks (s : State) (i : Nat) (v : Region) : (s.setRg i v).picks = s.picks := rfl
@[simp] theorem State.setRg_closing (s : State) (i : Nat) (v : Region) : (s.setRg i v).closing = s.closing := rfl
@[simp] theorem State.setRg_cur (s : State) (i : Nat) (v : Region) : (s.setRg i v).cur = s.cur := rfl
@[simp] theorem State.setRg_cycle (s : State) (i : Nat) (v : Region) : (s.setRg i v).cycle = s.cycle := rfl
@[simp] theorem State.setRg_serial (s : State) (i : Nat) (v : Region) : (s.setRg i v).serial = s.serial := rfl
@[simp] theorem State.setRg_taken (s : State) (i : Nat) (v : Region) : (s.setRg i v).taken = s.taken := rfl
@[simp] theorem State.setRg_node (s : State) (i : Nat) (v : Region) : (s.setRg i v).node = s.node := rfl
@[simp] theorem State.setRg_elem (s : State) (i : Nat) (v : Region) : (s.setRg i v).elem = s.elem := rfl
@[simp] theorem State.setRg_tile (s : State) (i : Nat) (v : Region) : (s.setRg i v).tile = s.tile := rfl
@[simp] theorem State.setRg_mem (s : State) (i : Nat) (v : Region) : (s.setRg i v).mem = s.mem := rfl
@[simp] theorem State.setRg_wmeta (s : State) (i : Nat) (v : Region) : (s.setRg i v).wmeta = s.wmeta := rfl
@[simp] theorem State.setRg_lineKey (s : State) (i : Nat) (v : Region) : (s.setRg i v).lineKey = s.lineKey := rfl
@[simp] theorem State.setRg_posted (s : State) (i : Nat) (v : Region) : (s.setRg i v).posted = s.posted := rfl
@[simp] theorem State.setRg_edge (s : State) (i : Nat) (v : Region) : (s.setRg i v).edge = s.edge := rfl
@[simp] theorem State.setRg_net (s : State) (i : Nat) (v : Region) : (s.setRg i v).net = s.net := rfl
@[simp] theorem State.setRg_grants (s : State) (i : Nat) (v : Region) : (s.setRg i v).grants = s.grants := rfl
@[simp] theorem State.setRg_fanout (s : State) (i : Nat) (v : Region) : (s.setRg i v).fanout = s.fanout := rfl
@[simp] theorem State.setRg_reqs (s : State) (i : Nat) (v : Region) : (s.setRg i v).reqs = s.reqs := rfl
@[simp] theorem State.setRg_resps (s : State) (i : Nat) (v : Region) : (s.setRg i v).resps = s.resps := rfl
@[simp] theorem State.setRg_logs (s : State) (i : Nat) (v : Region) : (s.setRg i v).logs = s.logs := rfl
@[simp] theorem State.setRg_tags (s : State) (i : Nat) (v : Region) : (s.setRg i v).tags = s.tags := rfl
@[simp] theorem State.setRg_replays (s : State) (i : Nat) (v : Region) : (s.setRg i v).replays = s.replays := rfl
@[simp] theorem State.setRg_traps (s : State) (i : Nat) (v : Region) : (s.setRg i v).traps = s.traps := rfl
@[simp] theorem State.setRg_decs (s : State) (i : Nat) (v : Region) : (s.setRg i v).decs = s.decs := rfl
@[simp] theorem State.setRg_podSent (s : State) (i : Nat) (v : Region) : (s.setRg i v).podSent = s.podSent := rfl
@[simp] theorem State.setRg_die (s : State) (i : Nat) (v : Region) : (s.setRg i v).die = s.die := rfl
@[simp] theorem State.setRg_part (s : State) (i : Nat) (v : Region) : (s.setRg i v).part = s.part := rfl
@[simp] theorem State.setRg_key (s : State) (i : Nat) (v : Region) : (s.setRg i v).key = s.key := rfl
@[simp] theorem State.setRg_hbmode (s : State) (i : Nat) (v : Region) : (s.setRg i v).hbmode = s.hbmode := rfl
@[simp] theorem State.setRg_ddr (s : State) (i : Nat) (v : Region) : (s.setRg i v).ddr = s.ddr := rfl
@[simp] theorem State.setRg_qreg (s : State) (i : Nat) (v : Region) : (s.setRg i v).qreg = s.qreg := rfl
@[simp] theorem State.setRg_turn (s : State) (i : Nat) (v : Region) : (s.setRg i v).turn = s.turn := rfl
@[simp] theorem State.setRg_port (s : State) (i : Nat) (v : Region) : (s.setRg i v).port = s.port := rfl
@[simp] theorem State.setRg_pasidGen (s : State) (i : Nat) (v : Region) : (s.setRg i v).pasidGen = s.pasidGen := rfl
@[simp] theorem State.setRg_vfPart (s : State) (i : Nat) (v : Region) : (s.setRg i v).vfPart = s.vfPart := rfl
@[simp] theorem State.setRg_tdi (s : State) (i : Nat) (v : Region) : (s.setRg i v).tdi = s.tdi := rfl
@[simp] theorem State.setRg_ats (s : State) (i : Nat) (v : Region) : (s.setRg i v).ats = s.ats := rfl
@[simp] theorem State.setRg_podid (s : State) (i : Nat) (v : Region) : (s.setRg i v).podid = s.podid := rfl
@[simp] theorem State.setRg_route (s : State) (i : Nat) (v : Region) : (s.setRg i v).route = s.route := rfl
@[simp] theorem State.setRg_linkUp (s : State) (i : Nat) (v : Region) : (s.setRg i v).linkUp = s.linkUp := rfl
@[simp] theorem State.setRg_grant (s : State) (i : Nat) (v : Region) : (s.setRg i v).grant = s.grant := rfl
@[simp] theorem State.setRg_hostAns (s : State) (i : Nat) (v : Region) : (s.setRg i v).hostAns = s.hostAns := rfl
@[simp] theorem State.setRg_counter (s : State) (i : Nat) (v : Region) : (s.setRg i v).counter = s.counter := rfl
@[simp] theorem State.setRg_nonce (s : State) (i : Nat) (v : Region) : (s.setRg i v).nonce = s.nonce := rfl
@[simp] theorem State.setRg_dadm (s : State) (i : Nat) (v : Region) : (s.setRg i v).dadm = s.dadm := rfl
@[simp] theorem State.setRg_booted (s : State) (i : Nat) (v : Region) : (s.setRg i v).booted = s.booted := rfl
@[simp] theorem State.setRg_admitting (s : State) (i : Nat) (v : Region) : (s.setRg i v).admitting = s.admitting := rfl
@[simp] theorem State.setRg_stfail (s : State) (i : Nat) (v : Region) : (s.setRg i v).stfail = s.stfail := rfl
@[simp] theorem State.setRg_fwfail (s : State) (i : Nat) (v : Region) : (s.setRg i v).fwfail = s.fwfail := rfl
@[simp] theorem State.setRg_rom (s : State) (i : Nat) (v : Region) : (s.setRg i v).rom = s.rom := rfl
@[simp] theorem State.setRg_clk (s : State) (i : Nat) (v : Region) : (s.setRg i v).clk = s.clk := rfl
@[simp] theorem State.setRg_fwmeas (s : State) (i : Nat) (v : Region) : (s.setRg i v).fwmeas = s.fwmeas := rfl
@[simp] theorem State.setRg_full (s : State) (i : Nat) (v : Region) : (s.setRg i v).full = s.full := rfl
@[simp] theorem State.setRg_temp (s : State) (i : Nat) (v : Region) : (s.setRg i v).temp = s.temp := rfl
@[simp] theorem State.setRg_inlet (s : State) (i : Nat) (v : Region) : (s.setRg i v).inlet = s.inlet := rfl
@[simp] theorem State.setRg_throttled (s : State) (i : Nat) (v : Region) : (s.setRg i v).throttled = s.throttled := rfl
@[simp] theorem State.setRg_capped (s : State) (i : Nat) (v : Region) : (s.setRg i v).capped = s.capped := rfl
@[simp] theorem State.setRg_spent (s : State) (i : Nat) (v : Region) : (s.setRg i v).spent = s.spent := rfl
@[simp] theorem State.setRg_spentLast (s : State) (i : Nat) (v : Region) : (s.setRg i v).spentLast = s.spentLast := rfl
@[simp] theorem State.setRg_cap (s : State) (i : Nat) (v : Region) : (s.setRg i v).cap = s.cap := rfl
@[simp] theorem State.setRg_cecnt (s : State) (i : Nat) (v : Region) : (s.setRg i v).cecnt = s.cecnt := rfl
@[simp] theorem State.setRg_dstale (s : State) (i : Nat) (v : Region) : (s.setRg i v).dstale = s.dstale := rfl
@[simp] theorem State.setRg_dover (s : State) (i : Nat) (v : Region) : (s.setRg i v).dover = s.dover := rfl

@[simp] theorem State.setPt_agenda (s : State) (p : BitVec 5) (v : Partition) : (s.setPt p v).agenda = s.agenda := rfl
@[simp] theorem State.setPt_picks (s : State) (p : BitVec 5) (v : Partition) : (s.setPt p v).picks = s.picks := rfl
@[simp] theorem State.setPt_closing (s : State) (p : BitVec 5) (v : Partition) : (s.setPt p v).closing = s.closing := rfl
@[simp] theorem State.setPt_cur (s : State) (p : BitVec 5) (v : Partition) : (s.setPt p v).cur = s.cur := rfl
@[simp] theorem State.setPt_cycle (s : State) (p : BitVec 5) (v : Partition) : (s.setPt p v).cycle = s.cycle := rfl
@[simp] theorem State.setPt_serial (s : State) (p : BitVec 5) (v : Partition) : (s.setPt p v).serial = s.serial := rfl
@[simp] theorem State.setPt_taken (s : State) (p : BitVec 5) (v : Partition) : (s.setPt p v).taken = s.taken := rfl
@[simp] theorem State.setPt_node (s : State) (p : BitVec 5) (v : Partition) : (s.setPt p v).node = s.node := rfl
@[simp] theorem State.setPt_elem (s : State) (p : BitVec 5) (v : Partition) : (s.setPt p v).elem = s.elem := rfl
@[simp] theorem State.setPt_tile (s : State) (p : BitVec 5) (v : Partition) : (s.setPt p v).tile = s.tile := rfl
@[simp] theorem State.setPt_mem (s : State) (p : BitVec 5) (v : Partition) : (s.setPt p v).mem = s.mem := rfl
@[simp] theorem State.setPt_wmeta (s : State) (p : BitVec 5) (v : Partition) : (s.setPt p v).wmeta = s.wmeta := rfl
@[simp] theorem State.setPt_lineKey (s : State) (p : BitVec 5) (v : Partition) : (s.setPt p v).lineKey = s.lineKey := rfl
@[simp] theorem State.setPt_posted (s : State) (p : BitVec 5) (v : Partition) : (s.setPt p v).posted = s.posted := rfl
@[simp] theorem State.setPt_edge (s : State) (p : BitVec 5) (v : Partition) : (s.setPt p v).edge = s.edge := rfl
@[simp] theorem State.setPt_net (s : State) (p : BitVec 5) (v : Partition) : (s.setPt p v).net = s.net := rfl
@[simp] theorem State.setPt_grants (s : State) (p : BitVec 5) (v : Partition) : (s.setPt p v).grants = s.grants := rfl
@[simp] theorem State.setPt_fanout (s : State) (p : BitVec 5) (v : Partition) : (s.setPt p v).fanout = s.fanout := rfl
@[simp] theorem State.setPt_reqs (s : State) (p : BitVec 5) (v : Partition) : (s.setPt p v).reqs = s.reqs := rfl
@[simp] theorem State.setPt_resps (s : State) (p : BitVec 5) (v : Partition) : (s.setPt p v).resps = s.resps := rfl
@[simp] theorem State.setPt_logs (s : State) (p : BitVec 5) (v : Partition) : (s.setPt p v).logs = s.logs := rfl
@[simp] theorem State.setPt_tags (s : State) (p : BitVec 5) (v : Partition) : (s.setPt p v).tags = s.tags := rfl
@[simp] theorem State.setPt_replays (s : State) (p : BitVec 5) (v : Partition) : (s.setPt p v).replays = s.replays := rfl
@[simp] theorem State.setPt_traps (s : State) (p : BitVec 5) (v : Partition) : (s.setPt p v).traps = s.traps := rfl
@[simp] theorem State.setPt_decs (s : State) (p : BitVec 5) (v : Partition) : (s.setPt p v).decs = s.decs := rfl
@[simp] theorem State.setPt_podSent (s : State) (p : BitVec 5) (v : Partition) : (s.setPt p v).podSent = s.podSent := rfl
@[simp] theorem State.setPt_die (s : State) (p : BitVec 5) (v : Partition) : (s.setPt p v).die = s.die := rfl
@[simp] theorem State.setPt_region (s : State) (p : BitVec 5) (v : Partition) : (s.setPt p v).region = s.region := rfl
@[simp] theorem State.setPt_key (s : State) (p : BitVec 5) (v : Partition) : (s.setPt p v).key = s.key := rfl
@[simp] theorem State.setPt_hbmode (s : State) (p : BitVec 5) (v : Partition) : (s.setPt p v).hbmode = s.hbmode := rfl
@[simp] theorem State.setPt_ddr (s : State) (p : BitVec 5) (v : Partition) : (s.setPt p v).ddr = s.ddr := rfl
@[simp] theorem State.setPt_qreg (s : State) (p : BitVec 5) (v : Partition) : (s.setPt p v).qreg = s.qreg := rfl
@[simp] theorem State.setPt_turn (s : State) (p : BitVec 5) (v : Partition) : (s.setPt p v).turn = s.turn := rfl
@[simp] theorem State.setPt_port (s : State) (p : BitVec 5) (v : Partition) : (s.setPt p v).port = s.port := rfl
@[simp] theorem State.setPt_pasidGen (s : State) (p : BitVec 5) (v : Partition) : (s.setPt p v).pasidGen = s.pasidGen := rfl
@[simp] theorem State.setPt_vfPart (s : State) (p : BitVec 5) (v : Partition) : (s.setPt p v).vfPart = s.vfPart := rfl
@[simp] theorem State.setPt_tdi (s : State) (p : BitVec 5) (v : Partition) : (s.setPt p v).tdi = s.tdi := rfl
@[simp] theorem State.setPt_ats (s : State) (p : BitVec 5) (v : Partition) : (s.setPt p v).ats = s.ats := rfl
@[simp] theorem State.setPt_podid (s : State) (p : BitVec 5) (v : Partition) : (s.setPt p v).podid = s.podid := rfl
@[simp] theorem State.setPt_route (s : State) (p : BitVec 5) (v : Partition) : (s.setPt p v).route = s.route := rfl
@[simp] theorem State.setPt_linkUp (s : State) (p : BitVec 5) (v : Partition) : (s.setPt p v).linkUp = s.linkUp := rfl
@[simp] theorem State.setPt_grant (s : State) (p : BitVec 5) (v : Partition) : (s.setPt p v).grant = s.grant := rfl
@[simp] theorem State.setPt_hostAns (s : State) (p : BitVec 5) (v : Partition) : (s.setPt p v).hostAns = s.hostAns := rfl
@[simp] theorem State.setPt_counter (s : State) (p : BitVec 5) (v : Partition) : (s.setPt p v).counter = s.counter := rfl
@[simp] theorem State.setPt_nonce (s : State) (p : BitVec 5) (v : Partition) : (s.setPt p v).nonce = s.nonce := rfl
@[simp] theorem State.setPt_dadm (s : State) (p : BitVec 5) (v : Partition) : (s.setPt p v).dadm = s.dadm := rfl
@[simp] theorem State.setPt_booted (s : State) (p : BitVec 5) (v : Partition) : (s.setPt p v).booted = s.booted := rfl
@[simp] theorem State.setPt_admitting (s : State) (p : BitVec 5) (v : Partition) : (s.setPt p v).admitting = s.admitting := rfl
@[simp] theorem State.setPt_stfail (s : State) (p : BitVec 5) (v : Partition) : (s.setPt p v).stfail = s.stfail := rfl
@[simp] theorem State.setPt_fwfail (s : State) (p : BitVec 5) (v : Partition) : (s.setPt p v).fwfail = s.fwfail := rfl
@[simp] theorem State.setPt_rom (s : State) (p : BitVec 5) (v : Partition) : (s.setPt p v).rom = s.rom := rfl
@[simp] theorem State.setPt_clk (s : State) (p : BitVec 5) (v : Partition) : (s.setPt p v).clk = s.clk := rfl
@[simp] theorem State.setPt_fwmeas (s : State) (p : BitVec 5) (v : Partition) : (s.setPt p v).fwmeas = s.fwmeas := rfl
@[simp] theorem State.setPt_full (s : State) (p : BitVec 5) (v : Partition) : (s.setPt p v).full = s.full := rfl
@[simp] theorem State.setPt_temp (s : State) (p : BitVec 5) (v : Partition) : (s.setPt p v).temp = s.temp := rfl
@[simp] theorem State.setPt_inlet (s : State) (p : BitVec 5) (v : Partition) : (s.setPt p v).inlet = s.inlet := rfl
@[simp] theorem State.setPt_throttled (s : State) (p : BitVec 5) (v : Partition) : (s.setPt p v).throttled = s.throttled := rfl
@[simp] theorem State.setPt_capped (s : State) (p : BitVec 5) (v : Partition) : (s.setPt p v).capped = s.capped := rfl
@[simp] theorem State.setPt_spent (s : State) (p : BitVec 5) (v : Partition) : (s.setPt p v).spent = s.spent := rfl
@[simp] theorem State.setPt_spentLast (s : State) (p : BitVec 5) (v : Partition) : (s.setPt p v).spentLast = s.spentLast := rfl
@[simp] theorem State.setPt_cap (s : State) (p : BitVec 5) (v : Partition) : (s.setPt p v).cap = s.cap := rfl
@[simp] theorem State.setPt_cecnt (s : State) (p : BitVec 5) (v : Partition) : (s.setPt p v).cecnt = s.cecnt := rfl
@[simp] theorem State.setPt_dstale (s : State) (p : BitVec 5) (v : Partition) : (s.setPt p v).dstale = s.dstale := rfl
@[simp] theorem State.setPt_dover (s : State) (p : BitVec 5) (v : Partition) : (s.setPt p v).dover = s.dover := rfl

@[simp] theorem State.setEd_agenda (s : State) (i : Nat) (v : Edge) : (s.setEd i v).agenda = s.agenda := rfl
@[simp] theorem State.setEd_picks (s : State) (i : Nat) (v : Edge) : (s.setEd i v).picks = s.picks := rfl
@[simp] theorem State.setEd_closing (s : State) (i : Nat) (v : Edge) : (s.setEd i v).closing = s.closing := rfl
@[simp] theorem State.setEd_cur (s : State) (i : Nat) (v : Edge) : (s.setEd i v).cur = s.cur := rfl
@[simp] theorem State.setEd_cycle (s : State) (i : Nat) (v : Edge) : (s.setEd i v).cycle = s.cycle := rfl
@[simp] theorem State.setEd_serial (s : State) (i : Nat) (v : Edge) : (s.setEd i v).serial = s.serial := rfl
@[simp] theorem State.setEd_taken (s : State) (i : Nat) (v : Edge) : (s.setEd i v).taken = s.taken := rfl
@[simp] theorem State.setEd_node (s : State) (i : Nat) (v : Edge) : (s.setEd i v).node = s.node := rfl
@[simp] theorem State.setEd_elem (s : State) (i : Nat) (v : Edge) : (s.setEd i v).elem = s.elem := rfl
@[simp] theorem State.setEd_tile (s : State) (i : Nat) (v : Edge) : (s.setEd i v).tile = s.tile := rfl
@[simp] theorem State.setEd_mem (s : State) (i : Nat) (v : Edge) : (s.setEd i v).mem = s.mem := rfl
@[simp] theorem State.setEd_wmeta (s : State) (i : Nat) (v : Edge) : (s.setEd i v).wmeta = s.wmeta := rfl
@[simp] theorem State.setEd_lineKey (s : State) (i : Nat) (v : Edge) : (s.setEd i v).lineKey = s.lineKey := rfl
@[simp] theorem State.setEd_posted (s : State) (i : Nat) (v : Edge) : (s.setEd i v).posted = s.posted := rfl
@[simp] theorem State.setEd_net (s : State) (i : Nat) (v : Edge) : (s.setEd i v).net = s.net := rfl
@[simp] theorem State.setEd_grants (s : State) (i : Nat) (v : Edge) : (s.setEd i v).grants = s.grants := rfl
@[simp] theorem State.setEd_fanout (s : State) (i : Nat) (v : Edge) : (s.setEd i v).fanout = s.fanout := rfl
@[simp] theorem State.setEd_reqs (s : State) (i : Nat) (v : Edge) : (s.setEd i v).reqs = s.reqs := rfl
@[simp] theorem State.setEd_resps (s : State) (i : Nat) (v : Edge) : (s.setEd i v).resps = s.resps := rfl
@[simp] theorem State.setEd_logs (s : State) (i : Nat) (v : Edge) : (s.setEd i v).logs = s.logs := rfl
@[simp] theorem State.setEd_tags (s : State) (i : Nat) (v : Edge) : (s.setEd i v).tags = s.tags := rfl
@[simp] theorem State.setEd_replays (s : State) (i : Nat) (v : Edge) : (s.setEd i v).replays = s.replays := rfl
@[simp] theorem State.setEd_traps (s : State) (i : Nat) (v : Edge) : (s.setEd i v).traps = s.traps := rfl
@[simp] theorem State.setEd_decs (s : State) (i : Nat) (v : Edge) : (s.setEd i v).decs = s.decs := rfl
@[simp] theorem State.setEd_podSent (s : State) (i : Nat) (v : Edge) : (s.setEd i v).podSent = s.podSent := rfl
@[simp] theorem State.setEd_die (s : State) (i : Nat) (v : Edge) : (s.setEd i v).die = s.die := rfl
@[simp] theorem State.setEd_region (s : State) (i : Nat) (v : Edge) : (s.setEd i v).region = s.region := rfl
@[simp] theorem State.setEd_part (s : State) (i : Nat) (v : Edge) : (s.setEd i v).part = s.part := rfl
@[simp] theorem State.setEd_key (s : State) (i : Nat) (v : Edge) : (s.setEd i v).key = s.key := rfl
@[simp] theorem State.setEd_hbmode (s : State) (i : Nat) (v : Edge) : (s.setEd i v).hbmode = s.hbmode := rfl
@[simp] theorem State.setEd_ddr (s : State) (i : Nat) (v : Edge) : (s.setEd i v).ddr = s.ddr := rfl
@[simp] theorem State.setEd_qreg (s : State) (i : Nat) (v : Edge) : (s.setEd i v).qreg = s.qreg := rfl
@[simp] theorem State.setEd_turn (s : State) (i : Nat) (v : Edge) : (s.setEd i v).turn = s.turn := rfl
@[simp] theorem State.setEd_port (s : State) (i : Nat) (v : Edge) : (s.setEd i v).port = s.port := rfl
@[simp] theorem State.setEd_pasidGen (s : State) (i : Nat) (v : Edge) : (s.setEd i v).pasidGen = s.pasidGen := rfl
@[simp] theorem State.setEd_vfPart (s : State) (i : Nat) (v : Edge) : (s.setEd i v).vfPart = s.vfPart := rfl
@[simp] theorem State.setEd_tdi (s : State) (i : Nat) (v : Edge) : (s.setEd i v).tdi = s.tdi := rfl
@[simp] theorem State.setEd_ats (s : State) (i : Nat) (v : Edge) : (s.setEd i v).ats = s.ats := rfl
@[simp] theorem State.setEd_podid (s : State) (i : Nat) (v : Edge) : (s.setEd i v).podid = s.podid := rfl
@[simp] theorem State.setEd_route (s : State) (i : Nat) (v : Edge) : (s.setEd i v).route = s.route := rfl
@[simp] theorem State.setEd_linkUp (s : State) (i : Nat) (v : Edge) : (s.setEd i v).linkUp = s.linkUp := rfl
@[simp] theorem State.setEd_grant (s : State) (i : Nat) (v : Edge) : (s.setEd i v).grant = s.grant := rfl
@[simp] theorem State.setEd_hostAns (s : State) (i : Nat) (v : Edge) : (s.setEd i v).hostAns = s.hostAns := rfl
@[simp] theorem State.setEd_counter (s : State) (i : Nat) (v : Edge) : (s.setEd i v).counter = s.counter := rfl
@[simp] theorem State.setEd_nonce (s : State) (i : Nat) (v : Edge) : (s.setEd i v).nonce = s.nonce := rfl
@[simp] theorem State.setEd_dadm (s : State) (i : Nat) (v : Edge) : (s.setEd i v).dadm = s.dadm := rfl
@[simp] theorem State.setEd_booted (s : State) (i : Nat) (v : Edge) : (s.setEd i v).booted = s.booted := rfl
@[simp] theorem State.setEd_admitting (s : State) (i : Nat) (v : Edge) : (s.setEd i v).admitting = s.admitting := rfl
@[simp] theorem State.setEd_stfail (s : State) (i : Nat) (v : Edge) : (s.setEd i v).stfail = s.stfail := rfl
@[simp] theorem State.setEd_fwfail (s : State) (i : Nat) (v : Edge) : (s.setEd i v).fwfail = s.fwfail := rfl
@[simp] theorem State.setEd_rom (s : State) (i : Nat) (v : Edge) : (s.setEd i v).rom = s.rom := rfl
@[simp] theorem State.setEd_clk (s : State) (i : Nat) (v : Edge) : (s.setEd i v).clk = s.clk := rfl
@[simp] theorem State.setEd_fwmeas (s : State) (i : Nat) (v : Edge) : (s.setEd i v).fwmeas = s.fwmeas := rfl
@[simp] theorem State.setEd_full (s : State) (i : Nat) (v : Edge) : (s.setEd i v).full = s.full := rfl
@[simp] theorem State.setEd_temp (s : State) (i : Nat) (v : Edge) : (s.setEd i v).temp = s.temp := rfl
@[simp] theorem State.setEd_inlet (s : State) (i : Nat) (v : Edge) : (s.setEd i v).inlet = s.inlet := rfl
@[simp] theorem State.setEd_throttled (s : State) (i : Nat) (v : Edge) : (s.setEd i v).throttled = s.throttled := rfl
@[simp] theorem State.setEd_capped (s : State) (i : Nat) (v : Edge) : (s.setEd i v).capped = s.capped := rfl
@[simp] theorem State.setEd_spent (s : State) (i : Nat) (v : Edge) : (s.setEd i v).spent = s.spent := rfl
@[simp] theorem State.setEd_spentLast (s : State) (i : Nat) (v : Edge) : (s.setEd i v).spentLast = s.spentLast := rfl
@[simp] theorem State.setEd_cap (s : State) (i : Nat) (v : Edge) : (s.setEd i v).cap = s.cap := rfl
@[simp] theorem State.setEd_cecnt (s : State) (i : Nat) (v : Edge) : (s.setEd i v).cecnt = s.cecnt := rfl
@[simp] theorem State.setEd_dstale (s : State) (i : Nat) (v : Edge) : (s.setEd i v).dstale = s.dstale := rfl
@[simp] theorem State.setEd_dover (s : State) (i : Nat) (v : Edge) : (s.setEd i v).dover = s.dover := rfl

@[simp] theorem State.setFo_agenda (s : State) (i : Nat) (v : Fanout) : (s.setFo i v).agenda = s.agenda := rfl
@[simp] theorem State.setFo_picks (s : State) (i : Nat) (v : Fanout) : (s.setFo i v).picks = s.picks := rfl
@[simp] theorem State.setFo_closing (s : State) (i : Nat) (v : Fanout) : (s.setFo i v).closing = s.closing := rfl
@[simp] theorem State.setFo_cur (s : State) (i : Nat) (v : Fanout) : (s.setFo i v).cur = s.cur := rfl
@[simp] theorem State.setFo_cycle (s : State) (i : Nat) (v : Fanout) : (s.setFo i v).cycle = s.cycle := rfl
@[simp] theorem State.setFo_serial (s : State) (i : Nat) (v : Fanout) : (s.setFo i v).serial = s.serial := rfl
@[simp] theorem State.setFo_taken (s : State) (i : Nat) (v : Fanout) : (s.setFo i v).taken = s.taken := rfl
@[simp] theorem State.setFo_node (s : State) (i : Nat) (v : Fanout) : (s.setFo i v).node = s.node := rfl
@[simp] theorem State.setFo_elem (s : State) (i : Nat) (v : Fanout) : (s.setFo i v).elem = s.elem := rfl
@[simp] theorem State.setFo_tile (s : State) (i : Nat) (v : Fanout) : (s.setFo i v).tile = s.tile := rfl
@[simp] theorem State.setFo_mem (s : State) (i : Nat) (v : Fanout) : (s.setFo i v).mem = s.mem := rfl
@[simp] theorem State.setFo_wmeta (s : State) (i : Nat) (v : Fanout) : (s.setFo i v).wmeta = s.wmeta := rfl
@[simp] theorem State.setFo_lineKey (s : State) (i : Nat) (v : Fanout) : (s.setFo i v).lineKey = s.lineKey := rfl
@[simp] theorem State.setFo_posted (s : State) (i : Nat) (v : Fanout) : (s.setFo i v).posted = s.posted := rfl
@[simp] theorem State.setFo_edge (s : State) (i : Nat) (v : Fanout) : (s.setFo i v).edge = s.edge := rfl
@[simp] theorem State.setFo_net (s : State) (i : Nat) (v : Fanout) : (s.setFo i v).net = s.net := rfl
@[simp] theorem State.setFo_grants (s : State) (i : Nat) (v : Fanout) : (s.setFo i v).grants = s.grants := rfl
@[simp] theorem State.setFo_reqs (s : State) (i : Nat) (v : Fanout) : (s.setFo i v).reqs = s.reqs := rfl
@[simp] theorem State.setFo_resps (s : State) (i : Nat) (v : Fanout) : (s.setFo i v).resps = s.resps := rfl
@[simp] theorem State.setFo_logs (s : State) (i : Nat) (v : Fanout) : (s.setFo i v).logs = s.logs := rfl
@[simp] theorem State.setFo_tags (s : State) (i : Nat) (v : Fanout) : (s.setFo i v).tags = s.tags := rfl
@[simp] theorem State.setFo_replays (s : State) (i : Nat) (v : Fanout) : (s.setFo i v).replays = s.replays := rfl
@[simp] theorem State.setFo_traps (s : State) (i : Nat) (v : Fanout) : (s.setFo i v).traps = s.traps := rfl
@[simp] theorem State.setFo_decs (s : State) (i : Nat) (v : Fanout) : (s.setFo i v).decs = s.decs := rfl
@[simp] theorem State.setFo_podSent (s : State) (i : Nat) (v : Fanout) : (s.setFo i v).podSent = s.podSent := rfl
@[simp] theorem State.setFo_die (s : State) (i : Nat) (v : Fanout) : (s.setFo i v).die = s.die := rfl
@[simp] theorem State.setFo_region (s : State) (i : Nat) (v : Fanout) : (s.setFo i v).region = s.region := rfl
@[simp] theorem State.setFo_part (s : State) (i : Nat) (v : Fanout) : (s.setFo i v).part = s.part := rfl
@[simp] theorem State.setFo_key (s : State) (i : Nat) (v : Fanout) : (s.setFo i v).key = s.key := rfl
@[simp] theorem State.setFo_hbmode (s : State) (i : Nat) (v : Fanout) : (s.setFo i v).hbmode = s.hbmode := rfl
@[simp] theorem State.setFo_ddr (s : State) (i : Nat) (v : Fanout) : (s.setFo i v).ddr = s.ddr := rfl
@[simp] theorem State.setFo_qreg (s : State) (i : Nat) (v : Fanout) : (s.setFo i v).qreg = s.qreg := rfl
@[simp] theorem State.setFo_turn (s : State) (i : Nat) (v : Fanout) : (s.setFo i v).turn = s.turn := rfl
@[simp] theorem State.setFo_port (s : State) (i : Nat) (v : Fanout) : (s.setFo i v).port = s.port := rfl
@[simp] theorem State.setFo_pasidGen (s : State) (i : Nat) (v : Fanout) : (s.setFo i v).pasidGen = s.pasidGen := rfl
@[simp] theorem State.setFo_vfPart (s : State) (i : Nat) (v : Fanout) : (s.setFo i v).vfPart = s.vfPart := rfl
@[simp] theorem State.setFo_tdi (s : State) (i : Nat) (v : Fanout) : (s.setFo i v).tdi = s.tdi := rfl
@[simp] theorem State.setFo_ats (s : State) (i : Nat) (v : Fanout) : (s.setFo i v).ats = s.ats := rfl
@[simp] theorem State.setFo_podid (s : State) (i : Nat) (v : Fanout) : (s.setFo i v).podid = s.podid := rfl
@[simp] theorem State.setFo_route (s : State) (i : Nat) (v : Fanout) : (s.setFo i v).route = s.route := rfl
@[simp] theorem State.setFo_linkUp (s : State) (i : Nat) (v : Fanout) : (s.setFo i v).linkUp = s.linkUp := rfl
@[simp] theorem State.setFo_grant (s : State) (i : Nat) (v : Fanout) : (s.setFo i v).grant = s.grant := rfl
@[simp] theorem State.setFo_hostAns (s : State) (i : Nat) (v : Fanout) : (s.setFo i v).hostAns = s.hostAns := rfl
@[simp] theorem State.setFo_counter (s : State) (i : Nat) (v : Fanout) : (s.setFo i v).counter = s.counter := rfl
@[simp] theorem State.setFo_nonce (s : State) (i : Nat) (v : Fanout) : (s.setFo i v).nonce = s.nonce := rfl
@[simp] theorem State.setFo_dadm (s : State) (i : Nat) (v : Fanout) : (s.setFo i v).dadm = s.dadm := rfl
@[simp] theorem State.setFo_booted (s : State) (i : Nat) (v : Fanout) : (s.setFo i v).booted = s.booted := rfl
@[simp] theorem State.setFo_admitting (s : State) (i : Nat) (v : Fanout) : (s.setFo i v).admitting = s.admitting := rfl
@[simp] theorem State.setFo_stfail (s : State) (i : Nat) (v : Fanout) : (s.setFo i v).stfail = s.stfail := rfl
@[simp] theorem State.setFo_fwfail (s : State) (i : Nat) (v : Fanout) : (s.setFo i v).fwfail = s.fwfail := rfl
@[simp] theorem State.setFo_rom (s : State) (i : Nat) (v : Fanout) : (s.setFo i v).rom = s.rom := rfl
@[simp] theorem State.setFo_clk (s : State) (i : Nat) (v : Fanout) : (s.setFo i v).clk = s.clk := rfl
@[simp] theorem State.setFo_fwmeas (s : State) (i : Nat) (v : Fanout) : (s.setFo i v).fwmeas = s.fwmeas := rfl
@[simp] theorem State.setFo_full (s : State) (i : Nat) (v : Fanout) : (s.setFo i v).full = s.full := rfl
@[simp] theorem State.setFo_temp (s : State) (i : Nat) (v : Fanout) : (s.setFo i v).temp = s.temp := rfl
@[simp] theorem State.setFo_inlet (s : State) (i : Nat) (v : Fanout) : (s.setFo i v).inlet = s.inlet := rfl
@[simp] theorem State.setFo_throttled (s : State) (i : Nat) (v : Fanout) : (s.setFo i v).throttled = s.throttled := rfl
@[simp] theorem State.setFo_capped (s : State) (i : Nat) (v : Fanout) : (s.setFo i v).capped = s.capped := rfl
@[simp] theorem State.setFo_spent (s : State) (i : Nat) (v : Fanout) : (s.setFo i v).spent = s.spent := rfl
@[simp] theorem State.setFo_spentLast (s : State) (i : Nat) (v : Fanout) : (s.setFo i v).spentLast = s.spentLast := rfl
@[simp] theorem State.setFo_cap (s : State) (i : Nat) (v : Fanout) : (s.setFo i v).cap = s.cap := rfl
@[simp] theorem State.setFo_cecnt (s : State) (i : Nat) (v : Fanout) : (s.setFo i v).cecnt = s.cecnt := rfl
@[simp] theorem State.setFo_dstale (s : State) (i : Nat) (v : Fanout) : (s.setFo i v).dstale = s.dstale := rfl
@[simp] theorem State.setFo_dover (s : State) (i : Nat) (v : Fanout) : (s.setFo i v).dover = s.dover := rfl

@[simp] theorem State.setMeta_agenda (s : State) (pa : Nat) (v : WMeta) : (s.setMeta pa v).agenda = s.agenda := rfl
@[simp] theorem State.setMeta_picks (s : State) (pa : Nat) (v : WMeta) : (s.setMeta pa v).picks = s.picks := rfl
@[simp] theorem State.setMeta_closing (s : State) (pa : Nat) (v : WMeta) : (s.setMeta pa v).closing = s.closing := rfl
@[simp] theorem State.setMeta_cur (s : State) (pa : Nat) (v : WMeta) : (s.setMeta pa v).cur = s.cur := rfl
@[simp] theorem State.setMeta_cycle (s : State) (pa : Nat) (v : WMeta) : (s.setMeta pa v).cycle = s.cycle := rfl
@[simp] theorem State.setMeta_serial (s : State) (pa : Nat) (v : WMeta) : (s.setMeta pa v).serial = s.serial := rfl
@[simp] theorem State.setMeta_taken (s : State) (pa : Nat) (v : WMeta) : (s.setMeta pa v).taken = s.taken := rfl
@[simp] theorem State.setMeta_node (s : State) (pa : Nat) (v : WMeta) : (s.setMeta pa v).node = s.node := rfl
@[simp] theorem State.setMeta_elem (s : State) (pa : Nat) (v : WMeta) : (s.setMeta pa v).elem = s.elem := rfl
@[simp] theorem State.setMeta_tile (s : State) (pa : Nat) (v : WMeta) : (s.setMeta pa v).tile = s.tile := rfl
@[simp] theorem State.setMeta_mem (s : State) (pa : Nat) (v : WMeta) : (s.setMeta pa v).mem = s.mem := rfl
@[simp] theorem State.setMeta_lineKey (s : State) (pa : Nat) (v : WMeta) : (s.setMeta pa v).lineKey = s.lineKey := rfl
@[simp] theorem State.setMeta_posted (s : State) (pa : Nat) (v : WMeta) : (s.setMeta pa v).posted = s.posted := rfl
@[simp] theorem State.setMeta_edge (s : State) (pa : Nat) (v : WMeta) : (s.setMeta pa v).edge = s.edge := rfl
@[simp] theorem State.setMeta_net (s : State) (pa : Nat) (v : WMeta) : (s.setMeta pa v).net = s.net := rfl
@[simp] theorem State.setMeta_grants (s : State) (pa : Nat) (v : WMeta) : (s.setMeta pa v).grants = s.grants := rfl
@[simp] theorem State.setMeta_fanout (s : State) (pa : Nat) (v : WMeta) : (s.setMeta pa v).fanout = s.fanout := rfl
@[simp] theorem State.setMeta_reqs (s : State) (pa : Nat) (v : WMeta) : (s.setMeta pa v).reqs = s.reqs := rfl
@[simp] theorem State.setMeta_resps (s : State) (pa : Nat) (v : WMeta) : (s.setMeta pa v).resps = s.resps := rfl
@[simp] theorem State.setMeta_logs (s : State) (pa : Nat) (v : WMeta) : (s.setMeta pa v).logs = s.logs := rfl
@[simp] theorem State.setMeta_tags (s : State) (pa : Nat) (v : WMeta) : (s.setMeta pa v).tags = s.tags := rfl
@[simp] theorem State.setMeta_replays (s : State) (pa : Nat) (v : WMeta) : (s.setMeta pa v).replays = s.replays := rfl
@[simp] theorem State.setMeta_traps (s : State) (pa : Nat) (v : WMeta) : (s.setMeta pa v).traps = s.traps := rfl
@[simp] theorem State.setMeta_decs (s : State) (pa : Nat) (v : WMeta) : (s.setMeta pa v).decs = s.decs := rfl
@[simp] theorem State.setMeta_podSent (s : State) (pa : Nat) (v : WMeta) : (s.setMeta pa v).podSent = s.podSent := rfl
@[simp] theorem State.setMeta_die (s : State) (pa : Nat) (v : WMeta) : (s.setMeta pa v).die = s.die := rfl
@[simp] theorem State.setMeta_region (s : State) (pa : Nat) (v : WMeta) : (s.setMeta pa v).region = s.region := rfl
@[simp] theorem State.setMeta_part (s : State) (pa : Nat) (v : WMeta) : (s.setMeta pa v).part = s.part := rfl
@[simp] theorem State.setMeta_key (s : State) (pa : Nat) (v : WMeta) : (s.setMeta pa v).key = s.key := rfl
@[simp] theorem State.setMeta_hbmode (s : State) (pa : Nat) (v : WMeta) : (s.setMeta pa v).hbmode = s.hbmode := rfl
@[simp] theorem State.setMeta_ddr (s : State) (pa : Nat) (v : WMeta) : (s.setMeta pa v).ddr = s.ddr := rfl
@[simp] theorem State.setMeta_qreg (s : State) (pa : Nat) (v : WMeta) : (s.setMeta pa v).qreg = s.qreg := rfl
@[simp] theorem State.setMeta_turn (s : State) (pa : Nat) (v : WMeta) : (s.setMeta pa v).turn = s.turn := rfl
@[simp] theorem State.setMeta_port (s : State) (pa : Nat) (v : WMeta) : (s.setMeta pa v).port = s.port := rfl
@[simp] theorem State.setMeta_pasidGen (s : State) (pa : Nat) (v : WMeta) : (s.setMeta pa v).pasidGen = s.pasidGen := rfl
@[simp] theorem State.setMeta_vfPart (s : State) (pa : Nat) (v : WMeta) : (s.setMeta pa v).vfPart = s.vfPart := rfl
@[simp] theorem State.setMeta_tdi (s : State) (pa : Nat) (v : WMeta) : (s.setMeta pa v).tdi = s.tdi := rfl
@[simp] theorem State.setMeta_ats (s : State) (pa : Nat) (v : WMeta) : (s.setMeta pa v).ats = s.ats := rfl
@[simp] theorem State.setMeta_podid (s : State) (pa : Nat) (v : WMeta) : (s.setMeta pa v).podid = s.podid := rfl
@[simp] theorem State.setMeta_route (s : State) (pa : Nat) (v : WMeta) : (s.setMeta pa v).route = s.route := rfl
@[simp] theorem State.setMeta_linkUp (s : State) (pa : Nat) (v : WMeta) : (s.setMeta pa v).linkUp = s.linkUp := rfl
@[simp] theorem State.setMeta_grant (s : State) (pa : Nat) (v : WMeta) : (s.setMeta pa v).grant = s.grant := rfl
@[simp] theorem State.setMeta_hostAns (s : State) (pa : Nat) (v : WMeta) : (s.setMeta pa v).hostAns = s.hostAns := rfl
@[simp] theorem State.setMeta_counter (s : State) (pa : Nat) (v : WMeta) : (s.setMeta pa v).counter = s.counter := rfl
@[simp] theorem State.setMeta_nonce (s : State) (pa : Nat) (v : WMeta) : (s.setMeta pa v).nonce = s.nonce := rfl
@[simp] theorem State.setMeta_dadm (s : State) (pa : Nat) (v : WMeta) : (s.setMeta pa v).dadm = s.dadm := rfl
@[simp] theorem State.setMeta_booted (s : State) (pa : Nat) (v : WMeta) : (s.setMeta pa v).booted = s.booted := rfl
@[simp] theorem State.setMeta_admitting (s : State) (pa : Nat) (v : WMeta) : (s.setMeta pa v).admitting = s.admitting := rfl
@[simp] theorem State.setMeta_stfail (s : State) (pa : Nat) (v : WMeta) : (s.setMeta pa v).stfail = s.stfail := rfl
@[simp] theorem State.setMeta_fwfail (s : State) (pa : Nat) (v : WMeta) : (s.setMeta pa v).fwfail = s.fwfail := rfl
@[simp] theorem State.setMeta_rom (s : State) (pa : Nat) (v : WMeta) : (s.setMeta pa v).rom = s.rom := rfl
@[simp] theorem State.setMeta_clk (s : State) (pa : Nat) (v : WMeta) : (s.setMeta pa v).clk = s.clk := rfl
@[simp] theorem State.setMeta_fwmeas (s : State) (pa : Nat) (v : WMeta) : (s.setMeta pa v).fwmeas = s.fwmeas := rfl
@[simp] theorem State.setMeta_full (s : State) (pa : Nat) (v : WMeta) : (s.setMeta pa v).full = s.full := rfl
@[simp] theorem State.setMeta_temp (s : State) (pa : Nat) (v : WMeta) : (s.setMeta pa v).temp = s.temp := rfl
@[simp] theorem State.setMeta_inlet (s : State) (pa : Nat) (v : WMeta) : (s.setMeta pa v).inlet = s.inlet := rfl
@[simp] theorem State.setMeta_throttled (s : State) (pa : Nat) (v : WMeta) : (s.setMeta pa v).throttled = s.throttled := rfl
@[simp] theorem State.setMeta_capped (s : State) (pa : Nat) (v : WMeta) : (s.setMeta pa v).capped = s.capped := rfl
@[simp] theorem State.setMeta_spent (s : State) (pa : Nat) (v : WMeta) : (s.setMeta pa v).spent = s.spent := rfl
@[simp] theorem State.setMeta_spentLast (s : State) (pa : Nat) (v : WMeta) : (s.setMeta pa v).spentLast = s.spentLast := rfl
@[simp] theorem State.setMeta_cap (s : State) (pa : Nat) (v : WMeta) : (s.setMeta pa v).cap = s.cap := rfl
@[simp] theorem State.setMeta_cecnt (s : State) (pa : Nat) (v : WMeta) : (s.setMeta pa v).cecnt = s.cecnt := rfl
@[simp] theorem State.setMeta_dstale (s : State) (pa : Nat) (v : WMeta) : (s.setMeta pa v).dstale = s.dstale := rfl
@[simp] theorem State.setMeta_dover (s : State) (pa : Nat) (v : WMeta) : (s.setMeta pa v).dover = s.dover := rfl

@[simp] theorem State.updNd_eq (s : State) (n : NodeRef) (f : Node → Node) : s.updNd n f = s.setNd n (f (s.nd n)) := rfl
@[simp] theorem State.updEl_eq (s : State) (n : ElemRef) (f : Elem → Elem) : s.updEl n f = s.setEl n (f (s.el n)) := rfl
@[simp] theorem State.updTl_eq (s : State) (n : TileRef) (f : MTile → MTile) : s.updTl n f = s.setTl n (f (s.tl n)) := rfl
@[simp] theorem State.updDie_eq (s : State) (n : BitVec 4) (f : Die → Die) : s.updDie n f = s.setDie n (f (s.dieAt n)) := rfl
@[simp] theorem State.updRg_eq (s : State) (n : Nat) (f : Region → Region) : s.updRg n f = s.setRg n (f (s.rg n)) := rfl
@[simp] theorem State.updPt_eq (s : State) (n : BitVec 5) (f : Partition → Partition) : s.updPt n f = s.setPt n (f (s.pt n)) := rfl
@[simp] theorem State.updEd_eq (s : State) (n : Nat) (f : Edge → Edge) : s.updEd n f = s.setEd n (f (s.ed n)) := rfl

@[simp] theorem State.nd_setNd_self (s : State) (x : NodeRef) (v : Node) : (s.setNd x v).nd x = v := Map.get_set_self _ _ _ _
theorem State.nd_setNd_ne (s : State) {x y : NodeRef} (v : Node) (h : y ≠ x) : (s.setNd x v).nd y = s.nd y :=
  Map.get_set_ne _ _ _ (fun hk => h (NodeRef.key_inj hk))
@[simp] theorem State.nd_setEl (s : State) (x : ElemRef) (v : Elem) (y : NodeRef) : (s.setEl x v).nd y = s.nd y := rfl
@[simp] theorem State.nd_setTl (s : State) (x : TileRef) (v : MTile) (y : NodeRef) : (s.setTl x v).nd y = s.nd y := rfl
@[simp] theorem State.nd_setDie (s : State) (x : BitVec 4) (v : Die) (y : NodeRef) : (s.setDie x v).nd y = s.nd y := rfl
@[simp] theorem State.nd_setRg (s : State) (x : Nat) (v : Region) (y : NodeRef) : (s.setRg x v).nd y = s.nd y := rfl
@[simp] theorem State.nd_setPt (s : State) (x : BitVec 5) (v : Partition) (y : NodeRef) : (s.setPt x v).nd y = s.nd y := rfl
@[simp] theorem State.nd_setEd (s : State) (x : Nat) (v : Edge) (y : NodeRef) : (s.setEd x v).nd y = s.nd y := rfl
@[simp] theorem State.nd_setFo (s : State) (x : Nat) (v : Fanout) (y : NodeRef) : (s.setFo x v).nd y = s.nd y := rfl
@[simp] theorem State.nd_setMeta (s : State) (x : Nat) (v : WMeta) (y : NodeRef) : (s.setMeta x v).nd y = s.nd y := rfl

@[simp] theorem State.el_setEl_self (s : State) (x : ElemRef) (v : Elem) : (s.setEl x v).el x = v := Map.get_set_self _ _ _ _
theorem State.el_setEl_ne (s : State) {x y : ElemRef} (v : Elem) (h : y ≠ x) : (s.setEl x v).el y = s.el y :=
  Map.get_set_ne _ _ _ (fun hk => h (ElemRef.key_inj hk))
@[simp] theorem State.el_setNd (s : State) (x : NodeRef) (v : Node) (y : ElemRef) : (s.setNd x v).el y = s.el y := rfl
@[simp] theorem State.el_setTl (s : State) (x : TileRef) (v : MTile) (y : ElemRef) : (s.setTl x v).el y = s.el y := rfl
@[simp] theorem State.el_setDie (s : State) (x : BitVec 4) (v : Die) (y : ElemRef) : (s.setDie x v).el y = s.el y := rfl
@[simp] theorem State.el_setRg (s : State) (x : Nat) (v : Region) (y : ElemRef) : (s.setRg x v).el y = s.el y := rfl
@[simp] theorem State.el_setPt (s : State) (x : BitVec 5) (v : Partition) (y : ElemRef) : (s.setPt x v).el y = s.el y := rfl
@[simp] theorem State.el_setEd (s : State) (x : Nat) (v : Edge) (y : ElemRef) : (s.setEd x v).el y = s.el y := rfl
@[simp] theorem State.el_setFo (s : State) (x : Nat) (v : Fanout) (y : ElemRef) : (s.setFo x v).el y = s.el y := rfl
@[simp] theorem State.el_setMeta (s : State) (x : Nat) (v : WMeta) (y : ElemRef) : (s.setMeta x v).el y = s.el y := rfl

@[simp] theorem State.tl_setTl_self (s : State) (x : TileRef) (v : MTile) : (s.setTl x v).tl x = v := Map.get_set_self _ _ _ _
theorem State.tl_setTl_ne (s : State) {x y : TileRef} (v : MTile) (h : y ≠ x) : (s.setTl x v).tl y = s.tl y :=
  Map.get_set_ne _ _ _ (fun hk => h (TileRef.key_inj hk))
@[simp] theorem State.tl_setNd (s : State) (x : NodeRef) (v : Node) (y : TileRef) : (s.setNd x v).tl y = s.tl y := rfl
@[simp] theorem State.tl_setEl (s : State) (x : ElemRef) (v : Elem) (y : TileRef) : (s.setEl x v).tl y = s.tl y := rfl
@[simp] theorem State.tl_setDie (s : State) (x : BitVec 4) (v : Die) (y : TileRef) : (s.setDie x v).tl y = s.tl y := rfl
@[simp] theorem State.tl_setRg (s : State) (x : Nat) (v : Region) (y : TileRef) : (s.setRg x v).tl y = s.tl y := rfl
@[simp] theorem State.tl_setPt (s : State) (x : BitVec 5) (v : Partition) (y : TileRef) : (s.setPt x v).tl y = s.tl y := rfl
@[simp] theorem State.tl_setEd (s : State) (x : Nat) (v : Edge) (y : TileRef) : (s.setEd x v).tl y = s.tl y := rfl
@[simp] theorem State.tl_setFo (s : State) (x : Nat) (v : Fanout) (y : TileRef) : (s.setFo x v).tl y = s.tl y := rfl
@[simp] theorem State.tl_setMeta (s : State) (x : Nat) (v : WMeta) (y : TileRef) : (s.setMeta x v).tl y = s.tl y := rfl

@[simp] theorem State.dieAt_setDie_self (s : State) (x : BitVec 4) (v : Die) : (s.setDie x v).dieAt x = v := Map.get_set_self _ _ _ _
theorem State.dieAt_setDie_ne (s : State) {x y : BitVec 4} (v : Die) (h : y ≠ x) : (s.setDie x v).dieAt y = s.dieAt y :=
  Map.get_set_ne _ _ _ (fun hk => h (BitVec.eq_of_toNat_eq hk))
@[simp] theorem State.dieAt_setNd (s : State) (x : NodeRef) (v : Node) (y : BitVec 4) : (s.setNd x v).dieAt y = s.dieAt y := rfl
@[simp] theorem State.dieAt_setEl (s : State) (x : ElemRef) (v : Elem) (y : BitVec 4) : (s.setEl x v).dieAt y = s.dieAt y := rfl
@[simp] theorem State.dieAt_setTl (s : State) (x : TileRef) (v : MTile) (y : BitVec 4) : (s.setTl x v).dieAt y = s.dieAt y := rfl
@[simp] theorem State.dieAt_setRg (s : State) (x : Nat) (v : Region) (y : BitVec 4) : (s.setRg x v).dieAt y = s.dieAt y := rfl
@[simp] theorem State.dieAt_setPt (s : State) (x : BitVec 5) (v : Partition) (y : BitVec 4) : (s.setPt x v).dieAt y = s.dieAt y := rfl
@[simp] theorem State.dieAt_setEd (s : State) (x : Nat) (v : Edge) (y : BitVec 4) : (s.setEd x v).dieAt y = s.dieAt y := rfl
@[simp] theorem State.dieAt_setFo (s : State) (x : Nat) (v : Fanout) (y : BitVec 4) : (s.setFo x v).dieAt y = s.dieAt y := rfl
@[simp] theorem State.dieAt_setMeta (s : State) (x : Nat) (v : WMeta) (y : BitVec 4) : (s.setMeta x v).dieAt y = s.dieAt y := rfl

@[simp] theorem State.rg_setRg_self (s : State) (x : Nat) (v : Region) : (s.setRg x v).rg x = v := Map.get_set_self _ _ _ _
theorem State.rg_setRg_ne (s : State) {x y : Nat} (v : Region) (h : y ≠ x) : (s.setRg x v).rg y = s.rg y :=
  Map.get_set_ne _ _ _ h
@[simp] theorem State.rg_setNd (s : State) (x : NodeRef) (v : Node) (y : Nat) : (s.setNd x v).rg y = s.rg y := rfl
@[simp] theorem State.rg_setEl (s : State) (x : ElemRef) (v : Elem) (y : Nat) : (s.setEl x v).rg y = s.rg y := rfl
@[simp] theorem State.rg_setTl (s : State) (x : TileRef) (v : MTile) (y : Nat) : (s.setTl x v).rg y = s.rg y := rfl
@[simp] theorem State.rg_setDie (s : State) (x : BitVec 4) (v : Die) (y : Nat) : (s.setDie x v).rg y = s.rg y := rfl
@[simp] theorem State.rg_setPt (s : State) (x : BitVec 5) (v : Partition) (y : Nat) : (s.setPt x v).rg y = s.rg y := rfl
@[simp] theorem State.rg_setEd (s : State) (x : Nat) (v : Edge) (y : Nat) : (s.setEd x v).rg y = s.rg y := rfl
@[simp] theorem State.rg_setFo (s : State) (x : Nat) (v : Fanout) (y : Nat) : (s.setFo x v).rg y = s.rg y := rfl
@[simp] theorem State.rg_setMeta (s : State) (x : Nat) (v : WMeta) (y : Nat) : (s.setMeta x v).rg y = s.rg y := rfl

@[simp] theorem State.pt_setPt_self (s : State) (x : BitVec 5) (v : Partition) : (s.setPt x v).pt x = v := Map.get_set_self _ _ _ _
theorem State.pt_setPt_ne (s : State) {x y : BitVec 5} (v : Partition) (h : y ≠ x) : (s.setPt x v).pt y = s.pt y :=
  Map.get_set_ne _ _ _ (fun hk => h (BitVec.eq_of_toNat_eq hk))
@[simp] theorem State.pt_setNd (s : State) (x : NodeRef) (v : Node) (y : BitVec 5) : (s.setNd x v).pt y = s.pt y := rfl
@[simp] theorem State.pt_setEl (s : State) (x : ElemRef) (v : Elem) (y : BitVec 5) : (s.setEl x v).pt y = s.pt y := rfl
@[simp] theorem State.pt_setTl (s : State) (x : TileRef) (v : MTile) (y : BitVec 5) : (s.setTl x v).pt y = s.pt y := rfl
@[simp] theorem State.pt_setDie (s : State) (x : BitVec 4) (v : Die) (y : BitVec 5) : (s.setDie x v).pt y = s.pt y := rfl
@[simp] theorem State.pt_setRg (s : State) (x : Nat) (v : Region) (y : BitVec 5) : (s.setRg x v).pt y = s.pt y := rfl
@[simp] theorem State.pt_setEd (s : State) (x : Nat) (v : Edge) (y : BitVec 5) : (s.setEd x v).pt y = s.pt y := rfl
@[simp] theorem State.pt_setFo (s : State) (x : Nat) (v : Fanout) (y : BitVec 5) : (s.setFo x v).pt y = s.pt y := rfl
@[simp] theorem State.pt_setMeta (s : State) (x : Nat) (v : WMeta) (y : BitVec 5) : (s.setMeta x v).pt y = s.pt y := rfl

@[simp] theorem State.ed_setEd_self (s : State) (x : Nat) (v : Edge) : (s.setEd x v).ed x = v := Map.get_set_self _ _ _ _
theorem State.ed_setEd_ne (s : State) {x y : Nat} (v : Edge) (h : y ≠ x) : (s.setEd x v).ed y = s.ed y :=
  Map.get_set_ne _ _ _ h
@[simp] theorem State.ed_setNd (s : State) (x : NodeRef) (v : Node) (y : Nat) : (s.setNd x v).ed y = s.ed y := rfl
@[simp] theorem State.ed_setEl (s : State) (x : ElemRef) (v : Elem) (y : Nat) : (s.setEl x v).ed y = s.ed y := rfl
@[simp] theorem State.ed_setTl (s : State) (x : TileRef) (v : MTile) (y : Nat) : (s.setTl x v).ed y = s.ed y := rfl
@[simp] theorem State.ed_setDie (s : State) (x : BitVec 4) (v : Die) (y : Nat) : (s.setDie x v).ed y = s.ed y := rfl
@[simp] theorem State.ed_setRg (s : State) (x : Nat) (v : Region) (y : Nat) : (s.setRg x v).ed y = s.ed y := rfl
@[simp] theorem State.ed_setPt (s : State) (x : BitVec 5) (v : Partition) (y : Nat) : (s.setPt x v).ed y = s.ed y := rfl
@[simp] theorem State.ed_setFo (s : State) (x : Nat) (v : Fanout) (y : Nat) : (s.setFo x v).ed y = s.ed y := rfl
@[simp] theorem State.ed_setMeta (s : State) (x : Nat) (v : WMeta) (y : Nat) : (s.setMeta x v).ed y = s.ed y := rfl

@[simp] theorem State.fo_setFo_self (s : State) (x : Nat) (v : Fanout) : (s.setFo x v).fo x = v := Map.get_set_self _ _ _ _
theorem State.fo_setFo_ne (s : State) {x y : Nat} (v : Fanout) (h : y ≠ x) : (s.setFo x v).fo y = s.fo y :=
  Map.get_set_ne _ _ _ h
@[simp] theorem State.fo_setNd (s : State) (x : NodeRef) (v : Node) (y : Nat) : (s.setNd x v).fo y = s.fo y := rfl
@[simp] theorem State.fo_setEl (s : State) (x : ElemRef) (v : Elem) (y : Nat) : (s.setEl x v).fo y = s.fo y := rfl
@[simp] theorem State.fo_setTl (s : State) (x : TileRef) (v : MTile) (y : Nat) : (s.setTl x v).fo y = s.fo y := rfl
@[simp] theorem State.fo_setDie (s : State) (x : BitVec 4) (v : Die) (y : Nat) : (s.setDie x v).fo y = s.fo y := rfl
@[simp] theorem State.fo_setRg (s : State) (x : Nat) (v : Region) (y : Nat) : (s.setRg x v).fo y = s.fo y := rfl
@[simp] theorem State.fo_setPt (s : State) (x : BitVec 5) (v : Partition) (y : Nat) : (s.setPt x v).fo y = s.fo y := rfl
@[simp] theorem State.fo_setEd (s : State) (x : Nat) (v : Edge) (y : Nat) : (s.setEd x v).fo y = s.fo y := rfl
@[simp] theorem State.fo_setMeta (s : State) (x : Nat) (v : WMeta) (y : Nat) : (s.setMeta x v).fo y = s.fo y := rfl

end Sys2Proof.Machine
end

