-- ==== Sys2Proof/Laws/Memory.lean ====
section
/-! SUPPORT. Laws of memory: read after write, and that every operation keeps the canonical form. -/

namespace Sys2Proof.Machine

/-! ## The canonical form -/

/-- Every listed address is greater than `k`. -/
def above (k : Nat) (m : List Host.Cell) : Prop := ∀ x ∈ m, k < x.1

theorem Memory.wf_nil : Memory.wf [] = true := rfl

theorem Memory.wf_cons (k : Nat) (v : Byte) (m : List Host.Cell) :
    Memory.wf ((k, v) :: m) = true ↔ v ≠ 0 ∧ above k m ∧ Memory.wf m = true := by
  induction m generalizing k v with
  | nil => simp [Memory.wf, above]
  | cons x m ih =>
    obtain ⟨k', v'⟩ := x
    rw [Memory.wf]
    simp only [Bool.and_eq_true, decide_eq_true_eq]
    constructor
    · rintro ⟨⟨h1, h2⟩, h3⟩
      refine ⟨h2, ?_, h3⟩
      intro y hy
      rcases List.mem_cons.mp hy with rfl | hy
      · exact h1
      · exact Nat.lt_trans h1 (((ih k' v').mp h3).2.1 y hy)
    · rintro ⟨h1, h2, h3⟩
      exact ⟨⟨h2 _ (List.mem_cons_self ..), h1⟩, h3⟩

theorem memGet_of_above {k : Nat} {m : List Host.Cell} (h : above k m) {a : Nat} (ha : a ≤ k) : memGet m a = 0 := by
  induction m with
  | nil => rfl
  | cons x m ih =>
    obtain ⟨k', v'⟩ := x
    have h1 : k < k' := h (k', v') (List.mem_cons_self ..)
    unfold memGet
    rw [if_neg (by omega)]
    exact ih (fun y hy => h y (List.mem_cons_of_mem _ hy))

theorem above_memSet {k a : Nat} {v : Byte} {m : List Host.Cell} (h : above k m) (ha : k < a) : above k (memSet m a v) := by
  induction m with
  | nil =>
    unfold memSet
    split
    · exact h
    · intro x hx
      simp only [List.mem_singleton] at hx
      subst hx
      exact ha
  | cons x m ih =>
    obtain ⟨k', v'⟩ := x
    have hm : above k m := fun y hy => h y (List.mem_cons_of_mem _ hy)
    have hk : k < k' := h (k', v') (List.mem_cons_self ..)
    unfold memSet
    split
    · split
      · exact h
      · intro y hy
        rcases List.mem_cons.mp hy with rfl | hy
        · exact ha
        · exact h y hy
    · split
      · split
        · exact hm
        · intro y hy
          rcases List.mem_cons.mp hy with rfl | hy
          · exact ha
          · exact hm y hy
      · intro y hy
        rcases List.mem_cons.mp hy with rfl | hy
        · exact hk
        · exact ih hm y hy

/-- A byte stored keeps the canonical form. -/
theorem memSet_wf {m : List Host.Cell} (h : Memory.wf m = true) (a : Nat) (v : Byte) : Memory.wf (memSet m a v) = true := by
  induction m with
  | nil =>
    unfold memSet
    split
    · rfl
    · rename_i hv
      exact (Memory.wf_cons a v []).mpr ⟨hv, by simp [above], rfl⟩
  | cons x m ih =>
    obtain ⟨k', v'⟩ := x
    obtain ⟨h1, h2, h3⟩ := (Memory.wf_cons k' v' m).mp h
    unfold memSet
    split
    · rename_i hlt
      split
      · exact h
      · rename_i hv
        refine (Memory.wf_cons a v _).mpr ⟨hv, ?_, h⟩
        intro y hy
        rcases List.mem_cons.mp hy with rfl | hy
        · exact hlt
        · exact Nat.lt_trans hlt (h2 y hy)
    · rename_i hge
      split
      · rename_i heq
        subst heq
        split
        · exact h3
        · rename_i hv
          exact (Memory.wf_cons _ v m).mpr ⟨hv, h2, h3⟩
      · rename_i hne
        exact (Memory.wf_cons k' v' _).mpr ⟨h1, above_memSet h2 (by omega), ih h3⟩

/-- A byte read back: the byte stored at its own address, and what stood there before at every other. -/
theorem memGet_memSet {m : List Host.Cell} (h : Memory.wf m = true) (a : Nat) (v : Byte) (b : Nat) :
    memGet (memSet m a v) b = if b = a then v else memGet m b := by
  induction m with
  | nil =>
    unfold memSet
    by_cases hv : v = 0
    · subst hv
      simp [memGet]
    · rw [if_neg hv]
      simp only [memGet]
      by_cases hb : b = a
      · simp [hb]
      · rw [if_neg (fun h => hb h.symm), if_neg hb]
  | cons x m ih =>
    obtain ⟨k', v'⟩ := x
    obtain ⟨h1, h2, h3⟩ := (Memory.wf_cons k' v' m).mp h
    unfold memSet
    by_cases hlt : a < k'
    · rw [if_pos hlt]
      by_cases hv : v = 0
      · rw [if_pos hv]
        by_cases hb : b = a
        · rw [if_pos hb, hv]
          unfold memGet
          rw [if_neg (by omega)]
          exact memGet_of_above h2 (by omega)
        · rw [if_neg hb]
      · rw [if_neg hv, memGet]
        by_cases hb : b = a
        · rw [if_pos hb.symm, if_pos hb]
        · rw [if_neg (fun h => hb h.symm), if_neg hb]
    · rw [if_neg hlt]
      by_cases heq : a = k'
      · subst heq
        rw [if_pos rfl]
        by_cases hv : v = 0
        · rw [if_pos hv]
          by_cases hb : b = a
          · rw [if_pos hb, hv, hb]
            exact memGet_of_above h2 (Nat.le_refl a)
          · rw [if_neg hb, memGet, if_neg (fun h => hb h.symm)]
        · rw [if_neg hv, memGet, memGet]
          by_cases hb : b = a
          · rw [if_pos hb.symm, if_pos hb]
          · rw [if_neg (fun h => hb h.symm), if_neg hb, if_neg (fun h => hb h.symm)]
      · rw [if_neg heq, memGet, memGet, ih h3]
        by_cases hk : k' = b
        · rw [if_pos hk, if_pos hk, if_neg (by omega)]
        · rw [if_neg hk, if_neg hk]

/-- Bytes stored keep the canonical form. -/
theorem writeBytes_wf {m : List Host.Cell} (h : Memory.wf m = true) (a : Nat) (bs : List Byte) :
    Memory.wf (writeBytes m a bs) = true := by
  induction bs generalizing m a with
  | nil => exact h
  | cons b bs ih => exact ih (memSet_wf h a b) (a + 1)

/-- Bytes read back after a store of bytes. -/
theorem memGet_writeBytes {m : List Host.Cell} (h : Memory.wf m = true) (a : Nat) (bs : List Byte) (b : Nat) :
    memGet (writeBytes m a bs) b = if a ≤ b ∧ b < a + bs.length then bs.getD (b - a) 0 else memGet m b := by
  induction bs generalizing m a with
  | nil =>
    simp only [writeBytes, List.length_nil, Nat.add_zero]
    rw [if_neg (by omega)]
  | cons x bs ih =>
    simp only [writeBytes, List.length_cons]
    rw [ih (memSet_wf h a x), memGet_memSet h]
    by_cases hb : b = a
    · subst hb
      rw [if_neg (by omega), if_pos rfl, if_pos (by omega)]
      simp
    · by_cases h2 : a + 1 ≤ b ∧ b < a + 1 + bs.length
      · rw [if_pos h2, if_pos (by omega)]
        obtain ⟨d, rfl⟩ := Nat.exists_eq_add_of_le h2.1
        rw [show a + 1 + d - (a + 1) = d by omega, show a + 1 + d - a = d + 1 by omega]
        simp
      · rw [if_neg h2, if_neg hb, if_neg (by omega)]

/-- A word stored keeps the canonical form. -/
theorem memSetWord_wf {m : List Host.Cell} (h : Memory.wf m = true) (a : Nat) (w : Word) : Memory.wf (memSetWord m a w) = true :=
  writeBytes_wf h a _

@[simp] theorem leBytes_length (n v : Nat) : (leBytes n v).length = n := by simp [leBytes]

/-- A word stored changes no byte outside its four. -/
theorem memGet_memSetWord_ne {m : List Host.Cell} (h : Memory.wf m = true) (a : Nat) (w : Word) (b : Nat)
    (hb : b < a ∨ a + 4 ≤ b) : memGet (memSetWord m a w) b = memGet m b := by
  unfold memSetWord
  rw [memGet_writeBytes h, leBytes_length, if_neg (by omega)]

theorem memGet_memSetWord_in {m : List Host.Cell} (h : Memory.wf m = true) (a : Nat) (w : Word) (i : Nat) (hi : i < 4) :
    memGet (memSetWord m a w) (a + i) = BitVec.ofNat 8 (w.toNat / 256 ^ i) := by
  unfold memSetWord
  rw [memGet_writeBytes h, leBytes_length, if_pos (by omega), show a + i - a = i by omega]
  simp [leBytes, List.getD_eq_getElem?_getD, hi]

/-- A word read back after it was stored. -/
theorem memWord_memSetWord {m : List Host.Cell} (h : Memory.wf m = true) (a : Nat) (w : Word) : memWord (memSetWord m a w) a = w := by
  have e0 := memGet_memSetWord_in h a w 0 (by omega)
  have e1 := memGet_memSetWord_in h a w 1 (by omega)
  have e2 := memGet_memSetWord_in h a w 2 (by omega)
  have e3 := memGet_memSetWord_in h a w 3 (by omega)
  have hw := w.isLt
  apply BitVec.eq_of_toNat_eq
  simp only [memWord, readBytes, List.range, List.range.loop, List.map_cons, List.map_nil, e0, e1, e2, e3, leNat,
    BitVec.toNat_ofNat]
  omega

/-- A word elsewhere is not changed by a store. -/
theorem memWord_memSetWord_ne {m : List Host.Cell} (h : Memory.wf m = true) (a : Nat) (w : Word) (b : Nat)
    (hb : b + 4 ≤ a ∨ a + 4 ≤ b) : memWord (memSetWord m a w) b = memWord m b := by
  have e : ∀ i, i < 4 → memGet (memSetWord m a w) (b + i) = memGet m (b + i) :=
    fun i hi => memGet_memSetWord_ne h a w (b + i) (by omega)
  simp only [memWord, readBytes, List.range, List.range.loop, List.map_cons, List.map_nil, e 0 (by omega), e 1 (by omega),
    e 2 (by omega), e 3 (by omega)]

/-- Dropping listed bytes keeps the canonical form. -/
theorem filter_wf {m : List Host.Cell} (h : Memory.wf m = true) (p : Host.Cell → Bool) : Memory.wf (m.filter p) = true := by
  induction m with
  | nil => rfl
  | cons x m ih =>
    obtain ⟨k, v⟩ := x
    obtain ⟨h1, h2, h3⟩ := (Memory.wf_cons k v m).mp h
    rw [List.filter_cons]
    split
    · exact (Memory.wf_cons k v _).mpr ⟨h1, fun y hy => h2 y (List.mem_of_mem_filter hy), ih h3⟩
    · exact ih h3

/-! ## The named operations over the state -/

@[simp] theorem State.storeWord_mem (s : State) (pa : Nat) (w : PWord) : (s.storeWord pa w).mem = memSetWord s.mem pa w.val := rfl

theorem State.storeWord_wf {s : State} (h : Memory.wf s.mem = true) (pa : Nat) (w : PWord) :
    Memory.wf (s.storeWord pa w).mem = true := memSetWord_wf h pa w.val

theorem State.storeWords_wf {s : State} (h : Memory.wf s.mem = true) (pa : Nat) (ws : List PWord) :
    Memory.wf (s.storeWords pa ws).mem = true := by
  induction ws generalizing s pa with
  | nil => exact h
  | cons w ws ih => exact ih (State.storeWord_wf h pa w) (pa + 4)

theorem State.zeroWords_wf {s : State} (h : Memory.wf s.mem = true) (pa n : Nat) : Memory.wf (s.zeroWords pa n).mem = true := by
  induction n generalizing s pa with
  | zero => exact h
  | succ n ih => exact ih (s := ({ s with mem := memSetWord s.mem pa 0 } : State).setMeta pa {}) (memSetWord_wf h pa 0) (pa + 4)

theorem State.clearRange_wf {s : State} (h : Memory.wf s.mem = true) (pa n : Nat) : Memory.wf (s.clearRange pa n).mem = true :=
  filter_wf h _

theorem State.setLsWord_wf {s : State} (h : Memory.wf s.mem = true) (e : ElemRef) (a : Nat) (w : PWord) :
    Memory.wf (s.setLsWord e a w).mem = true := State.storeWord_wf h _ w

theorem memGet_filter {m : List Host.Cell} (h : Memory.wf m = true) (p : Nat → Bool) (a : Nat) :
    memGet (m.filter (fun c => p c.1)) a = if p a then memGet m a else 0 := by
  induction m with
  | nil => simp [memGet]
  | cons x m ih =>
    obtain ⟨k, v⟩ := x
    obtain ⟨h1, h2, h3⟩ := (Memory.wf_cons k v m).mp h
    rw [List.filter_cons]
    by_cases hk : k = a
    · subst hk
      by_cases hp : p k
      · simp [hp, memGet]
      · simp only [hp, Bool.false_eq_true, if_false]
        rw [ih h3]
        simp [hp]
    · by_cases hp : p k
      · simp only [hp, if_true]
        rw [memGet, if_neg hk, ih h3, memGet, if_neg hk]
      · simp only [hp, Bool.false_eq_true, if_false]
        rw [ih h3, memGet, if_neg hk]

/-- A cleared range reads as zero, and nothing outside it changes. -/
theorem State.clearRange_get {s : State} (h : Memory.wf s.mem = true) (pa n a : Nat) :
    memGet (s.clearRange pa n).mem a = if a < pa ∨ pa + n ≤ a then memGet s.mem a else 0 := by
  have := memGet_filter h (fun k => decide (k < pa ∨ pa + n ≤ k)) a
  simpa [State.clearRange] using this

/-- A store of a word changes no byte outside the word. -/
theorem State.storeWord_get {s : State} (h : Memory.wf s.mem = true) (pa : Nat) (w : PWord) (a : Nat)
    (ha : a < pa ∨ pa + 4 ≤ a) : memGet (s.storeWord pa w).mem a = memGet s.mem a :=
  memGet_memSetWord_ne h pa w.val a ha

end Sys2Proof.Machine
end

