-- ==== Sys2Proof/Laws/Issue.lean ====
section
/-! SUPPORT. What the issue of a transition can do: refused at S1, barred from its return channel, faulted in its execution, completed at S4, or parked. -/

namespace Sys2Proof.Machine

variable {i : Instr} {f : Fields} {s t : State} {body : Opnds → State → Except FaultInfo (State × Done)}

/-- A transition that S1 refuses faults. -/
theorem issue_refused {fi : FaultInfo} (h : refusedAt s.atIssue s.cur.node i f = some fi) :
    issue i f s body = .next (faultsAt s i f fi) := by
  unfold issue runIssue
  simp only [h]

/-- A transition that writes a return channel outside its session faults at its S4. -/
theorem issue_barred {fi : FaultInfo} (h : refusedAt s.atIssue s.cur.node i f = none)
    (hg : gateFault s.atIssue s.cur.node i f = some fi) : issue i f s body = .next (failsAt s i f fi) := by
  unfold issue runIssue
  simp only [h, hg]

/-- S1 passes a transition. -/
def S1Passes (s : State) (i : Instr) (f : Fields) : Prop :=
  refusedAt s.atIssue s.cur.node i f = none ∧ gateFault s.atIssue s.cur.node i f = none

/-- A transition whose execution faults takes the fault at its S4. -/
theorem issue_error {fi : FaultInfo} (h : S1Passes s i f)
    (hb : body (issueOps s i f) (issueClaim s i f) = .error fi) : issue i f s body = .next (failsAt s i f fi) := by
  unfold issue runIssue
  simp only [h.1, h.2, hb]

/-- A transition that completes at its own S4. -/
theorem issue_now {r : Result} (h : S1Passes s i f)
    (hb : body (issueOps s i f) (issueClaim s i f) = .ok (t, .now r)) : issue i f s body = .next (finishesAt s i f t r) := by
  unfold issue runIssue
  simp only [h.1, h.2, hb]

/-- A transition whose S4 has an effect of its own. -/
theorem issue_acts {vs : List PWord} (h : S1Passes s i f)
    (hb : body (issueOps s i f) (issueClaim s i f) = .ok (t, .atS4 vs)) : issue i f s body = .next (actsAt s i f t vs) := by
  unfold issue runIssue
  simp only [h.1, h.2, hb]

/-- A transition that parks its node. -/
theorem issue_later {why : Flight} (h : S1Passes s i f)
    (hb : body (issueOps s i f) (issueClaim s i f) = .ok (t, .later why)) :
    issue i f s body = .next (parksAt s i f t why) := by
  unfold issue runIssue
  simp only [h.1, h.2, hb]

/-- An issue answers a next state, and is one of the six. -/
theorem issue_cases (h : issue i f s body = .next t) :
    (∃ fi, refusedAt s.atIssue s.cur.node i f = some fi ∧ t = faultsAt s i f fi) ∨
    (refusedAt s.atIssue s.cur.node i f = none ∧ ∃ fi, gateFault s.atIssue s.cur.node i f = some fi ∧ t = failsAt s i f fi) ∨
    (S1Passes s i f ∧
      ((∃ fi, body (issueOps s i f) (issueClaim s i f) = .error fi ∧ t = failsAt s i f fi) ∨
       (∃ u r, body (issueOps s i f) (issueClaim s i f) = .ok (u, .now r) ∧ t = finishesAt s i f u r) ∨
       (∃ u vs, body (issueOps s i f) (issueClaim s i f) = .ok (u, .atS4 vs) ∧ t = actsAt s i f u vs) ∨
       (∃ u why, body (issueOps s i f) (issueClaim s i f) = .ok (u, .later why) ∧ t = parksAt s i f u why))) := by
  unfold issue runIssue at h
  simp only [Host.Outcome.next.injEq] at h
  subst h
  cases hr : refusedAt s.atIssue s.cur.node i f with
  | some fi => exact .inl ⟨fi, rfl, rfl⟩
  | none =>
    cases hg : gateFault s.atIssue s.cur.node i f with
    | some fi => exact .inr (.inl ⟨rfl, fi, rfl, rfl⟩)
    | none =>
      refine .inr (.inr ⟨⟨hr, hg⟩, ?_⟩)
      cases hb : body (issueOps s i f) (issueClaim s i f) with
      | error fi => exact .inl ⟨fi, rfl, rfl⟩
      | ok x =>
        obtain ⟨u, d⟩ := x
        cases d with
        | now r => exact .inr (.inl ⟨u, r, rfl, rfl⟩)
        | atS4 vs => exact .inr (.inr (.inl ⟨u, vs, rfl, rfl⟩))
        | later why => exact .inr (.inr (.inr ⟨u, why, rfl, rfl⟩))

/-- A scalar operation on clean operands. -/
theorem scalarOp_clean {fmt : BitVec 3} {fn : Opnds → Word × Bool × BitVec 6} (h : S1Passes s i f)
    (hc : (issueOps s i f).psn = none) :
    scalarOp i f fmt s fn = .next (finishesAt s i f (issueClaim s i f) (cleanResult fmt (fn (issueOps s i f)))) :=
  issue_now h (by simp only [scalarResult, hc])

/-- A scalar operation on poisoned operands. -/
theorem scalarOp_poison {fmt : BitVec 3} {fn : Opnds → Word × Bool × BitVec 6} {w : Word}
    (h : S1Passes s i f) (hc : (issueOps s i f).psn = some w) :
    scalarOp i f fmt s fn = .next (finishesAt s i f (issueClaim s i f) (poisonResult w)) :=
  issue_now h (by simp only [scalarResult, hc])

/-- A scalar operation of a parking class on clean operands. -/
theorem longOp_clean {fmt : BitVec 3} {lat : Nat} {fn : Opnds → Word × Bool × BitVec 6}
    (h : S1Passes s i f) (hc : (issueOps s i f).psn = none) :
    longOp i f fmt lat s fn = .next (parksAt s i f (issueClaim s i f)
      (.long (s.cycle + 2 + lat) (cleanResult fmt (fn (issueOps s i f))))) :=
  issue_later h (by simp only [scalarResult, hc])

/-- A scalar operation of a parking class on poisoned operands. -/
theorem longOp_poison {fmt : BitVec 3} {lat : Nat} {fn : Opnds → Word × Bool × BitVec 6} {w : Word}
    (h : S1Passes s i f) (hc : (issueOps s i f).psn = some w) :
    longOp i f fmt lat s fn = .next (parksAt s i f (issueClaim s i f) (.long (s.cycle + 2 + lat) (poisonResult w))) :=
  issue_later h (by simp only [scalarResult, hc])

/-! ## What a note and a claim leave -/

@[simp] theorem atIssue_cur : s.atIssue.cur = s.cur := rfl
@[simp] theorem atIssue_cycle : s.atIssue.cycle = s.cycle := rfl
@[simp] theorem atIssue_mem : s.atIssue.mem = s.mem := rfl
@[simp] theorem atIssue_wmeta : s.atIssue.wmeta = s.wmeta := rfl
@[simp] theorem atIssue_elem : s.atIssue.elem = s.elem := rfl
@[simp] theorem atIssue_el (e : ElemRef) : s.atIssue.el e = s.el e := rfl
@[simp] theorem atIssue_nd : s.atIssue.nd s.cur.node =
    { s.nd s.cur.node with last := s.cur.slot, nextAt := s.cycle + 4, prefer := none } := by simp [State.atIssue]
theorem atIssue_nd_ne {n : NodeRef} (h : n ≠ s.cur.node) : s.atIssue.nd n = s.nd n := by
  simp [State.atIssue, State.nd_setNd_ne _ _ h]

variable {n : NodeRef}

@[simp] theorem claim_mem : (claim s n i f).mem = s.mem := rfl
@[simp] theorem claim_wmeta : (claim s n i f).wmeta = s.wmeta := rfl
@[simp] theorem claim_node : (claim s n i f).node = s.node := rfl
@[simp] theorem claim_nd (m : NodeRef) : (claim s n i f).nd m = s.nd m := rfl
@[simp] theorem claim_cycle : (claim s n i f).cycle = s.cycle := rfl
@[simp] theorem claim_cur : (claim s n i f).cur = s.cur := rfl
@[simp] theorem claim_reqs : (claim s n i f).reqs = s.reqs := rfl
@[simp] theorem claim_serial : (claim s n i f).serial = s.serial := rfl
theorem claim_el_ne {e : ElemRef} (h : e ≠ n.elemRef) : (claim s n i f).el e = s.el e := by
  simp [claim, State.el_setEl_ne _ _ h]

/-- A held element changes nothing else. -/
theorem holdElement_cases : (∃ a b, holdElement s i = s.setEl s.cur.node.elemRef { s.el s.cur.node.elemRef with
    holdUntil := a
    lastHold := b }) ∨ holdElement s i = s := by
  unfold holdElement
  split
  · exact .inl ⟨_, _, rfl⟩
  · exact .inr rfl

@[simp] theorem holdElement_mem : (holdElement s i).mem = s.mem := by
  rcases holdElement_cases (s := s) (i := i) with ⟨_, _, h⟩ | h <;> rw [h] <;> rfl
@[simp] theorem holdElement_wmeta : (holdElement s i).wmeta = s.wmeta := by
  rcases holdElement_cases (s := s) (i := i) with ⟨_, _, h⟩ | h <;> rw [h] <;> rfl
@[simp] theorem holdElement_node : (holdElement s i).node = s.node := by
  rcases holdElement_cases (s := s) (i := i) with ⟨_, _, h⟩ | h <;> rw [h] <;> rfl
@[simp] theorem holdElement_nd (m : NodeRef) : (holdElement s i).nd m = s.nd m := by
  rcases holdElement_cases (s := s) (i := i) with ⟨_, _, h⟩ | h <;> rw [h] <;> rfl
@[simp] theorem holdElement_cycle : (holdElement s i).cycle = s.cycle := by
  rcases holdElement_cases (s := s) (i := i) with ⟨_, _, h⟩ | h <;> rw [h] <;> rfl
@[simp] theorem holdElement_cur : (holdElement s i).cur = s.cur := by
  rcases holdElement_cases (s := s) (i := i) with ⟨_, _, h⟩ | h <;> rw [h] <;> rfl
@[simp] theorem holdElement_reqs : (holdElement s i).reqs = s.reqs := by
  rcases holdElement_cases (s := s) (i := i) with ⟨_, _, h⟩ | h <;> rw [h] <;> rfl
@[simp] theorem holdElement_serial : (holdElement s i).serial = s.serial := by
  rcases holdElement_cases (s := s) (i := i) with ⟨_, _, h⟩ | h <;> rw [h] <;> rfl
@[simp] theorem holdElement_agenda : (holdElement s i).agenda = s.agenda := by
  rcases holdElement_cases (s := s) (i := i) with ⟨_, _, h⟩ | h <;> rw [h] <;> rfl
theorem holdElement_el_ne {e : ElemRef} (h : e ≠ s.cur.node.elemRef) : (holdElement s i).el e = s.el e := by
  rcases holdElement_cases (s := s) (i := i) with ⟨_, _, h'⟩ | h' <;> rw [h']
  exact State.el_setEl_ne _ _ h

@[simp] theorem issueClaim_mem : (issueClaim s i f).mem = s.mem := by simp [issueClaim]
@[simp] theorem issueClaim_wmeta : (issueClaim s i f).wmeta = s.wmeta := by simp [issueClaim]
@[simp] theorem issueClaim_cycle : (issueClaim s i f).cycle = s.cycle := by simp [issueClaim]
@[simp] theorem issueClaim_reqs : (issueClaim s i f).reqs = s.reqs := by
  simp [issueClaim, State.atIssue]
theorem issueClaim_nd_ne {m : NodeRef} (h : m ≠ s.cur.node) : (issueClaim s i f).nd m = s.nd m := by
  simp [issueClaim, atIssue_nd_ne h]
theorem issueClaim_el_ne {e : ElemRef} (h : e ≠ s.cur.node.elemRef) : (issueClaim s i f).el e = s.el e := by
  rw [issueClaim, holdElement_el_ne (by simpa using h), claim_el_ne h]
  rfl

end Sys2Proof.Machine
end

