-- ==== Sys2Proof/Laws/Effects.lean ====
section
/-! SUPPORT. What the shared effects of a transition can change: the writes of S4, taking a fault, parking and completing. -/

namespace Sys2Proof.Machine

variable {s : State} {n m : NodeRef} {e : ElemRef} {i : Instr} {f : Fields} {kind fmt : BitVec 3} {v : PWord}

/-! ## The write of a result -/

/-- A scalar result changes its node, or a mailbox of its element, or nothing. -/
theorem writeDst_cases : (∃ nd, writeDst s n i f kind fmt v = s.setNd n nd) ∨
    (∃ mb, writeDst s n i f kind fmt v = s.setEl n.elemRef { s.el n.elemRef with mbox := mb }) ∨
    writeDst s n i f kind fmt v = s := by
  unfold writeDst
  split
  · split
    · exact .inl ⟨_, rfl⟩
    · split
      · exact .inl ⟨_, rfl⟩
      · split
        · exact .inr (.inl ⟨_, rfl⟩)
        · exact .inr (.inr rfl)
  · exact .inr (.inr rfl)

/-- A result that is not written frees its mailbox, or changes nothing. -/
theorem leaveDst_cases : (∃ mb, leaveDst s n i f = s.setEl n.elemRef { s.el n.elemRef with mbox := mb }) ∨
    leaveDst s n i f = s := by
  unfold leaveDst
  split
  · exact .inl ⟨_, rfl⟩
  · exact .inr rfl

/-- Lanes change the vector registers of their element, or nothing. -/
theorem writeLanes_cases (ls : List (Nat × PWord)) : (∃ vr, writeLanes s n ls = s.setEl n.elemRef { s.el n.elemRef with vreg := vr }) ∨
    writeLanes s n ls = s := by
  unfold writeLanes
  split
  · exact .inr rfl
  · exact .inl ⟨_, rfl⟩

@[simp] theorem writeDst_mem : (writeDst s n i f kind fmt v).mem = s.mem := by
  rcases writeDst_cases (s := s) (n := n) (i := i) (f := f) (kind := kind) (fmt := fmt) (v := v) with
    ⟨_, h⟩ | ⟨_, h⟩ | h <;> rw [h] <;> rfl
@[simp] theorem writeDst_wmeta : (writeDst s n i f kind fmt v).wmeta = s.wmeta := by
  rcases writeDst_cases (s := s) (n := n) (i := i) (f := f) (kind := kind) (fmt := fmt) (v := v) with
    ⟨_, h⟩ | ⟨_, h⟩ | h <;> rw [h] <;> rfl
@[simp] theorem leaveDst_mem : (leaveDst s n i f).mem = s.mem := by
  rcases leaveDst_cases (s := s) (n := n) (i := i) (f := f) with ⟨_, h⟩ | h <;> rw [h] <;> rfl
@[simp] theorem leaveDst_wmeta : (leaveDst s n i f).wmeta = s.wmeta := by
  rcases leaveDst_cases (s := s) (n := n) (i := i) (f := f) with ⟨_, h⟩ | h <;> rw [h] <;> rfl
@[simp] theorem leaveDst_nd : (leaveDst s n i f).nd m = s.nd m := by
  rcases leaveDst_cases (s := s) (n := n) (i := i) (f := f) with ⟨_, h⟩ | h <;> rw [h] <;> rfl
@[simp] theorem writeLanes_mem (ls : List (Nat × PWord)) : (writeLanes s n ls).mem = s.mem := by
  rcases writeLanes_cases (s := s) (n := n) ls with ⟨_, h⟩ | h <;> rw [h] <;> rfl
@[simp] theorem writeLanes_wmeta (ls : List (Nat × PWord)) : (writeLanes s n ls).wmeta = s.wmeta := by
  rcases writeLanes_cases (s := s) (n := n) ls with ⟨_, h⟩ | h <;> rw [h] <;> rfl
@[simp] theorem writeLanes_nd (ls : List (Nat × PWord)) : (writeLanes s n ls).nd m = s.nd m := by
  rcases writeLanes_cases (s := s) (n := n) ls with ⟨_, h⟩ | h <;> rw [h] <;> rfl

theorem writeDst_nd_ne (h : m ≠ n) : (writeDst s n i f kind fmt v).nd m = s.nd m := by
  rcases writeDst_cases (s := s) (n := n) (i := i) (f := f) (kind := kind) (fmt := fmt) (v := v) with
    ⟨_, h'⟩ | ⟨_, h'⟩ | h' <;> rw [h']
  · exact State.nd_setNd_ne _ _ h
  · rfl
theorem writeDst_el_ne (h : e ≠ n.elemRef) : (writeDst s n i f kind fmt v).el e = s.el e := by
  rcases writeDst_cases (s := s) (n := n) (i := i) (f := f) (kind := kind) (fmt := fmt) (v := v) with
    ⟨_, h'⟩ | ⟨_, h'⟩ | h' <;> rw [h']
  · rfl
  · exact State.el_setEl_ne _ _ h
theorem writeLanes_el_ne (h : e ≠ n.elemRef) (ls : List (Nat × PWord)) : (writeLanes s n ls).el e = s.el e := by
  rcases writeLanes_cases (s := s) (n := n) ls with ⟨_, h'⟩ | h' <;> rw [h']
  exact State.el_setEl_ne _ _ h

/-! ## Taking a fault, parking, requests -/

variable {slot : BitVec 4} {opc : BitVec 8} {fi : FaultInfo} {keep : Option InFlight}

@[simp] theorem sendTrap_mem {d : Option NodeRef} {p : BitVec 5} {w : List Word} : (s.sendTrap d (some n) p w).mem = s.mem := rfl
@[simp] theorem sendTrap_nd {d : Option NodeRef} {p : BitVec 5} {w : List Word} : (s.sendTrap d (some n) p w).nd m = s.nd m := rfl
/-- What the end of the sessions of a faulting callee leaves: everything but its output channels and its element. -/
structure SessionsKeep (n : NodeRef) (s t : State) : Prop where
  mem : t.mem = s.mem
  wmeta : t.wmeta = s.wmeta
  reqs : t.reqs = s.reqs
  cycle : t.cycle = s.cycle
  agenda : t.agenda = s.agenda
  nd_ne : ∀ m, m ≠ n → t.nd m = s.nd m
  el_ne : ∀ e, e ≠ n.elemRef → t.el e = s.el e
  st : (t.nd n).st = (s.nd n).st
  cause : (t.nd n).cause = (s.nd n).cause
  g : (t.nd n).g = (s.nd n).g

theorem SessionsKeep.refl (n : NodeRef) (s : State) : SessionsKeep n s s :=
  ⟨rfl, rfl, rfl, rfl, rfl, fun _ _ => rfl, fun _ _ => rfl, rfl, rfl, rfl⟩

theorem SessionsKeep.trans {s t u : State} (h : SessionsKeep n s t) (k : SessionsKeep n t u) : SessionsKeep n s u :=
  ⟨k.mem.trans h.mem, k.wmeta.trans h.wmeta, k.reqs.trans h.reqs, k.cycle.trans h.cycle, k.agenda.trans h.agenda,
   fun m hm => (k.nd_ne m hm).trans (h.nd_ne m hm), fun e he => (k.el_ne e he).trans (h.el_ne e he), k.st.trans h.st,
   k.cause.trans h.cause, k.g.trans h.g⟩

theorem SessionsKeep.setEl (s : State) (v : Elem) : SessionsKeep n s (s.setEl n.elemRef v) :=
  ⟨rfl, rfl, rfl, rfl, rfl, fun _ _ => rfl, fun _ he => State.el_setEl_ne _ _ he, rfl, rfl, rfl⟩

theorem SessionsKeep.setCo (s : State) (k : BitVec 2) (q : List Token) : SessionsKeep n s (s.updNd n (fun nd => nd.setCo k q)) := by
  refine ⟨rfl, rfl, rfl, rfl, rfl, fun _ hm => State.nd_setNd_ne _ _ hm, fun _ _ => rfl, ?_, ?_, ?_⟩ <;> simp [Node.setCo]

theorem sessionFaults_keeps (s : State) (c : BitVec 8) (k : Nat) : SessionsKeep n s (sessionFaults s n c k) := by
  unfold sessionFaults
  dsimp only
  split
  · split
    · exact (SessionsKeep.setCo s _ _).trans (SessionsKeep.setEl _ _)
    · exact SessionsKeep.setEl s _
  · exact SessionsKeep.refl n s

theorem gateCalleeFaults_keeps (s : State) (c : BitVec 8) : SessionsKeep n s (gateCalleeFaults s n c) := by
  have h : ∀ (l : List Nat) (s : State), SessionsKeep n s (l.foldl (fun s i => sessionFaults s n c i) s) := by
    intro l
    induction l with
    | nil => exact SessionsKeep.refl n
    | cons k l ih => exact fun s => (sessionFaults_keeps s c k).trans (ih _)
  exact h _ s

/-- A fault is taken on the state in which the node is FAULTED, and the rest is left but for the trap on its way. -/
theorem takeFault_eq : ∃ tr w, takeFault s n slot opc fi keep =
    ({ gateCalleeFaults (s.setNd n { s.nd n with st := .faulted, cause := fi.cause, trec := w, flight := none, faulting := keep }) n fi.cause with
      serial := (gateCalleeFaults (s.setNd n { s.nd n with st := .faulted, cause := fi.cause, trec := w, flight := none, faulting := keep }) n fi.cause).serial + 1
      traps := tr } : State) := ⟨_, _, rfl⟩

@[simp] theorem takeFault_mem : (takeFault s n slot opc fi keep).mem = s.mem := by
  obtain ⟨_, _, h⟩ := takeFault_eq (s := s) (n := n) (slot := slot) (opc := opc) (fi := fi) (keep := keep)
  rw [h]
  exact (gateCalleeFaults_keeps _ _).mem
@[simp] theorem takeFault_wmeta : (takeFault s n slot opc fi keep).wmeta = s.wmeta := by
  obtain ⟨_, _, h⟩ := takeFault_eq (s := s) (n := n) (slot := slot) (opc := opc) (fi := fi) (keep := keep)
  rw [h]
  exact (gateCalleeFaults_keeps _ _).wmeta
@[simp] theorem takeFault_reqs : (takeFault s n slot opc fi keep).reqs = s.reqs := by
  obtain ⟨_, _, h⟩ := takeFault_eq (s := s) (n := n) (slot := slot) (opc := opc) (fi := fi) (keep := keep)
  rw [h]
  exact (gateCalleeFaults_keeps _ _).reqs
@[simp] theorem takeFault_cycle : (takeFault s n slot opc fi keep).cycle = s.cycle := by
  obtain ⟨_, _, h⟩ := takeFault_eq (s := s) (n := n) (slot := slot) (opc := opc) (fi := fi) (keep := keep)
  rw [h]
  exact (gateCalleeFaults_keeps _ _).cycle
@[simp] theorem takeFault_agenda : (takeFault s n slot opc fi keep).agenda = s.agenda := by
  obtain ⟨_, _, h⟩ := takeFault_eq (s := s) (n := n) (slot := slot) (opc := opc) (fi := fi) (keep := keep)
  rw [h]
  exact (gateCalleeFaults_keeps _ _).agenda

/-- The node that takes a fault enters FAULTED with the fault's cause (R42). -/
theorem takeFault_nd : ((takeFault s n slot opc fi keep).nd n).st = .faulted ∧ ((takeFault s n slot opc fi keep).nd n).cause = fi.cause ∧
    ((takeFault s n slot opc fi keep).nd n).g = (s.nd n).g := by
  obtain ⟨_, w, h⟩ := takeFault_eq (s := s) (n := n) (slot := slot) (opc := opc) (fi := fi) (keep := keep)
  have k := gateCalleeFaults_keeps (n := n) (s.setNd n { s.nd n with st := .faulted, cause := fi.cause, trec := w, flight := none, faulting := keep }) fi.cause
  rw [h]
  exact ⟨k.st.trans (by simp), k.cause.trans (by simp), k.g.trans (by simp)⟩

theorem takeFault_nd_ne (h : m ≠ n) : (takeFault s n slot opc fi keep).nd m = s.nd m := by
  obtain ⟨_, _, k⟩ := takeFault_eq (s := s) (n := n) (slot := slot) (opc := opc) (fi := fi) (keep := keep)
  rw [k]
  exact ((gateCalleeFaults_keeps _ _).nd_ne m h).trans (State.nd_setNd_ne s _ h)
theorem takeFault_el_ne (h : e ≠ n.elemRef) : (takeFault s n slot opc fi keep).el e = s.el e := by
  obtain ⟨_, _, k⟩ := takeFault_eq (s := s) (n := n) (slot := slot) (opc := opc) (fi := fi) (keep := keep)
  rw [k]
  exact (gateCalleeFaults_keeps _ _).el_ne e h

theorem request_frame {who : Requester} {stamp : Stamp} {va : BitVec 56} {op : Op} {stage : Stage} {fwd : List (Option PWord)}
    {after : List Nat} {tag : Word} :
    (s.request who stamp va op stage fwd after tag).1 = s.serial ∧
    (s.request who stamp va op stage fwd after tag).2.mem = s.mem ∧
    (s.request who stamp va op stage fwd after tag).2.nd n = s.nd n ∧
    (s.request who stamp va op stage fwd after tag).2.el e = s.el e ∧
    (s.request who stamp va op stage fwd after tag).2.reqs.length = s.reqs.length + 1 := by
  simp [State.request, State.nd, State.el]

variable {t : State} {why : Flight} {r : Result}

@[simp] theorem faultsAt_mem : (faultsAt s i f fi).mem = s.mem := by simp [faultsAt]
@[simp] theorem failsAt_mem : (failsAt s i f fi).mem = s.mem := by simp [failsAt, pendsAt]
@[simp] theorem finishesAt_mem : (finishesAt s i f t r).mem = t.mem := rfl
@[simp] theorem actsAt_mem {vs : List PWord} : (actsAt s i f t vs).mem = t.mem := rfl
@[simp] theorem parksAt_mem : (parksAt s i f t why).mem = t.mem := rfl
@[simp] theorem commit_mem {qa qb : Nat} : (commit s n i f qa qb r).mem = s.mem := by
  unfold commit
  cases r.dst <;> cases r.dst2 <;> simp only [State.updNd, State.setNd_mem, writeLanes_mem, writeDst_mem, leaveDst_mem] <;>
    split <;> simp

/-- The S4 of a transition changes memory no more than taking a fault does. -/
@[simp] theorem finish_mem : (finish s n r).mem = s.mem := by
  unfold finish
  split
  · rfl
  · split
    · rfl
    · dsimp only
      split <;> simp

@[simp] theorem complete_mem : (complete s n r).mem = s.mem := rfl

end Sys2Proof.Machine
end

