-- ==== Sys2Proof/Laws/PerInstr.lean ====
section
/-! SUPPORT. Facts about every instruction as syntax, one lemma per constructor. -/

namespace Sys2Proof.Laws.RowOfOpcode

/-- The row of a legal node instruction's opcode, given its fields, makes the instruction again as its word spells it
(R80, R89). -/
def Statement (i : Instr) : Prop :=
  ∀ opc f, i.opcode = some opc → i.fields = some f → i.wf = true → instrOf opc f = some i.spelled

/-- IMM6 of a legal node instruction is legal in its role (R87). -/
theorem immOk_of_wf {i : Instr} {f : Fields} (h : i.fields = some f) (hw : i.wf = true) : immOk i f = true := by
  rw [Instr.wf, h] at hw
  simp only [Bool.and_eq_true] at hw
  exact hw.1.1.2

theorem nop (f : Fields) : Statement (.nop f) := by
  intro _ _ h1 h2 _; cases h1; cases h2; rfl

theorem mov (f : Fields) : Statement (.mov f) := by
  intro _ _ h1 h2 _; cases h1; cases h2; rfl

theorem li (f : Fields) : Statement (.li f) := by
  intro _ _ h1 h2 _; cases h1; cases h2; rfl

theorem lui (f : Fields) : Statement (.lui f) := by
  intro _ _ h1 h2 _; cases h1; cases h2; rfl

theorem add (f : Fields) : Statement (.add f) := by
  intro _ _ h1 h2 _; cases h1; cases h2; rfl

theorem sub (f : Fields) : Statement (.sub f) := by
  intro _ _ h1 h2 _; cases h1; cases h2; rfl

theorem adds (f : Fields) : Statement (.adds f) := by
  intro _ _ h1 h2 _; cases h1; cases h2; rfl

theorem subs (f : Fields) : Statement (.subs f) := by
  intro _ _ h1 h2 _; cases h1; cases h2; rfl

theorem mul (f : Fields) : Statement (.mul f) := by
  intro _ _ h1 h2 _; cases h1; cases h2; rfl

theorem mulhI32 (f : Fields) : Statement (.mulhI32 f) := by
  intro _ _ h1 h2 _; cases h1; cases h2; rfl

theorem mulhN32 (f : Fields) : Statement (.mulhN32 f) := by
  intro _ _ h1 h2 _; cases h1; cases h2; rfl

theorem mac (f : Fields) : Statement (.mac f) := by
  intro _ _ h1 h2 _; cases h1; cases h2; rfl

theorem divI32 (f : Fields) : Statement (.divI32 f) := by
  intro _ _ h1 h2 _; cases h1; cases h2; rfl

theorem divN32 (f : Fields) : Statement (.divN32 f) := by
  intro _ _ h1 h2 _; cases h1; cases h2; rfl

theorem modI32 (f : Fields) : Statement (.modI32 f) := by
  intro _ _ h1 h2 _; cases h1; cases h2; rfl

theorem modN32 (f : Fields) : Statement (.modN32 f) := by
  intro _ _ h1 h2 _; cases h1; cases h2; rfl

theorem and (f : Fields) : Statement (.and f) := by
  intro _ _ h1 h2 _; cases h1; cases h2; rfl

theorem or (f : Fields) : Statement (.or f) := by
  intro _ _ h1 h2 _; cases h1; cases h2; rfl

theorem xor (f : Fields) : Statement (.xor f) := by
  intro _ _ h1 h2 _; cases h1; cases h2; rfl

theorem andn (f : Fields) : Statement (.andn f) := by
  intro _ _ h1 h2 _; cases h1; cases h2; rfl

theorem shl (f : Fields) : Statement (.shl f) := by
  intro _ _ h1 h2 _; cases h1; cases h2; rfl

theorem shr (f : Fields) : Statement (.shr f) := by
  intro _ _ h1 h2 _; cases h1; cases h2; rfl

theorem sar (f : Fields) : Statement (.sar f) := by
  intro _ _ h1 h2 _; cases h1; cases h2; rfl

theorem rol (f : Fields) : Statement (.rol f) := by
  intro _ _ h1 h2 _; cases h1; cases h2; rfl

theorem clz (f : Fields) : Statement (.clz f) := by
  intro _ _ h1 h2 _; cases h1; cases h2; rfl

theorem popc (f : Fields) : Statement (.popc f) := by
  intro _ _ h1 h2 _; cases h1; cases h2; rfl

theorem brev (f : Fields) : Statement (.brev f) := by
  intro _ _ h1 h2 _; cases h1; cases h2; rfl

theorem sext (f : Fields) : Statement (.sext f) := by
  intro _ _ h1 h2 _; cases h1; cases h2; rfl

theorem zext (f : Fields) : Statement (.zext f) := by
  intro _ _ h1 h2 _; cases h1; cases h2; rfl

theorem bfx (f : Fields) : Statement (.bfx f) := by
  intro _ _ h1 h2 _; cases h1; cases h2; rfl

theorem bfi (f : Fields) : Statement (.bfi f) := by
  intro _ _ h1 h2 _; cases h1; cases h2; rfl

theorem sel (f : Fields) : Statement (.sel f) := by
  intro _ _ h1 h2 _; cases h1; cases h2; rfl

theorem cmpEq (f : Fields) : Statement (.cmpEq f) := by
  intro _ _ h1 h2 _; cases h1; cases h2; rfl

theorem cmpNe (f : Fields) : Statement (.cmpNe f) := by
  intro _ _ h1 h2 _; cases h1; cases h2; rfl

theorem cmpLtI32 (f : Fields) : Statement (.cmpLtI32 f) := by
  intro _ _ h1 h2 _; cases h1; cases h2; rfl

theorem cmpLeI32 (f : Fields) : Statement (.cmpLeI32 f) := by
  intro _ _ h1 h2 _; cases h1; cases h2; rfl

theorem cmpLtN32 (f : Fields) : Statement (.cmpLtN32 f) := by
  intro _ _ h1 h2 _; cases h1; cases h2; rfl

theorem cmpLeN32 (f : Fields) : Statement (.cmpLeN32 f) := by
  intro _ _ h1 h2 _; cases h1; cases h2; rfl

theorem minI32 (f : Fields) : Statement (.minI32 f) := by
  intro _ _ h1 h2 _; cases h1; cases h2; rfl

theorem maxI32 (f : Fields) : Statement (.maxI32 f) := by
  intro _ _ h1 h2 _; cases h1; cases h2; rfl

theorem minN32 (f : Fields) : Statement (.minN32 f) := by
  intro _ _ h1 h2 _; cases h1; cases h2; rfl

theorem maxN32 (f : Fields) : Statement (.maxN32 f) := by
  intro _ _ h1 h2 _; cases h1; cases h2; rfl

theorem abs (f : Fields) : Statement (.abs f) := by
  intro _ _ h1 h2 _; cases h1; cases h2; rfl

theorem neg (f : Fields) : Statement (.neg f) := by
  intro _ _ h1 h2 _; cases h1; cases h2; rfl

theorem pset (f : Fields) : Statement (.pset f) := by
  intro _ _ h1 h2 _; cases h1; cases h2; rfl

theorem pget (f : Fields) : Statement (.pget f) := by
  intro _ _ h1 h2 _; cases h1; cases h2; rfl

theorem tst (f : Fields) : Statement (.tst f) := by
  intro _ _ h1 h2 _; cases h1; cases h2; rfl

theorem lea (f : Fields) : Statement (.lea f) := by
  intro _ _ h1 h2 _; cases h1; cases h2; rfl

theorem fadd (f : Fields) : Statement (.fadd f) := by
  intro _ _ h1 h2 _; cases h1; cases h2; rfl

theorem fsub (f : Fields) : Statement (.fsub f) := by
  intro _ _ h1 h2 _; cases h1; cases h2; rfl

theorem fmul (f : Fields) : Statement (.fmul f) := by
  intro _ _ h1 h2 _; cases h1; cases h2; rfl

theorem fma (f : Fields) : Statement (.fma f) := by
  intro _ _ h1 h2 _; cases h1; cases h2; rfl

theorem fmin (f : Fields) : Statement (.fmin f) := by
  intro _ _ h1 h2 _; cases h1; cases h2; rfl

theorem fmax (f : Fields) : Statement (.fmax f) := by
  intro _ _ h1 h2 _; cases h1; cases h2; rfl

theorem fcmpEq (f : Fields) : Statement (.fcmpEq f) := by
  intro _ _ h1 h2 _; cases h1; cases h2; rfl

theorem fcmpLt (f : Fields) : Statement (.fcmpLt f) := by
  intro _ _ h1 h2 _; cases h1; cases h2; rfl

theorem fcmpLe (f : Fields) : Statement (.fcmpLe f) := by
  intro _ _ h1 h2 _; cases h1; cases h2; rfl

theorem fcmpUn (f : Fields) : Statement (.fcmpUn f) := by
  intro _ _ h1 h2 _; cases h1; cases h2; rfl

theorem fabs (f : Fields) : Statement (.fabs f) := by
  intro _ _ h1 h2 _; cases h1; cases h2; rfl

theorem fneg (f : Fields) : Statement (.fneg f) := by
  intro _ _ h1 h2 _; cases h1; cases h2; rfl

theorem frcp (f : Fields) : Statement (.frcp f) := by
  intro _ _ h1 h2 _; cases h1; cases h2; rfl

theorem frsq (f : Fields) : Statement (.frsq f) := by
  intro _ _ h1 h2 _; cases h1; cases h2; rfl

theorem fexp2 (f : Fields) : Statement (.fexp2 f) := by
  intro _ _ h1 h2 _; cases h1; cases h2; rfl

theorem flog2 (f : Fields) : Statement (.flog2 f) := by
  intro _ _ h1 h2 _; cases h1; cases h2; rfl

theorem cvtF (f : Fields) : Statement (.cvtF f) := by
  intro _ _ h1 h2 _; cases h1; cases h2; rfl

theorem cvtIf (f : Fields) : Statement (.cvtIf f) := by
  intro _ _ h1 h2 _; cases h1; cases h2; rfl

theorem cvtFi (f : Fields) : Statement (.cvtFi f) := by
  intro _ _ h1 h2 _; cases h1; cases h2; rfl

theorem cvtNf (f : Fields) : Statement (.cvtNf f) := by
  intro _ _ h1 h2 _; cases h1; cases h2; rfl

theorem cvtFn (f : Fields) : Statement (.cvtFn f) := by
  intro _ _ h1 h2 _; cases h1; cases h2; rfl

theorem pack2 (f : Fields) : Statement (.pack2 f) := by
  intro _ _ h1 h2 _; cases h1; cases h2; rfl

theorem unpk (f : Fields) : Statement (.unpk f) := by
  intro _ _ h1 h2 _; cases h1; cases h2; rfl

theorem scale (f : Fields) : Statement (.scale f) := by
  intro _ _ h1 h2 _; cases h1; cases h2; rfl

theorem ldW (f : Fields) : Statement (.ldW f) := by
  intro _ _ h1 h2 _; cases h1; cases h2; rfl

theorem ldH (f : Fields) : Statement (.ldH f) := by
  intro _ _ h1 h2 _; cases h1; cases h2; rfl

theorem ldHs (f : Fields) : Statement (.ldHs f) := by
  intro _ _ h1 h2 _; cases h1; cases h2; rfl

theorem ldB (f : Fields) : Statement (.ldB f) := by
  intro _ _ h1 h2 _; cases h1; cases h2; rfl

theorem ldBs (f : Fields) : Statement (.ldBs f) := by
  intro _ _ h1 h2 _; cases h1; cases h2; rfl

theorem stW (f : Fields) : Statement (.stW f) := by
  intro _ _ h1 h2 _; cases h1; cases h2; rfl

theorem stH (f : Fields) : Statement (.stH f) := by
  intro _ _ h1 h2 _; cases h1; cases h2; rfl

theorem stB (f : Fields) : Statement (.stB f) := by
  intro _ _ h1 h2 _; cases h1; cases h2; rfl

theorem ldc (f : Fields) : Statement (.ldc f) := by
  intro _ _ h1 h2 _; cases h1; cases h2; rfl

theorem ldP (f : Fields) : Statement (.ldP f) := by
  intro _ _ h1 h2 _; cases h1; cases h2; rfl

theorem stP (f : Fields) : Statement (.stP f) := by
  intro _ _ h1 h2 _; cases h1; cases h2; rfl

theorem ldxW (f : Fields) : Statement (.ldxW f) := by
  intro _ _ h1 h2 _; cases h1; cases h2; rfl

theorem stxW (f : Fields) : Statement (.stxW f) := by
  intro _ _ h1 h2 _; cases h1; cases h2; rfl

theorem lcas (f : Fields) : Statement (.lcas f) := by
  intro _ _ h1 h2 _; cases h1; cases h2; rfl

theorem ladd (f : Fields) : Statement (.ladd f) := by
  intro _ _ h1 h2 _; cases h1; cases h2; rfl

theorem emit (f : Fields) : Statement (.emit f) := by
  intro _ _ h1 h2 _; cases h1; cases h2; rfl

theorem stop (f : Fields) : Statement (.stop f) := by
  intro _ _ h1 h2 _; cases h1; cases h2; rfl

theorem fwd (f : Fields) : Statement (.fwd f) := by
  intro _ _ h1 h2 _; cases h1; cases h2; rfl

theorem drop (f : Fields) : Statement (.drop f) := by
  intro _ _ h1 h2 _; cases h1; cases h2; rfl

theorem tagf (f : Fields) : Statement (.tagf f) := by
  intro _ _ h1 h2 _; cases h1; cases h2; rfl

theorem sclo (f : Fields) : Statement (.sclo f) := by
  intro _ _ h1 h2 _; cases h1; cases h2; rfl

theorem head (f : Fields) : Statement (.head f) := by
  intro _ _ h1 h2 _; cases h1; cases h2; rfl

theorem idle (f : Fields) : Statement (.idle f) := by
  intro _ _ h1 h2 _; cases h1; cases h2; rfl

theorem vadd (f : Fields) : Statement (.vadd f) := by
  intro _ _ h1 h2 _; cases h1; cases h2; rfl

theorem vsub (f : Fields) : Statement (.vsub f) := by
  intro _ _ h1 h2 _; cases h1; cases h2; rfl

theorem vmul (f : Fields) : Statement (.vmul f) := by
  intro _ _ h1 h2 _; cases h1; cases h2; rfl

theorem vfma (f : Fields) : Statement (.vfma f) := by
  intro _ _ h1 h2 _; cases h1; cases h2; rfl

theorem vmin (f : Fields) : Statement (.vmin f) := by
  intro _ _ h1 h2 _; cases h1; cases h2; rfl

theorem vmax (f : Fields) : Statement (.vmax f) := by
  intro _ _ h1 h2 _; cases h1; cases h2; rfl

theorem vcmp (f : Fields) : Statement (.vcmp f) := by
  intro _ _ h1 h2 _; cases h1; cases h2; rfl

theorem vsel (f : Fields) : Statement (.vsel f) := by
  intro _ _ h1 h2 _; cases h1; cases h2; rfl

theorem vand (f : Fields) : Statement (.vand f) := by
  intro _ _ h1 h2 _; cases h1; cases h2; rfl

theorem vor (f : Fields) : Statement (.vor f) := by
  intro _ _ h1 h2 _; cases h1; cases h2; rfl

theorem vxor (f : Fields) : Statement (.vxor f) := by
  intro _ _ h1 h2 _; cases h1; cases h2; rfl

theorem vshl (f : Fields) : Statement (.vshl f) := by
  intro _ _ h1 h2 _; cases h1; cases h2; rfl

theorem vshr (f : Fields) : Statement (.vshr f) := by
  intro _ _ h1 h2 _; cases h1; cases h2; rfl

theorem vcvt (f : Fields) : Statement (.vcvt f) := by
  intro _ _ h1 h2 _; cases h1; cases h2; rfl

theorem vdot (f : Fields) : Statement (.vdot f) := by
  intro _ _ h1 h2 _; cases h1; cases h2; rfl

theorem vscale (f : Fields) : Statement (.vscale f) := by
  intro _ _ h1 h2 _; cases h1; cases h2; rfl

theorem vld (f : Fields) : Statement (.vld f) := by
  intro _ _ h1 h2 _; cases h1; cases h2; rfl

theorem vst (f : Fields) : Statement (.vst f) := by
  intro _ _ h1 h2 _; cases h1; cases h2; rfl

theorem vldx (f : Fields) : Statement (.vldx f) := by
  intro _ _ h1 h2 _; cases h1; cases h2; rfl

theorem vstx (f : Fields) : Statement (.vstx f) := by
  intro _ _ h1 h2 _; cases h1; cases h2; rfl

theorem vbcast (f : Fields) : Statement (.vbcast f) := by
  intro _ _ h1 h2 _; cases h1; cases h2; rfl

theorem vext (f : Fields) : Statement (.vext f) := by
  intro _ _ h1 h2 _; cases h1; cases h2; rfl

theorem vins (f : Fields) : Statement (.vins f) := by
  intro _ _ h1 h2 _; cases h1; cases h2; rfl

theorem vperm (f : Fields) : Statement (.vperm f) := by
  intro _ _ h1 h2 _; cases h1; cases h2; rfl

theorem vredAdd (f : Fields) : Statement (.vredAdd f) := by
  intro _ _ h1 h2 _; cases h1; cases h2; rfl

theorem vredMax (f : Fields) : Statement (.vredMax f) := by
  intro _ _ h1 h2 _; cases h1; cases h2; rfl

theorem vredMin (f : Fields) : Statement (.vredMin f) := by
  intro _ _ h1 h2 _; cases h1; cases h2; rfl

theorem vscan (f : Fields) : Statement (.vscan f) := by
  intro _ _ h1 h2 _; cases h1; cases h2; rfl

theorem vpack (f : Fields) : Statement (.vpack f) := by
  intro _ _ h1 h2 _; cases h1; cases h2; rfl

theorem vunpk (f : Fields) : Statement (.vunpk f) := by
  intro _ _ h1 h2 _; cases h1; cases h2; rfl

theorem vout (f : Fields) : Statement (.vout f) := by
  intro _ _ h1 h2 _; cases h1; cases h2; rfl

theorem vin (f : Fields) : Statement (.vin f) := by
  intro _ _ h1 h2 _; cases h1; cases h2; rfl

theorem mcfg (f : Fields) : Statement (.mcfg f) := by
  intro _ _ h1 h2 _; cases h1; cases h2; rfl

theorem mrun (f : Fields) : Statement (.mrun f) := by
  intro _ _ h1 h2 _; cases h1; cases h2; rfl

theorem mdrain (f : Fields) : Statement (.mdrain f) := by
  intro _ _ h1 h2 _; cases h1; cases h2; rfl

theorem mclr (f : Fields) : Statement (.mclr f) := by
  intro _ _ h1 h2 _; cases h1; cases h2; rfl

theorem mldk (f : Fields) : Statement (.mldk f) := by
  intro _ _ h1 h2 _; cases h1; cases h2; rfl

theorem mstk (f : Fields) : Statement (.mstk f) := by
  intro _ _ h1 h2 _; cases h1; cases h2; rfl

theorem mshape (f : Fields) : Statement (.mshape f) := by
  intro _ _ h1 h2 _; cases h1; cases h2; rfl

theorem mpass (f : Fields) : Statement (.mpass f) := by
  intro _ _ h1 h2 _; cases h1; cases h2; rfl

theorem mstat (f : Fields) : Statement (.mstat f) := by
  intro _ _ h1 h2 _; cases h1; cases h2; rfl

theorem mfeed (f : Fields) : Statement (.mfeed f) := by
  intro _ _ h1 h2 _; cases h1; cases h2; rfl

theorem mscl (f : Fields) : Statement (.mscl f) := by
  intro _ _ h1 h2 _; cases h1; cases h2; rfl

theorem mfin (f : Fields) : Statement (.mfin f) := by
  intro _ _ h1 h2 hw; cases h1; cases h2
  have hi := immOk_of_wf rfl hw
  have e : ∀ x : BitVec 6, (decide (x = 0)) = true → x.getLsbD 0 = false := by decide
  have d := e f.imm hi
  show some (if f.imm.getLsbD 0 = true then _ else _) = _
  rw [d]; rfl

theorem mfinAbort (f : Fields) : Statement (.mfinAbort f) := by
  intro _ _ h1 h2 hw; cases h1; cases h2
  have hi := immOk_of_wf rfl hw
  have e : ∀ x : BitVec 6, (decide (x.toNat = 1)) = true → x.getLsbD 0 = true := by decide
  have d := e f.imm hi
  show some (if f.imm.getLsbD 0 = true then _ else _) = _
  rw [d]; rfl

theorem rncv (f : Fields) : Statement (.rncv f) := by
  intro _ _ h1 h2 _; cases h1; cases h2; rfl

theorem rnct (f : Fields) : Statement (.rnct f) := by
  intro _ _ h1 h2 _; cases h1; cases h2; rfl

theorem rnadd (f : Fields) : Statement (.rnadd f) := by
  intro _ _ h1 h2 _; cases h1; cases h2; rfl

theorem rnsub (f : Fields) : Statement (.rnsub f) := by
  intro _ _ h1 h2 _; cases h1; cases h2; rfl

theorem rnmul (f : Fields) : Statement (.rnmul f) := by
  intro _ _ h1 h2 _; cases h1; cases h2; rfl

theorem rnmac (f : Fields) : Statement (.rnmac f) := by
  intro _ _ h1 h2 _; cases h1; cases h2; rfl

theorem rnneg (f : Fields) : Statement (.rnneg f) := by
  intro _ _ h1 h2 _; cases h1; cases h2; rfl

theorem vrncv (f : Fields) : Statement (.vrncv f) := by
  intro _ _ h1 h2 _; cases h1; cases h2; rfl

theorem vrnct (f : Fields) : Statement (.vrnct f) := by
  intro _ _ h1 h2 _; cases h1; cases h2; rfl

theorem vrnmac (f : Fields) : Statement (.vrnmac f) := by
  intro _ _ h1 h2 _; cases h1; cases h2; rfl

theorem vrndot (f : Fields) : Statement (.vrndot f) := by
  intro _ _ h1 h2 _; cases h1; cases h2; rfl

theorem gld (f : Fields) : Statement (.gld f) := by
  intro _ _ h1 h2 _; cases h1; cases h2; rfl

theorem gst (f : Fields) : Statement (.gst f) := by
  intro _ _ h1 h2 _; cases h1; cases h2; rfl

theorem gldA (f : Fields) : Statement (.gldA f) := by
  intro _ _ h1 h2 _; cases h1; cases h2; rfl

theorem gstL (f : Fields) : Statement (.gstL f) := by
  intro _ _ h1 h2 _; cases h1; cases h2; rfl

theorem pld (f : Fields) : Statement (.pld f) := by
  intro _ _ h1 h2 _; cases h1; cases h2; rfl

theorem pst (f : Fields) : Statement (.pst f) := by
  intro _ _ h1 h2 _; cases h1; cases h2; rfl

theorem pclr (f : Fields) : Statement (.pclr f) := by
  intro _ _ h1 h2 _; cases h1; cases h2; rfl

theorem pprb (f : Fields) : Statement (.pprb f) := by
  intro _ _ h1 h2 _; cases h1; cases h2; rfl

theorem fence (f : Fields) : Statement (.fence f) := by
  intro _ _ h1 h2 _; cases h1; cases h2; rfl

theorem aupd (f : Fields) : Statement (.aupd f) := by
  intro _ _ h1 h2 _; cases h1; cases h2; rfl

theorem afet (f : Fields) : Statement (.afet f) := by
  intro _ _ h1 h2 _; cases h1; cases h2; rfl

theorem acas (f : Fields) : Statement (.acas f) := by
  intro _ _ h1 h2 _; cases h1; cases h2; rfl

theorem aapl (f : Fields) : Statement (.aapl f) := by
  intro _ _ h1 h2 _; cases h1; cases h2; rfl

theorem gldv (f : Fields) : Statement (.gldv f) := by
  intro _ _ h1 h2 hw; cases h1; cases h2
  have hi := immOk_of_wf rfl hw
  have e : ∀ x : BitVec 6, (decide (x = 0)) = true → x.getLsbD 0 = false := by decide
  have d := e f.imm hi
  show some (if f.imm.getLsbD 0 = true then _ else _) = _
  rw [d]; rfl

theorem gldvP (f : Fields) : Statement (.gldvP f) := by
  intro _ _ h1 h2 hw; cases h1; cases h2
  have hi := immOk_of_wf rfl hw
  have e : ∀ x : BitVec 6, (decide (x.toNat = 1)) = true → x.getLsbD 0 = true := by decide
  have d := e f.imm hi
  show some (if f.imm.getLsbD 0 = true then _ else _) = _
  rw [d]; rfl

theorem gstv (f : Fields) : Statement (.gstv f) := by
  intro _ _ h1 h2 hw; cases h1; cases h2
  have hi := immOk_of_wf rfl hw
  have e : ∀ x : BitVec 6, (decide (x = 0)) = true → x.getLsbD 0 = false := by decide
  have d := e f.imm hi
  show some (if f.imm.getLsbD 0 = true then _ else _) = _
  rw [d]; rfl

theorem gstvP (f : Fields) : Statement (.gstvP f) := by
  intro _ _ h1 h2 hw; cases h1; cases h2
  have hi := immOk_of_wf rfl hw
  have e : ∀ x : BitVec 6, (decide (x.toNat = 1)) = true → x.getLsbD 0 = true := by decide
  have d := e f.imm hi
  show some (if f.imm.getLsbD 0 = true then _ else _) = _
  rw [d]; rfl

theorem xrearm (f : Fields) : Statement (.xrearm f) := by
  intro _ _ h1 h2 _; cases h1; cases h2; rfl

theorem strm (f : Fields) : Statement (.strm f) := by
  intro _ _ h1 h2 _; cases h1; cases h2; rfl

theorem strmq (f : Fields) : Statement (.strmq f) := by
  intro _ _ h1 h2 hw; cases h1; cases h2
  have hi := immOk_of_wf rfl hw
  have e : ∀ x : BitVec 6, (decide (x = 0)) = true → x.getLsbD 0 = false := by decide
  have d := e f.imm hi
  show some (if f.imm.getLsbD 0 = true then _ else _) = _
  rw [d]; rfl

theorem strmqCan (f : Fields) : Statement (.strmqCan f) := by
  intro _ _ h1 h2 hw; cases h1; cases h2
  have hi := immOk_of_wf rfl hw
  have e : ∀ x : BitVec 6, (decide (x.toNat = 1)) = true → x.getLsbD 0 = true := by decide
  have d := e f.imm hi
  show some (if f.imm.getLsbD 0 = true then _ else _) = _
  rw [d]; rfl

theorem cntb (f : Fields) : Statement (.cntb f) := by
  intro _ _ h1 h2 _; cases h1; cases h2; rfl

theorem balc (f : Fields) : Statement (.balc f) := by
  intro _ _ h1 h2 _; cases h1; cases h2; rfl

theorem bfre (f : Fields) : Statement (.bfre f) := by
  intro _ _ h1 h2 _; cases h1; cases h2; rfl

theorem barv (f : Fields) : Statement (.barv f) := by
  intro _ _ h1 h2 hw; cases h1; cases h2
  have hi := immOk_of_wf rfl hw
  have e : ∀ x : BitVec 6, (decide (x = 0)) = true → x.getLsbD 0 = false := by decide
  have d := e f.imm hi
  show some (if f.imm.getLsbD 0 = true then _ else _) = _
  rw [d]; rfl

theorem barvW (f : Fields) : Statement (.barvW f) := by
  intro _ _ h1 h2 hw; cases h1; cases h2
  have hi := immOk_of_wf rfl hw
  have e : ∀ x : BitVec 6, (decide (x.toNat = 1)) = true → x.getLsbD 0 = true := by decide
  have d := e f.imm hi
  show some (if f.imm.getLsbD 0 = true then _ else _) = _
  rw [d]; rfl

theorem bwt (f : Fields) : Statement (.bwt f) := by
  intro _ _ h1 h2 hw; cases h1; cases h2
  have hi := immOk_of_wf rfl hw
  have e : ∀ x : BitVec 6, ([0, 2].contains x.toNat) = true → x.getLsbD 0 = false := by decide
  have d := e f.imm hi
  show some (if f.imm.getLsbD 0 = true then _ else _) = _
  rw [d]; rfl

theorem bwtW (f : Fields) : Statement (.bwtW f) := by
  intro _ _ h1 h2 hw; cases h1; cases h2
  have hi := immOk_of_wf rfl hw
  have e : ∀ x : BitVec 6, ([1, 3].contains x.toNat) = true → x.getLsbD 0 = true := by decide
  have d := e f.imm hi
  show some (if f.imm.getLsbD 0 = true then _ else _) = _
  rw [d]; rfl

theorem btry (f : Fields) : Statement (.btry f) := by
  intro _ _ h1 h2 hw; cases h1; cases h2
  have hi := immOk_of_wf rfl hw
  have e : ∀ x : BitVec 6, ([0, 2].contains x.toNat) = true → x.getLsbD 0 = false := by decide
  have d := e f.imm hi
  show some (if f.imm.getLsbD 0 = true then _ else _) = _
  rw [d]; rfl

theorem btryW (f : Fields) : Statement (.btryW f) := by
  intro _ _ h1 h2 hw; cases h1; cases h2
  have hi := immOk_of_wf rfl hw
  have e : ∀ x : BitVec 6, ([1, 3].contains x.toNat) = true → x.getLsbD 0 = true := by decide
  have d := e f.imm hi
  show some (if f.imm.getLsbD 0 = true then _ else _) = _
  rw [d]; rfl

theorem ecpy (f : Fields) : Statement (.ecpy f) := by
  intro _ _ h1 h2 _; cases h1; cases h2; rfl

theorem ecmp (f : Fields) : Statement (.ecmp f) := by
  intro _ _ h1 h2 _; cases h1; cases h2; rfl

theorem edcp (f : Fields) : Statement (.edcp f) := by
  intro _ _ h1 h2 _; cases h1; cases h2; rfl

theorem ecol (f : Fields) : Statement (.ecol f) := by
  intro _ _ h1 h2 _; cases h1; cases h2; rfl

theorem cjoin (f : Fields) : Statement (.cjoin f) := by
  intro _ _ h1 h2 _; cases h1; cases h2; rfl

theorem lease (f : Fields) : Statement (.lease f) := by
  intro _ _ h1 h2 _; cases h1; cases h2; rfl

theorem lrel (f : Fields) : Statement (.lrel f) := by
  intro _ _ h1 h2 _; cases h1; cases h2; rfl

theorem mbar (f : Fields) : Statement (.mbar f) := by
  intro _ _ h1 h2 _; cases h1; cases h2; rfl

theorem xst (f : Fields) : Statement (.xst f) := by
  intro _ _ h1 h2 _; cases h1; cases h2; rfl

theorem xstv (f : Fields) : Statement (.xstv f) := by
  intro _ _ h1 h2 _; cases h1; cases h2; rfl

theorem xsig (f : Fields) : Statement (.xsig f) := by
  intro _ _ h1 h2 _; cases h1; cases h2; rfl

theorem xld (f : Fields) : Statement (.xld f) := by
  intro _ _ h1 h2 _; cases h1; cases h2; rfl

theorem xwait (f : Fields) : Statement (.xwait f) := by
  intro _ _ h1 h2 _; cases h1; cases h2; rfl

theorem xfen (f : Fields) : Statement (.xfen f) := by
  intro _ _ h1 h2 _; cases h1; cases h2; rfl

theorem tspn (f : Fields) : Statement (.tspn f) := by
  intro _ _ h1 h2 _; cases h1; cases h2; rfl

theorem tdec (f : Fields) : Statement (.tdec f) := by
  intro _ _ h1 h2 hw; cases h1; cases h2
  have hi := immOk_of_wf rfl hw
  have e : ∀ x : BitVec 6, ([0, 2].contains x.toNat) = true → x.getLsbD 0 = false := by decide
  have d := e f.imm hi
  show some (if f.imm.getLsbD 0 = true then _ else _) = _
  rw [d]; rfl

theorem tdecRmt (f : Fields) : Statement (.tdecRmt f) := by
  intro _ _ h1 h2 hw; cases h1; cases h2
  have hi := immOk_of_wf rfl hw
  have e : ∀ x : BitVec 6, ([1, 3].contains x.toNat) = true → x.getLsbD 0 = true := by decide
  have d := e f.imm hi
  show some (if f.imm.getLsbD 0 = true then _ else _) = _
  rw [d]; rfl

theorem tqry (f : Fields) : Statement (.tqry f) := by
  intro _ _ h1 h2 _; cases h1; cases h2; rfl

theorem lntl (f : Fields) : Statement (.lntl f) := by
  intro _ _ h1 h2 hw; cases h1; cases h2
  have hi := immOk_of_wf rfl hw
  have e : ∀ x : BitVec 6, (decide (x.toNat / 8 % 2 = 0)) = true → x.getLsbD 3 = false := by decide
  have d := e f.imm hi
  show some (if f.imm.getLsbD 3 = true then _ else _) = _
  rw [d]; rfl

theorem lntlLast (f : Fields) : Statement (.lntlLast f) := by
  intro _ _ h1 h2 hw; cases h1; cases h2
  have hi := immOk_of_wf rfl hw
  have e : ∀ x : BitVec 6, (decide (x.toNat / 8 % 2 = 1)) = true → x.getLsbD 3 = true := by decide
  have d := e f.imm hi
  show some (if f.imm.getLsbD 3 = true then _ else _) = _
  rw [d]; rfl

theorem gret (f : Fields) : Statement (.gret f) := by
  intro _ _ h1 h2 _; cases h1; cases h2; rfl

theorem did (f : Fields) : Statement (.did f) := by
  intro _ _ h1 h2 _; cases h1; cases h2; rfl

theorem dpart (f : Fields) : Statement (.dpart f) := by
  intro _ _ h1 h2 _; cases h1; cases h2; rfl

theorem gate (f : Fields) : Statement (.gate f) := by
  intro _ _ h1 h2 _; cases h1; cases h2; rfl

theorem cxld (f : Fields) : Statement (.cxld f) := by
  intro _ _ h1 h2 _; cases h1; cases h2; rfl

theorem cxul (f : Fields) : Statement (.cxul f) := by
  intro _ _ h1 h2 _; cases h1; cases h2; rfl

theorem cxq (f : Fields) : Statement (.cxq f) := by
  intro _ _ h1 h2 _; cases h1; cases h2; rfl

theorem ispz (f : Fields) : Statement (.ispz f) := by
  intro _ _ h1 h2 _; cases h1; cases h2; rfl

theorem unpz (f : Fields) : Statement (.unpz f) := by
  intro _ _ h1 h2 _; cases h1; cases h2; rfl

theorem cx (code : BitVec 4) (f : Fields) : Statement (.cx code f) := by
  intro _ _ h1 h2 _; cases h1; cases h2
  have e : ∀ x : BitVec 4, x = 0 ∨ x = 1 ∨ x = 2 ∨ x = 3 ∨ x = 4 ∨ x = 5 ∨ x = 6 ∨ x = 7 ∨ x = 8 ∨ x = 9 ∨ x = 10 ∨ x = 11 ∨ x = 12 ∨ x = 13 ∨ x = 14 ∨ x = 15 := by
    decide
  rcases e code with h | h | h | h | h | h | h | h | h | h | h | h | h | h | h | h <;> subst h <;> rfl

theorem trap (f : Fields) : Statement (.trap f) := by
  intro _ _ h1 h2 _; cases h1; cases h2; rfl

theorem brk (f : Fields) : Statement (.brk f) := by
  intro _ _ h1 h2 _; cases h1; cases h2; rfl

theorem park (f : Fields) : Statement (.park f) := by
  intro _ _ h1 h2 _; cases h1; cases h2; rfl

theorem wake (f : Fields) : Statement (.wake f) := by
  intro _ _ h1 h2 _; cases h1; cases h2; rfl

theorem syrd (f : Fields) : Statement (.syrd f) := by
  intro _ _ h1 h2 _; cases h1; cases h2; rfl

theorem sywrFpstat (f : Fields) : Statement (.sywrFpstat f) := by
  intro _ _ h1 h2 hw; cases h1; cases h2
  have hi := immOk_of_wf rfl hw
  have e : f.imm = 2 := BitVec.eq_of_toNat_eq (of_decide_eq_true hi)
  cases f; cases e; rfl

theorem sywrResumeRetry (f : Fields) : Statement (.sywrResumeRetry f) := by
  intro _ _ h1 h2 hw; cases h1; cases h2
  have hi := immOk_of_wf rfl hw
  have e : f.imm = 3 := BitVec.eq_of_toNat_eq (of_decide_eq_true hi)
  cases f; cases e; rfl

theorem sywrResumeSkip (f : Fields) : Statement (.sywrResumeSkip f) := by
  intro _ _ h1 h2 hw; cases h1; cases h2
  have hi := immOk_of_wf rfl hw
  have e : f.imm = 3 := BitVec.eq_of_toNat_eq (of_decide_eq_true hi)
  cases f; cases e; rfl

theorem sywrGreg (f : Fields) : Statement (.sywrGreg f) := by
  intro _ _ h1 h2 hw; cases h1; cases h2
  have hi := immOk_of_wf rfl hw
  have e : ∀ x : BitVec 6, ((decide (x.toNat ≤ 17) || decide (32 ≤ x.toNat ∧ x.toNat ≤ 49)) && !([2, 3, 49].contains x.toNat)) = true →
      x ≠ 2 ∧ x ≠ 3 ∧ x ≠ 49 := by decide
  obtain ⟨a, b, d⟩ := e f.imm hi
  show some (if f.imm = 2 then _ else if f.imm = 3 then _ else if f.imm = 49 then _ else _) = _
  rw [if_neg a, if_neg b, if_neg d]; rfl

theorem sywrPortctlReplay (f : Fields) : Statement (.sywrPortctlReplay f) := by
  intro _ _ h1 h2 hw; cases h1; cases h2
  have hi := immOk_of_wf rfl hw
  have e : f.imm = 49 := BitVec.eq_of_toNat_eq (of_decide_eq_true hi)
  cases f; cases e; rfl

theorem sywrPortctlAbandon (f : Fields) : Statement (.sywrPortctlAbandon f) := by
  intro _ _ h1 h2 hw; cases h1; cases h2
  have hi := immOk_of_wf rfl hw
  have e : f.imm = 49 := BitVec.eq_of_toNat_eq (of_decide_eq_true hi)
  cases f; cases e; rfl

theorem mark (f : Fields) : Statement (.mark f) := by
  intro _ _ h1 h2 _; cases h1; cases h2; rfl

theorem save (f : Fields) : Statement (.save f) := by
  intro _ _ h1 h2 _; cases h1; cases h2; rfl

theorem rest (f : Fields) : Statement (.rest f) := by
  intro _ _ h1 h2 _; cases h1; cases h2; rfl

theorem halt (f : Fields) : Statement (.halt f) := by
  intro _ _ h1 h2 _; cases h1; cases h2; rfl

theorem longOperationComplete (n : NodeRef) : Statement (.longOperationComplete n) := by
  intro _ _ h; cases h

theorem memoryResponse (id : Nat) : Statement (.memoryResponse id) := by
  intro _ _ h; cases h

theorem tokenSend (p : Port) : Statement (.tokenSend p) := by
  intro _ _ h; cases h

theorem tokenArrival (e : Nat) : Statement (.tokenArrival e) := by
  intro _ _ h; cases h

theorem creditReturn (e : Nat) : Statement (.creditReturn e) := by
  intro _ _ h; cases h

theorem fanoutCopy (k : Nat) : Statement (.fanoutCopy k) := by
  intro _ _ h; cases h

theorem branchSend (k : Nat) (b : Nat) : Statement (.branchSend k b) := by
  intro _ _ h; cases h

theorem quoinEmit (t : TileRef) (p : BitVec 4) : Statement (.quoinEmit t p) := by
  intro _ _ h; cases h

theorem gatePoisonDelivery (e : ElemRef) (g : BitVec 3) : Statement (.gatePoisonDelivery e g) := by
  intro _ _ h; cases h

theorem scrubComplete (e : ElemRef) : Statement (.scrubComplete e) := by
  intro _ _ h; cases h

theorem kvalueEnter (e : ElemRef) : Statement (.kvalueEnter e) := by
  intro _ _ h; cases h

theorem relayForward (l : RelayPlace) (sideB : Bool) : Statement (.relayForward l sideB) := by
  intro _ _ h; cases h

theorem tileComplete (e : ElemRef) : Statement (.tileComplete e) := by
  intro _ _ h; cases h

theorem drainTokenSend (e : ElemRef) : Statement (.drainTokenSend e) := by
  intro _ _ h; cases h

theorem matrixMark (e : ElemRef) : Statement (.matrixMark e) := by
  intro _ _ h; cases h

theorem queueDoorbell (fn : BitVec 12) (q : BitVec 6) (v : Word) : Statement (.queueDoorbell fn q v) := by
  intro _ _ h; cases h

theorem queueIdleUnmap (die : BitVec 4) (slot : BitVec 6) : Statement (.queueIdleUnmap die slot) := by
  intro _ _ h; cases h

theorem spawn (die : BitVec 4) : Statement (.spawn die) := by
  intro _ _ h; cases h

theorem dec (die : BitVec 4) : Statement (.dec die) := by
  intro _ _ h; cases h

theorem abort (die : BitVec 4) : Statement (.abort die) := by
  intro _ _ h; cases h

theorem free (die : BitVec 4) : Statement (.free die) := by
  intro _ _ h; cases h

theorem regt (die : BitVec 4) : Statement (.regt die) := by
  intro _ _ h; cases h

theorem unregt (die : BitVec 4) : Statement (.unregt die) := by
  intro _ _ h; cases h

theorem decrementApply (id : Nat) : Statement (.decrementApply id) := by
  intro _ _ h; cases h

theorem stagingComplete (die : BitVec 4) (idx : BitVec 14) : Statement (.stagingComplete die idx) := by
  intro _ _ h; cases h

theorem deadlineExpiry (die : BitVec 4) (idx : BitVec 14) : Statement (.deadlineExpiry die idx) := by
  intro _ _ h; cases h

theorem agePromotion (die : BitVec 4) (idx : BitVec 14) : Statement (.agePromotion die idx) := by
  intro _ _ h; cases h

theorem headBlock (die : BitVec 4) : Statement (.headBlock die) := by
  intro _ _ h; cases h

theorem taskSelect (die : BitVec 4) (used : List (Nat × Nat)) : Statement (.taskSelect die used) := by
  intro _ _ h; cases h

theorem tileLoadAck (region : Nat) (tile : BitVec 11) : Statement (.tileLoadAck region tile) := by
  intro _ _ h; cases h

theorem regionOpen (region : Nat) (tile : BitVec 11) : Statement (.regionOpen region tile) := by
  intro _ _ h; cases h

theorem quiescence (region : Nat) : Statement (.quiescence region) := by
  intro _ _ h; cases h

theorem reconfigTokenPass (region : Nat) : Statement (.reconfigTokenPass region) := by
  intro _ _ h; cases h

theorem stallWatchdog (region : Nat) : Statement (.stallWatchdog region) := by
  intro _ _ h; cases h

theorem streamEnd (region : Nat) (iport : BitVec 3) : Statement (.streamEnd region iport) := by
  intro _ _ h; cases h

theorem homeRequest (id : Nat) : Statement (.homeRequest id) := by
  intro _ _ h; cases h

theorem walkComplete (id : Nat) : Statement (.walkComplete id) := by
  intro _ _ h; cases h

theorem storeAck (id : Nat) : Statement (.storeAck id) := by
  intro _ _ h; cases h

theorem storeRefusal (id : Nat) : Statement (.storeRefusal id) := by
  intro _ _ h; cases h

theorem inboxEntry (id : Nat) : Statement (.inboxEntry id) := by
  intro _ _ h; cases h

theorem latchReply (id : Nat) : Statement (.latchReply id) := by
  intro _ _ h; cases h

theorem latchTimeout (n : NodeRef) : Statement (.latchTimeout n) := by
  intro _ _ h; cases h

theorem recoveryQuery (id : Nat) : Statement (.recoveryQuery id) := by
  intro _ _ h; cases h

theorem streamStart (t : TileRef) (p : BitVec 4) : Statement (.streamStart t p) := by
  intro _ _ h; cases h

theorem streamEmit (t : TileRef) (p : BitVec 4) : Statement (.streamEmit t p) := by
  intro _ _ h; cases h

theorem tagAck (id : Nat) : Statement (.tagAck id) := by
  intro _ _ h; cases h

theorem tagToken (e : ElemRef) (tag : BitVec 4) : Statement (.tagToken e tag) := by
  intro _ _ h; cases h

theorem engineRun (die : BitVec 4) (kind : BitVec 2) (eng : BitVec 3) : Statement (.engineRun die kind eng) := by
  intro _ _ h; cases h

theorem engineComplete (die : BitVec 4) (kind : BitVec 2) (eng : BitVec 3) : Statement (.engineComplete die kind eng) := by
  intro _ _ h; cases h

theorem leaseExpiry (die : BitVec 4) (kind : BitVec 2) (eng : BitVec 3) : Statement (.leaseExpiry die kind eng) := by
  intro _ _ h; cases h

theorem hostFetchadd (fn : BitVec 12) (pa : BitVec 52) (n : Word) : Statement (.hostFetchadd fn pa n) := by
  intro _ _ h; cases h

theorem hostBarrierWrite (fn : BitVec 12) (pa : BitVec 52) : Statement (.hostBarrierWrite fn pa) := by
  intro _ _ h; cases h

theorem hostAccess (a : HostAccess) : Statement (.hostAccess a) := by
  intro _ _ h; cases h

theorem trapRecordDelivery (idx : Nat) : Statement (.trapRecordDelivery idx) := by
  intro _ _ h; cases h

theorem portReplay (u : HeldUnit) : Statement (.portReplay u) := by
  intro _ _ h; cases h

theorem uncorrectableError (w : ErrorPlace) : Statement (.uncorrectableError w) := by
  intro _ _ h; cases h

theorem markSend (region : Nat) (p : Port) : Statement (.markSend region p) := by
  intro _ _ h; cases h

theorem markArrival (e : Nat) : Statement (.markArrival e) := by
  intro _ _ h; cases h

theorem nodeAlign (n : NodeRef) : Statement (.nodeAlign n) := by
  intro _ _ h; cases h

theorem snapshotComplete (region : Nat) : Statement (.snapshotComplete region) := by
  intro _ _ h; cases h

theorem wholeCoursePreempt (region : Nat) : Statement (.wholeCoursePreempt region) := by
  intro _ _ h; cases h

theorem psplit (pf : Bool) : Statement (.psplit pf) := by
  intro _ _ h; cases h

theorem pmerge (pf : Bool) : Statement (.pmerge pf) := by
  intro _ _ h; cases h

theorem ppre (pf : Bool) : Statement (.ppre pf) := by
  intro _ _ h; cases h

theorem kload (pf : Bool) (m : List Word) : Statement (.kload pf m) := by
  intro _ _ h; cases h

theorem kshare (pf : Bool) : Statement (.kshare pf) := by
  intro _ _ h; cases h

theorem kfree (pf : Bool) : Statement (.kfree pf) := by
  intro _ _ h; cases h

theorem inval (pf : Bool) : Statement (.inval pf) := by
  intro _ _ h; cases h

theorem ptear (pf : Bool) : Statement (.ptear pf) := by
  intro _ _ h; cases h

theorem qreg (pf : Bool) : Statement (.qreg pf) := by
  intro _ _ h; cases h

theorem qunreg (pf : Bool) : Statement (.qunreg pf) := by
  intro _ _ h; cases h

theorem fassign (pf : Bool) : Statement (.fassign pf) := by
  intro _ _ h; cases h

theorem podgrant (pf : Bool) : Statement (.podgrant pf) := by
  intro _ _ h; cases h

theorem podrevoke (pf : Bool) : Statement (.podrevoke pf) := by
  intro _ _ h; cases h

theorem podrt (pf : Bool) : Statement (.podrt pf) := by
  intro _ _ h; cases h

theorem kctr (pf : Bool) (m : List Word) : Statement (.kctr pf m) := by
  intro _ _ h; cases h

theorem kctrfree (pf : Bool) (m : List Word) : Statement (.kctrfree pf m) := by
  intro _ _ h; cases h

theorem knonce (pf : Bool) : Statement (.knonce pf) := by
  intro _ _ h; cases h

theorem kquote (pf : Bool) : Statement (.kquote pf) := by
  intro _ _ h; cases h

theorem kseal (pf : Bool) : Statement (.kseal pf) := by
  intro _ _ h; cases h

theorem kexport (pf : Bool) (m : List Word) : Statement (.kexport pf m) := by
  intro _ _ h; cases h

theorem kopen (pf : Bool) : Statement (.kopen pf) := by
  intro _ _ h; cases h

theorem atsCompletion (c : AtsAnswer) : Statement (.atsCompletion c) := by
  intro _ _ h; cases h

theorem pageRequestResponse (id : Nat) (r : PriResponse) : Statement (.pageRequestResponse id r) := by
  intro _ _ h; cases h

theorem flr (fn : BitVec 12) : Statement (.flr fn) := by
  intro _ _ h; cases h

theorem tdiError (vf : BitVec 11) : Statement (.tdiError vf) := by
  intro _ _ h; cases h

theorem powerIntervalEnd (die : BitVec 5) (cap : Nat) (used : List (Nat × Nat)) : Statement (.powerIntervalEnd die cap used) := by
  intro _ _ h; cases h

theorem podRequestArrival (r : PodMessage) : Statement (.podRequestArrival r) := by
  intro _ _ h; cases h

theorem remoteDecrement (r : PodDecrement) : Statement (.remoteDecrement r) := by
  intro _ _ h; cases h

theorem podLinkFailure (port : BitVec 4) : Statement (.podLinkFailure port) := by
  intro _ _ h; cases h

theorem coldReset (stop : BootStop) (fail : BitVec 18) (meas : List Byte) : Statement (.coldReset stop fail meas) := by
  intro _ _ h; cases h

theorem dieAdmit (die : BitVec 5) : Statement (.dieAdmit die) := by
  intro _ _ h; cases h

theorem clockSwitch : Statement .clockSwitch := by
  intro _ _ h; cases h

theorem warmRecalibration (die : BitVec 4) (feature : BitVec 3) (pass : Bool) : Statement (.warmRecalibration die feature pass) := by
  intro _ _ h; cases h

theorem thermalThrottle (die : BitVec 5) (celsius : Nat) : Statement (.thermalThrottle die celsius) := by
  intro _ _ h; cases h

theorem thermalRecover (die : BitVec 5) (celsius : Nat) : Statement (.thermalRecover die celsius) := by
  intro _ _ h; cases h

theorem thermalRemoval (die : BitVec 5) (celsius : Nat) : Statement (.thermalRemoval die celsius) := by
  intro _ _ h; cases h

theorem registerWrite (r : RegWrite) : Statement (.registerWrite r) := by
  intro _ _ h; cases h

theorem psetCommand (pf : Bool) (block : List Word) : Statement (.psetCommand pf block) := by
  intro _ _ h; cases h

theorem hbmodeWrite (v : BitVec 64) : Statement (.hbmodeWrite v) := by
  intro _ _ h; cases h

theorem replyAcknowledgement (id : Nat) : Statement (.replyAcknowledgement id) := by
  intro _ _ h; cases h

theorem powerCapExceeded (die : BitVec 5) (more : Nat) : Statement (.powerCapExceeded die more) := by
  intro _ _ h; cases h

theorem dieFullService (die : BitVec 5) (passed : BitVec 6) : Statement (.dieFullService die passed) := by
  intro _ _ h; cases h

theorem podLinkUp (port : BitVec 4) : Statement (.podLinkUp port) := by
  intro _ _ h; cases h

theorem powerLoss : Statement .powerLoss := by
  intro _ _ h; cases h

theorem correctableError (die : BitVec 5) : Statement (.correctableError die) := by
  intro _ _ h; cases h

theorem atsInvalidationCompletion (port : Bool) (pasid : BitVec 20) : Statement (.atsInvalidationCompletion port pasid) := by
  intro _ _ h; cases h

theorem tdispRequest (vf : BitVec 11) (run : Bool) : Statement (.tdispRequest vf run) := by
  intro _ _ h; cases h

end Sys2Proof.Laws.RowOfOpcode
end

