-- ==== Sys2Proof/Laws/Stores.lean ====
section
/-! SUPPORT. The operations that write memory keep its canonical form. -/

namespace Sys2Proof.Machine

variable {s : State}

/-- A fold of steps that keep the form keeps it. -/
theorem foldl_wf {α : Type} {g : State → α → State} (hg : ∀ t x, Memory.wf t.mem = true → Memory.wf (g t x).mem = true) :
    ∀ (l : List α) {t : State}, Memory.wf t.mem = true → Memory.wf (l.foldl g t).mem = true
  | [], _, h => h
  | x :: l, _, h => foldl_wf hg l (hg _ x h)

theorem takeLine_wf (h : Memory.wf s.mem = true) (pa : Nat) (k : BitVec 13) : Memory.wf (s.takeLine pa k).mem = true := by
  unfold State.takeLine
  split
  · dsimp only
    split
    · exact h
    · split
      · exact h
      · exact writeBytes_wf h _ _
  · exact h

theorem storeUnder_wf (h : Memory.wf s.mem = true) (pa : Nat) (k : BitVec 13) (w : PWord) :
    Memory.wf (s.storeUnder pa k w).mem = true := State.storeWord_wf (takeLine_wf h pa k) pa w

theorem storeByteUnder_wf (h : Memory.wf s.mem = true) (pa : Nat) (k : BitVec 13) (b : Byte) :
    Memory.wf (s.storeByteUnder pa k b).mem = true := memSet_wf (takeLine_wf h pa k) pa b

theorem writeData_wf (h : Memory.wf s.mem = true) (pa : Nat) (bs : List Byte) : Memory.wf (writeData s pa bs).mem = true := by
  unfold writeData
  refine foldl_wf (fun _ _ ht => ?_) _ ?_
  · exact ht
  · exact writeBytes_wf h pa bs

theorem dropLines_wf (h : Memory.wf s.mem = true) (k : BitVec 13) : Memory.wf (dropLines s k).mem = true := by
  unfold dropLines
  exact foldl_wf (fun _ _ ht => writeBytes_wf ht _ _) _ h

theorem restoreTile_wf (h : Memory.wf s.mem = true) (t : TileRef) (g : Region) (x : TileSave) :
    Memory.wf (restoreTile s t g x).mem = true := by
  unfold restoreTile
  exact foldl_wf (fun _ _ ht => memSetWord_wf ht _ _) _ (State.clearRange_wf h _ _)

end Sys2Proof.Machine
end

