-- ==== Sys2Proof/Safety.lean ====
section
/-! DEFINITION. What counts as a well-formed state and a safe step: the invariants that claims use. -/

namespace Sys2Proof.Machine

/-- Memory keeps its canonical form. -/
def State.memOk (s : State) : Prop := Memory.wf s.mem = true

end Sys2Proof.Machine
end

