-- ==== Sys2Proof/Tests/Slice0.lean ====
section
/-! SUPPORT. Tests of the model, each about one step, and witnesses for the hypotheses of the statements. Expected results
come from the worked examples of spec/ where a file is named, else from a calculation by hand under the rule named. -/

namespace Sys2Proof.Tests

open Sys2Proof.Machine

set_option Elab.async false

/-! ## Well-formedness: for each check a word that it refuses (R44, R82, R84, R85, R87, R92) -/

theorem test_wf_accepts : Instr.wf (.add { pmask := 1, pval := 1, cha := 0, ka := 0, dst := 1, sa := 16, sb := 31, imm := 5, dqa := true }) = true := by decide
theorem test_wf_pval_outside_pmask : Instr.wf (.add { pmask := 1, pval := 2 }) = false := by decide
theorem test_wf_psel_without_pop : Instr.wf (.add { psel := 1 }) = false := by decide
theorem test_wf_channel_code : Instr.wf (.add { cha := 4 }) = false := by decide
theorem test_wf_no_channel_with_kind : Instr.wf (.add { cha := 7, ka := 0 }) = false := by decide
theorem test_wf_pop_of_no_channel : Instr.wf (.add { dqb := true }) = false := by decide
theorem test_wf_one_channel_popped_twice : Instr.wf (.add { cha := 1, chb := 1, dqa := true, dqb := true }) = false := by decide
theorem test_wf_one_channel_two_kinds : Instr.wf (.add { cha := 1, chb := 1, ka := 0, kb := 2 }) = false := by decide
theorem test_wf_written_input_channel : Instr.wf (.add { dst := 16 }) = false := by decide
theorem test_wf_read_output_channel : Instr.wf (.add { sa := 20 }) = false := by decide
theorem test_wf_written_and_read_mailbox : Instr.wf (.mac { dst := 24 }) = false := by decide
theorem test_wf_emit_to_register : Instr.wf (.emit { dst := 3 }) = false := by decide
theorem test_wf_accumulator_number : Instr.wf (.mstk { dst := 4 }) = false := by decide
theorem test_wf_unused_destination : Instr.wf (.nop { dst := 1 }) = false := by decide
theorem test_wf_unused_source : Instr.wf (.mov { sa := 1, sb := 2 }) = false := by decide
theorem test_wf_immediate_as_first_source : Instr.wf (.add { sa := 31 }) = false := by decide
theorem test_wf_head_word_without_channel : Instr.wf (.add { sa := 29 }) = false := by decide
theorem test_wf_forward_of_register : Instr.wf (.fwd { dst := 20, sa := 1 }) = false := by decide
theorem test_wf_odd_pair : Instr.wf (.gld { dst := 1, sa := 3, sb := 2 }) = false := by decide

theorem test_wf_odd_scaled_lanes : Instr.wf (.vdot { dst := 2, sa := 4, sb := 3, imm := 4 }) = false := by decide
theorem test_wf_immediate_without_code_31 : Instr.wf (.add { dst := 1, sa := 1, sb := 2, imm := 1 }) = false := by decide
theorem test_wf_option_out_of_range : Instr.wf (.fence { imm := 7 }) = false := by decide
theorem test_wf_mailbox_source_and_destination : Instr.wf (.add { dst := 25, sa := 25, sb := 1 }) = false := by decide
theorem test_wf_drop_without_pop : Instr.wf (.drop { cha := 0 }) = false := by decide
theorem test_wf_join_of_one_channel_twice : Instr.wf (.cjoin { dst := 20, cha := 0, chb := 0, dqa := true }) = false := by decide
theorem test_wf_return_with_predicate : Instr.wf (.gret { pop := 1 }) = false := by decide

/-! ## Decoding: words of the spec's worked examples -/

/-- 03_instruction_word_and_opcode_map.md, 04, 07 and 08. -/
theorem test_decode_add_of_channel : decode 0x0C042BF04247F6FE = .ok (.add { pmask := 0x0C, pval := 4, cha := 1, ka := 2, dst := 4, sa := 17, sb := 31, dqa := true, psel := 6, pop := 3, imm := 0x3E }) := by decide
theorem test_decode_cvt_fn : decode 0x0000FFF44300A004 = .ok (.cvtFn { dst := 6, sa := 0, sb := 5, imm := 4 }) := by decide
theorem test_decode_vfma : decode 0x0000FFF632212001 = .ok (.vfma { dst := 4, sa := 8, sb := 9, imm := 1 }) := by decide
theorem test_decode_mcfg : decode 0x0100FFF800044040 = .ok (.mcfg { pmask := 1, sa := 1, sb := 2, pop := 1 }) := by decide
/-- 10_program_ragged_scoring.md and 05_elements_nodes_domains.md. -/
theorem test_decode_add_of_mailbox : decode 0xFDC1FFF04C9BE1C1 = .ok (.add { pmask := 0xFD, pval := 0xC1, dst := 25, sa := 6, sb := 31, psel := 1, pop := 3, imm := 1 }) := by decide
theorem test_decode_custom_opcode : decode 0x010103FE3A401000 = .ok (.cx 3 { pmask := 1, pval := 1, cha := 0, ka := 0, dst := 20, sa := 16, dqa := true }) := by decide
theorem test_decode_lntl_last : decode 0x0301FFFD00100159 = .ok (.lntlLast { pmask := 3, pval := 1, sa := 4, psel := 1, pop := 1, imm := 0x19 }) := by decide
/-- 12, 13 and 14: global memory. -/
theorem test_decode_acquire_load : decode 0x0000FFFA2208C003 = .ok (.gldA { dst := 4, sa := 2, sb := 6, imm := 3 }) := by decide
theorem test_decode_release_store : decode 0x0301FFFA33214146 = .ok (.gstL { pmask := 3, pval := 1, dst := 6, sa := 8, sb := 10, psel := 1, pop := 1, imm := 6 }) := by decide
theorem test_decode_load : decode 0x0100FFFA0313E0C0 = .ok (.gld { pmask := 1, dst := 6, sa := 4, sb := 31, pop := 3 }) := by decide
/-- 15 and 16: units and updates. -/
theorem test_decode_barrier_wait : decode 0x0101FFFB62888003 = .ok (.bwtW { pmask := 1, pval := 1, dst := 5, sa := 2, sb := 4, imm := 3 }) := by decide
theorem test_decode_tag : decode 0x0301FFFB20A401E3 = .ok (.cntb { pmask := 3, pval := 1, dst := 1, sa := 9, psel := 1, pop := 3, imm := 0x23 }) := by decide
theorem test_decode_compare_of_mailbox : decode 0x080000822C4222C0 = .ok (.cmpLtI32 { pmask := 8, cha := 0, ka := 0, chb := 1, kb := 0, dst := 24, sa := 16, sb := 17, psel := 2, pop := 3 }) := by decide
theorem test_decode_update : decode 0x0808FFFA90230389 = .ok (.aupd { pmask := 8, pval := 8, sa := 8, sb := 24, psel := 3, pop := 2, imm := 9 }) := by decide
/-- 17, 18, 19, 21 and 22. -/
theorem test_decode_join : decode 0x00001CFBCA001800 = .ok (.cjoin { cha := 0, chb := 1, dst := 20, dqa := true, dqb := true }) := by decide
theorem test_decode_vdot : decode 0x0606FFF6E1844182 = .ok (.vdot { pmask := 6, pval := 6, dst := 3, sa := 1, sb := 2, psel := 1, pop := 2, imm := 2 }) := by decide
theorem test_decode_resume : decode 0x0202FFFF5014C183 = .ok (.sywrResumeRetry { pmask := 2, pval := 2, sa := 5, sb := 6, psel := 1, pop := 2, imm := 3 }) := by decide
theorem test_decode_dpart : decode 0x0301FFFD308861C0 = .ok (.dpart { pmask := 3, pval := 1, dst := 1, sa := 2, sb := 3, psel := 1, pop := 3 }) := by decide
theorem test_decode_fma_of_channel : decode 0x1E1203F333409240 = .ok (.fma { pmask := 0x1E, pval := 0x12, cha := 0, ka := 0, dst := 6, sa := 16, sb := 4, dqa := true, psel := 2, pop := 1 }) := by decide
theorem test_decode_signal : decode 0x0C04FFFC20102341 = .ok (.xsig { pmask := 0x0C, pval := 4, sa := 4, sb := 1, psel := 3, pop := 1, imm := 1 }) := by decide
theorem test_decode_vector_store : decode 0x1F0DFFFC10090440 = .ok (.xstv { pmask := 0x1F, pval := 0x0D, sa := 2, sb := 8, psel := 4, pop := 1 }) := by decide
theorem test_decode_fence : decode 0x0000FFFA80000004 = .ok (.fence { imm := 4 }) := by decide
theorem test_decode_tdec : decode 0x0301FFFC90100140 = .ok (.tdec { pmask := 3, pval := 1, sa := 4, psel := 1, pop := 1 }) := by decide
/-- R89: ILL and a reserved opcode. -/
theorem test_decode_refuses_by_name : decode 0x0000FFFFF0000000 = .error .ill ∧ decode 0x0000FFF570000000 = .error .reservedOpcode := by decide
/-- The image stores the word as the bytes FE F6 47 42 F0 2B 04 0C (03). -/
theorem test_word_bytes : bytesOfWord 0x0C042BF04247F6FE = [0xFE, 0xF6, 0x47, 0x42, 0xF0, 0x2B, 0x04, 0x0C] := by decide
theorem test_encode_add : encode (.add { pmask := 0x0C, pval := 4, cha := 1, ka := 2, dst := 4, sa := 17, sb := 31, dqa := true, psel := 6, pop := 3, imm := 0x3E }) = 0x0C042BF04247F6FE := by decide

/-! ## A small state -/

/-- Node 0 of element 0 of the first tile right of column 0. -/
def n0 : NodeRef := ⟨0, 2, 0, 0⟩
def e0 : ElemRef := n0.elemRef

/-- A clean word. -/
def w_ (n : Nat) : PWord := PWord.clean (BitVec.ofNat 32 n)

/-- A poisoned word with an origin. -/
def bad (n : Nat) : PWord := ⟨BitVec.ofNat 32 n, true⟩

/-- The node in RUN, in a privileged domain that owns everything, its registers g1 on holding the values given. -/
def bench (g : List PWord) : State :=
  let s := State.reset.setNd n0 { st := .run, ncfg := 1, g := g.zipIdx.map (fun x => (x.2 + 1, x.1)) }
  let s := s.setEl e0 { dtab := [(0, 0xC000000000000000)], pword := [(0, 0x0FFFFFFF), (1, 0xFFFFFFFF), (2, 0xFF)] }
  { s with cur := { node := n0 } }

/-- The same with words in the local store, from byte 0 on. -/
def store (g : List PWord) (ws : List PWord) : State :=
  ws.zipIdx.foldl (fun s x => s.setLsWord e0 (4 * x.2) x.1) (bench g)

/-- The same with vector registers: each lane of `v` from lane 0 on. -/
def lanes (g : List PWord) (vs : List (Nat × List Nat)) : State :=
  (bench g).updEl e0 (fun e => { e with vreg := vs.flatMap (fun v => v.2.zipIdx.map (fun x => (16 * v.1 + x.2, w_ x.1))) })

/-- The same with tokens at the head of ci0. -/
def heads (g : List PWord) (ts : List Token) : State := (bench g).updNd n0 (fun nd => { nd with ci := [(0, ts)] })

/-- g3 as destination, g1 and g2 as sources, and an option. -/
def f123 (o : Nat := 0) : Fields := { dst := 3, sa := 1, sb := 2, imm := BitVec.ofNat 6 o }

/-- The state after an instruction's issue. -/
def issued (i : Instr) (s : State) : State := match exec i s with
  | .next t => t
  | _ => s

/-- The state at the S4 of an instruction that does not park, three cycles after its issue. -/
def after (i : Instr) (s : State) : State := settle { issued i s with cycle := s.cycle + 3 }

/-- The state at the end of cycle 3 after a step that ends a transition of cycle 0. -/
def ended (i : Instr) (s : State) : State := settle (issued i { s with cycle := 3 })

/-- g3 of the node. -/
def reg3 (s : State) : PWord := (s.nd n0).gReg 3
def g3 (i : Instr) (g : List PWord) : PWord := reg3 (after i (bench g))

/-- The value of a parked operation and the cycle of its S4. -/
def due (i : Instr) (s : State) : Option (Nat × Option PWord) := match ((issued i s).nd n0).flight with
  | some fl => match fl.why with
    | .long c r => some (c, r.dst)
    | _ => none
  | none => none

/-! ## Integers (04, Worked example: integer edge cases) -/

theorem test_add_wraps : g3 (.add (f123)) [w_ 0xFFFFFFFF, w_ 2] = w_ 1 := by decide +kernel
theorem test_sub_wraps : g3 (.sub (f123)) [w_ 1, w_ 2] = w_ 0xFFFFFFFF := by decide +kernel
theorem test_adds_saturates : g3 (.adds (f123)) [w_ 0x7FFFFFF0, w_ 0x20] = w_ 0x7FFFFFFF := by decide +kernel
theorem test_subs_saturates : g3 (.subs (f123)) [w_ 0x80000000, w_ 1] = w_ 0x80000000 := by decide +kernel
theorem test_li_is_signed : g3 (.li { dst := 3, sa := 31, sb := 16, imm := 0x18 }) [] = w_ 0xFFFFFC18 := by decide +kernel
theorem test_lui_keeps_the_low_half : g3 (.lui { dst := 3, sb := 2, imm := 1 }) [w_ 0, w_ 0, w_ 0x1234] = w_ 0x00811234 := by decide +kernel
theorem test_mulh_signs : g3 (.mulhI32 (f123)) [w_ 0xFFFFFFFF, w_ 1] = w_ 0xFFFFFFFF ∧ g3 (.mulhN32 (f123)) [w_ 0xFFFFFFFF, w_ 2] = w_ 1 := by decide +kernel
theorem test_mac_adds_to_its_destination : g3 (.mac (f123)) [w_ 3, w_ 4, w_ 5] = w_ 17 := by decide +kernel
theorem test_div_truncates : due (.divI32 (f123)) (bench [w_ 0xFFFFFFF9, w_ 2]) = some (19, some (w_ 0xFFFFFFFD)) := by decide +kernel
theorem test_mod_truncates : due (.modI32 (f123)) (bench [w_ 0xFFFFFFF9, w_ 2]) = some (19, some (w_ 0xFFFFFFFF)) := by decide +kernel
theorem test_div_by_zero : due (.divN32 (f123)) (bench [w_ 7, w_ 0]) = some (19, some (w_ 0xFFFFFFFF)) := by decide +kernel
theorem test_mod_by_zero : due (.modN32 (f123)) (bench [w_ 7, w_ 0]) = some (19, some (w_ 7)) := by decide +kernel
theorem test_shr_by_63 : g3 (.shr { dst := 3, sa := 1, sb := 31, imm := 0x3F }) [w_ 0xFFFFFFFF] = w_ 0 := by decide +kernel
theorem test_sar_by_40 : g3 (.sar (f123)) [w_ 0x80000000, w_ 40] = w_ 0xFFFFFFFF := by decide +kernel
theorem test_shl_by_31 : g3 (.shl (f123)) [w_ 3, w_ 31] = w_ 0x80000000 := by decide +kernel
theorem test_rol_by_36 : g3 (.rol (f123)) [w_ 0x80000001, w_ 36] = w_ 0x18 := by decide +kernel
theorem test_bfx : g3 (.bfx (f123)) [w_ 0x12345678, w_ 0x0C08] = w_ 0x456 := by decide +kernel
theorem test_bfi_keeps_the_rest : g3 (.bfi (f123)) [w_ 0xAB, w_ 0x0808, w_ 0x11111111] = w_ 0x1111AB11 := by decide +kernel
theorem test_sext_of_bit_3 : g3 (.sext (f123)) [w_ 0x1A, w_ 3] = w_ 0xFFFFFFFA := by decide +kernel
theorem test_clz_of_zero : g3 (.clz (f123)) [w_ 0] = w_ 32 := by decide +kernel
theorem test_brev : g3 (.brev (f123)) [w_ 0x00000003] = w_ 0xC0000000 := by decide +kernel
theorem test_cmp_signed_and_not : g3 (.cmpLtI32 (f123)) [w_ 0xFFFFFFFF, w_ 0] = w_ 1 ∧ g3 (.cmpLtN32 (f123)) [w_ 0xFFFFFFFF, w_ 0] = w_ 0 := by decide +kernel
theorem test_abs_of_least : g3 (.abs (f123)) [w_ 0x80000000] = w_ 0x80000000 := by decide +kernel
theorem test_lea_scales_b : g3 (.lea (f123 3)) [w_ 0x100, w_ 2] = w_ 0x110 := by decide +kernel
theorem test_pset_writes_one_predicate :
    ((after (.pset { sa := 1, sb := 2, psel := 5, pop := 3 }) (bench [w_ 4, w_ 2])).nd n0).p = 0x20 := by decide +kernel
theorem test_poison_keeps_the_first_origin : g3 (.add (f123)) [bad 0xAA, bad 0xBB] = bad 0xAA := by decide +kernel

/-! ## FP32 and the narrow formats (02 and 04, their worked examples; else by hand) -/

/-- 1 + 2^-24 is a tie: even, and NX is raised. -/
theorem test_fadd_tie_is_even : let s := after (.fadd (f123)) (bench [w_ 0x3F800000, w_ 0x33800000])
    reg3 s = w_ 0x3F800000 ∧ (s.nd n0).fpstat.extractLsb' 0 6 ≠ 0 := by decide +kernel
theorem test_fadd_rounds_up : g3 (.fadd (f123 2)) [w_ 0x3F800000, w_ 0x33800000] = w_ 0x3F800001 := by decide +kernel
theorem test_fmul_of_infinity_and_zero : g3 (.fmul (f123)) [w_ 0x7F800000, w_ 0] = w_ 0x7FC00000 := by decide +kernel
/-- (1 + 2^-12)^2 − (1 + 2^-11) is 2^-24 with one rounding; a rounded square would give 0. -/
theorem test_fma_rounds_once : g3 (.fma (f123)) [w_ 0x3F800800, w_ 0x3F800800, w_ 0xBF801000] = w_ 0x33800000 := by decide +kernel
theorem test_fmin_orders_zeros : g3 (.fmin (f123)) [w_ 0, w_ 0x80000000] = w_ 0x80000000 := by decide +kernel
theorem test_fcmp_of_zeros : g3 (.fcmpEq (f123)) [w_ 0, w_ 0x80000000] = w_ 1 := by decide +kernel
theorem test_frcp_of_two : due (.frcp (f123)) (bench [w_ 0x40000000]) = some (15, some (w_ 0x3F000000)) := by decide +kernel
theorem test_flog2_of_eight : due (.flog2 (f123)) (bench [w_ 0x41000000]) = some (15, some (w_ 0x40400000)) := by decide +kernel
/-- 20.0 × 2^4 into element 0, then 7.0 × 2^4 into element 1 beside it (04, Worked example: quantising four values). -/
theorem test_cvt_fn_element_0 : g3 (.cvtFn { dst := 3, sa := 1, sb := 2, imm := 4 }) [w_ 0x41A00000, w_ 0x7B, w_ 0] = w_ 0x7A := by decide +kernel
theorem test_cvt_fn_element_1 : g3 (.cvtFn { dst := 3, sa := 1, sb := 2, imm := 0x0C }) [w_ 0x40E00000, w_ 0x7B, w_ 0x7A] = w_ 0x6E7A := by decide +kernel
theorem test_cvt_nf_back : g3 (.cvtNf { dst := 3, sa := 1, sb := 2, imm := 4 }) [w_ 0x7A, w_ 0x7B] = w_ 0x41A00000 := by decide +kernel
/-- 02, Worked example: decoding a scaled E4M3 element. -/
theorem test_cvt_nf_of_subnormal : g3 (.cvtNf { dst := 3, sa := 1, sb := 2, imm := 4 }) [w_ 0x01, w_ 0x85] = w_ 0x3E000000 := by decide +kernel
/-- 02, Worked example: rounding FP32 to BF16. -/
theorem test_cvt_to_bf16 : g3 (.cvtF { dst := 3, sa := 1, sb := 2, imm := 0x11 }) [w_ 0x3F818000, w_ 0x3F808000] = w_ 0x3F803F82 := by decide +kernel
theorem test_sclo : g3 (.sclo { dst := 3, sa := 1, imm := 4 }) [w_ 0x41A00000] = w_ 0x7B := by decide +kernel

/-! ## Local store and tokens (R124-R137) -/

theorem test_ld_hs_extends : reg3 (after (.ldHs (f123)) (store [w_ 2, w_ 4] [w_ 0, w_ 0x80011234])) = w_ 0xFFFF8001 := by decide +kernel
theorem test_st_b_keeps_the_rest : (after (.stB (f123)) (store [w_ 1, w_ 0, w_ 0xAB] [w_ 0x11223344])).lsWord e0 0 = w_ 0x1122AB44 := by decide +kernel
theorem test_ldx_scales_b : reg3 (after (.ldxW (f123)) (store [w_ 4, w_ 1] [w_ 1, w_ 2, w_ 3])) = w_ 3 := by decide +kernel
theorem test_ld_misaligned_faults : ((after (.ldW (f123)) (bench [w_ 2, w_ 0])).nd n0).cause = 0x0A := by decide +kernel
theorem test_ld_past_the_store_faults : ((after (.ldB (f123)) (bench [w_ 0x18000, w_ 0])).nd n0).cause = 0x07 := by decide +kernel
theorem test_lcas_swaps : let s := after (.lcas (f123)) (store [w_ 0, w_ 7, w_ 9] [w_ 7]); reg3 s = w_ 7 ∧ s.lsWord e0 0 = w_ 9 := by decide +kernel
theorem test_ladd_answers_the_old_word : let s := after (.ladd (f123)) (store [w_ 0, w_ 7] [w_ 5]); reg3 s = w_ 5 ∧ s.lsWord e0 0 = w_ 12 := by decide +kernel
theorem test_emit_scale : ((after (.emit { dst := 20, sa := 1, imm := 0x0C }) (bench [w_ 0x17B])).nd n0).coq 0 = [{ kind := 1, fmt := 4, payload := 0x7B }] := by decide +kernel
theorem test_stop_level : ((after (.stop { dst := 21, sa := 1, imm := 2 }) (bench [w_ 5])).nd n0).coq 1 = [{ kind := 3, payload := 5 }] := by decide +kernel
theorem test_fwd_copies_and_pops : let s := after (.fwd { dst := 20, sa := 16, cha := 0, dqa := true }) (heads [] [{ kind := 1, fmt := 5, payload := 9 }, {}])
    (s.nd n0).coq 0 = [{ kind := 1, fmt := 5, payload := 9 }] ∧ (s.nd n0).ciq 0 = [{}] := by decide +kernel
theorem test_head_counts : g3 (.head { dst := 3, imm := 0 }) [] = w_ 0 ∧
    (let s := (heads [] [{ kind := 3, fmt := 0, payload := 9 }, {}]).updNd n0 (fun nd => { nd with pool := [(0, encode (.head { dst := 3 }))] })
     reg3 (after (.head { dst := 3 }) { s with cur := { node := n0, head := headSeen (s.nd n0) 0 } }) = w_ 0x20043) := by decide +kernel

/-! ## Vectors and residues (07, their worked examples) -/

/-- Lane 0 of v6 after an instruction. -/
def v6 (i : Instr) (g : List PWord) (vs : List (Nat × List Nat)) : PWord := ((after i (lanes g vs)).el e0).lane 6 0

theorem test_vadd_of_integers : v6 (.vadd { dst := 6, sa := 4, sb := 5 }) [] [(4, [0xFFFFFFFF]), (5, [2])] = w_ 1 := by decide +kernel
theorem test_vred_add_is_a_tree : g3 (.vredAdd { dst := 3, sa := 5, sb := 28, imm := 1 }) [] = w_ 0 ∧
    reg3 (after (.vredAdd { dst := 3, sa := 5, sb := 28, imm := 1 }) (lanes [] [(5, [0x4B800000, 0x3F800000, 0x3F800000, 0x3F800000])])) = w_ 0x4B800001 := by decide +kernel
theorem test_vscan_adds_in_order : ((after (.vscan { dst := 6, sa := 5, sb := 28, imm := 1 }) (lanes [] [(5, [0x4B800000, 0x3F800000, 0x3F800000, 0x3F800000])])).el e0).lane 6 3 = w_ 0x4B800000 := by decide +kernel
theorem test_vdot_groups : v6 (.vdot { dst := 6, sa := 4, sb := 8, imm := 4 }) [] [(4, [0x30B84038]), (8, [0x50443C44]), (9, [0x0000827E]), (6, [0x3F800000])] = w_ 0x41E80000 := by decide +kernel
theorem test_vrndot : v6 (.vrndot { dst := 6, sa := 4, sb := 5 }) [] [(4, [0x037FCE64]), (5, [0x05802864])] = w_ 0x3B4F1BCF := by decide +kernel
theorem test_rnct_floors : g3 (.rnct { dst := 3, sa := 1, sb := 2 }) [w_ 0x3B4F1BCF, w_ 4] = w_ 0xFFFFFDFC := by decide +kernel
theorem test_rnmul : g3 (.rnmul (f123)) [w_ ((300 * 1024 + 300) * 1024 + 300), w_ ((400 * 1024 + 400) * 1024 + 400)] = w_ 0x21F4D4C0 := by decide +kernel
theorem test_rncv_of_minus_five : g3 (.rncv (f123)) [w_ 0xFFFFFFFB] = w_ 0x3F8FEBFB := by decide +kernel
theorem test_vbcast_writes_every_lane : ((after (.vbcast { dst := 6, sa := 1 }) (lanes [w_ 7] [])).el e0).lane 6 15 = w_ 7 := by decide +kernel
theorem test_vext : reg3 (after (.vext { dst := 3, sa := 1, imm := 2 }) (lanes [] [(1, [5, 6, 7])])) = w_ 7 := by decide +kernel
theorem test_vld_ascends : ((after (.vld { dst := 6, sa := 1, sb := 2 }) (store [w_ 4, w_ 0] [w_ 1, w_ 2, w_ 3])).el e0).lane 6 1 = w_ 3 := by decide +kernel

/-! ## Witnesses: the hypotheses of the statements hold together in these states -/

/-- S1 passes, and no scalar operand is poisoned (`Clean`). -/
def clean (s : State) (i : Instr) : Bool := match i.fields with
  | some f => (refusedAt s.atIssue s.cur.node i f).isNone && (issueOps s i f).psn.isNone
  | none => false

/-- S1 passes, and a scalar operand is poisoned. -/
def poisoned (s : State) (i : Instr) : Bool := match i.fields with
  | some f => (refusedAt s.atIssue s.cur.node i f).isNone && (issueOps s i f).psn.isSome
  | none => false

/-- The S4 of the transition has come and its effects are still to be taken (`Late`). -/
def atS4 (s : State) (i : Instr) : Bool := match ((issued i s).nd n0).flight with
  | some fl => decide (fl.instr = i) && (match fl.why with
    | .s4 due (.late _ _ _ _) => decide (due ≤ s.cycle + 3)
    | _ => false)
  | none => false

def f0 : Fields := { dst := 6, sa := 4, sb := 2 }
theorem witness_Conversions : ([.cvtF f0, .cvtIf f0, .cvtFi f0, .cvtNf f0, .cvtFn f0, .pack2 f0, .unpk f0, .scale f0] : List Instr).all (clean (bench [])) = true := by decide +kernel
theorem witness_LocalStoreSpecials : ([.ldc f0, .ldP f0, .stP f0, .lcas f0, .ladd f0] : List Instr).all (clean (bench [])) = true := by decide +kernel
theorem witness_TokenInstructions : ([.emit f0, .stop f0, .fwd f0, .drop f0, .tagf f0, .sclo f0, .head f0, .idle f0] : List Instr).all (clean (bench [])) = true := by decide +kernel
theorem witness_VectorLogicAndDots : ([.vcmp f0, .vsel f0, .vand f0, .vor f0, .vxor f0, .vshl f0, .vshr f0, .vcvt f0] : List Instr).all (clean (bench [])) = true := by decide +kernel
theorem witness_VectorLogicAndDots_dots : ([.vdot f0, .vscale f0] : List Instr).all (clean (bench [])) = true := by decide +kernel
theorem witness_ParkAndWake : ([.park f0, .wake f0] : List Instr).all (clean (bench [])) = true := by decide +kernel
theorem witness_MatrixControl : ([.mpass f0, .mstat f0, .mfeed f0, .mscl f0, .mfin f0, .mfinAbort f0] : List Instr).all (clean (bench [])) = true := by decide +kernel
theorem witness_CustomLoader : ([.cxld f0, .cxul f0, .cxq f0] : List Instr).all (clean (bench [])) = true := by decide +kernel
theorem witness_GlobalStores : ([.gst f0, .gstL f0, .fence f0, .gstv f0] : List Instr).all (clean (bench [])) = true := by decide +kernel
theorem witness_PodInstructions : ([.xst f0, .xstv f0, .xsig f0, .xld f0, .xwait f0, .xfen f0] : List Instr).all (clean (bench [])) = true := by decide +kernel
theorem witness_TaskInstructions : ([.tspn f0, .tdec f0, .tdecRmt f0, .tqry f0, .mark f0, .save f0, .rest f0, .halt f0] : List Instr).all (clean (bench [])) = true := by decide +kernel
theorem witness_IntegerArithmetic : ([.nop f0, .mov f0, .li f0, .lui f0, .add f0, .sub f0, .adds f0, .subs f0, .mul f0, .mulhI32 f0, .mulhN32 f0, .mac f0, .divI32 f0, .divN32 f0, .modI32 f0, .modN32 f0, .and f0, .or f0, .xor f0, .andn f0, .shl f0, .shr f0, .sar f0, .rol f0] : List Instr).all (clean (bench [])) = true := by decide +kernel
theorem witness_BitFieldsAndComparisons : ([.clz f0, .popc f0, .brev f0, .sext f0, .zext f0, .bfx f0, .bfi f0, .sel f0, .cmpEq f0, .cmpNe f0, .cmpLtI32 f0, .cmpLeI32 f0, .cmpLtN32 f0, .cmpLeN32 f0, .minI32 f0, .maxI32 f0, .minN32 f0, .maxN32 f0, .abs f0, .neg f0, .pset f0, .pget f0, .tst f0, .lea f0] : List Instr).all (clean (bench [])) = true := by decide +kernel
theorem witness_FloatArithmeticAndOrder : ([.fadd f0, .fsub f0, .fmul f0, .fma f0, .fmin f0, .fmax f0, .fcmpEq f0, .fcmpLt f0, .fcmpLe f0, .fcmpUn f0, .fabs f0, .fneg f0, .frcp f0, .frsq f0, .fexp2 f0, .flog2 f0] : List Instr).all (clean (bench [])) = true := by decide +kernel
theorem witness_LocalStoreAccesses : ([.ldW f0, .ldH f0, .ldHs f0, .ldB f0, .ldBs f0, .stW f0, .stH f0, .stB f0, .ldxW f0, .stxW f0] : List Instr).all (clean (bench [])) = true := by decide +kernel
theorem witness_VectorArithmeticAndMoves : ([.vadd f0, .vsub f0, .vmul f0, .vfma f0, .vmin f0, .vmax f0, .vbcast f0, .vext f0, .vins f0, .vperm f0, .vredAdd f0, .vredMax f0, .vredMin f0, .vscan f0] : List Instr).all (clean (bench [])) = true := by decide +kernel
theorem witness_VectorMemoryAndPacking : ([.vld f0, .vst f0, .vldx f0, .vstx f0, .vpack f0, .vunpk f0, .vout f0, .vin f0] : List Instr).all (clean (bench [])) = true := by decide +kernel
theorem witness_ResidueArithmetic : ([.rncv f0, .rnct f0, .rnadd f0, .rnsub f0, .rnmul f0, .rnmac f0, .rnneg f0, .vrncv f0, .vrnct f0, .vrnmac f0, .vrndot f0] : List Instr).all (clean (bench [])) = true := by decide +kernel
theorem witness_DomainsAndPartitionWords : ([.did f0, .dpart f0, .gate f0, .ispz f0, .unpz f0] : List Instr).all (clean (bench [])) = true := by decide +kernel
theorem witness_SystemRegistersAndReturns : ([.trap f0, .brk f0, .syrd f0, .sywrFpstat f0, .sywrResumeRetry f0, .sywrResumeSkip f0, .sywrGreg f0, .sywrPortctlReplay f0, .sywrPortctlAbandon f0] : List Instr).all (clean (bench [])) = true := by decide +kernel
theorem witness_MatrixConfiguration : ([.mcfg f0, .mrun f0, .mdrain f0, .mclr f0, .mshape f0] : List Instr).all (clean (bench [])) = true := by decide +kernel
theorem witness_GlobalLoadsAndForwarding : ([.gld f0, .gldA f0, .pld f0, .pprb f0, .gldv f0, .gldvP f0] : List Instr).all (clean (bench [])) = true := by decide +kernel
theorem witness_LatchesAndAtomicWords : ([.pst f0, .pclr f0, .aupd f0, .afet f0, .acas f0, .aapl f0, .gstvP f0, .xrearm f0] : List Instr).all (clean (bench [])) = true := by decide +kernel
theorem witness_UnitsTagsAndJoins : ([.strm f0, .strmq f0, .strmqCan f0, .cntb f0, .balc f0, .bfre f0, .barv f0, .barvW f0, .bwt f0, .bwtW f0, .btry f0, .btryW f0, .ecpy f0, .ecmp f0, .edcp f0, .ecol f0, .cjoin f0, .lease f0, .lrel f0, .mbar f0] : List Instr).all (clean (bench [])) = true := by decide +kernel
theorem witness_CustomCells : ([.cx 3 f0] : List Instr).all (clean (bench [])) = true := by decide +kernel
theorem witness_GateCalls : ([.lntl f0, .lntlLast f0, .gret f0] : List Instr).all (clean (bench [])) = true := by decide +kernel
theorem witness_MatrixConfiguration_banks : ([.mldk { dst := 2, sa := 4 }, .mstk { dst := 2, sa := 4 }] : List Instr).all (clean (bench [])) = true := by decide +kernel
theorem witness_PoisonedOperands : ([.mov f0, .lui f0, .add f0, .sub f0, .adds f0, .subs f0, .mul f0, .mulhI32 f0, .mulhN32 f0, .mac f0, .and f0, .or f0, .xor f0, .andn f0, .shl f0, .shr f0, .sar f0, .rol f0, .clz f0, .popc f0, .brev f0, .sext f0, .zext f0, .bfx f0, .bfi f0, .sel f0, .cmpEq f0, .cmpNe f0, .cmpLtI32 f0, .cmpLeI32 f0, .cmpLtN32 f0, .cmpLeN32 f0, .minI32 f0, .maxI32 f0, .minN32 f0, .maxN32 f0, .abs f0, .neg f0, .tst f0, .lea f0, .fadd f0, .fsub f0, .fmul f0, .fma f0, .fmin f0, .fmax f0, .fcmpEq f0, .fcmpLt f0, .fcmpLe f0, .fcmpUn f0, .fabs f0, .fneg f0, .cvtF f0, .cvtIf f0, .cvtFi f0, .cvtNf f0, .cvtFn f0, .pack2 f0, .unpk f0, .scale f0] : List Instr).all (poisoned (bench [{}, {}, {}, bad 7, {}, bad 9])) = true := by decide +kernel
/-- For the clauses of these instructions about their S4. -/
theorem witness_AtS4 : ([.mrun f0, .mdrain f0, .mclr f0, .mshape f0, .mpass f0, .mstat f0, .mfeed f0, .mscl f0, .mfin f0, .mfinAbort f0, .gst f0, .gstL f0, .gstv f0, .xst f0, .xstv f0, .tdec f0, .dpart f0, .gate f0, .cxul f0, .ispz f0, .unpz f0, .park f0, .wake f0, .sywrFpstat f0, .sywrResumeRetry f0, .sywrResumeSkip f0, .sywrGreg f0, .sywrPortctlReplay f0, .sywrPortctlAbandon f0] : List Instr).all (atS4 (bench [])) = true := by decide +kernel

/-! ### Gates, faults, S4, selection -/

/-- Node 1 of the same element runs behind gate 0; a session in state `ssn` with caller `c` has given `cnt` arguments of two. -/
def n1 : NodeRef := ⟨0, 2, 0, 1⟩
def gated (ssn c cnt : Nat) : State :=
  ((bench [w_ 9]).setNd n1 { st := .run }).updEl e0 (fun e => { e with gate := [(0, BitVec.ofNat 32 (0x815A0100 + ssn * 2 ^ 29 + c * 2 ^ 12 + cnt))] })

/-- Node 0 serves gate 0 for node 1, its return channel is co1. -/
def serving : State :=
  ((bench [w_ 9]).setNd n1 { st := .run }).updEl e0 (fun e => { e with gate := [(0, 0xC0001041)] })

/-- The argument stands in ci3 of the callee at S4; the last one starts it with ENTRY (R160). -/
theorem test_lntl_passes_an_argument : let t := after (.lntl { sa := 1 }) (gated 0 0 0)
    (t.nd n1).ciq 3 = [{ payload := 9 }] ∧ (t.el e0).gateAt 0 = 0xA15A0101 := by decide +kernel
theorem test_lntl_last_starts_the_callee : let t := after (.lntlLast { sa := 1 }) (gated 1 0 1)
    (t.nd n1).p = 0x5A ∧ (t.el e0).gateAt 0 = 0xC15A0102 := by decide +kernel
theorem test_lntl_of_a_full_session_faults : let t := after (.lntl { sa := 1 }) (gated 1 0 2)
    (t.nd n0).cause = 0x0B ∧ (t.nd n1).ciq 3 = [] := by decide +kernel
theorem test_gret_answers_with_stop : let t := after (.gret { sa := 1 }) serving
    (t.nd n0).coq 1 = [{ kind := 2, payload := 9 }] ∧ (t.el e0).gateAt 0 = 0x90001040 := by decide +kernel

theorem witness_GateCalls_S4 : atS4 (gated 0 0 0) (.lntl { sa := 1 }) ∧ atS4 (gated 1 0 1) (.lntlLast { sa := 1 }) ∧
    clean (gated 1 0 2) (.lntl { sa := 1 }) ∧ atS4 serving (.gret { sa := 1 }) := by decide +kernel
theorem witness_GateCalls_scrubbed : let s := (gated 0 0 0).updEl e0 (fun e => { e with scrub := [(.gate 0, 9)] })
    clean s (.lntl { sa := 1 }) ∧ (s.el e0).scrubbing (.gate 0) = true ∧
    ((after (.lntl { sa := 1 }) s).nd n0).cause = 0x04 := by decide +kernel

/-- A transition that names a vector register of a group that its domain does not own is refused. -/
theorem witness_FaultEntry : let s := (bench []).updEl e0 (fun e => { e with pword := [], dtab := [(0, 0x8000000000000000)] })
    (refusedAt s.atIssue n0 (.vadd f0) f0).isSome = true ∧ ((after (.vadd f0) s).nd n0).cause = 0x04 ∧ ((after (.vadd f0) s).nd n0).st = .faulted := by
  decide +kernel

/-- In S4 with a result, with a fault, and before S4; parked on a long operation before and at its S4. -/
theorem witness_EffectsAndFrameOfS4 :
    let why := fun (i : Instr) (s : State) => ((issued i s).nd n0).flight.map (fun fl => match fl.why with
      | .s4 due (.done _) => (1, due)
      | .s4 due (.fault _) => (2, due)
      | .long due _ => (3, due)
      | _ => (0, 0))
    why (.add (f123)) (bench []) = some (1, 3) ∧ why (.ldW (f123)) (bench [w_ 1]) = some (2, 3) := by decide +kernel
theorem witness_FrameOfTheIssueAndLongOperations : let t := issued (.divN32 (f123)) (bench [w_ 7, w_ 2])
    (t.nd n0).st = .run ∧ ((settle { t with cycle := 2 }).nd n0).st = .parked ∧ Instr.wf (.divN32 (f123)) = true ∧
    (match exec (.longOperationComplete n0) { t with cycle := 18 } with
      | .next u => decide (u = { t with cycle := 18 } ∧ settle u = u)
      | _ => false) = true ∧
    (match exec (.longOperationComplete n0) { t with cycle := 19 } with
      | .next u => decide (((settle u).nd n0).gReg 3 = w_ 3 ∧ ((settle u).nd n0).st = .run)
      | _ => false) = true := by decide +kernel

/-- One slot of node 0 holds ADD, of node 3 LI; the element issued from node 0 last. -/
def twoNodes : State :=
  let s := (bench [w_ 1, w_ 2]).updNd n0 (fun nd => { nd with pool := [(2, encode (.add (f123)))], ncfg := 4 })
  (s.setNd ⟨0, 2, 0, 3⟩ { st := .run, ncfg := 1, pool := [(0, encode (.li { dst := 3, sb := 1 }))] })

theorem witness_StepRunsTheDecodedSlot : select twoNodes e0 = some (n0, 2) ∧
    select (twoNodes.updEl e0 (fun e => { e with lastn := 0 })) e0 = some (⟨0, 2, 0, 3⟩, 0) ∧
    decode ((twoNodes.nd n0).slotWord 2) = .ok (.add (f123)) := by decide +kernel
theorem witness_NodesIssueInTurn : let s := twoNodes.updEl e0 (fun e => { e with lastn := 0 })
    eligible s ⟨0, 2, 0, 1⟩ = false ∧ eligible s ⟨0, 2, 0, 3⟩ = true ∧ readySlot s ⟨0, 2, 0, 3⟩ = some 0 := by decide +kernel
theorem witness_StepRunsEvents : let s := twoNodes.updEl e0 (fun e => { e with lastn := 0 })
    (match step { s with closing := true } with
      | .next t => decide (t.cycle = 1 ∧ t.closing = false ∧ t.picks = [{ node := ⟨0, 2, 0, 3⟩ }])
      | _ => false) = true ∧
    (match step { s with closing := true, picks := [{ node := ⟨0, 2, 0, 3⟩ }] } with
      | .next t => decide ((t.el e0).lastn = 3 ∧ t.cycle = 0 ∧ t.picks = [])
      | _ => false) = true ∧
    (match step s with
      | .next t => decide (t.closing = true ∧ t.cycle = 0)
      | _ => false) = true := by decide +kernel
theorem witness_MemoryStaysCanonical : Memory.wf State.reset.mem = true ∧ Memory.wf (store [] [w_ 0x01000000]).mem = true := by decide +kernel

/-- The checks of a local access at the boundaries that they share: the last word, the byte behind it, and a word across the end. -/
theorem witness_LocalStoreAccesses_checks :
    let s := bench []
    let cause := fun (a : Word) (len : Nat) => (s.lsCheck n0 a len false 0).map FaultInfo.cause
    cause 0x17FFC 4 = none ∧ cause 0x17FFF 1 = none ∧ cause 0x18000 1 = some 0x07 ∧ cause 0x17FFE 4 = some 0x07 ∧ cause 0x17FFA 4 = some 0x0A ∧
    ((s.updEl e0 (fun e => { e with dtab := [(0, 0x8000000000000000)], pword := [(0, 0x7FF)] })).lsCheck n0 0x17FFC 4 false 0).map FaultInfo.cause = some 0x04 := by
  decide +kernel
theorem witness_LocalStoreSpecials_bounds : clean (bench [w_ 63]) (.ldc { dst := 3, sa := 1, sb := 2 }) ∧
    ((after (.ldc { dst := 3, sa := 1, sb := 2 }) (bench [w_ 64])).nd n0).cause = 0x07 := by decide +kernel

/-! ### Tokens, homes and translation -/

/-- An edge of channel co0 of node 0 to channel ci1 of node 1, with four credits. -/
def edge7 (e : Edge := {}) : Edge := { e with id := 7, src := .out n0 0, dst := .inp n1 1, num := 5, credits := 4 }
def wired (e : Edge := {}) : State :=
  (((bench []).updNd n0 (fun nd => nd.setCo 0 [{ payload := 3 }, { payload := 4 }])).setNd n1 { st := .run, ccfg := [(1, 0x80000000)] }).setEd 7 (edge7 e)

theorem test_token_send_spends_a_credit : let t := issued (.tokenSend (.out n0 0)) wired
    (t.nd n0).coq 0 = [{ payload := 4 }] ∧ (t.ed 7).credits = 3 ∧ t.net.length = 1 := by decide +kernel
theorem test_token_arrival_enters_and_counts : let t := issued (.tokenArrival 7) (wired { flight := [{ payload := 3 }] })
    (t.nd n1).ciq 1 = [{ payload := 3 }] ∧ (t.nd n1).seqAt 1 = 1 ∧ (t.ed 7).flight = [] := by decide +kernel
/-- ci1 accepts FP32 alone: a BF16 token raises FORMAT, stays at the edge stage, and closes it to what follows. -/
def wrong : State := (wired { flight := [{ fmt := 2 }] }).updNd n1 (fun nd => { nd with ccfg := [(1, 0xA4000000)] })
theorem test_wrong_format_faults : let t := issued (.tokenArrival 7) wrong
    (t.nd n1).cause = 0x05 ∧ (t.nd n1).badToken.isSome = true ∧ (t.nd n1).ciq 1 = [] := by decide +kernel
theorem witness_TokensLeave : let s := wired
    isCompute n0.tile = true ∧ sendTurn s n0 0 = true ∧ sendable s n0 1 = false ∧ s.edgeFrom (.out n0 0) = some edge7 ∧
    0 < (({ edge7 with back_ := 1 } : Edge).back_) ∧
    (let u : State := { s with fanout := [(2, { id := 2, src := .out n0 1, branches := [{ edge := 8 }] })] }
      let v := (u.updNd n0 (fun nd => nd.setCo 1 [{}])).setEd 8 { id := 8, src := .out n0 1, dst := .inp n1 2, credits := 4, fan := some (2, 0) }
      sendTurn v n0 0 = true ∧ sendable v n0 1 = true ∧
      ((issued (.fanoutCopy 2) { v with elem := [], node := (v.updNd n0 (fun nd => { nd with co := [(1, [{}])] })).node }).fo 2).branches.map (fun b => b.buf.length) = [1]) := by
  decide +kernel
theorem witness_TokensArriveAndGate : let s := wired { flight := [{ payload := 3 }] }
    (s.ed 7).flight = [{ payload := 3 }] ∧ (s.ed 7).dst = .inp n1 1 ∧ ((s.nd n1).ccfgAt 1).getLsbD 30 = false ∧ (s.nd n1).badToken = none ∧
    (s.nd n1).flight = none ∧ (wrong.nd n1).st = .run ∧
    ((bench []).updEl e0 (fun e => { e with scrub := [(.mbox 1, 0)] }) |>.el e0).scrub = [(.mbox 1, 0)] := by decide +kernel

/-- A request of node 0 at its home, translated to words of HBM4 or of a bank of memory tile 31. -/
def stamp0 : Stamp := { issuer := n0 }
def asked (who : Requester) (op : Op) (pas : List Nat) (s : State := bench []) : State :=
  { s with clk := true, reqs := [{ id := 5, who := who, stamp := stamp0, va := 0x1000, op := op, stage := .home, pas := pas.map (fun p => (p, 0)), leaving := false }] }
def atHomeNow (s : State) : Bool := match s.req 5 with
  | some r => atHome s r && bankFree s r && !behind s r && !r.pas.isEmpty
  | none => false

/-- HBM4 word 0x1000, and the first word of bank 2 of memory tile 31 of die 0. -/
def bankPa : Nat := 0x1000000000000 + 31 * 0x80000 + 2 * 0x8000
def inHbm (w : Nat) (s : State := bench []) : State := s.storeUnder 0x1000 0 (w_ w)
def presBank (s : State := bench []) : State := s.updTl ⟨0, 31⟩ (fun t => { t with mtcfg := 0x30 })

theorem test_home_atomic_add : let t := issued (.homeRequest 5) (asked (.latch n0 1) (.atomic 0 0 (w_ 4)) [0x1000] (inHbm 3))
    t.loadUnder 0x1000 0 = w_ 7 ∧ (t.resps.map (fun x => x.ans.words)) = [[w_ 3]] := by decide +kernel
theorem test_home_compare_and_swap : let t := issued (.homeRequest 5) (asked (.latch n0 1) (.cas (w_ 3) (w_ 9)) [0x1000] (inHbm 3))
    t.loadUnder 0x1000 0 = w_ 9 ∧ (t.resps.map (fun x => x.ans.cond)) = [true] := by decide +kernel
theorem test_presence_read_is_deferred : let t := issued (.homeRequest 5) (asked (.node n0) (.presRead 1) [bankPa] (presBank))
    t.resps = [] ∧ t.reqs.map Req.stage = [.deferred] := by decide +kernel
theorem test_presence_write_twice : let s := asked (.latch n0 1) (.presWrite [w_ 4]) [bankPa] (presBank)
    let t := issued (.homeRequest 5) s
    t.presAt bankPa = .full ∧
    ((issued (.homeRequest 5) { s with wmeta := t.wmeta, mem := t.mem }).resps.map (fun x => x.ans.fault.map FaultInfo.cause)) = [some 0x08] := by decide +kernel

theorem witness_HomesOfMemory : atHomeNow (asked (.node n0) (.load 1) [0x1000]) ∧ atHomeNow (asked (.sbuf e0) (.store [w_ 1]) [0x1000]) ∧
    atHomeNow (asked (.latch n0 1) (.atomic 0 0 (w_ 4)) [0x1000]) ∧ atHomeNow (asked (.latch n0 1) (.cas (w_ 0) (w_ 1)) [0x1000]) ∧
    (bench []).barrierAt 0x1000 = false := by decide +kernel

/-- Memory words of 64 bits under key 0. -/
def tables (xs : List (Nat × Nat)) (s : State) : State :=
  xs.foldl (fun s x => { s with mem := memSetWord (memSetWord s.mem x.1 (BitVec.ofNat 32 x.2)) (x.1 + 4) (BitVec.ofNat 32 (x.2 / 2 ^ 32)) }) s

/-- A live barrier word of COUNT 2 and LEFT 2 at 0x1000. -/
def barWord : State := (tables [(0x1000, 0x0000000002000002)] (bench [])).setMeta 0x1000 { barrier := true }
theorem test_barrier_is_made : (issued (.homeRequest 5) (asked (.latch n0 1) (.barMake 2) [0x1000])).load64Under 0x1000 0 = 0x0000000002000002 := by decide +kernel
theorem test_barrier_counts_down : let t := issued (.homeRequest 5) (asked (.latch n0 2) (.barArrive 1) [0x1000] barWord)
    t.load64Under 0x1000 0 = 0x0000000002000001 := by decide +kernel
theorem test_last_arrival_starts_the_next_phase : let t := issued (.homeRequest 5) (asked (.latch n0 2) (.barArrive 2) [0x1000] barWord)
    t.load64Under 0x1000 0 = 0x0001000002000002 ∧ t.resps.map (fun x => x.ans.cond) = [true] := by decide +kernel
theorem witness_PresenceAndBarrierHomes : atHomeNow (asked (.node n0) (.presRead 1) [bankPa] (presBank)) ∧
    atHomeNow (asked (.latch n0 1) (.presWrite [w_ 4]) [bankPa] (presBank)) ∧ atHomeNow (asked (.latch n0 1) (.presClear 1) [bankPa] (presBank)) ∧
    atHomeNow (asked (.node n0) .probe [bankPa] (presBank)) ∧ (presBank).presAt bankPa = .empty ∧
    atHomeNow (asked (.latch n0 2) (.barArrive 1) [0x1000] barWord) ∧ (barWord).barrierAt 0x1000 = true ∧
    atHomeNow (asked (.node n0) (.barTry 0 false) [0x1000] barWord) := by decide +kernel

/-- 11_memory_hierarchy.md, Worked example: placing one HBM4 line. -/
theorem test_place_of_a_line : State.reset.hbmHome 0x1234567880 = 1 ∧ State.reset.stackOffset 0x1234567880 = 0x123456880 ∧
    colourOf 0x1234567880 = 0x20 ∧ setOf 0x1234567880 = 0x40F1 := by decide +kernel

/-- Partition 1 with its tables in HBM4: the tenant 3 of 11_memory_hierarchy.md, Worked example: a walk to a 2 MiB page. -/
def mapped : State :=
  tables [(0x200030, 0x8000000000000010), (0x100008, 0x110001), (0x110028, 0x120001), (0x120008, 0x012900006000C003),
      (0x130000, 0x140001), (0x140600, 0x60000003)]
    { bench [] with
      clk := true
      part := [(1, { pcb := [(0, 0x80010000), (2, 0x130000), (4, 0x200000)] })]
      key := [(0x25, { live := true, owner := 1 }), (0x26, { live := true, owner := 1 })] }
theorem test_walk_to_a_2_mib_page : (mapped.walk [] 1 3 0x80140251234).map (fun e => ((e.pa, e.size, e.keyid.toNat), (e.rdonly, e.nc, e.s, e.p))) =
    some ((0x3000600000, 0x200000, 0x25), (true, false, false, false)) := by decide +kernel
def access (key : BitVec 13) (a : Access) : Option (Nat × BitVec 13) ⊕ BitVec 8 :=
  match mapped.checkAccess {} { part := 1, tenant := 3, keyid := key } true [(0, 0x80140251234)] a 4 with
  | .ok xs => .inl xs.head?
  | .error d => .inr d.cause
theorem test_access_checks : access 0x25 .read = .inl (some (0x3000651234, 0x25)) ∧ access 0x25 .write = .inr 0x07 ∧
    access 0x26 .read = .inr 0x04 := by decide +kernel
theorem witness_AddressTranslation :
    (mapped.xlate {} 1 3 0x80140251234).isSome = true ∧ mapped.xlate {} 1 3 0x1000 = none ∧
    mapped.tableKey 1 = some 0 ∧ (mapped.tenantEntry 1 3).getLsbD 63 = true ∧ (mapped.tenantEntry 1 4).getLsbD 63 = false ∧
    (walkFrom mapped [] 1 (some 3) 0 0x80140251234 3 0x100000).map Leaf.size = some 0x200000 ∧
    (mapped.stage2 1 0x3000651234).map Leaf.size = some 0x40000000 ∧ walkFrom mapped [] 1 (some 3) 0 0 3 0x100000 = none ∧
    walkFrom mapped [] 1 (some 3) 0 0x80140251234 3 0x100100 = none := by decide +kernel

/-! ### Requests, answers, units -/

/-- Node 0 awaits the answer to request 5, or has its store in the buffer, or has its access in the latch. -/
def answered (who : Requester) (op : Op) (a : Answer) (s : State) : State :=
  { s with resps := [{ id := 5, who := who, op := op, ans := a, leaving := false }] }
def awaiting (i : Instr) (s : State := bench []) : State := s.updNd n0 (fun nd => { nd with st := .parked, flight := some { slot := 4, instr := i, why := .await 5 } })
def bufferedStore (s : State := bench []) : State :=
  (s.updEl e0 (fun e => { e with sbuf := [{ id := 5, stamp := stamp0, va := 0x1000, words := [w_ 1], opc := 0xA1 }] })).updNd n0 (fun nd => { nd with
    st := .parked
    flight := some { instr := .fence { imm := 2 }, why := .release .fence [5] false } })
def latched (i : Instr) (st : RunState) : State := (bench []).updNd n0 (fun nd => { nd with
  st := st
  lseq := 1
  latch := [(0, 0xC0000000)]
  flight := if st = .parked then some { instr := i, why := .latch } else none })

theorem test_load_answer_writes_its_register : let t := ended (.memoryResponse 5) (answered (.node n0) (.load 1) { words := [w_ 8] } (awaiting (.gld { dst := 6, sa := 2, sb := 4 })))
    (t.nd n0).gReg 6 = w_ 8 ∧ (t.nd n0).st = .run := by decide +kernel
/-- 18_faults_poison_preemption.md, Worked example: the record of a page fault. -/
theorem test_record_of_a_page_fault :
    let n : NodeRef := ⟨2, 0xC5, 6, 9⟩
    let s : State := State.reset.setNd n { st := .parked, ncfg := 0x10000000, flight := some { slot := 4, instr := .gld { dst := 6, sa := 2 }, why := .await 5 } }
    let t := issued (.memoryResponse 5) (answered (.node n) (.load 1) { fault := some (accessFault 0x06 0 0x80140251244 false .awaited) } s)
    (t.nd n).trec = [(0, 0x218AD206), (1, 0x14A00020), (2, 0x40251244), (3, 0x801)] ∧ (t.nd n).st = .faulted ∧ (t.nd n).cause = 0x06 := by decide +kernel
theorem test_acknowledged_store_ends_the_fence : let t := ended (.storeAck 5) (answered (.sbuf e0) (.store [w_ 1]) {} bufferedStore)
    (t.el e0).sbuf = [] ∧ (t.nd n0).st = .run := by decide +kernel
theorem test_fetch_reply_clears_the_latch : let t := ended (.latchReply 5) (answered (.latch n0 1) (.atomic 0 0 (w_ 1)) { words := [w_ 4] } (latched (.afet { dst := 5, sa := 2, sb := 7 }) .parked))
    (t.nd n0).gReg 5 = w_ 4 ∧ Map.get (t.nd n0).latch 0 0 = 0x40000000 ∧ (t.nd n0).st = .run := by decide +kernel

theorem witness_RequestsAreAnswered :
    (let s := answered (.node n0) (.load 1) { words := [w_ 8] } (awaiting (.gld { dst := 6, sa := 2, sb := 4 }));
      (s.resp 5).isSome = true ∧ (s.resps.all (respHere s)) = true ∧ (s.nd n0).flight.map InFlight.why = some (.await 5)) ∧
    (let s := answered (.sbuf e0) (.store [w_ 1]) {} bufferedStore;
      (s.el e0).sbuf.map StoreEntry.id = [5] ∧ (s.nd n0).flight.map InFlight.why = some (.release .fence [5] false)) ∧
    (let r : Req := { id := 5, who := .node n0, stamp := stamp0, va := 0x1000, op := .load 1, stage := .port, leaving := false }
      let s := { bench [] with reqs := [r], clk := true }
      reqHere s r = true ∧ r.own = none ∧ entryOrder s r [.port, .ats, .kept] = true ∧ r.pages = [0] ∧
        s.misses (s.dieTlb 0) 0 0 0 = true) := by decide +kernel
theorem witness_InboxAndLatchEvents :
    (let s := answered (.latch n0 1) (.atomic 0 0 (w_ 1)) { words := [w_ 4] } (latched (.afet f0) .parked);
      (s.resps.all (respHere s)) = true ∧ (Map.get (s.nd n0).latch 0 0).getLsbD 31 = true ∧ (s.nd n0).lseq = 1) ∧
    (let s := { latched (.afet f0) .parked with cycle := 1048576 };
      (s.nd n0).lsent + 1048576 ≤ s.cycle ∧ ((issued (.latchTimeout n0) s).nd n0).cause = 0x0C ∧
        ((issued (.latchTimeout n0) { s with cycle := 1048575 }).nd n0).st = .parked) ∧
    (let r : Req := { id := 5, who := .latch n0 1, stamp := { stamp0 with part := 0 }, va := 0x2004, op := .atomic 0 0 (w_ 1), stage := .port, leaving := false, own := some { elem := e0, box := 2, region := 3, off := 1 } }
      let s := ((latched (.afet f0) .parked).updNd n0 (fun nd => { nd with latch := [(0, 0xC20000AA)] })).updEl e0 (fun e => { e with
        region := some 3
        inbox := [(2, { owner := 1, used := true, base := 0x2000, size := 64 })] })
      let t := issued (.inboxEntry 5) { s with reqs := [r], region := [(3, { id := 3, st := .running, row0 := 0, col0 := 2, hdr := { w := 1, h := 1 } })] }
      (Map.get (t.el e0).inbox {} 2).entries.map (fun x => (x.off.toNat, x.rply)) = [(1, true)]) := by decide +kernel

/-- A request of node 0 at a unit of its die. -/
def atUnit (op : Op) (s : State := bench []) : State := asked (.node n0) op [] s
def unitNow (s : State) : Bool := match s.req 5 with
  | some r => atHome s r && !behind s r && r.pas.isEmpty
  | none => false
def withBar : State := (bench []).setDie 0 { bar := [(0, { alloc := true, ref := 1, gen := 2, count := 2, left := 1 })] }
theorem test_pool_barrier_passes : let t := issued (.homeRequest 5) (atUnit (.poolArrive 0x00200000 1) withBar)
    ((t.dieAt 0).barrier 0).phase = 1 ∧ ((t.dieAt 0).barrier 0).left = 2 ∧ t.resps.map (fun x => (x.ans.words, x.ans.cond)) = [([w_ 0], true)] := by decide +kernel
theorem test_lease_takes_the_lowest_engine : (issued (.homeRequest 5) (atUnit (.lease 1 7))).resps.map (fun x => x.ans.words) = [[w_ 0x04000000]] := by decide +kernel
theorem witness_BarriersAndUnits : unitNow (atUnit (.barAlloc 3)) ∧ unitNow (atUnit (.barFree 0x00200000) withBar) ∧ unitNow (atUnit (.poolArrive 0x00200000 1) withBar) ∧
    unitNow (atUnit (.poolWait 0x00200000 0 false) withBar) ∧ unitNow (atUnit (.poolTry 0x00300000 0 false) withBar) ∧ unitNow (atUnit (.lease 1 7)) ∧
    unitNow (atUnit (.unlease 0)) ∧ unitNow (atUnit (.query 0)) ∧ unitNow (atUnit (.readSel 0x80000200 2)) ∧ unitNow (atUnit (.writeSel 0x80000200 1 40)) ∧
    unitNow (atUnit (.rearm 0x200)) := by decide +kernel

/-! ### Matrix, custom cells, vectors, inboxes -/

/-- A section of INT8 operands in RUN, one K-step, with a value of 2 in every row and of 3 in every column. -/
def section0 : Matrix := { st := .run, wordB := 0x00010001, total := 1, bufA := [{ vals := List.replicate 8 (w_ 2) }], bufB := [{ vals := List.replicate 8 (w_ 3) }] }
def matrix (m : Matrix) (s : State := bench []) : State := s.updEl e0 (fun e => { e with mx := m })
theorem test_entered_value_accumulates : let t := enterValue section0 [] { vals := List.replicate 8 (w_ 2) } { vals := List.replicate 8 (w_ 3) }
    Map.get t.2 {} 0 = w_ 0x00601806 ∧ t.1.k = 1 := by decide +kernel
theorem witness_MatrixEvents : let s := matrix section0;
    ((issued (.kvalueEnter e0) s).el e0).mx.k = 1 ∧ ((issued (.tileComplete e0) (matrix { section0 with k := 4 })).el e0).mx.st = .hold ∧
    (let d := matrix { section0 with drain := [{ payload := 1 }, { payload := 2 }], drainCh := 1 };
      ((issued (.drainTokenSend e0) d).nd n0).coq 1 = [{ payload := 1 }]) ∧
    (let m := matrix { section0 with bufA := [{ mark := some 0x800 }] };
      ((issued (.matrixMark e0) m).el e0).mx.bufA = []) := by decide +kernel
theorem witness_MatrixAccumulation : Sys2Proof.Claims.field section0.wordA 0 3 ≠ 1 ∧ Sys2Proof.Claims.field section0.wordA 0 3 ≠ 7 := by decide
theorem witness_MatrixConfiguration_legal : atS4 (bench [w_ 0, w_ 0x00010001]) (.mcfg { sa := 1, sb := 2 }) = true := by decide +kernel

/-- CX 3 of domain 0 holds one cell, the sum of the inputs a and b. -/
def cells (resident : Bool) : State :=
  (bench [w_ 5, w_ 6]).updEl e0 (fun e => { e with
    cxmap := [(3, if resident then 0xC000000000000000 else 0x8000000000000000)]
    cxhdr := [(3, 0x0000000000100000)]
    res := if resident then [(0, { used := true, cx := 3, header := 0x0000000000100000, cells := [0x02442801], place := [0] })] else [] })
theorem test_custom_sum : (due (.cx 3 (f123)) (cells true)) = some (3, some (w_ 11)) := by decide +kernel
theorem witness_CustomCells_mapped : clean (cells true) (.cx 3 (f123)) ∧ clean (cells false) (.cx 3 (f123)) ∧
    ((after (.cx 3 (f123)) (bench [w_ 5, w_ 6])).nd n0).cause = 0x02 ∧ ((after (.cx 3 (f123)) (cells false)).nd n0).cause = 0x03 := by decide +kernel
theorem witness_LatchesAndAtomicWords_inbox :
    let s := (store [] [w_ 0, w_ 7]).updEl e0 (fun e => { e with inbox := [(0, { used := true, size := 64, entries := [{ opa := 2, off := 1 }] })] })
    clean s (.aapl { dst := 3, sa := 1 }) ∧ (after (.aapl { dst := 3, sa := 1 }) s).lsWord e0 4 = w_ 9 ∧ reg3 (after (.aapl { dst := 3, sa := 1 }) s) = w_ 7 := by
  decide +kernel
theorem witness_GlobalLoadsAndForwarding_own_store : let s := bufferedStore.updNd n0 (fun nd => { nd with st := .run, flight := none, g := [(2, w_ 0x1000)] })
    forward s (s.el e0).sbuf n0 (s.stampOf n0) false 0x1000 = some (w_ 1) ∧
    reg3 (after (.gld { dst := 3, sa := 2, sb := 4 }) s) = w_ 1 := by decide +kernel
theorem witness_DomainsAndPartitionWords_refused : let e := (bench []).el e0
    partRefused e 0 2 0xFF 0x1FF = true ∧ partRefused e 0 2 0xFF 0x7F = false ∧ partRefused e 1 0 0 1 = true ∧ resourceOf 0 28 = none ∧
    (resourceOf 0 27).isSome = true := by decide +kernel
theorem witness_SystemRegistersAndReturns_resume : let s := (bench []).updNd n0 (fun nd => { nd with st := .faulted, faulting := some { instr := .trap {}, why := .park }, trec := [] })
    ((resumeNode s n0 0x00005A08).map (fun t => ((t.nd n0).st, (t.nd n0).p))) = some (.run, 0x5A) ∧ resumeNode s n0 0x10000 = none ∧ resumeNode (bench []) n0 0 = none := by
  decide +kernel

/-! ### Tasks, queues, courses -/

/-- Die 0 is admitted and holds one record at place 4: state `st`, CNT `n`, KEEP set, generation 0. -/
def withTask (st n : Nat) : State :=
  { bench [] with dadm := 1, clk := true }.setTask 0 4 { w := [(0, BitVec.ofNat 32 (st * 2 ^ 28 + 0x800)), (1, BitVec.ofNat 32 (n * 65536)), (5, 0xFFFFFFFF), (6, 0xFFFFFFFF)] }
/-- A decrement for it has come to its die. -/
def decremented (st n : Nat) : State := { withTask st n with decs := [{ id := 6, leaving := false, ref := 0x00010000 }] }
def taskNow (s : State) : Nat × Nat := ((s.task 0 4).state, (s.task 0 4).cnt)

theorem test_decrement_counts_down : taskNow (issued (.decrementApply 6) (decremented 2 3)) = (2, 2) ∧
    taskNow (issued (.decrementApply 6) (decremented 2 2)) = (8, 0) := by decide +kernel
theorem test_deadline_expires : let s := (withTask 4 0).updTask 0 4 (fun t => { t with w := Map.set (Map.set t.w 5 0) 6 0 })
    (taskNow (issued (.deadlineExpiry 0 4) s)).1 = 9 ∧ (taskNow (issued (.deadlineExpiry 0 4) (withTask 4 0))).1 = 4 := by decide +kernel
theorem witness_TasksRun :
    (let s := decremented 2 3;
      (decsAt s 0).head? = s.decs.head? ∧ s.decs.map DecMsg.id = [6] ∧ (s.dieAt 0).decAt ≠ some s.cycle ∧ decDue s 0 = true ∧
      s.admitted 0 = true) ∧
    readyList (withTask 4 0) 0 = [4] ∧ (withTask 4 0).admitted 0 = true ∧
    (let s := (bench []).setTask 0 4 { w := [(0, 0x10000000), (1, 1)] };
      (match beginPallet s 0 0 0 0 0 none [4] none none with
        | .ok u => (u.dieAt 0).job.map (fun j => (j.first, j.recs.length))
        | .error _ => none) = some (0, 1) ∧
      (match beginPallet s 0 0 0 0 0 none [5] none none with
        | .ok _ => 0
        | .error e => e) = 2) := by decide +kernel

/-- A queue of partition 0 on die 0, mapped in slot 2, with one entry announced: DEC of the record at place 4. Its ring stands in bank 0 of
memory tile 31, where partition 0 reaches it in reduced service. -/
def queued : State :=
  let s : State := { withTask 2 3 with clk := false, dadm := 0x30001, qreg := [{ fn := 0, q := 3 }], part := [(0, { pcb := [(0, 0x90410000)] })], mem := memSetWord (memSetWord [] 0x1000000F80000 0x02000000) 0x1000000F80004 0x00010000 }
  s.setQslot 0 2 { mapped := true, q := 3, rec_ := [(4, 0x00F80000), (5, 0x10000), (8, 3)], bell := 1 }
theorem test_dec_of_a_queue : let t := issued (.dec 0) queued
    t.decs.map (fun m => (m.ref, m.leaving)) = [(0x00010000, false)] ∧ (t.qslot 0 2).head = 1 ∧ (t.dieAt 0).cmdAt = some 0 ∧
    (issued (.dec 0) ((t.setQslot 0 2 { t.qslot 0 2 with bell := 2 }))).decs.length = 1 := by decide +kernel
theorem witness_QueuesAndDoorbells : let s := queued
    queueDue (askRings s 0) 0 = true ∧ nextSlot s 0 = some 2 ∧ (s.queueTouch 0 (s.qslot 0 2) 0x1000000F80000 128 false).2 = true ∧
    s.edgeOpen (s.fnPort 0) = true ∧ (s.queueReg 0 3).isSome = true ∧ (s.queueReg 0 3).bind s.slotOf = some 2 ∧ ((s.dieAt 0).job).isNone = true ∧
    ((issued (.queueDoorbell 0 3 5) s).qslot 0 2).bell = 5 ∧
    ((issued (.queueDoorbell 0 3 8) s).queueReg 0 3).map QReg.err = some 3 ∧ ((issued (.queueDoorbell 0 3 0) s).queueReg 0 3).map QReg.err = some 3 := by
  decide +kernel

/-- Course 3 holds the tile right of column 0 on die 0 with one node; its task is at place 4. -/
def course0 : Course := { nodes := [{ ncfg := 0x00410001, pool := [(0, encode (.nop {}))] }] }
def region0 (st : RegionState) : Region := { id := 3, task := 4, row0 := 0, col0 := 2, st := st, hdr := { w := 1, h := 1 }, course := course0, acked := [2] }
def loading (st : RegionState) : State :=
  { (withTask 5 0).updEl e0 (fun e => { e with region := some 3 }) with region := [(3, region0 st)] }.setNd n0 { ncfg := 0x00410001 }

theorem test_open_starts_the_nodes : let t := issued (.regionOpen 3 2) (loading .loading)
    (t.nd n0).st = .run ∧ (t.nd n0).p = 0x41 ∧ (t.rg 3).st = .running ∧ taskNow t = (6, 0) := by decide +kernel
/-- 18_faults_poison_preemption.md, R380: the four words of a record and a STOP1 enter ci3 of the receiver as far as it has room. -/
theorem test_record_enters_ci3 : let s := { bench [] with traps := [{ leaving := false, dest := some n0, w := [1, 2, 3, 4] }] }
    let t := issued (.trapRecordDelivery 0) s
    ((t.nd n0).ciq 3).map Token.payload = [1, 2, 3, 4] ∧ t.traps.map Trap.left = [[{ kind := 2 }]] := by decide +kernel
theorem witness_CoursesAndTraps : let s := loading .loading
    (Map.find s.region 3).isSome = true ∧ (region0 .loading).holds ⟨0, 2⟩ = true ∧ (region0 .loading).nodesIn 2 = [n0] ∧
    (2 : BitVec 11) ∉ ([3] : List (BitVec 11)) ∧
    (let r := { s with region := [(3, { region0 .running with idle := 40 })] };
      ((issued (.quiescence 3) r).rg 3).st = .draining) ∧
    ((issued (.quiescence 3) { s with region := [(3, { region0 .running with idle := 39 })] }).rg 3).st = .running ∧
    (let r := { s with region := [(3, { region0 .running with stall := 32 })] }.updTask 0 4 (fun t => { t with w := Map.set t.w 7 0x140 });
      (issued (.stallWatchdog 3) r).traps.map (fun x => x.w.headD 0) = [0x0004010E]) := by decide +kernel

/-! ### Streams, engines, the host -/

/-- Memory tile 31, with a stream of one word a place on port 2. -/
def mem31 : TileRef := ⟨0, 31⟩
def streaming (d : List Word) (s : State := bench []) (inq : List Token := []) : State :=
  s.setTport mem31 2 { inq := inq, stream := some { desc := d ++ List.replicate (15 - d.length) 0 ++ [0xFFFFFFFF] ++ List.replicate 16 0 } }
def readDesc : List Word := [0x00000000, 0x20, 0, 0x00000001, 0, 4]
def stored : State := (bench []).storeUnder (tilePa mem31 0x20) 0 (w_ 9)
theorem test_stream_reads_a_word : (((issued (.streamEmit mem31 2) (streaming readDesc stored)).tport mem31 2).stream.map Stream.out) =
    some [{ payload := 9 }] := by decide +kernel
theorem test_stream_writes_a_word : let t := issued (.streamEmit mem31 2) (streaming (0x1 :: readDesc.tail) (bench []) [{ payload := 6 }])
    t.loadUnder (tilePa mem31 0x20) 0 = w_ 6 ∧ (t.tport mem31 2).inq = [] := by decide +kernel
theorem test_tag_counts_and_speaks : let s := { (bench []).updEl e0 (fun e => { e with tag := [(2, { valid := true, node := 0, chan := 1, count := 1 })] }) with
      tags := [{ id := 9, ref := 0x00040400, leaving := false }] }
    let t := issued (.tagAck 9) s
    (Map.get (t.el e0).tag {} 2).arrived = 1 ∧ ((issued (.tagToken e0 2) t).nd n0).ciq 1 = [{ payload := 1 }] := by decide +kernel
theorem witness_StreamsAndTags : let s := streaming readDesc stored
    isMemTile mem31.tile = true ∧ ((s.tport mem31 2).stream).isSome = true ∧ Map.find (s.tl mem31).bankAt 0 = none ∧ s.bankMode mem31 0 = 0 ∧
    (presBank).bankMode mem31 2 = 3 ∧ (issued (.streamEmit mem31 2) (streaming (0x0 :: 0x10000 :: readDesc.drop 2) (presBank))).reqs.map Req.stage = [.deferred] := by
  decide +kernel

/-- 15_asynchronous_engines.md, Worked example: one ZW line. -/
theorem test_zw_line : zwLine [0x11, 0, 0, 0, 0, 0xAB000000, 0, 0, 0, 0, 0, 0, 0, 0, 0, 0] =
    [0x21, 0x00, 0x11, 0x00, 0x00, 0x00, 0x00, 0x00, 0x00, 0xAB] := by decide +kernel

/-- Copy engine 1 of die 0 holds a copy of one word between banks of tile 31, under the reduced translation. -/
def copying : State :=
  let va := 0x1000000000000 + 31 * 0x80000
  let c : EngCmd := { opc := 0xB8, desc := [BitVec.ofNat 32 (va + 0x20), BitVec.ofNat 32 (va / 2 ^ 32), BitVec.ofNat 32 (va + 0x8000), BitVec.ofNat 32 (va / 2 ^ 32), 4] ++ List.replicate 27 0, stamp := { issuer := n0 } }
  stored.setDie 0 { engine := [(1, { leased := true, queue := [c], expiry := some 50 })] }
theorem witness_EnginesAndHostAccesses :
    ((Map.get (copying.dieAt 0).engine {} 1).queue.map EngCmd.ran) = [false] ∧
    (Map.get ((issued (.leaseExpiry 0 0 1) (copying.updDie 0 (fun d => { d with ctr := 50 }))).dieAt 0).engine {} 1).leased = false ∧
    (Map.get ((issued (.leaseExpiry 0 0 1) (copying.updDie 0 (fun d => { d with ctr := 49 }))).dieAt 0).engine {} 1).leased = true ∧
    (let s := { barWord with clk := true, dadm := 0x30001 };
      s.edgeOpen (s.fnPort 0) = true ∧ unitMay s none 0x1000 true = true ∧
      s.barrierAt 0x1000 = true ∧ (issued (.hostFetchadd 0 0x1000 1) s).load64Under 0x1000 0 = 0x0000000002000001 ∧
      (issued (.hostAccess (.read 0x1000)) s).hostAns = some (w_ 0x02000002) ∧ (issued (.hostAccess (.write 0 0x1000 7)) s).hostAns = none) := by decide +kernel

/-! ### Errors, snapshots, management, bring-up -/

theorem test_error_poisons_a_register : ((issued (.uncorrectableError (.greg n0 3)) (bench [w_ 1, w_ 2, w_ 3])).nd n0).gReg 3 = bad 0x0004000C := by decide +kernel
def snapped : State := { loading .running with region := [(3, { region0 .running with snap := some { dom := none, stamp := 0x00010800 } })] }
theorem test_node_aligns : ((issued (.nodeAlign n0) (snapped.updNd n0 (fun nd => { nd with st := .run }))).nd n0).aligned = some .run := by decide +kernel
theorem witness_ErrorsAndSnapshots : let s := snapped.updNd n0 (fun nd => { nd with st := .run })
    (Map.find s.region 3).isSome = true ∧ snapshotDone s 3 { dom := none } = false ∧
    ((issued (.wholeCoursePreempt 3) (loading .running)).rg 3).snap.isSome = true ∧
    (s.rg 3).st = .running ∧ ((loading .loading).rg 3).st = .loading ∧
    snapshotDone ((s.updNd n0 (fun nd => { nd with st := .off, aligned := some .run }))) 3 { dom := some 1 } = true ∧
    s.target 0x1000440000000 = .store ⟨0, 512, 0⟩ 0 := by decide +kernel

/-- The north ring holds one entry, OP in byte 0 with its operands; partition 0 holds node 1 and every engine waits. -/
def ring (ws : List Nat) (s : State := { State.reset with clk := true }) : State :=
  ({ s with dadm := 0x30001 } : State).updHport false (fun p => { p with mrtail := 1, ring := ws.zipIdx.map (fun (x : Nat × Nat) => (x.2, BitVec.ofNat 32 x.1)) })
def status (s : State) : Nat := (Map.get (s.hport false).ring 0 0).toNat / 256 % 256
theorem test_split_gives_two_nodes : let t := issued (.psplit false) (ring [0x11, 0])
    Sys2Proof.Claims.nodeOf t 0 = 2 ∧ Sys2Proof.Claims.nodeOf t 1 = 3 ∧ status t = 0x80 := by decide +kernel
theorem test_merge_needs_a_sibling : status (issued (.pmerge false) (ring [0x12, 0])) = 0x82 ∧ status (issued (.kfree false) (ring [0x22, 7])) = 0x82 ∧
    status (issued (.podrt false) (ring [0x62, 0x01000400])) = 0x83 := by decide +kernel
def entryNow (s : State) : Bool := (s.hport false).mrhead != (s.hport false).mrtail && !(s.hport true).busy && decide ((s.hport true).mrhead = (s.hport true).mrtail)
theorem witness_PartitionAndKeyCommands : entryNow (ring [0x11, 0]) ∧ Sys2Proof.Claims.nodeOf State.reset 0 = 1 ∧ Sys2Proof.Claims.nodeOf State.reset 5 = 0 ∧
    ((issued (.kload false ([0x20, 0x00000009] ++ List.replicate 30 0)) (ring [])).keySlot 9).live = true ∧
    status (issued (.kshare false) (ring [0x21, 9] { State.reset with key := [(9, { live := true })] })) = 0x80 ∧
    (let s := ring [0x31, 5];
      ((issued (.ptear false) s).hport false).busy = true) := by decide +kernel
theorem witness_QueueAndPodCommands : entryNow (ring [0x41, 0x00000000, 3]) ∧ status (issued (.qunreg false) (ring [0x41, 0x00000000, 3])) = 0x82 ∧
    status (issued (.fassign false) ((ring [0x50, 0x00010000]).updHport false (fun p => { p with numVfs := 1 }))) = 0x80 ∧
    status (issued (.fassign false) (ring [0x50, 0x00010000])) = 0x82 ∧
    status (issued (.podgrant false) (ring [0x60, 7, 0, 0x00010000])) = 0x80 ∧ status (issued (.podrevoke false) (ring [0x61, 7, 0])) = 0x82 := by decide +kernel
theorem witness_KilnCommands : State.reset.counter = [] ∧
    (Map.get (issued (.kctr false ([0x70, 0, 0x1234, 0, 5] ++ List.replicate 27 0)) (ring [])).counter {} 5).live = true ∧
    status (issued (.kopen false) (ring [0x76, 0x1000])) = 0x83 ∧ status (issued (.knonce false) (ring [0x72])) = 0x80 := by decide +kernel
theorem witness_LinksAndInterfaces :
    (let g : Grant := { srcMod := 7, srcTenant := 1, rights := 1 }
      let s : State := { State.reset with grant := [g], linkUp := 4 }
      let r : PodMessage := { srcMod := 7, srcTenant := 1, port := 2, tag := 4 };
      (issued (.podRequestArrival r) s).podSent.length + (issued (.podRequestArrival r) s).reqs.length = 1 ∧
      (issued (.podRequestArrival { r with srcMod := 8 }) s).podSent.map (fun x => x.reply.map PodReply.reason) = [some (some 1)] ∧
      (issued (.podRequestArrival { r with port := 3 }) s).podSent = [] ∧
      (issued (.podRequestArrival { r with op := .query, seq := 6 }) s).podSent.map (fun x => x.reply.map PodReply.notTaken) = [some true] ∧
      (issued (.podRequestArrival { r with op := .ack, seq := 6 }) { s with logs := [{ mod := some 7, seq := 6 }, { seq := 6 }] }).logs.length = 1) ∧
    (issued (.podLinkFailure 2) { State.reset with linkUp := 0xFFFF }).linkUp = 0xFFFB ∧
    Map.get (issued (.tdispRequest 4 false) State.reset).tdi .unlocked 4 = .locked ∧
    Map.get (issued (.tdiError 4) State.reset).tdi .unlocked 4 = .error := by decide +kernel
theorem witness_BringUpAndPower :
    (let s := issued (.coldReset { rom := 1 } 2 []) State.reset;
      (issued (.dieAdmit 3) s).dadm = 8 ∧ (issued (.dieAdmit 17) s).dadm = 0x20000 ∧ (issued (.dieAdmit 18) s).dadm = 0 ∧
      (issued (.dieAdmit 0) s).dadm = 0 ∧ (issued (.dieAdmit 1) s).dadm = 0 ∧ (issued (.dieAdmit 3) State.reset).dadm = 0 ∧
      (issued (.dieAdmit 3) s).admitted 3 = false ∧ (endCycle (issued (.dieAdmit 3) s)).admitted 3 = true) ∧
    (issued (.thermalThrottle 3 104) State.reset).throttled = 0 ∧ (issued (.thermalThrottle 3 105) State.reset).throttled = 8 ∧
    (issued (.thermalRecover 3 100) { State.reset with throttled := 8 }).throttled = 8 ∧ (issued (.thermalRecover 3 99) { State.reset with throttled := 8 }).throttled = 0 ∧
    (issued (.thermalRemoval 3 115) { State.reset with dadm := 8 }).dadm = 0 ∧ (issued (.thermalRemoval 3 114) { State.reset with dadm := 8 }).dadm = 8 ∧
    (issued .clockSwitch { State.reset with dadm := 8, full := 8 }).clk = true ∧ (issued .clockSwitch { State.reset with dadm := 8 }).clk = false := by decide +kernel
theorem witness_DecodeInvertsEncode : Instr.wf (.add (f123)) = true ∧ (Instr.add (f123)).fields = some (f123) := by decide
theorem witness_CanonicalWords : decode (encode (.add (f123))) = .ok (.add (f123)) ∧ decode 0x0000FFFFF0000000 = .error .ill := by decide +kernel
theorem witness_RepresentableNumbersAreExact : Sys2Proof.Claims.nanOf fmtFp16 0x3C00 = false ∧ Sys2Proof.Claims.nanOf fmtFp16 0x7C01 = true ∧
    (0x3C00 : Nat) < 2 ^ (fmtFp16.ew + fmtFp16.mw + 1) := by decide +kernel
theorem witness_NumbersStayDistinct : Sys2Proof.Claims.Numbered { asked (.node n0) (.load 1) [0x1000] with serial := 6 } := by
  unfold Sys2Proof.Claims.Numbered Sys2Proof.Claims.allRequests
  decide +kernel
end Sys2Proof.Tests
end

section
/-! SUPPORT. What the housekeeping of a clock cycle and of a retirement leaves alone: the cycle, the issues chosen, the marks of
admission and temperature, the die counters and the task records. -/

namespace Sys2Proof.Machine

/-- What a step that only sends messages, moves tokens, writes memory or answers requests leaves alone. A task record counts
without the streams that its predecessors broke, which a discarded course may add to in any record (R255). -/
structure Still where
  cycle : Nat
  picks : List Cursor
  throttled : BitVec 18
  capped : BitVec 18
  dadm : BitVec 18
  stfail : BitVec 18
  temp : Map Nat
  ctr : BitVec 4 → Nat
  task : BitVec 4 → Nat → Task

/-- A task record without the streams that its predecessors broke. -/
def Task.mended (t : Task) : Task := { t with broken := [] }

/-- The still part of a state. -/
def State.still (s : State) : Still where
  cycle := s.cycle
  picks := s.picks
  throttled := s.throttled
  capped := s.capped
  dadm := s.dadm
  stfail := s.stfail
  temp := s.temp
  ctr d := (s.dieAt d).ctr
  task d i := (s.task d i).mended

/-- The still part without the task records, which staging and retirement change. -/
def Still.clock (v : Still) : Still := { v with task := fun _ _ => {} }

/-- The still part without the issues chosen, from which a node that enters OFF is taken (R42). -/
def Still.unpicked (v : Still) : Still := { v with picks := [] }

/-- The still part with one task record replaced. -/
def Still.setTask (v : Still) (d : BitVec 4) (i : Nat) (t : Task) : Still :=
  { v with task := fun d' i' => if d' = d ∧ i' = i then t else v.task d' i' }

@[simp] theorem Still.clock_setTask (v : Still) (d : BitVec 4) (i : Nat) (t : Task) : (v.setTask d i t).clock = v.clock := rfl
@[simp] theorem Still.unpicked_setTask (v : Still) (d : BitVec 4) (i : Nat) (t : Task) :
    (v.setTask d i t).unpicked = v.unpicked.setTask d i t := rfl
@[simp] theorem Still.setTask_self (v : Still) (d : BitVec 4) (i : Nat) : v.setTask d i (v.task d i) = v := by
  simp only [Still.setTask]
  congr
  funext d' i'
  split
  · next h => rw [h.1, h.2]
  · rfl

variable {s : State}

/-- An update of the other fields leaves the still part. -/
@[simp] theorem still_with (agenda closing cur serial taken node elem tile mem wmeta lineKey posted edge net grants fanout reqs resps logs
    tags replays traps decs podSent region part key hbmode ddr qreg turn port pasidGen vfPart tdi ats podid route linkUp grant
    hostAns counter nonce booted admitting fwfail rom clk fwmeas full inlet spent spentLast cap cecnt dstale dover) :
    ({ s with
        agenda := agenda, closing := closing, cur := cur, serial := serial, taken := taken, node := node, elem := elem
        tile := tile, mem := mem, wmeta := wmeta, lineKey := lineKey, posted := posted, edge := edge, net := net
        grants := grants, fanout := fanout, reqs := reqs, resps := resps, logs := logs, tags := tags, replays := replays
        traps := traps, decs := decs, podSent := podSent, region := region, part := part, key := key, hbmode := hbmode
        ddr := ddr, qreg := qreg, turn := turn, port := port, pasidGen := pasidGen, vfPart := vfPart, tdi := tdi, ats := ats
        podid := podid, route := route, linkUp := linkUp, grant := grant, hostAns := hostAns, counter := counter
        nonce := nonce, booted := booted, admitting := admitting, fwfail := fwfail, rom := rom, clk := clk
        fwmeas := fwmeas, full := full, inlet := inlet, spent := spent, spentLast := spentLast, cap := cap, cecnt := cecnt
        dstale := dstale, dover := dover } : State).still = s.still := rfl

@[simp] theorem still_setNd (n : NodeRef) (v : Node) : (s.setNd n v).still = s.still := rfl
@[simp] theorem still_setEl (e : ElemRef) (v : Elem) : (s.setEl e v).still = s.still := rfl
@[simp] theorem still_setTl (t : TileRef) (v : MTile) : (s.setTl t v).still = s.still := rfl
@[simp] theorem still_setRg (i : Nat) (v : Region) : (s.setRg i v).still = s.still := rfl
@[simp] theorem still_setPt (p : BitVec 5) (v : Partition) : (s.setPt p v).still = s.still := rfl
@[simp] theorem still_setEd (i : Nat) (v : Edge) : (s.setEd i v).still = s.still := rfl
@[simp] theorem still_setFo (i : Nat) (v : Fanout) : (s.setFo i v).still = s.still := rfl
@[simp] theorem still_setMeta (pa : Nat) (v : WMeta) : (s.setMeta pa v).still = s.still := rfl

theorem dieAt_setDie (d d' : BitVec 4) (v : Die) : (s.setDie d v).dieAt d' = if d' = d then v else s.dieAt d' := by
  split
  · next h => rw [h, State.dieAt_setDie_self]
  · next h => exact State.dieAt_setDie_ne _ _ h

@[simp] theorem still_setDie {d : BitVec 4} {v : Die} (hc : v.ctr = (s.dieAt d).ctr) (ht : v.task = (s.dieAt d).task) :
    (s.setDie d v).still = s.still := by
  simp only [State.still, State.task, dieAt_setDie, State.setDie_cycle, State.setDie_picks, State.setDie_throttled,
    State.setDie_capped, State.setDie_dadm, State.setDie_stfail, State.setDie_temp, Still.mk.injEq, true_and]
  constructor
  · funext d'
    split
    · next h => rw [h, hc]
    · rfl
  · funext d' i
    split
    · next h => rw [h, ht]
    · rfl

@[simp] theorem still_setTask (d : BitVec 4) (i : Nat) (t : Task) : (s.setTask d i t).still = s.still.setTask d i t.mended := by
  simp only [State.still, State.setTask, State.updDie_eq, Still.setTask, State.task, dieAt_setDie, State.setDie_cycle,
    State.setDie_picks, State.setDie_throttled, State.setDie_capped, State.setDie_dadm, State.setDie_stfail, State.setDie_temp,
    Still.mk.injEq, true_and]
  constructor
  · funext d'
    split
    · next h => rw [h]
    · rfl
  · funext d' i'
    by_cases hd : d' = d
    · subst hd
      by_cases hi : i' = i <;> simp [hi, Map.get_set]
    · simp [hd]

@[simp] theorem still_updTask (d : BitVec 4) (i : Nat) (f : Task → Task) :
    (s.updTask d i f).still = s.still.setTask d i (f (s.task d i)).mended := still_setTask d i _

/-- A record that is given more broken streams counts as it stood. -/
theorem still_updTask_of_mended {d : BitVec 4} {i : Nat} {f : Task → Task} (h : (f (s.task d i)).mended = (s.task d i).mended) :
    (s.updTask d i f).still = s.still := by
  rw [still_updTask, h]
  exact Still.setTask_self s.still d i

/-- A fold of steps that leave a part of the state leaves it. -/
theorem foldl_keeps {α β σ : Type} {v : σ → β} {g : σ → α → σ} (h : ∀ s x, v (g s x) = v s) (l : List α) (s : σ) :
    v (l.foldl g s) = v s := by
  induction l generalizing s with
  | nil => rfl
  | cons x l ih => rw [List.foldl_cons, ih, h]

end Sys2Proof.Machine
end

section
/-! SUPPORT. The operations on messages, memory, walks, queues and decrements that leave the still part. -/

namespace Sys2Proof.Machine
variable {s : State}

/-! ## Messages, requests and signals -/

@[simp] theorem still_setReq (r : Req) : (s.setReq r).still = s.still := rfl
@[simp] theorem still_dropReq (id : Nat) : (s.dropReq id).still = s.still := rfl
@[simp] theorem still_dropResp (id : Nat) : (s.dropResp id).still = s.still := rfl
@[simp] theorem still_answer (r : Req) (a : Answer) : (s.answer r a).still = s.still := rfl
@[simp] theorem still_free : s.free.2.still = s.still := rfl
@[simp] theorem still_fresh : s.fresh.2.still = s.still := rfl
@[simp] theorem still_updQreg (fn : BitVec 12) (q : BitVec 6) (f : QReg → QReg) : (s.updQreg fn q f).still = s.still := rfl
@[simp] theorem still_updHport (south : Bool) (f : HostPort → HostPort) : (s.updHport south f).still = s.still := rfl
@[simp] theorem still_sendTrap (d n : Option NodeRef) (p : BitVec 5) (w : List Word) : (s.sendTrap d n p w).still = s.still := rfl
@[simp] theorem still_injectTokens (e : Edge) (ts : List Token) : (injectTokens s e ts).still = s.still := rfl
@[simp] theorem still_dropFlits : (dropFlits s).still = s.still := rfl

@[simp] theorem still_signal (fn : BitVec 12) (vec : Nat) : (s.signal fn vec).still = s.still := by
  unfold State.signal
  repeat' split
  all_goals simp

@[simp] theorem still_askHost (tlb : Mmu) (who : Requester) (st : Stamp) (va : Nat) (write : Bool) :
    (askHost s tlb who st va write).still = s.still := by
  unfold askHost
  dsimp only
  repeat' split
  all_goals simp

/-! ## Memory and its caches -/

@[simp] theorem still_storeWord (pa : Nat) (w : PWord) : (s.storeWord pa w).still = s.still := rfl

@[simp] theorem still_takeLine (pa : Nat) (k : BitVec 13) : (s.takeLine pa k).still = s.still := by
  unfold State.takeLine
  dsimp only
  repeat' split
  all_goals simp

@[simp] theorem still_storeUnder (pa : Nat) (k : BitVec 13) (w : PWord) : (s.storeUnder pa k w).still = s.still := by
  simp [State.storeUnder]

@[simp] theorem still_storeByteUnder (pa : Nat) (k : BitVec 13) (b : Byte) : (s.storeByteUnder pa k b).still = s.still := by
  simp [State.storeByteUnder]

@[simp] theorem still_setCacheSet (d : BitVec 4) (i : Nat) (q : List CacheLine) : (s.setCacheSet d i q).still = s.still := by
  simp [State.setCacheSet]

@[simp] theorem still_useLine (p : BitVec 5) (pa : Nat) (k : BitVec 13) (write nc : Bool) :
    (s.useLine p pa k write nc).still = s.still := by
  unfold State.useLine
  split <;> simp

@[simp] theorem still_reeval (pa : Nat) : (reeval s pa).still = s.still := by
  refine foldl_keeps (v := State.still) (fun s r => ?_) _ _
  split
  · split <;> simp
  · rfl

@[simp] theorem still_homeStore (pa : Nat) (k : BitVec 13) (w : PWord) : (homeStore s pa k w).still = s.still := by
  unfold homeStore
  split <;> simp

@[simp] theorem still_landPosted (x : Posted) : (landPosted s x).still = s.still := by
  simp [landPosted]

@[simp] theorem still_hostTick : (hostTick s).still = s.still := by
  unfold hostTick
  dsimp only
  repeat' split
  all_goals simp

/-! ## Walks -/

@[simp] theorem still_useTenant (p : BitVec 5) (tenant : BitVec 16) : (s.useTenant p tenant).still = s.still := by
  unfold State.useTenant
  repeat' split
  all_goals simp

@[simp] theorem still_noteReads (die : BitVec 4) (p : BitVec 5) (key : BitVec 13) (rs : List (Nat × TableEntry)) :
    (s.noteReads die p key rs).still = s.still := by
  refine foldl_keeps (v := State.still) (fun s x => ?_) _ _
  dsimp only
  repeat' split
  all_goals simp

@[simp] theorem still_walkNoted (die : BitVec 4) (p : BitVec 5) (tenant : BitVec 16) (va : Nat) :
    (s.walkNoted die p tenant va).1.still = s.still := by
  unfold State.walkNoted
  dsimp only
  repeat' split
  all_goals simp

@[simp] theorem still_startWalk (st : Stamp) (page : Nat) (t : Option TileRef) : (startWalk s st page t).still = s.still := by
  unfold startWalk
  dsimp only
  repeat' split
  all_goals simp

@[simp] theorem still_addTlb (die : BitVec 4) (t : Option TileRef) (e : Option TlbEntry) : (s.addTlb die t e).still = s.still := by
  cases t <;> simp [State.addTlb]

@[simp] theorem still_endWalk (st : Stamp) (page : Nat) : (endWalk s st page).still = s.still := by
  unfold endWalk
  dsimp only
  split
  · rfl
  · rw [foldl_keeps (v := State.still) (fun s t => still_addTlb _ t _)]
    split <;> simp

@[simp] theorem still_walkNow (st : Stamp) (vas : List Nat) : (walkNow s st vas).1.still = s.still := by
  refine foldl_keeps (v := fun a : State × Bool => a.1.still) (fun a page => ?_) _ (s, true)
  dsimp only
  split <;> simp

@[simp] theorem still_unitUses (m : Mmu) (st : Stamp) (va : Nat) (p : Nat × BitVec 13) (write : Bool) :
    (unitUses s m st va p write).still = s.still := by
  simp [unitUses]

@[simp] theorem still_unitTouch (st : Stamp) (va n : Nat) (write : Bool) : (unitTouch s st va n write).1.still = s.still := by
  refine (foldl_keeps (v := State.still) (fun s va => ?_) _ _).trans (still_walkNow st _)
  dsimp only
  split <;> simp

@[simp] theorem still_startWalks : (startWalks s).still = s.still :=
  foldl_keeps (v := State.still) (fun _ _ => foldl_keeps (v := State.still) (fun _ _ => still_startWalk _ _ _) _ _) _ _

/-! ## Partition addresses and the event log -/

@[simp] theorem still_usePart (p : BitVec 5) (a n : Nat) (k : BitVec 13) (write : Bool) : (s.usePart p a n k write).still = s.still := by
  refine foldl_keeps (v := State.still) (fun s a => ?_) _ _
  have walks : ∀ (t : State) key (rs : List (Nat × TableEntry)),
      (rs.foldl (fun (s : State) x => s.useLine p x.2.pa key false false) t).still = t.still :=
    fun _ _ _ => foldl_keeps (v := State.still) (fun _ _ => still_useLine _ _ _ _ _) _ _
  dsimp only
  repeat' split
  all_goals simp [walks]

@[simp] theorem still_writePart (p : BitVec 5) (a : Nat) (k : BitVec 13) (bs : List Byte) :
    (s.writePart p a k bs).1.still = s.still := by
  refine (foldl_keeps (v := fun a : State × Bool => a.1.still) (fun acc x => ?_) _ _).trans (still_usePart p a _ k true)
  split <;> simp

/-- The definition is unfolded before it is applied: applied, the kernel would run the two writes of its body. -/
@[simp] theorem still_logRepeat (part : BitVec 5) (n : Nat) : (logRepeat s part n).still = s.still := by
  suffices h : ∀ f, f = logRepeat → (f s part n).still = s.still from h _ rfl
  intro f hf
  delta logRepeat at hf
  subst hf
  exact (still_writePart ..).trans (still_setPt ..)

@[simp] theorem still_logEvent (part : BitVec 5) (origin : Word) (cause : BitVec 8) (die : BitVec 5) :
    (logEvent s part origin cause die).still = s.still := by
  unfold logEvent
  dsimp only
  repeat' split
  all_goals simp

@[simp] theorem still_logDie (part : BitVec 5) (origin : Word) (cause : BitVec 8) (die : BitVec 4) :
    (logDie s part origin cause die).still = s.still := still_logEvent ..

@[simp] theorem still_logStale (d : BitVec 4) (p : BitVec 5) : (logStale s d p).still = s.still := still_logDie ..

/-! ## Queues and completion records -/

@[simp] theorem still_setQslot (d : BitVec 4) (i : Nat) (q : QSlot) : (s.setQslot d i q).still = s.still := by
  simp [State.setQslot]

@[simp] theorem still_queueTouch (die : BitVec 4) (q : QSlot) (va n : Nat) (write : Bool) :
    (s.queueTouch die q va n write).1.still = s.still := by
  refine (foldl_keeps (v := State.still) (fun s va => ?_) _ _).trans (still_walkNow _ _)
  split <;> simp

@[simp] theorem still_queueWrite (die : BitVec 4) (q : QSlot) (va : Nat) (ws : List Word) :
    (s.queueWrite die q va ws).1.still = s.still := by
  refine foldl_keeps (v := fun a : State × Bool => a.1.still) (fun acc x => ?_) _ (s, true)
  split <;> simp

@[simp] theorem still_regError (fn : BitVec 12) (q : BitVec 6) (reason : Nat) : (regError s fn q reason).still = s.still := by
  unfold regError
  dsimp only
  repeat' split
  all_goals simp

@[simp] theorem still_queueError (die : BitVec 4) (slot reason : Nat) : (queueError s die slot reason).still = s.still := by
  unfold queueError
  dsimp only
  split <;> simp

@[simp] theorem still_unmapSlot (d : BitVec 4) (i : Nat) : (unmapSlot s d i).still = s.still := by
  unfold unmapSlot
  dsimp only
  split <;> simp

@[simp] theorem still_mapInto (r : QReg) (i : Nat) : (mapInto s r i).still = s.still := by
  unfold mapInto
  dsimp only
  repeat' split
  all_goals simp

@[simp] theorem still_judge (r : QReg) (i : Nat) (v : Word) : (judge s r i v).still = s.still := by
  unfold judge
  dsimp only
  split <;> simp

@[simp] theorem still_ringWrite (d : BitVec 4) (slot : Nat) (ws : List Word) : (ringWrite s d slot ws).still = s.still := by
  unfold ringWrite
  dsimp only
  repeat' split
  all_goals simp

@[simp] theorem still_mapAndServe (r : QReg) (i : Nat) : (mapAndServe s r i).still = s.still := by
  have served : ∀ t : State, (r.pend.foldl (fun s ws => ringWrite s r.die i ws) t).still = t.still :=
    foldl_keeps (v := State.still) (fun _ _ => still_ringWrite _ _ _) _
  unfold mapAndServe
  dsimp only
  repeat' split
  all_goals simp [served]

@[simp] theorem still_wantSlot (r : QReg) : (wantSlot s r).still = s.still := by
  unfold wantSlot
  dsimp only
  repeat' split
  all_goals simp

@[simp] theorem still_completion (d : BitVec 4) (slot : BitVec 6) (own : Option (BitVec 12 × BitVec 6)) (ref : Word) (st cause : Nat) :
    (completion s d slot own ref st cause).still = s.still := by
  unfold completion
  dsimp only
  repeat' split
  all_goals simp

/-! ## Decrements and leases -/

@[simp] theorem still_sendDec (src : BitVec 4) (ref : Word) (exp : Bool) (rb : Option Nat) (part : BitVec 5) (node : Option NodeRef) :
    (sendDec s src ref exp rb part node).still = s.still := by
  unfold sendDec
  dsimp only
  split <;> simp

@[simp] theorem still_sendDecRemote (die : BitVec 4) (m : BitVec 10) (tenant : BitVec 16) (ref : Word) (exp : Bool) (rb : Option Nat) :
    (sendDecRemote s die m tenant ref exp rb).still = s.still := by
  unfold sendDecRemote
  split <;> simp

@[simp] theorem still_sendSuccessor (d : BitVec 4) (t : Task) (e : DWord) (exp : Bool) (rb : Option Nat) :
    (sendSuccessor s d t e exp rb).still = s.still := by
  unfold sendSuccessor
  dsimp only
  split <;> simp

@[simp] theorem still_leaseRetire (die : BitVec 4) (part : BitVec 5) : (leaseRetire s die part).still = s.still := by
  simp [leaseRetire]

end Sys2Proof.Machine
end

section
/-! SUPPORT. What the mortar, retirement, staging and pallets change of the still part. -/

namespace Sys2Proof.Machine
variable {s : State}

/-! ## The mortar at the end of a cycle -/

@[simp] theorem still_arriveDec (m : DecMsg) : (arriveDec s m).still = s.still := by
  unfold arriveDec
  dsimp only
  repeat' split
  all_goals simp

@[simp] theorem still_arriveFlit (f : Flit) : (arriveFlit s f).still = s.still := by
  unfold arriveFlit
  repeat' split
  all_goals simp

@[simp] theorem still_moveFlit (f : Flit) : (moveFlit s f).still = s.still := by
  unfold moveFlit
  dsimp only
  repeat' split
  all_goals simp

@[simp] theorem still_moveNet : (moveNet s).still = s.still :=
  foldl_keeps (v := State.still) (fun _ _ => still_moveFlit _) _ _

@[simp] theorem still_enterWaiting : (enterWaiting s).still = s.still := rfl

@[simp] theorem still_latchLeaves (r : Req) : (latchLeaves s r).still = s.still := by
  unfold latchLeaves
  split <;> simp

@[simp] theorem still_launchMessages : (launchMessages s).still = s.still := by
  have left : ∀ l : List Req, (l.foldl latchLeaves s).still = s.still :=
    fun l => foldl_keeps (v := State.still) (fun _ _ => still_latchLeaves _) l s
  simp [launchMessages, left]

@[simp] theorem still_launchCredits : (launchCredits s).still = s.still := by
  refine foldl_keeps (v := State.still) (fun s e => ?_) _ _
  dsimp only
  repeat' split
  all_goals simp

@[simp] theorem still_settleCredits : (settleCredits s).still = s.still := rfl

@[simp] theorem still_netTick : (netTick s).still = s.still := by
  simp [netTick]

@[simp] theorem still_regionTicks : (regionTicks s).still = s.still := rfl

/-! ## Retirement -/

theorem mended_task (d : BitVec 4) (i : Nat) : (s.task d i).mended = s.still.task d i := rfl

@[simp] theorem Still.task_setTask_self (v : Still) (d : BitVec 4) (i : Nat) (t : Task) : (v.setTask d i t).task d i = t := by
  simp [Still.setTask]

@[simp] theorem Still.setTask_setTask (v : Still) (d : BitVec 4) (i : Nat) (t u : Task) :
    (v.setTask d i t).setTask d i u = v.setTask d i u := by
  simp only [Still.setTask]
  congr
  funext d' i'
  split <;> rfl

/-- A record with its retirement's STATE (R250). -/
def Task.closed (t : Task) (st : Nat) : Task :=
  { t.setField 0 28 4 st with
    staged := []
    stuck := false
    paged := false
    front := false }

/-- A record as its retirement leaves it (R250): FREE where KEEP is 0. -/
def Task.retired (t : Task) (st : Nat) : Task := if (t.closed st).keep then t.closed st else (t.closed st).free

/-- A retirement changes the still part in its own record alone. -/
@[simp] theorem still_retire (d : BitVec 4) (i : Nat) (st : Nat) :
    (retire s d i st).still = s.still.setTask d i ((s.task d i).mended.retired st) := by
  unfold retire
  extract_lets _ t u rb v code w x
  have hv : v.still = s.still.setTask d i t.mended := by
    refine (foldl_keeps (v := State.still) (fun s k => ?_) _ _).trans (still_setTask d i t)
    dsimp only
    split <;> simp
  have hw : w.still = v.still := by
    unfold w
    split <;> simp
  have hx : x.still = s.still.setTask d i t.mended := by simp [x, hw, hv]
  have ht : (s.task d i).mended.closed st = t.mended := rfl
  have hf : (x.task d i).free.mended = t.mended.free := by
    have h : (x.task d i).mended = t.mended := by rw [mended_task, hx, Still.task_setTask_self]
    rw [← h]
    rfl
  rw [Task.retired, ht]
  by_cases hk : t.keep
  · rw [if_pos hk, hx]
    exact congrArg _ (if_pos hk).symm
  · rw [if_neg hk, still_setTask, hf, hx, Still.setTask_setTask]
    exact congrArg _ (if_neg hk).symm

@[simp] theorem still_failTask (d : BitVec 4) (i : Nat) (cause : BitVec 8) :
    (failTask s d i cause).still = s.still.setTask d i (((s.task d i).mended.setField 8 0 8 cause.toNat).retired 10) := by
  rw [failTask, still_retire, still_updTask, mended_task, still_updTask, Still.task_setTask_self, Still.setTask_setTask]
  rfl

/-! ## Entry to STAGING -/

/-- A map of which every value keeps its key and a part of itself keeps that part everywhere. -/
theorem get_map_keeps {α β : Type} {g : Nat × α → Nat × α} {v : α → β} (hk : ∀ x, (g x).1 = x.1) (hv : ∀ x, v (g x).2 = v x.2)
    (m : Map α) (d : α) (k : Nat) : v (Map.get (m.map g) d k) = v (Map.get m d k) := by
  induction m with
  | nil => rfl
  | cons x m ih =>
    simp only [Map.get, List.map_cons, Map.find] at ih ⊢
    rw [hk x]
    split
    · exact hv x
    · exact ih

@[simp] theorem still_hodTrap (d : BitVec 4) (p : BitVec 5) (b : Nat) (cause : BitVec 8) (va : Nat) :
    (hodTrap s d p b cause va).still = s.still := rfl

@[simp] theorem still_useBindings (p : BitVec 5) (t : Task) : (useBindings s p t).still = s.still := by
  refine foldl_keeps (v := State.still) (fun s i => ?_) _ _
  split <;> simp

@[simp] theorem still_useRanges (d : BitVec 4) (t : Task) : (useRanges s d t).1.still = s.still := by
  refine foldl_keeps (v := fun a : State × Bool => a.1.still) (fun acc b => ?_) _ (s, true)
  simp

@[simp] theorem clock_holdTask (d : BitVec 4) (i : Nat) (e : Nat × BitVec 8 × Nat) : (holdTask s d i e).still.clock = s.still.clock := by
  simp [holdTask]

@[simp] theorem clock_deliverRange (x : Nat × Nat × BitVec 13) (ws : List PWord) : (deliverRange s x ws).still.clock = s.still.clock := by
  have hc : ∀ d, ((deliverRange s x ws).dieAt d).ctr = (s.dieAt d).ctr := fun d =>
    get_map_keeps (v := Die.ctr) (by intro _; rfl) (by intro _; rfl) s.die {} d.toNat
  simp only [Still.clock, State.still, hc]
  rfl

@[simp] theorem clock_shareRanges (d : BitVec 4) (t : Task) (xs : List (Nat × List PWord)) :
    (shareRanges s d t xs).still.clock = s.still.clock := by
  refine foldl_keeps (v := fun s : State => s.still.clock) (fun s x => ?_) _ _
  repeat' split
  all_goals simp

@[simp] theorem clock_finishStaging (d : BitVec 4) (i : Nat) : (finishStaging s d i).still.clock = s.still.clock := by
  unfold finishStaging
  dsimp only
  repeat' split
  all_goals simp

@[simp] theorem clock_bindTask (d : BitVec 4) (i : Nat) : (bindTask s d i).still.clock = s.still.clock := by
  unfold bindTask
  dsimp only
  repeat' split
  all_goals simp

@[simp] theorem clock_enter (d : BitVec 4) (i : Nat) : (enter s d i).still.clock = s.still.clock := by
  unfold enter
  dsimp only
  repeat' split
  all_goals simp

/-! ## Pallets and the die counters -/

@[simp] theorem still_endPallet (d : BitVec 4) (j : PalletJob) : (endPallet s d j).still = s.still := by
  unfold endPallet
  dsimp only
  repeat' split
  all_goals simp

@[simp] theorem clock_palletTick (d : BitVec 4) : (palletTick s d).still.clock = s.still.clock := by
  unfold palletTick
  dsimp only
  repeat' split
  all_goals simp

@[simp] theorem clock_palletTicks : (palletTicks s).still.clock = s.still.clock :=
  foldl_keeps (v := fun s : State => s.still.clock) (fun _ _ => clock_palletTick _) _ _

end Sys2Proof.Machine
end

section
/-! PROOF. A step runs the event that takes place, or ends a clock cycle (O7). -/
namespace Sys2Proof.Machine
variable {s : State}

/-! ## The end of a cycle -/

/-- The state in which the die counters advance. -/
def beforeCounters (s : State) : State := palletTicks (regionTicks (hostTick (startWalks (netTick s))))

/-- The state from which `endCycle` chooses the issues of the next cycle. -/
def beforePicks (s : State) : State :=
  { dieCounters (beforeCounters s) with
    closing := false
    admitting := 0
    cycle := (dieCounters (beforeCounters s)).cycle + 1 }

theorem endCycle_eq : endCycle s = { beforePicks s with picks := picksOf (beforePicks s) } := rfl

theorem endCycle_closing : (endCycle s).closing = false := rfl
theorem endCycle_picks : (endCycle s).picks = picksOf (beforePicks s) := by rw [endCycle_eq]

theorem clock_beforeCounters : (beforeCounters s).still.clock = s.still.clock := by
  simp [beforeCounters]

section
variable {t : State} (h : t.still.clock = s.still.clock)
include h

theorem picks_of_clock : t.picks = s.picks := congrArg Still.picks h
theorem cycle_of_clock : t.cycle = s.cycle := congrArg Still.cycle h
theorem throttled_of_clock : t.throttled = s.throttled := congrArg Still.throttled h
theorem capped_of_clock : t.capped = s.capped := congrArg Still.capped h
theorem ctr_of_clock (d : BitVec 4) : (t.dieAt d).ctr = (s.dieAt d).ctr := congrArg (fun v => Still.ctr v d) h

end

/-- A die counts one cycle more. -/
def countDie (s : State) (d : Nat) : State := s.updDie (BitVec.ofNat 4 d) (fun x => { x with ctr := x.ctr + 1 })

theorem dieCounters_eq : dieCounters s = ((List.range 16).filter s.ticks).foldl countDie s := rfl

theorem countDies_ctr (d : BitVec 4) (l : List Nat) (hn : l.Nodup) (hl : ∀ x ∈ l, x < 16) (s : State) :
    ((l.foldl countDie s).dieAt d).ctr = (s.dieAt d).ctr + if d.toNat ∈ l then 1 else 0 := by
  induction l generalizing s with
  | nil => rfl
  | cons x l ih =>
    rw [List.nodup_cons] at hn
    have hx : x < 16 := hl x (List.mem_cons_self ..)
    rw [List.foldl_cons, ih hn.2 (fun y hy => hl y (List.mem_cons_of_mem _ hy))]
    by_cases hd : d.toNat = x
    · subst hd
      simp [countDie, hn.1]
    · have hne : d ≠ BitVec.ofNat 4 x := by
        rintro rfl
        exact hd (by simp only [BitVec.toNat_ofNat]; omega)
      simp [countDie, dieAt_setDie, hne, hd]

/-- A die that is neither throttled nor capped counts every cycle (R433, R466). -/
theorem ticks_of_free {d : Nat} (ht : s.throttled.getLsbD d = false) (hc : s.capped.getLsbD d = false) : s.ticks d = true := by
  simp [State.ticks, bitAt, ht, hc]

theorem ticks_beforeCounters {d : Nat} (ht : s.throttled.getLsbD d = false) (hc : s.capped.getLsbD d = false) :
    (beforeCounters s).ticks d = true := by
  apply ticks_of_free
  · rwa [throttled_of_clock clock_beforeCounters]
  · rwa [capped_of_clock clock_beforeCounters]

/-- The counter of a die advances in the cycles that the die does not skip (R9). -/
theorem dieCounters_ctr (d : BitVec 4) :
    ((dieCounters s).dieAt d).ctr = (s.dieAt d).ctr + if s.ticks d.toNat then 1 else 0 := by
  have h := countDies_ctr d ((List.range 16).filter s.ticks) (List.nodup_range.filter _)
    (fun x hx => List.mem_range.mp (List.mem_of_mem_filter hx)) s
  have hd : d.toNat ∈ (List.range 16).filter s.ticks ↔ s.ticks d.toNat = true := by
    simp [List.mem_filter, d.isLt]
  rw [dieCounters_eq]
  simpa only [hd] using h

theorem dieCounters_picks : (dieCounters s).picks = s.picks :=
  foldl_keeps (v := State.picks) (g := countDie) (fun _ _ => rfl) _ s
theorem dieCounters_cycle : (dieCounters s).cycle = s.cycle :=
  foldl_keeps (v := State.cycle) (g := countDie) (fun _ _ => rfl) _ s

theorem endCycle_cycle : (endCycle s).cycle = s.cycle + 1 := by
  have h : (endCycle s).cycle = (dieCounters (beforeCounters s)).cycle + 1 := rfl
  rw [h, dieCounters_cycle, cycle_of_clock clock_beforeCounters]

theorem endCycle_ctr (d : BitVec 4) :
    ((endCycle s).dieAt d).ctr = (s.dieAt d).ctr + if (beforeCounters s).ticks d.toNat then 1 else 0 := by
  have h : (endCycle s).dieAt d = (dieCounters (beforeCounters s)).dieAt d := rfl
  rw [h, dieCounters_ctr, ctr_of_clock clock_beforeCounters]

/-- Where no issue is left, the next ones are chosen from the state that the cycle leaves. -/
theorem beforePicks_of_nil (h : s.picks = []) : beforePicks s = { endCycle s with picks := [] } := by
  have hp : (beforePicks s).picks = [] := by
    have h' : (beforePicks s).picks = (dieCounters (beforeCounters s)).picks := rfl
    rw [h', dieCounters_picks, picks_of_clock clock_beforeCounters, h]
  rw [endCycle_eq, ← hp]

/-! ## The issues of a cycle -/

/-- A slot that issues is one of the sixteen. -/
theorem readySlot_lt {n : NodeRef} {k : Nat} (h : readySlot s n = some k) : k < 16 := by
  have hk : k ∈ slotOrder (s.nd n) := List.mem_of_find?_eq_some h
  unfold slotOrder at hk
  split at hk
  · rcases List.mem_cons.mp hk with rfl | hk
    · exact BitVec.isLt _
    · exact List.mem_range.mp hk
  · exact List.mem_range.mp hk

theorem select_slot_lt {e : ElemRef} {n : NodeRef} {k : Nat} (h : select s e = some (n, k)) : k < 16 := by
  obtain ⟨m, -, hm⟩ := List.exists_of_findSome?_eq_some h
  split at hm
  · obtain ⟨j, hj, hjk⟩ := Option.map_eq_some_iff.mp hm
    cases hjk
    exact readySlot_lt hj
  · cases hm

/-- What issues in a cycle: of each element that has a node, the slot that it selects (R139), with the head that it sees (R136). -/
theorem mem_picksOf {p : Cursor} : p ∈ picksOf s ↔
    ∃ n k, (∃ m v, (m, v) ∈ s.node ∧ select s (nodeOfKey m).elemRef = some (n, k)) ∧
      p = { node := n, slot := BitVec.ofNat 4 k, head := headSeen (s.nd n) k } := by
  simp only [picksOf, List.mem_map, List.mem_filterMap, List.mem_dedup]
  constructor
  · rintro ⟨⟨n, k⟩, ⟨e, ⟨⟨m, v⟩, hm, rfl⟩, hs⟩, rfl⟩
    exact ⟨n, k, ⟨m, v, hm, hs⟩, rfl⟩
  · rintro ⟨n, k, ⟨m, v, hm, hs⟩, rfl⟩
    exact ⟨(n, k), ⟨_, ⟨(m, v), hm, rfl⟩, hs⟩, rfl⟩

theorem mem_picksOf_iff_select {n : NodeRef} {k : Nat} :
    (∃ h, { node := n, slot := BitVec.ofNat 4 k, head := h } ∈ picksOf s ∧ k < 16) ↔
      ∃ m v, (m, v) ∈ s.node ∧ select s (nodeOfKey m).elemRef = some (n, k) := by
  constructor
  · rintro ⟨h, hp, hk⟩
    obtain ⟨n', k', hs, he⟩ := mem_picksOf.mp hp
    obtain ⟨m, v, hm, hs⟩ := hs
    obtain ⟨rfl, hb, -⟩ := Cursor.mk.inj he
    have hk' := select_slot_lt hs
    have : k = k' := by
      have := congrArg BitVec.toNat hb
      simp only [BitVec.toNat_ofNat] at this
      omega
    exact ⟨m, v, hm, this ▸ hs⟩
  · rintro ⟨m, v, hm, hs⟩
    exact ⟨_, mem_picksOf.mpr ⟨n, k, ⟨m, v, hm, hs⟩, rfl⟩, select_slot_lt hs⟩

theorem head_of_mem_picksOf {p : Cursor} (h : p ∈ picksOf s) : p.head = headSeen (s.nd p.node) p.slot.toNat := by
  obtain ⟨n, k, ⟨m, v, -, hs⟩, rfl⟩ := mem_picksOf.mp h
  have hk := select_slot_lt hs
  simp [Nat.mod_eq_of_lt hk]

section
variable {t : State} (ht : t.picks = picksOf { t with picks := [] })
include ht

/-- The slots that issue in a state, where it holds those chosen from it. -/
theorem mem_picks_iff_select (n : NodeRef) (k : Nat) :
    (∃ h, { node := n, slot := BitVec.ofNat 4 k, head := h } ∈ t.picks ∧ k < 16) ↔
      ∃ m v, (m, v) ∈ t.node ∧ select { t with picks := [] } (nodeOfKey m).elemRef = some (n, k) := by
  rw [ht]
  exact mem_picksOf_iff_select

theorem head_of_mem_picks {p : Cursor} (h : p ∈ t.picks) : p.head = headSeen (t.nd p.node) p.slot.toNat := by
  rw [ht] at h
  exact head_of_mem_picksOf (s := { t with picks := [] }) h

end

end Sys2Proof.Machine

namespace Sys2Proof.Proofs
open Sys2Proof.Machine

/-- Settles O7: a step is one of four cases, and the end of a cycle leaves what the counters and the choice of the next issues
read as the cycle left it. -/
theorem stepRunsEvents : Obligations.StepRunsEvents := by
  intro s rest
  refine ⟨fun i hc ha => ?_, fun hc ha => ?_, fun hc ha => ?_, fun hc hp => ?_⟩
  · simp [step, hc, ha]
  · simp [step, hc, ha, closeCycle]
  · simp [step, hc, ha, closeCycle]
  · have hs : step s = .next (endCycle s) := by simp [step, close, hc, hp]
    have hpicks : (endCycle s).picks = picksOf { endCycle s with picks := [] } := by
      rw [← beforePicks_of_nil hp, endCycle_picks]
    refine ⟨endCycle s, hs, endCycle_cycle, endCycle_closing, mem_picks_iff_select hpicks, fun p => head_of_mem_picks hpicks,
      fun d => ⟨fun hd => ?_, ?_⟩⟩
    · rw [endCycle_ctr, if_pos (ticks_beforeCounters hd.1 hd.2)]
    · rw [endCycle_ctr]
      split
      · exact .inl rfl
      · exact .inr rfl

/-- Settles O10: every node, element and die that reset does not list stands at its default, and key slot 0 alone is listed. -/
theorem resetState : Obligations.ResetState := by
  have hk : ∀ k, k ≠ 0 → Map.get State.reset.key {} k = {} := fun k hk => by
    simp [State.reset, Map.get, Map.find, Ne.symm hk]
  refine ⟨rfl, rfl, rfl, rfl, rfl, rfl, fun _ => rfl, rfl, fun _ => rfl, fun _ => rfl, rfl, rfl, fun k h => ?_⟩
  rw [hk k h]

end Sys2Proof.Proofs
end

section
/-! SUPPORT. Bit fields of words and of task records: what a field reads after a write to itself and to another (R6, R242). -/

namespace Sys2Proof

/-! ## Fields of a word -/

theorem getLsbD_setBits {w : Nat} (x : BitVec w) (lo n v j : Nat) :
    (setBits x lo n v).getLsbD j = if lo ≤ j ∧ j < lo + n then decide (j < w) && v.testBit (j - lo) else x.getLsbD j := by
  simp only [setBits, BitVec.getLsbD_or, BitVec.getLsbD_and, BitVec.getLsbD_not, BitVec.getLsbD_shiftLeft, BitVec.getLsbD_ofNat,
    Nat.testBit_two_pow_sub_one, Nat.testBit_mod_two_pow]
  by_cases hw : j < w
  · by_cases h1 : lo ≤ j
    · have h3 : j - lo < w := by omega
      have h4 : j - lo < n ↔ j < lo + n := by omega
      by_cases h2 : j < lo + n <;> simp [hw, h1, h2, h3, h4, Nat.not_lt.mpr h1]
    · simp [hw, h1, Nat.lt_of_not_le h1]
  · simp [hw, BitVec.getLsbD_of_ge x j (Nat.le_of_not_lt hw)]

theorem testBit_bitsNat {w : Nat} (x : BitVec w) (lo n k : Nat) :
    (bitsNat x lo n).testBit k = (decide (k < n) && x.getLsbD (lo + k)) := by
  simp [bitsNat, Nat.testBit_mod_two_pow, BitVec.getLsbD]

/-- A field reads what was written to it. -/
theorem bitsNat_setBits_self {w : Nat} (x : BitVec w) {lo n : Nat} (v : Nat) (h : lo + n ≤ w) :
    bitsNat (setBits x lo n v) lo n = v % 2 ^ n := by
  apply Nat.eq_of_testBit_eq
  intro k
  rw [testBit_bitsNat, getLsbD_setBits, Nat.testBit_mod_two_pow]
  by_cases hk : k < n
  · have hw : lo + k < w := by omega
    simp [hk, hw]
  · simp [hk]

/-- A field reads as before after a write beside it. -/
theorem bitsNat_setBits_disjoint {w : Nat} (x : BitVec w) {lo n lo' n' : Nat} (v : Nat) (h : lo' + n' ≤ lo ∨ lo + n ≤ lo') :
    bitsNat (setBits x lo n v) lo' n' = bitsNat x lo' n' := by
  apply Nat.eq_of_testBit_eq
  intro k
  simp only [testBit_bitsNat, getLsbD_setBits]
  by_cases hk : k < n'
  · rw [if_neg (by omega)]
  · simp [hk]

theorem getLsbD_bit {w : Nat} (i : Nat) {j : Nat} (hj : j < w) : (((1 <<< i : Nat) : BitVec w)).getLsbD j = decide (j = i) := by
  have h : (((1 <<< i : Nat) : BitVec w)) = BitVec.ofNat w (2 ^ i) := by rw [Nat.one_shiftLeft]; rfl
  rw [h, BitVec.getLsbD_ofNat, Nat.testBit_two_pow]
  by_cases hi : i = j
  · subst hi
    simp [hj]
  · simp [hi, Ne.symm hi]

theorem setBits_one {w : Nat} (x : BitVec w) (i : Nat) : setBits x i 1 1 = x ||| ((1 <<< i : Nat) : BitVec w) := by
  apply BitVec.eq_of_getLsbD_eq
  intro j hj
  rw [getLsbD_setBits, BitVec.getLsbD_or, getLsbD_bit i hj]
  by_cases h : j = i
  · subst h
    simp [hj]
  · rw [if_neg (by omega)]
    simp [h]

theorem setBits_zero {w : Nat} (x : BitVec w) (i : Nat) : setBits x i 1 0 = x &&& ~~~((1 <<< i : Nat) : BitVec w) := by
  apply BitVec.eq_of_getLsbD_eq
  intro j hj
  rw [getLsbD_setBits, BitVec.getLsbD_and, BitVec.getLsbD_not, getLsbD_bit i hj]
  by_cases h : j = i
  · subst h
    simp
  · rw [if_neg (by omega)]
    simp [h, hj]

namespace Machine

/-! ## Fields of a task record -/

theorem Task.field_setField_self (t : Task) (i : Nat) {lo n : Nat} (v : Nat) (h : lo + n ≤ 32) :
    (t.setField i lo n v).field i lo n = v % 2 ^ n := by
  simp [Task.field, Task.setField, Task.word, Task.setWord, bitsNat_setBits_self _ v h]

theorem Task.field_setField_disjoint (t : Task) (i : Nat) {lo n lo' n' : Nat} (v : Nat) (h : lo' + n' ≤ lo ∨ lo + n ≤ lo') :
    (t.setField i lo n v).field i lo' n' = t.field i lo' n' := by
  simp [Task.field, Task.setField, Task.word, Task.setWord, bitsNat_setBits_disjoint _ v h]

theorem Task.field_setField_word_ne (t : Task) {i j : Nat} (lo n v lo' n' : Nat) (h : j ≠ i) :
    (t.setField i lo n v).field j lo' n' = t.field j lo' n' := by
  simp [Task.field, Task.setField, Task.word, Task.setWord, Map.get_set_ne _ _ _ h]

theorem Task.keep_eq (t : Task) : t.keep = decide (t.field 0 11 1 = 1) := by
  have h : (t.field 0 11 1).testBit 0 = t.keep := by
    rw [Task.field, testBit_bitsNat]
    rfl
  have hlt : t.field 0 11 1 < 2 := Nat.mod_lt _ (by decide)
  rw [← h]
  interval_cases t.field 0 11 1 <;> rfl

end Machine
end Sys2Proof
end

section
/-! SUPPORT. The end of a course leaves the still part but for the issues chosen (R42, R248, R255), and a die that leaves admission
retires its live records alone (R466). -/

namespace Sys2Proof.Machine
variable {s : State}

/-! ## A node enters OFF -/

@[simp] theorem still_setBarrier (die : BitVec 4) (i : Nat) (b : PoolBar) : (s.setBarrier die i b).still = s.still := by
  simp [State.setBarrier]

@[simp] theorem still_releaseBarrier (die : BitVec 4) (st : Stamp) (h : Word) : (releaseBarrier s die st h).still = s.still := by
  unfold releaseBarrier
  split <;> simp

@[simp] theorem still_abandonReq (id : Nat) : (s.abandonReq id).still = s.still := by
  unfold State.abandonReq
  dsimp only
  repeat' split
  all_goals simp

@[simp] theorem still_unclaim (n : NodeRef) (i : Instr) (f : Fields) : (unclaim s n i f).still = s.still := rfl

@[simp] theorem still_withdraw (n : NodeRef) : (withdraw s n).still = s.still := by
  unfold withdraw
  dsimp only
  repeat' split
  all_goals simp

@[simp] theorem still_discardDrain (e : ElemRef) (i : Nat) : (discardDrain s e i).still = s.still := rfl

@[simp] theorem still_gateCallerLeaves (n : NodeRef) : (gateCallerLeaves s n).still = s.still := by
  refine (foldl_keeps (v := State.still) (fun s i => ?_) _ _).trans (still_setEl _ _)
  dsimp only
  repeat' split
  all_goals simp

@[simp] theorem still_releaseHeld (n : NodeRef) (discard : Bool) : (releaseHeld s n discard).still = s.still := rfl

theorem unpicked_with_picks (ps : List Cursor) (rs : List Req) :
    ({ s with picks := ps, reqs := rs } : State).still.unpicked = s.still.unpicked := rfl

@[simp] theorem unpicked_enterOff (n : NodeRef) : (enterOff s n).still.unpicked = s.still.unpicked := by
  simp [enterOff, unpicked_with_picks]

@[simp] theorem unpicked_leaveElem (e : ElemRef) : (leaveElem s e).still.unpicked = s.still.unpicked := by
  have off : ∀ l : List Nat, (l.foldl (fun s i => enterOff s (e.nodeRef (BitVec.ofNat 4 i))) s).still.unpicked = s.still.unpicked :=
    fun l => foldl_keeps (v := fun s : State => s.still.unpicked) (fun _ _ => unpicked_enterOff _) l s
  simp [leaveElem, off]

@[simp] theorem still_leaveTile (t : TileRef) : (leaveTile s t).still = s.still := by
  unfold leaveTile
  extract_lets m gone lost u v
  have hv : v.still = u.still := foldl_keeps (v := State.still) (fun _ _ => still_releaseBarrier _ _ _) _ _
  refine (foldl_keeps (v := State.still) (fun _ _ => still_releaseBarrier _ _ _) lost v).trans (hv.trans ?_)
  exact still_setTl _ _

/-! ## A course is discarded -/

@[simp] theorem still_addRoute (rid i : Nat) (src : TileRef × BitVec 4) : (addRoute s rid i src).2.still = s.still := rfl

@[simp] theorem still_linkBroken (rid i : Nat) (x : Nat × Word) : (linkBroken s rid i x).still = s.still := by
  unfold linkBroken
  dsimp only
  rw [still_updTask_of_mended rfl]
  simp

@[simp] theorem still_breakInto (d : BitVec 4) (task iport : Nat) (w : Word) : (breakInto s d task iport w).still = s.still := by
  have h : (s.updTask d task (fun t => { t with broken := t.broken ++ [(iport, w)] })).still = s.still := still_updTask_of_mended rfl
  unfold breakInto
  dsimp only
  split
  · split <;> simp only [still_linkBroken, h]
  · exact h

@[simp] theorem still_breakRoutes (rid : Nat) : (breakRoutes s rid).still = s.still := by
  refine foldl_keeps (v := State.still) (fun s x => ?_) _ _
  dsimp only
  split
  · split <;> simp
  · refine foldl_keeps (v := State.still) (fun s e => ?_) _ _
    split <;> simp

@[simp] theorem still_dropEdges (rid : Nat) : (dropEdges s rid).still = s.still := rfl

@[simp] theorem unpicked_vacate (rid : Nat) : (vacate s rid).still.unpicked = s.still.unpicked := by
  have elems : ∀ l : List ElemRef, (l.foldl leaveElem s).still.unpicked = s.still.unpicked :=
    fun l => foldl_keeps (v := fun s : State => s.still.unpicked) (fun _ _ => unpicked_leaveElem _) l s
  have tiles : ∀ (l : List TileRef) (t : State), (l.foldl leaveTile t).still = t.still :=
    fun l t => foldl_keeps (v := State.still) (fun _ _ => still_leaveTile _) l t
  simp [vacate, elems, tiles]

@[simp] theorem unpicked_unloadRegion (rid : Nat) (discarded : Bool) :
    (unloadRegion s rid discarded).still.unpicked = s.still.unpicked := by
  have region : ∀ (t : State) (m : Map Region), ({ t with region := m } : State).still = t.still := fun _ _ => rfl
  have last : ∀ (t : State) (d : BitVec 4) x, (t.updDie d (fun d => { d with lastRegion := x })).still = t.still :=
    fun _ _ _ => still_setDie rfl rfl
  unfold unloadRegion
  dsimp only
  repeat' split
  all_goals simp only [region, last, still_dropEdges, unpicked_vacate, still_breakRoutes]

@[simp] theorem unpicked_abandonLoad (rid : Nat) : (abandonLoad s rid).still.unpicked = s.still.unpicked := by
  have tiles : ∀ (l : List TileRef) (t : State),
      (l.foldl (fun s t => s.updTl t (fun m => { m with lastPart := none })) t).still = t.still :=
    fun l t => foldl_keeps (v := State.still) (fun s t => still_setTl t _) l t
  simp only [abandonLoad, tiles, unpicked_unloadRegion]

@[simp] theorem unpicked_discard (d : BitVec 4) (i : Nat) : (discard s d i).still.unpicked = s.still.unpicked := by
  unfold discard
  repeat' split
  all_goals simp

/-! ## A die leaves admission -/

/-- A live record of a die that leaves admission fails with SOFT (R466). -/
def Task.softFailed (t : Task) : Task := (t.setField 8 0 8 causeSoft.toNat).retired 10

/-- A record with KEEP stays, FAILED with its cause (R250). -/
theorem Task.softFailed_of_keep {t : Task} (h : t.keep = true) : t.softFailed.state = 10 ∧ t.softFailed.field 8 0 8 = causeSoft.toNat := by
  let u := t.setField 8 0 8 causeSoft.toNat
  have hk : (u.closed 10).keep = true := by
    rw [← h, Task.keep_eq, Task.keep_eq t]
    congr 2
    exact (Task.field_setField_disjoint u 0 10 (.inl (by decide))).trans (Task.field_setField_word_ne t 0 8 _ 11 1 (by decide))
  have hr : t.softFailed = u.closed 10 := if_pos hk
  rw [hr]
  constructor
  · exact Task.field_setField_self u 0 10 (by decide)
  · exact (Task.field_setField_word_ne u 28 4 10 0 8 (by decide)).trans (Task.field_setField_self t 8 _ (by decide))

/-- A record without KEEP returns to FREE (R250). -/
theorem Task.softFailed_of_not_keep {t : Task} (h : t.keep = false) : t.softFailed.state = 0 := by
  let u := t.setField 8 0 8 causeSoft.toNat
  have hk : ¬(u.closed 10).keep = true := by
    rw [Bool.not_eq_true, ← h, Task.keep_eq, Task.keep_eq t]
    congr 2
    exact (Task.field_setField_disjoint u 0 10 (.inl (by decide))).trans (Task.field_setField_word_ne t 0 8 _ 11 1 (by decide))
  have hr : t.softFailed = (u.closed 10).free := if_neg hk
  rw [hr]
  exact (Task.field_setField_disjoint _ 0 _ (.inr (by decide))).trans (Task.field_setField_self (u.closed 10) 0 0 (by decide))

theorem live_mended (t : Task) : t.mended.live = t.live := rfl

theorem Task.live_eq (t : Task) : t.live = decide (2 ≤ t.state ∧ t.state ≤ 7) := rfl

theorem Task.softFailed_not_live (t : Task) : t.softFailed.live = false := by
  rw [Task.live_eq]
  cases h : t.keep
  · rw [Task.softFailed_of_not_keep h]
    rfl
  · rw [(Task.softFailed_of_keep h).1]
    rfl

/-- The records of a die with the live ones of a list failed. -/
def failedIn (l : List Nat) (m : Nat → Task) (i : Nat) : Task := if i ∈ l ∧ (m i).live = true then (m i).softFailed else m i

theorem failedIn_cons (m : Nat → Task) (i : Nat) (l : List Nat) : failedIn l (failedIn [i] m) = failedIn (i :: l) m := by
  funext j
  by_cases hj : j = i
  · subst hj
    by_cases hl : (m j).live <;> simp [failedIn, hl, Task.softFailed_not_live]
  · simp [failedIn, hj]

/-- The still part with the live records of a list failed on one die. -/
def Still.failIn (v : Still) (d : BitVec 4) (l : List Nat) : Still :=
  { v with task := fun d' => if d' = d then failedIn l (v.task d) else v.task d' }

theorem Still.failIn_cons (v : Still) (d : BitVec 4) (i : Nat) (l : List Nat) : (v.failIn d [i]).failIn d l = v.failIn d (i :: l) := by
  simp only [Still.failIn, if_true, failedIn_cons]
  congr
  funext d'
  split <;> rfl

theorem Still.failIn_nil (v : Still) (d : BitVec 4) : v.failIn d [] = v := by
  have h : failedIn [] (v.task d) = v.task d := by
    funext i
    simp [failedIn]
  simp only [Still.failIn, h]
  congr
  funext d'
  split
  · next hd => rw [hd]
  · rfl

theorem Still.failIn_one (v : Still) (d : BitVec 4) (i : Nat) :
    v.failIn d [i] = if (v.task d i).live then v.setTask d i (v.task d i).softFailed else v := by
  split
  · next h =>
    simp only [Still.failIn, Still.setTask]
    congr
    funext d' j
    by_cases hd : d' = d <;> by_cases hj : j = i <;> simp_all [failedIn]
  · next h =>
    have hf : failedIn [i] (v.task d) = failedIn [] (v.task d) := by
      funext j
      by_cases hj : j = i <;> simp_all [failedIn]
    conv_rhs => rw [← v.failIn_nil d]
    simp only [Still.failIn, hf]

/-- One record of `failLive`. -/
def failLiveAt (d : BitVec 4) (s : State) (i : Nat) : State :=
  if (s.task d i).live then failTask (discard s d i) d i causeSoft else s

theorem unpicked_failLiveAt (d : BitVec 4) (i : Nat) : (failLiveAt d s i).still.unpicked = s.still.unpicked.failIn d [i] := by
  have hl : (s.still.unpicked.task d i).live = (s.task d i).live := rfl
  have hd : ((discard s d i).task d i).mended = s.still.unpicked.task d i := by
    rw [← unpicked_discard d i]
    rfl
  rw [Still.failIn_one, hl, failLiveAt]
  split
  · rw [still_failTask, Still.unpicked_setTask, unpicked_discard, hd]
    rfl
  · rfl

theorem unpicked_failLiveAts (d : BitVec 4) (l : List Nat) (s : State) :
    (l.foldl (failLiveAt d) s).still.unpicked = s.still.unpicked.failIn d l := by
  induction l generalizing s with
  | nil => exact (Still.failIn_nil _ d).symm
  | cons i l ih => rw [List.foldl_cons, ih, unpicked_failLiveAt, Still.failIn_cons]

/-- A live record is listed. -/
theorem mem_live {d : BitVec 4} {i : Nat} (h : (s.task d i).live = true) :
    i ∈ ((s.dieAt d).task.filter (fun x => x.2.live)).map Prod.fst := by
  have find : ∀ m : Map Task, (Map.get m {} i).live = true → i ∈ (m.filter (fun x => x.2.live)).map Prod.fst := by
    intro m
    induction m with
    | nil => exact fun h => absurd (show ({} : Task).live = true from h) (by decide)
    | cons x m ih =>
      intro h
      simp only [Map.get, Map.find] at h ih
      by_cases hx : x.1 = i
      · rw [if_pos hx] at h
        exact List.mem_map.mpr ⟨x, List.mem_filter.mpr ⟨List.mem_cons_self .., h⟩, hx⟩
      · rw [if_neg hx] at h
        rw [List.filter_cons]
        split
        · exact List.mem_cons_of_mem _ (ih h)
        · exact ih h
  exact find _ h

theorem failLive_eq (s : State) (d : BitVec 4) : ∃ u : State, u.still = s.still ∧
    failLive s d = (((u.dieAt d).task.filter (fun x => x.2.live)).map Prod.fst).foldl (failLiveAt d) u :=
  ⟨s.updDie d (fun x => { x with job := none }), still_setDie rfl rfl, rfl⟩

/-- The live records of a die that leaves admission fail, and nothing else of the still part changes but the issues chosen. -/
theorem unpicked_failLive (s : State) (d : BitVec 4) : ∃ l, (∀ i, (s.task d i).live = true → i ∈ l) ∧
    (failLive s d).still.unpicked = s.still.unpicked.failIn d l := by
  obtain ⟨u, hu, hf⟩ := failLive_eq s d
  have ht : ∀ i, (u.task d i).live = (s.task d i).live := fun i => by
    rw [← live_mended, mended_task, hu, ← mended_task, live_mended]
  exact ⟨_, fun i hi => mem_live ((ht i).trans hi), by rw [hf, unpicked_failLiveAts, hu]⟩

end Sys2Proof.Machine
end

section
/-! PROOF. Temperature and power: what a measurement, the end of an interval and a die above its cap do (R433, R466, R468). -/

namespace Sys2Proof.Machine
open Sys2Proof.Claims
variable {s : State}

/-! ## Temperature -/

/-- What a measurement below the limit of removal changes. -/
def warmed (s : State) (d : BitVec 5) (n : Nat) : State :=
  { s with
    temp := Map.set s.temp d.toNat n
    throttled := if 105 ≤ n then s.throttled ||| (1 <<< d.toNat : Nat) else if n < 100 then s.throttled &&& ~~~((1 <<< d.toNat : Nat) : BitVec 18) else s.throttled }

/-- The marks of a die that leaves admission. -/
def removed (s : State) (d : BitVec 5) : State :=
  { s with
    dadm := s.dadm &&& ~~~((1 <<< d.toNat : Nat) : BitVec 18)
    stfail := s.stfail ||| (1 <<< d.toNat : Nat) }

theorem task_removed (s : State) (d : BitVec 5) (n : Nat) (x : BitVec 4) (i : Nat) :
    (removed (warmed s d n) d).task x i = s.task x i := by
  simp only [State.task, State.dieAt, removed, warmed]

theorem removeDie_eq (s : State) (d : BitVec 5) : removeDie s d =
    if d.toNat < 16 then failLive (removed s d) (BitVec.setWidth 4 d)
    else { removed s d with linkUp := setBits s.linkUp (8 * (d.toNat - 16)) 8 0 } := by
  simp only [removeDie, removed, setBits_one, setBits_zero]

theorem measured_eq (s : State) (d : BitVec 5) (n : Nat) : measured s d n =
    if 18 ≤ d.toNat then s else if 115 ≤ n then removeDie (warmed s d n) d else warmed s d n := by
  simp only [measured, warmed, setBits_one, setBits_zero]

theorem eq_of_mended {t u : Task} (h : u.mended = t.mended) : u = { t with broken := u.broken } := by
  obtain ⟨⟩ := t
  obtain ⟨⟩ := u
  simpa [Task.mended] using h

theorem tfield_eq (t : Task) (i lo n : Nat) : tfield t i lo n = t.field i lo n := by
  simp only [tfield, field, Task.field, bitsNat, Nat.shiftRight_eq_div_pow]
  rfl

theorem tstate_eq (t : Task) : tstate t = t.state := tfield_eq t 0 28 4

section
variable {t : State} {d : BitVec 4} {l : List Nat} (h : t.still.unpicked = s.still.unpicked.failIn d l)
include h

theorem dadm_of_failIn : t.dadm = s.dadm := congrArg Still.dadm h
theorem stfail_of_failIn : t.stfail = s.stfail := congrArg Still.stfail h
theorem temp_of_failIn : t.temp = s.temp := congrArg Still.temp h
theorem throttled_of_failIn : t.throttled = s.throttled := congrArg Still.throttled h

theorem task_of_failIn (x : BitVec 4) (i : Nat) : (t.task x i).mended =
    if x = d then failedIn l (fun i => (s.task d i).mended) i else (s.task x i).mended := by
  have hx : (t.task x i).mended = (s.still.unpicked.failIn d l).task x i := congrArg (fun v => Still.task v x i) h
  rw [hx]
  by_cases hd : x = d
  · rw [if_pos hd]
    exact congrFun (if_pos hd) i
  · rw [if_neg hd]
    exact congrFun (if_neg hd) i

theorem task_of_failIn_live {i : Nat} (hi : i ∈ l) (hl : (s.task d i).live = true) :
    (t.task d i).mended = (s.task d i).mended.softFailed := by
  rw [task_of_failIn h, if_pos rfl]
  exact if_pos ⟨hi, hl⟩

theorem task_of_failIn_not_live {i : Nat} (hl : (s.task d i).live = false) : (t.task d i).mended = (s.task d i).mended := by
  rw [task_of_failIn h, if_pos rfl]
  exact if_neg (fun ⟨_, hl'⟩ => Bool.noConfusion (hl.symm.trans hl'))

end

/-- What a die that leaves admission does to its records (R466). -/
theorem failLive_task (s : State) (d : BitVec 4) (i : Nat) :
    ((s.task d i).live = true → (s.task d i).keep = true →
      ((failLive s d).task d i).state = 10 ∧ ((failLive s d).task d i).field 8 0 8 = causeSoft.toNat) ∧
    ((s.task d i).live = true → (s.task d i).keep = false → ((failLive s d).task d i).state = 0) ∧
    ((s.task d i).live = false → ((failLive s d).task d i).mended = (s.task d i).mended) := by
  obtain ⟨l, hl, h⟩ := unpicked_failLive s d
  generalize failLive s d = u at h
  refine ⟨fun hi hk => ?_, fun hi hk => ?_, fun hi => task_of_failIn_not_live h hi⟩
  · have hs : (u.task d i).mended = (s.task d i).mended.softFailed := task_of_failIn_live h (hl i hi) hi
    have hf := Task.softFailed_of_keep (t := (s.task d i).mended) hk
    rw [← hs] at hf
    exact hf
  · have hs : (u.task d i).mended = (s.task d i).mended.softFailed := task_of_failIn_live h (hl i hi) hi
    have hf := Task.softFailed_of_not_keep (t := (s.task d i).mended) hk
    rw [← hs] at hf
    exact hf

/-- The same in the fields of the record: STATE, KEEP and CAUSE (R242, R250). -/
theorem failLive_fields (s : State) (d : BitVec 4) (i : Nat) :
    let t := s.task d i
    let u := (failLive s d).task d i
    (2 ≤ tstate t ∧ tstate t ≤ 7 → if tfield t 0 11 1 = 1 then tstate u = 10 ∧ tfield u 8 0 8 = 0x0C else tstate u = 0) ∧
    (tstate t ≤ 1 ∨ 8 ≤ tstate t → u = { t with broken := u.broken }) := by
  obtain ⟨hkeep, hfree, hdead⟩ := failLive_task s d i
  simp only [tstate_eq, tfield_eq]
  rw [Task.live_eq, decide_eq_true_eq] at hkeep hfree
  rw [Task.live_eq, decide_eq_false_iff_not] at hdead
  rw [Task.keep_eq] at hkeep hfree
  refine ⟨fun hl => ?_, fun hl => eq_of_mended (hdead (by omega))⟩
  split
  · next hk => exact hkeep hl (decide_eq_true hk)
  · next hk => exact hfree hl (decide_eq_false hk)

theorem failLive_task_ne (s : State) {d x : BitVec 4} (hx : x ≠ d) (i : Nat) :
    ((failLive s d).task x i).mended = (s.task x i).mended := by
  obtain ⟨l, -, h⟩ := unpicked_failLive s d
  rw [task_of_failIn h, if_neg hx]

theorem failLive_marks (s : State) (d : BitVec 4) : (failLive s d).dadm = s.dadm ∧ (failLive s d).stfail = s.stfail ∧
    (failLive s d).temp = s.temp ∧ (failLive s d).throttled = s.throttled := by
  obtain ⟨l, -, h⟩ := unpicked_failLive s d
  exact ⟨dadm_of_failIn h, stfail_of_failIn h, temp_of_failIn h, throttled_of_failIn h⟩

/-! ## Power -/

theorem drawPool_nil (n : Nat) (last : Nat × Nat) : drawPool n [] last = ([], n, last) := by
  cases n <;> rfl

/-- A charge of nothing changes no account and no pool. -/
theorem charge_nil (s : State) (d : BitVec 4) :
    charge s d [] = { s.setDie d (s.dieAt d) with spent := Map.modify s.spent 0 d.toNat (· + 0) } := by
  have h : ((List.range 32).filter (fun p => decide (0 < usedBy [] p))) = [] := List.filter_eq_nil_iff.mpr (fun _ _ => by simp [usedBy])
  unfold charge
  simp only [h, List.map_nil, drawPool_nil, List.foldl_nil, List.sum_nil]

theorem balance_charge_nil (s : State) (d : BitVec 4) (p : Nat) : (charge s d []).balance d p = s.balance d p := by
  rw [charge_nil]
  exact congrArg (fun x : Die => (Map.find x.account p).getD (s.pwra p : Int)) (State.dieAt_setDie_self s d _)

theorem part_charge_nil (s : State) (d : BitVec 4) : (charge s d []).part = s.part := by
  rw [charge_nil]
  rfl

theorem pcbW_of_part {t : State} (h : t.part = s.part) (p : BitVec 5) (off : Nat) : t.pcbW p off = s.pcbW p off := by
  simp only [State.pcbW, State.pt, h]

theorem find_map_key {α : Type} (f : Nat → α) {ps : List Nat} {p : Nat} (h : p ∈ ps) : Map.find (ps.map (fun p => (p, f p))) p = some (f p) := by
  induction ps with
  | nil => cases h
  | cons q ps ih =>
    by_cases hq : q = p
    · subst hq
      simp [Map.find]
    · have := List.mem_of_ne_of_mem (Ne.symm hq) h
      simp [Map.find, hq, ih this]

theorem mem_keys_of_find {α : Type} {m : Map α} {k : Nat} (h : (Map.find m k).isSome = true) : k ∈ m.map Prod.fst := by
  induction m with
  | nil => cases h
  | cons x m ih =>
    by_cases hx : x.1 = k
    · simp [hx]
    · simp only [Map.find, if_neg hx] at h
      exact List.mem_cons_of_mem _ (ih h)

/-- The account that a partition of a die begins an interval with (R433). -/
theorem newAccounts_account (s : State) (d : BitVec 4) {p : Nat} (hp : (Map.find s.part p).isSome = true) (hd : partOnDie s d p = true) :
    Map.find ((newAccounts s d).dieAt d).account p = some ((s.pwra p : Int) + min 0 (s.balance d p)) := by
  simp only [newAccounts, State.updDie_eq, State.dieAt_setDie_self]
  exact find_map_key (fun p => (s.pwra p : Int) + min 0 (s.balance d p))
    (List.mem_filter.mpr ⟨mem_keys_of_find hp, by simp [hd]⟩)

/-- The state of a die at the end of an interval in which nothing was metered late: its accounts are those of the next. -/
def intervalEnded (s : State) (d : BitVec 5) : State :=
  if d.toNat < 16 then newAccounts (charge s (BitVec.setWidth 4 d) []) (BitVec.setWidth 4 d)
  else { s with spent := Map.modify s.spent 0 d.toNat (· + 0) }

theorem execPowerIntervalEnd_nil (s : State) (d : BitVec 5) (n : Nat) (h : d.toNat < 18) (ho : intervalOver s d.toNat = true) :
    execPowerIntervalEnd d n [] s = .next { intervalEnded s d with
      spentLast := Map.set (intervalEnded s d).spentLast d.toNat (Map.get (intervalEnded s d).spent 0 d.toNat)
      spent := Map.erase (intervalEnded s d).spent d.toNat
      capped := setBits (intervalEnded s d).capped d.toNat 1 0
      cap := if (((intervalEnded s d).cap.filter (fun x => decide (x.1 ≠ d.toNat))).map Prod.snd).sum + n ≤ 3019
        then Map.set (intervalEnded s d).cap d.toNat n else (intervalEnded s d).cap } := by
  unfold execPowerIntervalEnd
  simp only [h, ho, and_self, if_true]
  rfl

/-- What the end of an interval leaves before the die's cap is written. -/
theorem intervalEnded_keeps (s : State) (d : BitVec 5) : (intervalEnded s d).capped = s.capped ∧
    (intervalEnded s d).cap = s.cap ∧ (intervalEnded s d).node = s.node ∧ (intervalEnded s d).mem = s.mem := by
  unfold intervalEnded
  rw [charge_nil]
  split <;> exact ⟨rfl, rfl, rfl, rfl⟩

theorem intervalEnded_spent (s : State) (d : BitVec 5) : Map.get (intervalEnded s d).spent 0 d.toNat = Map.get s.spent 0 d.toNat := by
  unfold intervalEnded
  rw [charge_nil]
  split
  · next h =>
    have hd : (BitVec.setWidth 4 d).toNat = d.toNat := by
      rw [BitVec.toNat_setWidth]
      exact Nat.mod_eq_of_lt h
    simp [newAccounts, Map.modify, hd]
  · simp [Map.modify]

theorem intervalEnded_account (s : State) (d : BitVec 5) (h : d.toNat < 16) {p : Nat} (hp : (Map.find s.part p).isSome = true)
    (hd : partOnDie s (BitVec.setWidth 4 d) p = true) :
    Map.find ((intervalEnded s d).dieAt (BitVec.setWidth 4 d)).account p =
      some ((s.pwra p : Int) + min 0 (s.balance (BitVec.setWidth 4 d) p)) := by
  have hpart := part_charge_nil s (BitVec.setWidth 4 d)
  have hpcb := pcbW_of_part hpart
  have hd' : partOnDie (charge s (BitVec.setWidth 4 d) []) (BitVec.setWidth 4 d) p = true := by
    simpa only [partOnDie, State.partNode, hpcb] using hd
  rw [intervalEnded, if_pos h, newAccounts_account _ _ (hpart ▸ hp) hd', balance_charge_nil, State.pwra, hpcb]
  rfl

theorem intervalOver_iff (s : State) (d : BitVec 5) : intervalOver s d.toNat = true ↔
    16 ≤ d.toNat ∨ (s.dieAt (BitVec.setWidth 4 d)).interval < (s.dieAt (BitVec.setWidth 4 d)).ctr / 2 ^ 20 := by
  simp [intervalOver, intervalCycles]

theorem execPowerIntervalEnd_not_due (s : State) (d : BitVec 5) (n : Nat) (used : List (Nat × Nat))
    (h : ¬(d.toNat < 18 ∧ intervalOver s d.toNat = true)) : execPowerIntervalEnd d n used s = .next s := by
  unfold execPowerIntervalEnd
  dsimp only
  rw [if_neg h]

end Sys2Proof.Machine

namespace Sys2Proof.Proofs
open Sys2Proof.Machine Sys2Proof.Claims

theorem heatAndPower : HeatAndPower := by
  intro s d n
  dsimp only
  refine ⟨fun e he => ?_, ?_, ?_⟩
  · have hm : exec e s = .next (measured s d n) := by
      simp only [List.mem_cons, List.not_mem_nil, or_false] at he
      obtain rfl | rfl | rfl := he <;> rfl
    rw [hm, measured_eq]
    refine ⟨fun h => ?_, fun h hn => ?_, fun h h' hn => ?_, fun h hn => ?_⟩
    · rw [if_pos h]
    · rw [if_neg (Nat.not_le.mpr h), if_neg (Nat.not_le.mpr hn)]
      rfl
    · rw [if_neg (Nat.not_le.mpr h'), if_pos hn, removeDie_eq, if_neg (Nat.not_lt.mpr h)]
      rfl
    · rw [if_neg (by omega), if_pos hn, removeDie_eq, if_pos h]
      obtain ⟨hdadm, hstfail, htemp, hthr⟩ := failLive_marks (removed (warmed s d n) d) (BitVec.setWidth 4 d)
      refine ⟨_, rfl, hdadm, hstfail, htemp, hthr, fun x i hx => eq_of_mended ?_, fun i => ?_⟩
      · rw [failLive_task_ne _ hx, task_removed]
      · have hf := failLive_fields (removed (warmed s d n) d) (BitVec.setWidth 4 d) i
        rw [task_removed] at hf
        exact hf
  · have hex : exec (.powerIntervalEnd d n []) s = execPowerIntervalEnd d n [] s := rfl
    rw [hex, ← intervalOver_iff]
    refine ⟨fun h => execPowerIntervalEnd_not_due s d n [] (fun ⟨h18, ho⟩ => ?_), fun h18 ho => ?_⟩
    · exact h.elim (fun h => Nat.not_le.mpr h18 h) (fun h => h ho)
    · obtain ⟨hcapped, hcaps, hnode, hmem⟩ := intervalEnded_keeps s d
      have hspent := intervalEnded_spent s d
      have hacc := intervalEnded_account s d
      refine ⟨_, execPowerIntervalEnd_nil s d n h18 ho, ?_, ?_, ?_, fun hs => ?_, fun hs => ?_, hnode, hmem, fun h16 p _ hp hd => ?_⟩
      · rw [setBits_zero, hcapped]
      · exact (Map.get_set_self _ _ _ _).trans hspent
      · exact Map.get_erase_self _ _ _
      · rw [hcaps, if_pos hs, Map.get_set_self]
      · rw [hcaps, if_neg hs]
      · have h32 : field (s.pcbW (BitVec.ofNat 5 p) 0x50) 0 32 = s.pwra p := by
          simp only [field, State.pwra]
          omega
        rw [h32]
        exact hacc h16 hp hd
  · have hex : exec (.powerCapExceeded d n) s = .next (if d.toNat < 18 ∧ Map.get s.cap 0 d.toNat < Map.get s.spent 0 d.toNat + n then
        { s with capped := setBits s.capped d.toNat 1 1 } else s) := rfl
    rw [hex, setBits_one]
    exact ⟨fun h => by rw [if_pos h], fun h => by rw [if_neg h]⟩

end Sys2Proof.Proofs
end

section
/-! PROOF. Bring-up, training, the registers of the management page and the bands of HBM4 (R287, R424, R428, R462-R465). -/

namespace Sys2Proof.Machine
variable {s : State}

/-! ## Admission and training -/

theorem admitted_of_admitting {u : State} {d : BitVec 5} {x : BitVec 18} (h : u.admitting = x ||| (1 <<< d.toNat : Nat)) (hd : d.toNat < 16) :
    u.admitted (d.setWidth 4) = false := by
  have hw : (BitVec.setWidth 4 d).toNat = d.toNat := by
    rw [BitVec.toNat_setWidth]
    exact Nat.mod_eq_of_lt hd
  have hb : u.admitting.getLsbD d.toNat = true := by
    rw [h, BitVec.getLsbD_or, getLsbD_bit _ (by omega)]
    simp
  simp [State.admitted, hw, hb]

/-- A bit set reads true, and no other bit changes. -/
theorem getLsbD_setBits_one {w : Nat} (x : BitVec w) {i : Nat} (hi : i < w) (j : Nat) :
    (setBits x i 1 1).getLsbD j = (decide (j = i) || x.getLsbD j) := by
  rw [getLsbD_setBits]
  by_cases h : j = i
  · subst h
    simp [hi]
  · rw [if_neg (by omega)]
    simp [h]

/-- A bit that is set unless a condition holds. -/
theorem getLsbD_mark {w : Nat} (x : BitVec w) {i : Nat} (hi : i < w) (p : Prop) [Decidable p] (j : Nat) :
    (if p then x else setBits x i 1 1).getLsbD j = (x.getLsbD j || (decide (j = i) && decide ¬p)) := by
  by_cases h : p
  · simp [h]
  · simp [h, getLsbD_setBits_one x hi, Bool.or_comm]

theorem eq_setWidth_iff {d : BitVec 5} (hd : d.toNat < 16) (x : BitVec 4) : x = BitVec.setWidth 4 d ↔ x.toNat = d.toNat := by
  rw [← BitVec.toNat_inj, BitVec.toNat_setWidth, Nat.mod_eq_of_lt hd]

/-- A compute die's training gives its feature mask; an edge die's brings the DDR-5 tier once both have passed. -/
theorem execDieFullService_due {d : BitVec 5} (passed : BitVec 6)
    (h : d.toNat < 18 ∧ s.dadm.getLsbD d.toNat = true ∧ s.full.getLsbD d.toNat = false ∧ s.stfail.getLsbD d.toNat = false) :
    execDieFullService d passed s = .next (if d.toNat < 16 then
      { s.setDie (BitVec.setWidth 4 d) { s.dieAt (BitVec.setWidth 4 d) with fmask := passed } with
        stfail := if passed = 0x3F then s.stfail else setBits s.stfail d.toNat 1 1
        full := setBits s.full d.toNat 1 1 }
    else { s with
      stfail := if passed = 0x3F then s.stfail else setBits s.stfail d.toNat 1 1
      full := if passed = 0 then s.full else setBits s.full d.toNat 1 1
      ddr := if bitsNat (if passed = 0 then s.full else setBits s.full d.toNat 1 1) 16 2 = 3 then ddrCapacity else s.ddr }) := by
  unfold execDieFullService
  dsimp only
  rw [if_pos (by exact h), BitVec.ofNat_toNat]
  rfl

theorem execDieFullService_not_due {d : BitVec 5} (passed : BitVec 6)
    (h : ¬(d.toNat < 18 ∧ s.dadm.getLsbD d.toNat = true ∧ s.full.getLsbD d.toNat = false ∧ s.stfail.getLsbD d.toNat = false)) :
    execDieFullService d passed s = .next s := by
  unfold execDieFullService
  dsimp only
  exact congrArg _ (if_neg h)

theorem ne_zero_iff_testBit {n k : Nat} (h : n < 2 ^ k) : n ≠ 0 ↔ ∃ i, i < k ∧ n.testBit i = true := by
  constructor
  · intro hn
    obtain ⟨i, hi⟩ := Nat.exists_testBit_of_ne_zero hn
    refine ⟨i, ?_, hi⟩
    by_contra hk
    rw [Nat.testBit_lt_two_pow (Nat.lt_of_lt_of_le h (Nat.pow_le_pow_right (by decide) (Nat.not_lt.mp hk)))] at hi
    cases hi
  · rintro ⟨i, -, hi⟩ rfl
    simp at hi

/-- Every admitted compute die is in full service, and there is one (R464). -/
theorem allFull_iff : allFull s = true ↔
    (∃ d, d < 16 ∧ s.dadm.getLsbD d = true) ∧ ∀ d, d < 16 → s.dadm.getLsbD d = true → s.full.getLsbD d = true := by
  have hn : bitsNat s.dadm 0 16 ≠ 0 ↔ ∃ d, d < 16 ∧ s.dadm.getLsbD d = true := by
    have hlt : bitsNat s.dadm 0 16 < 2 ^ 16 := Nat.mod_lt _ (by decide)
    rw [ne_zero_iff_testBit hlt]
    simp only [testBit_bitsNat, Nat.zero_add, Bool.and_eq_true, decide_eq_true_eq]
    exact ⟨fun ⟨i, hi, _, hb⟩ => ⟨i, hi, hb⟩, fun ⟨i, hi, hb⟩ => ⟨i, hi, hi, hb⟩⟩
  rw [allFull, Bool.and_eq_true, decide_eq_true_eq, hn, List.all_eq_true]
  simp only [List.mem_range, Bool.or_eq_true, Bool.not_eq_true', bitAt]
  refine and_congr_right fun _ => forall_congr' fun d => imp_congr_right fun _ => ?_
  cases s.dadm.getLsbD d <;> simp

theorem execWarmRecalibration_gains {d : BitVec 4} {f : BitVec 3} {pass : Bool}
    (h : f.toNat < 6 ∧ s.full.getLsbD d.toNat = true ∧ (s.dieAt d).fmask.getLsbD f.toNat = false ∧ (∀ g ∈ s.region, g.2.die ≠ d ∨ g.2.st = .saved) ∧ pass = true) :
    execWarmRecalibration d f pass s = .next (s.setDie d { s.dieAt d with fmask := (s.dieAt d).fmask ||| ((1 <<< f.toNat : Nat) : BitVec 6) }) := by
  obtain ⟨hf, hfull, hclear, hregions, hpass⟩ := h
  have hall : s.region.all (fun g => decide (g.2.die ≠ d ∨ g.2.st = .saved)) = true :=
    List.all_eq_true.mpr fun g hg => decide_eq_true (hregions g hg)
  rw [execWarmRecalibration, ← setBits_one]
  exact congrArg _ (if_pos ⟨hf, hfull, hclear, hall, hpass⟩)

theorem execWarmRecalibration_keeps {d : BitVec 4} {f : BitVec 3} {pass : Bool}
    (h : ¬(f.toNat < 6 ∧ s.full.getLsbD d.toNat = true ∧ (s.dieAt d).fmask.getLsbD f.toNat = false ∧ (∀ g ∈ s.region, g.2.die ≠ d ∨ g.2.st = .saved) ∧ pass = true)) :
    execWarmRecalibration d f pass s = .next s := by
  rw [execWarmRecalibration]
  refine congrArg _ (if_neg fun ⟨hf, hfull, hclear, hall, hpass⟩ => h ⟨hf, hfull, hclear, fun g hg => ?_, hpass⟩)
  exact of_decide_eq_true (List.all_eq_true.mp hall g hg)

/-! ## Registers of the management page -/

theorem hport_updHport (pf : Bool) (f : HostPort → HostPort) : (s.updHport pf f).hport pf = f (s.hport pf) :=
  Map.get_set_self _ _ _ _

theorem hport_updHport_not (pf : Bool) (f : HostPort → HostPort) : (s.updHport pf f).hport (!pf) = s.hport (!pf) := by
  refine Map.get_set_ne _ _ _ ?_
  cases pf <;> decide

/-- A page offset that is a doorbell (R430). -/
def IsDoor (o : Nat) : Prop := 0x1000 ≤ o ∧ o < 0x1200 ∧ o % 8 = 0

theorem writeMgmt_ring (pf : Bool) {o : Nat} (v : Word) (h1 : 0x2000 ≤ o) (h2 : o < 0x3000) :
    writeMgmt s pf o v = s.updHport pf (fun p => { p with ring := Map.set p.ring ((o - 0x2000) / 4) v }) := by
  rw [writeMgmt, if_neg (by omega), if_neg (by omega), if_neg (by omega), if_pos ⟨h1, h2⟩]

theorem writeMgmt_door (pf : Bool) {o : Nat} (v : Word) (h : IsDoor o) :
    writeMgmt s pf o v = doorbell s (if pf then 0x800 else 0) (BitVec.ofNat 6 ((o - 0x1000) / 8)) v := by
  obtain ⟨h1, h2, h3⟩ := h
  rw [writeMgmt, if_neg (by omega), if_neg (by omega), if_pos ⟨h1, h2, h3⟩]

/-- Every other place of the page is read-only. -/
theorem writeMgmt_ignored (pf : Bool) {o : Nat} (v : Word) (htail : o ≠ 0x400) (hctl : o ≠ 0x408) (hring : o < 0x2000 ∨ 0x3000 ≤ o) (hdoor : ¬IsDoor o) :
    writeMgmt s pf o v = s := by
  rw [writeMgmt, if_neg htail, if_neg hctl, if_neg (by exact hdoor), if_neg (by omega)]

theorem exec_mgmt_open {pf : Bool} (o : BitVec 14) (v : Word) (h : s.edgeOpen pf = true) :
    exec (.registerWrite (.mgmt pf o v)) s = .next (writeMgmt s pf o.toNat v) := by
  have hx : exec (.registerWrite (.mgmt pf o v)) s = .next (if s.edgeOpen pf then writeMgmt s pf o.toNat v else s) := rfl
  rw [hx, if_pos h]

theorem exec_mgmt_closed {pf : Bool} (o : BitVec 14) (v : Word) (h : ¬s.edgeOpen pf = true) :
    exec (.registerWrite (.mgmt pf o v)) s = .next s := by
  have hx : exec (.registerWrite (.mgmt pf o v)) s = .next (if s.edgeOpen pf then writeMgmt s pf o.toNat v else s) := rfl
  rw [hx, if_neg h]

/-- A PF stands at its own port. -/
theorem fnPort_pf (pf : Bool) : s.fnPort (if pf then 0x800 else 0) = pf := by
  cases pf
  · exact if_pos (by decide)
  · exact if_pos (by decide)

/-- A PF's write of a doorbell of its page is that doorbell's transition. -/
theorem exec_mgmt_door (pf : Bool) {o : BitVec 14} (v : Word) (h : IsDoor o.toNat) :
    exec (.registerWrite (.mgmt pf o v)) s = exec (.queueDoorbell (if pf then 0x800 else 0) (BitVec.ofNat 6 ((o.toNat - 0x1000) / 8)) v) s := by
  have hbell : exec (.queueDoorbell (if pf then 0x800 else 0) (BitVec.ofNat 6 ((o.toNat - 0x1000) / 8)) v) s =
      execQueueDoorbell (if pf then 0x800 else 0) (BitVec.ofNat 6 ((o.toNat - 0x1000) / 8)) v s := rfl
  rw [hbell, execQueueDoorbell, fnPort_pf]
  by_cases hopen : s.edgeOpen pf = true
  · rw [exec_mgmt_open o v hopen, writeMgmt_door pf v h, if_pos hopen]
  · rw [exec_mgmt_closed o v hopen, if_neg hopen]

theorem writeVf_door (fn : BitVec 12) {o : Nat} (v : Word) (h : IsDoor o) :
    writeVf s fn o v = doorbell s fn (BitVec.ofNat 6 ((o - 0x1000) / 8)) v :=
  if_pos h

theorem writeVf_ignored (fn : BitVec 12) {o : Nat} (v : Word) (h : ¬IsDoor o) : writeVf s fn o v = s :=
  if_neg h

theorem exec_vf_door (fn : BitVec 12) {o : BitVec 14} (v : Word) (h : IsDoor o.toNat) :
    exec (.registerWrite (.vf fn o v)) s = exec (.queueDoorbell fn (BitVec.ofNat 6 ((o.toNat - 0x1000) / 8)) v) s := by
  have hx : exec (.registerWrite (.vf fn o v)) s = .next (if s.edgeOpen (s.fnPort fn) then writeVf s fn o.toNat v else s) := rfl
  have hbell : exec (.queueDoorbell fn (BitVec.ofNat 6 ((o.toNat - 0x1000) / 8)) v) s =
      execQueueDoorbell fn (BitVec.ofNat 6 ((o.toNat - 0x1000) / 8)) v s := rfl
  rw [hx, hbell, execQueueDoorbell, writeVf_door fn v h]

theorem exec_vf_ignored (fn : BitVec 12) {o : BitVec 14} (v : Word) (h : ¬IsDoor o.toNat) : exec (.registerWrite (.vf fn o v)) s = .next s := by
  have hx : exec (.registerWrite (.vf fn o v)) s = .next (if s.edgeOpen (s.fnPort fn) then writeVf s fn o.toNat v else s) := rfl
  rw [hx, writeVf_ignored fn v h, ite_self]

theorem exec_numVfs (pf : Bool) (k : BitVec 11) :
    exec (.registerWrite (.numVfs pf k)) s =
      .next (if k.toNat + (s.hport (!pf)).numVfs ≤ 1024 then s.updHport pf (fun p => { p with numVfs := k.toNat }) else s) := rfl

/-! ## Bands of HBM4 -/

theorem memGet_filter_key (p : Nat → Bool) (m : List Host.Cell) (a : Nat) :
    memGet (m.filter (fun c => p c.1)) a = if p a then memGet m a else 0 := by
  induction m with
  | nil => simp [memGet]
  | cons c m ih =>
    rw [List.filter_cons]
    by_cases hc : c.1 = a
    · subst hc
      cases hp : p c.1 <;> simp [hp, memGet, ih]
    · cases p c.1 <;> simp [memGet, ih, hc]

theorem Map.get_filter_key {α : Type} (p : Nat → Bool) (m : Map α) (d : α) (k : Nat) :
    Map.get (m.filter (fun c => p c.1)) d k = if p k then Map.get m d k else d := by
  induction m with
  | nil => simp
  | cons c m ih =>
    simp only [Map.get] at ih ⊢
    rw [List.filter_cons]
    by_cases hc : c.1 = k
    · subst hc
      cases hp : p c.1 <;> simp [hp, Map.find, ih]
    · cases p c.1 <;> simp [Map.find, ih, hc]

/-- A band that the write leaves alone, or that a partition reaches (R287). -/
theorem changeBand_keeps {v : BitVec 64} {n : Nat} (h : v.getLsbD n = s.hbmode.getLsbD n ∨ reachers s (n * 2 ^ 34) (2 ^ 34) ≠ []) :
    changeBand s v n = s :=
  if_pos h

theorem foldl_changeBand_keeps {v : BitVec 64} {l : List Nat} (h : ∀ n ∈ l, changeBand s v n = s) : l.foldl (fun s n => changeBand s v n) s = s := by
  induction l with
  | nil => rfl
  | cons n l ih =>
    rw [List.foldl_cons, h n List.mem_cons_self]
    exact ih fun m hm => h m (List.mem_cons_of_mem n hm)

/-- What a change of a band's mode leaves: memory and its marks outside the band, and none inside (R287). -/
theorem changeBand_moves {v : BitVec 64} {n : Nat} (h : ¬(v.getLsbD n = s.hbmode.getLsbD n ∨ reachers s (n * 2 ^ 34) (2 ^ 34) ≠ [])) :
    (changeBand s v n).hbmode = setBits s.hbmode n 1 (bitsNat v n 1) ∧ (changeBand s v n).mem = (s.clearRange (n * 2 ^ 34) (2 ^ 34)).mem ∧
      (changeBand s v n).wmeta = (s.clearRange (n * 2 ^ 34) (2 ^ 34)).wmeta ∧ (changeBand s v n).node = s.node ∧ (changeBand s v n).part = s.part := by
  rw [changeBand, if_neg (by exact h)]
  exact ⟨rfl, rfl, rfl, rfl, rfl⟩

theorem hbmode_changeBand {v : BitVec 64} {n : Nat} (hn : n < 64) (h : ¬(v.getLsbD n = s.hbmode.getLsbD n ∨ reachers s (n * 2 ^ 34) (2 ^ 34) ≠ [])) (j : Nat) :
    (changeBand s v n).hbmode.getLsbD j = if j = n then v.getLsbD n else s.hbmode.getLsbD j := by
  rw [(changeBand_moves h).1, getLsbD_setBits]
  by_cases hj : j = n
  · subst hj
    rw [if_pos ⟨le_rfl, Nat.lt_succ_self j⟩, Nat.sub_self, testBit_bitsNat]
    simp [hn]
  · rw [if_neg (by omega), if_neg hj]

theorem memGet_changeBand {v : BitVec 64} {n : Nat} (h : ¬(v.getLsbD n = s.hbmode.getLsbD n ∨ reachers s (n * 2 ^ 34) (2 ^ 34) ≠ [])) (a : Nat) :
    memGet (changeBand s v n).mem a = if a < n * 2 ^ 34 ∨ n * 2 ^ 34 + 2 ^ 34 ≤ a then memGet s.mem a else 0 := by
  obtain ⟨-, hmem, -⟩ := changeBand_moves h
  rw [hmem, State.clearRange, memGet_filter_key (fun k => decide (k < n * 2 ^ 34 ∨ n * 2 ^ 34 + 2 ^ 34 ≤ k))]
  simp only [decide_eq_true_eq]

theorem metaAt_changeBand {v : BitVec 64} {n : Nat} (h : ¬(v.getLsbD n = s.hbmode.getLsbD n ∨ reachers s (n * 2 ^ 34) (2 ^ 34) ≠ [])) (a : Nat) :
    (changeBand s v n).metaAt a = if 4 * (a / 4) < n * 2 ^ 34 ∨ n * 2 ^ 34 + 2 ^ 34 ≤ 4 * (a / 4) then s.metaAt a else {} := by
  obtain ⟨-, -, hmeta, -⟩ := changeBand_moves h
  rw [State.metaAt, hmeta, State.clearRange, Map.get_filter_key (fun k => decide (4 * k < n * 2 ^ 34 ∨ n * 2 ^ 34 + 2 ^ 34 ≤ 4 * k))]
  simp only [decide_eq_true_eq]
  rfl

/-- A write that moves one band at most changes that band alone. -/
theorem foldl_changeBand_single {v : BitVec 64} {n : Nat} (hn : n < 48) (h : ∀ j, j < 48 → j ≠ n → v.getLsbD j = s.hbmode.getLsbD j) :
    (List.range 48).foldl (fun s n => changeBand s v n) s = changeBand s v n := by
  by_cases hk : v.getLsbD n = s.hbmode.getLsbD n ∨ reachers s (n * 2 ^ 34) (2 ^ 34) ≠ []
  · rw [changeBand_keeps hk]
    refine foldl_changeBand_keeps fun j hj => changeBand_keeps ?_
    by_cases hjn : j = n
    · exact hjn ▸ hk
    · exact .inl (h j (List.mem_range.mp hj) hjn)
  · obtain ⟨l, r, hlr⟩ := List.append_of_mem (List.mem_range.mpr hn)
    have hnd := List.nodup_middle.mp (hlr ▸ List.nodup_range (n := 48))
    have hne : ∀ j ∈ l ++ r, j < 48 ∧ j ≠ n := fun j hj =>
      ⟨List.mem_range.mp (hlr ▸ List.mem_append.mpr ((List.mem_append.mp hj).imp id (List.mem_cons_of_mem n))), fun e => (List.nodup_cons.mp hnd).1 (e ▸ hj)⟩
    have hl : ∀ j ∈ l, changeBand s v j = s := fun j hj =>
      have ⟨h48, hjn⟩ := hne j (List.mem_append_left r hj)
      changeBand_keeps (.inl (h j h48 hjn))
    have hr : ∀ j ∈ r, changeBand (changeBand s v n) v j = changeBand s v n := fun j hj => by
      obtain ⟨h48, hjn⟩ := hne j (List.mem_append_right l hj)
      refine changeBand_keeps (.inl ?_)
      rw [hbmode_changeBand (by omega) hk, if_neg hjn, h j h48 hjn]
    rw [hlr, List.foldl_append, List.foldl_cons, foldl_changeBand_keeps hl, foldl_changeBand_keeps hr]

end Sys2Proof.Machine

namespace Sys2Proof.Proofs
open Sys2Proof.Machine Sys2Proof.Claims

theorem bringUp : BringUp := by
  intro s
  dsimp only
  refine ⟨fun _ _ _ _ => rfl, rfl, fun d => ⟨fun h => ⟨?_, fun u hu hd => admitted_of_admitting hu hd, rfl⟩, fun h => ?_⟩, fun d passed => ⟨?_, ?_⟩, ⟨?_, ?_⟩, fun d f pass => ⟨?_, ?_⟩, ?_, ?_⟩
  · have hx : exec (.dieAdmit d) s = execDieAdmit d s := rfl
    rw [hx, execDieAdmit]
    rw [if_pos (by exact h), setBits_one, setBits_one]
  · exact congrArg _ (if_neg h)
  · exact execDieFullService_not_due passed
  · intro h
    have hx : exec (.dieFullService d passed) s = execDieFullService d passed s := rfl
    rw [hx, execDieFullService_due passed h]
    obtain ⟨hd, -, hfull, hst⟩ := h
    by_cases h16 : d.toNat < 16
    · rw [if_pos h16]
      refine ⟨_, rfl, rfl, fun j hj => ⟨?_, ?_⟩, ?_, fun _ => ⟨?_, rfl, fun x => ?_⟩, fun h => absurd h16 (Nat.not_lt.mpr h)⟩
      · simp [getLsbD_mark _ hd, hj]
      · simp [getLsbD_setBits_one _ hd, hj]
      · simp [getLsbD_mark _ hd]
      · simp [getLsbD_setBits_one _ hd]
      · refine (dieAt_setDie _ x _).trans ?_
        by_cases h : x = BitVec.setWidth 4 d
        · rw [if_pos h, if_pos ((eq_setWidth_iff h16 x).mp h), h]
        · rw [if_neg h, if_neg (mt (eq_setWidth_iff h16 x).mpr h)]
    · rw [if_neg h16]
      refine ⟨_, rfl, rfl, fun j hj => ⟨?_, ?_⟩, ?_, fun h => absurd h h16, fun _ => ⟨rfl, ?_⟩⟩
      · simp [getLsbD_mark _ hd, hj]
      · simp [getLsbD_mark _ hd, hj]
      · simp [getLsbD_mark _ hd]
      · simp [getLsbD_mark _ hd, hfull]
  · intro h
    exact congrArg _ (if_pos (allFull_iff.mpr h))
  · intro h
    exact congrArg _ (if_neg (fun h' => h (allFull_iff.mp h')))
  · exact execWarmRecalibration_gains
  · exact execWarmRecalibration_keeps
  · intro pf o v fn d p w on
    refine ⟨exec_mgmt_closed o v, ?_, ?_, ?_, ?_, fun h => ⟨exec_mgmt_door pf v h, exec_vf_door fn v h⟩, exec_vf_ignored fn v, fun k => ⟨?_, ?_⟩, rfl, rfl, rfl, rfl⟩
    · rintro hopen rfl
      exact ⟨_, exec_mgmt_open _ v hopen, hport_updHport pf _, hport_updHport_not pf _, rfl⟩
    · rintro hopen rfl
      exact ⟨_, exec_mgmt_open _ v hopen, hport_updHport pf _, hport_updHport_not pf _, rfl⟩
    · intro hopen h1 h2
      rw [exec_mgmt_open o v hopen, writeMgmt_ring pf v h1 h2]
      refine ⟨_, rfl, ?_, fun j hj => ?_, ?_, rfl⟩
      · rw [hport_updHport]
        exact Map.get_set_self _ _ _ _
      · rw [hport_updHport]
        exact Map.get_set_ne _ _ _ hj
      · rw [hport_updHport]
    · intro htail hctl hring hdoor
      by_cases hopen : s.edgeOpen pf = true
      · rw [exec_mgmt_open o v hopen, writeMgmt_ignored pf v ?_ ?_ hring hdoor]
        · exact fun h => htail (BitVec.eq_of_toNat_eq h)
        · exact fun h => hctl (BitVec.eq_of_toNat_eq h)
      · exact exec_mgmt_closed o v hopen
    · intro hroom
      rw [exec_numVfs, if_pos hroom]
      exact ⟨_, rfl, hport_updHport pf _, hport_updHport_not pf _, rfl⟩
    · intro hroom
      rw [exec_numVfs, if_neg hroom]
  · intro v n hn hv
    have hx : exec (.hbmodeWrite v) s = .next ((List.range 48).foldl (fun s n => changeBand s v n) s) := rfl
    rw [hx, foldl_changeBand_single hn hv]
    refine ⟨fun hkeeps => ?_, fun ⟨hbit, hreach⟩ => ?_⟩
    · rw [changeBand_keeps]
      exact (not_and_or.mp hkeeps).imp not_not.mp id
    · have hmoves : ¬(v.getLsbD n = s.hbmode.getLsbD n ∨ reachers s (n * 2 ^ 34) (2 ^ 34) ≠ []) := fun h => h.elim hbit (fun h => h hreach)
      obtain ⟨-, -, -, hnode, hpart⟩ := changeBand_moves hmoves
      refine ⟨_, rfl, fun j _ => hbmode_changeBand (by omega) hmoves j, fun a h1 h2 => ⟨?_, ?_⟩, fun a ha => ?_, hnode, hpart⟩
      · rw [memGet_changeBand hmoves, if_neg (by omega)]
      · rw [metaAt_changeBand hmoves, if_neg (by omega)]
      · rw [memGet_changeBand hmoves, if_pos (by omega)]

/-- Settles O60: training and the registers clause by clause; a write of HBMODE changes the one band that moves, and a die that
leaves admission fails its live tasks one by one. -/
theorem bringUpAndPower : Obligations.BringUpAndPower := ⟨bringUp, heatAndPower⟩

end Sys2Proof.Proofs
end

section
/-! SUPPORT. What the vocabulary of the statements about issues stands for in the model: fields of words, operands, clean issues
(R23-R25, R84, R147). -/

namespace Sys2Proof.Machine
open Sys2Proof.Claims

variable {s : State} {i : Instr} {f : Fields}

/-! ## Fields and operands -/

/-- A field of a word as the statements write it is the model's. -/
theorem bitsNat_eq_field (w : Word) (lo n : Nat) : bitsNat w lo n = field w lo n := by
  simp [bitsNat, field, Nat.shiftRight_eq_div_pow]

theorem ciCode_eq_none {c : BitVec 5} (h : ¬(16 ≤ c.toNat ∧ c.toNat < 20)) : ciCode c = none := by
  rw [ciCode, if_neg (by omega)]

theorem ciCode_eq_some {c : BitVec 5} (h : 16 ≤ c.toNat ∧ c.toNat < 20) : ciCode c = some (BitVec.ofNat 2 (c.toNat - 16)) := by
  rw [ciCode, if_pos (by omega)]

theorem mboxCode_eq_none {c : BitVec 5} (h : ¬(24 ≤ c.toNat ∧ c.toNat < 28)) : mboxCode c = none := by
  rw [mboxCode, if_neg (by omega)]

theorem mboxCode_eq_some {c : BitVec 5} (h : 24 ≤ c.toNat ∧ c.toNat < 28) : mboxCode c = some (c.toNat - 24) := by
  rw [mboxCode, if_pos (by omega)]

/-- The word hk of the channel that CHA names, and 0 where it names none (R24). -/
theorem hkWord_eq (nd : Node) : hkWord nd f = if f.cha.toNat < 4 then
    BitVec.ofNat 32 ((Map.get nd.seq 0 f.cha.toNat).toNat * 256 + (match (Map.get nd.ci [] f.cha.toNat).head? with
      | some t => t.fmt.toNat * 8 + t.kind.toNat
      | none => 0)) else 0 := by
  unfold hkWord chanCode
  by_cases hc : f.cha.toNat < 4
  · have hk : (BitVec.ofNat 2 f.cha.toNat).toNat = f.cha.toNat := by simp; omega
    simp only [if_pos hc, Node.ciq, Node.seqAt, hk]
    cases (Map.get nd.ci [] f.cha.toNat).head? with
    | none => simp only [Nat.add_zero]
    | some t => exact congrArg (BitVec.ofNat 32) (Nat.add_assoc _ _ _)
  · simp only [if_neg hc]

/-- What an operand code reads, in the words of the statements (R23-R25, R84). -/
theorem operand_eq_readCode (c : BitVec 5) : operand s f c = readCode s s.cur.node f c := by
  unfold operand readCode
  by_cases hg : c.toNat < 16
  · simp [hg, Node.gReg]
  by_cases hi : c.toNat < 20
  · have hk : (BitVec.ofNat 2 (c.toNat - 16)).toNat = c.toNat - 16 := by simp; omega
    simp only [if_neg hg, if_pos hi, ciCode_eq_some ⟨Nat.le_of_not_lt hg, hi⟩, Node.ciq, hk]
    cases (Map.get (s.nd s.cur.node).ci [] (c.toNat - 16)).head? <;> rfl
  simp only [if_neg hg, if_neg hi, ciCode_eq_none (fun h => hi h.2)]
  by_cases hm : 24 ≤ c.toNat ∧ c.toNat < 28
  · rw [if_pos hm, mboxCode_eq_some hm]
    rfl
  have h29 : c = 29 ↔ c.toNat = 29 := by bv_omega
  have h30 : c = 30 ↔ c.toNat = 30 := by bv_omega
  have h31 : c = 31 ↔ c.toNat = 31 := by bv_omega
  simp only [if_neg hm, mboxCode_eq_none hm, h29, h30, h31, hkWord_eq, PWord.clean]
  by_cases h : c.toNat = 29
  · by_cases hc : f.cha.toNat < 4 <;> simp [h, hc] <;> rfl
  · simp only [h, false_and, if_false]
    rfl

/-- The marks of an issue are no operand. -/
@[simp] theorem readCode_atIssue (c : BitVec 5) : readCode s.atIssue s.cur.node f c = operand s f c := by
  rw [operand_eq_readCode]
  unfold readCode
  simp only [atIssue_nd, atIssue_el]
  rfl

theorem readsOf_plain (hf : i.fields = some f) (hc : ∀ c, i ≠ .cx c f) (hd : i ≠ .did f) (n : NodeRef) :
    readsOf s n i = (decide (i.shape.sa = .scalar ∨ i.shape.sa = .ciOnly), decide (i.shape.sb = .scalar ∨ i.shape.sb = .ciOnly),
      decide (i.shape.dst = .read ∨ i.shape.dst = .readWritten)) := by
  unfold readsOf
  split
  · next g => cases hf; exact absurd rfl hd
  · next c g => cases hf; exact absurd rfl (hc c)
  · rfl

end Sys2Proof.Machine
end

section
/-! PROOF. The operands of an issue and the results of poisoned ones (O29), and what a step of an issue runs (O6). -/

namespace Sys2Proof.Machine
open Sys2Proof.Claims

variable {s : State} {i : Instr} {f : Fields}

/-- A scalar source is read by its operand code (R23, R84). -/
theorem operands_of_shape (hf : i.fields = some f) (hc : ∀ c, i ≠ .cx c f) (hd : i ≠ .did f) :
    (i.shape.sa = .scalar ∨ i.shape.sa = .ciOnly → (issueOps s i f).a = operand s f f.sa) ∧
    (i.shape.sb = .scalar ∨ i.shape.sb = .ciOnly → (issueOps s i f).b = operand s f f.sb) ∧
    (i.shape.dst = .read ∨ i.shape.dst = .readWritten → (issueOps s i f).d = operand s f f.dst) := by
  have h := readsOf_plain (s := s.atIssue) hf hc hd s.cur.node
  refine ⟨fun ha => ?_, fun hb => ?_, fun hr => ?_⟩
  · simp [issueOps, readOperands, h, ha]
  · simp [issueOps, readOperands, h, hb]
  · simp [issueOps, readOperands, h, hr]

/-- The scalar operations that complete with E = 1 (R112-R123). -/
def plainScalars (f : Fields) : List Instr :=
  [.mov f, .add f, .sub f, .adds f, .subs f, .mul f, .mulhI32 f, .mulhN32 f, .mac f, .lui f, .and f, .or f, .xor f, .andn f,
    .shl f, .shr f, .sar f, .rol f, .clz f, .popc f, .brev f, .sext f, .zext f, .bfx f, .bfi f, .sel f, .cmpEq f, .cmpNe f,
    .cmpLtI32 f, .cmpLeI32 f, .cmpLtN32 f, .cmpLeN32 f, .minI32 f, .maxI32 f, .minN32 f, .maxN32 f, .abs f, .neg f, .tst f, .lea f,
    .fadd f, .fsub f, .fmul f, .fma f, .fmin f, .fmax f, .fcmpEq f, .fcmpLt f, .fcmpLe f, .fcmpUn f, .fabs f, .fneg f,
    .cvtF f, .cvtIf f, .cvtFi f, .cvtNf f, .cvtFn f, .pack2 f, .unpk f, .scale f]

/-- Each of them is a scalar operation of some function of its operands. -/
theorem exec_plainScalars : ∀ i ∈ plainScalars f, ∃ fmt fn, exec i s = scalarOp i f fmt s fn := by
  simp only [plainScalars, List.forall_mem_cons, List.not_mem_nil, false_implies, implies_true, and_true]
  repeat' apply And.intro
  all_goals exact ⟨_, _, rfl⟩

end Sys2Proof.Machine

namespace Sys2Proof.Proofs
open Sys2Proof.Machine Sys2Proof.Claims

/-- Settles O29: the operands are read by their codes, and a scalar operation answers a poisoned one by the poison rule. -/
theorem poisonedOperands : Obligations.PoisonedOperands := by
  refine ⟨fun s f i hf hc hd => ?_, fun s f w i hi hp hw => ?_⟩
  · exact operands_of_shape hf hc hd
  · obtain ⟨fmt, fn, h⟩ := exec_plainScalars (s := s) i hi
    exact h.trans (scalarOp_poison hp hw)

/-- Settles O6: the slot's word decides what runs, and operand b tells apart the two steps of a shared word. -/
theorem stepRunsTheDecodedSlot : Obligations.StepRunsTheDecodedSlot := by
  intro s p ps hclosing hpicks u n
  have hstep : step s = turn u p := by simp [step, close, hclosing, hpicks, u]
  refine ⟨fun h => ?_, fun i hst hfl hdec => ⟨?_, fun t ht => ?_, fun f hi hb => ?_, fun f hi hb => ?_, fun h1 h2 => ?_⟩⟩
  · rw [hstep, turn, if_neg]
    rintro ⟨h1, h2⟩
    exact h.elim (absurd h1) (absurd h2)
  · have hd : decode? ((u.nd n).slotWord p.slot.toNat) = some i := by
      rw [decode?, show u.nd n = s.nd n from rfl, hdec]
    rw [hstep, turn, if_pos ⟨hst, hfl⟩, hd]
  · simp [afterIssue, lateFault, ht]
  · rw [operand_eq_readCode, ← bitsNat_eq_field] at hb
    subst hi
    exact if_pos hb
  · rw [operand_eq_readCode] at hb
    subst hi
    exact if_pos hb
  · unfold refine
    split
    · next f => exact absurd rfl (h1 f)
    · next f => exact absurd rfl (h2 f)
    · rfl

end Sys2Proof.Proofs
end

section
/-! SUPPORT. The state that an issue leaves to its execution, and the S4 that a transition in flight reaches
(R36-R42, R146). -/

namespace Sys2Proof.Machine
open Sys2Proof.Claims

variable {s t : State} {n m : NodeRef} {e : ElemRef} {i : Instr} {f : Fields} {fl : InFlight} {r : Result}
  {a b d : PWord} {ws : List PWord}

/-! ## What an execution finds -/

@[simp] theorem issueOps_n : (issueOps s i f).n = s.cur.node := rfl
@[simp] theorem issueOps_f : (issueOps s i f).f = f := rfl
@[simp] theorem issueOps_nd : (issueOps s i f).nd = { self s with last := s.cur.slot, nextAt := s.cycle + 4, prefer := none } :=
  atIssue_nd

@[simp] theorem issueClaim_node : (issueClaim s i f).node = s.atIssue.node := by simp [issueClaim]
@[simp] theorem issueClaim_nd_self : (issueClaim s i f).nd s.cur.node =
    { self s with last := s.cur.slot, nextAt := s.cycle + 4, prefer := none } := by
  rw [State.nd, issueClaim_node]
  exact atIssue_nd

/-- The claims and the hold of an issue change the mailboxes and the hold of the element alone (R141, R146). -/
theorem issueClaim_el_eq (e : ElemRef) : ∃ mb h l, (issueClaim s i f).el e = { s.el e with mbox := mb, holdUntil := h, lastHold := l } := by
  have hc : ∃ mb, (claim s.atIssue s.cur.node i f).el e = { s.el e with mbox := mb } := by
    by_cases he : e = s.cur.node.elemRef
    · subst he
      exact ⟨_, by rw [claim, State.updEl, State.el_setEl_self, atIssue_el]⟩
    · exact ⟨(s.el e).mbox, by rw [claim_el_ne he, atIssue_el]⟩
  obtain ⟨mb, hmb⟩ := hc
  rcases holdElement_cases (s := claim s.atIssue s.cur.node i f) (i := i) with ⟨h, l, hh⟩ | hh
  · rw [claim_cur, atIssue_cur] at hh
    by_cases he : e = s.cur.node.elemRef
    · subst he
      exact ⟨mb, h, l, by rw [issueClaim, hh, State.el_setEl_self, hmb]⟩
    · exact ⟨mb, (s.el e).holdUntil, (s.el e).lastHold, by rw [issueClaim, hh, State.el_setEl_ne _ _ he, hmb]⟩
  · exact ⟨mb, (s.el e).holdUntil, (s.el e).lastHold, by rw [issueClaim, hh, hmb]⟩

section
variable (e : ElemRef)

@[simp] theorem issueClaim_vreg : ((issueClaim s i f).el e).vreg = (s.el e).vreg := by
  obtain ⟨_, _, _, h⟩ := issueClaim_el_eq (s := s) (i := i) (f := f) e; rw [h]
@[simp] theorem issueClaim_acc : ((issueClaim s i f).el e).acc = (s.el e).acc := by
  obtain ⟨_, _, _, h⟩ := issueClaim_el_eq (s := s) (i := i) (f := f) e; rw [h]
@[simp] theorem issueClaim_dtab : ((issueClaim s i f).el e).dtab = (s.el e).dtab := by
  obtain ⟨_, _, _, h⟩ := issueClaim_el_eq (s := s) (i := i) (f := f) e; rw [h]
@[simp] theorem issueClaim_pword : ((issueClaim s i f).el e).pword = (s.el e).pword := by
  obtain ⟨_, _, _, h⟩ := issueClaim_el_eq (s := s) (i := i) (f := f) e; rw [h]
@[simp] theorem issueClaim_scrub : ((issueClaim s i f).el e).scrub = (s.el e).scrub := by
  obtain ⟨_, _, _, h⟩ := issueClaim_el_eq (s := s) (i := i) (f := f) e; rw [h]
@[simp] theorem issueClaim_gate : ((issueClaim s i f).el e).gate = (s.el e).gate := by
  obtain ⟨_, _, _, h⟩ := issueClaim_el_eq (s := s) (i := i) (f := f) e; rw [h]
@[simp] theorem issueClaim_sbuf : ((issueClaim s i f).el e).sbuf = (s.el e).sbuf := by
  obtain ⟨_, _, _, h⟩ := issueClaim_el_eq (s := s) (i := i) (f := f) e; rw [h]
@[simp] theorem issueClaim_podq : ((issueClaim s i f).el e).podq = (s.el e).podq := by
  obtain ⟨_, _, _, h⟩ := issueClaim_el_eq (s := s) (i := i) (f := f) e; rw [h]
@[simp] theorem issueClaim_mx : ((issueClaim s i f).el e).mx = (s.el e).mx := by
  obtain ⟨_, _, _, h⟩ := issueClaim_el_eq (s := s) (i := i) (f := f) e; rw [h]
@[simp] theorem issueClaim_elRegion : ((issueClaim s i f).el e).region = (s.el e).region := by
  obtain ⟨_, _, _, h⟩ := issueClaim_el_eq (s := s) (i := i) (f := f) e; rw [h]

end

/-- An update of LAST, of the next issue and of the preferred slot. -/
theorem issueClaim_nd_eq (m : NodeRef) : ∃ l a p, (issueClaim s i f).nd m = { s.nd m with last := l, nextAt := a, prefer := p } := by
  by_cases hm : m = s.cur.node
  · subst hm
    exact ⟨_, _, _, issueClaim_nd_self⟩
  · exact ⟨_, _, _, issueClaim_nd_ne hm⟩

@[simp] theorem issueClaim_dom (m : NodeRef) : domOf ((issueClaim s i f).nd m) = domOf (s.nd m) := by
  obtain ⟨_, _, _, h⟩ := issueClaim_nd_eq (s := s) (i := i) (f := f) m
  rw [h, domOf, domOf]
@[simp] theorem issueClaim_domEntry (x : BitVec 4) : (issueClaim s i f).domEntry e x = s.domEntry e x := by
  simp [State.domEntry]
@[simp] theorem issueClaim_privileged (m : NodeRef) : (issueClaim s i f).privileged m = s.privileged m := by
  simp [State.privileged]
@[simp] theorem issueClaim_owns (x : BitVec 4) (r : Resource) : ((issueClaim s i f).el e).owns x r = (s.el e).owns x r := by
  simp [Elem.owns, Elem.pwordAt]
@[simp] theorem issueClaim_scrubbing (r : Resource) : ((issueClaim s i f).el e).scrubbing r = (s.el e).scrubbing r := by
  simp [Elem.scrubbing]
@[simp] theorem issueClaim_mayUse (m : NodeRef) (r : Resource) : (issueClaim s i f).mayUse m r = s.mayUse m r := by
  simp [State.mayUse]
@[simp] theorem issueClaim_lsCheck (m : NodeRef) (x : Word) (len : Nat) (w : Bool) (aux : Nat) :
    (issueClaim s i f).lsCheck m x len w aux = s.lsCheck m x len w aux := by
  simp [State.lsCheck]
@[simp] theorem issueClaim_loadWord (pa : Nat) : (issueClaim s i f).loadWord pa = s.loadWord pa := by
  simp [State.loadWord, State.metaAt]
@[simp] theorem issueClaim_lsWord (x : Nat) : (issueClaim s i f).lsWord e x = s.lsWord e x := by
  simp [State.lsWord]

/-- The issuing domain is privileged where its entry says so (R148). -/
theorem privileged_eq_isPriv : s.privileged s.cur.node = isPriv s := rfl

/-! ## S4 -/

@[simp] theorem setCo_flight (nd : Node) (k : BitVec 2) (q : List Token) : (nd.setCo k q).flight = nd.flight := rfl

@[simp] theorem popCi_flight (nd : Node) (k : BitVec 2) : (nd.popCi k).flight = nd.flight := by
  unfold Node.popCi
  dsimp only
  repeat' split
  all_goals rfl

@[simp] theorem popChan_flight (nd : Node) (dq : Bool) (c : BitVec 3) (q : Nat) : (popChan nd dq c q).flight = nd.flight := by
  unfold popChan
  split
  · rfl
  · split
    · rfl
    · exact popCi_flight _ _

@[simp] theorem writeDst_flight {kind fmt : BitVec 3} {v : PWord} : ((writeDst s n i f kind fmt v).nd m).flight = (s.nd m).flight := by
  by_cases hm : m = n
  · subst hm
    unfold writeDst
    repeat' split
    all_goals simp [Node.setG]
  · rw [writeDst_nd_ne hm]

@[simp] theorem commit_flight {qa qb : Nat} : ((commit s n i f qa qb r).nd n).flight = (s.nd n).flight := by
  unfold commit
  dsimp only
  rw [State.updNd, State.nd_setNd_self]
  simp only [popChan_flight, writeLanes_nd]
  cases r.dst <;> cases r.dst2 <;> dsimp only <;> (try split) <;> simp [Node.setG]

@[simp] theorem sessionFaults_flight (c : BitVec 8) (k : Nat) : ((sessionFaults s n c k).nd m).flight = (s.nd m).flight := by
  unfold sessionFaults
  dsimp only
  split
  · rw [State.nd_setEl]
    split
    · by_cases hm : m = n
      · subst hm
        simp
      · rw [State.updNd, State.nd_setNd_ne _ _ hm]
    · rfl
  · rfl

@[simp] theorem gateCalleeFaults_flight (c : BitVec 8) : ((gateCalleeFaults s n c).nd m).flight = (s.nd m).flight :=
  foldl_keeps (v := fun s : State => (s.nd m).flight) (fun _ _ => sessionFaults_flight c _) _ _

/-- A node that takes a fault has no transition in flight (R42). -/
@[simp] theorem takeFault_flight {slot : BitVec 4} {opc : BitVec 8} {fi : FaultInfo} {keep : Option InFlight} :
    ((takeFault s n slot opc fi keep).nd n).flight = none := by
  obtain ⟨_, _, h⟩ := takeFault_eq (s := s) (n := n) (slot := slot) (opc := opc) (fi := fi) (keep := keep)
  rw [h]
  exact (gateCalleeFaults_flight _).trans (by simp)

/-- A node that completes has no transition in flight. -/
theorem finish_flight (h : (s.nd n).flight = some fl) (hf : fl.instr.fields = some f) : ((finish s n r).nd n).flight = none := by
  unfold finish
  simp only [h, hf]
  split
  · simp
  · simp

/-- A node without a transition in flight has no stage to reach. -/
theorem stages_of_idle (h : (s.nd n).flight = none) : lateFault (parkInS3 s n) n = s := by
  have hp : parkInS3 s n = s := by simp [parkInS3, h]
  rw [hp, lateFault, h]
  cases (s.nd n).later <;> rfl

theorem settleNode_of_flight (h : (s.nd n).flight = some fl) (hf : fl.instr.fields = some f) :
    settleNode s n = lateFault (parkInS3 (stageOf s n fl f) n) n := by
  unfold settleNode
  simp only [h, hf]

/-- The S4 of a transition with a result completes it (R38). -/
theorem settleNode_done (h : InS4 s n fl f (.done r)) : settleNode s n = finish s n r := by
  obtain ⟨hfl, hf, due, hdue, hwhy⟩ := h
  rw [settleNode_of_flight hfl hf]
  unfold stageOf
  simp only [hwhy, if_pos hdue]
  exact stages_of_idle (finish_flight hfl hf)

/-- The S4 of a transition with an effect of its own has the effect and completes it (R36). -/
theorem endsIn_of_late (h : Late s n i f a b d ws)
    (hx : lateEffect i { n := n, f := f, nd := s.nd n, a := a, b := b, d := d } ws s = (t, r))
    (ht : (t.nd n).flight = (s.nd n).flight) : EndsIn s n t r := by
  obtain ⟨fl, rfl, hfl, hf, due, hdue, hwhy⟩ := h
  rw [EndsIn, settleNode_of_flight hfl hf]
  unfold stageOf
  simp only [hwhy, if_pos hdue, atS4, hx]
  exact stages_of_idle (finish_flight (ht.trans hfl) hf)

end Sys2Proof.Machine
end

section
/-! PROOF. `PARK`, `WAKE` and the release of a parked node (O12; R40, R143-R145). -/

namespace Sys2Proof.Machine
open Sys2Proof.Claims

variable {s t : State} {n m : NodeRef} {f : Fields} {fl : InFlight} {a b d : PWord} {ws : List PWord}

/-- The node that the low four bits of a word name, among those of an element. -/
theorem nodeRef_bits (e : ElemRef) (w : Word) : e.nodeRef (bits w 0 4) = e.nodeRef (BitVec.ofNat 4 (w.toNat % 16)) := by
  congr 1
  apply BitVec.eq_of_toNat_eq
  simp [bits]

/-- The S3 of `PARK` alone happens in the cycle before its S4 (R144). -/
theorem settleNode_park {due : Nat} (hfl : (s.nd n).flight = some fl) (hi : fl.instr = .park f) (hd : due = s.cycle + 1)
    (hw : fl.why = .s4 due (.late a b d ws)) (hp : fl.parks = false) (hl : (s.nd n).later = none) :
    settleNode s n = parkAtS3 s n fl due := by
  rw [settleNode_of_flight hfl (f := f) (by rw [hi]; rfl)]
  have hs : stageOf s n fl f = parkAtS3 s n fl due := by
    unfold stageOf
    simp only [hw, hi]
    rw [if_neg (by omega), if_pos (by omega)]
  rw [hs]
  have hnd : ∃ fl', ((parkAtS3 s n fl due).nd n).flight = some fl' ∧ fl'.parks = false ∧ ((parkAtS3 s n fl due).nd n).later = none := by
    rw [parkAtS3, State.updNd, State.nd_setNd_self]
    split
    · exact ⟨_, rfl, hp, hl⟩
    · exact ⟨_, rfl, hp, hl⟩
  obtain ⟨fl', hfl', hp', hl'⟩ := hnd
  have h3 : parkInS3 (parkAtS3 s n fl due) n = parkAtS3 s n fl due := by simp [parkInS3, hfl', hp']
  rw [h3, lateFault, hl']

/-! ## The release -/

theorem releaseParked_of_park (hst : (s.nd m).st = .parked) (hfl : (s.nd m).flight = some fl) (hw : fl.why = .park) :
    releaseParked s m = some (s.updNd m (fun nd => { nd with
      st := .run
      nextAt := s.cycle + 2
      flight := some { fl with why := .s4 (s.cycle + 1) (.done { cond := true }) } })) := by
  simp only [releaseParked, hst, hfl, hw]

theorem releaseParked_of_cxTrap (hst : (s.nd m).st = .parked) (hfl : (s.nd m).flight = some fl) (hw : fl.why = .cxTrap) :
    releaseParked s m = some (s.updNd m (fun nd => { nd with
      st := .run
      nextAt := s.cycle + 2
      flight := none
      prefer := some fl.slot })) := by
  simp only [releaseParked, hst, hfl, hw]

/-- The node is in a park that `WAKE` ends. -/
def Wakeable (s : State) (m : NodeRef) : Prop :=
  (s.nd m).st = .parked ∧ ∃ fl, (s.nd m).flight = some fl ∧ (fl.why = .park ∨ fl.why = .cxTrap)

theorem releaseParked_of_not (h : ¬Wakeable s m) : releaseParked s m = none := by
  unfold releaseParked
  split
  · next fl hst hfl =>
    split
    · next hw => exact absurd ⟨hst, fl, hfl, .inl hw⟩ h
    · next hw => exact absurd ⟨hst, fl, hfl, .inr hw⟩ h
    · rfl
  · rfl

/-- A node that reaches its S4 is in no park. -/
theorem ne_of_why {due : Nat} {act : S4Act} {fl' : InFlight} (hfl : (s.nd n).flight = some fl) (hw : fl.why = .s4 due act)
    (hm : (s.nd m).flight = some fl') (hw' : fl'.why = .park ∨ fl'.why = .cxTrap) : n ≠ m := by
  rintro rfl
  rw [hfl, Option.some.injEq] at hm
  subst hm
  rw [hw] at hw'
  rcases hw' with h | h <;> cases h

/-- The S4 of `WAKE` that releases the node it names (R145). -/
theorem wake_releases (h : Late s n (.wake f) f a b d ws) (hr : releaseParked s (n.elemRef.nodeRef (bits a.val 0 4)) = some t)
    (ht : t.nd n = s.nd n) : EndsIn s n t { cond := true } := by
  apply endsIn_of_late h _ (by rw [ht])
  simp only [lateEffect, wakeAtS4, hr]

/-- The S4 of `WAKE` that finds the node it names in no such park (R145). -/
theorem wake_pends (h : Late s n (.wake f) f a b d ws) (hr : releaseParked s (n.elemRef.nodeRef (bits a.val 0 4)) = none) :
    EndsIn s n (s.updNd (n.elemRef.nodeRef (bits a.val 0 4)) (fun nd => { nd with wpend := true })) { cond := false } := by
  refine endsIn_of_late h (by simp only [lateEffect, wakeAtS4, hr]) ?_
  by_cases hm : n = n.elemRef.nodeRef (bits a.val 0 4)
  · rw [← hm, State.updNd, State.nd_setNd_self]
  · rw [State.updNd, State.nd_setNd_ne _ _ hm]

end Sys2Proof.Machine

namespace Sys2Proof.Proofs
open Sys2Proof.Machine Sys2Proof.Claims

/-- The S4 of `WAKE` by the park in which it finds the node it names (R145). -/
theorem wakeAtItsS4 (s : State) (f : Fields) (n : NodeRef) (a b d : PWord) (ws : List PWord) (h : Late s n (.wake f) f a b d ws) :
    let m := n.elemRef.nodeRef (a.val.extractLsb' 0 4)
    let parkedBy := fun (why : Flight) (fl : InFlight) => (s.nd m).st = .parked ∧ (s.nd m).flight = some fl ∧ fl.why = why
    (∀ fl, parkedBy .park fl → EndsIn s n (s.updNd m (fun nd => { nd with
      st := .run
      nextAt := s.cycle + 2
      flight := some { fl with why := .s4 (s.cycle + 1) (.done { cond := true }) } })) { cond := true }) ∧
    (∀ fl, parkedBy .cxTrap fl → EndsIn s n (s.updNd m (fun nd => { nd with
      st := .run
      nextAt := s.cycle + 2
      flight := none
      prefer := some fl.slot })) { cond := true }) ∧
    ((∀ fl, ¬parkedBy .park fl ∧ ¬parkedBy .cxTrap fl) → EndsIn s n (s.updNd m (fun nd => { nd with wpend := true })) { cond := false }) := by
  intro m parkedBy
  obtain ⟨fl, hi, hfl, -, due, -, hw⟩ := id h
  refine ⟨fun fl' hp => ?_, fun fl' hp => ?_, fun hno => ?_⟩
  · obtain ⟨hst, hfl', hw'⟩ := hp
    exact wake_releases h (releaseParked_of_park hst hfl' hw') (State.nd_setNd_ne _ _ (ne_of_why hfl hw hfl' (.inl hw')))
  · obtain ⟨hst, hfl', hw'⟩ := hp
    exact wake_releases h (releaseParked_of_cxTrap hst hfl' hw') (State.nd_setNd_ne _ _ (ne_of_why hfl hw hfl' (.inr hw')))
  · have hn : ¬Wakeable s m := by
      rintro ⟨hst, fl', hfl', hw' | hw'⟩
      · exact (hno fl').1 ⟨hst, hfl', hw'⟩
      · exact (hno fl').2 ⟨hst, hfl', hw'⟩
    exact wake_pends h (releaseParked_of_not hn)

/-- Settles O12: `PARK` acts in its S3, and `WAKE` by the park in which its S4 finds the node it names. -/
theorem parkAndWake : Obligations.ParkAndWake := by
  intro s f o m allowed
  have hm : (issueOps s (.wake f) f).n.elemRef.nodeRef (bits o.val 0 4) = m := nodeRef_bits _ _
  have hbar : (domOf ((issueClaim s (.wake f) f).nd ((issueOps s (.wake f) f).n.elemRef.nodeRef (bits o.val 0 4))) ≠
      domOf (issueOps s (.wake f) f).nd ∧ (issueClaim s (.wake f) f).privileged s.cur.node = false) ↔ ¬allowed := by
    rw [hm, issueClaim_dom, issueClaim_privileged, privileged_eq_isPriv, issueOps_nd, not_or, Bool.not_eq_true]
    rfl
  refine ⟨fun hp => issue_acts hp rfl, fun n fl a b d ws hfl hi hw hp hl => ?_, fun hp ha => ?_, fun hp ha hno => ?_,
    fun hp ha hok => ?_, wakeAtItsS4 s f⟩
  · exact settleNode_park hfl hi rfl hw hp hl
  · exact issue_now hp (if_pos ha)
  · refine (issue_error (fi := nodeFault m.node.toNat) hp ?_).trans rfl
    rw [← hm]
    exact (if_neg (Bool.eq_false_iff.mp ha)).trans (if_pos (hbar.mpr hno))
  · exact issue_acts hp ((if_neg (Bool.eq_false_iff.mp ha)).trans (if_neg (fun h => hbar.mp h hok)))

end Sys2Proof.Proofs
end

section
/-! SUPPORT. What the effects of S4 leave in the node and in its element, as functions of what they were (R36-R39, R146). -/

namespace Sys2Proof.Machine
open Sys2Proof.Claims

variable {s t : State} {n m : NodeRef} {e : ElemRef} {i : Instr} {f : Fields} {r : Result} {nd : Node} {qa qb : Nat}

/-! ## The node -/

/-- A node that a scalar result enters through DST (R38). -/
def Node.takeDst (nd : Node) (i : Instr) (f : Fields) (kind fmt : BitVec 3) (v : PWord) : Node :=
  if writesDst i then
    if f.dst.toNat < 16 then nd.setG f.dst.toNat v
    else match coCode f.dst with
      | some k => nd.setCo k (nd.coq k ++ [tokenOf kind fmt v])
      | none => nd
  else nd

/-- A node that the first result of its transition enters (R38). -/
def Node.takeResult (nd : Node) (i : Instr) (f : Fields) (r : Result) : Node :=
  match r.dst with
  | some v => nd.takeDst i f r.kind r.fmt v
  | none => nd

/-- A node that the second output of a firing enters (R235). -/
def Node.takeSecond (nd : Node) (f : Fields) (r : Result) : Node :=
  match r.dst2 with
  | some v => if f.dst.toNat < 15 then nd.setG (f.dst.toNat + 1) v else nd
  | none => nd

/-- A node as the S4 of its transition leaves it (R38). -/
def Node.commit (nd : Node) (i : Instr) (f : Fields) (qa qb : Nat) (r : Result) : Node :=
  let nd := popChan (popChan ((nd.takeResult i f r).takeSecond f r) f.dqa f.cha qa) f.dqb f.chb qb
  { nd with fpstat := raiseFlags nd.fpstat r.flags, p := applyPop nd.p f.psel f.pop r.cond }

/-- The state with the first result of a transition written, or the mailbox for it freed. -/
def putResult (s : State) (n : NodeRef) (i : Instr) (f : Fields) (r : Result) : State :=
  match r.dst with
  | some v => writeDst s n i f r.kind r.fmt v
  | none => leaveDst s n i f

/-- The state with the second output of a firing written. -/
def putSecond (s : State) (n : NodeRef) (f : Fields) (r : Result) : State :=
  match r.dst2 with
  | some v => if f.dst.toNat < 15 then s.updNd n (fun nd => nd.setG (f.dst.toNat + 1) v) else s
  | none => s

theorem commit_eq : commit s n i f qa qb r = (writeLanes (putSecond (putResult s n i f r) n f r) n r.lanes).updNd n (fun nd =>
    { popChan (popChan nd f.dqa f.cha qa) f.dqb f.chb qb with
      fpstat := raiseFlags (popChan (popChan nd f.dqa f.cha qa) f.dqb f.chb qb).fpstat r.flags
      p := applyPop (popChan (popChan nd f.dqa f.cha qa) f.dqb f.chb qb).p f.psel f.pop r.cond }) := rfl

theorem writeDst_nd {kind fmt : BitVec 3} {v : PWord} :
    (writeDst s n i f kind fmt v).nd n = (s.nd n).takeDst i f kind fmt v := by
  unfold writeDst Node.takeDst
  split
  · split
    · simp [State.updNd]
    · cases coCode f.dst with
      | some k => simp [State.updNd]
      | none => cases mboxCode f.dst <;> simp [State.updEl]
  · rfl

theorem putResult_nd : (putResult s n i f r).nd n = (s.nd n).takeResult i f r := by
  unfold putResult Node.takeResult
  cases r.dst with
  | none => exact leaveDst_nd
  | some v => exact writeDst_nd

theorem putResult_nd_ne (h : m ≠ n) : (putResult s n i f r).nd m = s.nd m := by
  unfold putResult
  cases r.dst with
  | none => exact leaveDst_nd
  | some v => exact writeDst_nd_ne h

theorem putSecond_cases : (∃ v, putSecond s n f r = s.updNd n (fun nd => nd.setG (f.dst.toNat + 1) v) ∧
      (s.nd n).takeSecond f r = (s.nd n).setG (f.dst.toNat + 1) v) ∨
    (putSecond s n f r = s ∧ (s.nd n).takeSecond f r = s.nd n) := by
  unfold putSecond Node.takeSecond
  cases r.dst2 with
  | none => exact .inr ⟨rfl, rfl⟩
  | some v =>
    by_cases h : f.dst.toNat < 15
    · exact .inl ⟨v, if_pos h, if_pos h⟩
    · exact .inr ⟨if_neg h, if_neg h⟩

theorem putSecond_nd : (putSecond s n f r).nd n = (s.nd n).takeSecond f r := by
  rcases putSecond_cases (s := s) (n := n) (f := f) (r := r) with ⟨v, h, h'⟩ | ⟨h, h'⟩
  · rw [h, h', State.updNd, State.nd_setNd_self]
  · rw [h, h']

theorem putSecond_nd_ne (h : m ≠ n) : (putSecond s n f r).nd m = s.nd m := by
  rcases putSecond_cases (s := s) (n := n) (f := f) (r := r) with ⟨v, h', -⟩ | ⟨h', -⟩
  · rw [h', State.updNd, State.nd_setNd_ne _ _ h]
  · rw [h']

theorem putSecond_el : (putSecond s n f r).el e = s.el e := by
  rcases putSecond_cases (s := s) (n := n) (f := f) (r := r) with ⟨v, h, -⟩ | ⟨h, -⟩ <;> rw [h]
  rfl

theorem commit_nd : (commit s n i f qa qb r).nd n = (s.nd n).commit i f qa qb r := by
  rw [commit_eq, State.updNd, State.nd_setNd_self, writeLanes_nd, putSecond_nd, putResult_nd]
  rfl

theorem commit_nd_ne (h : m ≠ n) : (commit s n i f qa qb r).nd m = s.nd m := by
  rw [commit_eq, State.updNd, State.nd_setNd_ne _ _ h, writeLanes_nd, putSecond_nd_ne h, putResult_nd_ne h]

/-- The pop of a channel changes the channel and the entries that its source may take again (R167, R172). -/
theorem popChan_eq (nd : Node) (dq : Bool) (c : BitVec 3) (q : Nat) :
    ∃ ci fr sp, popChan nd dq c q = { nd with ci := ci, freed := fr, spare := sp } := by
  unfold popChan
  split
  · exact ⟨nd.ci, nd.freed, nd.spare, rfl⟩
  · split
    · exact ⟨nd.ci, nd.freed, nd.spare, rfl⟩
    · unfold Node.popCi
      dsimp only
      split
      · split
        · exact ⟨_, _, _, rfl⟩
        · exact ⟨_, _, _, rfl⟩
      · exact ⟨_, _, _, rfl⟩

theorem takeDst_eq (nd : Node) {kind fmt : BitVec 3} {v : PWord} :
    ∃ g co, nd.takeDst i f kind fmt v = { nd with g := g, co := co } := by
  unfold Node.takeDst
  split
  · split
    · exact ⟨_, _, rfl⟩
    · split
      · exact ⟨_, _, rfl⟩
      · exact ⟨nd.g, nd.co, rfl⟩
  · exact ⟨nd.g, nd.co, rfl⟩

theorem takeResult_eq (nd : Node) : ∃ g co, nd.takeResult i f r = { nd with g := g, co := co } := by
  unfold Node.takeResult
  cases r.dst with
  | none => exact ⟨nd.g, nd.co, rfl⟩
  | some v => exact takeDst_eq nd

theorem takeSecond_eq (nd : Node) : ∃ g, nd.takeSecond f r = { nd with g := g } := by
  unfold Node.takeSecond
  split
  · split
    · exact ⟨_, rfl⟩
    · exact ⟨nd.g, rfl⟩
  · exact ⟨nd.g, rfl⟩

/-- What S4 may change of a node: registers, channels, FPSTAT and the predicates. -/
theorem node_commit_eq (nd : Node) : ∃ g co ci fr sp fp p, nd.commit i f qa qb r =
    { nd with g := g, co := co, ci := ci, freed := fr, spare := sp, fpstat := fp, p := p } := by
  obtain ⟨_, _, h1⟩ := takeResult_eq (i := i) (f := f) (r := r) nd
  obtain ⟨_, h2⟩ := takeSecond_eq (f := f) (r := r) (nd.takeResult i f r)
  obtain ⟨_, _, _, h3⟩ := popChan_eq ((nd.takeResult i f r).takeSecond f r) f.dqa f.cha qa
  obtain ⟨_, _, _, h4⟩ := popChan_eq (popChan ((nd.takeResult i f r).takeSecond f r) f.dqa f.cha qa) f.dqb f.chb qb
  unfold Node.commit
  dsimp only
  rw [h4, h3, h2, h1]
  exact ⟨_, _, _, _, _, _, _, rfl⟩

/-! ## The element -/

/-- The mailboxes as a result leaves them: the one claimed for writing is FULL with it, or EMPTY without one (R146). -/
def mboxAfter (mb : Map Mbox) (i : Instr) (f : Fields) (r : Result) : Map Mbox :=
  match mboxWrite i f with
  | some m => Map.modify mb {} m (fun x => match r.dst with
      | some v => { x with st := .full, word := v }
      | none => { x with st := .empty })
  | none => mb

/-- Vector registers with the lanes of a result. -/
def lanesAfter (vr : Map PWord) (ls : List (Nat × PWord)) : Map PWord := ls.foldl (fun m x => Map.set m x.1 x.2) vr

theorem writeDst_el {v : PWord} (h : r.dst = some v) : (writeDst s n i f r.kind r.fmt v).el n.elemRef =
    { s.el n.elemRef with mbox := mboxAfter (s.el n.elemRef).mbox i f r } := by
  unfold writeDst mboxAfter mboxWrite
  split
  · cases hm : mboxCode f.dst with
    | some m =>
      have hc : 24 ≤ f.dst.toNat ∧ f.dst.toNat ≤ 27 := by
        by_contra hc
        rw [mboxCode, if_neg hc] at hm
        cases hm
      have hco : coCode f.dst = none := by rw [coCode, if_neg (by omega)]
      simp [State.updEl, h, hco, show ¬f.dst.toNat < 16 by omega]
    | none =>
      split
      · rfl
      · cases coCode f.dst <;> rfl
  · rfl

theorem leaveDst_el (h : r.dst = none) : (leaveDst s n i f).el n.elemRef =
    { s.el n.elemRef with mbox := mboxAfter (s.el n.elemRef).mbox i f r } := by
  unfold leaveDst mboxAfter
  cases mboxWrite i f with
  | some m => simp [State.updEl, h]
  | none => rfl

theorem writeLanes_el (ls : List (Nat × PWord)) : (writeLanes s n ls).el n.elemRef =
    { s.el n.elemRef with vreg := lanesAfter (s.el n.elemRef).vreg ls } := by
  unfold writeLanes
  split
  · next h => rw [h]; rfl
  · simp [State.updEl, lanesAfter]

theorem putResult_el : (putResult s n i f r).el n.elemRef =
    { s.el n.elemRef with mbox := mboxAfter (s.el n.elemRef).mbox i f r } := by
  unfold putResult
  cases h : r.dst with
  | none => exact leaveDst_el h
  | some v => exact writeDst_el h

theorem putResult_el_ne (h : e ≠ n.elemRef) : (putResult s n i f r).el e = s.el e := by
  unfold putResult
  cases r.dst with
  | none =>
    rcases leaveDst_cases (s := s) (n := n) (i := i) (f := f) with ⟨_, h'⟩ | h' <;> simp only [h']
    exact State.el_setEl_ne _ _ h
  | some v => exact writeDst_el_ne h

theorem commit_el : (commit s n i f qa qb r).el n.elemRef = { s.el n.elemRef with
    mbox := mboxAfter (s.el n.elemRef).mbox i f r
    vreg := lanesAfter (s.el n.elemRef).vreg r.lanes } := by
  rw [commit_eq, State.updNd, State.el_setNd, writeLanes_el, putSecond_el, putResult_el]

theorem commit_el_ne (h : e ≠ n.elemRef) : (commit s n i f qa qb r).el e = s.el e := by
  rw [commit_eq, State.updNd, State.el_setNd, writeLanes_el_ne h, putSecond_el, putResult_el_ne h]

/-! ## Everything else -/

/-- A state differs from another in its nodes and elements alone. -/
def NodesAndElems (s t : State) : Prop := t = { s with node := t.node, elem := t.elem }

theorem NodesAndElems.refl (s : State) : NodesAndElems s s := rfl

theorem NodesAndElems.trans {u : State} (h : NodesAndElems s t) (k : NodesAndElems t u) : NodesAndElems s u := by
  rw [NodesAndElems] at h k ⊢
  rw [k, h]

theorem NodesAndElems.updNd (s : State) (n : NodeRef) (g : Node → Node) : NodesAndElems s (s.updNd n g) := rfl
theorem NodesAndElems.updEl (s : State) (e : ElemRef) (g : Elem → Elem) : NodesAndElems s (s.updEl e g) := rfl

theorem nodesAndElems_writeDst {kind fmt : BitVec 3} {v : PWord} : NodesAndElems s (writeDst s n i f kind fmt v) := by
  rcases writeDst_cases (s := s) (n := n) (i := i) (f := f) (kind := kind) (fmt := fmt) (v := v) with
    ⟨_, h⟩ | ⟨_, h⟩ | h <;> rw [h] <;> rfl

theorem nodesAndElems_leaveDst : NodesAndElems s (leaveDst s n i f) := by
  rcases leaveDst_cases (s := s) (n := n) (i := i) (f := f) with ⟨_, h⟩ | h <;> rw [h] <;> rfl

theorem nodesAndElems_writeLanes (ls : List (Nat × PWord)) : NodesAndElems s (writeLanes s n ls) := by
  rcases writeLanes_cases (s := s) (n := n) ls with ⟨_, h⟩ | h <;> rw [h] <;> rfl

theorem nodesAndElems_putResult : NodesAndElems s (putResult s n i f r) := by
  unfold putResult
  cases r.dst with
  | none => exact nodesAndElems_leaveDst
  | some v => exact nodesAndElems_writeDst

theorem nodesAndElems_putSecond : NodesAndElems s (putSecond s n f r) := by
  rcases putSecond_cases (s := s) (n := n) (f := f) (r := r) with ⟨v, h, -⟩ | ⟨h, -⟩ <;> rw [h] <;> rfl

theorem nodesAndElems_commit : NodesAndElems s (commit s n i f qa qb r) := by
  rw [commit_eq]
  exact ((nodesAndElems_putResult.trans nodesAndElems_putSecond).trans (nodesAndElems_writeLanes r.lanes)).trans (NodesAndElems.updNd _ _ _)

end Sys2Proof.Machine
end

section
/-! PROOF. What a completing transition writes at its S4, and its frame (O31; R36-R42, R79, R146). -/

namespace Sys2Proof.Machine
open Sys2Proof.Claims

variable {s t : State} {n m : NodeRef} {e : ElemRef} {i : Instr} {f : Fields} {r : Result} {nd : Node} {qa qb : Nat} {fl : InFlight}
  {fi : FaultInfo}

/-! ## A result in its node -/

theorem chanCode_eq_some {c : BitVec 3} (h : c.toNat < 4) : chanCode c = some (BitVec.ofNat 2 c.toNat) := if_pos h
theorem chanCode_eq_none {c : BitVec 3} (h : ¬c.toNat < 4) : chanCode c = none := if_neg h

theorem coCode_eq_some_iff {c : BitVec 5} {k : BitVec 2} : coCode c = some k ↔ c.toNat = 20 + k.toNat := by
  have hk := k.isLt
  unfold coCode
  split
  · rw [Option.some.injEq]
    constructor
    · rintro rfl
      simp only [BitVec.toNat_ofNat]
      omega
    · intro h
      rw [h]
      simp
  · simp only [reduceCtorEq, false_iff]
    omega

theorem mboxCode_eq_some_iff {c : BitVec 5} {m : Nat} : mboxCode c = some m ↔ m < 4 ∧ c.toNat = 24 + m := by
  unfold mboxCode
  split
  · rw [Option.some.injEq]
    omega
  · simp only [reduceCtorEq, false_iff]
    omega

theorem mboxWrite_eq_some_iff {m : Nat} : mboxWrite i f = some m ↔ writesDst i = true ∧ m < 4 ∧ f.dst.toNat = 24 + m := by
  unfold mboxWrite
  split
  · next h => simp [h, mboxCode_eq_some_iff]
  · next h => simp [h]

theorem setCo_coq (nd : Node) (k j : BitVec 2) (q : List Token) : (nd.setCo k q).coq j = if j = k then q else nd.coq j := by
  unfold Node.setCo Node.coq
  by_cases hjk : j = k
  · subst hjk
    by_cases hq : q = []
    · simp [hq]
    · simp [hq]
  · have hne : j.toNat ≠ k.toNat := fun h => hjk (BitVec.eq_of_toNat_eq h)
    by_cases hq : q = []
    · simp [hq, hjk, Map.get_erase_ne _ _ hne]
    · simp [hq, hjk, Map.get_set_ne _ _ _ hne]

theorem setCi_ciq (nd : Node) (k j : BitVec 2) (q : List Token) : (nd.setCi k q).ciq j = if j = k then q else nd.ciq j := by
  unfold Node.setCi Node.ciq
  by_cases hjk : j = k
  · subst hjk
    by_cases hq : q = []
    · simp [hq]
    · simp [hq]
  · have hne : j.toNat ≠ k.toNat := fun h => hjk (BitVec.eq_of_toNat_eq h)
    by_cases hq : q = []
    · simp [hq, hjk, Map.get_erase_ne _ _ hne]
    · simp [hq, hjk, Map.get_set_ne _ _ _ hne]

/-- A result goes to the g register that DST names, and to no other (R38). -/
theorem takeResult_gReg {k : Nat} (hk : k < 16) : (nd.takeResult i f r).gReg k =
    if writesDst i = true ∧ f.dst.toNat = k then r.dst.getD (nd.gReg k) else nd.gReg k := by
  unfold Node.takeResult
  cases r.dst with
  | none => simp
  | some v =>
    unfold Node.takeDst
    by_cases hw : writesDst i = true
    · by_cases hd : f.dst.toNat < 16
      · simp [hw, hd, Node.gReg, Node.setG, Map.get_set, eq_comm]
      · have hne : f.dst.toNat ≠ k := by omega
        simp only [hw, hd, hne, if_true, if_false, and_false]
        cases coCode f.dst <;> rfl
    · simp [hw]

/-- A result goes to the output channel that DST names, POISON in its place where it is poisoned (R38, R39). -/
theorem takeResult_coq (k : BitVec 2) : (nd.takeResult i f r).coq k =
    if writesDst i = true ∧ f.dst.toNat = 20 + k.toNat then
      nd.coq k ++ (match r.dst with
        | some v => [tokenOf r.kind r.fmt v]
        | none => [])
    else nd.coq k := by
  unfold Node.takeResult
  cases r.dst with
  | none => simp
  | some v =>
    unfold Node.takeDst
    by_cases hw : writesDst i = true
    · by_cases hd : f.dst.toNat < 16
      · have hne : f.dst.toNat ≠ 20 + k.toNat := by omega
        simp only [hw, hd, hne, if_true, if_false, and_false]
        rfl
      · simp only [hw, hd, if_true, if_false, true_and]
        cases hc : coCode f.dst with
        | none =>
          rw [if_neg (fun h => by rw [coCode_eq_some_iff.mpr h] at hc; cases hc)]
        | some j =>
          have hj := coCode_eq_some_iff.mp hc
          have hkj : k = j ↔ f.dst.toNat = 20 + k.toNat := by
            rw [hj]
            constructor
            · rintro rfl; rfl
            · intro h; exact BitVec.eq_of_toNat_eq (by omega)
          simp only [setCo_coq, hkj]
          split
          · next h => rw [hkj.mpr h]
          · rfl
    · simp [hw]

/-! ## The pops -/

theorem popCi_ciq (nd : Node) (k j : BitVec 2) : (nd.popCi k).ciq j = if j = k then (nd.ciq j).tail else nd.ciq j := by
  have h : (nd.popCi k).ciq j = (nd.setCi k (nd.ciq k).tail).ciq j := by
    unfold Node.popCi
    dsimp only
    split
    · split <;> rfl
    · rfl
  rw [h, setCi_ciq]
  split
  · next hj => rw [hj]
  · rfl

/-- A pop takes the head of its channel, but for a token that has been replaced since S2 (R36, R175). -/
theorem popChan_ciq (nd : Node) (dq : Bool) (c : BitVec 3) (q : Nat) (k : BitVec 2) :
    (popChan nd dq c q).ciq k = popped nd dq c q k.toNat (nd.ciq k) := by
  have hk := k.isLt
  by_cases h : dq = true ∧ c.toNat = k.toNat
  · obtain ⟨hd, hck⟩ := h
    have hc : chanCode c = some k := by
      rw [chanCode_eq_some (by omega), hck]
      simp
    unfold popChan popped
    simp only [hd, if_true, hc, hck, true_and, Node.cameAt, Node.ccfgAt, ccLv, bitAt, Bool.and_eq_true, ite_not]
    split
    · next h => exact (if_pos ⟨h.1, of_decide_eq_true h.2⟩).symm
    · next h => rw [popCi_ciq, if_pos rfl, if_neg (fun h' => h ⟨h'.1, decide_eq_true h'.2⟩)]
  · have hp : popped nd dq c q k.toNat (nd.ciq k) = nd.ciq k := if_neg (fun h' => h ⟨h'.1, h'.2.1⟩)
    rw [hp]
    unfold popChan
    split
    · rfl
    · next j hj =>
      have hkj : k ≠ j := by
        rintro rfl
        split at hj
        · next hd =>
          unfold chanCode at hj
          split at hj
          · rw [Option.some.injEq] at hj
            exact h ⟨hd, by rw [← hj]; simp only [BitVec.toNat_ofNat]; omega⟩
          · cases hj
        · cases hj
      split
      · rfl
      · rw [popCi_ciq, if_neg hkj]

/-- Whether a channel is popped does not depend on what is popped before it. -/
theorem popped_congr {nd nd' : Node} (hc : nd'.ccfg = nd.ccfg) (ha : nd'.came = nd.came) (dq : Bool) (c : BitVec 3) (q k : Nat)
    (ts : List Token) : popped nd' dq c q k ts = popped nd dq c q k ts := by
  simp only [popped, hc, ha]

/-! ## Flags and predicates -/

theorem raiseFlags_high (w : Word) (fl : BitVec 6) : (raiseFlags w fl).toNat / 64 = w.toNat / 64 := by
  apply Nat.eq_of_testBit_eq
  intro k
  rw [show 64 = 2 ^ 6 from rfl, Nat.testBit_div_two_pow, Nat.testBit_div_two_pow]
  simp only [raiseFlags, BitVec.testBit_toNat, BitVec.getLsbD_or, BitVec.getLsbD_setWidth, BitVec.getLsbD_of_ge fl (k + 6) (by omega),
    Bool.and_false, Bool.or_false]

theorem raiseFlags_low (w : Word) (fl : BitVec 6) : (raiseFlags w fl).extractLsb' 0 6 = w.extractLsb' 0 6 ||| fl := by
  apply BitVec.eq_of_getLsbD_eq
  intro k hk
  simp only [raiseFlags, BitVec.getLsbD_extractLsb', BitVec.getLsbD_or, BitVec.getLsbD_setWidth, Nat.zero_add, hk, decide_true,
    Bool.true_and, show k < 32 by omega]

/-- POP changes the one predicate that PSEL names (R36). -/
theorem applyPop_getLsbD (p : BitVec 8) (psel : BitVec 3) (pop : BitVec 2) (c : Bool) {k : Nat} (hk : k < 8) :
    (applyPop p psel pop c).getLsbD k =
      if psel.toNat = k ∧ pop ≠ 0 then (if pop = 1 then true else if pop = 2 then false else c) else p.getLsbD k := by
  have hbit : ∀ v, (setBits p psel.toNat 1 v).getLsbD k = if psel.toNat = k then v.testBit 0 else p.getLsbD k := by
    intro v
    rw [getLsbD_setBits]
    by_cases h : psel.toNat = k
    · subst h
      simp [hk]
    · rw [if_neg (by omega), if_neg h]
  unfold applyPop
  by_cases h0 : pop = 0
  · simp [h0]
  · simp only [h0, if_false, ne_eq, not_false_eq_true, and_true]
    by_cases h1 : pop = 1
    · rw [if_pos h1, if_pos h1, hbit]
      rfl
    · rw [if_neg h1, if_neg h1]
      by_cases h2 : pop = 2
      · rw [if_pos h2, if_pos h2, hbit]
        rfl
      · rw [if_neg h2, if_neg h2, hbit]
        cases c <;> rfl

/-- The registers, channels, FPSTAT and predicates of a node after the S4 of a transition with one result. -/
theorem node_commit_fields (h2 : r.dst2 = none) (nd : Node) : let new := nd.commit i f qa qb r
    (∀ k, k < 16 → new.gReg k = if writesDst i = true ∧ f.dst.toNat = k then r.dst.getD (nd.gReg k) else nd.gReg k) ∧
    (∀ k : BitVec 2, new.coq k = if writesDst i = true ∧ f.dst.toNat = 20 + k.toNat then
        nd.coq k ++ (match r.dst with
          | some v => [tokenOf r.kind r.fmt v]
          | none => [])
      else nd.coq k) ∧
    (∀ k : BitVec 2, new.ciq k = popped nd f.dqb f.chb qb k.toNat (popped nd f.dqa f.cha qa k.toNat (nd.ciq k))) ∧
    new.fpstat = raiseFlags nd.fpstat r.flags ∧ new.p = applyPop nd.p f.psel f.pop r.cond := by
  intro new
  have hsec : (nd.takeResult i f r).takeSecond f r = nd.takeResult i f r := by rw [Node.takeSecond, h2]
  obtain ⟨_, _, h1⟩ := takeResult_eq (i := i) (f := f) (r := r) nd
  obtain ⟨_, _, _, ha⟩ := popChan_eq (nd.takeResult i f r) f.dqa f.cha qa
  obtain ⟨_, _, _, hb⟩ := popChan_eq (popChan (nd.takeResult i f r) f.dqa f.cha qa) f.dqb f.chb qb
  have hnew : new = { popChan (popChan (nd.takeResult i f r) f.dqa f.cha qa) f.dqb f.chb qb with
      fpstat := raiseFlags nd.fpstat r.flags
      p := applyPop nd.p f.psel f.pop r.cond } := by
    simp only [new, Node.commit, hsec]
    rw [hb, ha, h1]
  refine ⟨fun k hk => ?_, fun k => ?_, fun k => ?_, by rw [hnew], by rw [hnew]⟩
  · rw [← takeResult_gReg hk, hnew, hb, ha]
    rfl
  · rw [← takeResult_coq k, hnew, hb, ha]
    rfl
  · have hq : new.ciq k = (popChan (popChan (nd.takeResult i f r) f.dqa f.cha qa) f.dqb f.chb qb).ciq k := by rw [hnew]; rfl
    rw [hq, popChan_ciq, popChan_ciq, popped_congr (nd := nd) (by rw [ha, h1]) (by rw [ha, h1]),
      popped_congr (nd := nd) (nd' := nd.takeResult i f r) (by rw [h1]) (by rw [h1]), h1]
    rfl

/-! ## S4 as a whole -/

/-- What a node stands for as its S4 begins: it goes on in RUN, without a transition in flight (R40, R42). -/
def Node.freed4 (nd : Node) (cycle : Nat) : Node :=
  { nd with
    st := .run
    flight := none
    nextAt := max nd.nextAt (cycle + 1) }

/-- A completion that no fault waits for writes its effects (R38). -/
theorem finish_eq_commit (hfl : (s.nd n).flight = some fl) (hf : fl.instr.fields = some f) (hl : (s.nd n).later = none) :
    finish s n r = commit (s.updNd n (fun nd => nd.freed4 s.cycle)) n fl.instr f fl.seqA fl.seqB r := by
  have hl' : ((commit (s.updNd n (fun nd => nd.freed4 s.cycle)) n fl.instr f fl.seqA fl.seqB r).nd n).later = none := by
    obtain ⟨_, _, _, _, _, _, _, hc⟩ := node_commit_eq (i := fl.instr) (f := f) (qa := fl.seqA) (qb := fl.seqB) (r := r)
      ((s.nd n).freed4 s.cycle)
    rw [commit_nd, State.updNd, State.nd_setNd_self, hc]
    exact hl
  unfold finish
  simp only [hfl, hf]
  change (match ((commit (s.updNd n (fun nd => nd.freed4 s.cycle)) n fl.instr f fl.seqA fl.seqB r).nd n).later with
    | none => commit (s.updNd n (fun nd => nd.freed4 s.cycle)) n fl.instr f fl.seqA fl.seqB r
    | some x => _) = _
  rw [hl']

/-- The S4 of a transition with a result, where no fault waits for it, writes its effects (R38). -/
theorem settleNode_eq_commit (h : InS4 s n fl f (.done r)) (hl : (s.nd n).later = none) :
    settleNode s n = commit (s.updNd n (fun nd => nd.freed4 s.cycle)) n fl.instr f fl.seqA fl.seqB r :=
  (settleNode_done h).trans (finish_eq_commit h.1 h.2.1 hl)

theorem settleNode_done_nd (h : InS4 s n fl f (.done r)) (hl : (s.nd n).later = none) :
    (settleNode s n).nd n = ((s.nd n).freed4 s.cycle).commit fl.instr f fl.seqA fl.seqB r := by
  rw [settleNode_eq_commit h hl, commit_nd, State.updNd, State.nd_setNd_self]

theorem settleNode_done_nd_ne (h : InS4 s n fl f (.done r)) (hl : (s.nd n).later = none) (hm : m ≠ n) :
    (settleNode s n).nd m = s.nd m := by
  rw [settleNode_eq_commit h hl, commit_nd_ne hm, State.updNd, State.nd_setNd_ne _ _ hm]

theorem settleNode_done_el (h : InS4 s n fl f (.done r)) (hl : (s.nd n).later = none) :
    (settleNode s n).el n.elemRef = { s.el n.elemRef with
      mbox := mboxAfter (s.el n.elemRef).mbox fl.instr f r
      vreg := lanesAfter (s.el n.elemRef).vreg r.lanes } := by
  rw [settleNode_eq_commit h hl, commit_el]
  rfl

theorem settleNode_done_el_ne (h : InS4 s n fl f (.done r)) (hl : (s.nd n).later = none) (he : e ≠ n.elemRef) :
    (settleNode s n).el e = s.el e := by
  rw [settleNode_eq_commit h hl, commit_el_ne he]
  rfl

theorem settleNode_done_rest (h : InS4 s n fl f (.done r)) (hl : (s.nd n).later = none) : NodesAndElems s (settleNode s n) := by
  rw [settleNode_eq_commit h hl]
  exact (NodesAndElems.updNd _ _ _).trans nodesAndElems_commit

/-- A node in its S4 has nothing in flight afterwards. -/
theorem settleNode_done_flight (h : InS4 s n fl f (.done r)) : ((settleNode s n).nd n).flight = none := by
  have hd := settleNode_done h
  obtain ⟨hfl, hf, -⟩ := h
  rw [hd]
  exact finish_flight hfl hf

/-! ## The end of the cycle -/

/-- A transition is `PARK`, whose stage comes after those of the others (R144). -/
def isPark : Instr → Bool
  | .park _ => true
  | _ => false

/-- One node's turn among those whose transition is `PARK`, or is not. -/
def turnOf (e : ElemRef) (park : Bool) (s : State) (k : Nat) : State :=
  match (s.nd (e.nodeRef (BitVec.ofNat 4 k))).flight with
  | none => s
  | some fl => if isPark fl.instr = park then settleNode s (e.nodeRef (BitVec.ofNat 4 k)) else s

theorem settleElem_eq : settleElem s e =
    (List.range 16).foldl (turnOf e true) ((List.range 16).foldl (turnOf e false) s) := by
  unfold settleElem turnOf isPark
  rfl

theorem turnOf_idle {park : Bool} {k : Nat} (h : (s.nd (e.nodeRef (BitVec.ofNat 4 k))).flight = none) : turnOf e park s k = s := by
  unfold turnOf
  rw [h]

theorem nodeRef_elemRef (n : NodeRef) : n.elemRef.nodeRef n.node = n := rfl

theorem foldl_turnOf_idle {park : Bool} (h : ∀ m, m.elemRef = e → (s.nd m).flight = none) (l : List Nat) :
    l.foldl (turnOf e park) s = s := by
  induction l with
  | nil => rfl
  | cons k l ih => rw [List.foldl_cons, turnOf_idle (h _ rfl), ih]

/-- Where one node of an element has a transition in flight, the others' turns change nothing. -/
theorem foldl_turnOf_one {park : Bool} {u : State} (hfl : (s.nd n).flight = some fl) (hp : isPark fl.instr = park)
    (ho : ∀ m, m.elemRef = n.elemRef → m ≠ n → (s.nd m).flight = none) (hu : settleNode s n = u)
    (hi : ∀ m, m.elemRef = n.elemRef → (u.nd m).flight = none) (l : List Nat) (hl : n.node.toNat ∈ l) (hb : ∀ k ∈ l, k < 16) :
    l.foldl (turnOf n.elemRef park) s = u := by
  induction l with
  | nil => cases hl
  | cons k l ih =>
    have hk : k < 16 := hb k (List.mem_cons_self ..)
    rw [List.foldl_cons]
    by_cases hkn : k = n.node.toNat
    · have hn : n.elemRef.nodeRef (BitVec.ofNat 4 k) = n := by rw [hkn, BitVec.ofNat_toNat, BitVec.setWidth_eq]; rfl
      have ht : turnOf n.elemRef park s k = u := by
        unfold turnOf
        rw [hn, hfl]
        exact (if_pos hp).trans hu
      rw [ht]
      exact foldl_turnOf_idle hi l
    · have hne : n.elemRef.nodeRef (BitVec.ofNat 4 k) ≠ n := by
        intro h
        have hx := congrArg (fun m : NodeRef => m.node.toNat) h
        simp only [ElemRef.nodeRef, BitVec.toNat_ofNat] at hx
        omega
      rw [turnOf_idle (ho _ rfl hne)]
      exact ih ((List.mem_cons.mp hl).resolve_left (Ne.symm hkn)) (fun j hj => hb j (List.mem_cons_of_mem _ hj))

/-- Nodes of the other kind take no turn. -/
theorem foldl_turnOf_other {park : Bool} (hfl : (s.nd n).flight = some fl) (hp : isPark fl.instr ≠ park)
    (ho : ∀ m, m.elemRef = n.elemRef → m ≠ n → (s.nd m).flight = none) (l : List Nat) :
    l.foldl (turnOf n.elemRef park) s = s := by
  induction l with
  | nil => rfl
  | cons k l ih =>
    have ht : turnOf n.elemRef park s k = s := by
      by_cases hn : n.elemRef.nodeRef (BitVec.ofNat 4 k) = n
      · unfold turnOf
        rw [hn, hfl]
        exact if_neg hp
      · exact turnOf_idle (ho _ rfl hn)
    rw [List.foldl_cons, ht, ih]

/-- Where no other transition is in the pipelines, the end of the cycle is the stage of the one (R40). -/
theorem settle_alone (hb : busyElems s = [n.elemRef]) (hfl : (s.nd n).flight = some fl)
    (ho : ∀ m, m.elemRef = n.elemRef → m ≠ n → (s.nd m).flight = none)
    (hi : ∀ m, m.elemRef = n.elemRef → ((settleNode s n).nd m).flight = none) : settle s = settleNode s n := by
  have hl : n.node.toNat ∈ List.range 16 := List.mem_range.mpr n.node.isLt
  have hr : ∀ k ∈ List.range 16, k < 16 := fun k hk => List.mem_range.mp hk
  have he : settle s = settleElem s n.elemRef := by rw [settle, hb, List.foldl_cons, List.foldl_nil]
  rw [he, settleElem_eq]
  cases hp : isPark fl.instr with
  | false => rw [foldl_turnOf_one hfl hp ho rfl hi _ hl hr, foldl_turnOf_idle hi]
  | true => rw [foldl_turnOf_other hfl (by simp [hp]) ho, foldl_turnOf_one hfl hp ho rfl hi _ hl hr]

/-! ## Mailboxes and lanes -/

theorem Map.get_modify_self {α : Type} (mb : Map α) (d : α) (k : Nat) (g : α → α) :
    Map.get (Map.modify mb d k g) d k = g (Map.get mb d k) := by
  rw [Map.modify, Map.get_set_self]

theorem Map.get_modify_ne {α : Type} (mb : Map α) (d : α) {k j : Nat} (h : j ≠ k) (g : α → α) :
    Map.get (Map.modify mb d k g) d j = Map.get mb d j := by
  rw [Map.modify, Map.get_set_ne _ _ _ h]

/-- A result leaves the mailboxes that its transition does not write. -/
theorem mboxAfter_ne {mb : Map Mbox} {k : Nat} (h : ¬(writesDst i = true ∧ f.dst.toNat = 24 + k)) :
    Map.get (mboxAfter mb i f r) {} k = Map.get mb {} k := by
  unfold mboxAfter
  cases hm : mboxWrite i f with
  | none => rfl
  | some j =>
    obtain ⟨hw, -, hj⟩ := mboxWrite_eq_some_iff.mp hm
    exact Map.get_modify_ne _ _ (fun hk => h ⟨hw, by rw [hk, hj]⟩) _

/-- The mailbox that DST names is FULL with the result (R36, R146). -/
theorem mboxAfter_self {mb : Map Mbox} {k : Nat} {v : PWord} (hk : k < 4) (hw : writesDst i = true) (hd : f.dst.toNat = 24 + k)
    (hr : r.dst = some v) : Map.get (mboxAfter mb i f r) {} k = { st := .full, word := v } := by
  unfold mboxAfter
  rw [mboxWrite_eq_some_iff.mpr ⟨hw, hk, hd⟩]
  dsimp only
  rw [Map.get_modify_self, hr]

theorem lanesAfter_ne {k : Nat} : ∀ (ls : List (Nat × PWord)) (vr : Map PWord), k ∉ ls.map Prod.fst →
    Map.get (lanesAfter vr ls) {} k = Map.get vr {} k
  | [], _, _ => rfl
  | x :: ls, vr, h => by
    rw [List.map_cons, List.mem_cons, not_or] at h
    rw [lanesAfter, List.foldl_cons, ← lanesAfter, lanesAfter_ne ls _ h.2, Map.get_set_ne _ _ _ h.1]

theorem lanesAfter_mem {k : Nat} {v : PWord} : ∀ (ls : List (Nat × PWord)) (vr : Map PWord), (k, v) ∈ ls →
    (ls.map Prod.fst).Nodup → Map.get (lanesAfter vr ls) {} k = v
  | [], _, h, _ => nomatch h
  | x :: ls, vr, h, hn => by
    rw [List.map_cons, List.nodup_cons] at hn
    rw [lanesAfter, List.foldl_cons, ← lanesAfter]
    rcases List.mem_cons.mp h with rfl | h
    · rw [lanesAfter_ne ls _ hn.1, Map.get_set_self]
    · exact lanesAfter_mem ls _ h hn.2

/-- The claims of a fault given back: what was read is FULL, what was to be written EMPTY (R146). -/
def mboxGivenBack (mb : Map Mbox) (reads : List Nat) (write : Option Nat) : Map Mbox :=
  let mb := reads.foldl (fun mb m => Map.modify mb {} m (fun x => if x.st = .empty then { x with st := .full } else x)) mb
  match write with
  | some m => Map.modify mb {} m (fun x => if x.st = .pending then { x with st := .empty } else x)
  | none => mb

theorem unclaim_eq : unclaim s n i f = s.updEl n.elemRef (fun e =>
    { e with mbox := mboxGivenBack e.mbox (mboxReads s n i f) (mboxWrite i f) }) := rfl

theorem get_refilled {k : Nat} : ∀ (reads : List Nat) (mb : Map Mbox),
    Map.get (reads.foldl (fun mb m => Map.modify mb {} m (fun x => if x.st = .empty then { x with st := .full } else x)) mb) {} k =
      if k ∈ reads ∧ (Map.get mb {} k).st = .empty then { Map.get mb {} k with st := .full } else Map.get mb {} k
  | [], mb => by simp
  | j :: reads, mb => by
    rw [List.foldl_cons, get_refilled reads]
    by_cases hk : k = j
    · subst hk
      rw [Map.get_modify_self]
      generalize Map.get mb {} k = x
      by_cases he : x.st = .empty <;> simp [he]
    · rw [Map.get_modify_ne _ _ hk]
      simp [hk]

theorem get_mboxGivenBack {k : Nat} (hk : k < 4) (mb : Map Mbox) (reads : List Nat) :
    Map.get (mboxGivenBack mb reads (mboxWrite i f)) {} k =
      if writesDst i = true ∧ f.dst.toNat = 24 + k ∧ (Map.get mb {} k).st = .pending then { Map.get mb {} k with st := .empty }
      else if k ∈ reads ∧ (Map.get mb {} k).st = .empty then { Map.get mb {} k with st := .full } else Map.get mb {} k := by
  unfold mboxGivenBack
  dsimp only
  cases hm : mboxWrite i f with
  | none =>
    rw [if_neg (fun h => by rw [mboxWrite_eq_some_iff.mpr ⟨h.1, hk, h.2.1⟩] at hm; cases hm)]
    exact get_refilled _ _
  | some j =>
    obtain ⟨hw, -, hj⟩ := mboxWrite_eq_some_iff.mp hm
    by_cases hkj : k = j
    · subst hkj
      dsimp only
      rw [Map.get_modify_self, get_refilled]
      generalize Map.get mb {} k = x
      by_cases hp : x.st = .pending
      · simp [hw, hj, hp]
      · by_cases hr : k ∈ reads ∧ x.st = .empty
        · simp [hr]
        · simp [hp, hr]
    · rw [if_neg (fun h => hkj (by omega))]
      dsimp only
      rw [Map.get_modify_ne _ _ hkj, get_refilled]

/-- A transition whose execution failed takes its fault at S4 with its claims given back (R38, R146). -/
theorem settleNode_fault (h : InS4 s n fl f (.fault fi)) : settleNode s n =
    takeFault ((unclaim s n fl.instr f).updNd n (fun nd => { nd with later := none })) n fl.slot (opcOf fl.instr) fi (some fl) := by
  obtain ⟨hfl, hf, due, hdue, hwhy⟩ := h
  rw [settleNode_of_flight hfl hf]
  unfold stageOf
  simp only [hwhy, if_pos hdue, atS4, faultInFlight, hfl, hf]
  exact stages_of_idle takeFault_flight

/-- Before its S4 a transition with a result changes nothing (R40). -/
theorem settleNode_early {due : Nat} (hfl : (s.nd n).flight = some fl) (hw : fl.why = .s4 due (.done r)) (hp : fl.parks = false)
    (hc : s.cycle < due) : settleNode s n = s := by
  have hpark : parkInS3 s n = s := by simp [parkInS3, hfl, hp]
  have hlate : lateFault s n = s := by
    unfold lateFault
    split
    · next x fl' _ hfl' =>
      rw [hfl, Option.some.injEq] at hfl'
      subst hfl'
      simp [withdrawable, hw]
    · rfl
  unfold settleNode
  simp only [hfl]
  split
  · next f _ =>
    have hs : stageOf s n fl f = s := by
      unfold stageOf
      simp only [hw, if_neg (Nat.not_le.mpr hc)]
      split <;> simp_all
    rw [hs, hpark, hlate]
  · rfl

end Sys2Proof.Machine

namespace Sys2Proof.Proofs
open Sys2Proof.Machine Sys2Proof.Claims

/-- The registers, channels, flags and predicates after the S4 of a transition (R36-R39, R79). -/
theorem effectsOfS4 : EffectsOfS4 := by
  intro s n fl f r hwf h hl h2 u i old new
  have hnew : new = (old.freed4 s.cycle).commit i f fl.seqA fl.seqB r := settleNode_done_nd h hl
  obtain ⟨hg, hco, hci, hfp, hp⟩ := node_commit_fields (qa := fl.seqA) (qb := fl.seqB) (i := i) (f := f) h2 (old.freed4 s.cycle)
  rw [← hnew] at hg hco hci hfp hp
  obtain ⟨_, _, _, _, _, _, _, hrest⟩ := node_commit_eq (i := i) (f := f) (r := r) (qa := fl.seqA) (qb := fl.seqB) (old.freed4 s.cycle)
  rw [← hnew] at hrest
  refine ⟨fun k hk => hg k hk, fun k => hco k, fun k _ => hci k, ?_, ?_, fun k hk => ?_, ?_⟩
  · rw [hfp]
    exact raiseFlags_high _ _
  · rw [hfp]
    exact raiseFlags_low _ _
  · rw [hp]
    exact applyPop_getLsbD _ _ _ _ hk
  · refine ⟨by rw [hrest]; rfl, by rw [hrest]; rfl, by rw [hrest]; rfl, by rw [hrest]; rfl, by rw [hrest]; rfl, by rw [hrest]; rfl,
      by rw [hrest]; rfl, by rw [hrest]; rfl, by rw [hrest]; rfl, by rw [hrest]; rfl, by rw [hrest]; rfl,
      fun m hm hw hd v hv => ?_, fun hb ho => ?_⟩
    · rw [settleNode_done_el h hl]
      exact mboxAfter_self hm hw hd hv
    · refine settle_alone hb h.1 ho (fun m hm => ?_)
      by_cases hmn : m = n
      · rw [hmn, settleNode_done_flight h]
      · rw [settleNode_done_nd_ne h hl hmn, ho m hm hmn]

/-- Everything that the S4 of a transition leaves as it was, and the S4 of one that failed (R36, R38, R42, R146). -/
theorem frameOfS4 : FrameOfS4 := by
  intro s n fl f i
  refine ⟨fun r h hl => ⟨fun pa => ?_, fun m hm => settleNode_done_nd_ne h hl hm, fun e he => settleNode_done_el_ne h hl he,
    ⟨_, _, settleNode_done_el h hl, fun m hm => mboxAfter_ne hm, fun k hk => lanesAfter_ne _ _ hk,
      fun k v hk hn => lanesAfter_mem _ _ hk hn⟩, settleNode_done_rest h hl⟩, fun fi h => ?_, fun due r hfl hw hp hc => settleNode_early hfl hw hp hc⟩
  · rw [settleNode_done_rest h hl]
  · refine ⟨_, _, settleNode_fault h, ?_, fun m hm => ?_, fun e he => ?_, ?_, rfl, fun m hm => get_mboxGivenBack hm _ _⟩
    · simp [State.updNd, unclaim_eq, State.updEl]
    · rw [State.updNd, State.nd_setNd_ne _ _ hm]
      rfl
    · rw [State.updNd, State.el_setNd, unclaim_eq, State.updEl, State.el_setEl_ne _ _ he]
    · rw [State.updNd, State.el_setNd, unclaim_eq, State.updEl, State.el_setEl_self]

/-- Settles O31: S4 is the write of the result into its node and its mailbox and lanes, and nothing else. -/
theorem effectsAndFrameOfS4 : Obligations.EffectsAndFrameOfS4 := ⟨effectsOfS4, frameOfS4⟩

end Sys2Proof.Proofs
end

section
/-! SUPPORT. Words of a local store by their bytes: what a word reads, and what a store of a part of it leaves (R7, R28, R124). -/

namespace Sys2Proof.Machine
open Sys2Proof.Claims

variable {s : State} {e : ElemRef} {m : List Host.Cell}

/-! ## Bytes of a word -/

theorem leNat_four (a b c d : Byte) : leNat [a, b, c, d] = a.toNat + 256 * (b.toNat + 256 * (c.toNat + 256 * d.toNat)) := by
  simp [leNat]

theorem readBytes_four (m : List Host.Cell) (a : Nat) :
    readBytes m a 4 = [memGet m a, memGet m (a + 1), memGet m (a + 2), memGet m (a + 3)] := rfl

/-- Byte `k` of a word in memory is the byte that stands there (R7). -/
theorem memWord_byte (m : List Host.Cell) (a : Nat) {k : Nat} (hk : k < 4) :
    BitVec.ofNat 8 ((memWord m a).toNat / 256 ^ k) = memGet m (a + k) := by
  have h0 := (memGet m a).isLt
  have h1 := (memGet m (a + 1)).isLt
  have h2 := (memGet m (a + 2)).isLt
  have h3 := (memGet m (a + 3)).isLt
  apply BitVec.eq_of_toNat_eq
  rw [memWord, readBytes_four, leNat_four, BitVec.toNat_ofNat, BitVec.toNat_ofNat]
  obtain rfl | rfl | rfl | rfl : k = 0 ∨ k = 1 ∨ k = 2 ∨ k = 3 := by omega
  · simp only [Nat.pow_zero, Nat.div_one, Nat.add_zero]
    omega
  · simp only [Nat.pow_one]
    omega
  · simp only [Nat.reducePow]
    omega
  · simp only [Nat.reducePow]
    omega

theorem byte_eq_of_extract (w : Word) (k : Nat) : BitVec.ofNat 8 (w.toNat / 256 ^ k) = w.extractLsb' (8 * k) 8 := by
  apply BitVec.eq_of_toNat_eq
  rw [BitVec.toNat_ofNat, BitVec.extractLsb'_toNat, Nat.shiftRight_eq_div_pow, Nat.pow_mul]

/-- A byte of a word after bytes of it are replaced (R126). -/
theorem lsMerge_byte (w : Word) {a len v k : Nat} (hk : k < 4) :
    (lsMerge w a len v).extractLsb' (8 * k) 8 =
      if a % 4 ≤ k ∧ k < a % 4 + len then BitVec.ofNat 8 (v / 256 ^ (k - a % 4)) else w.extractLsb' (8 * k) 8 := by
  apply BitVec.eq_of_getLsbD_eq
  intro j hj
  simp only [lsMerge, BitVec.getLsbD_extractLsb', hj, decide_true, Bool.true_and, getLsbD_setBits]
  by_cases h : a % 4 ≤ k ∧ k < a % 4 + len
  · have e1 : 8 * k + j < 32 := by omega
    have e2 : 8 * k + j - 8 * (a % 4) = j + 8 * (k - a % 4) := by omega
    rw [if_pos (by omega), if_pos h, e2, BitVec.getLsbD_ofNat, show 256 = 2 ^ 8 from rfl, ← Nat.pow_mul, Nat.testBit_div_two_pow]
    simp [e1, hj]
  · rw [if_neg (by omega), if_neg h, BitVec.getLsbD_extractLsb']
    simp [hj]

/-! ## Marks -/

@[simp] theorem metaAt_setMeta_self (pa : Nat) (x : WMeta) : (s.setMeta pa x).metaAt pa = x := by
  unfold State.setMeta State.metaAt
  by_cases h : x = {}
  · simp [h]
  · simp [h]

theorem metaAt_setMeta_ne {pa pa' : Nat} (h : pa' / 4 ≠ pa / 4) (x : WMeta) : (s.setMeta pa x).metaAt pa' = s.metaAt pa' := by
  unfold State.setMeta State.metaAt
  by_cases hx : x = {}
  · simp [hx, Map.get_erase_ne _ _ h]
  · simp [hx, Map.get_set_ne _ _ _ h]

/-- A word stored is the word read back, with its poison mark (R124, R391). -/
theorem loadWord_storeWord_self (h : Memory.wf s.mem = true) (pa : Nat) (w : PWord) : (s.storeWord pa w).loadWord pa = w := by
  have hm : (s.storeWord pa w).metaAt pa = { s.metaAt pa with psn := w.psn } := metaAt_setMeta_self _ _
  rw [State.loadWord, hm, State.storeWord_mem, memWord_memSetWord h]

/-- Another word is read as before. -/
theorem loadWord_storeWord_ne (h : Memory.wf s.mem = true) {pa pa' : Nat} (w : PWord) (hpa : pa' + 4 ≤ pa ∨ pa + 4 ≤ pa')
    : (s.storeWord pa w).loadWord pa' = s.loadWord pa' := by
  have hm : (s.storeWord pa w).metaAt pa' = s.metaAt pa' := metaAt_setMeta_ne (by omega) _
  rw [State.loadWord, hm, State.storeWord_mem, memWord_memSetWord_ne h _ _ _ hpa]
  rfl

/-! ## Words of a local store -/

theorem lsPa_add (e : ElemRef) (a k : Nat) : lsPa e (a + k) = lsPa e a + k := by
  simp only [lsPa]
  omega

/-- Where the word of a byte begins (R124). -/
theorem lsPa_word (e : ElemRef) (a : Nat) : lsPa e a = lsPa e (a / 4 * 4) + a % 4 := by
  rw [← lsPa_add]
  congr 1
  omega

theorem lsWord_setLsWord_self (h : Memory.wf s.mem = true) (a : Nat) (w : PWord) : (s.setLsWord e a w).lsWord e a = w :=
  loadWord_storeWord_self h _ _

/-- A store of a word leaves the bytes beside it. -/
theorem memGet_setLsWord_ne (h : Memory.wf s.mem = true) (a : Nat) (w : PWord) {pa : Nat}
    (hpa : pa < lsPa e (a / 4 * 4) ∨ lsPa e (a / 4 * 4 + 4) ≤ pa) : memGet (s.setLsWord e a w).mem pa = memGet s.mem pa :=
  State.storeWord_get h _ _ _ (by rwa [lsPa_add] at hpa)

theorem memGet_setLsWord (h : Memory.wf s.mem = true) (a : Nat) (w : PWord) {k : Nat} (hk : k < 4) :
    memGet (s.setLsWord e a w).mem (lsPa e (a / 4 * 4) + k) = w.val.extractLsb' (8 * k) 8 := by
  rw [State.setLsWord, State.storeWord_mem, memGet_memSetWord_in h _ _ _ hk, byte_eq_of_extract]

/-- A store of `len` bytes into a word writes these and leaves the others (R126). -/
theorem memGet_setLsWord_merge (h : Memory.wf s.mem = true) {a len v : Nat} {p : Bool} (hal : a % 4 + len ≤ 4) (pa : Nat) :
    memGet (s.setLsWord e a ⟨lsMerge (s.lsWord e a).val a len v, p⟩).mem pa =
      if lsPa e a ≤ pa ∧ pa < lsPa e a + len then BitVec.ofNat 8 (v / 256 ^ (pa - lsPa e a)) else memGet s.mem pa := by
  have hw := lsPa_word e a
  by_cases hin : lsPa e (a / 4 * 4) ≤ pa ∧ pa < lsPa e (a / 4 * 4) + 4
  · obtain ⟨k, rfl⟩ := Nat.exists_eq_add_of_le hin.1
    have hk : k < 4 := by omega
    rw [memGet_setLsWord h _ _ hk, lsMerge_byte _ hk]
    by_cases hr : a % 4 ≤ k ∧ k < a % 4 + len
    · rw [if_pos hr, if_pos (by omega), show k - a % 4 = lsPa e (a / 4 * 4) + k - lsPa e a by omega]
    · rw [if_neg hr, if_neg (by omega), ← byte_eq_of_extract]
      exact memWord_byte _ _ hk
  · rw [memGet_setLsWord_ne h _ _ (by rw [lsPa_add]; omega), if_neg (by omega)]

end Sys2Proof.Machine
end

section
/-! PROOF. Local loads and stores, their checks and their faults (O28; R28, R38, R110, R124, R126). -/

namespace Sys2Proof.Machine
open Sys2Proof.Claims

variable {s : State} {i : Instr} {f : Fields} {a : Word} {len : Nat} {ea : Opnds → Word} {conv : Nat → Word}

/-! ## The checks -/

/-- An access of one, two or four bytes that is aligned lies in one bank, and the checks pass where that may be used (R28). -/
theorem lsCheck_eq (n : NodeRef) {len : Nat} (hlen : len = 1 ∨ len = 2 ∨ len = 4) (write : Bool) (aux : Nat) :
    s.lsCheck n a len write aux =
      if a.toNat + len > 0x18000 then some (localFault causeProt aux a write)
      else if a.toNat % len ≠ 0 then some (localFault causeAlign aux a write)
      else if s.mayUse n (.bank (a.toNat / 0x2000)) = true then none else some (resourceFault aux (.bank (a.toNat / 0x2000))) := by
  have hmin : min len 4 = len := by omega
  unfold State.lsCheck State.mayUse
  dsimp only
  rw [hmin]
  by_cases h1 : a.toNat + len > 0x18000
  · rw [if_pos h1, if_pos h1]
  · rw [if_neg h1, if_neg h1]
    by_cases h2 : a.toNat % len ≠ 0
    · rw [if_pos h2, if_pos h2]
    · have hb : (a.toNat + len - 1) / 0x2000 = a.toNat / 0x2000 := by
        obtain rfl | rfl | rfl := hlen <;> omega
      rw [if_neg h2, if_neg h2, hb]
      by_cases ho : (s.el n.elemRef).owns (domOf (s.nd n)) (.bank (a.toNat / 0x2000)) = true
      · by_cases hs : (s.el n.elemRef).scrubbing (.bank (a.toNat / 0x2000)) = true
        · simp [ho, hs]
        · simp [ho, hs]
      · simp [ho]

/-! ## Loads -/

theorem lsLoad_error {fi : FaultInfo} (hp : S1Passes s i f) (hb : (issueOps s i f).addrPsn = none)
    (hc : s.lsCheck s.cur.node (ea (issueOps s i f)) len false 0 = some fi) : lsLoad i f s ea len conv = .next (failsAt s i f fi) :=
  issue_error hp (by simp only [hb, issueClaim_lsCheck, issueOps_n, hc])

theorem lsLoad_poisoned {w : Word} (hp : S1Passes s i f) (hb : (issueOps s i f).addrPsn = some w) :
    lsLoad i f s ea len conv = .next (finishesAt s i f (issueClaim s i f) (poisonResult w)) :=
  issue_now hp (by simp only [hb])

theorem lsLoad_done (hp : S1Passes s i f) (hb : (issueOps s i f).addrPsn = none)
    (hc : s.lsCheck s.cur.node (ea (issueOps s i f)) len false 0 = none) :
    let w := s.lsWord (here s) (ea (issueOps s i f)).toNat
    lsLoad i f s ea len conv = .next (finishesAt s i f (issueClaim s i f)
      (if w.psn then poisonResult w.val else cleanResult 0 (byValue (conv (lsPart w.val (ea (issueOps s i f)).toNat len))))) := by
  intro w
  refine issue_now hp ?_
  simp only [hb, issueClaim_lsCheck, issueOps_n, hc, issueClaim_lsWord]
  change (if w.psn = true then _ else _) = _
  split <;> rfl

/-- A load delivers the bytes at its address, as the conversion of their number extends them (R124, R126). -/
theorem loads_of_lsLoad {ext : BitVec (8 * len) → Word} (hx : exec i s = lsLoad i f s ea len conv) (ha : ea (issueOps s i f) = a)
    (hconv : ∀ w : Word, conv (lsPart w a.toNat len) = ext ((w >>> (8 * (a.toNat % 4))).setWidth (8 * len))) :
    Loads s i f a len ext := by
  rintro ⟨hp, hb, hc⟩ w
  subst ha
  rw [Completes, hx, lsLoad_done hp hb hc]
  congr 2
  have hw : w.psn = true → some (⟨w.val, true⟩ : PWord) = some w := fun h => by rw [← h]
  by_cases hpsn : w.psn = true
  · rw [if_pos hpsn, if_pos hpsn, poisonResult, hw hpsn]
  · rw [if_neg hpsn, if_neg hpsn, hconv]
    rfl

theorem lsPart_toNat (w : Word) (x len : Nat) : lsPart w x len = ((w >>> (8 * (x % 4))).setWidth (8 * len)).toNat := by
  rw [lsPart, bitsNat, BitVec.toNat_setWidth, BitVec.toNat_ushiftRight]

theorem signExt_eq {len : Nat} (x : BitVec (8 * len)) (h : 0 < len) : signExt len x.toNat = x.signExtend 32 := by
  rw [BitVec.signExtend, signExt, BitVec.toInt_eq_toNat_cond]
  have e : 2 ^ (8 * len) = 2 * 2 ^ (8 * len - 1) := by
    rw [← Nat.pow_succ']
    congr 1
    omega
  congr 1
  by_cases hlt : x.toNat < 2 ^ (8 * len - 1)
  · rw [if_pos hlt, if_pos (by omega)]
  · rw [if_neg hlt, if_neg (by omega)]
    push_cast
    rfl

/-! ## Stores -/

theorem lsStore_error {fi : FaultInfo} (hp : S1Passes s i f) (hb : (issueOps s i f).addrPsn = none)
    (hc : s.lsCheck s.cur.node (ea (issueOps s i f)) len true 0 = some fi) : lsStore i f s ea len = .next (failsAt s i f fi) :=
  issue_error hp (by simp only [hb, issueClaim_lsCheck, issueOps_n, hc])

theorem lsStore_poisoned {w : Word} (hp : S1Passes s i f) (hb : (issueOps s i f).addrPsn = some w) :
    lsStore i f s ea len = .next (finishesAt s i f (issueClaim s i f) { cond := false }) :=
  issue_now hp (by simp only [hb])

theorem lsStore_psn (hp : S1Passes s i f) (hb : (issueOps s i f).addrPsn = none)
    (hc : s.lsCheck s.cur.node (ea (issueOps s i f)) len true 0 = none) (hd : (issueOps s i f).d.psn = true) :
    lsStore i f s ea len = .next (finishesAt s i f
      ((issueClaim s i f).setLsWord (here s) (ea (issueOps s i f)).toNat (issueOps s i f).d) { cond := false }) := by
  refine issue_now hp ?_
  simp only [hb, issueClaim_lsCheck, issueOps_n, hc, hd, if_true]
  rfl

theorem lsStore_clean (hp : S1Passes s i f) (hb : (issueOps s i f).addrPsn = none)
    (hc : s.lsCheck s.cur.node (ea (issueOps s i f)) len true 0 = none) (hd : (issueOps s i f).d.psn = false) :
    let a := (ea (issueOps s i f)).toNat
    let v := (issueOps s i f).d.val.toNat % 2 ^ (8 * len)
    lsStore i f s ea len = .next (finishesAt s i f ((issueClaim s i f).setLsWord (here s) a
        ⟨lsMerge (s.lsWord (here s) a).val a len v, (s.lsWord (here s) a).psn && decide (len < 4)⟩) { cond := decide (v ≠ 0) }) := by
  refine issue_now hp ?_
  simp only [hb, issueClaim_lsCheck, issueOps_n, hc, hd, issueClaim_lsWord]
  rfl

theorem setLsWord_node (e : ElemRef) (x : Nat) (w : PWord) : ((issueClaim s i f).setLsWord e x w).node = s.atIssue.node :=
  issueClaim_node

/-- A store writes its bytes and no other (R126). -/
theorem stores_of_lsStore (hwf : Memory.wf s.mem = true) (hx : exec i s = lsStore i f s ea len) (ha : ea (issueOps s i f) = a)
    (hlen : len = 1 ∨ len = 2 ∨ len = 4) : Stores s i f a len ∧ StoresPoison s i f a len := by
  subst ha
  have hwf' : Memory.wf (issueClaim s i f).mem = true := by rwa [issueClaim_mem]
  have hmem : (issueClaim s i f).mem = s.mem := issueClaim_mem
  refine ⟨fun ⟨hp, hb, hc⟩ hd => ?_, fun ⟨hp, hb, hc⟩ hd => ?_⟩
  · rw [hx, lsStore_clean hp hb hc hd]
    have hal : (ea (issueOps s i f)).toNat % 4 + len ≤ 4 := by
      rw [lsCheck_eq _ hlen] at hc
      have h2 : (ea (issueOps s i f)).toNat % len = 0 := by
        by_contra h2
        rw [if_pos h2] at hc
        split at hc <;> cases hc
      obtain rfl | rfl | rfl := hlen <;> omega
    have hmerge := fun p => memGet_setLsWord_merge (s := issueClaim s i f) (e := here s)
      (v := (issueOps s i f).d.val.toNat % 2 ^ (8 * len)) (p := p) hwf' hal
    simp only [issueClaim_lsWord] at hmerge
    refine ⟨_, rfl, fun k hk => ?_, fun pa hpa => ?_, ?_, setLsWord_node _ _ _⟩
    · rw [localPa, lsPa_add, hmerge, if_pos (by omega), Nat.add_sub_cancel_left]
      apply BitVec.eq_of_getLsbD_eq
      intro j hj
      rw [BitVec.getLsbD_ofNat, show 256 = 2 ^ 8 from rfl, ← Nat.pow_mul, Nat.testBit_div_two_pow, Nat.testBit_mod_two_pow,
        BitVec.getLsbD_extractLsb', Nat.add_comm j]
      simp [hj, show 8 * k + j < 8 * len by omega, BitVec.getLsbD]
    · rw [localPa, localPa, lsPa_add] at hpa
      rw [hmerge, if_neg (by omega), hmem]
    · rw [lsWord_setLsWord_self hwf', Bool.and_comm]
  · rw [hx, lsStore_psn hp hb hc hd]
    refine ⟨_, rfl, lsWord_setLsWord_self hwf' _ _, fun pa hpa => ?_⟩
    rw [memGet_setLsWord_ne hwf' _ _ hpa, hmem]

theorem eax_eq (o : Opnds) : o.eax = BitVec.ofNat 32 (o.a.val.toNat + 4 * o.b.val.toNat) := by
  apply BitVec.eq_of_toNat_eq
  simp only [Opnds.eax, BitVec.toNat_add, BitVec.toNat_shiftLeft, BitVec.toNat_ofNat, Nat.shiftLeft_eq]
  omega

/-- `LD.P` and `ST.P` make the checks of a word access (R127). -/
theorem execLdP_refused (hp : S1Passes s (.ldP f) f) :
    (∀ fi, (issueOps s (.ldP f) f).addrPsn = none → s.lsCheck s.cur.node (issueOps s (.ldP f) f).ea 4 false 0 = some fi →
      exec (.ldP f) s = .next (failsAt s (.ldP f) f fi)) ∧
    (∀ w, (issueOps s (.ldP f) f).addrPsn = some w → Completes s (.ldP f) f (poisonResult w)) :=
  ⟨fun fi hb hc => issue_error hp (by simp only [hb, issueClaim_lsCheck, issueOps_n, hc]),
   fun w hb => issue_now hp (by simp only [hb])⟩

theorem execStP_refused (hp : S1Passes s (.stP f) f) :
    (∀ fi, (issueOps s (.stP f) f).addrPsn = none → s.lsCheck s.cur.node (issueOps s (.stP f) f).ea 4 true 0 = some fi →
      exec (.stP f) s = .next (failsAt s (.stP f) f fi)) ∧
    (∀ w, (issueOps s (.stP f) f).addrPsn = some w → Completes s (.stP f) f { cond := false }) :=
  ⟨fun fi hb hc => issue_error hp (by simp only [hb, issueClaim_lsCheck, issueOps_n, hc]),
   fun w hb => issue_now hp (by simp only [hb])⟩

end Sys2Proof.Machine

namespace Sys2Proof.Proofs
open Sys2Proof.Machine Sys2Proof.Claims

/-- The checks of R28 in their order. -/
theorem localStoreChecks : LocalStoreChecks := by
  intro s n a len write aux hlen usable
  have hcheck := lsCheck_eq (s := s) (a := a) n hlen write aux
  rw [hcheck]
  refine ⟨fun h => by rw [if_pos h]; rfl, fun h h2 => by rw [if_neg (by omega), if_pos h2]; rfl, fun h h2 h3 => ?_, fun h h2 h3 => ?_⟩
  · rw [if_neg (by omega), if_neg (by simpa using h2), if_neg (by simpa [usable] using h3)]
    rfl
  · rw [if_neg (by omega), if_neg (by simpa using h2), if_pos h3]

/-- The local loads by the width and the extension of each (R126). -/
theorem localLoads : LocalLoads := by
  intro s f
  have hz : ∀ (len : Nat) (w : Word) (x : Nat), BitVec.ofNat 32 (lsPart w x len) = ((w >>> (8 * (x % 4))).setWidth (8 * len)).setWidth 32 :=
    fun len w x => by rw [lsPart_toNat, BitVec.ofNat_toNat]
  have hw : ∀ (w : Word) (x : Nat), BitVec.ofNat 32 (lsPart w x 4) = (w >>> (8 * (x % 4))).setWidth (8 * 4) :=
    fun w x => by rw [hz]; exact BitVec.setWidth_eq _
  have hs : ∀ (len : Nat), 0 < len → ∀ (w : Word) (x : Nat),
      signExt len (lsPart w x len) = ((w >>> (8 * (x % 4))).setWidth (8 * len)).signExtend 32 :=
    fun len h w x => by rw [lsPart_toNat, signExt_eq _ h]
  exact ⟨loads_of_lsLoad rfl rfl (fun w => hw w _), loads_of_lsLoad rfl rfl (fun w => hz 2 w _),
    loads_of_lsLoad rfl rfl (fun w => hs 2 (by decide) w _), loads_of_lsLoad rfl rfl (fun w => hz 1 w _),
    loads_of_lsLoad rfl rfl (fun w => hs 1 (by decide) w _), loads_of_lsLoad rfl (eax_eq _) (fun w => hw w _)⟩

/-- The local stores by the width of each (R126). -/
theorem localStores : LocalStores := fun _ _ h =>
  ⟨stores_of_lsStore h rfl rfl (by decide), stores_of_lsStore h rfl rfl (by decide), stores_of_lsStore h rfl rfl (by decide),
   stores_of_lsStore h rfl (eax_eq _) (by decide)⟩

/-- Local accesses that fail a check or have a poisoned address (R28, R38, R110). -/
theorem localAccessesFaultAlone : LocalAccessesFaultAlone := by
  intro s f row
  have load : ∀ {i : Instr} {a : Word} {len : Nat} {ea : Opnds → Word} {conv : Nat → Word},
      exec i s = lsLoad i f s ea len conv → ea (issueOps s i f) = a → row i a len false := by
    rintro i a len ea conv hx rfl
    exact ⟨fun fi hp hb hc => hx.trans (lsLoad_error hp hb hc), fun w hp hb => hx.trans (lsLoad_poisoned hp hb)⟩
  have store : ∀ {i : Instr} {a : Word} {len : Nat} {ea : Opnds → Word},
      exec i s = lsStore i f s ea len → ea (issueOps s i f) = a → row i a len true := by
    rintro i a len ea hx rfl
    exact ⟨fun fi hp hb hc => hx.trans (lsStore_error hp hb hc), fun w hp hb => hx.trans (lsStore_poisoned hp hb)⟩
  exact ⟨load rfl rfl, load rfl rfl, load rfl rfl, load rfl rfl, load rfl rfl, load rfl (eax_eq _),
    ⟨fun fi hp => (execLdP_refused hp).1 fi, fun w hp => (execLdP_refused hp).2 w⟩,
    store rfl rfl, store rfl rfl, store rfl rfl, store rfl (eax_eq _),
    ⟨fun fi hp => (execStP_refused hp).1 fi, fun w hp => (execStP_refused hp).2 w⟩⟩

/-- Settles O28: the checks decide whether a local access happens, and one that happens moves the bytes at its address. -/
theorem localStoreAccesses : Obligations.LocalStoreAccesses :=
  ⟨localStoreChecks, localLoads, localStores, localAccessesFaultAlone⟩

end Sys2Proof.Proofs
end

section
/-! SUPPORT. Global addresses, requests and latches as the statements write them (R304-R306, R316). -/

namespace Sys2Proof.Machine
open Sys2Proof.Claims

variable {s t : State} {n : NodeRef} {i : Instr} {f : Fields}

/-! ## Addresses -/

/-- The address that a register pair holds (R304). -/
theorem pair_append (hi lo : Word) : (bits hi 0 24 ++ lo : BitVec 56) = BitVec.ofNat 56 (field hi 0 24 * 2 ^ 32 + lo.toNat) := by
  have h := lo.isLt
  apply BitVec.eq_of_toNat_eq
  rw [BitVec.toNat_append, ← Nat.shiftLeft_add_eq_or_of_lt h]
  simp only [bits, field, BitVec.extractLsb'_toNat, BitVec.toNat_ofNat, Nat.shiftLeft_eq, Nat.shiftRight_zero, Nat.pow_zero, Nat.div_one]
  omega

theorem firstPoison_eq (vs : List PWord) : firstPoison vs = (vs.find? PWord.psn).map PWord.val := by
  induction vs with
  | nil => rfl
  | cons v vs ih =>
    rw [firstPoison, List.find?_cons]
    cases v.psn with
    | true => rfl
    | false => exact ih

/-- The base address of operands, or the record of a poisoned pair (R304). -/
theorem base_eq (o : Opnds) : o.base = match firstPoison [Map.get o.nd.g {} o.f.sa.toNat, Map.get o.nd.g {} (o.f.sa.toNat + 1)] with
    | some w => .error w
    | none => .ok (BitVec.ofNat 56 (field (Map.get o.nd.g {} (o.f.sa.toNat + 1)).val 0 24 * 2 ^ 32 + (Map.get o.nd.g {} o.f.sa.toNat).val.toNat)) := by
  simp only [Opnds.base, Node.gReg, pair_append] <;> rfl

theorem base_of_clean {o : Opnds} (hlo : (Map.get o.nd.g {} o.f.sa.toNat).psn = false)
    (hhi : (Map.get o.nd.g {} (o.f.sa.toNat + 1)).psn = false) : o.base = .ok (BitVec.ofNat 56
      (field (Map.get o.nd.g {} (o.f.sa.toNat + 1)).val 0 24 * 2 ^ 32 + (Map.get o.nd.g {} o.f.sa.toNat).val.toNat)) := by
  simp only [base_eq, firstPoison, hlo, hhi, Bool.false_eq_true, if_false]

theorem va_of_clean {o : Opnds} (hlo : (Map.get o.nd.g {} o.f.sa.toNat).psn = false)
    (hhi : (Map.get o.nd.g {} (o.f.sa.toNat + 1)).psn = false) (hb : o.b.psn = false) : o.va = .ok (vaOf o.nd o.f o.b) := by
  simp [Opnds.va, base_of_clean hlo hhi, hb, vaOf]

theorem badVa_eq_some {w : Word} : badVa s i f = some w ↔
    badPair s f = some w ∨ (badPair s f = none ∧ (issueOps s i f).b.psn = true ∧ (issueOps s i f).b.val = w) := by
  unfold badVa badPair
  rw [List.find?_append]
  cases (pairRegs s f).find? PWord.psn with
  | some v => simp
  | none =>
    cases hb : (issueOps s i f).b.psn <;> simp [hb]

theorem badVa_eq_none : badVa s i f = none ↔ badPair s f = none ∧ (issueOps s i f).b.psn = false := by
  unfold badVa badPair
  rw [List.find?_append]
  cases (pairRegs s f).find? PWord.psn with
  | some v => simp
  | none =>
    cases hb : (issueOps s i f).b.psn <;> simp [hb]

theorem issueOps_base_error {w : Word} (h : badPair s f = some w) : (issueOps s i f).base = .error w := by
  rw [badPair, ← firstPoison_eq] at h
  rw [base_eq, issueOps_nd]
  change (match firstPoison (pairRegs s f) with
    | some w => Except.error w
    | none => _) = _
  rw [h]

theorem issueOps_base_ok (h : badPair s f = none) : (issueOps s i f).base = .ok (pairVa s f) := by
  rw [badPair, ← firstPoison_eq] at h
  rw [base_eq, issueOps_nd]
  change (match firstPoison (pairRegs s f) with
    | some w => Except.error w
    | none => _) = _
  rw [h]
  rfl

/-- The address of an issue with an offset, or the record of a poisoned part of it (R304). -/
theorem issueOps_va_error {w : Word} (h : badVa s i f = some w) : (issueOps s i f).va = .error w := by
  rcases badVa_eq_some.mp h with hpair | ⟨hpair, hb, rfl⟩
  · simp only [Opnds.va, issueOps_base_error hpair]
  · simp only [Opnds.va, issueOps_base_ok hpair, hb, if_true]

theorem issueOps_va_ok (h : badVa s i f = none) : (issueOps s i f).va = .ok (offsetVa s i f) := by
  obtain ⟨h, hb⟩ := badVa_eq_none.mp h
  simp only [Opnds.va, issueOps_base_ok h, hb]
  rfl

/-! ## Requests of an issue -/

@[simp] theorem issueClaim_serial : (issueClaim s i f).serial = s.serial := by simp [issueClaim, State.atIssue]
theorem atIssue_region : s.atIssue.region = s.region := rfl
@[simp] theorem issueClaim_region : (issueClaim s i f).region = s.region := by
  rcases holdElement_cases (s := claim s.atIssue s.cur.node i f) (i := i) with ⟨_, _, h⟩ | h <;> rw [issueClaim, h] <;> rfl

@[simp] theorem issueClaim_stampOf (m : NodeRef) : (issueClaim s i f).stampOf m = s.stampOf m := by
  simp [State.stampOf, State.partOf, State.rg]

/-- The lanes that an execution reads (R187). -/
@[simp] theorem issueClaim_vec (v : BitVec 5) : ((issueClaim s i f).el s.cur.node.elemRef).vec v.toNat = (List.range 16).map (lane s v) := by
  unfold Elem.vec
  congr 1
  funext l
  rw [Elem.lane, issueClaim_vreg]
  rfl

/-- A request of the issuing node that its node awaits (R41, R305). -/
theorem asks_of_await {body : Opnds → State → Except FaultInfo (State × Done)} {va : BitVec 56} {op : Op} {fwd : List (Option PWord)}
    {acq : Bool} (hx : exec i s = issue i f s body) (hp : S1Passes s i f)
    (hb : body (issueOps s i f) (issueClaim s i f) = .ok (awaitRequest (issueClaim s i f) (issueOps s i f) va op fwd acq)) :
    Asks s i f { ask s va op .port with fwd := fwd, acquire := acq } := by
  rw [Asks, hx, issue_later hp hb]
  simp only [State.request, issueClaim_serial, issueClaim_reqs, issueClaim_stampOf, issueClaim_cycle, issueOps_n]
  rfl

/-! ## The latch -/

theorem getLsbD_eq_div (w : Word) (k : Nat) : w.getLsbD k = decide (w.toNat / 2 ^ k % 2 = 1) := by
  rw [BitVec.getLsbD, Nat.testBit_eq_decide_div_mod_eq]

/-- The first word of a latch by its fields (R316). -/
theorem latchHead_fields {A B O d op rm q opc : Nat} (hA : A ≤ 1) (hB : B ≤ 1) (hO : O ≤ 1) (hd : d < 32) (hop : op < 16)
    (hrm : rm < 4) (hq : q < 64) (hopc : opc < 256) :
    let w : Word := BitVec.ofNat 32 (2 ^ 31 + A * 2 ^ 27 + B * 2 ^ 26 + O * 2 ^ 25 + d * 2 ^ 20 + op * 2 ^ 16 + rm * 2 ^ 14 + q * 2 ^ 8 + opc)
    w.getLsbD 31 = true ∧ field w 28 3 = 0 ∧ w.getLsbD 27 = decide (A = 1) ∧ w.getLsbD 26 = decide (B = 1) ∧
    w.getLsbD 25 = decide (O = 1) ∧ field w 20 5 = d ∧ field w 16 4 = op ∧ field w 14 2 = rm ∧ field w 8 6 = q ∧ field w 0 8 = opc := by
  intro w
  have hw : w.toNat = 2 ^ 31 + A * 2 ^ 27 + B * 2 ^ 26 + O * 2 ^ 25 + d * 2 ^ 20 + op * 2 ^ 16 + rm * 2 ^ 14 + q * 2 ^ 8 + opc := by
    rw [BitVec.toNat_ofNat]
    exact Nat.mod_eq_of_lt (by omega)
  simp only [getLsbD_eq_div, field, hw, decide_eq_decide, decide_eq_true_eq]
  refine ⟨?_, ?_, ?_, ?_, ?_, ?_, ?_, ?_, ?_, ?_⟩ <;> omega

/-- The bit that a flag sets in a word. -/
theorem flag_mul (b : Bool) (k : Nat) : (if b then k else 0) = (if b then 1 else 0) * k := by
  cases b <;> simp

/-- An access fills the latch of its node (R316). -/
theorem latchWords_filled {va : BitVec 56} {op rm : Nat} {a b : PWord} {own : Bool} (hop : op < 16) (hrm : rm < 4) :
    LatchFilled s i f va op rm a b own
      (latchWords (opcOf i).toNat op rm ((self s).lseq + 1) own f.dst va a b) := by
  have hva := va.isLt
  have hone : ∀ c : Bool, (if c then 1 else 0) ≤ 1 := fun c => by cases c <;> simp
  have hdec : ∀ c : Bool, decide ((if c then 1 else 0) = 1) = c := fun c => by cases c <;> rfl
  obtain ⟨h31, h28, h27, h26, h25, h20, h16, h14, h8, h0⟩ := latchHead_fields (hone a.psn) (hone b.psn) (hone own) f.dst.isLt hop hrm
    (Nat.mod_lt ((self s).lseq + 1).toNat (show 64 > 0 by decide)) (opcOf i).isLt
  rw [hdec] at h27 h26 h25
  have hword : Map.get (latchWords (opcOf i).toNat op rm ((self s).lseq + 1) own f.dst va a b) 0 0 = BitVec.ofNat 32
      (2 ^ 31 + (if a.psn then 1 else 0) * 2 ^ 27 + (if b.psn then 1 else 0) * 2 ^ 26 + (if own then 1 else 0) * 2 ^ 25 +
        f.dst.toNat * 2 ^ 20 + op * 2 ^ 16 + rm * 2 ^ 14 + ((self s).lseq + 1).toNat % 64 * 2 ^ 8 + (opcOf i).toNat) := by
    rw [← flag_mul, ← flag_mul, ← flag_mul]
    rfl
  refine ⟨?_, ?_, ?_, ?_, ?_, ?_, ?_, ?_, ?_, ?_, ?_, ?_, rfl, rfl, rfl⟩
  · rwa [hword]
  · rwa [hword]
  · rwa [hword]
  · rwa [hword]
  · rwa [hword]
  · rwa [hword]
  · rwa [hword]
  · rwa [hword]
  · rwa [hword]
  · rwa [hword]
  · change bits va 0 32 = va.setWidth 32
    apply BitVec.eq_of_toNat_eq
    simp [bits]
  · change BitVec.ofNat 32 (((self s).lseq + 1).toNat / 64 * 2 ^ 24 + bitsNat va 32 24) = _
    have h : bitsNat va 32 24 = va.toNat / 2 ^ 32 := by
      rw [bitsNat, Nat.shiftRight_eq_div_pow]
      exact Nat.mod_eq_of_lt (by omega)
    rw [h]

/-- A stamp is that of the node's domain (R295). -/
theorem stampOf_updNd {g : Node → Node} (hg : (g (t.nd n)).ncfg = (t.nd n).ncfg) : (t.updNd n g).stampOf n = t.stampOf n := by
  have hd : domOf ((t.updNd n g).nd n) = domOf (t.nd n) := by rw [State.updNd, State.nd_setNd_self, domOf, domOf, hg]
  unfold State.stampOf State.domEntry
  rw [hd]
  rfl

/-- An access through the latch fills it and sends its request (R316). -/
theorem latches_of_useLatch {body : Opnds → State → Except FaultInfo (State × Done)} {va : BitVec 56} {op : Op} {code rm : Nat}
    {a b : PWord} {own : Option OwnedBy} {after : List Nat} (hcode : code < 16) (hrm : rm < 4)
    (hx : exec i s = issue i f s body) (hp : S1Passes s i f)
    (hb : body (issueOps s i f) (issueClaim s i f) =
      .ok (useLatch (issueClaim s i f) (issueOps s i f) i va op code rm a b own after)) :
    Latches s i f va op code rm a b own after := by
  refine ⟨_, latchWords_filled hcode hrm, ?_⟩
  rw [hx, issue_later hp hb]
  rw [issueOps_n, stampOf_updNd, issueClaim_stampOf]
  simp only [State.updNd, State.setNd_serial, State.setNd_reqs, State.setNd_cycle, issueClaim_serial, issueClaim_reqs, issueClaim_cycle,
    issueOps_nd]
  · rfl
  · rfl

end Sys2Proof.Machine
end

section
/-! PROOF. Global stores, releases and fences (O18; R304, R306, R308-R310), and the instructions of the pod (O19; R440-R443). -/

namespace Sys2Proof.Machine
open Sys2Proof.Claims

variable {s t : State} {n : NodeRef} {i : Instr} {f : Fields} {a b d : PWord} {ws : List PWord}

/-! ## Entries made at S4 -/

theorem makeEntry_eq (va : BitVec 56) (ws : List PWord) : makeEntry s n (opcOf i) va ws = entryMade s n i va ws := rfl

theorem makePodEntry_eq (va : BitVec 56) (m : BitVec 10) (ws : List PWord) :
    makePodEntry s n (opcOf i) va m ws = podEntryMade s n i va m ws := rfl

/-- The S4 of a buffered store makes its entry (R306). -/
theorem store_ends (h : Late s n i f a b d ws) (hi : ∀ o, lateEffect i o ws s = storeAtS4 i o ws s) (hb : b.psn = false)
    (hlo : (Map.get (s.nd n).g {} f.sa.toNat).psn = false) (hhi : (Map.get (s.nd n).g {} (f.sa.toNat + 1)).psn = false) :
    EndsIn s n (entryMade s n i (vaOf (s.nd n) f b) ws) { cond := !ws.any PWord.psn } := by
  refine endsIn_of_late h ?_ rfl
  rw [hi, storeAtS4, va_of_clean hlo hhi hb]
  rfl

/-- The S4 of a store to another module makes its entry (R442). -/
theorem podStore_ends (h : Late s n i f a b d ws) (hi : ∀ o, lateEffect i o ws s = podStoreAtS4 i o ws s)
    (hlo : (Map.get (s.nd n).g {} f.sa.toNat).psn = false) (hhi : (Map.get (s.nd n).g {} (f.sa.toNat + 1)).psn = false) :
    EndsIn s n (podEntryMade s n i (vaOf (s.nd n) f {}) (b.val.setWidth 10) ws) { cond := !ws.any PWord.psn } := by
  have hva : ∀ x : BitVec 56, x + BitVec.signExtend 56 (0 : Word) = x := by simp
  have hm : bits b.val 0 10 = b.val.setWidth 10 := by
    apply BitVec.eq_of_toNat_eq
    simp [bits]
  refine endsIn_of_late h ?_ rfl
  rw [hi, podStoreAtS4, base_of_clean hlo hhi]
  dsimp only
  rw [hm, vaOf, hva]
  rfl

/-! ## Release waits -/

/-- A host port has acknowledged a store of the node since its last flush. -/
def portAcked (s : State) (n : NodeRef) (south : Bool) : Bool := (s.nd n).hostAck.getLsbD (if south then 1 else 0)

/-- The read of the host flush of a port (R309). -/
def flushRead (s : State) (n : NodeRef) (id : Nat) (south : Bool) : Req :=
  { id := id, who := .node n, stamp := s.stampOf n, op := .flush south, stage := .home }

/-- The flush of one port (R309). -/
def flushPort (s : State) (n : NodeRef) (acc : List Nat × State) (south : Bool) : List Nat × State :=
  if portAcked s n south then
    (acc.1 ++ [acc.2.serial], { acc.2 with serial := acc.2.serial + 1, reqs := acc.2.reqs ++ [flushRead s n acc.2.serial south] })
  else acc

theorem flushReads_eq_flushPorts : flushReads s n = flushPort s n (flushPort s n ([], s) false) true := rfl

/-- The reads of the host flush by the ports that owe one. -/
theorem flushReads_eq : flushReads s n =
    let ports := [false, true].filter (portAcked s n)
    ((List.range ports.length).map (fun k => s.serial + k), { s with
      serial := s.serial + ports.length
      reqs := s.reqs ++ ports.zipIdx.map (fun x => flushRead s n (s.serial + x.2) x.1) }) := by
  rw [flushReads_eq_flushPorts]
  unfold flushPort
  cases h0 : portAcked s n false <;> cases h1 : portAcked s n true
  · simp [List.filter, h0, h1]
  · simp [List.filter, h0, h1]
  · simp [List.filter, h0, h1]
  · simp [List.filter, h0, h1, List.range_succ]

theorem startRelease_done {o : Opnds} {scope : Nat} {act : ReleaseAct} (h : ownEntries (t.el o.n.elemRef) o.n = [])
    (hf : scope ≠ 6 ∨ o.nd.hostAck = 0) : startRelease t o scope act = none := by
  unfold startRelease
  rw [if_pos h, if_neg]
  rcases hf with hf | hf <;> simp [hf]

theorem startRelease_waits {o : Opnds} {scope : Nat} {act : ReleaseAct} (h : ownEntries (t.el o.n.elemRef) o.n ≠ []) :
    startRelease t o scope act = some (t, .later (.release act (ownEntries (t.el o.n.elemRef) o.n) (decide (scope = 6)))) := by
  unfold startRelease
  rw [if_neg h]

theorem startRelease_flushes {o : Opnds} {scope : Nat} {act : ReleaseAct} (h : ownEntries (t.el o.n.elemRef) o.n = [])
    (hs : scope = 6) (ha : o.nd.hostAck ≠ 0) :
    startRelease t o scope act = some ((flushReads t o.n).2, .later (.release act (flushReads t o.n).1 false)) := by
  unfold startRelease
  rw [if_pos h, if_pos (by rw [hs, Bool.and_eq_true]; exact ⟨rfl, decide_eq_true ha⟩)]

theorem ownEntries_issue : ownEntries ((issueClaim s i f).el (issueOps s i f).n.elemRef) (issueOps s i f).n = unacked s := by
  rw [issueOps_n, ownEntries, issueClaim_sbuf]
  rfl

/-- A wait of a scope: what an issue does where it starts one, and where it needs none (R309, R310). -/
theorem release_waits {body : Opnds → State → Except FaultInfo (State × Done)} {act : ReleaseAct} {r : State × Done} {scope : Nat} {done : Prop}
    (hx : exec i s = issue i f s body) (hp : S1Passes s i f)
    (hb : body (issueOps s i f) (issueClaim s i f) =
      match (if scope < 2 then none else startRelease (issueClaim s i f) (issueOps s i f) scope act) with
      | some x => .ok x
      | none => .ok r)
    (hdone : body (issueOps s i f) (issueClaim s i f) = .ok r → done) :
    (scope < 2 → done) ∧
    (2 ≤ scope → unacked s ≠ [] →
      exec i s = .next (parksAt s i f (issueClaim s i f) (.release act (unacked s) (decide (scope = 6))))) ∧
    (2 ≤ scope → unacked s = [] → (scope ≠ 6 ∨ (self s).hostAck = 0) → done) ∧
    (unacked s = [] → scope = 6 → (self s).hostAck ≠ 0 → exec i s = .next (parksAt s i f (flushing s i f).2
      (.release act ((List.range (flushing s i f).1.length).map (fun k => s.serial + k)) false))) := by
  have hack : (issueOps s i f).nd.hostAck = (self s).hostAck := by rw [issueOps_nd]
  refine ⟨fun h => hdone ?_, fun h hu => ?_, fun h hu hf => hdone ?_, fun hu h6 hf => ?_⟩
  · rw [hb, if_pos h]
  · rw [hx]
    refine issue_later hp ?_
    rw [hb, if_neg (by omega), startRelease_waits (by rwa [ownEntries_issue]), ownEntries_issue]
  · rw [hb, if_neg (by omega), startRelease_done (by rwa [ownEntries_issue]) (by rwa [hack])]
  · have hport : ∀ south, portAcked (issueClaim s i f) s.cur.node south = (self s).hostAck.getLsbD (if south then 1 else 0) :=
      fun south => by rw [portAcked, issueClaim_nd_self]
    have hread : ∀ id south, flushRead (issueClaim s i f) s.cur.node id south = flushRead s s.cur.node id south :=
      fun id south => by rw [flushRead, issueClaim_stampOf, flushRead]
    have hfl : flushReads (issueClaim s i f) (issueOps s i f).n =
        ((List.range (flushing s i f).1.length).map (fun k => s.serial + k), (flushing s i f).2) := by
      rw [issueOps_n, flushReads_eq, issueClaim_serial, issueClaim_reqs, funext hport, funext (fun x : Bool × Nat => hread _ x.1)]
      rfl
    rw [hx]
    refine issue_later hp ?_
    rw [hb, if_neg (by omega), startRelease_flushes (by rwa [ownEntries_issue]) h6 (by rwa [hack]), hfl]

theorem bits_low10 (w : Word) : bits w 0 10 = w.setWidth 10 := by
  apply BitVec.eq_of_toNat_eq
  simp [bits]

end Sys2Proof.Machine

namespace Sys2Proof.Proofs
open Sys2Proof.Machine Sys2Proof.Claims

/-- Settles O18: a store acts at its S4, and a release waits for the entries and the flush that its scope asks for. -/
theorem globalStores : Obligations.GlobalStores := by
  intro s f makes plain d scope waits
  have hmakes : ∀ i, (∀ o ws s, lateEffect i o ws s = storeAtS4 i o ws s) → makes i :=
    fun i hi n a b d ws h hb hlo hhi => store_ends h (fun o => hi o ws s) hb hlo hhi
  have hplain : ∀ i data, exec i s = storeWith i f s data → plain i (data (issueClaim s i f) (issueOps s i f)) := by
    intro i data hx
    refine ⟨fun hp w hw => hx.trans (issue_now hp ?_), fun hp hw => hx.trans (issue_acts hp ?_)⟩
    · simp only [issueOps_va_error hw]
    · simp only [issueOps_va_ok hw]
  have hscope : bitsNat f.imm 0 3 = scope := by rw [bitsNat, Nat.shiftRight_zero]; rfl
  refine ⟨hplain (.gst f) (fun _ o => [o.d]) rfl, hmakes _ (fun _ _ _ => rfl), ?_, hmakes _ (fun _ _ _ => rfl), fun hp w hw => ?_, fun hp hw => ?_,
    hmakes _ (fun _ _ _ => rfl), fun hp => ?_⟩
  · have h := hplain (.gstv f) (fun t o => (t.el o.n.elemRef).vec f.dst.toNat) rfl
    simp only [issueOps_n, issueClaim_vec] at h
    exact h
  · exact issue_now hp (by simp only [issueOps_va_error hw])
  · refine release_waits (r := (issueClaim s (.gstL f) f, .atS4 [d])) rfl hp ?_ (fun hb => issue_acts hp hb)
    simp only [issueOps_va_ok hw, hscope]
    rfl
  · refine release_waits (r := (issueClaim s (.fence f) f, .now {})) rfl hp ?_ (fun hb => issue_now hp hb)
    simp only [hscope] <;> rfl

/-- Settles O19: the instructions of the pod by the address and the module of each. -/
theorem podInstructions : Obligations.PodInstructions := by
  intro s f m va skips entry mine
  have hpod : ∀ i data, exec i s = podStore i f s data → (∀ o ws s, lateEffect i o ws s = podStoreAtS4 i o ws s) →
      entry i (data (issueClaim s i f) (issueOps s i f)) := by
    intro i data hx hi
    refine ⟨fun hp hw => hx.trans (issue_now hp ?_), fun hp hw => hx.trans (issue_acts hp ?_),
      fun n a b d ws h hlo hhi => podStore_ends h (fun o => hi o ws s) hlo hhi⟩
    · obtain ⟨w, hw⟩ := Option.ne_none_iff_exists'.mp hw
      rcases badVa_eq_some.mp hw with h | ⟨h, hb, -⟩
      · simp only [issueOps_base_error h]
      · simp only [issueOps_base_ok h, hb, if_true]
    · obtain ⟨h, hb⟩ := badVa_eq_none.mp hw
      simp only [issueOps_base_ok h, hb]
      rfl
  have hmine : ((((issueClaim s (.xfen f) f).el (issueOps s (.xfen f) f).n.elemRef).podq).filter
      (fun x => decide (x.node = (issueOps s (.xfen f) f).n.node))).map StoreEntry.id = mine := by
    rw [issueOps_n, issueClaim_podq]
    rfl
  refine ⟨hpod (.xst f) (fun _ o => [o.d]) rfl (fun _ _ _ => rfl), ?_, fun hp hw => ?_, fun hp hw => ?_, fun hp w hw => ?_, fun hp hw => ?_, fun hp w hw => ?_,
    fun hp hw => ?_, fun hp hm => ?_, fun hp hm => ?_⟩
  · have h := hpod (.xstv f) (fun t o => (t.el o.n.elemRef).vec f.dst.toNat) rfl (fun _ _ _ => rfl)
    simp only [issueOps_n, issueClaim_vec] at h
    exact h
  · obtain ⟨w, hw⟩ := Option.ne_none_iff_exists'.mp hw
    refine issue_now hp ?_
    rcases badVa_eq_some.mp hw with h | ⟨h, hb, -⟩
    · simp only [issueOps_base_error h]
    · simp only [issueOps_base_ok h, hb, if_true]
  · obtain ⟨h, hb⟩ := badVa_eq_none.mp hw
    refine latches_of_useLatch (by decide) (by decide) rfl hp ?_
    simp only [issueOps_base_ok h, hb, bits_low10]
    rfl
  · refine issue_now hp ?_
    rcases badVa_eq_some.mp hw with h | ⟨h, hb, rfl⟩
    · simp only [issueOps_base_error h]
      rfl
    · simp only [issueOps_base_ok h, hb, if_true]
      rfl
  · obtain ⟨h, hb⟩ := badVa_eq_none.mp hw
    refine asks_of_await (fwd := []) (acq := false) rfl hp ?_
    simp only [issueOps_base_ok h, hb, bits_low10]
    rfl
  · refine issue_now hp ?_
    rcases badVa_eq_some.mp hw with h | ⟨h, hb, rfl⟩
    · simp only [issueOps_base_error h]
      rfl
    · simp only [issueOps_base_ok h, hb, if_true]
      rfl
  · obtain ⟨h, hb⟩ := badVa_eq_none.mp hw
    refine asks_of_await (fwd := []) (acq := false) rfl hp ?_
    simp only [issueOps_base_ok h, hb]
    rfl
  · exact issue_now hp (if_pos (hmine.trans hm))
  · refine issue_later hp ?_
    change (if _ = [] then _ else _) = _
    rw [hmine, if_neg hm]

end Sys2Proof.Proofs
end

section
/-! PROOF. `GATE` also clears the mark of a caller that entered OFF, which the statement on domains leaves as it was (O39; R159, R162). -/

namespace Sys2Proof.Machine
open Sys2Proof.Claims

/-- Node 0 of element 0 in the S4 of a `GATE` on gate 0, of which it is the callee. -/
def gatingNode : Node := { flight := some { instr := .gate {}, why := .s4 0 (.late {} {} {} []) } }

/-- An element whose domain 0 owns gate 0, with the mark that the caller of an earlier session of it entered OFF (R162). -/
def markedElem : Elem := { pword := [(2, 1)], gateOff := 1 }

/-- A state in which a `GATE` that may act finds the mark. -/
def gatingState : State := { node := [(0, gatingNode)], elem := [(0, markedElem)] }

theorem gatingState_late : Late gatingState {} (.gate {}) {} {} {} {} [] := ⟨_, rfl, rfl, rfl, 0, Nat.le_refl 0, rfl⟩

/-- The model's `GATE` clears the mark. -/
theorem gatingState_settled : ((settleNode gatingState {}).el {}).gateOff = 0 := by decide

/-- A state that differs in its gate table alone keeps the mark over S4. -/
theorem gatingState_finish (gs : Map Word) (r : Result) :
    ((finish (gatingState.updEl {} (fun e => { e with gate := gs })) {} r).el {}).gateOff = 1 := by
  rw [finish_eq_commit (n := {}) (fl := { instr := .gate {}, why := .s4 0 (.late {} {} {} []) }) (f := {}) rfl rfl rfl]
  exact congrArg Elem.gateOff commit_el

end Sys2Proof.Machine

namespace Sys2Proof.Proofs
open Sys2Proof.Machine Sys2Proof.Claims

/-- Refutes O39: where the mark of a caller that entered OFF stands, a `GATE` that acts clears it with the entry, and the
statement has it change the gate table alone. -/
theorem not_domainsAndPartitionWords : ¬ Obligations.DomainsAndPartitionWords := by
  rintro ⟨hdomains, -⟩
  obtain ⟨-, -, -, -, -, -, hgate, -, -⟩ := hdomains gatingState {}
  obtain ⟨gs, hends, -⟩ := (hgate {} {} {} {} [] gatingState_late).2 (by decide)
  have h := congrArg (fun t => (t.el {}).gateOff) hends
  rw [gatingState_settled] at h
  exact absurd (h.trans (gatingState_finish gs _)) (by decide)

end Sys2Proof.Proofs
end

section
/-! PROOF. A permit on its way to a receiver's ci3 takes the place of a record's token there, which the statement on trap records
does not count (O54; R350, R380). -/

namespace Sys2Proof.Machine

/-- A record of four words that has come for node 0. -/
def comeRecord : Trap := { leaving := false, dest := some {}, w := [0, 0, 0, 0] }

/-- Node 0 runs, its ci3 is empty, a record has come for it, and a permit is on its way to its ci3. -/
def permitState : State :=
  { node := [(0, { st := .run })], traps := [comeRecord], net := [{ load := .space {} 3 {} }] }

/-- The permit is counted: three tokens of the record enter. -/
theorem permitState_delivery : ∀ u, exec (.trapRecordDelivery 0) permitState = .next u → ((u.nd {}).ciq 3).length = 3 := by
  intro u hu
  obtain rfl := Host.Outcome.next.inj hu
  decide

end Sys2Proof.Machine

namespace Sys2Proof.Proofs
open Sys2Proof.Machine Sys2Proof.Claims

/-- Refutes O54: where a permit is on its way to the receiver's ci3, one token fewer of a record enters than the free entries of the
channel, of which the statement has all taken. -/
theorem not_coursesAndTraps : ¬ Obligations.CoursesAndTraps := by
  rintro ⟨-, -, harrive⟩
  obtain ⟨-, -, henter⟩ := harrive permitState 0 comeRecord rfl (by decide)
  obtain ⟨-, hroom⟩ := henter {} rfl (by decide)
  obtain ⟨u, hu, hci, -⟩ := hroom (by decide)
  have h := permitState_delivery u hu
  rw [hci] at h
  exact absurd h (by decide)

end Sys2Proof.Proofs
end

section
/-! SUPPORT. The matrix section in the words of the statements: its format, its banks, its places, its state and its owner
(R210, R219-R221). -/

namespace Sys2Proof.Machine
open Sys2Proof.Claims

variable {s t : State} {n : NodeRef} {i : Instr} {f : Fields} {m : Matrix} {e e' : Elem} {a b d : PWord} {ws : List PWord} {r : Result}
  {body : Opnds → State → Except FaultInfo (State × Done)}

theorem opf_eq : m.opf = field m.wordA 0 3 := bitsNat_eq_field _ _ _

theorem banks_eq : m.banks = banksOf m.wordA := by simp only [Matrix.banks, banksOf, opf_eq, bitsNat_eq_field]

theorem tileEdge_eq : tileEdge m.opf = edgeOf m.wordA := by simp only [tileEdge, edgeOf, opf_eq]

theorem accPlace_eq (r c : Nat) : accPlace m r c = placeOf m.wordA r c := by
  simp only [accPlace, placeOf, tileEdge_eq, bitsNat_eq_field]

theorem code_eq : m.st.code = stateCode m := by
  unfold stateCode
  cases m.st <;> rfl

theorem mxPoisoned_iff : mxPoisoned e = true ↔ secPoisoned e := by
  simp [mxPoisoned, secPoisoned, banks_eq, Elem.accWord, and_assoc]

theorem foreign_iff : foreign (issueOps s i f) (s.el s.cur.node.elemRef).mx = true ↔ foreignSec s := by
  simp only [foreign, Bool.and_eq_true, decide_eq_true_eq, issueOps_nd]
  exact Iff.rfl

/-- A matrix opcode of another domain than the owner's faults (R219). -/
theorem matrixOp_foreign (hp : S1Passes s i f) (h : foreignSec s) :
    matrixOp i f s body = .next (faultsAt s i f { cause := 0x04, detb := 0x30000000 }) :=
  if_pos ⟨hp.1, foreign_iff.mpr h⟩

/-- One of the owner, or of a section that is OFF, issues. -/
theorem matrixOp_own (h : ¬foreignSec s) : matrixOp i f s body = issue i f s body :=
  if_neg fun hf => h (foreign_iff.mp hf.2)

theorem wordsClean_eq (ws : List PWord) : wordsClean ws = ws.all (fun w => !w.psn) := List.not_any_eq_all_not

/-- An S4 whose effect is one on the node's element. -/
theorem endsIn_setEl (h : Late s n i f a b d ws)
    (hx : lateEffect i { n := n, f := f, nd := s.nd n, a := a, b := b, d := d } ws s = (s.setEl n.elemRef e', r)) :
    EndsIn s n (s.setEl n.elemRef e') r := endsIn_of_late h hx (by simp)

/-- An S4 that delivers a result and nothing else. -/
theorem endsIn_self (h : Late s n i f a b d ws)
    (hx : lateEffect i { n := n, f := f, nd := s.nd n, a := a, b := b, d := d } ws s = (s, r)) : EndsIn s n s r :=
  endsIn_of_late h hx rfl

end Sys2Proof.Machine
end

section
/-! PROOF. Relays, status, feeds, scales and the end of the matrix section's work (O14; R36, R219, R221, R224-R228). -/

namespace Sys2Proof.Machine
open Sys2Proof.Claims

variable {s : State} {n : NodeRef} {i : Instr} {f : Fields} {m : Matrix} {e : Elem} {a b d : PWord} {ws : List PWord}

/-! ## Status -/

theorem ite_pow_eq_toNat (x : Bool) (k : Nat) : (if x then 2 ^ k else 0) = x.toNat * 2 ^ k := by cases x <;> simp

theorem stateCode_lt : stateCode m < 6 := by
  unfold stateCode
  cases m.st <;> decide

/-- The fields of the first word of `MSTAT` (R221). -/
theorem mstatWord_fields : let m := e.mx; let w := mstatWord e 0
    field w 16 16 = m.tdone.toNat ∧ field w 13 3 = stateCode m ∧ (field w 12 1 = 1 ↔ m.shape ≠ none) ∧ (field w 11 1 = 1 ↔ secPoisoned e) ∧
      (field w 10 1 = 1 ↔ m.fzc = true) ∧ (field w 9 1 = 1 ↔ m.drain ≠ []) ∧ field w 5 4 = 0 ∧ field w 0 5 = m.flags.toNat := by
  intro m w
  have hshape : m.shape ≠ none ↔ m.shape.isSome.toNat = 1 := by simp [Option.isSome_iff_ne_none]
  have hpsn : secPoisoned e ↔ (mxPoisoned e).toNat = 1 := by simp [mxPoisoned_iff]
  have hfz : m.fzc = true ↔ m.fzc.toNat = 1 := by simp
  have hdrain : m.drain ≠ [] ↔ (decide (m.drain ≠ [])).toNat = 1 := by simp
  have hw : w = BitVec.ofNat 32 (m.tdone.toNat * 2 ^ 16 + stateCode m * 2 ^ 13 + m.shape.isSome.toNat * 2 ^ 12 + (mxPoisoned e).toNat * 2 ^ 11
      + m.fzc.toNat * 2 ^ 10 + (decide (m.drain ≠ [])).toNat * 2 ^ 9 + m.flags.toNat) := by
    simp only [w, mstatWord, if_true, ite_pow_eq_toNat, code_eq]
    rfl
  have hcode := stateCode_lt (m := m)
  have hdone := m.tdone.isLt
  have hflags := m.flags.isLt
  have h1 := Bool.toNat_le m.shape.isSome
  have h2 := Bool.toNat_le (mxPoisoned e)
  have h3 := Bool.toNat_le m.fzc
  have h4 := Bool.toNat_le (decide (m.drain ≠ []))
  rw [hshape, hpsn, hfz, hdrain, hw]
  generalize stateCode m = x0, m.tdone.toNat = x1, m.flags.toNat = x2, m.shape.isSome.toNat = x3, (mxPoisoned e).toNat = x4,
    m.fzc.toNat = x5, (decide (m.drain ≠ [])).toNat = x6 at *
  simp only [field, BitVec.toNat_ofNat]
  omega

/-! ## Feeds -/

theorem feedElem_eq (opf r k : Nat) (ls : List PWord) : feedElem opf ls (8 * r + k) = fed (fun l => ls.getD l {}) opf r k := by
  unfold feedElem fed
  dsimp only
  by_cases h1 : opf = 2 ∨ opf = 3
  · simp only [if_pos h1, bitsNat_eq_field]
    rfl
  by_cases h2 : opf = 6
  · simp only [if_neg h1, if_pos h2, bitsNat_eq_field]
    rfl
  · simp only [if_neg h1, if_neg h2, bitsNat_eq_field]
    rfl

theorem fscale_eq (k : Nat) : (match Map.find m.fscale k with
    | some w => w
    | none => PWord.clean 255) = Map.get m.fscale (⟨255, false⟩ : PWord) k := by
  rw [Map.get]
  cases Map.find m.fscale k <;> rfl

theorem narrowOpf_iff (k : Nat) : narrowOpf k = true ↔ 4 ≤ k ∧ k ≤ 6 := decide_eq_true_iff

/-- The scales that a side is fed (R227). -/
def sideScales (m : Matrix) (base : Nat) : List PWord :=
  (List.range (edgeOf m.wordA)).map (fun r => Map.get m.fscale (⟨255, false⟩ : PWord) (base + r))

theorem sideScales_getD {r base : Nat} (hr : r < edgeOf m.wordA) :
    (sideScales m base).getD r {} = Map.get m.fscale ⟨255, false⟩ (base + r) := by
  simp only [sideScales, List.getD_eq_getElem?_getD, List.getElem?_map, List.getElem?_range hr, Option.map_some, Option.getD_some]

/-- What a side is fed, in the words of the statement (R226, R227). -/
theorem feedSide_eq (ls : List PWord) (base : Nat) : feedSide m ls base = fedSide m (fun l => ls.getD l {}) base := by
  unfold feedSide
  extract_lets rows sc
  have hrows : rows = edgeOf m.wordA := tileEdge_eq
  have hsc : sc = sideScales m base := by
    unfold sc
    rw [hrows]
    exact List.map_congr_left fun r _ => fscale_eq (base + r)
  clear_value rows sc
  subst hrows hsc
  unfold fedSide
  dsimp only
  refine List.map_congr_left fun k _ => ?_
  simp only [KItem.mk.injEq, opf_eq, narrowOpf_iff, and_true]
  refine ⟨List.map_congr_left fun r hr => ?_, rfl⟩
  rw [sideScales_getD (List.mem_range.mp hr), feedElem_eq]
  simp only [Bool.and_eq_true, Bool.not_eq_true', narrowOpf_iff, and_assoc]

/-- A list by its places is a map (`MSCL`, R227). -/
theorem find_zipIdx_map {α β : Type} (g : α → β) (ws : List α) (k l : Nat) :
    Map.find ((ws.zipIdx k).map (fun x => (x.2, g x.1))) (k + l) = ws[l]?.map g := by
  induction ws generalizing k l with
  | nil => rfl
  | cons w ws ih =>
    rw [List.zipIdx_cons, List.map_cons, Map.find]
    cases l with
    | zero => simp
    | succ l =>
      rw [if_neg (by omega), show k + (l + 1) = k + 1 + l by omega, ih]
      rfl

/-- The scales that `MSCL` delivers (R227). -/
def scales (ws : List PWord) : Map PWord := ws.zipIdx.map (fun x => (x.2, if x.1.psn then x.1 else PWord.clean (x.1.val &&& 0xFF)))

theorem scales_get {l : Nat} (hl : l < ws.length) :
    Map.get (scales ws) {} l = if (ws.getD l {}).psn then ws.getD l {} else ⟨(ws.getD l {}).val &&& 0xFF, false⟩ := by
  have h := find_zipIdx_map (fun w : PWord => if w.psn then w else PWord.clean (w.val &&& 0xFF)) ws 0 l
  rw [Nat.zero_add] at h
  rw [Map.get, scales, h, List.getElem?_eq_getElem hl, List.getD_eq_getElem _ _ hl]
  rfl

/-- A lane that the format reads is poisoned (R226). -/
theorem feedPoisoned_iff {opf : Nat} {ls : List PWord} (h : ls.length = 16) :
    feedPoisoned opf ls = true ↔ ∃ l, l < (if opf = 6 then 13 else 16) ∧ (ls.getD l {}).psn = true := by
  have hany : ∀ k, k ≤ 16 → ((ls.take k).any PWord.psn = true ↔ ∃ l, l < k ∧ (ls.getD l {}).psn = true) := by
    intro k hk
    simp only [List.any_eq_true, List.mem_take_iff_getElem]
    constructor
    · rintro ⟨_, ⟨l, hl, rfl⟩, hp⟩
      exact ⟨l, by omega, by rwa [List.getD_eq_getElem _ _ (by omega)]⟩
    · rintro ⟨l, hl, hp⟩
      rw [List.getD_eq_getElem _ _ (by omega)] at hp
      exact ⟨_, ⟨l, by omega, rfl⟩, hp⟩
  unfold feedPoisoned
  by_cases ho : opf = 6
  · rw [if_pos ho, if_pos ho]
    exact hany 13 (by omega)
  · rw [if_neg ho, if_neg ho, ← hany 16 (by omega), List.take_of_length_le (by omega)]

/-- The section at the end of its work: an abort discards the tile in progress and empties the buffers unsent (R228). -/
def Matrix.finished (m : Matrix) : Bool → Matrix
  | false => { m with st := .off }
  | true => { m with st := .off, k := 0, group := [], feedA := [], feedB := [], bufA := [], bufB := [], drain := [], waiting := false }

/-- A side with source feed reads a poisoned lane (R226). -/
def feedsPoison (m : Matrix) (ws : List PWord) : Bool :=
  (m.asrc && feedPoisoned m.opf (ws.take 16)) || (m.bsrc && feedPoisoned m.opf (ws.drop 16))

/-- An element that a side is fed comes from one of the 16 lanes. -/
theorem fed_congr {ls ls' : Nat → PWord} (h : ∀ l, l < 16 → ls l = ls' l) {r k : Nat} (hr : r < edgeOf m.wordA) (hk : k < 8) :
    fed ls (field m.wordA 0 3) r k = fed ls' (field m.wordA 0 3) r k := by
  have hr8 : r < 8 := by
    rw [edgeOf] at hr
    split at hr <;> omega
  unfold fed
  dsimp only
  by_cases h2 : field m.wordA 0 3 = 2 ∨ field m.wordA 0 3 = 3
  · rw [edgeOf, if_pos h2] at hr
    simp only [if_pos h2, h ((8 * r + k) / 2) (by omega)]
  by_cases h6 : field m.wordA 0 3 = 6
  · simp only [if_neg h2, if_pos h6, h ((8 * r + k) / 5) (by omega)]
  · simp only [if_neg h2, if_neg h6, h ((8 * r + k) / 4) (by omega)]

theorem fedSide_congr {ls ls' : Nat → PWord} (h : ∀ l, l < 16 → ls l = ls' l) (base : Nat) : fedSide m ls base = fedSide m ls' base := by
  unfold fedSide
  dsimp only
  refine List.map_congr_left fun k hk => ?_
  simp only [KItem.mk.injEq, and_true]
  refine List.map_congr_left fun r hr => ?_
  rw [fed_congr h (List.mem_range.mp hr) (List.mem_range.mp hk)]

theorem getD_take {l : Nat} (hl : l < 16) : (ws.take 16).getD l {} = ws.getD l {} := by
  simp only [List.getD_eq_getElem?_getD, List.getElem?_take, hl, if_true]

theorem getD_drop (l : Nat) : (ws.drop 16).getD l {} = ws.getD (16 + l) {} := by
  simp only [List.getD_eq_getElem?_getD, List.getElem?_drop]

theorem feedsPoison_iff (h : ws.length = 32) : feedsPoison m ws = true ↔
    (m.wordA.getLsbD 6 = true ∧ ∃ l, l < (if field m.wordA 0 3 = 6 then 13 else 16) ∧ (ws.getD l {}).psn = true) ∨
    (m.wordA.getLsbD 7 = true ∧ ∃ l, l < (if field m.wordA 0 3 = 6 then 13 else 16) ∧ (ws.getD (16 + l) {}).psn = true) := by
  have hA := feedPoisoned_iff (opf := m.opf) (ls := ws.take 16) (by simp [h])
  have hB := feedPoisoned_iff (opf := m.opf) (ls := ws.drop 16) (by simp [h])
  rw [feedsPoison, Bool.or_eq_true, Bool.and_eq_true, Bool.and_eq_true, hA, hB, opf_eq]
  refine or_congr (and_congr_right fun _ => exists_congr fun l => and_congr_right fun hl => ?_)
    (and_congr_right fun _ => exists_congr fun l => and_congr_right fun _ => ?_)
  · rw [getD_take (by split at hl <;> omega)]
  · rw [getD_drop]

/-- The feed of both sides (R226). -/
theorem endsIn_mfeed (h : Late s n (.mfeed f) f a b d ws) : let m := (s.el n.elemRef).mx
    EndsIn s n (withSec s n.elemRef { m with
      feedA := if m.wordA.getLsbD 6 then fedSide m (fun l => ws.getD l {}) 0 else m.feedA
      feedB := if m.wordA.getLsbD 7 then fedSide m (fun l => ws.getD (16 + l) {}) 8 else m.feedB }) { cond := !feedsPoison m ws } := by
  intro m
  have hA : fedSide m (fun l => ws.getD l {}) 0 = feedSide m (ws.take 16) 0 := by
    rw [feedSide_eq]
    exact fedSide_congr (fun l hl => (getD_take hl).symm) 0
  have hB : fedSide m (fun l => ws.getD (16 + l) {}) 8 = feedSide m (ws.drop 16) 8 := by
    rw [feedSide_eq]
    exact fedSide_congr (fun l _ => (getD_drop l).symm) 8
  rw [hA, hB]
  exact endsIn_setEl h rfl

/-- The end of the section's work reports the tiles done (R228). -/
theorem endsIn_mfin {abort : Bool} (h : Late s n i f a b d ws) (hi : ∀ o ws s, lateEffect i o ws s = mfinAtS4 abort o s) :
    EndsIn s n (withSec s n.elemRef ((s.el n.elemRef).mx.finished abort))
      { dst := some ⟨(s.el n.elemRef).mx.tdone.setWidth 32, false⟩, cond := !mxPoisoned (s.el n.elemRef) } := by
  refine endsIn_setEl h ((hi _ _ _).trans ?_)
  cases abort <;> rfl

/-- A word of the status, which CLR reads with the flags cleared (R221). -/
theorem endsIn_mstat (h : Late s n (.mstat f) f a b d ws) (hf : ¬((s.el n.elemRef).mx.st ≠ .off ∧ (s.el n.elemRef).mx.owner ≠ domOf (s.nd n))) :
    EndsIn s n (if f.imm.getLsbD 2 then withSec s n.elemRef { (s.el n.elemRef).mx with flags := 0 } else s)
      (cleanResult 0 (int (mstatWord (s.el n.elemRef) (f.imm.toNat % 4)))) := by
  have hx : ∀ o : Opnds, o.n = n → o.f = f → o.nd = s.nd n → mstatAtS4 o s =
      (if f.imm.getLsbD 2 then withSec s n.elemRef { (s.el n.elemRef).mx with flags := 0 } else s,
        cleanResult 0 (int (mstatWord (s.el n.elemRef) (f.imm.toNat % 4)))) := by
    rintro o rfl rfl hnd
    have hfor : foreign o (s.el o.n.elemRef).mx = false := by
      rw [Bool.eq_false_iff, foreign, hnd]
      simpa using hf
    rw [mstatAtS4]
    simp only [hfor]
    rfl
  refine endsIn_of_late h (hx _ rfl rfl rfl) ?_
  split
  · exact congrArg Node.flight (State.nd_setEl _ _ _ _)
  · rfl

theorem endsIn_mstat_foreign (h : Late s n (.mstat f) f a b d ws)
    (hf : (s.el n.elemRef).mx.st ≠ .off ∧ (s.el n.elemRef).mx.owner ≠ domOf (s.nd n)) :
    EndsIn s n s (cleanResult 0 (int (BitVec.ofNat 32 (stateCode (s.el n.elemRef).mx * 2 ^ 13)))) := by
  refine endsIn_self h ?_
  rw [← code_eq]
  exact if_pos (by simpa [foreign] using hf)

end Sys2Proof.Machine

namespace Sys2Proof.Proofs
open Sys2Proof.Machine Sys2Proof.Claims

/-- Settles O14: the effect of each opcode on the section, in the words of the statement. -/
theorem matrixControl : Obligations.MatrixControl := by
  intro s f lanes sel done
  have hdone : ∀ i abort, (exec i s = matrixOp i f s (fun _ t => .ok (t, .atS4 []))) →
      (∀ o ws s, lateEffect i o ws s = mfinAtS4 abort o s) → done i (fun m => m.finished abort) := by
    intro i abort hx hi
    refine ⟨fun hp hf => hx.trans ((matrixOp_own hf).trans (issue_acts hp rfl)), fun n a b d ws h => ?_⟩
    have he := endsIn_mfin h hi
    refine ⟨fun hpsn => ?_, fun hpsn => ?_⟩
    · rwa [mxPoisoned_iff.mpr hpsn] at he
    · rwa [Bool.eq_false_iff.mpr (fun hx => hpsn (mxPoisoned_iff.mp hx))] at he
  refine ⟨fun hp => ⟨fun ha => ?_, fun ha => ?_⟩, fun n a b d ws h => ?_, fun hp => ?_, fun n a b d ws h => ?_, fun hp hf => ?_,
    fun n a b d ws h hl => ?_, fun hp hf => ?_, fun n a b d ws h hl => ?_, hdone _ false rfl (fun _ _ _ => rfl),
    hdone _ true rfl (fun _ _ _ => rfl)⟩
  · exact issue_now hp (if_pos ha)
  · exact issue_acts hp (if_neg (Bool.eq_false_iff.mp ha))
  · exact endsIn_setEl h (by rw [← bitsNat_eq_field]; rfl)
  · exact issue_acts hp rfl
  · intro el m alien stat
    have hstat : ¬alien → stat (mstatWord el sel) := endsIn_mstat h
    have hsel : ∀ k, ¬alien → sel = k → stat (mstatWord el k) := fun k hf hs => hs ▸ hstat hf
    refine ⟨endsIn_mstat_foreign h, fun hf hs => ⟨mstatWord el 0, hsel 0 hf hs, mstatWord_fields⟩, fun hf hs => ?_, hsel 2, hsel 3⟩
    rw [← bitsNat_eq_field]
    exact hsel 1 hf hs
  · refine (matrixOp_own hf).trans (issue_acts hp ?_)
    simp only [issueOps_n, issueClaim_vec]
    rfl
  · intro m fa fb la lb bad m'
    have hbad : (fa = true ∧ bad la) ∨ (fb = true ∧ bad lb) ↔ feedsPoison m ws = true := (feedsPoison_iff hl).symm
    have he : EndsIn s n (withSec s n.elemRef m') { cond := !feedsPoison m ws } := endsIn_mfeed h
    refine ⟨fun hb => ?_, fun hb => ?_⟩
    · rwa [hbad.mp hb] at he
    · rwa [Bool.eq_false_iff.mpr (fun hx => hb (hbad.mpr hx))] at he
  · refine (matrixOp_own hf).trans (issue_acts hp ?_)
    simp only [issueOps_n, issueClaim_vec]
    rfl
  · rw [← wordsClean_eq]
    exact ⟨scales ws, endsIn_setEl h rfl, fun l hl' => scales_get (by omega)⟩

end Sys2Proof.Proofs
end

section
/-! SUPPORT. The checks of the words of one access together (R200), and stores of several words. -/

namespace Sys2Proof.Machine
open Sys2Proof.Claims

variable {s : State} {n : NodeRef} {write : Bool} {a : Nat → Word} {k l : Nat} {fi : FaultInfo}

theorem zipIdx_map_range {α : Type} (g : Nat → α) (k : Nat) : ((List.range k).map g).zipIdx = (List.range k).map (fun l => (g l, l)) := by
  apply List.ext_getElem <;> simp

/-! ## Checks -/

/-- The faults of the words, in the order of the lanes. -/
def laneFaults (s : State) (n : NodeRef) (a : Nat → Word) (k : Nat) (write : Bool) : List FaultInfo :=
  (List.range k).filterMap (fun l => s.lsCheck n (a l) 4 write l)

theorem vecCheck_eq : vecCheck s n ((List.range k).map (fun l => some (a l))) write =
    ((laneFaults s n a k write).find? (fun x => decide (x.cause = causeProt))).orElse (fun _ =>
      ((laneFaults s n a k write).find? (fun x => decide (x.cause = causeAlign))).orElse (fun _ => (laneFaults s n a k write).head?)) := by
  have h : ((List.range k).map (fun l => some (a l))).zipIdx.filterMap (fun x => x.1.bind (fun a => s.lsCheck n a 4 write x.2))
      = laneFaults s n a k write := by
    rw [zipIdx_map_range, List.filterMap_map]
    rfl
  rw [vecCheck, h]

/-- Words that pass their checks are accessed. -/
theorem vecCheck_none (h : ∀ l, l < k → s.lsCheck n (a l) 4 write l = none) :
    vecCheck s n ((List.range k).map (fun l => some (a l))) write = none := by
  have he : laneFaults s n a k write = [] := List.filterMap_eq_nil_iff.mpr fun l hl => h l (List.mem_range.mp hl)
  rw [vecCheck_eq, he]
  rfl

/-- The first fault of a kind is that of the lowest lane that fails so. -/
theorem laneFaults_find {p : FaultInfo → Bool} (hl : l < k) (hc : s.lsCheck n (a l) 4 write l = some fi) (hp : p fi = true)
    (hmin : ∀ m, m < l → ∀ x, s.lsCheck n (a m) 4 write m = some x → p x = false) : (laneFaults s n a k write).find? p = some fi := by
  have hr : (List.range k).find? (fun l => (s.lsCheck n (a l) 4 write l).any p) = some l := by
    rw [List.find?_range_eq_some]
    refine ⟨by simpa [hc] using hp, List.mem_range.mpr hl, fun m hm => ?_⟩
    cases hx : s.lsCheck n (a m) 4 write m with
    | none => rfl
    | some x => simp [hmin m hm x hx]
  rw [laneFaults, List.find?_filterMap, hr]
  exact hc

theorem laneFaults_find_none {p : FaultInfo → Bool} (h : ∀ m, m < k → ∀ x, s.lsCheck n (a m) 4 write m = some x → p x = false) :
    (laneFaults s n a k write).find? p = none := by
  rw [List.find?_eq_none]
  intro x hx
  obtain ⟨m, hm, hmx⟩ := List.mem_filterMap.mp hx
  simp [h m (List.mem_range.mp hm) x hmx]

theorem laneFaults_find_cause {c : BitVec 8} (hl : l < k) (hc : s.lsCheck n (a l) 4 write l = some fi) (hf : fi.cause = c)
    (hmin : ∀ m, m < l → ∀ x, s.lsCheck n (a m) 4 write m = some x → x.cause ≠ fi.cause) :
    (laneFaults s n a k write).find? (fun x => decide (x.cause = c)) = some fi :=
  laneFaults_find hl hc (decide_eq_true hf) fun m hm x hx => decide_eq_false fun he => hmin m hm x hx (he.trans hf.symm)

/-- The record of the words names the first failing check and its lowest lane (R200). -/
theorem vecCheck_firstFailure (h : FirstFailure s a (List.range k) write fi) :
    vecCheck s s.cur.node ((List.range k).map (fun l => some (a l))) write = some fi := by
  obtain ⟨l, hl, hc, hall⟩ := h
  have hl := List.mem_range.mp hl
  have hmin : ∀ m, m < l → ∀ x, s.lsCheck s.cur.node (a m) 4 write m = some x → x.cause ≠ fi.cause := fun m hm x hx he =>
    absurd ((hall m (List.mem_range.mpr (by omega)) x hx).2 he) (by omega)
  have hkind := fun m (hm : m < k) x hx => (hall m (List.mem_range.mpr hm) x hx).1
  rw [vecCheck_eq]
  rcases hkind l hl fi hc with hf | ⟨hf, hf'⟩ | ⟨hf, -⟩
  · rw [laneFaults_find_cause (c := causeProt) hl hc hf hmin]
    rfl
  · have hno : ∀ m, m < k → ∀ x, s.lsCheck s.cur.node (a m) 4 write m = some x → decide (x.cause = causeProt) = false := by
      intro m hm x hx
      rcases hkind m hm x hx with h7 | ⟨-, h7⟩ | ⟨h4, -⟩
      · exact absurd h7 hf'
      · exact decide_eq_false h7
      · exact absurd (hf.symm.trans h4) (by decide)
    rw [laneFaults_find_none hno, laneFaults_find_cause (c := causeAlign) hl hc hf hmin]
    rfl
  · have hx4 : ∀ m, m < k → ∀ x, s.lsCheck s.cur.node (a m) 4 write m = some x → x.cause = 0x04 := by
      intro m hm x hx
      rcases hkind m hm x hx with h7 | ⟨h7, -⟩ | ⟨-, h4⟩
      · exact absurd (hf.symm.trans h7) (by decide)
      · exact absurd (hf.symm.trans h7) (by decide)
      · exact h4
    rw [laneFaults_find_none fun m hm x hx => decide_eq_false (by rw [hx4 m hm x hx]; decide),
      laneFaults_find_none fun m hm x hx => decide_eq_false (by rw [hx4 m hm x hx]; decide)]
    have hhead := laneFaults_find (p := fun _ => true) hl hc rfl
      fun m hm x hx => absurd ((hx4 m (by omega) x hx).trans hf.symm) (hmin m hm x hx)
    rw [← hhead]
    cases laneFaults s s.cur.node a k write <;> rfl

/-- The check of one word. -/
theorem vecCheck_one (x : Word) : vecCheck s n [some x] write = s.lsCheck n x 4 write 0 := by
  have h := vecCheck_eq (s := s) (n := n) (a := fun _ => x) (k := 1) (write := write)
  have hf : laneFaults s n (fun _ => x) 1 write = (s.lsCheck n x 4 write 0).toList := by
    change List.filterMap _ [0] = _
    cases hx : s.lsCheck n x 4 write 0 <;> simp [hx]
  rw [hf] at h
  refine h.trans ?_
  cases s.lsCheck n x 4 write 0 with
  | none => rfl
  | some fi =>
    simp only [Option.toList_some, List.find?_singleton, List.head?_cons]
    split
    · rfl
    · split <;> rfl

@[simp] theorem issueClaim_vecCheck {i : Instr} {f : Fields} (eas : List (Option Word)) :
    vecCheck (issueClaim s i f) n eas write = vecCheck s n eas write := by
  simp only [vecCheck, issueClaim_lsCheck]

/-! ## Stores of several words -/

/-- The words `w` stored at the addresses `a`, in order. -/
def storeLanes (s : State) (e : ElemRef) (a : Nat → Nat) (w : Nat → PWord) (k : Nat) : State :=
  (List.range k).foldl (fun s l => s.setLsWord e (a l) (w l)) s

variable {e : ElemRef} {b : Nat → Nat} {w : Nat → PWord}

theorem storeLanes_succ : storeLanes s e b w (k + 1) = (storeLanes s e b w k).setLsWord e (b k) (w k) := by
  simp [storeLanes, List.range_succ]

@[simp] theorem storeLanes_node : (storeLanes s e b w k).node = s.node := 
  foldl_keeps (v := State.node) (g := fun s l => s.setLsWord e (b l) (w l)) (fun _ _ => rfl) _ _

theorem storeLanes_wf (h : Memory.wf s.mem = true) : Memory.wf (storeLanes s e b w k).mem = true := by
  induction k with
  | zero => exact h
  | succ k ih =>
    rw [storeLanes_succ]
    exact State.setLsWord_wf ih _ _ _

theorem lsWord_setLsWord_ne (h : Memory.wf s.mem = true) {x y : Nat} (v : PWord) (hxy : x / 4 ≠ y / 4) :
    (s.setLsWord e x v).lsWord e y = s.lsWord e y :=
  loadWord_storeWord_ne h v (by simp only [lsPa]; omega)

/-- Words stored at distinct places are read back. -/
theorem lsWord_storeLanes (h : Memory.wf s.mem = true) (hb : ∀ l m, l < k → m < l → b m / 4 ≠ b l / 4) (hl : l < k) :
    (storeLanes s e b w k).lsWord e (b l) = w l := by
  induction k with
  | zero => omega
  | succ k ih =>
    rw [storeLanes_succ]
    by_cases hk : l = k
    · subst hk
      exact lsWord_setLsWord_self (storeLanes_wf h) _ _
    · rw [lsWord_setLsWord_ne (storeLanes_wf h) _ (Ne.symm (hb k l (by omega) (by omega)))]
      exact ih (fun l m hl hm => hb l m (by omega) hm) (by omega)

/-- Bytes beside the words stay. -/
theorem memGet_storeLanes (h : Memory.wf s.mem = true) {pa : Nat}
    (hpa : ∀ l, l < k → pa < lsPa e (b l / 4 * 4) ∨ lsPa e (b l / 4 * 4 + 4) ≤ pa) :
    memGet (storeLanes s e b w k).mem pa = memGet s.mem pa := by
  induction k with
  | zero => rfl
  | succ k ih =>
    rw [storeLanes_succ, memGet_setLsWord_ne (storeLanes_wf h) _ _ (hpa k (by omega))]
    exact ih fun l hl => hpa l (by omega)

end Sys2Proof.Machine
end

section
/-! PROOF. Configuring the matrix section, its banks and its shapes (O41; R25, R36, R200, R217-R220, R223, R224). -/

namespace Sys2Proof.Machine
open Sys2Proof.Claims

variable {s : State} {n : NodeRef} {i : Instr} {f : Fields} {m : Matrix} {e : Elem} {a b d : PWord} {ws : List PWord}

/-! ## The words of `MCFG` -/

theorem field_bit_one (w : Word) (k : Nat) : field w k 1 = 1 ↔ w.getLsbD k = true := by
  rw [getLsbD_eq_div, field, decide_eq_true_eq]
  rfl

theorem field_bit_zero (w : Word) (k : Nat) : field w k 1 = 0 ↔ w.getLsbD k = false := by
  rw [← Bool.not_eq_true, ← field_bit_one, field]
  omega

theorem resourceFault_acc (k : Nat) : resourceFault 0 (.acc k) = { cause := 0x04, deta := BitVec.ofNat 32 k, detb := 0x30000000 } := by
  have h : (Resource.acc k).rkind = 3 := rfl
  rw [resourceFault, h]
  rfl

/-- The words of `MCFG` are legal together (R217, R220). -/
theorem mcfgOk_iff (a b : Word) (tiles : Nat) : mcfgOk a b tiles = true ↔ legalCfg a b tiles := by
  simp only [mcfgOk, legalCfg, bitsNat_eq_field, bitAt, field_bit_one, field_bit_zero, narrowOpf, Bool.and_eq_true, Bool.or_eq_true,
    Bool.not_eq_true', Bool.and_eq_false_iff, Bool.or_eq_false_iff, decide_eq_true_eq, decide_eq_false_iff_not, Bool.not_eq_false',
    and_assoc]
  grind

/-- The tiles that `MCFG` asks for, at its issue and at its S4. -/
theorem tilesAsked_eq (s : State) (o : Opnds) :
    tilesAsked s o = if field o.b.val 16 16 = 0 then taskTiles s o.n.elemRef else field o.b.val 16 16 := by
  simp only [tilesAsked, bitsNat_eq_field]

@[simp] theorem issueClaim_die : (issueClaim s i f).die = s.die := by
  rcases holdElement_cases (s := claim s.atIssue s.cur.node i f) (i := i) with ⟨_, _, h⟩ | h <;> rw [issueClaim, h] <;> rfl

@[simp] theorem issueClaim_taskTiles (x : ElemRef) : taskTiles (issueClaim s i f) x = taskTiles s x := by
  simp only [taskTiles, issueClaim_elRegion, State.rg, State.dieAt, issueClaim_region, issueClaim_die]

/-! ## Tiles -/

theorem zeroed_clearBanks (acc : Map PWord) (ks : List Nat) : zeroed acc (clearBanks acc ks) ks := by
  intro k i hi
  have hk : (16 * k + i) / 16 = k := by omega
  rw [clearBanks, Map.get_filter_key (fun x => !ks.contains (x / 16)), hk]
  by_cases h : k ∈ ks <;> simp [h]

theorem zeroed_refl (acc : Map PWord) : zeroed acc acc [] := fun k i _ => by simp

/-- The accumulators with which a tile starts (R220). -/
def tileAcc (e : Elem) : Map PWord := if e.mx.wordA.getLsbD 13 then clearBanks e.acc (banksOf e.mx.wordA) else e.acc

theorem startTile_eq : startTile e = { e with mx := { e.mx with k := 0, group := [] }, acc := tileAcc e } := by
  rw [startTile, tileAcc, banks_eq]
  rfl

theorem zeroed_tileAcc : zeroed e.acc (tileAcc e) (if e.mx.wordA.getLsbD 13 then banksOf e.mx.wordA else []) := by
  rw [tileAcc]
  split
  · exact zeroed_clearBanks _ _
  · exact zeroed_refl _

/-! ## The drain -/

theorem shapeEnds_getLastD (ls : List Nat) (k d : Nat) : (shapeEnds k ls).getLastD d = if ls = [] then d else k + ls.sum := by
  induction ls generalizing k d with
  | nil => rfl
  | cons l ls ih =>
    rw [shapeEnds, List.getLastD_cons, ih, if_neg (List.cons_ne_nil _ _)]
    cases ls with
    | nil => simp
    | cons l' ls => simp [Nat.add_assoc]

theorem shapeEnds_eq (ls : List Nat) (k : Nat) : shapeEnds k ls = (List.range ls.length).map (fun j => k + (ls.take (j + 1)).sum) := by
  induction ls generalizing k with
  | nil => rfl
  | cons l ls ih =>
    rw [shapeEnds, ih, List.length_cons, List.range_succ_eq_map, List.map_cons, List.map_map]
    simp [Function.comp_def, Nat.add_assoc]

theorem findIdx?_range (p : Nat → Bool) (k : Nat) : (List.range k).findIdx? p = (List.range k).find? p := by
  apply Option.ext
  intro j
  rw [List.findIdx?_eq_some_iff_getElem, List.find?_range_eq_some]
  simp only [List.length_range, List.getElem_range, List.mem_range, Bool.not_eq_true, Bool.not_eq_true']
  constructor
  · rintro ⟨hj, hp, hmin⟩
    exact ⟨hp, hj, hmin⟩
  · rintro ⟨hp, hj, hmin⟩
    exact ⟨hj, hp, hmin⟩

theorem drainToken_eq (w : PWord) : drainToken m.opf w =
    if w.psn then { kind := 6, payload := w.val } else { kind := 0, fmt := if field m.wordA 0 3 = 0 then 7 else 1, payload := w.val } := by
  rw [drainToken, tokenOf, opf_eq]
  rfl

/-- The sequence whose last row a row of the matrix is (R223). -/
theorem endOf_eq (ls : List Nat) (g : Nat) : (shapeEnds 0 ls).findIdx? (fun x => decide (x = g + 1)) =
    (List.range ls.length).find? (fun j => decide ((ls.take (j + 1)).sum = g + 1)) := by
  rw [shapeEnds_eq, List.findIdx?_map, findIdx?_range]
  simp only [Nat.zero_add]
  rfl

theorem rowsOf_eq (ls : List Nat) : (shapeEnds 0 ls).getLastD 0 = ls.sum := by
  rw [shapeEnds_getLastD]
  split
  · next h => simp [h]
  · exact Nat.zero_add _

/-- The tokens of a row, in the words of the statement (R222, R223). -/
theorem drainRow_eq (t r : Nat) : drainRow e t r = rowTokens e.mx e.acc t r := by
  unfold drainRow rowTokens
  simp only [drainToken_eq, tileEdge_eq, accPlace_eq]
  cases e.mx.shape with
  | none => rfl
  | some sh =>
    simp only [rowsOf_eq, endOf_eq]
    split
    · rfl
    · cases (List.range sh.lens.length).find? _ <;> rfl

theorem takeTile_drained (node : BitVec 4) (ch : BitVec 2) : Drained e (takeTile e node ch) node ch := by
  have hrow : drainRow e (e.mx.tiles - 1) = rowTokens e.mx e.acc (e.mx.tiles - 1) := funext fun r => drainRow_eq _ r
  refine ⟨fun h => ?_, fun h => ?_⟩
  · rw [takeTile]
    simp only [if_pos h, startTile_eq, hrow, tileEdge_eq]
    exact ⟨_, rfl, zeroed_tileAcc⟩
  · rw [takeTile]
    simp only [if_neg (Nat.not_lt.mpr h), hrow, tileEdge_eq]

/-! ## What the opcodes run -/

theorem exec_mrun : exec (.mrun f) s = execMrun f s := rfl
theorem exec_mdrain : exec (.mdrain f) s = execMdrain f s := rfl
theorem exec_mclr : exec (.mclr f) s = execMclr f s := rfl
theorem exec_mldk : exec (.mldk f) s = execMldk f s := rfl
theorem exec_mstk : exec (.mstk f) s = execMstk f s := rfl
theorem exec_mshape : exec (.mshape f) s = execMshape f s := rfl
theorem exec_mfeed : exec (.mfeed f) s = execMfeed f s := rfl
theorem exec_mscl : exec (.mscl f) s = execMscl f s := rfl
theorem exec_mfin : exec (.mfin f) s = execMfin f s := rfl
theorem exec_mfinAbort : exec (.mfinAbort f) s = execMfinAbort f s := rfl

/-! ## Banks and shapes -/

/-- Words put into a map one after the other. -/
theorem get_foldl_set (ws : List PWord) (acc : Map PWord) (base k x : Nat) :
    Map.get ((ws.zipIdx k).foldl (fun m y => Map.set m (base + y.2) y.1) acc) {} x =
      if base + k ≤ x ∧ x < base + k + ws.length then ws.getD (x - (base + k)) {} else Map.get acc {} x := by
  induction ws generalizing acc k with
  | nil => rw [if_neg (by simp)]; rfl
  | cons w ws ih =>
    rw [List.zipIdx_cons, List.foldl_cons, ih, List.length_cons]
    by_cases h1 : base + (k + 1) ≤ x ∧ x < base + (k + 1) + ws.length
    · rw [if_pos h1, if_pos (by omega), show x - (base + k) = x - (base + (k + 1)) + 1 by omega, List.getD_cons_succ]
    · rw [if_neg h1, Map.get_set]
      by_cases h2 : x = base + k
      · rw [if_pos h2, if_pos (by omega), h2, Nat.sub_self, List.getD_cons_zero]
      · rw [if_neg h2, if_neg (by omega)]

theorem shapeLens_eq (ws : List PWord) : shapeLens ws =
    if ∀ w ∈ ws, w.psn = false ∧ 1 ≤ w.val.toNat ∧ w.val.toNat ≤ 65535 then some (ws.map (fun w => w.val.toNat)) else none := by
  have h : ws.all (fun w => !w.psn && decide (1 ≤ w.val.toNat ∧ w.val.toNat < 2 ^ 16)) = true ↔
      ∀ w ∈ ws, w.psn = false ∧ 1 ≤ w.val.toNat ∧ w.val.toNat ≤ 65535 := by
    simp only [List.all_eq_true, Bool.and_eq_true, Bool.not_eq_true', decide_eq_true_eq]
    exact forall₂_congr fun w _ => and_congr_right fun _ => by omega
  rw [shapeLens]
  simp only [h]

end Sys2Proof.Machine
end

section
namespace Sys2Proof.Proofs
open Sys2Proof.Machine Sys2Proof.Claims

variable {s : State} {f : Fields}

theorem mcfg_issues (hp : Passes s (.mcfg f) f) : let c := issueOps s (.mcfg f) f
    let tiles := if field c.b.val 16 16 = 0 then taskTiles s (here s) else field c.b.val 16 16
    let reserved := field c.a.val 0 3 = 1 ∨ field c.a.val 0 3 = 7
    let usable := fun (k : Nat) => s.mayUse s.cur.node (.acc k)
    (c.psn ≠ none → Completes s (.mcfg f) f { cond := false }) ∧
    (c.psn = none → reserved → Completes s (.mcfg f) f { cond := false }) ∧
    (c.psn = none → ¬reserved → (∃ k ∈ banksOf c.a.val, usable k = false) → ∃ k ∈ banksOf c.a.val, usable k = false ∧
      exec (.mcfg f) s = .next (failsAt s (.mcfg f) f { cause := 0x04, deta := BitVec.ofNat 32 k, detb := 0x30000000 })) ∧
    (c.psn = none → ¬reserved → (∀ k ∈ banksOf c.a.val, usable k = true) → ¬legalCfg c.a.val c.b.val tiles →
      Completes s (.mcfg f) f { cond := false }) ∧
    (c.psn = none → (∀ k ∈ banksOf c.a.val, usable k = true) → legalCfg c.a.val c.b.val tiles → Acts s (.mcfg f) f []) := by
  intro c tiles reserved usable
  have hopf : (({ wordA := c.a.val } : Matrix).opf = 1 ∨ ({ wordA := c.a.val } : Matrix).opf = 7) ↔ reserved := by
    rw [opf_eq]
  have hfind : ∀ k, ({ wordA := (issueOps s (.mcfg f) f).a.val } : Matrix).banks.find?
      (fun k => !(issueClaim s (.mcfg f) f).mayUse (issueOps s (.mcfg f) f).n (.acc k)) = k ↔ (banksOf c.a.val).find? (fun k => !usable k) = k := by
    intro k
    rw [banks_eq]
    simp only [issueClaim_mayUse]
    exact Iff.rfl
  have hall : (∀ k ∈ banksOf c.a.val, usable k = true) → (banksOf c.a.val).find? (fun k => !usable k) = none := fun h =>
    List.find?_eq_none.mpr fun k hk => by simp [h k hk]
  have hok : mcfgOk c.a.val c.b.val (tilesAsked (issueClaim s (.mcfg f) f) c) = true ↔ legalCfg c.a.val c.b.val tiles := by
    rw [tilesAsked_eq, issueClaim_taskTiles]
    exact mcfgOk_iff _ _ _
  refine ⟨fun h => ?_, fun h hr => ?_, fun h hr hk => ?_, fun h hr hk hl => ?_, fun h hk hl => ?_⟩
  · obtain ⟨w, hw⟩ := Option.ne_none_iff_exists'.mp h
    exact issue_now hp (by simp only [show (issueOps s (.mcfg f) f).psn = some w from hw])
  · refine issue_now hp ?_
    simp only [show (issueOps s (.mcfg f) f).psn = none from h]
    exact if_pos (hopf.mpr hr)
  · cases hx : (banksOf c.a.val).find? (fun k => !usable k) with
    | none =>
      obtain ⟨k, hmem, hno⟩ := hk
      exact absurd (List.find?_eq_none.mp hx k hmem) (by simp [hno])
    | some k =>
      refine ⟨k, List.mem_of_find?_eq_some hx, by simpa using List.find?_some hx, issue_error hp ?_⟩
      simp only [show (issueOps s (.mcfg f) f).psn = none from h]
      refine (if_neg (fun hx => hr (hopf.mp hx))).trans ?_
      simp only [(hfind (some k)).mpr hx, resourceFault_acc]
  · refine issue_now hp ?_
    simp only [show (issueOps s (.mcfg f) f).psn = none from h]
    refine (if_neg (fun hx => hr (hopf.mp hx))).trans ?_
    simp only [(hfind none).mpr (hall hk)]
    exact if_neg (fun hx => hl (hok.mp hx))
  · have hr : ¬reserved := fun hr => by
      obtain ⟨-, h1, h7, -⟩ := hl
      exact hr.elim h1 h7
    refine issue_acts hp ?_
    simp only [show (issueOps s (.mcfg f) f).psn = none from h]
    refine (if_neg (fun hx => hr (hopf.mp hx))).trans ?_
    simp only [(hfind none).mpr (hall hk)]
    exact if_pos (hok.mpr hl)

theorem matrixSetUp : Claims.MatrixSetUp := by
  intro s f c asked reserved usable alien starts
  have halien : ∀ {i body}, exec i s = matrixOp i f s body → alien i := fun hx hp hf => hx.trans (matrixOp_foreign hp hf)
  have hstarts : ∀ {i}, (exec i s = matrixOp i f s (fun _ t => .ok (t, .atS4 []))) → starts i :=
    fun hx hp hf => hx.trans ((matrixOp_own hf).trans (issue_acts hp rfl))
  refine ⟨halien exec_mrun, halien exec_mdrain, halien exec_mclr, halien exec_mldk, halien exec_mstk, halien exec_mshape,
    halien exec_mfeed, halien exec_mscl, halien exec_mfin, halien exec_mfinAbort, hstarts exec_mrun, hstarts exec_mdrain,
    hstarts exec_mclr, fun hp => mcfg_issues hp,
    fun n a b d ws h => ?_, fun n a b d ws h => ?_, fun n a b d ws h k hk => ?_, fun n a b d ws h => ?_⟩
  · have ht := tilesAsked_eq s { n := n, f := f, nd := s.nd n, a := a, b := b, d := d }
    have hasked : asked n.elemRef b.val = tilesAsked s { n := n, f := f, nd := s.nd n, a := a, b := b, d := d } := ht.symm
    rw [hasked]
    exact endsIn_setEl h rfl
  · intro el
    refine ⟨_, endsIn_setEl h ?_, zeroed_tileAcc (e := { el with mx := { el.mx with st := .run } })⟩
    exact congrArg (fun e => (s.setEl n.elemRef e, ({ cond := true } : Result))) startTile_eq
  · refine ⟨takeTile (s.el n.elemRef) n.node k, endsIn_setEl h ?_, takeTile_drained _ _⟩
    have hco : (coCode f.dst).getD 0 = k := by
      rw [coCode_eq_some_iff.mpr hk]
      rfl
    exact congrArg (fun k => (s.setEl n.elemRef (takeTile (s.el n.elemRef) n.node k), ({ cond := true } : Result))) hco
  · exact ⟨_, endsIn_setEl h rfl, zeroed_clearBanks _ _⟩

end Sys2Proof.Proofs

namespace Sys2Proof.Machine
open Sys2Proof.Claims

variable {s : State} {i : Instr} {f : Fields} {fi : FaultInfo} {write : Bool}

/-- The addresses of the 16 words of a bank (R224). -/
abbrev rowEas (o : Opnds) : List Word := (List.range 16).map (fun i => o.a.val + o.b.val + BitVec.ofNat 32 (4 * i))

theorem rowCheck_failure (h : FirstFailure s (eaSeq s i f) (List.range 16) write fi) :
    vecCheck (issueClaim s i f) (issueOps s i f).n ((rowEas (issueOps s i f)).map some) write = some fi := by
  rw [issueClaim_vecCheck, List.map_map]
  exact vecCheck_firstFailure h

theorem rowCheck_none (h : ∀ l, l < 16 → s.lsCheck s.cur.node (eaSeq s i f l) 4 write l = none) :
    vecCheck (issueClaim s i f) (issueOps s i f).n ((rowEas (issueOps s i f)).map some) write = none := by
  rw [issueClaim_vecCheck, List.map_map]
  exact vecCheck_none h

/-- A word that passes its check is aligned (R28). -/
theorem aligned_of_lsCheck {n : NodeRef} {x : Word} {aux : Nat} (h : s.lsCheck n x 4 write aux = none) : x.toNat % 4 = 0 := by
  rw [lsCheck_eq n (Or.inr (Or.inr rfl))] at h
  by_contra hx
  split at h
  · exact absurd h (by simp)
  · exact absurd h (by simp)

/-- The words of a bank stand at distinct places. -/
theorem rowEas_distinct (x : Word) {l m : Nat} (hl : l < 16) (hm : m < l) :
    (x + BitVec.ofNat 32 (4 * m)).toNat / 4 ≠ (x + BitVec.ofNat 32 (4 * l)).toNat / 4 := by
  have hx := x.isLt
  simp only [BitVec.toNat_add, BitVec.toNat_ofNat]
  omega

theorem mstk_stores (o : Opnds) (t : State) (e : Elem) :
    (rowEas o).zipIdx.foldl (fun t x => t.setLsWord o.n.elemRef x.1.toNat (e.accWord f.dst.toNat x.2)) t =
      storeLanes t o.n.elemRef (fun l => (o.a.val + o.b.val + BitVec.ofNat 32 (4 * l)).toNat) (e.accWord f.dst.toNat) 16 := by
  rw [rowEas, zipIdx_map_range, List.foldl_map]
  rfl

/-- The addresses of a shape record, and its first word (R223). -/
def shapeEa (s : State) (f : Fields) (j : Nat) : Word := (issueOps s (.mshape f) f).a.val + BitVec.ofNat 32 (4 * j)
def shapeCount (s : State) (f : Fields) : PWord := s.lsWord (here s) (shapeEa s f 0).toNat

theorem shapeCheck_head : vecCheck (issueClaim s (.mshape f) f) (issueOps s (.mshape f) f).n
    [some ((issueOps s (.mshape f) f).a.val + BitVec.ofNat 32 (4 * 0))] false = s.lsCheck s.cur.node (shapeEa s f 0) 4 false 0 := by
  rw [issueClaim_vecCheck, vecCheck_one]
  rfl

theorem shapeCount_eq : (issueClaim s (.mshape f) f).lsWord (issueOps s (.mshape f) f).n.elemRef
    ((issueOps s (.mshape f) f).a.val + BitVec.ofNat 32 (4 * 0)).toNat = shapeCount s f := issueClaim_lsWord _

theorem mshape_poisoned {w : Word} (hp : S1Passes s (.mshape f) f) (hown : ¬foreignSec s) (h : (issueOps s (.mshape f) f).psn = some w) :
    Completes s (.mshape f) f { cond := false } :=
  exec_mshape.trans ((matrixOp_own hown).trans (issue_now hp (by simp only [h])))

section
variable (hp : S1Passes s (.mshape f) f) (hown : ¬foreignSec s) (h : (issueOps s (.mshape f) f).psn = none)
include hp hown h

theorem mshape_headFails (hc : s.lsCheck s.cur.node (shapeEa s f 0) 4 false 0 = some fi) :
    exec (.mshape f) s = .next (failsAt s (.mshape f) f fi) := by
  refine exec_mshape.trans ((matrixOp_own hown).trans (issue_error hp ?_))
  simp only [h]
  rw [shapeCheck_head, hc]

theorem mshape_badCount (hc : s.lsCheck s.cur.node (shapeEa s f 0) 4 false 0 = none)
    (hn : ¬((shapeCount s f).psn = false ∧ 1 ≤ (shapeCount s f).val.toNat ∧ (shapeCount s f).val.toNat ≤ 64)) :
    Acts s (.mshape f) f [] := by
  refine exec_mshape.trans ((matrixOp_own hown).trans (issue_acts hp ?_))
  simp only [h]
  rw [shapeCheck_head, hc]
  refine if_pos ?_
  rw [shapeCount_eq]
  by_cases hpsn : (shapeCount s f).psn = true
  · exact Or.inl hpsn
  · exact Or.inr (by_contra fun hv => hn ⟨Bool.eq_false_iff.mpr hpsn, by omega, by omega⟩)

variable (hc : s.lsCheck s.cur.node (shapeEa s f 0) 4 false 0 = none)
  (hn : (shapeCount s f).psn = false ∧ 1 ≤ (shapeCount s f).val.toNat ∧ (shapeCount s f).val.toNat ≤ 64)
include hc hn

theorem mshape_fails (hf : FirstFailure s (shapeEa s f) (List.range ((shapeCount s f).val.toNat + 1)) false fi) :
    exec (.mshape f) s = .next (failsAt s (.mshape f) f fi) := by
  obtain ⟨hpsn, h1, h64⟩ := hn
  have hv := vecCheck_firstFailure hf
  rw [← issueClaim_vecCheck (i := .mshape f) (f := f)] at hv
  refine exec_mshape.trans ((matrixOp_own hown).trans (issue_error hp ?_))
  simp only [h]
  rw [shapeCheck_head, hc]
  refine (if_neg (by rw [shapeCount_eq, hpsn]; simp; omega)).trans ?_
  rw [shapeCount_eq]
  unfold shapeEa at hv
  rw [issueOps_n, hv]

theorem mshape_acts (hf : ∀ j, j ≤ (shapeCount s f).val.toNat → s.lsCheck s.cur.node (shapeEa s f j) 4 false j = none) :
    Acts s (.mshape f) f ((List.range (shapeCount s f).val.toNat).map (fun j => s.lsWord (here s) (shapeEa s f (j + 1)).toNat)) := by
  obtain ⟨hpsn, h1, h64⟩ := hn
  have hv := vecCheck_none (k := (shapeCount s f).val.toNat + 1) (fun j hj => hf j (by omega))
  rw [← issueClaim_vecCheck (i := .mshape f) (f := f)] at hv
  refine exec_mshape.trans ((matrixOp_own hown).trans (issue_acts hp ?_))
  simp only [h]
  rw [shapeCheck_head, hc]
  refine (if_neg (by rw [shapeCount_eq, hpsn]; simp; omega)).trans ?_
  rw [shapeCount_eq]
  unfold shapeEa at hv ⊢
  rw [issueOps_n, hv]
  simp only [issueClaim_lsWord]
  rfl

end

/-- The shape that S4 binds (R223, R224). -/
theorem endsIn_mshape {n : NodeRef} {a b d : PWord} {ws : List PWord} (h : Late s n (.mshape f) f a b d ws) :
    let sound := ws ≠ [] ∧ ∀ w ∈ ws, w.psn = false ∧ 1 ≤ w.val.toNat ∧ w.val.toNat ≤ 65535
    let bound := fun (x : Option ShapeTab) => withSec s n.elemRef { (s.el n.elemRef).mx with shape := x }
    (sound → EndsIn s n (bound (some { lens := ws.map (fun w => w.val.toNat), row0 := field b.val 0 16, rstr := field b.val 16 16 })) {}) ∧
    (¬sound → EndsIn s n (bound none) { cond := false }) := by
  intro sound bound
  have hx : ∀ x, ((if ws = [] then none else shapeLens ws).map (fun ls =>
      ({ lens := ls, row0 := bitsNat b.val 0 16, rstr := bitsNat b.val 16 16 } : ShapeTab))) = x → EndsIn s n (bound x) { cond := x.isSome } := by
    rintro x rfl
    exact endsIn_setEl h rfl
  refine ⟨fun ⟨hne, hs⟩ => hx (some _) ?_, fun hs => hx none ?_⟩
  · rw [if_neg hne, shapeLens_eq, if_pos hs, bitsNat_eq_field, bitsNat_eq_field]
    rfl
  · by_cases hne : ws = []
    · rw [if_pos hne]
      rfl
    · rw [if_neg hne, shapeLens_eq, if_neg fun hall => hs ⟨hne, hall⟩]
      rfl

end Sys2Proof.Machine

namespace Sys2Proof.Proofs
open Sys2Proof.Machine Sys2Proof.Claims

theorem matrixBanksAndShapes : Claims.MatrixBanksAndShapes := by
  intro s f hwf hown word clean bank row o at_ count n counted
  have hclean : ∀ ws, clean ws = wordsClean ws := fun ws => (wordsClean_eq ws).symm
  refine ⟨fun hp => ⟨fun h => ?_, fun fi h hf => ?_, fun h hc => ?_⟩, fun n a b d ws h hl => ?_,
    fun hp => ⟨fun h => ?_, fun fi h hf => ?_, fun h hc => ?_⟩, fun hp => ⟨fun h => ?_, fun fi h hc => ?_, fun h hc hn => ?_,
    fun fi h hc hn hf => ?_, fun h hn hc => ?_⟩, fun n a b d ws h => ?_⟩
  · obtain ⟨w, hw⟩ := Option.ne_none_iff_exists'.mp h
    exact exec_mldk.trans ((matrixOp_own hown).trans (issue_now hp (by simp only [hw])))
  · exact exec_mldk.trans ((matrixOp_own hown).trans (issue_error hp (by simp only [h, rowCheck_failure hf])))
  · refine exec_mldk.trans ((matrixOp_own hown).trans (issue_acts hp ?_))
    simp only [h, rowCheck_none hc]
    simp only [List.map_map, Function.comp_def, issueClaim_lsWord]
    rfl
  · rw [hclean]
    refine ⟨_, endsIn_setEl h rfl, fun x => ?_⟩
    rw [get_foldl_set ws _ (16 * f.dst.toNat) 0 x, hl, Nat.add_zero]
  · obtain ⟨w, hw⟩ := Option.ne_none_iff_exists'.mp h
    exact exec_mstk.trans ((matrixOp_own hown).trans (issue_now hp (by simp only [hw])))
  · exact exec_mstk.trans ((matrixOp_own hown).trans (issue_error hp (by simp only [h, rowCheck_failure hf])))
  · have hwf' : Memory.wf (issueClaim s (.mstk f) f).mem = true := by rwa [issueClaim_mem]
    refine ⟨storeLanes (issueClaim s (.mstk f) f) (here s) (fun l => (eaSeq s (.mstk f) f l).toNat) bank 16, ?_, ?_, fun l hl => ?_, fun pa hpa => ?_⟩
    · have hbank : ((issueClaim s (.mstk f) f).el (here s)).accWord f.dst.toNat = bank := funext fun l => by
        rw [Elem.accWord, issueClaim_acc]
      refine exec_mstk.trans ((matrixOp_own hown).trans (issue_now hp ?_))
      simp only [h, rowCheck_none hc, mstk_stores]
      rw [hclean, ← hbank]
      rfl
    · rw [storeLanes_node, issueClaim_node]
    · exact lsWord_storeLanes hwf' (fun l m hl hm => rowEas_distinct _ hl hm) hl
    · rw [memGet_storeLanes hwf', issueClaim_mem]
      intro l hl
      have hal := aligned_of_lsCheck (hc l hl)
      have h := hpa l hl
      rw [lsPa_add, show (eaSeq s (.mstk f) f l).toNat / 4 * 4 = (eaSeq s (.mstk f) f l).toNat by omega]
      exact h
  · obtain ⟨w, hw⟩ := Option.ne_none_iff_exists'.mp h
    exact mshape_poisoned hp hown hw
  · exact mshape_headFails hp hown h hc
  · exact mshape_badCount hp hown h hc hn
  · exact mshape_fails hp hown h hc hn hf
  · exact mshape_acts hp hown h (hc 0 (Nat.zero_le _)) hn hc
  · exact endsIn_mshape h

/-- Settles O41: the issue and the S4 of each opcode of the section. -/
theorem matrixConfiguration : Obligations.MatrixConfiguration := ⟨matrixSetUp, matrixBanksAndShapes⟩

end Sys2Proof.Proofs
end

section
/-! SUPPORT. What every step keeps of memory and of the numbers that requests, regions, counters and channels have
(O8, O9; R26, R27, R275, R305, R423, R445): the relation `Sound`, and how the writes of a state's parts keep it. -/

namespace Sys2Proof.Machine
open Sys2Proof.Claims

/-! ## Maps in order -/

section
variable {α β : Type} {m : Map α} {k : Nat} {v : α}

theorem Map.sorted_iff : Map.sorted m = true ↔ (m.map Prod.fst).Pairwise (· < ·) := by
  induction m with
  | nil => simp [Map.sorted]
  | cons x m ih =>
    cases m with
    | nil => simp [Map.sorted]
    | cons y m =>
      rw [Map.sorted, Bool.and_eq_true, decide_eq_true_eq, ih]
      simp only [List.map_cons, List.pairwise_cons, List.mem_cons]
      constructor
      · rintro ⟨hxy, hy, hm⟩
        refine ⟨?_, hy, hm⟩
        rintro k (rfl | hk)
        · exact hxy
        · exact Nat.lt_trans hxy (hy k hk)
      · rintro ⟨hx, hy, hm⟩
        exact ⟨hx _ (Or.inl rfl), hy, hm⟩

theorem Map.mem_set {x : Nat × α} (h : x ∈ Map.set m k v) : x = (k, v) ∨ x ∈ m := by
  induction m with
  | nil => exact Or.inl (by simpa [Map.set] using h)
  | cons y m ih =>
    rw [Map.set] at h
    split at h
    · exact (List.mem_cons.mp h)
    · split at h
      · exact (List.mem_cons.mp h).imp_right (List.mem_cons_of_mem _)
      · rcases List.mem_cons.mp h with rfl | h
        · exact Or.inr List.mem_cons_self
        · exact (ih h).imp_right (List.mem_cons_of_mem _)

theorem Map.erase_eq_filter : Map.erase m k = m.filter (fun x => decide (x.1 ≠ k)) := by
  induction m with
  | nil => rfl
  | cons x m ih =>
    by_cases h : k = x.1
    · subst h
      simp [Map.erase, ih]
    · simp [Map.erase, ih, h, Ne.symm h]

theorem Map.sorted_set (h : Map.sorted m = true) : Map.sorted (Map.set m k v) = true := by
  rw [Map.sorted_iff] at h ⊢
  induction m with
  | nil => simp [Map.set]
  | cons y m ih =>
    obtain ⟨hy, hm⟩ := List.pairwise_cons.mp h
    rw [Map.set]
    split
    · next hk =>
      refine List.pairwise_cons.mpr ⟨?_, h⟩
      intro x hx
      rcases List.mem_cons.mp hx with rfl | hx
      · exact hk
      · exact Nat.lt_trans hk (hy x hx)
    · split
      · next hk => exact List.pairwise_cons.mpr ⟨fun x hx => hk ▸ hy x hx, hm⟩
      · refine List.pairwise_cons.mpr ⟨?_, ih hm⟩
        intro x hx
        obtain ⟨z, hz, rfl⟩ := List.mem_map.mp hx
        rcases Map.mem_set hz with rfl | hz
        · show y.1 < k
          omega
        · exact hy _ (List.mem_map_of_mem hz)

theorem Map.sorted_filter (p : Nat × α → Bool) (h : Map.sorted m = true) : Map.sorted (m.filter p) = true := by
  rw [Map.sorted_iff] at h ⊢
  exact h.sublist (List.filter_sublist.map _)

theorem Map.sorted_erase (h : Map.sorted m = true) : Map.sorted (Map.erase m k) = true := by
  rw [Map.erase_eq_filter]
  exact Map.sorted_filter _ h

/-- A map over the values keeps the order. -/
theorem Map.sorted_mapValues (f : Nat × α → β) (h : Map.sorted m = true) : Map.sorted (m.map (fun x => (x.1, f x))) = true := by
  rw [Map.sorted_iff] at h ⊢
  simpa [List.map_map, Function.comp_def] using h

theorem Map.find_mem (h : Map.find m k = some v) : (k, v) ∈ m := by
  induction m with
  | nil => exact absurd h (by simp)
  | cons x m ih =>
    rw [Map.find] at h
    split at h
    · next hx =>
      obtain rfl := Option.some.inj h
      rw [← hx]
      exact List.mem_cons_self
    · exact List.mem_cons_of_mem _ (ih h)

theorem Map.find_of_mem (hs : Map.sorted m = true) (h : (k, v) ∈ m) : Map.find m k = some v := by
  rw [Map.sorted_iff] at hs
  induction m with
  | nil => exact absurd h List.not_mem_nil
  | cons x m ih =>
    obtain ⟨hx, hm⟩ := List.pairwise_cons.mp hs
    rw [Map.find]
    rcases List.mem_cons.mp h with rfl | h
    · exact if_pos rfl
    · rw [if_neg (Nat.ne_of_lt (hx k (List.mem_map_of_mem h)))]
      exact ih hm h

/-- A value that a map lists under a key, or its default, has what all of its values and the default have. -/
theorem Map.get_of_forall {p : α → Prop} {d : α} (h : ∀ x ∈ m, p x.2) (hd : p d) : p (Map.get m d k) := by
  rw [Map.get]
  cases hf : Map.find m k with
  | none => exact hd
  | some v => exact h _ (Map.find_mem hf)

theorem Map.get_of_lt (d : α) (h : ∀ x ∈ m.map Prod.fst, k < x) : Map.get m d k = d := by
  rw [Map.get]
  cases hf : Map.find m k with
  | none => rfl
  | some v => exact absurd (h k (List.mem_map_of_mem (Map.find_mem hf))) (Nat.lt_irrefl k)

/-- Where a list is kept by number, a new value takes the old one's place. -/
theorem Map.flatMap_set_perm (f : α → List β) (d : α) (hs : Map.sorted m = true) (hd : f d = []) :
    ((Map.set m k v).flatMap (fun x => f x.2) ++ f (Map.get m d k)).Perm (f v ++ m.flatMap (fun x => f x.2)) := by
  rw [Map.sorted_iff] at hs
  induction m with
  | nil => simp [Map.set, Map.get, Map.find, hd]
  | cons y m ih =>
    obtain ⟨hy, hm⟩ := List.pairwise_cons.mp hs
    rw [Map.set]
    split
    · next hk =>
      have hlt : ∀ x ∈ (y :: m).map Prod.fst, k < x := by
        intro x hx
        rcases List.mem_cons.mp hx with rfl | hx
        · exact hk
        · exact Nat.lt_trans hk (hy x hx)
      rw [Map.get_of_lt d hlt, hd, List.append_nil, List.flatMap_cons]
    · split
      · next hk =>
        rw [Map.get, Map.find, if_pos hk.symm, List.flatMap_cons, List.flatMap_cons, List.append_assoc]
        exact List.perm_append_comm.append_left _
      · next hk =>
        rw [Map.get, Map.find, if_neg (Ne.symm hk), List.flatMap_cons, List.flatMap_cons, List.append_assoc]
        exact ((ih hm).append_left _).trans (List.perm_append_comm_assoc _ _ _)

end

/-! ## The relation -/

/-- The numbers of the requests on their way, and of those that saved courses keep (R404). -/
def State.reqIds (s : State) : List Nat := s.reqs.map Req.id
def State.sleepIds (s : State) : List Nat := s.region.flatMap (fun g => g.2.asleep.map Req.id)
def State.ids (s : State) : List Nat := s.reqIds ++ s.sleepIds

/-- The parts of a state that the relation speaks of. -/
def State.kernel (s : State) : List Host.Cell × List Req × Nat × Map Region × Map Counter × Map Node :=
  (s.mem, s.reqs, s.serial, s.region, s.counter, s.node)

/-- What a state `s` that has come from `s₀` in a step has kept: memory in canonical form, the order of the numbers, and no number
given twice. -/
structure Sound (s₀ s : State) : Prop where
  mem : Memory.wf s₀.mem = true → Memory.wf s.mem = true
  num : Numbered s₀ → Numbered s
  serial : s₀.serial ≤ s.serial
  ids : ∀ x ∈ s.ids, x < s₀.serial → x ∈ s₀.ids
  sleep : s.sleepIds ⊆ s₀.sleepIds

variable {s₀ s t : State} {n : NodeRef}

theorem numbered_iff : Numbered s ↔ s.ids.Nodup ∧ (∀ x ∈ s.ids, x < s.serial) ∧
    Map.sorted s.region = true ∧ Map.sorted s.counter = true ∧ ∀ x ∈ s.node, Map.sorted x.2.ci = true := by
  have h : (allRequests s).map Req.id = s.ids := by
    simp [allRequests, State.ids, State.reqIds, State.sleepIds, List.map_flatMap]
  have hlt : (∀ r ∈ allRequests s, r.id < s.serial) ↔ ∀ x ∈ s.ids, x < s.serial := by
    rw [← h, List.forall_mem_map]
  rw [Numbered, h, hlt]

theorem Sound.refl (s : State) : Sound s s := ⟨id, id, Nat.le_refl _, fun _ h _ => h, fun _ h => h⟩

/-- A state that differs in other parts alone. -/
theorem Sound.same (h : Sound s₀ s) (hk : t.kernel = s.kernel) : Sound s₀ t := by
  simp only [State.kernel, Prod.mk.injEq] at hk
  obtain ⟨hmem, hreqs, hserial, hregion, hcounter, hnode⟩ := hk
  refine ⟨fun hw => hmem ▸ h.mem hw, fun hn => ?_, hserial ▸ h.serial,
    fun x hx => h.ids x (by rwa [State.ids, State.reqIds, State.sleepIds, hreqs, hregion] at hx),
    by rw [State.sleepIds, hregion]; exact h.sleep⟩
  have hs := h.num hn
  unfold Numbered allRequests at hs ⊢
  rwa [hreqs, hserial, hregion, hcounter, hnode]

/-- Another memory in canonical form. -/
theorem Sound.withMem (h : Sound s₀ s) {m : List Host.Cell} (hm : Memory.wf s.mem = true → Memory.wf m = true) :
    Sound s₀ { s with mem := m } := ⟨fun hw => hm (h.mem hw), h.num, h.serial, h.ids, h.sleep⟩

/-- A number is given. -/
theorem Sound.bump (h : Sound s₀ s) : Sound s₀ { s with serial := s.serial + 1 } := by
  refine ⟨h.mem, fun hn => ?_, Nat.le_succ_of_le h.serial, h.ids, h.sleep⟩
  obtain ⟨hd, hlt, hrest⟩ := numbered_iff.mp (h.num hn)
  exact numbered_iff.mpr ⟨hd, fun x hx => Nat.lt_succ_of_lt (hlt x hx), hrest⟩

/-- Requests that keep their numbers, some of them dropped. -/
theorem Sound.withReqs (h : Sound s₀ s) {rs : List Req} (hr : (rs.map Req.id).Sublist s.reqIds) : Sound s₀ { s with reqs := rs } := by
  have hsub := hr.append (List.Sublist.refl s.sleepIds)
  refine ⟨h.mem, fun hn => ?_, h.serial, fun x hx => h.ids x (hsub.subset hx), h.sleep⟩
  obtain ⟨hd, hlt, hrest⟩ := numbered_iff.mp (h.num hn)
  exact numbered_iff.mpr ⟨hd.sublist hsub, fun x hx => hlt x (hsub.subset hx), hrest⟩

theorem Sound.filterReqs (h : Sound s₀ s) (p : Req → Bool) : Sound s₀ { s with reqs := s.reqs.filter p } :=
  h.withReqs (List.filter_sublist.map _)

theorem Sound.mapReqs (h : Sound s₀ s) {f : Req → Req} (hf : ∀ r, (f r).id = r.id) : Sound s₀ { s with reqs := s.reqs.map f } := by
  refine h.withReqs ?_
  rw [List.map_map, State.reqIds, show Req.id ∘ f = Req.id from funext hf]

/-- A new request takes the next number. -/
theorem Sound.ask (h : Sound s₀ s) {r : Req} (hr : r.id = s.serial) :
    Sound s₀ { s with serial := s.serial + 1, reqs := s.reqs ++ [r] } := by
  have hperm : (State.ids { s with serial := s.serial + 1, reqs := s.reqs ++ [r] }).Perm (s.serial :: s.ids) := by
    simp only [State.ids, State.reqIds, State.sleepIds, List.map_append, List.map_cons, List.map_nil, hr, List.append_assoc]
    exact List.perm_middle
  refine ⟨h.mem, fun hn => ?_, Nat.le_succ_of_le h.serial, fun x hx hlt => ?_, h.sleep⟩
  · obtain ⟨hd, hlt, hrest⟩ := numbered_iff.mp (h.num hn)
    refine numbered_iff.mpr ⟨?_, fun x hx => ?_, hrest⟩
    · exact hperm.nodup_iff.mpr (List.nodup_cons.mpr ⟨fun hx => absurd (hlt _ hx) (Nat.lt_irrefl _), hd⟩)
    · rcases List.mem_cons.mp (hperm.mem_iff.mp hx) with rfl | hx
      · exact Nat.lt_succ_self _
      · exact Nat.lt_succ_of_lt (hlt x hx)
  · rcases List.mem_cons.mp (hperm.mem_iff.mp hx) with rfl | hx
    · exact absurd (Nat.lt_of_lt_of_le hlt h.serial) (Nat.lt_irrefl _)
    · exact h.ids x hx hlt

theorem Sound.trans (h : Sound s₀ s) (ht : Sound s t) : Sound s₀ t :=
  ⟨fun hm => ht.mem (h.mem hm), fun hn => ht.num (h.num hn), Nat.le_trans h.serial ht.serial,
    fun x hx hlt => h.ids x (ht.ids x hx (Nat.lt_of_lt_of_le hlt h.serial)) hlt, fun _ hx => h.sleep (ht.sleep hx)⟩

/-- A request that was on its way before goes to the end of the list under its number. -/
theorem Sound.readd (h : Sound s₀ s) (ht : Sound s t) {r x : Req} (hr : r.id ∈ s.reqIds) (hx : x.id = r.id) :
    Sound s₀ { t.dropReq r.id with reqs := (t.dropReq r.id).reqs ++ [x] } := by
  have hperm : (State.ids { t.dropReq r.id with reqs := (t.dropReq r.id).reqs ++ [x] }).Perm (r.id :: (t.dropReq r.id).ids) := by
    simp only [State.ids, State.reqIds, State.sleepIds, List.map_append, List.map_cons, List.map_nil, hx, List.append_assoc]
    exact List.perm_middle
  have hd : Sound s (t.dropReq r.id) := Sound.same (ht.filterReqs _) rfl
  refine h.trans ⟨hd.mem, fun hn => ?_, hd.serial, fun y hy hlt => ?_, hd.sleep⟩
  · obtain ⟨hsd, hslt, -⟩ := numbered_iff.mp hn
    obtain ⟨hnd, hlt, hrest⟩ := numbered_iff.mp (hd.num hn)
    have hnot : r.id ∉ (t.dropReq r.id).ids := by
      rw [State.ids, List.mem_append]
      rintro (hm | hm)
      · obtain ⟨y, hy, hid⟩ := List.mem_map.mp hm
        simp [State.dropReq, hid] at hy
      · exact (List.disjoint_of_nodup_append hsd) hr (hd.sleep hm)
    refine numbered_iff.mpr ⟨hperm.nodup_iff.mpr (List.nodup_cons.mpr ⟨hnot, hnd⟩), fun y hy => ?_, hrest⟩
    rcases List.mem_cons.mp (hperm.mem_iff.mp hy) with rfl | hy
    · exact Nat.lt_of_lt_of_le (hslt _ (List.mem_append_left _ hr)) hd.serial
    · exact hlt y hy
  · rcases List.mem_cons.mp (hperm.mem_iff.mp hy) with rfl | hy
    · exact List.mem_append_left _ hr
    · exact hd.ids y hy hlt

/-! ## Nodes -/

/-- Every node's input channels are in order. -/
def Node.Ordered (nd : Node) : Prop := Map.sorted nd.ci = true

theorem Sound.withNode (h : Sound s₀ s) {m : Map Node}
    (hm : Numbered s₀ → (∀ x ∈ s.node, x.2.Ordered) → ∀ x ∈ m, x.2.Ordered) : Sound s₀ { s with node := m } := by
  refine ⟨h.mem, fun hn => ?_, h.serial, h.ids, h.sleep⟩
  obtain ⟨hd, hlt, hrg, hc, hnd⟩ := numbered_iff.mp (h.num hn)
  exact numbered_iff.mpr ⟨hd, hlt, hrg, hc, hm hn hnd⟩

/-- The nodes of a state that has come from one in order. -/
theorem Sound.nd (h : Sound s₀ s) (hn : Numbered s₀) : (s.nd n).Ordered := by
  obtain ⟨-, -, -, -, hnd⟩ := numbered_iff.mp (h.num hn)
  exact Map.get_of_forall hnd rfl

theorem sound_setNd {v : Node} (h : Sound s₀ s) (hv : Numbered s₀ → v.Ordered) : Sound s₀ (s.setNd n v) := by
  refine h.withNode fun hn hs x hx => ?_
  rcases Map.mem_set hx with rfl | hx
  · exact hv hn
  · exact hs x hx

theorem sound_updNd {f : Node → Node} (h : Sound s₀ s) (hf : ∀ nd, nd.Ordered → (f nd).Ordered) : Sound s₀ (s.updNd n f) :=
  sound_setNd h fun hn => hf _ (h.nd hn)

theorem Node.Ordered.default : Node.Ordered {} := rfl

theorem Node.Ordered.ite {c : Prop} [Decidable c] {v w : Node} (hv : v.Ordered) (hw : w.Ordered) : (if c then v else w).Ordered := by
  split
  · exact hv
  · exact hw

theorem ordered_setCi {nd : Node} {k : BitVec 2} {q : List Token} (h : nd.Ordered) : (nd.setCi k q).Ordered := by
  unfold Node.setCi
  by_cases hq : q = []
  · simp only [hq, if_true]
    exact Map.sorted_erase h
  · simp only [hq, if_false]
    exact Map.sorted_set h

/-! ## Regions and counters -/

variable {rid : Nat}

theorem Sound.withRegion (h : Sound s₀ s) {m : Map Region} (hsub : (m.flatMap (fun g => g.2.asleep.map Req.id)) ⊆ s.sleepIds)
    (hm : Map.sorted s.region = true → Map.sorted m = true ∧ (m.flatMap (fun g => g.2.asleep.map Req.id)).Subperm s.sleepIds) :
    Sound s₀ { s with region := m } := by
  refine ⟨h.mem, fun hn => ?_, h.serial, fun x hx => h.ids x ?_, fun x hx => h.sleep (hsub hx)⟩
  swap
  · rcases List.mem_append.mp hx with hx | hx
    · exact List.mem_append_left _ hx
    · exact List.mem_append_right _ (hsub hx)
  obtain ⟨hd, hlt, hrg, hrest⟩ := numbered_iff.mp (h.num hn)
  obtain ⟨hsorted, hsl⟩ := hm hrg
  have hall : (State.ids { s with region := m }).Subperm s.ids := (List.subperm_append_left _).mpr hsl
  obtain ⟨l, hp, hl⟩ := id hall
  exact numbered_iff.mpr ⟨hp.nodup_iff.mp (hd.sublist hl), fun x hx => hlt x (hall.subset hx), hsorted, hrest⟩

theorem sleepIds_setRg_subset {g : Region} : (s.setRg rid g).sleepIds ⊆ g.asleep.map Req.id ++ s.sleepIds := by
  intro x hx
  obtain ⟨y, hy, hx⟩ := List.mem_flatMap.mp hx
  rcases Map.mem_set hy with rfl | hy
  · exact List.mem_append_left _ hx
  · exact List.mem_append_right _ (List.mem_flatMap.mpr ⟨y, hy, hx⟩)

theorem sleepIds_setRg_perm {g : Region} (hs : Map.sorted s.region = true) :
    ((s.setRg rid g).sleepIds ++ (s.rg rid).asleep.map Req.id).Perm (g.asleep.map Req.id ++ s.sleepIds) :=
  Map.flatMap_set_perm (fun g : Region => g.asleep.map Req.id) {} hs rfl

theorem sleepIds_rg : (s.rg rid).asleep.map Req.id ⊆ s.sleepIds := fun x =>
  Map.get_of_forall (p := fun g : Region => x ∈ g.asleep.map Req.id → x ∈ s.sleepIds) (d := {})
    (fun z hz hx => List.mem_flatMap.mpr ⟨z, hz, hx⟩) (fun hx => absurd hx List.not_mem_nil)

/-- A region replaced by one that keeps the same requests. -/
theorem sound_setRg (h : Sound s₀ s) {g : Region} (hg : g.asleep = (s.rg rid).asleep) : Sound s₀ (s.setRg rid g) := by
  have hsub : (s.setRg rid g).sleepIds ⊆ s.sleepIds := fun x hx => by
    rcases List.mem_append.mp (sleepIds_setRg_subset hx) with hx | hx
    · exact sleepIds_rg (rid := rid) (hg ▸ hx)
    · exact hx
  refine h.withRegion hsub fun hs => ⟨Map.sorted_set hs, ?_⟩
  have hp := sleepIds_setRg_perm (rid := rid) (g := g) hs
  rw [hg] at hp
  exact ((List.perm_append_right_iff _).mp (hp.trans List.perm_append_comm)).subperm

/-- A region replaced by one that keeps none. -/
theorem sound_setRg_awake (h : Sound s₀ s) {g : Region} (hg : g.asleep = []) : Sound s₀ (s.setRg rid g) := by
  have hsub : (s.setRg rid g).sleepIds ⊆ s.sleepIds := fun x hx => by simpa [hg] using sleepIds_setRg_subset hx
  refine h.withRegion hsub fun hs => ⟨Map.sorted_set hs, ?_⟩
  have hp := sleepIds_setRg_perm (rid := rid) (g := g) hs
  rw [hg, List.map_nil, List.nil_append] at hp
  exact (List.sublist_append_left _ _).subperm.trans hp.subperm

theorem sound_updRg (h : Sound s₀ s) {f : Region → Region} (hf : ∀ g, (f g).asleep = g.asleep) : Sound s₀ (s.updRg rid f) :=
  sound_setRg h (hf _)

/-- Regions given up. -/
theorem Sound.filterRegion (h : Sound s₀ s) (p : Nat × Region → Bool) : Sound s₀ { s with region := s.region.filter p } := by
  have hsl : ((s.region.filter p).flatMap (fun g => g.2.asleep.map Req.id)).Sublist s.sleepIds := List.filter_sublist.flatMap _
  exact h.withRegion hsl.subset fun hs => ⟨Map.sorted_filter _ hs, hsl.subperm⟩

/-- Regions changed in place. -/
theorem Sound.mapRegion (h : Sound s₀ s) {f : Nat → Region} (hf : ∀ i, (f i).asleep = (s.rg i).asleep) :
    Sound s₀ { s with region := s.region.map (fun x => (x.1, f x.1)) } := by
  have hflat : (s.region.map (fun x => (x.1, f x.1))).flatMap (fun g => g.2.asleep.map Req.id) =
      s.region.flatMap (fun x => (s.rg x.1).asleep.map Req.id) := by
    simp only [List.flatMap_map, hf]
  refine h.withRegion (fun x hx => ?_) fun hs => ⟨Map.sorted_mapValues _ hs, ?_⟩
  · rw [hflat] at hx
    obtain ⟨y, -, hx⟩ := List.mem_flatMap.mp hx
    exact Map.get_of_forall (p := fun g : Region => x ∈ g.asleep.map Req.id → x ∈ s.sleepIds) (d := {})
      (fun z hz hx => List.mem_flatMap.mpr ⟨z, hz, hx⟩) (fun hx => absurd hx List.not_mem_nil) hx
  · rw [hflat, List.flatMap_congr fun x hx => ?_]
    · exact List.Subperm.refl _
    · rw [State.rg, Map.get, Map.find_of_mem hs hx]
      rfl

theorem Sound.eraseRegion (h : Sound s₀ s) (i : Nat) : Sound s₀ { s with region := Map.erase s.region i } := by
  rw [Map.erase_eq_filter]
  exact h.filterRegion _

theorem Sound.withCounter (h : Sound s₀ s) {m : Map Counter} (hm : Map.sorted s.counter = true → Map.sorted m = true) :
    Sound s₀ { s with counter := m } := by
  refine ⟨h.mem, fun hn => ?_, h.serial, h.ids, h.sleep⟩
  obtain ⟨hd, hlt, hrg, hc, hnd⟩ := numbered_iff.mp (h.num hn)
  exact numbered_iff.mpr ⟨hd, hlt, hrg, hm hc, hnd⟩

/-- What a step keeps from its first state to its last. -/
structure Kept (s₀ s : State) : Prop where
  mem : Memory.wf s₀.mem = true → Memory.wf s.mem = true
  num : Numbered s₀ → Numbered s

theorem Sound.kept (h : Sound s₀ s) : Kept s₀ s := ⟨h.mem, h.num⟩
theorem Kept.trans (h : Kept s₀ s) (ht : Kept s t) : Kept s₀ t := ⟨fun hm => ht.mem (h.mem hm), fun hn => ht.num (h.num hn)⟩
theorem Sound.trans_kept (h : Sound s₀ s) (ht : Kept s t) : Kept s₀ t := h.kept.trans ht

/-! ## Requests that a saved course keeps (R404) -/

/-- Requests that a region kept are on their way again. -/
theorem Sound.wake (h : Sound s₀ s) {rid : Nat} {rs : List Req} {g : Region}
    (hr : (rs.map Req.id).Sublist ((s.rg rid).asleep.map Req.id)) (hg : g.asleep = []) :
    Sound s₀ ({ s with reqs := s.reqs ++ rs }.setRg rid g) := by
  have hids : (State.setRg { s with reqs := s.reqs ++ rs } rid g).ids = s.reqIds ++ (rs.map Req.id ++ (s.setRg rid g).sleepIds) := by
    simp [State.ids, State.reqIds, State.sleepIds, State.setRg]
  have hsleep : (s.setRg rid g).sleepIds ⊆ s.sleepIds := fun x hx => by simpa [hg] using sleepIds_setRg_subset hx
  have hmem : ∀ x ∈ (State.setRg { s with reqs := s.reqs ++ rs } rid g).ids, x ∈ s.ids := by
    intro x hx
    rw [hids, List.mem_append, List.mem_append] at hx
    rcases hx with hx | hx | hx
    · exact List.mem_append_left _ hx
    · exact List.mem_append_right _ (sleepIds_rg (hr.subset hx))
    · exact List.mem_append_right _ (hsleep hx)
  refine ⟨h.mem, fun hn => ?_, h.serial, fun x hx => h.ids x (hmem x hx), fun x hx => h.sleep (hsleep hx)⟩
  obtain ⟨hd, hlt, hrg, hrest⟩ := numbered_iff.mp (h.num hn)
  refine numbered_iff.mpr ⟨?_, fun x hx => hlt x (hmem x hx), Map.sorted_set hrg, hrest⟩
  have hp := sleepIds_setRg_perm (rid := rid) (g := g) hrg
  rw [hg, List.map_nil, List.nil_append] at hp
  have hsub : (rs.map Req.id ++ (s.setRg rid g).sleepIds).Subperm s.sleepIds :=
    (List.perm_append_comm.subperm.trans ((List.Sublist.refl _).append hr).subperm).trans hp.subperm
  obtain ⟨l, hl, hs⟩ := (List.subperm_append_left s.reqIds).mpr hsub
  rw [hids]
  exact hl.nodup_iff.mp (hd.sublist hs)

/-- Requests on their way go to sleep in a region, in place of those that it kept. -/
theorem kept_sleep {p : Req → Bool} {rid : Nat} {g : Region} (ht : Sound { s with reqs := s.reqs.filter (fun r => !p r) } t)
    (hg : g.asleep = s.reqs.filter p) : Kept s (t.setRg rid g) := by
  refine ⟨ht.mem, fun hn => ?_⟩
  obtain ⟨hd, hlt, -⟩ := numbered_iff.mp hn
  have ha : (g.asleep.map Req.id).Sublist s.reqIds := hg ▸ List.filter_sublist.map _
  have hdrop : Numbered { s with reqs := s.reqs.filter (fun r => !p r) } := ((Sound.refl s).filterReqs _).num hn
  obtain ⟨htd, htlt, htrg, htrest⟩ := numbered_iff.mp (ht.num hdrop)
  have hdis : ∀ x ∈ t.ids, x ∉ g.asleep.map Req.id := by
    intro x hx hxa
    have hxs := ha.subset hxa
    rcases List.mem_append.mp (ht.ids x hx (hlt x (List.mem_append_left _ hxs))) with hr | hr
    · obtain ⟨r, hrm, rfl⟩ := List.mem_map.mp hr
      obtain ⟨q, hqm, hq⟩ := List.mem_map.mp hxa
      rw [hg] at hqm
      have hrm' := List.mem_filter.mp hrm
      have hqm' := List.mem_filter.mp hqm
      rw [List.inj_on_of_nodup_map (List.nodup_append.mp hd).1 hqm'.1 hrm'.1 hq] at hqm'
      simp [hqm'.2] at hrm'
    · exact (List.disjoint_of_nodup_append hd) hxs hr
  have hp := (sleepIds_setRg_perm (rid := rid) (g := g) htrg).append_left t.reqIds
  have hnd : (t.reqIds ++ (g.asleep.map Req.id ++ t.sleepIds)).Nodup := by
    refine (List.perm_append_comm_assoc _ _ _).nodup_iff.mpr ?_
    exact List.nodup_append.mpr ⟨(List.nodup_append.mp hd).1.sublist ha, htd, fun x hx y hy he => hdis y hy (he ▸ hx)⟩
  have hsub : (t.setRg rid g).ids.Sublist (t.reqIds ++ ((t.setRg rid g).sleepIds ++ (t.rg rid).asleep.map Req.id)) :=
    (List.Sublist.refl _).append (List.sublist_append_left _ _)
  refine numbered_iff.mpr ⟨(hp.nodup_iff.mpr hnd).sublist hsub, fun x hx => ?_, Map.sorted_set htrg, htrest⟩
  rcases List.mem_append.mp (hp.subset (hsub.subset hx)) with hx | hx
  · exact htlt x (List.mem_append_left _ hx)
  · rcases List.mem_append.mp hx with hx | hx
    · exact Nat.lt_of_lt_of_le (hlt x (List.mem_append_left _ (ha.subset hx))) ht.serial
    · exact htlt x (List.mem_append_right _ hx)

/-! ## Branches and loops -/

theorem Sound.ite {c : Prop} [Decidable c] (ha : Sound s₀ s) (hb : Sound s₀ t) : Sound s₀ (if c then s else t) := by
  split
  · exact ha
  · exact hb

theorem Sound.foldl {α : Type} {g : State → α → State} {l : List α} (h : Sound s₀ s) (hg : ∀ s x, Sound s₀ s → Sound s₀ (g s x)) :
    Sound s₀ (l.foldl g s) := by
  induction l generalizing s with
  | nil => exact h
  | cons x l ih => exact ih (hg s x h)

theorem Sound.foldl_fst {α β : Type} {g : State × β → α → State × β} {l : List α} {p : State × β} (h : Sound s₀ p.1)
    (hg : ∀ p x, Sound s₀ p.1 → Sound s₀ (g p x).1) : Sound s₀ (l.foldl g p).1 := by
  induction l generalizing p with
  | nil => exact h
  | cons x l ih => exact ih (hg p x h)

theorem Sound.foldl_snd {α β : Type} {g : β × State → α → β × State} {l : List α} {p : β × State} (h : Sound s₀ p.2)
    (hg : ∀ p x, Sound s₀ p.2 → Sound s₀ (g p x).2) : Sound s₀ (l.foldl g p).2 := by
  induction l generalizing p with
  | nil => exact h
  | cons x l ih => exact ih (hg p x h)

theorem Node.Ordered.foldl {α : Type} {g : Node → α → Node} {l : List α} {nd : Node} (h : nd.Ordered)
    (hg : ∀ nd x, nd.Ordered → (g nd x).Ordered) : (l.foldl g nd).Ordered := by
  induction l generalizing nd with
  | nil => exact h
  | cons x l ih => exact ih (hg nd x h)

/-! ## Results that hold a state -/

theorem Sound.of_fst {α : Type} {x : State × α} {a : α} (h : Sound s₀ x.1) (he : x = (t, a)) : Sound s₀ t := by
  rwa [he] at h

/-! The relation for the results of functions that may give no state, give one beside another value, or give one of several. -/

def SoundOpt (s₀ : State) (x : Option State) : Prop := ∀ t, x = some t → Sound s₀ t
def SoundOptFst {α : Type} (s₀ : State) (x : Option (State × α)) : Prop := ∀ p, x = some p → Sound s₀ p.1
def SoundOptSnd {α : Type} (s₀ : State) (x : Option (α × State)) : Prop := ∀ p, x = some p → Sound s₀ p.2
def SoundExc {ε : Type} (s₀ : State) (x : Except ε State) : Prop := ∀ t, x = .ok t → Sound s₀ t
def SoundExcFst {ε α : Type} (s₀ : State) (x : Except ε (State × α)) : Prop := ∀ p, x = .ok p → Sound s₀ p.1
def SoundSum {ε α : Type} (s₀ : State) (x : ε ⊕ (State × α)) : Prop := ∀ p, x = .inr p → Sound s₀ p.1
def SoundOut (s₀ : State) (x : Host.Outcome State Fault Refusal) : Prop := ∀ t, x = .next t → Kept s₀ t

theorem SoundOpt.none : SoundOpt s₀ none := fun _ h => nomatch h
theorem SoundOpt.some (h : Sound s₀ s) : SoundOpt s₀ (some s) := fun _ he => Option.some.inj he ▸ h
theorem SoundOpt.getD {x : Option State} (hx : SoundOpt s₀ x) (h : Sound s₀ s) : Sound s₀ (x.getD s) := by
  cases x with
  | none => exact h
  | some t => exact hx t rfl
theorem SoundOptFst.none {α : Type} : SoundOptFst (α := α) s₀ none := fun _ h => nomatch h
theorem SoundOptFst.some {α : Type} {p : State × α} (h : Sound s₀ p.1) : SoundOptFst s₀ (some p) := fun _ he => Option.some.inj he ▸ h
theorem SoundOptFst.pair {α : Type} {a : α} (h : Sound s₀ s) : SoundOptFst s₀ (Option.some (s, a)) := SoundOptFst.some h
theorem SoundOptSnd.none {α : Type} : SoundOptSnd (α := α) s₀ none := fun _ h => nomatch h
theorem SoundOptSnd.some {α : Type} {p : α × State} (h : Sound s₀ p.2) : SoundOptSnd s₀ (some p) := fun _ he => Option.some.inj he ▸ h
theorem SoundOptSnd.pair {α : Type} {a : α} (h : Sound s₀ s) : SoundOptSnd s₀ (Option.some (a, s)) := SoundOptSnd.some h
theorem SoundExc.error {ε : Type} {e : ε} : SoundExc s₀ (.error e) := fun _ h => nomatch h
theorem SoundExc.ok {ε : Type} (h : Sound s₀ s) : SoundExc (ε := ε) s₀ (.ok s) := fun _ he => Except.ok.inj he ▸ h
theorem SoundExcFst.error {ε α : Type} {e : ε} : SoundExcFst (α := α) s₀ (.error e) := fun _ h => nomatch h
theorem SoundExcFst.ok {ε α : Type} {p : State × α} (h : Sound s₀ p.1) : SoundExcFst (ε := ε) s₀ (.ok p) :=
  fun _ he => Except.ok.inj he ▸ h
theorem SoundExcFst.pair {ε α : Type} {a : α} (h : Sound s₀ s) : SoundExcFst (ε := ε) s₀ (.ok (s, a)) := SoundExcFst.ok h
theorem SoundSum.inl {ε α : Type} {e : ε} : SoundSum (α := α) s₀ (.inl e) := fun _ h => nomatch h
theorem SoundSum.inr {ε α : Type} {p : State × α} (h : Sound s₀ p.1) : SoundSum (ε := ε) s₀ (.inr p) := fun _ he => Sum.inr.inj he ▸ h
theorem SoundOut.next (h : Sound s₀ s) : SoundOut s₀ (.next s) := fun _ he => Host.Outcome.next.inj he ▸ h.kept
theorem SoundOut.keeps (h : Kept s₀ s) : SoundOut s₀ (.next s) := fun _ he => Host.Outcome.next.inj he ▸ h
theorem SoundOut.fault {e : Fault} : SoundOut s₀ (.fault e) := fun _ h => nomatch h
theorem SoundOut.refused {e : Refusal} : SoundOut s₀ (.refused e) := fun _ h => nomatch h

/-- What a home has done with a request: one that it keeps has the number that it came with. -/
def SoundPerf (s₀ : State) (r : Req) : Performed → Prop
  | .wait => True
  | .more s x => Sound s₀ s ∧ x.id = r.id
  | .done s _ => Sound s₀ s
  | .defer s x => Sound s₀ s ∧ x.id = r.id

theorem SoundPerf.wait {r : Req} : SoundPerf s₀ r .wait := trivial
theorem SoundPerf.more {r x : Req} (h : Sound s₀ s) (hr : x.id = r.id) : SoundPerf s₀ r (.more s x) := ⟨h, hr⟩
theorem SoundPerf.done {r : Req} {a : Answer} (h : Sound s₀ s) : SoundPerf s₀ r (.done s a) := h
theorem SoundPerf.defer {r x : Req} (h : Sound s₀ s) (hr : x.id = r.id) : SoundPerf s₀ r (.defer s x) := ⟨h, hr⟩

theorem SoundPerf.of_more {x : Performed} {r y : Req} (h : SoundPerf s₀ r x) (he : x = .more s y) : Sound s₀ s ∧ y.id = r.id := by
  rwa [he] at h
theorem SoundPerf.of_done {x : Performed} {r : Req} {a : Answer} (h : SoundPerf s₀ r x) (he : x = .done s a) : Sound s₀ s := by
  rwa [he] at h
theorem SoundPerf.of_defer {x : Performed} {r y : Req} (h : SoundPerf s₀ r x) (he : x = .defer s y) : Sound s₀ s ∧ y.id = r.id := by
  rwa [he] at h

def SoundCmd (s₀ : State) : Command → Prop
  | .done s => Sound s₀ s
  | _ => True

theorem SoundCmd.of_done {x : Command} (h : SoundCmd s₀ x) (he : x = .done s) : Sound s₀ s := by
  rwa [he] at h
theorem SoundCmd.done (h : Sound s₀ s) : SoundCmd s₀ (.done s) := h
theorem SoundCmd.fails : SoundCmd s₀ .fails := trivial
theorem SoundCmd.waits {va : Nat} : SoundCmd s₀ (.waits va) := trivial

def SoundServed (s₀ : State) : Served → Prop
  | .answer s _ _ => Sound s₀ s
  | .wait s => Sound s₀ s

theorem SoundServed.of_answer {x : Served} {n : Nat} {res : List (Nat × Word)} (h : SoundServed s₀ x)
    (he : x = .answer s n res) : Sound s₀ s := by
  rwa [he] at h
theorem SoundServed.of_wait {x : Served} (h : SoundServed s₀ x) (he : x = .wait s) : Sound s₀ s := by
  rwa [he] at h
theorem SoundServed.answer {n : Nat} {res : List (Nat × Word)} (h : Sound s₀ s) : SoundServed s₀ (.answer s n res) := h
theorem SoundServed.wait (h : Sound s₀ s) : SoundServed s₀ (.wait s) := h

/-! ## Writes of memory -/

theorem sound_setMeta {pa : Nat} {x : WMeta} (h : Sound s₀ s) : Sound s₀ (s.setMeta pa x) := Sound.same h rfl

theorem sound_storeWord {pa : Nat} {w : PWord} (h : Sound s₀ s) : Sound s₀ (s.storeWord pa w) :=
  sound_setMeta (h.withMem fun hw => writeBytes_wf hw _ _)

theorem sound_storeWords {pa : Nat} {ws : List PWord} (h : Sound s₀ s) : Sound s₀ (s.storeWords pa ws) := by
  induction ws generalizing s pa with
  | nil => exact h
  | cons w ws ih => exact ih (sound_storeWord h)

theorem sound_clearRange {pa n : Nat} (h : Sound s₀ s) : Sound s₀ (s.clearRange pa n) :=
  (h.withMem fun hw => (State.clearRange_wf (s := s) hw pa n)).same rfl

/-! ## Writes that leave the regions alone -/

/-- The regions, as a definition that the kernel unfolds last. -/
def State.roster (s : State) : Map Region := s.region

theorem rg_of_roster (h : t.roster = s.roster) : t.rg rid = s.rg rid :=
  congrArg (fun m : Map Region => Map.get m ({} : Region) rid) h

theorem asleep_of_roster (h : t.roster = s.roster) : (s.rg rid).asleep = (t.rg rid).asleep := by
  rw [rg_of_roster h]

theorem roster_foldl {α : Type} {g : State → α → State} {l : List α} (h : ∀ s x, (g s x).roster = s.roster) :
    (l.foldl g s).roster = s.roster := foldl_keeps h l s

theorem roster_clearRange {pa n : Nat} : (s.clearRange pa n).roster = s.roster := rfl
theorem roster_writeData {pa : Nat} {bs : List Byte} : (writeData s pa bs).roster = s.roster := by
  unfold writeData
  exact roster_foldl fun _ _ => rfl
theorem roster_storeWords {pa : Nat} {ws : List PWord} : (s.storeWords pa ws).roster = s.roster := by
  induction ws generalizing s pa with
  | nil => rfl
  | cons w ws ih => exact ih

end Sys2Proof.Machine
end

section
/-! SUPPORT. `Sound` through the state and its operations (O8, O9). -/

namespace Sys2Proof.Machine
open Sys2Proof.Claims

variable {s₀ s t : State} {nd : Node}

/-! ## Machine/Ops -/

theorem sound_setEl {e : ElemRef} {v : Elem} (h : Sound s₀ s) : Sound s₀ (s.setEl e v) := h.same rfl

theorem sound_updEl {e : ElemRef} {f : Elem → Elem} (h : Sound s₀ s) : Sound s₀ (s.updEl e f) := sound_setEl h

theorem sound_setTl {a0 : TileRef} {v : MTile} (h : Sound s₀ s) : Sound s₀ (s.setTl a0 v) := h.same rfl

theorem sound_updTl {a0 : TileRef} {f : MTile → MTile} (h : Sound s₀ s) : Sound s₀ (s.updTl a0 f) := sound_setTl h

theorem sound_setDie {d : BitVec 4} {v : Die} (h : Sound s₀ s) : Sound s₀ (s.setDie d v) := h.same rfl

theorem sound_updDie {d : BitVec 4} {f : Die → Die} (h : Sound s₀ s) : Sound s₀ (s.updDie d f) := sound_setDie h

theorem sound_setPt {p : BitVec 5} {v : Partition} (h : Sound s₀ s) : Sound s₀ (s.setPt p v) := h.same rfl

theorem sound_updPt {p : BitVec 5} {f : Partition → Partition} (h : Sound s₀ s) : Sound s₀ (s.updPt p f) := sound_setPt h

theorem sound_setEd {i : Nat} {v : Edge} (h : Sound s₀ s) : Sound s₀ (s.setEd i v) := h.same rfl

theorem sound_updEd {i : Nat} {f : Edge → Edge} (h : Sound s₀ s) : Sound s₀ (s.updEd i f) := sound_setEd h

theorem sound_setFo {i : Nat} {v : Fanout} (h : Sound s₀ s) : Sound s₀ (s.setFo i v) := h.same rfl

theorem sound_fresh (h : Sound s₀ s) : Sound s₀ (s.fresh).2 := h.bump.same rfl

theorem sound_free (h : Sound s₀ s) : Sound s₀ (s.free).2 := h.same rfl

theorem sound_setLsWord {e : ElemRef} {addr : Nat} {w : PWord} (h : Sound s₀ s) : Sound s₀ (s.setLsWord e addr w) := sound_storeWord h

theorem ordered_setCo {k : BitVec 2} {q : List Token} (hnd : nd.Ordered) : (nd.setCo k q).Ordered := hnd

theorem ordered_setG {i : Nat} {v : PWord} (hnd : nd.Ordered) : (nd.setG i v).Ordered := hnd

theorem ordered_enterCi {k : BitVec 2} {a1 : Token} (hnd : nd.Ordered) : (nd.enterCi k a1).Ordered := ordered_setCi hnd

theorem ordered_popCi {k : BitVec 2} (hnd : nd.Ordered) : (nd.popCi k).Ordered :=
  Node.Ordered.ite (Node.Ordered.ite (ordered_setCi hnd) (ordered_setCi hnd)) (ordered_setCi hnd)

theorem sound_sessionFaults {n : NodeRef} {cause : BitVec 8} {i : Nat} (h : Sound s₀ s) : Sound s₀ (sessionFaults s n cause i) :=
  Sound.ite (sound_setEl (Sound.ite (sound_updNd h (fun _ h1 => ordered_setCo h1)) h)) h

theorem sound_gateCalleeFaults {n : NodeRef} {cause : BitVec 8} (h : Sound s₀ s) : Sound s₀ (gateCalleeFaults s n cause) :=
  Sound.foldl h (fun _ _ h1 => sound_sessionFaults h1)

theorem sound_sendTrap {dest : Option NodeRef} {sender : Option NodeRef} {part : BitVec 5} {w : List Word} (h : Sound s₀ s) :
    Sound s₀ (s.sendTrap dest sender part w) := h.bump.same rfl

theorem sound_takeFault {n : NodeRef} {slot : BitVec 4} {opc : BitVec 8} {fi : FaultInfo} {keep : Option InFlight} (h : Sound s₀ s) :
    Sound s₀ (takeFault s n slot opc fi keep) := sound_sendTrap (sound_gateCalleeFaults (sound_setNd h (fun hn => Sound.nd h hn)))

theorem sound_request {who : Requester} {stamp : Stamp} {va : BitVec 56} {op : Op} {stage : Stage} {fwd : List (Option PWord)}
    {after : List Nat} {tag : Word} {from_ : optParam Nat 0} {acquire : optParam Bool false} (h : Sound s₀ s) :
    Sound s₀ (s.request who stamp va op stage fwd after tag from_ acquire).2 := (h.ask rfl).same rfl

theorem sound_dropReq {id : Nat} (h : Sound s₀ s) : Sound s₀ (s.dropReq id) := (h.filterReqs _).same rfl

theorem sound_setReq {r : Req} (h : Sound s₀ s) : Sound s₀ (s.setReq r) := (h.mapReqs (fun _ => by split <;> simp_all)).same rfl

theorem sound_dropResp {id : Nat} (h : Sound s₀ s) : Sound s₀ (s.dropResp id) := h.same rfl

theorem sound_answer {r : Req} {a : Answer} (h : Sound s₀ s) : Sound s₀ (s.answer r a) := h.same rfl

theorem sound_setBarrier {die : BitVec 4} {i : Nat} {b : PoolBar} (h : Sound s₀ s) : Sound s₀ (s.setBarrier die i b) := sound_updDie h

theorem sound_abandonReq {id : Nat} (h : Sound s₀ s) : Sound s₀ (s.abandonReq id) := by
  unfold State.abandonReq
  refine sound_dropResp (sound_dropReq ?_)
  dsimp only
  split
  · split
    · exact sound_setBarrier h
    · exact h
  · exact h

theorem ordered_setLatch {i : Nat} {w : Word} (hnd : nd.Ordered) : (nd.setLatch i w).Ordered := hnd

theorem ordered_setLatchBit {i : Nat} {b : Bool} (hnd : nd.Ordered) : (nd.setLatchBit i b).Ordered := ordered_setLatch hnd

/-! ## Machine/Operands -/

theorem sound_claim {n : NodeRef} {i : Instr} {f : Fields} (h : Sound s₀ s) : Sound s₀ (claim s n i f) := sound_updEl h

theorem sound_unclaim {n : NodeRef} {i : Instr} {f : Fields} (h : Sound s₀ s) : Sound s₀ (unclaim s n i f) := sound_updEl h

theorem sound_writeDst {n : NodeRef} {i : Instr} {f : Fields} {kind : BitVec 3} {fmt : BitVec 3} {v : PWord} (h : Sound s₀ s) :
    Sound s₀ (writeDst s n i f kind fmt v) := by
  unfold writeDst
  split
  · split
    · exact sound_updNd h (fun _ h7 => ordered_setG h7)
    · split
      · exact sound_updNd h (fun _ h8 => ordered_setCo h8)
      · split
        · exact sound_updEl h
        · exact h
  · exact h

theorem sound_leaveDst {n : NodeRef} {i : Instr} {f : Fields} (h : Sound s₀ s) : Sound s₀ (leaveDst s n i f) := by
  unfold leaveDst
  split
  · exact sound_updEl h
  · exact h

theorem ordered_popChan {dq : Bool} {c : BitVec 3} {seq : Nat} (hnd : nd.Ordered) : (popChan nd dq c seq).Ordered := by
  unfold popChan
  split
  · exact hnd
  · exact Node.Ordered.ite hnd (ordered_popCi hnd)

theorem sound_writeLanes {n : NodeRef} {ls : List (Nat × PWord)} (h : Sound s₀ s) : Sound s₀ (writeLanes s n ls) :=
  Sound.ite h (sound_updEl h)

theorem sound_commit {n : NodeRef} {i : Instr} {f : Fields} {seqA : Nat} {seqB : Nat} {r : Result} (h : Sound s₀ s) :
    Sound s₀ (commit s n i f seqA seqB r) := by
  unfold commit
  refine sound_updNd (sound_writeLanes ?_) (fun _ h3 => ordered_popChan (ordered_popChan h3))
  split
  · split
    · refine sound_updNd ?_ (fun _ h2 => ordered_setG h2)
      split
      · exact sound_writeDst h
      · exact sound_leaveDst h
    · split
      · exact sound_writeDst h
      · exact sound_leaveDst h
  · split
    · exact sound_writeDst h
    · exact sound_leaveDst h

theorem sound_atIssue (h : Sound s₀ s) : Sound s₀ (s.atIssue) := sound_updNd h (fun _ h1 => h1)

theorem sound_holdElement {i : Instr} (h : Sound s₀ s) : Sound s₀ (holdElement s i) := Sound.ite (sound_updEl h) h

theorem sound_issueClaim {i : Instr} {f : Fields} (h : Sound s₀ s) : Sound s₀ (issueClaim s i f) :=
  sound_holdElement (sound_claim (sound_atIssue h))

theorem sound_faultsAt {i : Instr} {f : Fields} {fi : FaultInfo} (h : Sound s₀ s) : Sound s₀ (faultsAt s i f fi) :=
  sound_takeFault (sound_holdElement (sound_atIssue h))

theorem sound_pendsAt {i : Instr} {f : Fields} {act : S4Act} (ht : Sound s₀ t) : Sound s₀ (pendsAt s i f t act) :=
  sound_updNd ht (fun _ h1 => h1)

theorem sound_finishesAt {i : Instr} {f : Fields} {r : Result} (ht : Sound s₀ t) : Sound s₀ (finishesAt s i f t r) := sound_pendsAt ht

theorem sound_actsAt {i : Instr} {f : Fields} {vs : List PWord} (ht : Sound s₀ t) : Sound s₀ (actsAt s i f t vs) := sound_pendsAt ht

theorem sound_failsAt {i : Instr} {f : Fields} {fi : FaultInfo} (h : Sound s₀ s) : Sound s₀ (failsAt s i f fi) :=
  sound_pendsAt (sound_issueClaim h)

theorem sound_parksAt {i : Instr} {f : Fields} {why : Flight} (ht : Sound s₀ t) : Sound s₀ (parksAt s i f t why) :=
  sound_updNd ht (fun _ h1 => h1)

theorem sound_runIssue {i : Instr} {f : Fields} {body : Opnds → State → Except FaultInfo (State × Done)} (h : Sound s₀ s)
    (hbody : ∀ x0 t, Sound s₀ t → SoundExcFst s₀ (body x0 t)) : Sound s₀ (runIssue i f s body) := by
  unfold runIssue
  split
  · exact sound_faultsAt h
  · exact sound_failsAt h
  · split
    · exact sound_failsAt h
    · exact sound_finishesAt ((hbody _ _ (sound_issueClaim h)) _ ‹_›)
    · exact sound_actsAt ((hbody _ _ (sound_issueClaim h)) _ ‹_›)
    · exact sound_parksAt ((hbody _ _ (sound_issueClaim h)) _ ‹_›)

theorem sound_issue {i : Instr} {f : Fields} {body : Opnds → State → Except FaultInfo (State × Done)} (h : Sound s₀ s)
    (hbody : ∀ x0 t, Sound s₀ t → SoundExcFst s₀ (body x0 t)) : SoundOut s₀ (issue i f s body) :=
  SoundOut.next (sound_runIssue h (fun _ _ h1 => hbody _ _ h1))

theorem sound_scalarOp {i : Instr} {f : Fields} {fmt : BitVec 3} {fn : Opnds → Word × Bool × BitVec 6} (h : Sound s₀ s) :
    SoundOut s₀ (scalarOp i f fmt s fn) := sound_issue h (fun _ _ h1 => SoundExcFst.pair h1)

theorem sound_longOp {i : Instr} {f : Fields} {fmt : BitVec 3} {lat : Nat} {fn : Opnds → Word × Bool × BitVec 6} (h : Sound s₀ s) :
    SoundOut s₀ (longOp i f fmt lat s fn) := sound_issue h (fun _ _ h1 => SoundExcFst.pair h1)

theorem sound_finish {n : NodeRef} {r : Result} (h : Sound s₀ s) : Sound s₀ (finish s n r) := by
  unfold finish
  split
  · exact h
  · split
    · exact h
    · dsimp only
      split
      · exact sound_commit (sound_updNd h (fun _ h1 => h1))
      · exact sound_takeFault (sound_updNd (sound_commit (sound_updNd h (fun _ h2 => h2))) (fun _ h3 => h3))

theorem sound_complete {n : NodeRef} {r : Result} (h : Sound s₀ s) : Sound s₀ (complete s n r) := sound_updNd h (fun _ h1 => h1)

theorem sound_faultInFlight {n : NodeRef} {fi : FaultInfo} (h : Sound s₀ s) : Sound s₀ (faultInFlight s n fi) := by
  unfold faultInFlight
  split
  · exact sound_takeFault h
  · refine sound_takeFault (sound_updNd ?_ (fun _ h1 => h1))
    split
    · exact sound_unclaim h
    · exact h

theorem sound_withdraw {n : NodeRef} (h : Sound s₀ s) : Sound s₀ (withdraw s n) := by
  unfold withdraw
  split
  · exact h
  · refine sound_updNd ?_ (fun _ h3 => h3)
    split
    · refine sound_unclaim ?_
      split
      · exact sound_abandonReq h
      · exact Sound.ite (sound_updNd ((h.filterReqs _).same rfl) (fun _ h1 => ordered_setLatchBit h1)) h
      · exact h
    · split
      · exact sound_abandonReq h
      · exact Sound.ite (sound_updNd ((h.filterReqs _).same rfl) (fun _ h2 => ordered_setLatchBit h2)) h
      · exact h

theorem sound_lateFault {n : NodeRef} (h : Sound s₀ s) : Sound s₀ (lateFault s n) := by
  unfold lateFault
  split
  · exact Sound.ite (sound_takeFault (sound_updNd (sound_withdraw h) (fun _ h1 => h1))) h
  · exact h

theorem sound_faultFromOutside {n : NodeRef} {slot : BitVec 4} {opc : BitVec 8} {fi : FaultInfo} (h : Sound s₀ s) :
    Sound s₀ (faultFromOutside s n slot opc fi) :=
  Sound.ite h (Sound.ite (sound_takeFault h) (sound_lateFault (sound_updNd h (fun _ h1 => h1))))

theorem sound_raiseFormat {n : NodeRef} {k : BitVec 2} {a2 : Token} {ret : Bool} (h : Sound s₀ s) :
    Sound s₀ (raiseFormat s n k a2 ret) := sound_faultFromOutside (sound_updNd h (fun _ h1 => h1))

theorem sound_takeIn {n : NodeRef} {k : BitVec 2} {a2 : Token} {ret : Bool} (h : Sound s₀ s) : Sound s₀ (takeIn s n k a2 ret) := by
  unfold takeIn
  split
  · exact sound_raiseFormat h
  · exact sound_updNd h (fun _ h1 => ordered_enterCi h1)

theorem sound_arriveLatest {n : NodeRef} {k : BitVec 2} {a2 : Token} (h : Sound s₀ s) : Sound s₀ (arriveLatest s n k a2) :=
  Sound.ite (Sound.ite (sound_updNd h (fun _ h1 => ordered_enterCi (ordered_setCi h1))) (sound_faultFromOutside h)) h

theorem sound_arriveChannel {n : NodeRef} {k : BitVec 2} {a2 : Token} (h : Sound s₀ s) : Sound s₀ (arriveChannel s n k a2) := by
  unfold arriveChannel
  exact Sound.ite (sound_arriveLatest h) (Sound.ite (sound_takeIn h) (Sound.ite (sound_updNd (sound_updNd h (fun _ h1 => ordered_enterCi
    h1)) (fun _ h2 => h2)) (sound_raiseFormat h)))

theorem sound_arriveReturned {n : NodeRef} {k : BitVec 2} {a2 : Token} (h : Sound s₀ s) : Sound s₀ (arriveReturned s n k a2) :=
  Sound.ite (sound_updNd h (fun _ h1 => h1)) (Sound.ite (sound_updNd (sound_takeIn h) (fun _ h2 => h2)) (sound_raiseFormat h))

theorem ordered_owesCredit {k : BitVec 2} (hnd : nd.Ordered) : (owesCredit nd k).Ordered := hnd

/-! ## Machine/Resume -/

theorem sound_skipTransition {n : NodeRef} {fl : InFlight} (h : Sound s₀ s) : Sound s₀ (skipTransition s n fl) := by
  unfold skipTransition
  split
  · exact h
  · exact sound_commit (sound_claim h)

theorem sound_recheckToken {n : NodeRef} (h : Sound s₀ s) : Sound s₀ (recheckToken s n) := by
  unfold recheckToken
  split
  · exact h
  · exact Sound.ite (sound_arriveReturned (sound_updNd h (fun _ h1 => h1))) (sound_arriveChannel (sound_updNd h (fun _ h2 => h2)))

theorem sound_dropToken {n : NodeRef} (h : Sound s₀ s) : Sound s₀ (dropToken s n) := by
  unfold dropToken
  split
  · exact h
  · exact sound_updNd h (fun _ h1 => Node.Ordered.ite h1 (ordered_owesCredit h1))

theorem sound_resendRequest {n : NodeRef} {fl : InFlight} (h : Sound s₀ s) : Sound s₀ (resendRequest s n fl) := by
  unfold resendRequest
  split
  · exact sound_updNd (((sound_claim h).mapReqs (fun _ => by split <;> rfl)).same rfl) (fun _ h1 => h1)
  · exact h

theorem map_heldRequests {rs : List Req} {ids : List Nat} {discard : Bool} :
    ((heldRequests rs ids discard).map Req.id).Sublist (rs.map Req.id) := by
  unfold heldRequests
  split
  · exact List.filter_sublist.map _
  · rw [List.map_map]
    rw [List.map_congr_left (g := Req.id) fun r _ => ?_]
    dsimp only [Function.comp]
    split <;> rfl

theorem sound_releaseHeld {n : NodeRef} {discard : Bool} (h : Sound s₀ s) : Sound s₀ (releaseHeld s n discard) := by
  unfold releaseHeld
  exact sound_updEl (h.withReqs map_heldRequests)

theorem sound_resumeNode {n : NodeRef} {w : Word} (h : Sound s₀ s) : SoundOpt s₀ (resumeNode s n w) := by
  unfold resumeNode
  dsimp only
  split
  · exact SoundOpt.none
  · split
    · split
      · split
        · exact SoundOpt.none
        · refine SoundOpt.some ?_
          split
          · refine sound_updNd (sound_releaseHeld ?_) (fun _ h194 => h194)
            split
            · refine sound_dropToken ?_
              split
              · split
                · refine sound_skipTransition ?_
                  split
                  · exact sound_dropReq (sound_updNd h (fun _ h173 => h173))
                  · exact sound_updNd h (fun _ h174 => h174)
                · exact sound_updNd h (fun _ h175 => h175)
              · exact Sound.ite (sound_resendRequest (sound_updNd h (fun _ h176 => h176))) (sound_updNd h (fun _ h177 => h177))
            · refine sound_recheckToken ?_
              split
              · split
                · refine sound_skipTransition ?_
                  split
                  · exact sound_dropReq (sound_updNd h (fun _ h189 => h189))
                  · exact sound_updNd h (fun _ h190 => h190)
                · exact sound_updNd h (fun _ h191 => h191)
              · exact Sound.ite (sound_resendRequest (sound_updNd h (fun _ h192 => h192))) (sound_updNd h (fun _ h193 => h193))
          · refine sound_releaseHeld ?_
            split
            · refine sound_dropToken ?_
              split
              · split
                · refine sound_skipTransition ?_
                  split
                  · exact sound_dropReq (sound_updNd h (fun _ h238 => h238))
                  · exact sound_updNd h (fun _ h239 => h239)
                · exact sound_updNd h (fun _ h240 => h240)
              · exact Sound.ite (sound_resendRequest (sound_updNd h (fun _ h241 => h241))) (sound_updNd h (fun _ h242 => h242))
            · refine sound_recheckToken ?_
              split
              · split
                · refine sound_skipTransition ?_
                  split
                  · exact sound_dropReq (sound_updNd h (fun _ h254 => h254))
                  · exact sound_updNd h (fun _ h255 => h255)
                · exact sound_updNd h (fun _ h256 => h256)
              · exact Sound.ite (sound_resendRequest (sound_updNd h (fun _ h257 => h257))) (sound_updNd h (fun _ h258 => h258))
      · split
        · exact SoundOpt.none
        · refine SoundOpt.some ?_
          split
          · refine sound_updNd (sound_releaseHeld ?_) (fun _ h452 => h452)
            split
            · refine sound_dropToken ?_
              split
              · split
                · refine sound_skipTransition ?_
                  split
                  · exact sound_dropReq (sound_updNd h (fun _ h431 => h431))
                  · exact sound_updNd h (fun _ h432 => h432)
                · exact sound_updNd h (fun _ h433 => h433)
              · exact Sound.ite (sound_resendRequest (sound_updNd h (fun _ h434 => h434))) (sound_updNd h (fun _ h435 => h435))
            · refine sound_recheckToken ?_
              split
              · split
                · refine sound_skipTransition ?_
                  split
                  · exact sound_dropReq (sound_updNd h (fun _ h447 => h447))
                  · exact sound_updNd h (fun _ h448 => h448)
                · exact sound_updNd h (fun _ h449 => h449)
              · exact Sound.ite (sound_resendRequest (sound_updNd h (fun _ h450 => h450))) (sound_updNd h (fun _ h451 => h451))
          · refine sound_releaseHeld ?_
            split
            · refine sound_dropToken ?_
              split
              · split
                · refine sound_skipTransition ?_
                  split
                  · exact sound_dropReq (sound_updNd h (fun _ h496 => h496))
                  · exact sound_updNd h (fun _ h497 => h497)
                · exact sound_updNd h (fun _ h498 => h498)
              · exact Sound.ite (sound_resendRequest (sound_updNd h (fun _ h499 => h499))) (sound_updNd h (fun _ h500 => h500))
            · refine sound_recheckToken ?_
              split
              · split
                · refine sound_skipTransition ?_
                  split
                  · exact sound_dropReq (sound_updNd h (fun _ h512 => h512))
                  · exact sound_updNd h (fun _ h513 => h513)
                · exact sound_updNd h (fun _ h514 => h514)
              · exact Sound.ite (sound_resendRequest (sound_updNd h (fun _ h515 => h515))) (sound_updNd h (fun _ h516 => h516))
    · split
      · exact SoundOpt.none
      · exact SoundOpt.some (Sound.ite (sound_updNd (sound_releaseHeld (Sound.ite (sound_dropToken (sound_updNd h (fun _ h517 => h517)))
          (sound_recheckToken (sound_updNd h (fun _ h518 => h518))))) (fun _ h519 => h519)) (sound_releaseHeld (Sound.ite (sound_dropToken
          (sound_updNd h (fun _ h520 => h520))) (sound_recheckToken (sound_updNd h (fun _ h521 => h521))))))

theorem sound_discardDrain {e : ElemRef} {i : Nat} (h : Sound s₀ s) : Sound s₀ (discardDrain s e i) := by
  unfold discardDrain
  exact sound_updEl (sound_updNd h (fun _ h1 => ordered_setCo h1))

theorem sound_gateCallerLeaves {n : NodeRef} (h : Sound s₀ s) : Sound s₀ (gateCallerLeaves s n) := by
  unfold gateCallerLeaves
  exact Sound.foldl (sound_updEl h) (fun _ _ h1 => Sound.ite (Sound.ite (sound_updEl (sound_updNd h1 (fun _ h2 => ordered_setCi h2)))
    (Sound.ite (sound_updEl (sound_updNd h1 (fun _ h3 => ordered_setCo h3))) (Sound.ite (sound_discardDrain h1) h1))) h1)

theorem sound_enterOff {n : NodeRef} (h : Sound s₀ s) : Sound s₀ (enterOff s n) := by
  unfold enterOff
  exact sound_updNd (sound_updEl (sound_releaseHeld (sound_gateCallerLeaves (((sound_withdraw h).filterReqs _).same rfl)))) (fun _ h1 => h1)

end Sys2Proof.Machine
end

section
/-! SUPPORT. `Sound` through translation and the homes of memory (O8, O9). -/

namespace Sys2Proof.Machine
open Sys2Proof.Claims

variable {s₀ s t : State} {nd : Node}

/-! ## Machine/Translate -/

theorem sound_takeLine {pa : Nat} {k : BitVec 13} (h : Sound s₀ s) : Sound s₀ (s.takeLine pa k) := by
  unfold State.takeLine
  split
  · dsimp only
    split
    · exact h.same rfl
    · exact Sound.ite h ((h.withMem fun hw => writeBytes_wf hw _ _).same rfl)
  · exact h

theorem sound_storeUnder {pa : Nat} {k : BitVec 13} {w : PWord} (h : Sound s₀ s) : Sound s₀ (s.storeUnder pa k w) :=
  sound_storeWord (sound_takeLine h)

theorem sound_storeByteUnder {pa : Nat} {k : BitVec 13} {b : Byte} (h : Sound s₀ s) : Sound s₀ (s.storeByteUnder pa k b) :=
  sound_setMeta (((sound_takeLine h).withMem fun hw => memSet_wf hw _ _).same rfl)

theorem sound_setCacheSet {d : BitVec 4} {i : Nat} {q : List CacheLine} (h : Sound s₀ s) : Sound s₀ (s.setCacheSet d i q) := sound_updDie h

theorem sound_useLine {p : BitVec 5} {pa : Nat} {k : BitVec 13} {write : Bool} {nc : Bool} (h : Sound s₀ s) :
    Sound s₀ (s.useLine p pa k write nc) := by
  unfold State.useLine
  split
  · exact sound_setCacheSet h
  · exact h

theorem sound_evict {p : CacheLine → Bool} (h : Sound s₀ s) : Sound s₀ (s.evict p) := h.same rfl

theorem sound_noteReads {die : BitVec 4} {p : BitVec 5} {key : BitVec 13} {rs : List (Nat × TableEntry)} (h : Sound s₀ s) :
    Sound s₀ (s.noteReads die p key rs) :=
  Sound.foldl h (fun _ _ h1 => Sound.ite h1 (Sound.ite (sound_updDie (sound_useLine h1)) (sound_useLine h1)))

theorem sound_useTenant {p : BitVec 5} {tenant : BitVec 16} (h : Sound s₀ s) : Sound s₀ (s.useTenant p tenant) := by
  unfold State.useTenant
  split
  · exact Sound.ite (sound_useLine h) h
  · exact h

theorem sound_walkNoted {die : BitVec 4} {p : BitVec 5} {tenant : BitVec 16} {va : Nat} (h : Sound s₀ s) :
    Sound s₀ (s.walkNoted die p tenant va).1 := by
  unfold State.walkNoted
  dsimp only
  split
  · exact h
  · split
    · exact sound_noteReads (sound_useTenant h)
    · exact sound_useTenant h

theorem sound_addTlb {die : BitVec 4} {a1 : Option TileRef} {e : Option TlbEntry} (h : Sound s₀ s) :
    Sound s₀ (s.addTlb die a1 e) := by
  unfold State.addTlb
  split
  · exact sound_updTl h
  · exact sound_updDie h

theorem sound_startWalk {st : Stamp} {page : Nat} {a2 : optParam (Option TileRef) none} (h : Sound s₀ s) :
    Sound s₀ (startWalk s st page a2) := Sound.ite h (Sound.ite (sound_updDie h) (Sound.ite (sound_updDie (sound_walkNoted h)) h))

theorem sound_endWalk {st : Stamp} {page : Nat} (h : Sound s₀ s) : Sound s₀ (endWalk s st page) := by
  unfold endWalk
  dsimp only
  split
  · exact h
  · refine Sound.foldl ?_ (fun _ _ h1 => sound_addTlb h1)
    split
    · exact sound_walkNoted (sound_updDie h)
    · dsimp only
      exact sound_updDie h

theorem sound_unitWalk {st : Stamp} {a1 : Option TileRef} {vas : List Nat} (h : Sound s₀ s) : Sound s₀ (unitWalk s st a1 vas).1 := by
  unfold unitWalk
  dsimp only
  split
  · exact Sound.foldl h (fun _ _ h1 => sound_endWalk h1)
  · exact Sound.foldl h (fun _ _ h2 => sound_startWalk h2)

theorem sound_walkNow {st : Stamp} {vas : List Nat} (h : Sound s₀ s) : Sound s₀ (walkNow s st vas).1 := by
  unfold walkNow
  refine Sound.foldl_fst h (fun _ _ h1 => ?_)
  dsimp only
  split
  · exact sound_endWalk (sound_startWalk h1)
  · exact sound_startWalk h1

/-! ## Machine/MemHome -/

theorem sound_setPres {pa : Nat} {x : Presence} (h : Sound s₀ s) : Sound s₀ (s.setPres pa x) := sound_setMeta h

theorem sound_reeval {pa : Nat} (h : Sound s₀ s) : Sound s₀ (reeval s pa) := by
  unfold reeval
  refine Sound.foldl h (fun _ _ h1 => ?_)
  split
  · split
    · exact sound_answer (sound_dropReq h1)
    · exact sound_setReq h1
  · exact h1

theorem sound_landPosted {x : Posted} (h : Sound s₀ s) : Sound s₀ (landPosted s x) := sound_storeWord (h.same rfl)

theorem sound_landAll {south : Bool} (h : Sound s₀ s) : Sound s₀ (landAll s south) := Sound.foldl h (fun _ _ h1 => sound_landPosted h1)

theorem sound_hostTick (h : Sound s₀ s) : Sound s₀ (hostTick s) := by
  unfold hostTick
  split
  · exact h
  · dsimp only
    split
    · split
      · exact sound_landPosted (sound_free h)
      · exact sound_free h
    · exact sound_free h

theorem sound_homeStore {pa : Nat} {k : BitVec 13} {w : PWord} (h : Sound s₀ s) : Sound s₀ (homeStore s pa k w) := by
  unfold homeStore
  split
  · exact h.same rfl
  · exact sound_reeval (sound_storeUnder h)

theorem sound_presStoreWord {pa : Nat} {k : BitVec 13} {w : PWord} (h : Sound s₀ s) : Sound s₀ (presStoreWord s pa k w) :=
  sound_reeval (sound_setPres (sound_storeUnder h))

theorem sound_presStoreLine {pa : Nat} {k : BitVec 13} {ws : List PWord} (h : Sound s₀ s) : Sound s₀ (presStoreLine s pa k ws) :=
  sound_reeval (sound_setPres (Sound.foldl h (fun _ _ h1 => sound_storeUnder h1)))

theorem sound_useWord {r : Req} {i : Nat} {write : Bool} (h : Sound s₀ s) : Sound s₀ (s.useWord r i write) := by
  unfold State.useWord
  split
  · exact sound_useLine h
  · exact h

theorem sound_useWords {r : Req} {write : Bool} (h : Sound s₀ s) : Sound s₀ (s.useWords r write) :=
  Sound.foldl h (fun _ _ h1 => sound_useWord h1)

theorem sound_performLoad {r : Req} {n : Nat} (h : Sound s₀ s) : SoundPerf s₀ r (performLoad s r n) := by
  unfold performLoad
  split
  · exact SoundPerf.done h
  · dsimp only
    split
    · exact SoundPerf.done (sound_useWord h)
    · exact SoundPerf.more (sound_useWord h) rfl

theorem sound_performStore {r : Req} {ws : List PWord} (h : Sound s₀ s) : SoundPerf s₀ r (performStore s r ws) := by
  unfold performStore
  split
  · exact SoundPerf.done h
  · exact SoundPerf.done h
  · dsimp only
    split
    · exact SoundPerf.done (sound_homeStore (sound_useWord h))
    · exact SoundPerf.more (sound_homeStore (sound_useWord h)) rfl

theorem tryDeferred_id {r x : Req} (h : tryDeferred s r = .error x) : x.id = r.id := by
  unfold tryDeferred at h
  split at h
  · exact congrArg Req.id (Except.error.inj h).symm
  · split at h
    · dsimp only at h
      split at h
      · cases h
      · exact congrArg Req.id (Except.error.inj h).symm
    · dsimp only at h
      split at h
      · cases h
      · exact congrArg Req.id (Except.error.inj h).symm
    · dsimp only at h
      split at h
      · cases h
      · exact (congrArg Req.id (Except.error.inj h)).symm
    · exact congrArg Req.id (Except.error.inj h).symm

theorem sound_readOrDefer {r : Req} (h : Sound s₀ s) : SoundPerf s₀ r (readOrDefer s r) := by
  unfold readOrDefer
  split
  · exact SoundPerf.done h
  · next x hx =>
    split
    · exact SoundPerf.defer h (tryDeferred_id hx)
    · exact SoundPerf.wait

theorem sound_performPresWrite {r : Req} {ws : List PWord} (h : Sound s₀ s) : SoundPerf s₀ r (performPresWrite s r ws) := by
  unfold performPresWrite
  split
  · exact SoundPerf.done h
  · split
    · exact SoundPerf.wait
    · split
      · exact SoundPerf.done h
      · split
        · exact SoundPerf.done (sound_presStoreLine (sound_useWord h))
        · dsimp only
          split
          · exact SoundPerf.done (sound_presStoreWord h)
          · exact SoundPerf.more (sound_presStoreWord h) rfl

theorem sound_performClear {pa : Nat} {n : Nat} (h : Sound s₀ s) : Sound s₀ (performClear s pa n).1 := by
  unfold performClear
  refine Sound.foldl_fst h (fun _ _ h1 => ?_)
  dsimp only
  split
  · split
    · exact h1
    · exact sound_setPres h1
  · split
    · exact h1
    · exact sound_setPres h1

theorem sound_useClear {r : Req} {pa : Nat} {k : BitVec 13} {n : Nat} (h : Sound s₀ s) : Sound s₀ (s.useClear r pa k n) :=
  Sound.ite (Sound.foldl h (fun _ _ h1 => sound_useLine h1)) h

theorem sound_store64 {pa : Nat} {k : BitVec 13} {w : DWord} (h : Sound s₀ s) : Sound s₀ (store64 s pa k w) :=
  sound_storeUnder (sound_storeUnder h)

theorem sound_barWrite {pa : Nat} {k : BitVec 13} {w : DWord} (h : Sound s₀ s) : Sound s₀ (barWrite s pa k w) :=
  sound_reeval (sound_reeval (sound_store64 h))

theorem sound_wordArrive {pa : Nat} {k : BitVec 13} {n : Nat} (h : Sound s₀ s) : SoundOptFst s₀ (wordArrive s pa k n) := by
  unfold wordArrive
  split
  · exact SoundOptFst.none
  · dsimp only
    split
    · exact SoundOptFst.pair (sound_barWrite h)
    · exact SoundOptFst.pair (sound_barWrite h)

theorem sound_performMake {pa : Nat} {k : BitVec 13} {n : Nat} (h : Sound s₀ s) : Sound s₀ (performMake s pa k n).1 := by
  unfold performMake
  dsimp only
  split
  · split
    · exact sound_setMeta (sound_store64 h)
    · exact h
  · split
    · exact h
    · exact sound_setMeta (sound_barWrite h)

theorem sound_performMem {r : Req} (h : Sound s₀ s) : SoundPerf s₀ r (performMem s r) := by
  unfold performMem
  split
  · exact SoundPerf.done h
  · exact SoundPerf.done h
  · split
    · exact sound_performLoad h
    · exact SoundPerf.done (sound_useWords h)
    · exact sound_performStore h
    · exact sound_readOrDefer (sound_useWords h)
    · exact sound_performPresWrite h
    · exact SoundPerf.done (sound_performClear (sound_useClear h))
    · exact SoundPerf.done (sound_useWord h)
    · split
      · exact SoundPerf.done h
      · exact SoundPerf.done (sound_homeStore (sound_useWord h))
    · split
      · exact SoundPerf.done h
      · exact SoundPerf.done (sound_homeStore (sound_useWord h))
    · split
      · split
        · exact SoundPerf.done ((sound_wordArrive (sound_useWord h)) _ ‹_›)
        · exact SoundPerf.done h
      · exact SoundPerf.done h
    · split
      · exact SoundPerf.done (sound_useWord h)
      · exact SoundPerf.done h
    · split
      · dsimp only
        split
        · exact SoundPerf.done (sound_useWord h)
        · exact sound_readOrDefer (sound_useWord h)
      · exact SoundPerf.done h
    · exact SoundPerf.done (sound_performMake (sound_useWord h))
    · exact sound_readOrDefer (sound_useWord h)
    · exact SoundPerf.done h

theorem sound_updHport {south : Bool} {f : HostPort → HostPort} (h : Sound s₀ s) : Sound s₀ (s.updHport south f) := h.same rfl

theorem sound_askHost {tlb : Mmu} {who : Requester} {st : Stamp} {va : Nat} {write : optParam Bool false} (h : Sound s₀ s) :
    Sound s₀ (askHost s tlb who st va write) := Sound.ite h ((h.ask rfl).same rfl)

theorem sound_forgetAsk {who : Requester} (h : Sound s₀ s) : Sound s₀ (forgetAsk s who) := (h.filterReqs _).same rfl

theorem sound_unitUses {m : Mmu} {st : Stamp} {va : Nat} {p : Nat × BitVec 13} {write : Bool} (h : Sound s₀ s) :
    Sound s₀ (unitUses s m st va p write) := sound_useLine h

theorem sound_unitTouch {st : Stamp} {va : Nat} {n : Nat} {write : Bool} (h : Sound s₀ s) : Sound s₀ (unitTouch s st va n write).1 := by
  unfold unitTouch
  refine Sound.foldl (sound_walkNow h) (fun _ _ h1 => ?_)
  dsimp only
  split
  · exact sound_unitUses h1
  · exact h1

theorem sound_unitStore {p : Nat × BitVec 13} {w : PWord} (h : Sound s₀ s) : SoundExc s₀ (unitStore s p w) := by
  unfold unitStore
  split
  · exact SoundExc.error
  · split
    · split
      · split
        · exact SoundExc.ok (sound_presStoreWord h)
        · exact SoundExc.error
      · exact SoundExc.ok (sound_homeStore h)
    · exact SoundExc.ok (sound_homeStore h)

theorem sound_useBankN {pa : Nat} {n : Nat} (h : Sound s₀ s) : Sound s₀ (useBankN s pa n) := by
  unfold useBankN
  dsimp only
  split
  · exact h
  · split
    · exact sound_updTl h
    · exact sound_updEl h
    · exact h

theorem sound_useBankAt {pa : Nat} (h : Sound s₀ s) : Sound s₀ (useBankAt s pa) := sound_useBankN h

/-! ## Machine/SysRegs -/

theorem sound_execTrap {f : Fields} (h : Sound s₀ s) : SoundOut s₀ (execTrap f s) := sound_issue h (fun _ _ _ => SoundExcFst.error)

theorem sound_execBrk {f : Fields} (h : Sound s₀ s) : SoundOut s₀ (execBrk f s) := sound_issue h (fun _ _ _ => SoundExcFst.error)

theorem sound_writeNodeSel {n : NodeRef} {remote : Bool} {sel : Nat} {v : Word} (h : Sound s₀ s) :
    SoundOpt s₀ (writeNodeSel s n remote sel v) := by
  unfold writeNodeSel
  dsimp only
  split
  · split
    · exact SoundOpt.none
    · exact SoundOpt.some (sound_updNd h (fun _ h1 => h1))
  · split
    · exact sound_resumeNode h
    · split
      · split
        · exact SoundOpt.none
        · exact SoundOpt.some (sound_updNd h (fun _ h2 => ordered_setG h2))
      · exact SoundOpt.none

theorem sound_performReadSel {from_ : NodeRef} {a : Word} {sel : Nat} (h : Sound s₀ s) : Sound s₀ (performReadSel s from_ a sel).1 := by
  unfold performReadSel
  split
  · dsimp only
    split
    · exact h
    · exact h
  · dsimp only
    split
    · exact h
    · exact h

theorem sound_performWriteSel {from_ : NodeRef} {a : Word} {v : Word} {sel : Nat} (h : Sound s₀ s) :
    Sound s₀ (performWriteSel s from_ a v sel).1 := by
  unfold performWriteSel
  split
  · dsimp only
    split
    · split
      · exact sound_forgetAsk (sound_updTl h)
      · exact h
    · exact h
  · dsimp only
    split
    · split
      · exact (sound_writeNodeSel h) _ ‹_›
      · exact h
    · exact h

theorem sound_askUnit {o : Opnds} {op : Op} (h : Sound s₀ s) : Sound s₀ (askUnit s o op).1 := sound_request h

theorem sound_execSyrd {f : Fields} (h : Sound s₀ s) : SoundOut s₀ (execSyrd f s) := by
  unfold execSyrd
  refine sound_issue h (fun _ _ h1 => ?_)
  split
  · exact SoundExcFst.pair h1
  · dsimp only
    split
    · exact SoundExcFst.ok (sound_askUnit h1)
    · exact SoundExcFst.pair h1

theorem sound_systemWrite {i : Instr} {f : Fields} (h : Sound s₀ s) : SoundOut s₀ (systemWrite i f s) := by
  unfold systemWrite
  refine sound_issue h (fun _ _ h1 => ?_)
  split
  · exact SoundExcFst.pair h1
  · dsimp only
    split
    · exact SoundExcFst.ok (sound_askUnit h1)
    · exact SoundExcFst.pair h1

theorem sound_systemWriteAtS4 {o : Opnds} (h : Sound s₀ s) : Sound s₀ (systemWriteAtS4 o s).1 := by
  unfold systemWriteAtS4
  split
  · exact (sound_writeNodeSel h) _ ‹_›
  · exact h

theorem sound_execSywrFpstat {f : Fields} (h : Sound s₀ s) : SoundOut s₀ (execSywrFpstat f s) := sound_systemWrite h

theorem sound_execSywrResumeRetry {f : Fields} (h : Sound s₀ s) : SoundOut s₀ (execSywrResumeRetry f s) := sound_systemWrite h

theorem sound_execSywrResumeSkip {f : Fields} (h : Sound s₀ s) : SoundOut s₀ (execSywrResumeSkip f s) := sound_systemWrite h

theorem sound_execSywrGreg {f : Fields} (h : Sound s₀ s) : SoundOut s₀ (execSywrGreg f s) := sound_systemWrite h

theorem sound_execSywrPortctlReplay {f : Fields} (h : Sound s₀ s) : SoundOut s₀ (execSywrPortctlReplay f s) := sound_systemWrite h

theorem sound_execSywrPortctlAbandon {f : Fields} (h : Sound s₀ s) : SoundOut s₀ (execSywrPortctlAbandon f s) := sound_systemWrite h

end Sys2Proof.Machine
end

section
/-! SUPPORT. `Sound` through local stores, scalars, vectors and global memory (O8, O9). -/

namespace Sys2Proof.Machine
open Sys2Proof.Claims

variable {s₀ s t : State} {nd : Node}

/-! ## Machine/Float -/

theorem sound_execFadd {f : Fields} (h : Sound s₀ s) : SoundOut s₀ (execFadd f s) := sound_scalarOp h

theorem sound_execFsub {f : Fields} (h : Sound s₀ s) : SoundOut s₀ (execFsub f s) := sound_scalarOp h

theorem sound_execFmul {f : Fields} (h : Sound s₀ s) : SoundOut s₀ (execFmul f s) := sound_scalarOp h

theorem sound_execFma {f : Fields} (h : Sound s₀ s) : SoundOut s₀ (execFma f s) := sound_scalarOp h

theorem sound_execFmin {f : Fields} (h : Sound s₀ s) : SoundOut s₀ (execFmin f s) := sound_scalarOp h

theorem sound_execFmax {f : Fields} (h : Sound s₀ s) : SoundOut s₀ (execFmax f s) := sound_scalarOp h

theorem sound_execFcmpEq {f : Fields} (h : Sound s₀ s) : SoundOut s₀ (execFcmpEq f s) := sound_scalarOp h

theorem sound_execFcmpLt {f : Fields} (h : Sound s₀ s) : SoundOut s₀ (execFcmpLt f s) := sound_scalarOp h

theorem sound_execFcmpLe {f : Fields} (h : Sound s₀ s) : SoundOut s₀ (execFcmpLe f s) := sound_scalarOp h

theorem sound_execFcmpUn {f : Fields} (h : Sound s₀ s) : SoundOut s₀ (execFcmpUn f s) := sound_scalarOp h

theorem sound_execFabs {f : Fields} (h : Sound s₀ s) : SoundOut s₀ (execFabs f s) := sound_scalarOp h

theorem sound_execFneg {f : Fields} (h : Sound s₀ s) : SoundOut s₀ (execFneg f s) := sound_scalarOp h

theorem sound_execFrcp {f : Fields} (h : Sound s₀ s) : SoundOut s₀ (execFrcp f s) := sound_longOp h

theorem sound_execFrsq {f : Fields} (h : Sound s₀ s) : SoundOut s₀ (execFrsq f s) := sound_longOp h

theorem sound_execFexp2 {f : Fields} (h : Sound s₀ s) : SoundOut s₀ (execFexp2 f s) := sound_longOp h

theorem sound_execFlog2 {f : Fields} (h : Sound s₀ s) : SoundOut s₀ (execFlog2 f s) := sound_longOp h

/-! ## Machine/Convert -/

theorem sound_execCvtF {f : Fields} (h : Sound s₀ s) : SoundOut s₀ (execCvtF f s) := sound_scalarOp h

theorem sound_execCvtIf {f : Fields} (h : Sound s₀ s) : SoundOut s₀ (execCvtIf f s) := sound_scalarOp h

theorem sound_execCvtFi {f : Fields} (h : Sound s₀ s) : SoundOut s₀ (execCvtFi f s) := sound_scalarOp h

theorem sound_execCvtNf {f : Fields} (h : Sound s₀ s) : SoundOut s₀ (execCvtNf f s) := sound_scalarOp h

theorem sound_execCvtFn {f : Fields} (h : Sound s₀ s) : SoundOut s₀ (execCvtFn f s) := sound_scalarOp h

theorem sound_execPack2 {f : Fields} (h : Sound s₀ s) : SoundOut s₀ (execPack2 f s) := sound_scalarOp h

theorem sound_execUnpk {f : Fields} (h : Sound s₀ s) : SoundOut s₀ (execUnpk f s) := sound_scalarOp h

theorem sound_execScale {f : Fields} (h : Sound s₀ s) : SoundOut s₀ (execScale f s) := sound_scalarOp h

/-! ## Machine/LocalStore -/

theorem sound_lsLoad {i : Instr} {f : Fields} {ea : Opnds → Word} {len : Nat} {conv : Nat → Word} (h : Sound s₀ s) :
    SoundOut s₀ (lsLoad i f s ea len conv) := by
  unfold lsLoad
  refine sound_issue h (fun _ _ h1 => ?_)
  split
  · exact SoundExcFst.pair h1
  · split
    · exact SoundExcFst.error
    · dsimp only
      split
      · exact SoundExcFst.pair h1
      · exact SoundExcFst.pair h1

theorem sound_lsStore {i : Instr} {f : Fields} {ea : Opnds → Word} {len : Nat} (h : Sound s₀ s) : SoundOut s₀ (lsStore i f s ea len) := by
  unfold lsStore
  refine sound_issue h (fun _ _ h1 => ?_)
  split
  · exact SoundExcFst.pair h1
  · split
    · exact SoundExcFst.error
    · dsimp only
      split
      · exact SoundExcFst.pair (sound_setLsWord h1)
      · exact SoundExcFst.pair (sound_setLsWord h1)

theorem sound_execLdW {f : Fields} (h : Sound s₀ s) : SoundOut s₀ (execLdW f s) := sound_lsLoad h

theorem sound_execLdH {f : Fields} (h : Sound s₀ s) : SoundOut s₀ (execLdH f s) := sound_lsLoad h

theorem sound_execLdHs {f : Fields} (h : Sound s₀ s) : SoundOut s₀ (execLdHs f s) := sound_lsLoad h

theorem sound_execLdB {f : Fields} (h : Sound s₀ s) : SoundOut s₀ (execLdB f s) := sound_lsLoad h

theorem sound_execLdBs {f : Fields} (h : Sound s₀ s) : SoundOut s₀ (execLdBs f s) := sound_lsLoad h

theorem sound_execStW {f : Fields} (h : Sound s₀ s) : SoundOut s₀ (execStW f s) := sound_lsStore h

theorem sound_execStH {f : Fields} (h : Sound s₀ s) : SoundOut s₀ (execStH f s) := sound_lsStore h

theorem sound_execStB {f : Fields} (h : Sound s₀ s) : SoundOut s₀ (execStB f s) := sound_lsStore h

theorem sound_execLdxW {f : Fields} (h : Sound s₀ s) : SoundOut s₀ (execLdxW f s) := sound_lsLoad h

theorem sound_execStxW {f : Fields} (h : Sound s₀ s) : SoundOut s₀ (execStxW f s) := sound_lsStore h

theorem sound_execLdc {f : Fields} (h : Sound s₀ s) : SoundOut s₀ (execLdc f s) := by
  unfold execLdc
  refine sound_issue h (fun _ _ h1 => ?_)
  split
  · exact SoundExcFst.pair h1
  · split
    · exact SoundExcFst.error
    · exact SoundExcFst.pair h1

theorem sound_execLdP {f : Fields} (h : Sound s₀ s) : SoundOut s₀ (execLdP f s) := by
  unfold execLdP
  refine sound_issue h (fun _ _ h1 => ?_)
  split
  · exact SoundExcFst.pair h1
  · split
    · exact SoundExcFst.error
    · exact SoundExcFst.pair h1

theorem sound_execStP {f : Fields} (h : Sound s₀ s) : SoundOut s₀ (execStP f s) := by
  unfold execStP
  refine sound_issue h (fun _ _ h1 => ?_)
  split
  · exact SoundExcFst.pair h1
  · split
    · exact SoundExcFst.error
    · exact SoundExcFst.pair (sound_setLsWord h1)

theorem sound_execLcas {f : Fields} (h : Sound s₀ s) : SoundOut s₀ (execLcas f s) := by
  unfold execLcas
  refine sound_issue h (fun _ _ h1 => ?_)
  split
  · exact SoundExcFst.pair h1
  · split
    · exact SoundExcFst.error
    · dsimp only
      split
      · exact SoundExcFst.pair h1
      · exact SoundExcFst.pair (Sound.ite (sound_setLsWord h1) h1)

theorem sound_execLadd {f : Fields} (h : Sound s₀ s) : SoundOut s₀ (execLadd f s) := by
  unfold execLadd
  refine sound_issue h (fun _ _ h1 => ?_)
  split
  · exact SoundExcFst.pair h1
  · split
    · exact SoundExcFst.error
    · dsimp only
      split
      · exact SoundExcFst.pair (sound_setLsWord h1)
      · split
        · exact SoundExcFst.pair h1
        · exact SoundExcFst.pair (sound_setLsWord h1)

/-! ## Machine/Scalar -/

theorem sound_execNop {f : Fields} (h : Sound s₀ s) : SoundOut s₀ (execNop f s) := sound_issue h (fun _ _ h1 => SoundExcFst.pair h1)

theorem sound_execMov {f : Fields} (h : Sound s₀ s) : SoundOut s₀ (execMov f s) := sound_scalarOp h

theorem sound_execLi {f : Fields} (h : Sound s₀ s) : SoundOut s₀ (execLi f s) := sound_scalarOp h

theorem sound_execLui {f : Fields} (h : Sound s₀ s) : SoundOut s₀ (execLui f s) := sound_scalarOp h

theorem sound_execAdd {f : Fields} (h : Sound s₀ s) : SoundOut s₀ (execAdd f s) := sound_scalarOp h

theorem sound_execSub {f : Fields} (h : Sound s₀ s) : SoundOut s₀ (execSub f s) := sound_scalarOp h

theorem sound_execAdds {f : Fields} (h : Sound s₀ s) : SoundOut s₀ (execAdds f s) := sound_scalarOp h

theorem sound_execSubs {f : Fields} (h : Sound s₀ s) : SoundOut s₀ (execSubs f s) := sound_scalarOp h

theorem sound_execMul {f : Fields} (h : Sound s₀ s) : SoundOut s₀ (execMul f s) := sound_scalarOp h

theorem sound_execMulhI32 {f : Fields} (h : Sound s₀ s) : SoundOut s₀ (execMulhI32 f s) := sound_scalarOp h

theorem sound_execMulhN32 {f : Fields} (h : Sound s₀ s) : SoundOut s₀ (execMulhN32 f s) := sound_scalarOp h

theorem sound_execMac {f : Fields} (h : Sound s₀ s) : SoundOut s₀ (execMac f s) := sound_scalarOp h

theorem sound_execDivI32 {f : Fields} (h : Sound s₀ s) : SoundOut s₀ (execDivI32 f s) := sound_longOp h

theorem sound_execDivN32 {f : Fields} (h : Sound s₀ s) : SoundOut s₀ (execDivN32 f s) := sound_longOp h

theorem sound_execModI32 {f : Fields} (h : Sound s₀ s) : SoundOut s₀ (execModI32 f s) := sound_longOp h

theorem sound_execModN32 {f : Fields} (h : Sound s₀ s) : SoundOut s₀ (execModN32 f s) := sound_longOp h

theorem sound_execAnd {f : Fields} (h : Sound s₀ s) : SoundOut s₀ (execAnd f s) := sound_scalarOp h

theorem sound_execOr {f : Fields} (h : Sound s₀ s) : SoundOut s₀ (execOr f s) := sound_scalarOp h

theorem sound_execXor {f : Fields} (h : Sound s₀ s) : SoundOut s₀ (execXor f s) := sound_scalarOp h

theorem sound_execAndn {f : Fields} (h : Sound s₀ s) : SoundOut s₀ (execAndn f s) := sound_scalarOp h

theorem sound_execShl {f : Fields} (h : Sound s₀ s) : SoundOut s₀ (execShl f s) := sound_scalarOp h

theorem sound_execShr {f : Fields} (h : Sound s₀ s) : SoundOut s₀ (execShr f s) := sound_scalarOp h

theorem sound_execSar {f : Fields} (h : Sound s₀ s) : SoundOut s₀ (execSar f s) := sound_scalarOp h

theorem sound_execRol {f : Fields} (h : Sound s₀ s) : SoundOut s₀ (execRol f s) := sound_scalarOp h

theorem sound_execClz {f : Fields} (h : Sound s₀ s) : SoundOut s₀ (execClz f s) := sound_scalarOp h

theorem sound_execPopc {f : Fields} (h : Sound s₀ s) : SoundOut s₀ (execPopc f s) := sound_scalarOp h

theorem sound_execBrev {f : Fields} (h : Sound s₀ s) : SoundOut s₀ (execBrev f s) := sound_scalarOp h

theorem sound_execSext {f : Fields} (h : Sound s₀ s) : SoundOut s₀ (execSext f s) := sound_scalarOp h

theorem sound_execZext {f : Fields} (h : Sound s₀ s) : SoundOut s₀ (execZext f s) := sound_scalarOp h

theorem sound_execBfx {f : Fields} (h : Sound s₀ s) : SoundOut s₀ (execBfx f s) := sound_scalarOp h

theorem sound_execBfi {f : Fields} (h : Sound s₀ s) : SoundOut s₀ (execBfi f s) := sound_scalarOp h

theorem sound_execSel {f : Fields} (h : Sound s₀ s) : SoundOut s₀ (execSel f s) := sound_scalarOp h

theorem sound_execCmpEq {f : Fields} (h : Sound s₀ s) : SoundOut s₀ (execCmpEq f s) := sound_scalarOp h

theorem sound_execCmpNe {f : Fields} (h : Sound s₀ s) : SoundOut s₀ (execCmpNe f s) := sound_scalarOp h

theorem sound_execCmpLtI32 {f : Fields} (h : Sound s₀ s) : SoundOut s₀ (execCmpLtI32 f s) := sound_scalarOp h

theorem sound_execCmpLeI32 {f : Fields} (h : Sound s₀ s) : SoundOut s₀ (execCmpLeI32 f s) := sound_scalarOp h

theorem sound_execCmpLtN32 {f : Fields} (h : Sound s₀ s) : SoundOut s₀ (execCmpLtN32 f s) := sound_scalarOp h

theorem sound_execCmpLeN32 {f : Fields} (h : Sound s₀ s) : SoundOut s₀ (execCmpLeN32 f s) := sound_scalarOp h

theorem sound_execMinI32 {f : Fields} (h : Sound s₀ s) : SoundOut s₀ (execMinI32 f s) := sound_scalarOp h

theorem sound_execMaxI32 {f : Fields} (h : Sound s₀ s) : SoundOut s₀ (execMaxI32 f s) := sound_scalarOp h

theorem sound_execMinN32 {f : Fields} (h : Sound s₀ s) : SoundOut s₀ (execMinN32 f s) := sound_scalarOp h

theorem sound_execMaxN32 {f : Fields} (h : Sound s₀ s) : SoundOut s₀ (execMaxN32 f s) := sound_scalarOp h

theorem sound_execAbs {f : Fields} (h : Sound s₀ s) : SoundOut s₀ (execAbs f s) := sound_scalarOp h

theorem sound_execNeg {f : Fields} (h : Sound s₀ s) : SoundOut s₀ (execNeg f s) := sound_scalarOp h

theorem sound_execPset {f : Fields} (h : Sound s₀ s) : SoundOut s₀ (execPset f s) := sound_issue h (fun _ _ h1 => SoundExcFst.pair h1)

theorem sound_execPget {f : Fields} (h : Sound s₀ s) : SoundOut s₀ (execPget f s) := sound_scalarOp h

theorem sound_execTst {f : Fields} (h : Sound s₀ s) : SoundOut s₀ (execTst f s) := sound_scalarOp h

theorem sound_execLea {f : Fields} (h : Sound s₀ s) : SoundOut s₀ (execLea f s) := sound_scalarOp h

/-! ## Machine/Vector -/

theorem sound_vecOp {i : Instr} {f : Fields} {useB : Bool} {useD : Bool} {fn : Opnds → Word → Word → Word → Word × BitVec 6} (h :
    Sound s₀ s) : SoundOut s₀ (vecOp i f s useB useD fn) := sound_issue h (fun _ _ h1 => SoundExcFst.pair h1)

theorem sound_execVadd {f : Fields} (h : Sound s₀ s) : SoundOut s₀ (execVadd f s) := sound_vecOp h

theorem sound_execVsub {f : Fields} (h : Sound s₀ s) : SoundOut s₀ (execVsub f s) := sound_vecOp h

theorem sound_execVmul {f : Fields} (h : Sound s₀ s) : SoundOut s₀ (execVmul f s) := sound_vecOp h

theorem sound_execVfma {f : Fields} (h : Sound s₀ s) : SoundOut s₀ (execVfma f s) := sound_vecOp h

theorem sound_execVmin {f : Fields} (h : Sound s₀ s) : SoundOut s₀ (execVmin f s) := sound_vecOp h

theorem sound_execVmax {f : Fields} (h : Sound s₀ s) : SoundOut s₀ (execVmax f s) := sound_vecOp h

theorem sound_execVcmp {f : Fields} (h : Sound s₀ s) : SoundOut s₀ (execVcmp f s) := sound_vecOp h

theorem sound_execVsel {f : Fields} (h : Sound s₀ s) : SoundOut s₀ (execVsel f s) := sound_vecOp h

theorem sound_execVand {f : Fields} (h : Sound s₀ s) : SoundOut s₀ (execVand f s) := sound_vecOp h

theorem sound_execVor {f : Fields} (h : Sound s₀ s) : SoundOut s₀ (execVor f s) := sound_vecOp h

theorem sound_execVxor {f : Fields} (h : Sound s₀ s) : SoundOut s₀ (execVxor f s) := sound_vecOp h

theorem sound_execVshl {f : Fields} (h : Sound s₀ s) : SoundOut s₀ (execVshl f s) := sound_vecOp h

theorem sound_execVshr {f : Fields} (h : Sound s₀ s) : SoundOut s₀ (execVshr f s) := sound_vecOp h

theorem sound_execVcvt {f : Fields} (h : Sound s₀ s) : SoundOut s₀ (execVcvt f s) := sound_vecOp h

theorem sound_execVscale {f : Fields} (h : Sound s₀ s) : SoundOut s₀ (execVscale f s) := sound_vecOp h

theorem sound_execVdot {f : Fields} (h : Sound s₀ s) : SoundOut s₀ (execVdot f s) := sound_issue h (fun _ _ h1 => SoundExcFst.pair h1)

theorem sound_vecLoad {i : Instr} {f : Fields} {ea : Opnds → Elem → Nat → Except Word Word} (h : Sound s₀ s) :
    SoundOut s₀ (vecLoad i f s ea) := by
  unfold vecLoad
  refine sound_issue h (fun _ _ h1 => ?_)
  dsimp only
  split
  · exact SoundExcFst.pair h1
  · split
    · exact SoundExcFst.error
    · exact SoundExcFst.pair h1

theorem sound_vecStore {i : Instr} {f : Fields} {ea : Opnds → Elem → Nat → Except Word Word} (h : Sound s₀ s) :
    SoundOut s₀ (vecStore i f s ea) := by
  unfold vecStore
  refine sound_issue h (fun _ _ h1 => ?_)
  dsimp only
  split
  · exact SoundExcFst.pair h1
  · split
    · exact SoundExcFst.error
    · refine SoundExcFst.pair (Sound.foldl h1 (fun _ _ h2 => ?_))
      split
      · exact sound_setLsWord h2
      · exact h2

theorem sound_execVld {f : Fields} (h : Sound s₀ s) : SoundOut s₀ (execVld f s) := sound_vecLoad h

theorem sound_execVst {f : Fields} (h : Sound s₀ s) : SoundOut s₀ (execVst f s) := sound_vecStore h

theorem sound_execVldx {f : Fields} (h : Sound s₀ s) : SoundOut s₀ (execVldx f s) := sound_vecLoad h

theorem sound_execVstx {f : Fields} (h : Sound s₀ s) : SoundOut s₀ (execVstx f s) := sound_vecStore h

theorem sound_execVbcast {f : Fields} (h : Sound s₀ s) : SoundOut s₀ (execVbcast f s) := sound_issue h (fun _ _ h1 => SoundExcFst.pair h1)

theorem sound_execVext {f : Fields} (h : Sound s₀ s) : SoundOut s₀ (execVext f s) := sound_issue h (fun _ _ h1 => SoundExcFst.pair h1)

theorem sound_execVins {f : Fields} (h : Sound s₀ s) : SoundOut s₀ (execVins f s) := sound_issue h (fun _ _ h1 => SoundExcFst.pair h1)

theorem sound_execVperm {f : Fields} (h : Sound s₀ s) : SoundOut s₀ (execVperm f s) := sound_issue h (fun _ _ h1 => SoundExcFst.pair h1)

theorem sound_reduceOp {i : Instr} {f : Fields} {ident : Word} {fn : Opnds → Word → Word → Word × BitVec 6} (h : Sound s₀ s) :
    SoundOut s₀ (reduceOp i f s ident fn) := by
  unfold reduceOp
  refine sound_issue h (fun _ _ h1 => ?_)
  split
  · exact SoundExcFst.pair h1
  · dsimp only
    split
    · exact SoundExcFst.pair h1
    · exact SoundExcFst.pair h1

theorem sound_execVredAdd {f : Fields} (h : Sound s₀ s) : SoundOut s₀ (execVredAdd f s) := sound_reduceOp h

theorem sound_execVredMax {f : Fields} (h : Sound s₀ s) : SoundOut s₀ (execVredMax f s) := sound_reduceOp h

theorem sound_execVredMin {f : Fields} (h : Sound s₀ s) : SoundOut s₀ (execVredMin f s) := sound_reduceOp h

theorem sound_execVscan {f : Fields} (h : Sound s₀ s) : SoundOut s₀ (execVscan f s) := by
  unfold execVscan
  refine sound_issue h (fun _ _ h1 => ?_)
  split
  · exact SoundExcFst.pair h1
  · exact SoundExcFst.pair h1

theorem sound_execVpack {f : Fields} (h : Sound s₀ s) : SoundOut s₀ (execVpack f s) := sound_issue h (fun _ _ h1 => SoundExcFst.pair h1)

theorem sound_execVunpk {f : Fields} (h : Sound s₀ s) : SoundOut s₀ (execVunpk f s) := sound_issue h (fun _ _ h1 => SoundExcFst.pair h1)

theorem sound_execVout {f : Fields} (h : Sound s₀ s) : SoundOut s₀ (execVout f s) := sound_issue h (fun _ _ h1 => SoundExcFst.pair h1)

theorem sound_execVin {f : Fields} (h : Sound s₀ s) : SoundOut s₀ (execVin f s) := by
  unfold execVin
  refine sound_issue h (fun _ _ h1 => ?_)
  split
  · exact SoundExcFst.pair h1
  · exact SoundExcFst.pair h1

/-! ## Machine/GlobalMem -/

theorem sound_makeEntry {n : NodeRef} {opc : BitVec 8} {va : BitVec 56} {ws : List PWord} (h : Sound s₀ s) :
    Sound s₀ (makeEntry s n opc va ws) := by
  unfold makeEntry
  exact sound_updEl (sound_request h)

theorem sound_awaitRequest {o : Opnds} {va : BitVec 56} {op : Op} {fwd : List (Option PWord)} {acquire : optParam Bool false} (h :
    Sound s₀ s) : Sound s₀ (awaitRequest s o va op fwd acquire).1 := sound_request h

theorem sound_loadWith {o : Opnds} {va : BitVec 56} {n : Nat} {acquire : Bool} {res : List PWord → Result} (h : Sound s₀ s) :
    Sound s₀ (loadWith s o va n acquire res).1 := by
  unfold loadWith
  dsimp only
  split
  · split
    · exact h
    · exact sound_awaitRequest h
  · split
    · exact h
    · exact sound_awaitRequest h

theorem sound_scalarLoad {i : Instr} {f : Fields} {go : State → Opnds → BitVec 56 → State × Done} (h : Sound s₀ s)
    (hgo : ∀ t x0 x1, Sound s₀ t → Sound s₀ (go t x0 x1).1) : SoundOut s₀ (scalarLoad i f s go) := by
  unfold scalarLoad
  refine sound_issue h (fun _ _ h1 => ?_)
  split
  · exact SoundExcFst.pair h1
  · exact SoundExcFst.ok (hgo _ _ _ h1)

theorem sound_execGld {f : Fields} (h : Sound s₀ s) : SoundOut s₀ (execGld f s) := sound_scalarLoad h (fun _ _ _ h1 => sound_loadWith h1)

theorem sound_execGldA {f : Fields} (h : Sound s₀ s) : SoundOut s₀ (execGldA f s) := sound_scalarLoad h (fun _ _ _ h1 => sound_loadWith h1)

theorem sound_execPld {f : Fields} (h : Sound s₀ s) : SoundOut s₀ (execPld f s) :=
  sound_scalarLoad h (fun _ _ _ h1 => sound_awaitRequest h1)

theorem sound_execPprb {f : Fields} (h : Sound s₀ s) : SoundOut s₀ (execPprb f s) :=
  sound_scalarLoad h (fun _ _ _ h1 => sound_awaitRequest h1)

theorem sound_vectorLoad {i : Instr} {f : Fields} {go : State → Opnds → BitVec 56 → State × Done} (h : Sound s₀ s)
    (hgo : ∀ t x0 x1, Sound s₀ t → Sound s₀ (go t x0 x1).1) : SoundOut s₀ (vectorLoad i f s go) := by
  unfold vectorLoad
  refine sound_issue h (fun _ _ h1 => ?_)
  split
  · exact SoundExcFst.pair h1
  · exact SoundExcFst.ok (hgo _ _ _ h1)

theorem sound_execGldv {f : Fields} (h : Sound s₀ s) : SoundOut s₀ (execGldv f s) := sound_vectorLoad h (fun _ _ _ h1 => sound_loadWith h1)

theorem sound_execGldvP {f : Fields} (h : Sound s₀ s) : SoundOut s₀ (execGldvP f s) :=
  sound_vectorLoad h (fun _ _ _ h1 => sound_awaitRequest h1)

theorem sound_storeWith {i : Instr} {f : Fields} {data : State → Opnds → List PWord} (h : Sound s₀ s) :
    SoundOut s₀ (storeWith i f s data) := by
  unfold storeWith
  refine sound_issue h (fun _ _ h1 => ?_)
  split
  · exact SoundExcFst.pair h1
  · exact SoundExcFst.pair h1

theorem sound_storeAtS4 {i : Instr} {o : Opnds} {ws : List PWord} (h : Sound s₀ s) : Sound s₀ (storeAtS4 i o ws s).1 := by
  unfold storeAtS4
  split
  · exact h
  · exact sound_makeEntry h

theorem sound_execGst {f : Fields} (h : Sound s₀ s) : SoundOut s₀ (execGst f s) := sound_storeWith h

theorem sound_execGstv {f : Fields} (h : Sound s₀ s) : SoundOut s₀ (execGstv f s) := sound_storeWith h

theorem sound_endRelease {n : NodeRef} {act : ReleaseAct} (h : Sound s₀ s) : Sound s₀ (endRelease s n act) := by
  unfold endRelease
  split
  · exact sound_complete (sound_makeEntry h)
  · exact sound_complete h
  · exact sound_complete h

theorem sound_flushReads {n : NodeRef} (h : Sound s₀ s) : Sound s₀ (flushReads s n).2 := by
  unfold flushReads
  refine Sound.foldl_snd h (fun _ _ h1 => ?_)
  split
  · split
    · exact sound_request h1
    · exact h1
  · split
    · exact sound_request h1
    · exact h1

theorem sound_goOnRelease {n : NodeRef} {act : ReleaseAct} {flush : Bool} (h : Sound s₀ s) : Sound s₀ (goOnRelease s n act flush) :=
  Sound.ite (sound_updNd (sound_flushReads h) (fun _ h1 => h1)) (sound_endRelease h)

theorem sound_releaseEvent {n : NodeRef} {id : Nat} (h : Sound s₀ s) : Sound s₀ (releaseEvent s n id) := by
  unfold releaseEvent
  split
  · exact h
  · split
    · exact Sound.ite (Sound.ite (sound_goOnRelease (sound_updNd h (fun _ h1 => h1))) (sound_updNd h (fun _ h2 => h2))) h
    · exact h

theorem sound_startRelease {o : Opnds} {scope : Nat} {act : ReleaseAct} (h : Sound s₀ s) : SoundOptFst s₀ (startRelease s o scope act) := by
  unfold startRelease
  dsimp only
  split
  · split
    · exact SoundOptFst.pair (sound_flushReads h)
    · exact SoundOptFst.none
  · exact SoundOptFst.pair h

theorem sound_execGstL {f : Fields} (h : Sound s₀ s) : SoundOut s₀ (execGstL f s) := by
  unfold execGstL
  refine sound_issue h (fun _ _ h1 => ?_)
  split
  · exact SoundExcFst.pair h1
  · dsimp only
    split
    · refine SoundExcFst.ok ((?_ : SoundOptFst s₀ _) _ ‹_›)
      split
      · exact SoundOptFst.none
      · exact sound_startRelease h1
    · exact SoundExcFst.pair h1

theorem sound_execFence {f : Fields} (h : Sound s₀ s) : SoundOut s₀ (execFence f s) := by
  unfold execFence
  refine sound_issue h (fun _ _ h1 => ?_)
  dsimp only
  split
  · refine SoundExcFst.ok ((?_ : SoundOptFst s₀ _) _ ‹_›)
    split
    · exact SoundOptFst.none
    · exact sound_startRelease h1
  · exact SoundExcFst.pair h1

theorem sound_useLatch {o : Opnds} {i : Instr} {va : BitVec 56} {op : Op} {code rm : Nat} {a b : PWord} {own : Option OwnedBy}
    {after : List Nat}
    (h : Sound s₀ s) : Sound s₀ (useLatch s o i va op code rm a b own after).1 := by
  unfold useLatch
  extract_lets seq t r
  have ht : Sound s₀ t := sound_updNd h fun _ h1 => h1
  clear_value t
  exact Sound.ask (r := r) ht rfl

theorem sound_atomicAccess {o : Opnds} {i : Instr} {va : BitVec 56} {op : Op} {code : Nat} {rm : Nat} {a : PWord} {b : PWord} (h :
    Sound s₀ s) : Sound s₀ (atomicAccess s o i va op code rm a b).1 := sound_useLatch h

theorem sound_execAupd {f : Fields} (h : Sound s₀ s) : SoundOut s₀ (execAupd f s) := by
  unfold execAupd
  refine sound_issue h (fun _ _ h1 => ?_)
  split
  · exact SoundExcFst.pair h1
  · exact SoundExcFst.ok (sound_atomicAccess h1)

theorem sound_execAfet {f : Fields} (h : Sound s₀ s) : SoundOut s₀ (execAfet f s) := by
  unfold execAfet
  refine sound_issue h (fun _ _ h1 => ?_)
  split
  · exact SoundExcFst.pair h1
  · exact SoundExcFst.ok (sound_atomicAccess h1)

theorem sound_execAcas {f : Fields} (h : Sound s₀ s) : SoundOut s₀ (execAcas f s) := by
  unfold execAcas
  refine sound_issue h (fun _ _ h1 => ?_)
  split
  · exact SoundExcFst.pair h1
  · split
    · exact SoundExcFst.pair h1
    · exact SoundExcFst.ok (sound_atomicAccess h1)

theorem sound_execPst {f : Fields} (h : Sound s₀ s) : SoundOut s₀ (execPst f s) := by
  unfold execPst
  refine sound_issue h (fun _ _ h1 => ?_)
  split
  · exact SoundExcFst.pair h1
  · exact SoundExcFst.ok (sound_useLatch h1)

theorem sound_execPclr {f : Fields} (h : Sound s₀ s) : SoundOut s₀ (execPclr f s) := by
  unfold execPclr
  refine sound_issue h (fun _ _ h1 => ?_)
  split
  · exact SoundExcFst.pair h1
  · split
    · exact SoundExcFst.pair h1
    · exact SoundExcFst.ok (sound_useLatch h1)

theorem sound_execGstvP {f : Fields} (h : Sound s₀ s) : SoundOut s₀ (execGstvP f s) := by
  unfold execGstvP
  refine sound_issue h (fun _ _ h1 => ?_)
  split
  · exact SoundExcFst.pair h1
  · exact SoundExcFst.ok (sound_useLatch h1)

theorem sound_completeLatch {n : NodeRef} {a : Answer} (h : Sound s₀ s) : Sound s₀ (completeLatch s n a) := by
  unfold completeLatch
  split
  · exact h
  · split
    · exact h
    · exact sound_complete (sound_updNd h (fun _ h1 => h1))

theorem sound_holdReply {n : NodeRef} {a : Answer} (h : Sound s₀ s) : Sound s₀ (holdReply s n a) := by
  unfold holdReply
  exact sound_updNd h (fun _ h1 => h1)

theorem sound_reopenLatch {n : NodeRef} (h : Sound s₀ s) : SoundOpt s₀ (reopenLatch s n) := by
  unfold reopenLatch
  split
  · exact SoundOpt.none
  · split
    · exact SoundOpt.some (sound_updNd (sound_claim h) (fun _ h1 => h1))
    · exact SoundOpt.none

theorem sound_resendLatch {n : NodeRef} (h : Sound s₀ s) : Sound s₀ (resendLatch s n) := by
  unfold resendLatch
  split
  · exact h
  · exact sound_setReq h

theorem sound_queryLatch {n : NodeRef} (h : Sound s₀ s) : Sound s₀ (queryLatch s n) := by
  unfold queryLatch
  exact sound_updNd ((h.ask rfl).same rfl) (fun _ h1 => h1)

theorem sound_performRearm {from_ : NodeRef} {a : Word} (h : Sound s₀ s) : Sound s₀ (performRearm s from_ a).1 := by
  unfold performRearm
  dsimp only
  split
  · exact h
  · split
    · exact h
    · split
      · exact h
      · split
        · exact h
        · split
          · exact sound_resendLatch ((sound_reopenLatch h) _ ‹_›)
          · split
            · exact sound_completeLatch ((sound_reopenLatch h) _ ‹_›)
            · exact sound_queryLatch (sound_updNd ((sound_reopenLatch h) _ ‹_›) (fun _ h1 => h1))

theorem sound_execXrearm {f : Fields} (h : Sound s₀ s) : SoundOut s₀ (execXrearm f s) := by
  unfold execXrearm
  refine sound_issue h (fun _ _ h1 => ?_)
  split
  · exact SoundExcFst.pair h1
  · exact SoundExcFst.ok (sound_askUnit h1)

theorem sound_sendReply {e : ElemRef} {x : InboxEntry} {old : PWord} (h : Sound s₀ s) : Sound s₀ (sendReply s e x old) := h.bump.same rfl

theorem sound_execAapl {f : Fields} (h : Sound s₀ s) : SoundOut s₀ (execAapl f s) := by
  unfold execAapl
  refine sound_issue h (fun _ _ h1 => ?_)
  split
  · exact SoundExcFst.pair h1
  · dsimp only
    split
    · exact SoundExcFst.pair h1
    · split
      · exact SoundExcFst.error
      · exact SoundExcFst.pair (Sound.ite (sound_sendReply (sound_updEl (sound_setLsWord h1))) (sound_updEl (sound_setLsWord h1)))

end Sys2Proof.Machine
end

section
/-! SUPPORT. `Sound` through the custom cells, the engines and the pod (O8, O9). -/

namespace Sys2Proof.Machine
open Sys2Proof.Claims

variable {s₀ s t : State} {nd : Node}

/-! ## Machine/Custom -/

theorem sound_cxTrap {o : Opnds} {i : Instr} {c : BitVec 4} {x : DWord} {ent : DWord} (h : Sound s₀ s) :
    Sound s₀ (cxTrap s o i c x ent).1 := sound_sendTrap (sound_unclaim h)

theorem sound_execCx {code : BitVec 4} {f : Fields} (h : Sound s₀ s) : SoundOut s₀ (execCx code f s) := by
  unfold execCx
  refine sound_issue h (fun _ _ h1 => ?_)
  dsimp only
  split
  · exact SoundExcFst.error
  · split
    · split
      · exact SoundExcFst.ok (sound_cxTrap h1)
      · exact SoundExcFst.error
    · split
      · exact SoundExcFst.error
      · exact SoundExcFst.pair (sound_updEl h1)

theorem sound_execCxld {f : Fields} (h : Sound s₀ s) : SoundOut s₀ (execCxld f s) := by
  unfold execCxld
  refine sound_issue h (fun _ _ h1 => ?_)
  split
  · exact SoundExcFst.pair h1
  · dsimp only
    split
    · exact SoundExcFst.pair h1
    · split
      · exact SoundExcFst.error
      · split
        · exact SoundExcFst.pair h1
        · exact SoundExcFst.ok (sound_awaitRequest h1)

theorem sound_finishLoad {n : NodeRef} {c : BitVec 4} {ws : List PWord} (h : Sound s₀ s) : Sound s₀ (finishLoad s n c ws).1 := by
  unfold finishLoad
  dsimp only
  split
  · exact h
  · exact h
  · exact sound_setEl h

theorem sound_execCxul {f : Fields} (h : Sound s₀ s) : SoundOut s₀ (execCxul f s) := by
  unfold execCxul
  refine sound_issue h (fun _ _ h1 => ?_)
  split
  · exact SoundExcFst.pair h1
  · exact SoundExcFst.pair h1

theorem sound_cxulAtS4 {o : Opnds} (h : Sound s₀ s) : Sound s₀ (cxulAtS4 o s).1 := Sound.ite (sound_updEl h) h

theorem sound_execCxq {f : Fields} (h : Sound s₀ s) : SoundOut s₀ (execCxq f s) := by
  unfold execCxq
  refine sound_issue h (fun _ _ h1 => ?_)
  split
  · exact SoundExcFst.pair h1
  · exact SoundExcFst.pair h1

/-! ## Machine/Engine -/

theorem sound_barAllocate {die : BitVec 4} {st : Stamp} {n : Word} (h : Sound s₀ s) : Sound s₀ (barAllocate s die st n).1 := by
  unfold barAllocate
  dsimp only
  split
  · split
    · exact h
    · exact sound_setBarrier h
  · exact h

theorem sound_barRelease {die : BitVec 4} {st : Stamp} {a2 : Word} (h : Sound s₀ s) : Sound s₀ (barRelease s die st a2).1 := by
  unfold barRelease
  split
  · exact h
  · dsimp only
    split
    · exact sound_setBarrier h
    · exact h

theorem sound_releaseWaits {die : BitVec 4} {i : Nat} (h : Sound s₀ s) : Sound s₀ (releaseWaits s die i) := by
  unfold releaseWaits
  refine Sound.foldl h (fun _ _ h1 => ?_)
  split
  · exact h1
  · exact Sound.ite (sound_setBarrier (sound_answer (sound_dropReq h1))) h1

theorem sound_poolArrival {die : BitVec 4} {i : Nat} {n : Nat} (h : Sound s₀ s) : Sound s₀ (poolArrival s die i n).1 := by
  unfold poolArrival
  dsimp only
  split
  · exact sound_releaseWaits (sound_setBarrier h)
  · exact sound_setBarrier h

theorem sound_poolArrive {die : BitVec 4} {st : Stamp} {a2 : Word} {n : Word} (h : Sound s₀ s) : Sound s₀ (poolArrive s die st a2 n).1 := by
  unfold poolArrive
  split
  · exact h
  · split
    · exact h
    · exact sound_poolArrival h

theorem sound_poolTest {r : Req} {wait : Bool} {a2 : Word} {q : BitVec 16} {st : Bool} (h : Sound s₀ s) :
    SoundPerf s₀ r (poolTest s r wait a2 q st) := by
  unfold poolTest
  dsimp only
  split
  · exact SoundPerf.done h
  · split
    · exact SoundPerf.done h
    · split
      · exact SoundPerf.defer (sound_setBarrier h) rfl
      · exact SoundPerf.wait

theorem sound_setEng {die : BitVec 4} {kind : Nat} {n : Nat} {x : Engine} (h : Sound s₀ s) : Sound s₀ (s.setEng die kind n x) :=
  sound_updDie h

theorem sound_leaseEngine {die : BitVec 4} {st : Stamp} {a : Word} {b : Word} (h : Sound s₀ s) : Sound s₀ (leaseEngine s die st a b).1 := by
  unfold leaseEngine
  dsimp only
  split
  · exact h
  · exact sound_setEng h

theorem sound_releaseLease {die : BitVec 4} {st : Stamp} {a2 : Word} (h : Sound s₀ s) : Sound s₀ (releaseLease s die st a2).1 := by
  unfold releaseLease
  split
  · exact h
  · exact sound_setEng h

theorem sound_engineCommand {die : BitVec 4} {st : Stamp} {opc : BitVec 8} {a3 : Word} {desc : List Word} (h : Sound s₀ s) :
    Sound s₀ (engineCommand s die st opc a3 desc).1 := by
  unfold engineCommand
  dsimp only
  split
  · exact h
  · split
    · exact h
    · split
      · split
        · exact h
        · split
          · exact h
          · exact sound_setEng h
      · split
        · exact h
        · split
          · exact h
          · dsimp only
            split
            · exact sound_setBarrier (sound_setEng h)
            · exact sound_setEng h

theorem sound_askAfter {o : Opnds} {op : Op} {after : List Nat} (h : Sound s₀ s) : Sound s₀ (askAfter s o op after).1 := sound_request h

theorem sound_unitOp {i : Instr} {f : Fields} {go : State → Opnds → Except FaultInfo (State × Done)} (h : Sound s₀ s)
    (hgo : ∀ t x0, Sound s₀ t → SoundExcFst s₀ (go t x0)) : SoundOut s₀ (unitOp i f s go) := by
  unfold unitOp
  refine sound_issue h (fun _ _ h1 => ?_)
  split
  · exact SoundExcFst.pair h1
  · exact hgo _ _ h1

theorem sound_sendDescriptor {i : Instr} {f : Fields} {op : Opnds → List Word → Op} (h : Sound s₀ s) :
    SoundOut s₀ (sendDescriptor i f s op) := by
  unfold sendDescriptor
  refine sound_unitOp h (fun _ _ h1 => ?_)
  split
  · exact SoundExcFst.error
  · split
    · exact SoundExcFst.pair h1
    · exact SoundExcFst.ok (sound_askUnit h1)

theorem sound_execStrm {f : Fields} (h : Sound s₀ s) : SoundOut s₀ (execStrm f s) := sound_sendDescriptor h

theorem sound_execStrmq {f : Fields} (h : Sound s₀ s) : SoundOut s₀ (execStrmq f s) :=
  sound_unitOp h (fun _ _ h1 => SoundExcFst.ok (sound_askUnit h1))

theorem sound_execStrmqCan {f : Fields} (h : Sound s₀ s) : SoundOut s₀ (execStrmqCan f s) :=
  sound_unitOp h (fun _ _ h1 => SoundExcFst.ok (sound_askUnit h1))

theorem sound_execCntb {f : Fields} (h : Sound s₀ s) : SoundOut s₀ (execCntb f s) := by
  unfold execCntb
  refine sound_unitOp h (fun _ _ h1 => ?_)
  dsimp only
  split
  · exact SoundExcFst.pair h1
  · exact SoundExcFst.pair (sound_updEl h1)

theorem sound_execBalc {f : Fields} (h : Sound s₀ s) : SoundOut s₀ (execBalc f s) :=
  sound_unitOp h (fun _ _ h1 => SoundExcFst.ok (sound_askUnit h1))

theorem sound_execBfre {f : Fields} (h : Sound s₀ s) : SoundOut s₀ (execBfre f s) :=
  sound_unitOp h (fun _ _ h1 => SoundExcFst.ok (sound_askUnit h1))

theorem sound_execBarv {f : Fields} (h : Sound s₀ s) : SoundOut s₀ (execBarv f s) :=
  sound_unitOp h (fun _ _ h1 => SoundExcFst.ok (sound_askAfter h1))

theorem sound_barrierWordOp {i : Instr} {f : Fields} {go : State → Opnds → BitVec 56 → State × Done} (h : Sound s₀ s)
    (hgo : ∀ t x0 x1, Sound s₀ t → Sound s₀ (go t x0 x1).1) : SoundOut s₀ (barrierWordOp i f s go) := by
  unfold barrierWordOp
  refine sound_issue h (fun _ _ h1 => ?_)
  split
  · exact SoundExcFst.pair h1
  · split
    · exact SoundExcFst.pair h1
    · exact SoundExcFst.ok (hgo _ _ _ h1)

theorem sound_execBarvW {f : Fields} (h : Sound s₀ s) : SoundOut s₀ (execBarvW f s) :=
  sound_barrierWordOp h (fun _ _ _ h1 => sound_useLatch h1)

theorem sound_execBwt {f : Fields} (h : Sound s₀ s) : SoundOut s₀ (execBwt f s) :=
  sound_unitOp h (fun _ _ h1 => SoundExcFst.ok (sound_askUnit h1))

theorem sound_execBwtW {f : Fields} (h : Sound s₀ s) : SoundOut s₀ (execBwtW f s) :=
  sound_barrierWordOp h (fun _ _ _ h1 => sound_awaitRequest h1)

theorem sound_execBtry {f : Fields} (h : Sound s₀ s) : SoundOut s₀ (execBtry f s) :=
  sound_unitOp h (fun _ _ h1 => SoundExcFst.ok (sound_askUnit h1))

theorem sound_execBtryW {f : Fields} (h : Sound s₀ s) : SoundOut s₀ (execBtryW f s) :=
  sound_barrierWordOp h (fun _ _ _ h1 => sound_awaitRequest h1)

theorem sound_execEcpy {f : Fields} (h : Sound s₀ s) : SoundOut s₀ (execEcpy f s) := sound_sendDescriptor h

theorem sound_execEcmp {f : Fields} (h : Sound s₀ s) : SoundOut s₀ (execEcmp f s) := sound_sendDescriptor h

theorem sound_execEdcp {f : Fields} (h : Sound s₀ s) : SoundOut s₀ (execEdcp f s) := sound_sendDescriptor h

theorem sound_execEcol {f : Fields} (h : Sound s₀ s) : SoundOut s₀ (execEcol f s) := sound_sendDescriptor h

theorem sound_execCjoin {f : Fields} (h : Sound s₀ s) : SoundOut s₀ (execCjoin f s) := sound_issue h (fun _ _ h1 => SoundExcFst.pair h1)

theorem sound_execLease {f : Fields} (h : Sound s₀ s) : SoundOut s₀ (execLease f s) :=
  sound_unitOp h (fun _ _ h1 => SoundExcFst.ok (sound_askUnit h1))

theorem sound_execLrel {f : Fields} (h : Sound s₀ s) : SoundOut s₀ (execLrel f s) :=
  sound_unitOp h (fun _ _ h1 => SoundExcFst.ok (sound_askUnit h1))

theorem sound_execMbar {f : Fields} (h : Sound s₀ s) : SoundOut s₀ (execMbar f s) :=
  sound_barrierWordOp h (fun _ _ _ h1 => sound_useLatch h1)

/-! ## Machine/Pod -/

theorem sound_makePodEntry {n : NodeRef} {opc : BitVec 8} {va : BitVec 56} {m : BitVec 10} {ws : List PWord} (h : Sound s₀ s) :
    Sound s₀ (makePodEntry s n opc va m ws) := by
  unfold makePodEntry
  exact sound_updEl (sound_request h)

theorem sound_podStore {i : Instr} {f : Fields} {data : State → Opnds → List PWord} (h : Sound s₀ s) :
    SoundOut s₀ (podStore i f s data) := by
  unfold podStore
  refine sound_issue h (fun _ _ h1 => ?_)
  split
  · exact SoundExcFst.pair h1
  · split
    · exact SoundExcFst.pair h1
    · exact SoundExcFst.pair h1

theorem sound_podStoreAtS4 {i : Instr} {o : Opnds} {ws : List PWord} (h : Sound s₀ s) : Sound s₀ (podStoreAtS4 i o ws s).1 := by
  unfold podStoreAtS4
  split
  · exact h
  · exact sound_makePodEntry h

theorem sound_execXst {f : Fields} (h : Sound s₀ s) : SoundOut s₀ (execXst f s) := sound_podStore h

theorem sound_execXstv {f : Fields} (h : Sound s₀ s) : SoundOut s₀ (execXstv f s) := sound_podStore h

theorem sound_execXsig {f : Fields} (h : Sound s₀ s) : SoundOut s₀ (execXsig f s) := by
  unfold execXsig
  refine sound_issue h (fun _ _ h1 => ?_)
  split
  · exact SoundExcFst.pair h1
  · split
    · exact SoundExcFst.pair h1
    · exact SoundExcFst.ok (sound_useLatch h1)

theorem sound_execXld {f : Fields} (h : Sound s₀ s) : SoundOut s₀ (execXld f s) := by
  unfold execXld
  refine sound_issue h (fun _ _ h1 => ?_)
  split
  · exact SoundExcFst.pair h1
  · split
    · exact SoundExcFst.pair h1
    · exact SoundExcFst.ok (sound_awaitRequest h1)

theorem sound_execXwait {f : Fields} (h : Sound s₀ s) : SoundOut s₀ (execXwait f s) := by
  unfold execXwait
  refine sound_issue h (fun _ _ h1 => ?_)
  split
  · exact SoundExcFst.pair h1
  · split
    · exact SoundExcFst.pair h1
    · exact SoundExcFst.ok (sound_awaitRequest h1)

theorem sound_execXfen {f : Fields} (h : Sound s₀ s) : SoundOut s₀ (execXfen f s) := by
  unfold execXfen
  refine sound_issue h (fun _ _ h1 => ?_)
  dsimp only
  split
  · exact SoundExcFst.pair h1
  · exact SoundExcFst.pair h1

theorem sound_sendPod {r : Req} {m : BitVec 10} (h : Sound s₀ s) : Sound s₀ (sendPod s r m).1 := by
  unfold sendPod
  split
  · split
    · exact sound_setReq (h.same rfl)
    · exact h
  · exact h

theorem sound_tellPeer {m : BitVec 10} {n : NodeRef} {seq : BitVec 8} {va : BitVec 56} {op : PodOp} (h : Sound s₀ s) :
    Sound s₀ (tellPeer s m n seq va op) := by
  unfold tellPeer
  split
  · exact h
  · exact h.same rfl

theorem sound_peerAnswer {r : Req} {m : BitVec 10} (h : Sound s₀ s) : Sound s₀ (peerAnswer s r m).1 := by
  unfold peerAnswer
  dsimp only
  split
  · exact sound_free (sound_free h)
  · split
    · exact sound_free (sound_free h)
    · split
      · exact sound_free (sound_free h)
      · exact sound_free (sound_free h)
      · exact sound_free (sound_free h)

end Sys2Proof.Machine
end

section
/-! SUPPORT. `Sound` through partitions, the network and the requests on their way (O8, O9). -/

namespace Sys2Proof.Machine
open Sys2Proof.Claims

variable {s₀ s t : State} {nd : Node}

/-! ## Machine/Partition -/

theorem sound_usePart {p : BitVec 5} {a : Nat} {n : Nat} {k : BitVec 13} {write : optParam Bool false} (h : Sound s₀ s) :
    Sound s₀ (s.usePart p a n k write) := by
  unfold State.usePart
  refine Sound.foldl h (fun _ _ h1 => ?_)
  dsimp only
  split
  · refine sound_useLine ?_
    split
    · exact Sound.ite (Sound.foldl h1 (fun _ _ h2 => sound_useLine h2)) h1
    · exact h1
  · split
    · exact Sound.ite (Sound.foldl h1 (fun _ _ h3 => sound_useLine h3)) h1
    · exact h1

theorem sound_writePart {p : BitVec 5} {a : Nat} {k : BitVec 13} {bs : List Byte} (h : Sound s₀ s) :
    Sound s₀ (s.writePart p a k bs).1 := by
  unfold State.writePart
  refine Sound.foldl_fst (sound_usePart h) (fun _ _ h1 => ?_)
  split
  · exact sound_storeByteUnder h1
  · exact h1

theorem sound_signal {fn : BitVec 12} {vec : Nat} (h : Sound s₀ s) : Sound s₀ (s.signal fn vec) := Sound.ite h (sound_updHport h)

theorem sound_logRepeat {part : BitVec 5} {n : Nat} (h : Sound s₀ s) : Sound s₀ (logRepeat s part n) := by
  suffices hf : ∀ f, f = logRepeat → Sound s₀ (f s part n) from hf _ rfl
  intro f hf
  delta logRepeat at hf
  subst hf
  exact sound_writePart (sound_setPt h)

theorem sound_logEvent {part : BitVec 5} {origin : Word} {cause : BitVec 8} {die : BitVec 5} (h : Sound s₀ s) :
    Sound s₀ (logEvent s part origin cause die) :=
  Sound.ite (Sound.ite (sound_writePart (sound_signal (sound_setPt h))) (sound_logRepeat h)) h

theorem sound_logDie {part : BitVec 5} {origin : Word} {cause : BitVec 8} {die : BitVec 4} (h : Sound s₀ s) :
    Sound s₀ (logDie s part origin cause die) := sound_logEvent h

theorem sound_deliver {rid : Nat} {a1 : TileRef} {p : BitVec 4} {tok : Token} (h : Sound s₀ s) : Sound s₀ (deliver s rid a1 p tok) :=
  Sound.ite (Sound.ite (sound_logDie (sound_setRg h (by split <;> rfl))) (sound_setRg h (by split <;> rfl))) h

theorem sound_setTask {d : BitVec 4} {i : Nat} {a2 : Task} (h : Sound s₀ s) : Sound s₀ (s.setTask d i a2) := sound_updDie h

theorem sound_updTask {d : BitVec 4} {i : Nat} {f : Task → Task} (h : Sound s₀ s) : Sound s₀ (s.updTask d i f) := sound_setTask h

theorem sound_queueTouch {die : BitVec 4} {q : QSlot} {va : Nat} {n : Nat} {write : Bool} (h : Sound s₀ s) :
    Sound s₀ (s.queueTouch die q va n write).1 := by
  unfold State.queueTouch
  refine Sound.foldl (sound_walkNow h) (fun _ _ h1 => ?_)
  split
  · exact sound_unitUses h1
  · exact h1

theorem sound_queueWrite {die : BitVec 4} {q : QSlot} {va : Nat} {ws : List Word} (h : Sound s₀ s) :
    Sound s₀ (s.queueWrite die q va ws).1 := by
  unfold State.queueWrite
  refine Sound.foldl_fst h (fun _ _ h1 => ?_)
  split
  · exact sound_homeStore h1
  · exact h1

theorem sound_updQreg {fn : BitVec 12} {q : BitVec 6} {f : QReg → QReg} (h : Sound s₀ s) : Sound s₀ (s.updQreg fn q f) := h.same rfl

theorem sound_regError {fn : BitVec 12} {q : BitVec 6} {reason : Nat} (h : Sound s₀ s) : Sound s₀ (regError s fn q reason) := by
  unfold regError
  split
  · exact h
  · exact Sound.ite h (sound_signal (sound_writePart (sound_updDie (sound_updQreg h))))

theorem sound_queueError {die : BitVec 4} {slot : Nat} {reason : Nat} (h : Sound s₀ s) : Sound s₀ (queueError s die slot reason) :=
  Sound.ite (sound_regError h) h

/-! ## Machine/Net -/

theorem sound_injectTokens {e : Edge} {ts : List Token} (h : Sound s₀ s) : Sound s₀ (injectTokens s e ts) := h.same rfl

theorem sound_goHome {r : Req} {q : Place} (h : Sound s₀ s) : Sound s₀ (goHome s r q) := by
  unfold goHome
  dsimp only
  split
  · exact sound_setReq h
  · exact (sound_setReq h).same rfl

theorem sound_latchLeaves {r : Req} (h : Sound s₀ s) : Sound s₀ (latchLeaves s r) := by
  unfold latchLeaves
  split
  · exact sound_updNd h (fun _ h1 => h1)
  · exact h

theorem reqs_latchLeaves {r : Req} : (latchLeaves s r).reqs = s.reqs := by
  unfold latchLeaves
  split <;> rfl

theorem sound_launchMessages (h : Sound s₀ s) : Sound s₀ (launchMessages s) := by
  unfold launchMessages
  have h1 : Sound s₀ ((s.reqs.filter (fun r => r.leaving && mayLeave s r)).foldl latchLeaves s) := Sound.foldl h fun _ _ h =>
    sound_latchLeaves h
  have hr : ((s.reqs.filter (fun r => r.leaving && mayLeave s r)).foldl latchLeaves s).reqs = s.reqs :=
    foldl_keeps (v := State.reqs) (g := latchLeaves) (fun _ _ => reqs_latchLeaves) _ _
  refine (h1.withReqs (rs := s.reqs.map fun r => if r.leaving && mayLeave s r then departed s r else r) ?_).same rfl
  rw [State.reqIds, hr, List.map_map, List.map_congr_left (g := Req.id) fun r _ => ?_]
  dsimp only [Function.comp]
  split <;> rfl

theorem sound_launchCredits (h : Sound s₀ s) : Sound s₀ (launchCredits s) := by
  unfold launchCredits
  refine Sound.foldl h (fun _ _ h1 => ?_)
  dsimp only
  split
  · exact h1
  · split
    · exact sound_updNd (h1.same rfl) (fun _ h3 => h3)
    · exact sound_updTl (h1.same rfl)
    · exact h1.same rfl

theorem sound_enterWaiting (h : Sound s₀ s) : Sound s₀ (enterWaiting s) := h.same rfl

theorem sound_logStale {d : BitVec 4} {p : BitVec 5} (h : Sound s₀ s) : Sound s₀ (logStale s d p) := sound_logDie h

theorem sound_arriveDec {m : DecMsg} (h : Sound s₀ s) : Sound s₀ (arriveDec s m) :=
  Sound.ite ((h.same rfl).same rfl) (Sound.ite ((h.same rfl).same rfl) (sound_logStale (h.same rfl)))

theorem sound_arriveFlit {f : Flit} (h : Sound s₀ s) : Sound s₀ (arriveFlit s f) := by
  unfold arriveFlit
  split
  · split
    · exact sound_updEd h
    · exact h
  · exact Sound.ite (sound_updEd h) h
  · split
    · exact sound_arriveDec h
    · exact h
  · exact h
  · exact Sound.ite h (sound_updNd h (fun _ h1 => ordered_enterCi h1))

theorem sound_moveFlit {f : Flit} (h : Sound s₀ s) : Sound s₀ (moveFlit s f) := by
  unfold moveFlit
  extract_lets fs out s1 s2
  have h1 : Sound s₀ s1 := h.same rfl
  have h2 : Sound s₀ s2 := by
    unfold s2
    split
    · exact sound_updRg h1 fun _ => rfl
    · exact h1
  clear_value s2
  split
  · exact Sound.ite (h2.same rfl) (sound_arriveFlit h2)
  · exact h2.same rfl

theorem sound_moveNet (h : Sound s₀ s) : Sound s₀ (moveNet s) := Sound.foldl h (fun _ _ h1 => sound_moveFlit h1)

theorem sound_settleCredits (h : Sound s₀ s) : Sound s₀ (settleCredits s) := h.same rfl

theorem sound_netTick (h : Sound s₀ s) : Sound s₀ (netTick s) :=
  sound_moveNet (sound_enterWaiting (sound_launchMessages (sound_launchCredits (sound_settleCredits h))))

theorem sound_dropFlits (h : Sound s₀ s) : Sound s₀ (dropFlits s) := h.same rfl

/-! ## Machine/Requests -/

theorem sound_execLongOperationComplete {n : NodeRef} (h : Sound s₀ s) : SoundOut s₀ (execLongOperationComplete n s) := by
  unfold execLongOperationComplete
  refine SoundOut.next ?_
  split
  · split
    · exact Sound.ite (sound_complete h) h
    · exact h
  · exact h

theorem sound_refuseReq {r : Req} {fi : FaultInfo} (h : Sound s₀ s) : Sound s₀ (refuseReq s r fi) := sound_answer (sound_setReq h)

theorem sound_passPort {r : Req} (h : Sound s₀ s) : Sound s₀ (passPort s r) := by
  unfold passPort
  split
  · exact sound_refuseReq h
  · split
    · exact sound_refuseReq h
    · split
      · exact sound_refuseReq h
      · split
        · exact h
        · split
          · exact sound_setReq h
          · exact sound_goHome h

theorem sound_startWalks (h : Sound s₀ s) : Sound s₀ (startWalks s) :=
  Sound.foldl h (fun _ _ h1 => Sound.foldl h1 (fun _ _ h2 => sound_startWalk h2))

theorem sound_takeAnswer {n : NodeRef} {p : Resp} {f : Fields} {i : Instr} (h : Sound s₀ s) : Sound s₀ (takeAnswer s n p f i) := by
  unfold takeAnswer
  split
  · exact sound_faultInFlight h
  · split
    · exact sound_complete (sound_finishLoad h)
    · exact sound_complete h

theorem sound_flushDone {n : NodeRef} {id : Nat} {south : Bool} (h : Sound s₀ s) : Sound s₀ (flushDone s n id south) :=
  sound_releaseEvent (sound_updNd h (fun _ h1 => h1))

theorem sound_execMemoryResponse {id : Nat} (h : Sound s₀ s) : SoundOut s₀ (execMemoryResponse id s) := by
  unfold execMemoryResponse
  refine SoundOut.next ?_
  split
  · exact h
  · split
    · dsimp only
      split
      · exact sound_flushDone (sound_dropResp h)
      · split
        · exact Sound.ite (sound_takeAnswer (sound_dropResp h)) (sound_dropResp h)
        · exact sound_dropResp h
      · exact sound_dropResp h
    · exact h

theorem sound_storeDone {e : ElemRef} {pod : Bool} {p : Resp} (h : Sound s₀ s) : Sound s₀ (storeDone s e pod p) := by
  unfold storeDone
  dsimp only
  split
  · exact sound_dropResp h
  · exact sound_releaseEvent (sound_updNd (sound_updEl (sound_dropResp h)) (fun _ h1 => h1))

theorem sound_execStoreAck {id : Nat} (h : Sound s₀ s) : SoundOut s₀ (execStoreAck id s) := by
  unfold execStoreAck
  refine SoundOut.next ?_
  split
  · exact h
  · split
    · exact h
    · split
      · exact sound_storeDone h
      · exact sound_storeDone h
      · exact h

theorem sound_storeRefused {e : ElemRef} {pod : Bool} {p : Resp} {fi : FaultInfo} (h : Sound s₀ s) :
    Sound s₀ (storeRefused s e pod p fi) := by
  unfold storeRefused
  dsimp only
  split
  · exact sound_dropReq (sound_dropResp h)
  · exact Sound.ite (sound_updEl (sound_dropReq (sound_dropResp h))) (sound_faultFromOutside (sound_updEl (((sound_dropResp h).mapReqs (fun
      _ => by split <;> rfl)).same rfl)))

theorem sound_execStoreRefusal {id : Nat} (h : Sound s₀ s) : SoundOut s₀ (execStoreRefusal id s) := by
  unfold execStoreRefusal
  refine SoundOut.next ?_
  split
  · exact h
  · split
    · exact sound_storeRefused h
    · exact sound_storeRefused h
    · exact h

theorem sound_acknowledge {id : Nat} (h : Sound s₀ s) : Sound s₀ (acknowledge s id) := h.same rfl

theorem sound_remakeLatch {n : NodeRef} (h : Sound s₀ s) : Sound s₀ (remakeLatch s n) := (h.ask rfl).same rfl

theorem sound_notTaken {n : NodeRef} (h : Sound s₀ s) : Sound s₀ (notTaken s n) := by
  unfold notTaken
  dsimp only
  split
  · exact sound_setReq (sound_updNd h (fun _ h1 => ordered_setLatchBit h1))
  · exact sound_remakeLatch (sound_updNd h (fun _ h2 => ordered_setLatchBit h2))

theorem sound_latchAnswer {n : NodeRef} {a : Answer} (h : Sound s₀ s) : Sound s₀ (latchAnswer s n a) := by
  unfold latchAnswer
  dsimp only
  split
  · exact sound_notTaken h
  · split
    · exact Sound.ite (sound_completeLatch h) (Sound.ite (Sound.ite (sound_faultInFlight (sound_holdReply h)) (sound_holdReply h))
        (Sound.ite (sound_faultInFlight (sound_updNd h (fun _ h3 => ordered_setLatchBit h3))) (sound_updNd h (fun _ h4 =>
        ordered_setLatchBit h4))))
    · exact Sound.ite (sound_completeLatch h) (sound_holdReply h)

theorem sound_execLatchReply {id : Nat} (h : Sound s₀ s) : SoundOut s₀ (execLatchReply id s) := by
  unfold execLatchReply
  refine SoundOut.next ?_
  split
  · exact h
  · split
    · dsimp only
      split
      · exact Sound.ite (sound_latchAnswer (Sound.ite (sound_tellPeer (sound_acknowledge (sound_dropResp h))) (sound_acknowledge
          (sound_dropResp h)))) (Sound.ite (sound_tellPeer (sound_acknowledge (sound_dropResp h))) (sound_acknowledge (sound_dropResp h)))
      · exact Sound.ite (sound_latchAnswer (sound_acknowledge (sound_dropResp h))) (sound_acknowledge (sound_dropResp h))
    · exact h

theorem sound_execLatchTimeout {n : NodeRef} (h : Sound s₀ s) : SoundOut s₀ (execLatchTimeout n s) :=
  SoundOut.next (Sound.ite (sound_faultInFlight h) h)

theorem sound_execRecoveryQuery {id : Nat} (h : Sound s₀ s) : SoundOut s₀ (execRecoveryQuery id s) := by
  unfold execRecoveryQuery
  refine SoundOut.next ?_
  split
  · exact h
  · split
    · dsimp only
      split
      · exact (sound_dropReq h).same rfl
      · split
        · exact h
        · split
          · exact Sound.ite ((sound_dropReq (sound_free (sound_tellPeer h))).same rfl) ((sound_dropReq (sound_peerAnswer (sound_free
              (sound_tellPeer h)))).same rfl)
          · exact (sound_dropReq h).same rfl
    · exact h

theorem sound_execReplyAcknowledgement {id : Nat} (h : Sound s₀ s) : SoundOut s₀ (execReplyAcknowledgement id s) :=
  SoundOut.next (h.same rfl)

theorem sound_answerUpdate {e : ElemRef} {n : NodeRef} {seq : BitVec 8} {r : Req} (h : Sound s₀ s) :
    Sound s₀ (answerUpdate s e n seq r) := Sound.same (s := s.answer r {}) (sound_answer h) rfl

theorem sound_execInboxEntry {id : Nat} (h : Sound s₀ s) : SoundOut s₀ (execInboxEntry id s) := by
  unfold execInboxEntry
  refine SoundOut.next ?_
  split
  · exact h
  · split
    · exact Sound.ite (Sound.ite (sound_refuseReq h) (Sound.ite (sound_dropReq h) (Sound.ite (Sound.ite (sound_updEl (sound_dropReq h))
        (sound_answerUpdate (sound_updEl (sound_dropReq h)))) h))) h
    · exact h

end Sys2Proof.Machine
end

section
/-! SUPPORT. `Sound` through domains, residues and the matrix section (O8, O9). -/

namespace Sys2Proof.Machine
open Sys2Proof.Claims

variable {s₀ s t : State} {nd : Node}

/-! ## Machine/Domain -/

theorem sound_execPark {f : Fields} (h : Sound s₀ s) : SoundOut s₀ (execPark f s) := sound_issue h (fun _ _ h1 => SoundExcFst.pair h1)

theorem sound_parkAtS3 {n : NodeRef} {fl : InFlight} {due : Nat} (h : Sound s₀ s) : Sound s₀ (parkAtS3 s n fl due) :=
  sound_updNd h (fun _ h1 => Node.Ordered.ite h1 h1)

theorem sound_releaseParked {n : NodeRef} (h : Sound s₀ s) : SoundOpt s₀ (releaseParked s n) := by
  unfold releaseParked
  split
  · split
    · exact SoundOpt.some (sound_updNd h (fun _ h1 => h1))
    · exact SoundOpt.some (sound_updNd h (fun _ h2 => h2))
    · exact SoundOpt.none
  · exact SoundOpt.none

theorem sound_wakeAtS4 {o : Opnds} (h : Sound s₀ s) : Sound s₀ (wakeAtS4 o s).1 := by
  unfold wakeAtS4
  dsimp only
  split
  · exact (sound_releaseParked h) _ ‹_›
  · dsimp only
    exact sound_updNd h (fun _ h1 => h1)

theorem sound_execWake {f : Fields} (h : Sound s₀ s) : SoundOut s₀ (execWake f s) := by
  unfold execWake
  refine sound_issue h (fun _ _ h1 => ?_)
  split
  · exact SoundExcFst.pair h1
  · dsimp only
    split
    · exact SoundExcFst.error
    · exact SoundExcFst.pair h1

theorem sound_lintel {i : Instr} {f : Fields} {last : Bool} (h : Sound s₀ s) : SoundOut s₀ (lintel i f last s) := by
  unfold lintel
  refine sound_issue h (fun _ _ h1 => ?_)
  dsimp only
  split
  · exact SoundExcFst.error
  · split
    · exact SoundExcFst.error
    · exact SoundExcFst.pair (Sound.ite (sound_updNd (sound_updEl h1) (fun _ h2 => h2)) (sound_updEl h1))

theorem sound_lintelAtS4 {last : Bool} {o : Opnds} (h : Sound s₀ s) : Sound s₀ (lintelAtS4 last o s).1 := by
  unfold lintelAtS4
  dsimp only
  split
  · split
    · dsimp only
      exact sound_updNd (sound_updEl (sound_updNd h (fun _ h1 => ordered_enterCi h1))) (fun _ h2 => h2)
    · exact sound_updNd h (fun _ h3 => ordered_enterCi h3)
  · exact h

theorem sound_execLntl {f : Fields} (h : Sound s₀ s) : SoundOut s₀ (execLntl f s) := sound_lintel h

theorem sound_execLntlLast {f : Fields} (h : Sound s₀ s) : SoundOut s₀ (execLntlLast f s) := sound_lintel h

theorem sound_gretAtS4 {o : Opnds} (h : Sound s₀ s) : Sound s₀ (gretAtS4 o s).1 := by
  unfold gretAtS4
  dsimp only
  split
  · exact h
  · dsimp only
    exact sound_updNd (sound_setEl h) (fun _ h1 => ordered_setCo h1)

theorem sound_execGret {f : Fields} (h : Sound s₀ s) : SoundOut s₀ (execGret f s) := by
  unfold execGret
  refine sound_issue h (fun _ _ h1 => ?_)
  split
  · exact SoundExcFst.error
  · exact SoundExcFst.pair h1

theorem sound_execDid {f : Fields} (h : Sound s₀ s) : SoundOut s₀ (execDid f s) := by
  unfold execDid
  refine sound_issue h (fun _ _ h1 => ?_)
  dsimp only
  split
  · exact SoundExcFst.pair h1
  · split
    · exact SoundExcFst.pair h1
    · split
      · exact SoundExcFst.error
      · exact SoundExcFst.pair h1

theorem sound_dpartAtS4 {o : Opnds} (h : Sound s₀ s) : Sound s₀ (dpartAtS4 o s).1 := by
  unfold dpartAtS4
  dsimp only
  split
  · exact h
  · exact sound_setEl h

theorem sound_execDpart {f : Fields} (h : Sound s₀ s) : SoundOut s₀ (execDpart f s) := by
  unfold execDpart
  refine sound_issue h (fun _ _ h1 => ?_)
  split
  · exact SoundExcFst.pair h1
  · exact SoundExcFst.pair h1

theorem sound_gateAtS4 {o : Opnds} (h : Sound s₀ s) : Sound s₀ (gateAtS4 o s).1 := by
  unfold gateAtS4
  dsimp only
  split
  · exact h
  · exact sound_setEl h

theorem sound_execGate {f : Fields} (h : Sound s₀ s) : SoundOut s₀ (execGate f s) := by
  unfold execGate
  refine sound_issue h (fun _ _ h1 => ?_)
  split
  · exact SoundExcFst.pair h1
  · exact SoundExcFst.pair h1

theorem sound_suspendAtS4 {susp : Bool} {o : Opnds} (h : Sound s₀ s) : Sound s₀ (suspendAtS4 susp o s).1 := by
  unfold suspendAtS4
  dsimp only
  split
  · exact h
  · dsimp only
    exact sound_updEl h

theorem sound_suspend {i : Instr} {f : Fields} (h : Sound s₀ s) : SoundOut s₀ (suspend i f s) := by
  unfold suspend
  refine sound_issue h (fun _ _ h1 => ?_)
  split
  · exact SoundExcFst.pair h1
  · exact SoundExcFst.pair h1

theorem sound_execIspz {f : Fields} (h : Sound s₀ s) : SoundOut s₀ (execIspz f s) := sound_suspend h

theorem sound_execUnpz {f : Fields} (h : Sound s₀ s) : SoundOut s₀ (execUnpz f s) := sound_suspend h

/-! ## Machine/Residue -/

theorem sound_execRncv {f : Fields} (h : Sound s₀ s) : SoundOut s₀ (execRncv f s) := sound_scalarOp h

theorem sound_execRnct {f : Fields} (h : Sound s₀ s) : SoundOut s₀ (execRnct f s) := sound_scalarOp h

theorem sound_execRnadd {f : Fields} (h : Sound s₀ s) : SoundOut s₀ (execRnadd f s) := sound_scalarOp h

theorem sound_execRnsub {f : Fields} (h : Sound s₀ s) : SoundOut s₀ (execRnsub f s) := sound_scalarOp h

theorem sound_execRnmul {f : Fields} (h : Sound s₀ s) : SoundOut s₀ (execRnmul f s) := sound_scalarOp h

theorem sound_execRnmac {f : Fields} (h : Sound s₀ s) : SoundOut s₀ (execRnmac f s) := sound_scalarOp h

theorem sound_execRnneg {f : Fields} (h : Sound s₀ s) : SoundOut s₀ (execRnneg f s) := sound_scalarOp h

theorem sound_execVrncv {f : Fields} (h : Sound s₀ s) : SoundOut s₀ (execVrncv f s) := sound_vecOp h

theorem sound_execVrnct {f : Fields} (h : Sound s₀ s) : SoundOut s₀ (execVrnct f s) := sound_issue h (fun _ _ h1 => SoundExcFst.pair h1)

theorem sound_execVrnmac {f : Fields} (h : Sound s₀ s) : SoundOut s₀ (execVrnmac f s) := sound_vecOp h

theorem sound_execVrndot {f : Fields} (h : Sound s₀ s) : SoundOut s₀ (execVrndot f s) := sound_vecOp h

/-! ## Machine/Matrix -/

theorem sound_lanePush {sideB : Bool} {l : Nat} {x : KItem} {a : LaneEnd} (h : Sound s₀ s) : Sound s₀ (lanePush s sideB l x a) := by
  unfold lanePush
  split
  · exact sound_updEl h
  · exact sound_updTl h

theorem sound_forwardItem {e : ElemRef} {sideB : Bool} {x : KItem} (h : Sound s₀ s) : Sound s₀ (forwardItem s e sideB x) := by
  unfold forwardItem
  split
  · split
    · exact sound_lanePush h
    · exact h
  · exact h

theorem sound_touchRegion {e : ElemRef} (h : Sound s₀ s) : Sound s₀ (touchRegion s e) := by
  unfold touchRegion
  split
  · exact sound_updRg h (fun _ => rfl)
  · exact h

theorem sound_execKvalueEnter {e : ElemRef} (h : Sound s₀ s) : SoundOut s₀ (execKvalueEnter e s) :=
  SoundOut.next (Sound.ite (sound_touchRegion (sound_updEl (sound_forwardItem (sound_forwardItem h)))) h)

theorem sound_execRelayForward {l : RelayPlace} {sideB : Bool} (h : Sound s₀ s) : SoundOut s₀ (execRelayForward l sideB s) := by
  unfold execRelayForward
  refine SoundOut.next ?_
  split
  · dsimp only
    split
    · exact h
    · exact Sound.ite (sound_forwardItem (sound_updEl h)) h
  · split
    · exact h
    · split
      · split
        · split
          · exact h
          · dsimp only
            split
            · exact sound_lanePush (sound_updTl h)
            · exact sound_updTl h
        · exact h
      · split
        · split
          · exact h
          · dsimp only
            split
            · exact sound_lanePush (sound_updTl h)
            · exact sound_updTl h
        · exact h

theorem sound_execTileComplete {e : ElemRef} (h : Sound s₀ s) : SoundOut s₀ (execTileComplete e s) :=
  SoundOut.next (Sound.ite (sound_updEl h) h)

theorem sound_execDrainTokenSend {e : ElemRef} (h : Sound s₀ s) : SoundOut s₀ (execDrainTokenSend e s) := by
  unfold execDrainTokenSend
  refine SoundOut.next ?_
  dsimp only
  split
  · exact h
  · exact Sound.ite (sound_updEl (sound_updNd h (fun _ h1 => ordered_setCo h1))) h

theorem sound_passMark {e : ElemRef} {sideB : Bool} {w : Word} (h : Sound s₀ s) : Sound s₀ (passMark s e sideB w) := by
  unfold passMark
  exact sound_updEl (sound_forwardItem h)

theorem sound_execMatrixMark {e : ElemRef} (h : Sound s₀ s) : SoundOut s₀ (execMatrixMark e s) := by
  unfold execMatrixMark
  refine SoundOut.next ?_
  split
  · exact sound_passMark h
  · exact sound_passMark h
  · exact h

theorem sound_matrixOp {i : Instr} {f : Fields} {body : Opnds → State → Except FaultInfo (State × Done)} (h : Sound s₀ s)
    (hbody : ∀ x0 t, Sound s₀ t → SoundExcFst s₀ (body x0 t)) : SoundOut s₀ (matrixOp i f s body) := by
  unfold matrixOp
  split
  · exact SoundOut.next (sound_faultsAt h)
  · exact sound_issue h (fun _ _ h1 => hbody _ _ h1)

theorem sound_execMcfg {f : Fields} (h : Sound s₀ s) : SoundOut s₀ (execMcfg f s) := by
  unfold execMcfg
  refine sound_issue h (fun _ _ h1 => ?_)
  dsimp only
  split
  · exact SoundExcFst.pair h1
  · split
    · exact SoundExcFst.pair h1
    · split
      · exact SoundExcFst.error
      · split
        · exact SoundExcFst.pair h1
        · exact SoundExcFst.pair h1

theorem sound_mcfgAtS4 {o : Opnds} (h : Sound s₀ s) : Sound s₀ (mcfgAtS4 o s).1 := by
  unfold mcfgAtS4
  dsimp only
  exact sound_updEl h

theorem sound_execMrun {f : Fields} (h : Sound s₀ s) : SoundOut s₀ (execMrun f s) := sound_matrixOp h (fun _ _ h1 => SoundExcFst.pair h1)

theorem sound_mrunAtS4 {o : Opnds} (h : Sound s₀ s) : Sound s₀ (mrunAtS4 o s).1 := by
  unfold mrunAtS4
  dsimp only
  exact sound_updEl h

theorem sound_execMdrain {f : Fields} (h : Sound s₀ s) : SoundOut s₀ (execMdrain f s) :=
  sound_matrixOp h (fun _ _ h1 => SoundExcFst.pair h1)

theorem sound_mdrainAtS4 {o : Opnds} (h : Sound s₀ s) : Sound s₀ (mdrainAtS4 o s).1 := by
  unfold mdrainAtS4
  dsimp only
  exact sound_updEl h

theorem sound_execMclr {f : Fields} (h : Sound s₀ s) : SoundOut s₀ (execMclr f s) := sound_matrixOp h (fun _ _ h1 => SoundExcFst.pair h1)

theorem sound_mclrAtS4 {o : Opnds} (h : Sound s₀ s) : Sound s₀ (mclrAtS4 o s).1 := by
  unfold mclrAtS4
  dsimp only
  exact sound_updEl h

theorem sound_execMldk {f : Fields} (h : Sound s₀ s) : SoundOut s₀ (execMldk f s) := by
  unfold execMldk
  refine sound_matrixOp h (fun _ _ h1 => ?_)
  split
  · exact SoundExcFst.pair h1
  · dsimp only
    split
    · exact SoundExcFst.error
    · exact SoundExcFst.pair h1

theorem sound_mldkAtS4 {o : Opnds} {ws : List PWord} (h : Sound s₀ s) : Sound s₀ (mldkAtS4 o ws s).1 := by
  unfold mldkAtS4
  dsimp only
  exact sound_updEl h

theorem sound_execMstk {f : Fields} (h : Sound s₀ s) : SoundOut s₀ (execMstk f s) := by
  unfold execMstk
  refine sound_matrixOp h (fun _ _ h1 => ?_)
  split
  · exact SoundExcFst.pair h1
  · dsimp only
    split
    · exact SoundExcFst.error
    · exact SoundExcFst.pair (Sound.foldl h1 (fun _ _ h2 => sound_setLsWord h2))

theorem sound_execMshape {f : Fields} (h : Sound s₀ s) : SoundOut s₀ (execMshape f s) := by
  unfold execMshape
  refine sound_matrixOp h (fun _ _ h1 => ?_)
  split
  · exact SoundExcFst.pair h1
  · dsimp only
    split
    · exact SoundExcFst.error
    · split
      · exact SoundExcFst.pair h1
      · split
        · exact SoundExcFst.error
        · exact SoundExcFst.pair h1

theorem sound_mshapeAtS4 {o : Opnds} {ws : List PWord} (h : Sound s₀ s) : Sound s₀ (mshapeAtS4 o ws s).1 := by
  unfold mshapeAtS4
  dsimp only
  exact sound_updEl h

theorem sound_execMpass {f : Fields} (h : Sound s₀ s) : SoundOut s₀ (execMpass f s) := by
  unfold execMpass
  refine sound_issue h (fun _ _ h1 => ?_)
  split
  · exact SoundExcFst.pair h1
  · exact SoundExcFst.pair h1

theorem sound_mpassAtS4 {o : Opnds} (h : Sound s₀ s) : Sound s₀ (mpassAtS4 o s).1 := by
  unfold mpassAtS4
  dsimp only
  exact sound_updEl h

theorem sound_execMstat {f : Fields} (h : Sound s₀ s) : SoundOut s₀ (execMstat f s) := sound_issue h (fun _ _ h1 => SoundExcFst.pair h1)

theorem sound_mstatAtS4 {o : Opnds} (h : Sound s₀ s) : Sound s₀ (mstatAtS4 o s).1 := by
  unfold mstatAtS4
  dsimp only
  split
  · exact h
  · exact Sound.ite (sound_setEl h) h

theorem sound_execMfeed {f : Fields} (h : Sound s₀ s) : SoundOut s₀ (execMfeed f s) := sound_matrixOp h (fun _ _ h1 => SoundExcFst.pair h1)

theorem sound_mfeedAtS4 {o : Opnds} {ls : List PWord} (h : Sound s₀ s) : Sound s₀ (mfeedAtS4 o ls s).1 := sound_setEl h

theorem sound_execMscl {f : Fields} (h : Sound s₀ s) : SoundOut s₀ (execMscl f s) := sound_matrixOp h (fun _ _ h1 => SoundExcFst.pair h1)

theorem sound_msclAtS4 {o : Opnds} {ls : List PWord} (h : Sound s₀ s) : Sound s₀ (msclAtS4 o ls s).1 := by
  unfold msclAtS4
  dsimp only
  exact sound_updEl h

theorem sound_execMfin {f : Fields} (h : Sound s₀ s) : SoundOut s₀ (execMfin f s) := sound_matrixOp h (fun _ _ h1 => SoundExcFst.pair h1)

theorem sound_execMfinAbort {f : Fields} (h : Sound s₀ s) : SoundOut s₀ (execMfinAbort f s) :=
  sound_matrixOp h (fun _ _ h1 => SoundExcFst.pair h1)

theorem sound_mfinAtS4 {abort : Bool} {o : Opnds} (h : Sound s₀ s) : Sound s₀ (mfinAtS4 abort o s).1 := sound_setEl h

end Sys2Proof.Machine
end

section
/-! SUPPORT. `Sound` through channels and streams (O8, O9). -/

namespace Sys2Proof.Machine
open Sys2Proof.Claims

variable {s₀ s t : State} {nd : Node}

/-! ## Machine/Channel -/

theorem Map.get_of_find {α : Type} {m : Map α} {k : Nat} {v d : α} (h : Map.find m k = some v) : Map.get m d k = v := by
  rw [Map.get, h]
  rfl

theorem sound_fire {rid : Nat} (h : Sound s₀ s) : Sound s₀ (fire s rid) := by
  unfold fire
  split
  · next hg => exact sound_setRg h (by rw [State.rg, Map.get_of_find hg])
  · exact h

theorem sound_notePort {p : Port} (h : Sound s₀ s) : Sound s₀ (notePort s p) := by
  unfold notePort
  split
  · exact sound_updEl h
  · exact sound_updTl h
  · exact h

theorem sound_sendOn {e : Edge} {a1 : Token} (h : Sound s₀ s) : Sound s₀ (sendOn s e a1) :=
  sound_fire (sound_injectTokens (sound_setEd (Sound.ite h (sound_notePort h))))

theorem sound_sendReplyToken {n : NodeRef} {k : BitVec 2} {i : Nat} (h : Sound s₀ s) : Sound s₀ (sendReplyToken s n k i) := by
  unfold sendReplyToken
  dsimp only
  split
  · exact h
  · exact Sound.ite h (Sound.ite (sound_updEl (sound_touchRegion (Sound.ite (sound_updNd h (fun _ h1 => ordered_setCo h1)) (sound_updNd
      (sound_updNd h (fun _ h2 => ordered_setCo h2)) (fun _ h3 => ordered_enterCi h3))))) (sound_touchRegion (Sound.ite (sound_updNd h (fun
      _ h4 => ordered_setCo h4)) (sound_updNd (sound_updNd h (fun _ h5 => ordered_setCo h5)) (fun _ h6 => ordered_enterCi h6)))))

theorem sound_sendReturned {n : NodeRef} {m : NodeRef} {k : BitVec 2} (h : Sound s₀ s) : Sound s₀ (sendReturned s n m k) := by
  unfold sendReturned
  dsimp only
  split
  · exact h
  · exact Sound.ite (sound_arriveReturned (sound_touchRegion (sound_updNd h (fun _ h1 => ordered_setCo h1)))) h

theorem sound_sendFromNode {n : NodeRef} {k : BitVec 2} (h : Sound s₀ s) : Sound s₀ (sendFromNode s n k) := by
  unfold sendFromNode
  split
  · exact h
  · split
    · exact h
    · exact Sound.ite (sound_sendOn (sound_updNd h (fun _ h2 => ordered_setCo h2))) h
    · split
      · exact sound_sendReplyToken h
      · split
        · split
          · exact sound_sendReturned h
          · exact h
        · exact h

theorem sound_arrivePort {a0 : TileRef} {p : BitVec 4} {tok : Token} (h : Sound s₀ s) : SoundOpt s₀ (arrivePort s a0 p tok) := by
  unfold arrivePort
  dsimp only
  split
  · exact SoundOpt.some (sound_setTl h)
  · split
    · exact SoundOpt.some (sound_setTl h)
    · split
      · exact SoundOpt.some (sound_setTl h)
      · exact SoundOpt.none

theorem sound_execTokenArrival {e : Nat} (h : Sound s₀ s) : SoundOut s₀ (execTokenArrival e s) := by
  unfold execTokenArrival
  refine SoundOut.next ?_
  split
  · exact h
  · split
    · exact h
    · dsimp only
      split
      · exact Sound.ite (sound_arriveChannel (sound_fire (sound_setEd h))) h
      · exact Sound.ite h (SoundOpt.getD (sound_arrivePort (sound_fire (sound_setEd h))) h)
      · exact h

theorem sound_execCreditReturn {e : Nat} (h : Sound s₀ s) : SoundOut s₀ (execCreditReturn e s) :=
  SoundOut.next (Sound.ite h (sound_fire (sound_setEd h)))

theorem sound_deliverSpace {k : Nat} {b : Nat} (h : Sound s₀ s) : Sound s₀ (deliverSpace s k b) := by
  unfold deliverSpace
  dsimp only
  split
  · exact h
  · split
    · exact h
    · exact Sound.ite (sound_fire (h.same rfl)) h

theorem sound_execBranchSend {k : Nat} {b : Nat} (h : Sound s₀ s) : SoundOut s₀ (execBranchSend k b s) := by
  unfold execBranchSend
  refine SoundOut.next ?_
  split
  · exact sound_deliverSpace h
  · dsimp only
    split
    · exact sound_deliverSpace h
    · exact Sound.ite (sound_sendOn (sound_setFo (sound_deliverSpace h))) (sound_deliverSpace h)

theorem sound_execGatePoisonDelivery {e : ElemRef} {g : BitVec 3} (h : Sound s₀ s) : SoundOut s₀ (execGatePoisonDelivery e g s) := by
  unfold execGatePoisonDelivery
  refine SoundOut.next ?_
  split
  · exact h
  · exact Sound.ite (sound_updNd (sound_setEl h) (fun _ h1 => ordered_enterCi h1)) h

theorem sound_scrubbed {e : ElemRef} {r : Resource} (h : Sound s₀ s) : Sound s₀ (scrubbed s e r) := by
  unfold scrubbed
  split
  · exact sound_clearRange h
  · exact sound_updEl h
  · exact sound_updEl h
  · exact sound_updEl h
  · exact sound_updEl h
  · exact sound_updEl h

theorem sound_execScrubComplete {e : ElemRef} (h : Sound s₀ s) : SoundOut s₀ (execScrubComplete e s) := by
  unfold execScrubComplete
  refine SoundOut.next ?_
  split
  · exact h
  · exact sound_updEl (sound_scrubbed h)

/-! ## Machine/Stream -/

theorem sound_holdBarrier {die : BitVec 4} {st : Stamp} {a2 : Word} (h : Sound s₀ s) : Sound s₀ (holdBarrier s die st a2) := by
  unfold holdBarrier
  split
  · exact sound_setBarrier h
  · exact h

theorem sound_arriveBarrier {die : BitVec 4} {st : Stamp} {a2 : Word} (h : Sound s₀ s) : Sound s₀ (arriveBarrier s die st a2) := by
  unfold arriveBarrier
  split
  · exact sound_setBarrier (sound_poolArrival h)
  · exact h

theorem sound_releaseBarrier {die : BitVec 4} {st : Stamp} {a2 : Word} (h : Sound s₀ s) : Sound s₀ (releaseBarrier s die st a2) := by
  unfold releaseBarrier
  split
  · exact sound_setBarrier h
  · exact h

theorem sound_acceptStream {st : Stamp} {b : Word} {d : List Word} (h : Sound s₀ s) : Sound s₀ (acceptStream s st b d).1 := by
  unfold acceptStream
  dsimp only
  split
  · exact h
  · exact sound_holdBarrier (sound_setTl h)

theorem sound_streamStatus {st : Stamp} {b : Word} {cancel : Bool} (h : Sound s₀ s) : Sound s₀ (streamStatus s st b cancel).1 := by
  unfold streamStatus
  dsimp only
  split
  · exact h
  · split
    · exact Sound.foldl (sound_setTl h) (fun _ _ h1 => sound_releaseBarrier h1)
    · exact h

theorem sound_setTport {a0 : TileRef} {p : BitVec 4} {x : TPort} (h : Sound s₀ s) : Sound s₀ (s.setTport a0 p x) := sound_updTl h

theorem sound_execStreamStart {a0 : TileRef} {p : BitVec 4} (h : Sound s₀ s) : SoundOut s₀ (execStreamStart a0 p s) := by
  unfold execStreamStart
  refine SoundOut.next ?_
  split
  · exact h
  · exact Sound.ite (sound_setTl h) h

theorem sound_heldTrap {st : Stamp} {origin : Word} {opc : BitVec 8} {va : Nat} {write : Bool} {path : Path} (h : Sound s₀ s) : Sound s₀
    (heldTrap s st origin opc va write path) := sound_sendTrap h

theorem sound_portWalk {a0 : TileRef} {st : Stream} {vas : List Nat} (h : Sound s₀ s) : Sound s₀ (portWalk s a0 st vas).1 := by
  unfold portWalk
  split
  · exact sound_unitWalk h
  · exact h

theorem sound_portWaits {a0 : TileRef} {p : BitVec 4} {st : Stream} (h : Sound s₀ s) : Sound s₀ (portWaits s a0 p st) := sound_setTport h

theorem sound_holdStream {a0 : TileRef} {p : BitVec 4} {st : Stream} {va : Nat} {write : Bool} (h : Sound s₀ s) : Sound s₀
    (holdStream s a0 p st va write) := Sound.ite (sound_askHost h) (sound_heldTrap (sound_setTport h))

theorem sound_deferUnit {a0 : TileRef} {p : BitVec 4} {st : Stream} {vas : List Nat} (h : Sound s₀ s) :
    Sound s₀ (deferUnit s a0 p st vas) := Sound.ite h ((h.ask rfl).same rfl)

theorem sound_dropPortReads {a0 : TileRef} {p : BitVec 4} (h : Sound s₀ s) : Sound s₀ (dropPortReads s a0 p) := (h.filterReqs _).same rfl

theorem sound_useUnit {a0 : TileRef} {st : Stream} {vas : List Nat} {write : Bool} (h : Sound s₀ s) :
    Sound s₀ (useUnit s a0 st vas write) := by
  unfold useUnit
  refine Sound.foldl h (fun _ _ h1 => ?_)
  split
  · exact Sound.ite (sound_unitUses (sound_useBankAt h1)) (sound_useBankAt h1)
  · exact h1

theorem sound_finishStream {a0 : TileRef} {p : BitVec 4} {st : Stream} (h : Sound s₀ s) : Sound s₀ (finishStream s a0 p st) :=
  sound_arriveBarrier (Sound.ite (sound_setTport (sound_updTl (sound_setTport h))) (sound_updTl (sound_setTport h)))

theorem sound_readUnit {a0 : TileRef} {p : BitVec 4} {st : Stream} (h : Sound s₀ s) : Sound s₀ (readUnit s a0 p st) := by
  unfold readUnit
  dsimp only
  split
  · exact sound_portWalk h
  · exact sound_holdStream (sound_portWalk h)
  · split
    · exact sound_portWaits (sound_portWalk h)
    · split
      · exact sound_deferUnit (sound_portWalk h)
      · exact sound_fire (sound_setTport (sound_updTl (sound_dropPortReads (sound_useUnit (sound_portWalk h)))))

theorem sound_ackTag {ref : Word} {tenant : BitVec 16} {err : Bool} {n : optParam Nat 1} (h : Sound s₀ s) :
    Sound s₀ (ackTag s ref tenant err n) := Sound.ite h (h.bump.same rfl)

theorem sound_streamStore {a : Nat × BitVec 13 × Bool} {w : PWord} (h : Sound s₀ s) : SoundExc s₀ (streamStore s a w) := by
  unfold streamStore
  split
  · exact SoundExc.error
  · split
    · split
      · exact SoundExc.ok (sound_presStoreWord h)
      · exact SoundExc.error
    · exact SoundExc.ok (sound_homeStore h)

theorem sound_writeAll {t : TileRef} {st : Stream} {psn : Option Word} {l : List (Nat × Nat × Nat × Nat)} (h : Sound s₀ s) :
    SoundExc s₀ (writeAll s t st psn l) := by
  induction l generalizing s with
  | nil => exact SoundExc.ok h
  | cons x xs ih =>
    unfold writeAll
    split
    · exact SoundExc.error
    · split
      · exact SoundExc.error
      · exact ih ((sound_streamStore h) _ ‹_›)

theorem sound_writeTaken {a0 : TileRef} {p : BitVec 4} {i : Nat} {st : Stream} (h : Sound s₀ s) : Sound s₀ (writeTaken s a0 p i st) :=
  Sound.ite (sound_finishStream (sound_fire (sound_setTport (sound_updTl h)))) (sound_fire (sound_setTport (sound_updTl h)))

theorem sound_writeToken {a0 : TileRef} {p : BitVec 4} {st : Stream} {tok : Token} (h : Sound s₀ s) :
    Sound s₀ (writeToken s a0 p st tok) := by
  unfold writeToken
  dsimp only
  split
  · split
    · exact sound_writeTaken h
    · split
      · split
        · exact sound_portWalk h
        · split
          · exact sound_portWaits (sound_portWalk h)
          · split
            · exact sound_writeTaken (sound_ackTag (sound_useUnit (sound_deliver ((sound_writeAll (sound_portWalk h)) _ ‹_›))))
            · exact Sound.ite (sound_holdStream (sound_portWalk h)) (sound_writeTaken (sound_ackTag (sound_portWalk h)))
      · split
        · exact sound_portWalk h
        · split
          · exact sound_portWaits (sound_portWalk h)
          · split
            · exact sound_writeTaken (sound_ackTag (sound_useUnit (sound_deliver ((sound_writeAll (sound_portWalk h)) _ ‹_›))))
            · exact Sound.ite (sound_holdStream (sound_portWalk h)) (sound_writeTaken (sound_ackTag (sound_portWalk h)))
  · split
    · split
      · exact sound_portWalk h
      · split
        · exact sound_portWaits (sound_portWalk h)
        · split
          · exact sound_writeTaken (sound_useUnit ((sound_writeAll (sound_portWalk h)) _ ‹_›))
          · exact Sound.ite (sound_holdStream (sound_portWalk h)) (sound_writeTaken (sound_portWalk h))
    · exact Sound.ite (sound_writeTaken h) (sound_writeTaken h)

theorem sound_readStep {a0 : TileRef} {p : BitVec 4} {st : Stream} (h : Sound s₀ s) : Sound s₀ (readStep s a0 p st) := by
  unfold readStep
  dsimp only
  split
  · exact sound_portWalk h
  · exact sound_holdStream (sound_portWalk h)
  · split
    · exact sound_portWaits (sound_portWalk h)
    · split
      · exact sound_deferUnit (sound_portWalk h)
      · exact sound_fire (sound_setTport (sound_dropPortReads (sound_useUnit (sound_portWalk h))))

theorem sound_injectLane {a0 : TileRef} {p : BitVec 4} {st : Stream} {sideB : Bool} (h : Sound s₀ s) :
    Sound s₀ (injectLane s a0 p st sideB) := by
  unfold injectLane
  split
  · exact h
  · split
    · exact h
    · exact Sound.ite (sound_fire (sound_lanePush (sound_setTport h))) h

theorem sound_fifoToken {a0 : TileRef} {p : BitVec 4} {st : Stream} {tok : Token} (h : Sound s₀ s) :
    Sound s₀ (fifoToken s a0 p st tok) := Sound.ite h (Sound.ite (sound_fire (sound_useBankAt (sound_setTl h))) (sound_portWaits h))

theorem sound_popFifo {a0 : TileRef} {b : Nat} (h : Sound s₀ s) : Sound s₀ (popFifo s a0 b) := sound_useBankAt (sound_setTl h)

theorem sound_lineToken {a0 : TileRef} {p : BitVec 4} {st : Stream} {tok : Token} (h : Sound s₀ s) :
    Sound s₀ (lineToken s a0 p st tok) := by
  unfold lineToken
  exact Sound.ite (sound_portWaits h) (Sound.ite (sound_fire (sound_useBankAt (sound_setTport h))) (Sound.ite (sound_fire (sound_useBankAt
    (sound_setTport h))) h))

theorem sound_quoinStep {a0 : TileRef} {p : BitVec 4} {st : Stream} (h : Sound s₀ s) : Sound s₀ (quoinStep s a0 p st) := by
  unfold quoinStep
  dsimp only
  split
  · exact Sound.ite (sound_setTport h) h
  · split
    · exact h
    · exact Sound.ite (sound_fire (sound_setTport h)) (Sound.ite (Sound.ite (sound_fire (sound_setTport h)) (sound_fire (sound_setTport h)))
        (Sound.ite (sound_fire (sound_setTport h)) (sound_fire (sound_setTport h))))

theorem sound_execQuoinEmit {a0 : TileRef} {p : BitVec 4} (h : Sound s₀ s) : SoundOut s₀ (execQuoinEmit a0 p s) := by
  unfold execQuoinEmit
  refine SoundOut.next ?_
  split
  · exact Sound.ite (sound_quoinStep h) h
  · exact h

theorem sound_streamStep {a0 : TileRef} {p : BitVec 4} {st : Stream} (h : Sound s₀ s) : Sound s₀ (streamStep s a0 p st) := by
  unfold streamStep
  dsimp only
  split
  · exact Sound.ite h (Sound.ite (sound_finishStream h) (Sound.ite (sound_readUnit h) h))
  · split
    · split
      · exact h
      · exact Sound.ite (sound_writeToken h) h
    · split
      · exact Sound.ite (sound_injectLane h) (Sound.ite (sound_finishStream h) (sound_readStep h))
      · split
        · exact h
        · exact Sound.ite (sound_fifoToken h) (Sound.ite (sound_lineToken h) h)

theorem sound_execStreamEmit {a0 : TileRef} {p : BitVec 4} (h : Sound s₀ s) : SoundOut s₀ (execStreamEmit a0 p s) := by
  unfold execStreamEmit
  refine SoundOut.next ?_
  split
  · exact Sound.ite (Sound.ite (sound_injectLane h) h) (Sound.ite (sound_streamStep h) h)
  · exact h

theorem sound_portHead {a0 : TileRef} {p : BitVec 4} (h : Sound s₀ s) : SoundOptSnd s₀ (portHead s a0 p) := by
  unfold portHead
  dsimp only
  split
  · split
    · exact SoundOptSnd.none
    · split
      · split
        · exact SoundOptSnd.none
        · split
          · exact SoundOptSnd.pair (sound_popFifo h)
          · exact SoundOptSnd.none
      · split
        · exact SoundOptSnd.none
        · split
          · exact SoundOptSnd.none
          · split
            · exact SoundOptSnd.none
            · exact SoundOptSnd.pair (sound_setTport (Sound.ite (sound_useBankAt h) h))
  · split
    · exact SoundOptSnd.none
    · split
      · exact SoundOptSnd.none
      · split
        · split
          · exact SoundOptSnd.none
          · exact SoundOptSnd.pair (sound_setTport h)
        · exact SoundOptSnd.none

theorem sound_sendOutput {rid : Nat} {a1 : TileRef} {p : BitVec 4} {i : Nat} (h : Sound s₀ s) : Sound s₀ (sendOutput s rid a1 p i) := by
  unfold sendOutput
  split
  · exact h
  · dsimp only
    split
    · exact sound_fire (sound_deliver ((sound_portHead h) _ ‹_›))
    · exact Sound.ite h (sound_fire (sound_deliver ((sound_portHead h) _ ‹_›)))
    · split
      · exact sound_fire (sound_deliver ((sound_portHead h) _ ‹_›))
      · exact Sound.ite (sound_fire (sound_sendOn (sound_deliver ((sound_portHead h) _ ‹_›)))) h

theorem sound_sendFromPort {a0 : TileRef} {p : BitVec 4} (h : Sound s₀ s) : Sound s₀ (sendFromPort s a0 p) := by
  unfold sendFromPort
  dsimp only
  split
  · split
    · exact (sound_portHead h) _ ‹_›
    · exact h
  · split
    · exact sound_sendOutput h
    · split
      · split
        · exact sound_sendOn ((sound_portHead h) _ ‹_›)
        · exact h
      · exact h
    · exact h

theorem sound_execTokenSend {p : Port} (h : Sound s₀ s) : SoundOut s₀ (execTokenSend p s) := by
  unfold execTokenSend
  refine SoundOut.next ?_
  split
  · exact sound_sendFromNode h
  · exact sound_sendFromPort h
  · exact h

theorem sound_execFanoutCopy {k : Nat} (h : Sound s₀ s) : SoundOut s₀ (execFanoutCopy k s) := by
  unfold execFanoutCopy
  refine SoundOut.next ?_
  split
  · split
    · split
      · exact h
      · exact sound_fire (sound_setFo (sound_notePort (sound_updNd h (fun _ h2 => ordered_setCo h2))))
    · split
      · exact h
      · refine sound_fire (sound_setFo (sound_notePort ((?_ : SoundOptSnd s₀ _) _ ‹_›)))
        split
        · exact SoundOptSnd.none
        · exact sound_portHead h
    · exact h
  · exact h

theorem sound_execTagAck {id : Nat} (h : Sound s₀ s) : SoundOut s₀ (execTagAck id s) := by
  unfold execTagAck
  refine SoundOut.next ?_
  split
  · exact h
  · exact Sound.ite h (Sound.ite (sound_logDie (h.same rfl)) (Sound.ite (sound_logDie (h.same rfl)) (sound_updEl (h.same rfl))))

theorem sound_execTagToken {e : ElemRef} {tag : BitVec 4} (h : Sound s₀ s) : SoundOut s₀ (execTagToken e tag s) :=
  SoundOut.next (Sound.ite (sound_touchRegion (sound_updNd (sound_updEl h) (fun _ h1 => ordered_enterCi h1))) h)

/-! ## Machine/EngineRun -/

theorem sound_setEngAt {x : EngRef} {e : Engine} (h : Sound s₀ s) : Sound s₀ (s.setEngAt x e) := sound_setEng h

theorem sound_engUses {x : EngRef} {c : EngCmd} {va : Nat} {write : Bool} (h : Sound s₀ s) : Sound s₀ (engUses s x c va write) := by
  unfold engUses
  split
  · exact sound_useBankAt (sound_unitUses h)
  · exact h

theorem sound_engWrite {x : EngRef} {c : EngCmd} {va : Nat} {w : PWord} (ht : Sound s₀ t) : SoundExc s₀ (engWrite s t x c va w) := by
  unfold engWrite
  split
  · exact SoundExc.error
  · exact sound_unitStore ht

theorem sound_copySources {x : EngRef} {c : EngCmd} {srcs : List Nat} (h : Sound s₀ s) : Sound s₀ (copySources s x c srcs).1 := by
  unfold copySources
  dsimp only
  split
  · exact h
  · exact sound_free h

theorem sound_copyStep {x : EngRef} {c : EngCmd} {pos : Nat} (h : Sound s₀ s) : Sound s₀ (copyStep s x c pos).1 := by
  unfold copyStep
  dsimp only
  split
  · exact sound_unitWalk h
  · split
    · exact sound_unitWalk h
    · split
      · split
        · exact sound_ackTag (sound_engUses ((sound_engWrite (Sound.foldl (sound_copySources (sound_unitWalk h)) (fun _ _ h1 =>
            sound_engUses h1))) _ ‹_›))
        · split
          · exact sound_unitWalk h
          · exact sound_ackTag (Sound.foldl (sound_copySources (sound_unitWalk h)) (fun _ _ h2 => sound_engUses h2))
      · exact sound_unitWalk h

theorem sound_zwRead {x : EngRef} {c : EngCmd} {i : Nat} (h : Sound s₀ s) : Sound s₀ (zwRead s x c i).1 := by
  unfold zwRead
  dsimp only
  split
  · exact sound_unitWalk h
  · split
    · exact sound_unitWalk h
    · split
      · exact sound_engUses (sound_unitWalk h)
      · exact sound_unitWalk h

theorem sound_zwStep {x : EngRef} {c : EngCmd} {out : List PWord} {pos : Nat} (h : Sound s₀ s) : Sound s₀ (zwStep s x c out pos).1 := by
  unfold zwStep
  split
  · exact h
  · dsimp only
    split
    · exact sound_unitWalk h
    · exact sound_unitWalk h
    · split
      · split
        · split
          · exact sound_engUses ((sound_unitStore (sound_unitWalk h)) _ ‹_›)
          · exact sound_unitWalk h
        · exact sound_unitWalk h
      · split
        · split
          · exact sound_engUses ((sound_unitStore (sound_unitWalk h)) _ ‹_›)
          · exact sound_unitWalk h
        · exact sound_unitWalk h

theorem sound_runCommand {x : EngRef} {c : EngCmd} (h : Sound s₀ s) : Sound s₀ (runCommand s x c).1 := by
  unfold runCommand
  split
  · dsimp only
    split
    · split
      · exact h
      · exact sound_copyStep h
    · split
      · exact h
      · exact sound_copyStep h
  · split
    · exact sound_zwStep h
    · split
      · exact sound_zwRead h
      · exact sound_zwStep (Sound.ite (sound_free h) h)

theorem sound_commandFails {x : EngRef} {c : EngCmd} {cause : BitVec 8} (h : Sound s₀ s) : Sound s₀ (commandFails s x c cause) :=
  sound_logDie h

theorem sound_putCommand {x : EngRef} {c : EngCmd} (h : Sound s₀ s) : Sound s₀ (putCommand s x c) := sound_setEngAt h

theorem sound_ackOnce {c : EngCmd} {err : Bool} (h : Sound s₀ s) : Sound s₀ (ackOnce s c err) := Sound.ite (sound_ackTag h) h

theorem sound_endRun {x : EngRef} {c : EngCmd} {a : Ran} (h : Sound s₀ s) : Sound s₀ (endRun s x c a) := by
  unfold endRun
  split
  · exact Sound.ite (sound_ackOnce (sound_commandFails (sound_putCommand (sound_free h)))) (sound_ackOnce (sound_putCommand h))
  · exact sound_putCommand h
  · exact sound_putCommand h
  · exact sound_putCommand h
  · exact sound_putCommand h
  · exact sound_ackOnce (sound_commandFails (sound_putCommand h))
  · exact Sound.ite (sound_askHost (sound_putCommand h)) (sound_heldTrap (sound_setEngAt (sound_putCommand h)))

theorem sound_fireCommand {c : EngCmd} {r : Ran} (h : Sound s₀ s) : Sound s₀ (fireCommand s c r) := by
  unfold fireCommand
  split
  · exact Sound.ite (sound_fire h) h
  · exact h

theorem sound_execEngineRun {die : BitVec 4} {kind : BitVec 2} {eng : BitVec 3} (h : Sound s₀ s) :
    SoundOut s₀ (execEngineRun die kind eng s) := by
  unfold execEngineRun
  refine SoundOut.next ?_
  split
  · exact h
  · exact Sound.ite h (sound_fireCommand (sound_endRun (sound_runCommand h)))

theorem sound_execEngineComplete {die : BitVec 4} {kind : BitVec 2} {eng : BitVec 3} (h : Sound s₀ s) :
    SoundOut s₀ (execEngineComplete die kind eng s) := by
  unfold execEngineComplete
  refine SoundOut.next ?_
  split
  · exact h
  · exact Sound.ite (sound_arriveBarrier (sound_setEngAt h)) h

theorem sound_execLeaseExpiry {die : BitVec 4} {kind : BitVec 2} {eng : BitVec 3} (h : Sound s₀ s) :
    SoundOut s₀ (execLeaseExpiry die kind eng s) := by
  unfold execLeaseExpiry
  refine SoundOut.next ?_
  split
  · exact Sound.ite (sound_setEngAt h) h
  · exact h

theorem sound_leaseRetire {die : BitVec 4} {part : BitVec 5} (h : Sound s₀ s) : Sound s₀ (leaseRetire s die part) := sound_updDie h

theorem sound_replayUnit {u : HeldUnit} (h : Sound s₀ s) : Sound s₀ (replayUnit s u) := by
  unfold replayUnit
  dsimp only
  split
  · exact Sound.ite (sound_forgetAsk h) (sound_setTport (sound_forgetAsk h))
  · exact sound_setEngAt (sound_forgetAsk h)

theorem sound_execPortReplay {u : HeldUnit} (h : Sound s₀ s) : SoundOut s₀ (execPortReplay u s) :=
  SoundOut.next (Sound.ite (sound_replayUnit (h.same rfl)) h)

end Sys2Proof.Machine
end

section
/-! SUPPORT. `Sound` through loads, slots and tasks (O8, O9). -/

namespace Sys2Proof.Machine
open Sys2Proof.Claims

variable {s₀ s t : State} {nd : Node}

/-! ## Machine/Load -/

theorem sound_stripTouch {die : BitVec 4} {p : BitVec 5} {va : Nat} {n : Nat} (h : Sound s₀ s) : Sound s₀ (stripTouch s die p va n).1 :=
  sound_unitTouch h

theorem sound_writeData {pa : Nat} {bs : List Byte} (h : Sound s₀ s) : Sound s₀ (writeData s pa bs) :=
  Sound.foldl ((h.withMem fun hw => writeBytes_wf hw _ _).same rfl) (fun _ _ h1 => sound_setMeta h1)

theorem sound_loadStore {e : ElemRef} {el : Elem} {data : List (Nat × List Byte)} (h : Sound s₀ s) : Sound s₀ (loadStore s e el data) :=
  Sound.foldl (Sound.foldl h (fun _ _ h1 => sound_clearRange h1)) (fun _ _ h2 => sound_writeData h2)

theorem ordered_loadedNode {x : NodeImage} : (loadedNode x).Ordered := rfl

theorem sound_writeElem {g : Region} {img : Nat} {c : Course} {p : ElemPlace} {e : ElemRef} (h : Sound s₀ s) :
    Sound s₀ (writeElem s g img c p e) := by
  unfold writeElem
  refine Sound.foldl (sound_setEl (sound_loadStore h)) (fun _ _ h1 => sound_setNd h1 fun _ => ?_)
  cases c.node p.1 p.2 _ with
  | none => exact Node.Ordered.default
  | some x => exact ordered_loadedNode

theorem sound_emptyBanks {a0 : TileRef} {mtcfg : Word} {ranges : List (Nat × Nat)} (h : Sound s₀ s) :
    Sound s₀ (emptyBanks s a0 mtcfg ranges) := Sound.foldl h (fun _ _ h1 => Sound.ite (h1.same rfl) h1)

theorem sound_writeMemTile {g : Region} {c : Course} {p : Nat × Nat} {a3 : TileRef} {staged : List (Nat × List PWord)} (h :
    Sound s₀ s) : Sound s₀ (writeMemTile s g c p a3 staged) := by
  unfold writeMemTile
  exact sound_setTl (sound_emptyBanks (Sound.foldl (Sound.foldl (Sound.ite h (sound_clearRange h)) (fun _ _ h1 => sound_writeData h1)) (fun
    _ _ h2 => sound_storeWords h2)))

theorem sound_writeTile {g : Region} {img : Nat} {c : Course} {p : Nat × Nat} {staged : List (Nat × List PWord)} (h : Sound s₀ s) :
    Sound s₀ (writeTile s g img c p staged) := Sound.ite (sound_writeMemTile h) (Sound.foldl h (fun _ _ h1 => sound_writeElem h1))

theorem sound_fillBlocks {g : Region} {c : Course} {a2 : Task} (h : Sound s₀ s) : Sound s₀ (fillBlocks s g c a2) :=
  Sound.foldl h (fun _ _ h1 => sound_updEl h1)

theorem sound_addEdge {g : Region} {c : Course} {src : ImagePort} {dst : ImagePort} {fan : Option (Nat × Nat)} {back : Bool} (h :
    Sound s₀ s) : Sound s₀ (addEdge s g c src dst fan back).2 := sound_setEd (sound_fresh h)

theorem sound_installEdges {g : Region} {c : Course} (h : Sound s₀ s) : Sound s₀ (installEdges s g c) := by
  unfold installEdges
  exact Sound.foldl (Sound.foldl h (fun _ _ h1 => sound_addEdge h1)) (fun _ _ h2 => sound_setFo (Sound.foldl_fst (sound_fresh h2) (fun _ _
    h3 => sound_addEdge h3)))

theorem sound_leaveTile {a0 : TileRef} (h : Sound s₀ s) : Sound s₀ (leaveTile s a0) :=
  Sound.foldl (Sound.foldl (sound_setTl h) (fun _ _ h1 => sound_releaseBarrier h1)) (fun _ _ h2 => sound_releaseBarrier h2)

theorem sound_leaveElem {e : ElemRef} (h : Sound s₀ s) : Sound s₀ (leaveElem s e) := by
  unfold leaveElem
  exact sound_updEl (Sound.foldl h (fun _ _ h1 => sound_enterOff h1))

theorem sound_addRoute {rid : Nat} {i : Nat} {src : TileRef × BitVec 4} (h : Sound s₀ s) : Sound s₀ (addRoute s rid i src).2 := by
  unfold addRoute
  dsimp only
  exact sound_updRg (sound_setEd (sound_fresh h)) (fun _ => rfl)

theorem sound_linkBroken {rid : Nat} {i : Nat} {x : Nat × Word} (h : Sound s₀ s) : Sound s₀ (linkBroken s rid i x) := by
  unfold linkBroken
  exact sound_updTask (sound_updEd (sound_addRoute h))

theorem sound_breakInto {d : BitVec 4} {task : Nat} {iport : Nat} {w : Word} (h : Sound s₀ s) : Sound s₀ (breakInto s d task iport w) := by
  unfold breakInto
  dsimp only
  split
  · split
    · exact sound_linkBroken (sound_updTask h)
    · exact sound_updTask h
  · exact sound_updTask h

theorem sound_breakRoutes {rid : Nat} (h : Sound s₀ s) : Sound s₀ (breakRoutes s rid) := by
  unfold breakRoutes
  refine Sound.foldl h (fun _ _ h1 => ?_)
  dsimp only
  split
  · exact Sound.ite (sound_injectTokens (sound_updEd h1)) h1
  · exact Sound.foldl h1 (fun _ _ h2 => Sound.ite (sound_breakInto h2) h2)

theorem sound_dropEdges {rid : Nat} (h : Sound s₀ s) : Sound s₀ (dropEdges s rid) := sound_dropFlits (h.same rfl)

theorem sound_vacate {rid : Nat} (h : Sound s₀ s) : Sound s₀ (vacate s rid) :=
  sound_dropEdges (Sound.foldl (Sound.foldl h (fun _ _ h1 => sound_leaveElem h1)) (fun _ _ h2 => sound_leaveTile h2))

theorem sound_unloadRegion {rid : Nat} {discarded : Bool} (h : Sound s₀ s) : Sound s₀ (unloadRegion s rid discarded) := by
  unfold unloadRegion
  extract_lets g s1 s2 s3 s4
  have h1 : Sound s₀ s1 := Sound.ite (sound_breakRoutes h) h
  have h2 : Sound s₀ s2 := sound_dropEdges h1
  have h4 : Sound s₀ s4 := sound_updDie (sound_vacate h1)
  exact Sound.ite (h2.eraseRegion _) (h4.eraseRegion _)

theorem sound_abandonLoad {rid : Nat} (h : Sound s₀ s) : Sound s₀ (abandonLoad s rid) :=
  Sound.foldl (sound_unloadRegion h) (fun _ _ h1 => sound_updTl h1)

/-! ## Machine/Slots -/

theorem sound_setQslot {d : BitVec 4} {i : Nat} {q : QSlot} (h : Sound s₀ s) : Sound s₀ (s.setQslot d i q) := sound_updDie h

theorem sound_unmapSlot {d : BitVec 4} {i : Nat} (h : Sound s₀ s) : Sound s₀ (unmapSlot s d i) := by
  unfold unmapSlot
  dsimp only
  split
  · exact sound_setQslot h
  · exact sound_writePart (sound_setQslot h)

theorem sound_mapInto {r : QReg} {i : Nat} (h : Sound s₀ s) : Sound s₀ (mapInto s r i) := by
  unfold mapInto
  dsimp only
  split
  · exact sound_regError (sound_usePart h)
  · exact Sound.ite (sound_setQslot (sound_usePart h)) (sound_regError (sound_usePart h))

theorem sound_judge {r : QReg} {i : Nat} {v : Word} (h : Sound s₀ s) : Sound s₀ (judge s r i v) :=
  Sound.ite (sound_regError h) (sound_setQslot h)

theorem sound_ringWrite {d : BitVec 4} {slot : Nat} {ws : List Word} (h : Sound s₀ s) : Sound s₀ (ringWrite s d slot ws) := by
  unfold ringWrite
  exact Sound.ite h (Sound.ite (sound_askHost (sound_setQslot h)) (Sound.ite (sound_setQslot (sound_queueWrite (sound_queueTouch h)))
    (sound_queueError (sound_queueWrite (sound_queueTouch h)))))

theorem sound_mapAndServe {r : QReg} {i : Nat} (h : Sound s₀ s) : Sound s₀ (mapAndServe s r i) := by
  unfold mapAndServe
  dsimp only
  split
  · split
    · exact sound_judge (Sound.foldl (sound_mapInto (sound_updQreg h)) (fun _ _ h3 => sound_ringWrite h3))
    · exact Sound.foldl (sound_mapInto (sound_updQreg h)) (fun _ _ h4 => sound_ringWrite h4)
  · exact sound_mapInto (sound_updQreg h)

theorem sound_serveHeld {d : BitVec 4} {p : BitVec 5} (h : Sound s₀ s) : Sound s₀ (serveHeld s d p) := by
  unfold serveHeld
  split
  · exact sound_mapAndServe h
  · exact h

theorem sound_wantSlot {r : QReg} (h : Sound s₀ s) : Sound s₀ (wantSlot s r) := by
  unfold wantSlot
  dsimp only
  split
  · refine sound_mapAndServe ?_
    split
    · exact sound_updQreg h
    · split
      · exact sound_unmapSlot (sound_updQreg h)
      · exact sound_updQreg h
  · split
    · exact sound_updQreg h
    · split
      · exact sound_unmapSlot (sound_updQreg h)
      · exact sound_updQreg h

theorem sound_ringBell {r : QReg} {v : Word} (h : Sound s₀ s) : Sound s₀ (ringBell s r v) := by
  unfold ringBell
  split
  · exact sound_judge h
  · exact sound_wantSlot h

theorem sound_completion {d : BitVec 4} {slot : BitVec 6} {own : Option (BitVec 12 × BitVec 6)} {ref : Word} {st : Nat} {cause : Nat}
    (h : Sound s₀ s) : Sound s₀ (completion s d slot own ref st cause) := by
  unfold completion
  dsimp only
  split
  · exact sound_ringWrite h
  · split
    · exact h
    · split
      · exact sound_ringWrite h
      · exact sound_wantSlot h

/-! ## Machine/Tasks -/

theorem sound_dropDec {d : BitVec 4} {a1 : Task} {source : BitVec 5} {excess : Bool} (h : Sound s₀ s) :
    Sound s₀ (dropDec s d a1 source excess) := sound_logStale (Sound.ite (h.same rfl) (h.same rfl))

theorem sound_sendDec {src : BitVec 4} {ref : Word} {exp : Bool} {rb : Option Nat} {part : BitVec 5}
    {node : optParam (Option NodeRef) none} (h : Sound s₀ s) : Sound s₀ (sendDec s src ref exp rb part node) :=
  Sound.ite (h.bump.same rfl) (sound_logStale h)

theorem sound_sendDecRemote {die : BitVec 4} {m : BitVec 10} {tenant : BitVec 16} {ref : Word} {exp : Bool} {rb : Option Nat} (h :
    Sound s₀ s) : Sound s₀ (sendDecRemote s die m tenant ref exp rb) := by
  unfold sendDecRemote
  split
  · exact h
  · exact h.same rfl

theorem sound_sendSuccessor {d : BitVec 4} {a1 : Task} {e : DWord} {exp : Bool} {rb : Option Nat} (h : Sound s₀ s) :
    Sound s₀ (sendSuccessor s d a1 e exp rb) := Sound.ite (sound_sendDec h) (sound_sendDecRemote h)

theorem sound_retire {d : BitVec 4} {i : Nat} {st : Nat} (h : Sound s₀ s) : Sound s₀ (retire s d i st) := by
  unfold retire
  exact Sound.ite (sound_leaseRetire (Sound.ite (sound_completion (Sound.foldl (sound_setTask h) (fun _ _ h1 => Sound.ite h1
    (sound_sendSuccessor h1)))) (Sound.foldl (sound_setTask h) (fun _ _ h2 => Sound.ite h2 (sound_sendSuccessor h2))))) (sound_setTask
    (sound_leaseRetire (Sound.ite (sound_completion (Sound.foldl (sound_setTask h) (fun _ _ h3 => Sound.ite h3 (sound_sendSuccessor h3))))
    (Sound.foldl (sound_setTask h) (fun _ _ h4 => Sound.ite h4 (sound_sendSuccessor h4))))))

theorem sound_failTask {d : BitVec 4} {i : Nat} {cause : BitVec 8} (h : Sound s₀ s) : Sound s₀ (failTask s d i cause) :=
  sound_retire (sound_updTask h)

theorem sound_discard {d : BitVec 4} {i : Nat} (h : Sound s₀ s) : Sound s₀ (discard s d i) := by
  unfold discard
  split
  · exact h
  · exact Sound.ite (sound_abandonLoad h) (sound_unloadRegion h)

theorem sound_abortTask {d : BitVec 4} {i : Nat} (h : Sound s₀ s) : Sound s₀ (abortTask s d i) := sound_failTask (sound_discard h)

theorem sound_hodTrap {d : BitVec 4} {p : BitVec 5} {binding : Nat} {cause : BitVec 8} {va : Nat} (h : Sound s₀ s) : Sound s₀
    (hodTrap s d p binding cause va) := sound_sendTrap h

theorem sound_useBindings {p : BitVec 5} {a1 : Task} (h : Sound s₀ s) : Sound s₀ (useBindings s p a1) :=
  Sound.foldl h (fun _ _ h1 => Sound.ite (sound_usePart h1) h1)

theorem sound_holdTask {d : BitVec 4} {i : Nat} {e : Nat × BitVec 8 × Nat} (h : Sound s₀ s) : Sound s₀ (holdTask s d i e) :=
  sound_hodTrap (sound_updTask h)

theorem sound_useRanges {d : BitVec 4} {a1 : Task} (h : Sound s₀ s) : Sound s₀ (useRanges s d a1).1 :=
  Sound.foldl_fst h (fun _ _ h1 => sound_unitTouch h1)

theorem sound_deliverRange {x : Nat × Nat × BitVec 13} {ws : List PWord} (h : Sound s₀ s) : Sound s₀ (deliverRange s x ws) := h.same rfl

theorem sound_shareRanges {d : BitVec 4} {a1 : Task} {xs : List (Nat × List PWord)} (h : Sound s₀ s) :
    Sound s₀ (shareRanges s d a1 xs) := by
  unfold shareRanges
  refine Sound.foldl h (fun _ _ h1 => ?_)
  split
  · exact h1
  · split
    · exact sound_deliverRange h1
    · exact h1

theorem sound_finishStaging {d : BitVec 4} {i : Nat} (h : Sound s₀ s) : Sound s₀ (finishStaging s d i) := by
  unfold finishStaging
  dsimp only
  split
  · exact sound_logDie (sound_setTask h)
  · split
    · exact h
    · split
      · exact sound_useRanges h
      · split
        · exact sound_holdTask (sound_useRanges h)
        · exact sound_setTask (sound_shareRanges (sound_useRanges h))

theorem sound_bindTask {d : BitVec 4} {i : Nat} (h : Sound s₀ s) : Sound s₀ (bindTask s d i) := by
  unfold bindTask
  dsimp only
  split
  · exact sound_holdTask (sound_useBindings h)
  · exact Sound.ite (sound_finishStaging (sound_setTask (sound_useBindings h))) (sound_setTask (sound_useBindings h))

theorem sound_enter {d : BitVec 4} {i : Nat} (h : Sound s₀ s) : Sound s₀ (enter s d i) :=
  Sound.ite (sound_retire h) (Sound.ite (sound_retire (sound_setTask h)) (sound_bindTask (sound_setTask h)))

theorem sound_applyDec {m : DecMsg} (h : Sound s₀ s) : Sound s₀ (applyDec s m) :=
  Sound.ite (sound_dropDec h) (Sound.ite (sound_dropDec h) (Sound.ite (sound_enter (sound_setTask h)) (sound_setTask h)))

theorem sound_applyPodDec {m : DecMsg} {x : BitVec 4 × BitVec 10 × BitVec 16} (h : Sound s₀ s) : Sound s₀ (applyPodDec s m x) := by
  unfold applyPodDec
  dsimp only
  split
  · exact sound_applyDec h
  · exact sound_logStale (h.same rfl)

theorem sound_execDecrementApply {id : Nat} (h : Sound s₀ s) : SoundOut s₀ (execDecrementApply id s) := by
  unfold execDecrementApply
  refine SoundOut.next ?_
  split
  · exact h
  · dsimp only
    split
    · split
      · exact sound_applyPodDec (sound_updDie (h.same rfl))
      · exact Sound.ite (sound_applyDec (sound_updDie (h.same rfl))) (sound_logStale (sound_updDie (h.same rfl)))
    · exact h

theorem sound_beginPallet {d : BitVec 4} {p : BitVec 5} {tenant : BitVec 16} {prio : Nat} {slot : BitVec 6}
    {queue : Option (BitVec 12 × BitVec 6)} {w : List Word} {req : Option Nat} {cq : Option (BitVec 6)} (h : Sound s₀ s) :
    SoundExc s₀ (beginPallet s d p tenant prio slot queue w req cq) := by
  unfold beginPallet
  split
  · exact SoundExc.error
  · exact SoundExc.ok (sound_updDie h)

theorem sound_endPallet {d : BitVec 4} {j : PalletJob} (h : Sound s₀ s) : Sound s₀ (endPallet s d j) := by
  unfold endPallet
  dsimp only
  split
  · exact sound_completion (sound_updDie h)
  · exact sound_answer (sound_dropReq (sound_updDie h))
  · exact sound_updDie h

theorem sound_palletTick {d : BitVec 4} (h : Sound s₀ s) : Sound s₀ (palletTick s d) := by
  unfold palletTick
  split
  · exact h
  · split
    · exact sound_updDie (sound_setTask h)
    · exact Sound.ite (Sound.ite (sound_enter (sound_updDie h)) (sound_updDie h)) (sound_endPallet (Sound.ite (sound_enter (sound_updDie h))
        (sound_updDie h)))

theorem sound_palletTicks (h : Sound s₀ s) : Sound s₀ (palletTicks s) := Sound.foldl h (fun _ _ h1 => sound_palletTick h1)

theorem sound_dieCounters (h : Sound s₀ s) : Sound s₀ (dieCounters s) := Sound.foldl h (fun _ _ h1 => sound_updDie h1)

theorem sound_execTspn {f : Fields} (h : Sound s₀ s) : SoundOut s₀ (execTspn f s) := by
  unfold execTspn
  refine sound_unitOp h (fun _ _ h1 => ?_)
  dsimp only
  split
  · exact SoundExcFst.error
  · split
    · exact SoundExcFst.pair h1
    · exact SoundExcFst.ok (sound_askUnit h1)

theorem sound_takeSpawn {r : Req} {w : List Word} (h : Sound s₀ s) : SoundPerf s₀ r (takeSpawn s r w) := by
  unfold takeSpawn
  dsimp only
  split
  · exact SoundPerf.wait
  · split
    · exact SoundPerf.done h
    · exact SoundPerf.defer ((sound_beginPallet h) _ ‹_›) rfl

theorem sound_answerQuery {st : Stamp} {a : Word} (h : Sound s₀ s) : Sound s₀ (answerQuery s st a).1 := by
  unfold answerQuery
  dsimp only
  split
  · exact h
  · exact h

theorem sound_execTdec {f : Fields} (h : Sound s₀ s) : SoundOut s₀ (execTdec f s) := by
  unfold execTdec
  refine sound_issue h (fun _ _ h1 => ?_)
  split
  · exact SoundExcFst.pair h1
  · exact SoundExcFst.pair h1

theorem sound_tdecAtS4 {o : Opnds} (h : Sound s₀ s) : Sound s₀ (tdecAtS4 o s).1 := by
  unfold tdecAtS4
  dsimp only
  exact sound_sendDec h

theorem sound_execTdecRmt {f : Fields} (h : Sound s₀ s) : SoundOut s₀ (execTdecRmt f s) := by
  unfold execTdecRmt
  refine sound_issue h (fun _ _ h1 => ?_)
  split
  · exact SoundExcFst.pair h1
  · exact SoundExcFst.pair h1

theorem sound_tdecRmtAtS4 {o : Opnds} (h : Sound s₀ s) : Sound s₀ (tdecRmtAtS4 o s).1 := sound_sendDecRemote h

theorem sound_execTqry {f : Fields} (h : Sound s₀ s) : SoundOut s₀ (execTqry f s) :=
  sound_unitOp h (fun _ _ h1 => SoundExcFst.ok (sound_askUnit h1))

theorem sound_haltTask {n : NodeRef} {a : Word} (h : Sound s₀ s) : Sound s₀ (haltTask s n a) := by
  unfold haltTask
  split
  · exact sound_abortTask (sound_updTask h)
  · exact h

theorem sound_execHalt {f : Fields} (h : Sound s₀ s) : SoundOut s₀ (execHalt f s) := by
  unfold execHalt
  refine SoundOut.next ?_
  split
  · refine sound_haltTask (sound_runIssue h (fun _ _ h3 => ?_))
    split
    · exact SoundExcFst.pair h3
    · exact SoundExcFst.error
  · refine sound_runIssue h (fun _ _ h4 => ?_)
    split
    · exact SoundExcFst.pair h4
    · exact SoundExcFst.error

theorem sound_execStagingComplete {die : BitVec 4} {i : BitVec 14} (h : Sound s₀ s) : SoundOut s₀ (execStagingComplete die i s) :=
  SoundOut.next (Sound.ite (Sound.ite (sound_bindTask h) (sound_finishStaging h)) h)

theorem sound_execDeadlineExpiry {die : BitVec 4} {i : BitVec 14} (h : Sound s₀ s) : SoundOut s₀ (execDeadlineExpiry die i s) :=
  SoundOut.next (Sound.ite (sound_retire (sound_discard h)) h)

end Sys2Proof.Machine
end

section
/-! SUPPORT. `Sound` through the cycle (O8, O9). -/

namespace Sys2Proof.Machine
open Sys2Proof.Claims

variable {s₀ s t : State} {nd : Node}

/-! ## Machine/Settle -/

theorem sound_lateEffect {i : Instr} {o : Opnds} {ws : List PWord} (h : Sound s₀ s) : Sound s₀ (lateEffect i o ws s).1 := by
  unfold lateEffect
  split
  · exact sound_wakeAtS4 h
  · exact sound_lintelAtS4 h
  · exact sound_lintelAtS4 h
  · exact sound_gretAtS4 h
  · exact sound_dpartAtS4 h
  · exact sound_gateAtS4 h
  · exact sound_suspendAtS4 h
  · exact sound_suspendAtS4 h
  · exact sound_systemWriteAtS4 h
  · exact sound_systemWriteAtS4 h
  · exact sound_systemWriteAtS4 h
  · exact sound_systemWriteAtS4 h
  · exact sound_systemWriteAtS4 h
  · exact sound_systemWriteAtS4 h
  · exact sound_mcfgAtS4 h
  · exact sound_mrunAtS4 h
  · exact sound_mdrainAtS4 h
  · exact sound_mclrAtS4 h
  · exact sound_mldkAtS4 h
  · exact sound_mshapeAtS4 h
  · exact sound_mpassAtS4 h
  · exact sound_mstatAtS4 h
  · exact sound_mfeedAtS4 h
  · exact sound_msclAtS4 h
  · exact sound_mfinAtS4 h
  · exact sound_mfinAtS4 h
  · exact sound_storeAtS4 h
  · exact sound_storeAtS4 h
  · exact sound_storeAtS4 h
  · exact sound_podStoreAtS4 h
  · exact sound_podStoreAtS4 h
  · exact sound_tdecAtS4 h
  · exact sound_tdecRmtAtS4 h
  · exact sound_cxulAtS4 h
  · exact h

theorem sound_atS4 {n : NodeRef} {fl : InFlight} {f : Fields} {act : S4Act} (h : Sound s₀ s) : Sound s₀ (atS4 s n fl f act) := by
  unfold atS4
  split
  · exact sound_finish h
  · exact sound_faultInFlight h
  · exact sound_finish (sound_lateEffect h)

theorem sound_stageOf {n : NodeRef} {fl : InFlight} {f : Fields} (h : Sound s₀ s) : Sound s₀ (stageOf s n fl f) := by
  unfold stageOf
  split
  · split
    · exact sound_atS4 h
    · split
      · exact Sound.ite (sound_parkAtS3 h) h
      · exact h
  · exact Sound.ite (sound_finish h) h
  · exact h

theorem sound_parkInS3 {n : NodeRef} (h : Sound s₀ s) : Sound s₀ (parkInS3 s n) := Sound.ite (sound_updNd h (fun _ h1 => h1)) h

theorem sound_settleNode {n : NodeRef} (h : Sound s₀ s) : Sound s₀ (settleNode s n) := by
  unfold settleNode
  split
  · exact h
  · split
    · exact sound_lateFault (sound_parkInS3 (sound_stageOf h))
    · exact h

theorem sound_settleElem {e : ElemRef} (h : Sound s₀ s) : Sound s₀ (settleElem s e) := by
  unfold settleElem
  refine Sound.foldl (Sound.foldl h (fun _ _ h1 => ?_)) (fun _ _ h2 => ?_)
  · dsimp only
    split
    · exact h1
    · exact Sound.ite (sound_settleNode h1) h1
  · dsimp only
    split
    · exact h2
    · exact Sound.ite (sound_settleNode h2) h2

theorem sound_settle (h : Sound s₀ s) : Sound s₀ (settle s) := Sound.foldl h (fun _ _ h1 => sound_settleElem h1)

/-! ## Machine/Token -/

theorem sound_execEmit {f : Fields} (h : Sound s₀ s) : SoundOut s₀ (execEmit f s) := sound_issue h (fun _ _ h1 => SoundExcFst.pair h1)

theorem sound_execStop {f : Fields} (h : Sound s₀ s) : SoundOut s₀ (execStop f s) := sound_issue h (fun _ _ h1 => SoundExcFst.pair h1)

theorem sound_execFwd {f : Fields} (h : Sound s₀ s) : SoundOut s₀ (execFwd f s) := sound_issue h (fun _ _ h1 => SoundExcFst.pair h1)

theorem sound_execTagf {f : Fields} (h : Sound s₀ s) : SoundOut s₀ (execTagf f s) := sound_issue h (fun _ _ h1 => SoundExcFst.pair h1)

theorem sound_execDrop {f : Fields} (h : Sound s₀ s) : SoundOut s₀ (execDrop f s) := sound_issue h (fun _ _ h1 => SoundExcFst.pair h1)

theorem sound_execSclo {f : Fields} (h : Sound s₀ s) : SoundOut s₀ (execSclo f s) := by
  unfold execSclo
  refine sound_issue h (fun _ _ h1 => ?_)
  dsimp only
  split
  · exact SoundExcFst.pair h1
  · exact SoundExcFst.pair h1

theorem sound_execHead {f : Fields} (h : Sound s₀ s) : SoundOut s₀ (execHead f s) := sound_issue h (fun _ _ h1 => SoundExcFst.pair h1)

theorem sound_execIdle {f : Fields} (h : Sound s₀ s) : SoundOut s₀ (execIdle f s) := sound_scalarOp h

/-! ## Machine/Tree -/

theorem asleep_regionCounts {rid : Nat} : (regionCounts s rid).asleep = (s.rg rid).asleep := by
  unfold regionCounts
  dsimp only
  repeat' split
  all_goals rfl

theorem sound_regionTicks (h : Sound s₀ s) : Sound s₀ (regionTicks s) := h.mapRegion fun _ => asleep_regionCounts

/-! ## Machine/Cycle -/

theorem sound_closeCycle (h : Sound s₀ s) : Sound s₀ (closeCycle s) := (sound_settle h).same rfl

theorem sound_endCycle (h : Sound s₀ s) : Sound s₀ (endCycle s) := by
  unfold endCycle
  exact ((sound_dieCounters (sound_palletTicks (sound_regionTicks (sound_hostTick (sound_startWalks (sound_netTick h)))))).same rfl).same
    rfl

/-! ## Machine/Errors -/

theorem sound_poisonEntry {n : NodeRef} {k : BitVec 2} {i : Nat} (h : Sound s₀ s) : Sound s₀ (poisonEntry s n k i) :=
  sound_updNd h (fun _ h1 => Node.Ordered.ite (ordered_setCi h1) (ordered_setCo h1))

theorem sound_poisonWord {pa : Nat} (h : Sound s₀ s) : Sound s₀ (poisonWord s pa) := by
  unfold poisonWord
  dsimp only
  split
  · exact Sound.ite (sound_reeval (sound_setPres (sound_storeWord h))) (sound_reeval (sound_storeWord h))
  · exact sound_reeval (sound_storeWord h)

theorem sound_withLineKey {m : Map (BitVec 13)} (h : Sound s₀ s) : Sound s₀ { s with lineKey := m } := h.same rfl

theorem sound_poisonPage {page : Nat} (h : Sound s₀ s) : Sound s₀ (poisonPage s page) := by
  unfold poisonPage
  extract_lets w s1 s2 s3 mine
  have h1 : Sound s₀ s1 := Sound.foldl (sound_storeWord h) fun _ _ h1 => sound_storeWord h1
  have h2 : Sound s₀ s2 := Sound.foldl h1 fun _ _ h2 => sound_setPres h2
  exact Sound.foldl (sound_withLineKey h2) fun _ _ h3 => sound_reeval h3

theorem sound_failPage {pa : Nat} (h : Sound s₀ s) : Sound s₀ (failPage s pa) :=
  Sound.foldl (sound_poisonPage h) (fun _ _ h1 => sound_logDie h1)

theorem sound_execUncorrectableError {w : ErrorPlace} (h : Sound s₀ s) : SoundOut s₀ (execUncorrectableError w s) := by
  unfold execUncorrectableError
  refine SoundOut.next ?_
  split
  · exact sound_updNd h (fun _ h1 => ordered_setG h1)
  · exact sound_poisonEntry h
  · exact sound_updEl h
  · exact sound_updEl h
  · exact sound_updEl h
  · exact sound_faultFromOutside h
  · exact Sound.ite (sound_poisonWord h) h
  · exact Sound.ite h (sound_failPage h)
  · exact Sound.ite (sound_failPage h) h

theorem sound_execCorrectableError {die : BitVec 5} (h : Sound s₀ s) : SoundOut s₀ (execCorrectableError die s) :=
  SoundOut.next (h.same rfl)

/-! ## Machine/Queue -/

theorem sound_doorbell {fn : BitVec 12} {q : BitVec 6} {v : Word} (h : Sound s₀ s) : Sound s₀ (doorbell s fn q v) := by
  unfold doorbell
  split
  · exact h
  · exact Sound.ite h (sound_ringBell h)

theorem sound_execQueueDoorbell {fn : BitVec 12} {q : BitVec 6} {v : Word} (h : Sound s₀ s) : SoundOut s₀ (execQueueDoorbell fn q v s) :=
  SoundOut.next (Sound.ite (sound_doorbell h) h)

theorem sound_execQueueIdleUnmap {d : BitVec 4} {i : BitVec 6} (h : Sound s₀ s) : SoundOut s₀ (execQueueIdleUnmap d i s) :=
  SoundOut.next (Sound.ite (sound_serveHeld (sound_unmapSlot h)) h)

theorem sound_askRings {d : BitVec 4} (h : Sound s₀ s) : Sound s₀ (askRings s d) := Sound.foldl h (fun _ _ h1 => sound_askHost h1)

theorem sound_takeEntry {d : BitVec 4} {i : Nat} (h : Sound s₀ s) : Sound s₀ (takeEntry s d i) := by
  unfold takeEntry
  exact sound_updDie (sound_setQslot h)

theorem sound_command {op : Nat} {d : BitVec 4} {go : State → Nat → QSlot → List Word → Command} (h : Sound s₀ s)
    (hgo : ∀ t x0 x1 x2, Sound s₀ t → SoundCmd s₀ (go t x0 x1 x2)) : Sound s₀ (command op d s go) := by
  unfold command
  extract_lets s1
  have h1 : Sound s₀ s1 := sound_askRings h
  split
  · exact h1
  · next i _ =>
    extract_lets q w s2
    have h2 : Sound s₀ s2 := sound_queueTouch h1
    clear_value s2
    have h3 : Sound s₀ (takeEntry s2 d i) := sound_takeEntry h2
    split
    · exact h2
    · split
      · exact sound_queueError h2
      · extract_lets o
        split
        · split
          · exact SoundCmd.of_done (hgo _ _ _ _ h3) ‹_›
          · exact sound_queueError h3
          · exact sound_askHost h2
        · exact Sound.ite (sound_queueError h3) h2

theorem sound_execSpawn {d : BitVec 4} (h : Sound s₀ s) : SoundOut s₀ (execSpawn d s) := by
  unfold execSpawn
  refine SoundOut.next (sound_command h (fun _ _ _ _ h1 => ?_))
  split
  · dsimp only
    split
    · exact SoundCmd.done ((sound_beginPallet h1) _ ‹_›)
    · exact SoundCmd.done (sound_completion h1)
  · exact SoundCmd.fails

theorem sound_execDec {d : BitVec 4} (h : Sound s₀ s) : SoundOut s₀ (execDec d s) := by
  unfold execDec
  refine SoundOut.next (sound_command h (fun _ _ _ _ h1 => ?_))
  split
  · exact SoundCmd.done (sound_sendDec h1)
  · exact SoundCmd.fails

theorem sound_execAbort {d : BitVec 4} (h : Sound s₀ s) : SoundOut s₀ (execAbort d s) := by
  unfold execAbort
  refine SoundOut.next (sound_command h (fun _ _ _ _ h1 => ?_))
  dsimp only
  split
  · split
    · exact SoundCmd.done (sound_abortTask h1)
    · exact SoundCmd.done (Sound.ite (sound_dropDec h1) (sound_dropDec h1))
  · exact SoundCmd.fails

theorem sound_execFree {d : BitVec 4} (h : Sound s₀ s) : SoundOut s₀ (execFree d s) := by
  unfold execFree
  refine SoundOut.next (sound_command h (fun _ _ _ _ h1 => ?_))
  dsimp only
  split
  · exact SoundCmd.done (sound_setTask h1)
  · exact SoundCmd.fails

theorem sound_registerImages {d : BitVec 4} {q : QSlot} {base : Nat} {n : Nat} {ws : List Word} (h : Sound s₀ s) :
    SoundOpt s₀ (registerImages s d q base n ws) := by
  unfold registerImages
  dsimp only
  split
  · exact SoundOpt.some (Sound.foldl h (fun _ _ h1 => sound_setTask h1))
  · exact SoundOpt.none

theorem sound_execRegt {d : BitVec 4} (h : Sound s₀ s) : SoundOut s₀ (execRegt d s) := by
  unfold execRegt
  refine SoundOut.next (sound_command h (fun _ _ _ _ h1 => ?_))
  dsimp only
  split
  · exact SoundCmd.fails
  · split
    · exact SoundCmd.waits
    · split
      · exact SoundCmd.fails
      · split
        · exact SoundCmd.done ((sound_registerImages (sound_queueTouch h1)) _ ‹_›)
        · exact SoundCmd.fails

theorem sound_execUnregt {d : BitVec 4} (h : Sound s₀ s) : SoundOut s₀ (execUnregt d s) := by
  unfold execUnregt
  refine SoundOut.next (sound_command h (fun _ _ _ _ h1 => ?_))
  dsimp only
  split
  · exact SoundCmd.done (Sound.foldl h1 (fun _ _ h2 => sound_updTask h2))
  · exact SoundCmd.fails

end Sys2Proof.Machine
end

section
/-! SUPPORT. `Sound` through courses and their images (O8, O9). -/

namespace Sys2Proof.Machine
open Sys2Proof.Claims

variable {s₀ s t : State} {nd : Node}

/-! ## Machine/Course -/

theorem sound_slotRecord {g : Region} {x : LoadError} (h : Sound s₀ s) : Sound s₀ (slotRecord s g x) := sound_sendTrap h

theorem sound_failLoad {rid : Nat} {x : LoadError} (h : Sound s₀ s) : Sound s₀ (failLoad s rid x) :=
  sound_failTask (sound_unloadRegion (sound_slotRecord h))

theorem roster_loadStore {e : ElemRef} {el : Elem} {data : List (Nat × List Byte)} : (loadStore s e el data).roster = s.roster := by
  unfold loadStore
  extract_lets owned s1
  have h1 : s1.roster = s.roster := roster_foldl fun _ _ => roster_clearRange
  exact (roster_foldl fun _ _ => roster_writeData).trans h1

theorem roster_setEl {e : ElemRef} {v : Elem} : (s.setEl e v).roster = s.roster := rfl
theorem roster_setNd {n : NodeRef} {v : Node} : (s.setNd n v).roster = s.roster := rfl
theorem roster_emptyBanks {t : TileRef} {w : Word} {l : List (Nat × Nat)} : (emptyBanks s t w l).roster = s.roster := by
  unfold emptyBanks
  refine roster_foldl fun _ _ => ?_
  split <;> rfl
theorem roster_writeElem {g : Region} {img : Nat} {c : Course} {p : ElemPlace} {e : ElemRef} :
    (writeElem s g img c p e).roster = s.roster := by
  unfold writeElem
  extract_lets el s1 s2
  have h1 : s1.roster = s.roster := roster_loadStore
  have h2 : s2.roster = s1.roster := roster_setEl
  exact (roster_foldl fun _ _ => roster_setNd).trans (h2.trans h1)

theorem roster_writeMemTile {g : Region} {c : Course} {p : Nat × Nat} {t : TileRef} {staged : List (Nat × List PWord)} :
    (writeMemTile s g c p t staged).roster = s.roster := by
  unfold writeMemTile
  extract_lets x m s1 mine s2 s3 s4
  have h1 : s1.roster = s.roster := by
    unfold s1
    split
    · rfl
    · exact roster_clearRange
  have h2 : s2.roster = s1.roster := roster_foldl fun _ _ => roster_writeData
  have h3 : s3.roster = s2.roster := roster_foldl fun _ _ => roster_storeWords
  have h4 : s4.roster = s3.roster := roster_emptyBanks
  exact h4.trans (h3.trans (h2.trans h1))

theorem roster_writeTile {g : Region} {img : Nat} {c : Course} {p : Nat × Nat} {staged : List (Nat × List PWord)} :
    (writeTile s g img c p staged).roster = s.roster := by
  unfold writeTile
  dsimp only
  split
  · exact roster_writeMemTile
  · exact roster_foldl fun _ _ => roster_writeElem

theorem sound_ackTile {rid : Nat} {a0 : BitVec 11} (h : Sound s₀ s) : Sound s₀ (ackTile s rid a0) := by
  unfold ackTile
  have ht := sound_setRg (rid := rid) (g := { s.rg rid with acked := a0 :: (s.rg rid).acked })
    (sound_writeTile (g := s.rg rid) (img := (s.task (s.rg rid).die (s.rg rid).task.toNat).image) (c := (s.rg rid).course)
      (p := (s.rg rid).placeOf a0) (staged := (s.task (s.rg rid).die (s.rg rid).task.toNat).staged) h)
    (asleep_of_roster roster_writeTile)
  exact Sound.ite (sound_installEdges ht) ht

theorem sound_execTileLoadAck {rid : Nat} {a1 : BitVec 11} (h : Sound s₀ s) : SoundOut s₀ (execTileLoadAck rid a1 s) := by
  unfold execTileLoadAck
  refine SoundOut.next ?_
  split
  · split
    · exact sound_failLoad h
    · exact sound_ackTile h
  · exact h

theorem sound_openNode {n : NodeRef} (h : Sound s₀ s) : Sound s₀ (openNode s n) := sound_updNd h (fun _ h1 => h1)

theorem sound_reviveLatch {n : NodeRef} (h : Sound s₀ s) : Sound s₀ (reviveLatch s n) := by
  unfold reviveLatch
  dsimp only
  split
  · exact h
  · split
    · exact sound_updNd h (fun _ h4 => ordered_setLatchBit h4)
    · split
      · exact h
      · exact Sound.ite (sound_completeLatch (sound_updNd (sound_claim h) (fun _ h5 => h5))) (sound_queryLatch (sound_updNd (sound_claim h)
          (fun _ h6 => h6)))

theorem sound_reviveNode {n : NodeRef} (h : Sound s₀ s) : Sound s₀ (reviveNode s n) :=
  sound_recheckToken (sound_reviveLatch (sound_updNd h (fun _ h1 => h1)))

theorem sound_installRoute {rid : Nat} {i : Nat} {p : Nat × Nat} (h : Sound s₀ s) : Sound s₀ (installRoute s rid i p) := by
  unfold installRoute
  exact sound_updRg (sound_addRoute h) (fun _ => rfl)

theorem sound_linkPort {rid : Nat} {i : Nat} (h : Sound s₀ s) : Sound s₀ (linkPort s rid i) := by
  unfold linkPort
  split
  · exact h
  · split
    · exact sound_linkBroken h
    · split
      · exact sound_installRoute h
      · exact h

theorem sound_openPorts {rid : Nat} {a1 : BitVec 11} (h : Sound s₀ s) : Sound s₀ (openPorts s rid a1) := by
  unfold openPorts
  exact Sound.foldl (Sound.foldl h (fun _ _ h1 => Sound.ite (sound_linkPort h1) h1)) (fun _ _ h2 => Sound.foldl h2 (fun _ _ h3 => Sound.ite
    (sound_linkPort h3) h3))

theorem sound_startTask {rid : Nat} (h : Sound s₀ s) : Sound s₀ (startTask s rid) :=
  Sound.foldl (sound_setTask h) (fun _ _ h1 => Sound.ite (sound_updRg (sound_sendSuccessor h1) (fun _ => rfl)) h1)

theorem sound_openElems {a0 : TileRef} (h : Sound s₀ s) : Sound s₀ (openElems s a0) :=
  Sound.ite (Sound.foldl h (fun _ _ h1 => sound_updEl h1)) h

theorem sound_openTile {rid : Nat} {a1 : BitVec 11} (h : Sound s₀ s) : Sound s₀ (openTile s rid a1) :=
  sound_openPorts (Sound.ite (sound_startTask (sound_updRg h (fun _ => rfl))) (sound_updRg h (fun _ => rfl)))

theorem sound_execRegionOpen {rid : Nat} {a1 : BitVec 11} (h : Sound s₀ s) : SoundOut s₀ (execRegionOpen rid a1 s) := by
  unfold execRegionOpen
  exact SoundOut.next (Sound.ite (sound_openTile (Sound.foldl (sound_openElems h) (fun _ _ h1 => Sound.ite (sound_reviveNode h1)
    (sound_openNode h1)))) h)

theorem sound_endRoute {rid i : Nat} {e : Edge} (h : Sound s₀ s) : Sound s₀ (endRoute s rid i e) := by
  unfold endRoute
  extract_lets s1
  have h1 : Sound s₀ s1 := sound_dropFlits (h.same rfl)
  exact sound_linkPort (sound_updRg h1 fun _ => rfl)

theorem sound_execStreamEnd {rid : Nat} {i : BitVec 3} (h : Sound s₀ s) : SoundOut s₀ (execStreamEnd rid i s) := by
  unfold execStreamEnd
  refine SoundOut.next ?_
  split
  · exact h
  · exact sound_endRoute h

theorem sound_endRoutes {g : Region} (h : Sound s₀ s) : Sound s₀ (endRoutes s g) := by
  unfold endRoutes
  refine Sound.foldl h (fun _ _ h1 => ?_)
  split
  · exact Sound.ite (sound_updEd h1) h1
  · exact h1

theorem roster_endRoutes {g : Region} : (endRoutes s g).roster = s.roster := by
  unfold endRoutes
  refine roster_foldl fun _ _ => ?_
  repeat' split
  all_goals rfl

theorem sound_execQuiescence {rid : Nat} (h : Sound s₀ s) : SoundOut s₀ (execQuiescence rid s) := by
  unfold execQuiescence
  refine SoundOut.next (Sound.ite (Sound.ite (sound_setTask (sound_setRg (sound_endRoutes h) ?_)) (sound_failTask (sound_unloadRegion h)))
    h)
  exact asleep_of_roster roster_endRoutes

theorem sound_execReconfigTokenPass {rid : Nat} (h : Sound s₀ s) : SoundOut s₀ (execReconfigTokenPass rid s) :=
  SoundOut.next (Sound.ite (sound_retire (sound_setTask (sound_unloadRegion h))) h)

theorem sound_execStallWatchdog {rid : Nat} (h : Sound s₀ s) : SoundOut s₀ (execStallWatchdog rid s) :=
  SoundOut.next (Sound.ite (sound_sendTrap (sound_setRg h rfl)) h)

theorem sound_serviceRecord {a0 : Trap} (h : Sound s₀ s) : Sound s₀ (serviceRecord s a0) := sound_logDie h

theorem sound_enterRecord {n : NodeRef} {ts : List Token} (h : Sound s₀ s) : Sound s₀ (enterRecord s n ts).2 :=
  sound_touchRegion (sound_updNd h (fun _ h1 => Node.Ordered.foldl h1 (fun _ _ h2 => ordered_enterCi h2)))

theorem sound_execTrapRecordDelivery {i : Nat} (h : Sound s₀ s) : SoundOut s₀ (execTrapRecordDelivery i s) := by
  unfold execTrapRecordDelivery
  refine SoundOut.next ?_
  split
  · exact h
  · split
    · exact sound_serviceRecord (h.same rfl)
    · exact Sound.ite h (Sound.ite (sound_serviceRecord (h.same rfl)) (Sound.ite ((sound_enterRecord h).same rfl) ((sound_enterRecord
        h).same rfl)))

/-! ## Machine/Records -/

theorem sound_restoreTile {a0 : TileRef} {g : Region} {x : TileSave} (h : Sound s₀ s) : Sound s₀ (restoreTile s a0 g x) :=
  sound_setTl (Sound.foldl (sound_clearRange h) (fun _ _ h1 => sound_setMeta ((h1.withMem fun hw => writeBytes_wf hw _ _).same rfl)))

theorem sound_reloadBlocks {e : ElemRef} {d : BitVec 4} {cx : List DWord} (h : Sound s₀ s) : Sound s₀ (reloadBlocks s e d cx) := by
  unfold reloadBlocks
  split
  · exact h
  · refine Sound.foldl h (fun _ _ h1 => ?_)
    split
    · split
      · exact sound_finishLoad h1
      · exact h1
    · exact h1

theorem sound_resendHeld {e : ElemRef} {xs : List StoreEntry} (h : Sound s₀ s) : Sound s₀ (resendHeld s e xs) :=
  Sound.foldl h (fun _ _ h1 => sound_updEl (sound_request h1))

theorem sound_restoreDomain {e : ElemRef} {d : BitVec 4} {y : DomainImage} (h : Sound s₀ s) : Sound s₀ (restoreDomain s e d y) :=
  sound_resendHeld (sound_reloadBlocks (Sound.foldl (sound_setEl ((h.filterReqs _).same rfl)) (fun _ _ h1 => sound_storeWords h1)))

theorem ordered_nodeOfRecord {w : List Word} : (nodeOfRecord w).Ordered := Map.sorted_filter _ rfl

theorem sound_restoreNode {n : NodeRef} {w : List Word} (h : Sound s₀ s) : Sound s₀ (restoreNode s n w) :=
  sound_setNd h fun _ => ordered_nodeOfRecord

theorem ordered_steerSpare (hnd : nd.Ordered) : (steerSpare nd).Ordered := hnd

theorem sound_restoreParts {rid : Nat} {x : ContextImage} (h : Sound s₀ s) : Sound s₀ (restoreParts s rid x) := by
  unfold restoreParts
  exact (Sound.foldl (Sound.foldl h (fun _ _ h1 => sound_updNd (sound_restoreNode h1) (fun _ h2 => ordered_steerSpare h2))) (fun _ _ h3 =>
    Sound.foldl h3 (fun _ _ h4 => sound_restoreDomain h4))).same rfl

/-! ## Machine/Snapshot -/

theorem sound_pushMark {p : Port} {x : Snapshot} (h : Sound s₀ s) : SoundOpt s₀ (pushMark s p x) := by
  unfold pushMark
  dsimp only
  split
  · split
    · exact SoundOpt.some ((sound_sendOn h).same rfl)
    · exact SoundOpt.none
  · split
    · exact SoundOpt.some (h.same rfl)
    · exact SoundOpt.none
  · exact SoundOpt.some h

theorem sound_unmarkCourse {rid : Nat} {g : Region} (h : Sound s₀ s) : Sound s₀ (unmarkCourse s rid g) :=
  Sound.foldl (h.same rfl) (fun _ _ h1 => sound_updNd h1 (fun _ h2 => h2))

theorem roster_unmarkCourse {rid : Nat} {g : Region} : (unmarkCourse s rid g).roster = s.roster := roster_foldl fun _ _ => rfl

theorem sound_beginSnapshot {rid : Nat} {dom : Option (BitVec 4)} (h : Sound s₀ s) : Sound s₀ (beginSnapshot s rid dom).1 := by
  unfold beginSnapshot
  refine sound_setRg (Sound.ite (sound_unmarkCourse h) h) (asleep_of_roster ?_)
  split
  · exact roster_unmarkCourse
  · rfl

theorem sound_performMark {n : NodeRef} {d : BitVec 4} (h : Sound s₀ s) : Sound s₀ (performMark s n d).1 := by
  unfold performMark
  split
  · exact h
  · split
    · exact h
    · exact sound_beginSnapshot h

theorem sound_execMark {f : Fields} (h : Sound s₀ s) : SoundOut s₀ (execMark f s) := by
  unfold execMark
  refine sound_issue h (fun _ _ h1 => ?_)
  split
  · exact SoundExcFst.pair h1
  · exact SoundExcFst.ok (sound_askUnit h1)

theorem sound_markSource {rid : Nat} {g : Region} {x : Snapshot} {a3 : TileRef} {p : BitVec 4} (h : Sound s₀ s) :
    Sound s₀ (markSource s rid g x a3 p) := by
  unfold markSource
  dsimp only
  split
  · split
    · exact h
    · split
      · exact h.same rfl
      · split
        · exact sound_setTport h
        · split
          · exact h
          · split
            · exact sound_setTport h
            · split
              · split
                · exact sound_setTport ((sound_pushMark h) _ ‹_›)
                · exact h
              · exact h
  · split
    · split
      · exact h
      · split
        · exact sound_updRg ((sound_pushMark h) _ ‹_›) (fun _ => rfl)
        · exact h
    · exact Sound.ite (SoundOpt.getD (sound_pushMark h) h) h

theorem sound_execMarkSend {rid : Nat} {p : Port} (h : Sound s₀ s) : SoundOut s₀ (execMarkSend rid p s) := by
  unfold execMarkSend
  refine SoundOut.next ?_
  split
  · exact Sound.ite (sound_markSource h) h
  · exact h

theorem sound_markAtChannel {e : Edge} {q : List Token} {a2 : Token} {n : NodeRef} {k : BitVec 2} (h : Sound s₀ s) :
    Sound s₀ (markAtChannel s e q a2 n k) := by
  unfold markAtChannel
  exact Sound.ite (Sound.ite (sound_updNd (sound_fire (sound_setEd h)) (fun _ h1 => h1)) h) (Sound.ite (sound_arriveChannel (sound_fire
    (sound_setEd h))) h)

theorem sound_markAtPort {e : Edge} {q : List Token} {a2 : Token} {m : TileRef} {p : BitVec 4} (h : Sound s₀ s) :
    Sound s₀ (markAtPort s e q a2 m p) := by
  unfold markAtPort
  dsimp only
  split
  · exact SoundOpt.getD (sound_arrivePort (sound_fire (sound_setEd h))) h
  · split
    · split
      · exact sound_setTport (sound_setTport (sound_fire (sound_setEd h)))
      · split
        · split
          · exact sound_setTport (sound_setTport ((sound_pushMark (sound_fire (sound_setEd h))) _ ‹_›))
          · exact h
        · exact SoundOpt.getD (sound_arrivePort (sound_fire (sound_setEd h))) h
    · exact Sound.ite (sound_setTport (sound_fire (sound_setEd h))) (SoundOpt.getD (sound_arrivePort (sound_fire (sound_setEd h))) h)

theorem sound_execMarkArrival {e : Nat} (h : Sound s₀ s) : SoundOut s₀ (execMarkArrival e s) := by
  unfold execMarkArrival
  refine SoundOut.next ?_
  split
  · exact h
  · split
    · exact h
    · split
      · exact sound_markAtChannel h
      · exact Sound.ite h (sound_markAtPort h)
      · exact h

theorem sound_sendMarks {n : NodeRef} {x : Snapshot} (h : Sound s₀ s) : Sound s₀ (sendMarks s n x) :=
  Sound.foldl h (fun _ _ h1 => (sound_updNd h1 (fun _ h2 => ordered_setCo h2)).same rfl)

theorem sound_alignNode {n : NodeRef} {x : Snapshot} (h : Sound s₀ s) : Sound s₀ (alignNode s n x) :=
  Sound.ite (sound_sendMarks h) (sound_sendMarks (sound_updNd (((sound_withdraw h).filterReqs _).same rfl) (fun _ h1 => h1)))

theorem sound_execNodeAlign {n : NodeRef} (h : Sound s₀ s) : SoundOut s₀ (execNodeAlign n s) := by
  unfold execNodeAlign
  refine SoundOut.next ?_
  split
  · exact h
  · split
    · exact h
    · exact Sound.ite (sound_alignNode h) h

theorem sound_holdSections {g : Region} {x : Snapshot} (h : Sound s₀ s) : Sound s₀ (holdSections s g x) :=
  Sound.foldl h (fun _ _ h1 => Sound.ite (sound_updEl h1) h1)

theorem sound_wakeSaves {g : Region} {d : BitVec 4} (h : Sound s₀ s) : Sound s₀ (wakeSaves s g d) := by
  unfold wakeSaves
  refine Sound.foldl h (fun _ _ h1 => ?_)
  split
  · split
    · exact Sound.ite (sound_updNd (sound_request h1) (fun _ h2 => h2)) h1
    · exact h1
  · exact h1

theorem sound_emptyTile {a0 : TileRef} {rid : Nat} (h : Sound s₀ s) : Sound s₀ (emptyTile s a0 rid) := sound_updTl h

theorem kept_saveCourse {rid : Nat} {x : Snapshot} : Kept s (saveCourse s rid x) := by
  unfold saveCourse
  extract_lets g ws a w w1 s1 asleep bad routes s2 net s3 s4 s5
  split
  · exact (Sound.refl s).kept
  · split
    · have h1 : Sound s s1 := ((sound_writePart (Sound.refl s)).filterReqs _).same rfl
      have h3 : Sound s2 s3 := Sound.foldl (Sound.refl s2) fun _ _ h => sound_emptyTile h
      have h4 : Sound s2 s4 := sound_vacate h3
      clear_value s4
      have h5 : Sound s2 s5 := sound_dropFlits (h4.same rfl)
      clear_value s5
      exact h1.trans_kept (kept_sleep h5 rfl)
    · exact (Sound.refl s).kept

theorem sound_execSnapshotComplete {rid : Nat} (h : Sound s₀ s) : SoundOut s₀ (execSnapshotComplete rid s) := by
  unfold execSnapshotComplete
  refine SoundOut.keeps ?_
  split
  · exact h.kept
  · split
    · split
      · exact h.trans_kept kept_saveCourse
      · extract_lets s1 s2
        have h1 : Sound s₀ s1 := sound_holdSections h
        have h2 : Sound s₀ s2 := sound_updRg h1 fun _ => rfl
        exact (sound_wakeSaves h2).kept
    · exact h.kept

theorem sound_unitWrites {r : Req} {va : Nat} {ws : List Word} (h : Sound s₀ s) : Sound s₀ (unitWrites s r va ws).1 := by
  induction ws generalizing s va with
  | nil => exact h
  | cons w ws ih =>
    unfold unitWrites
    split
    · exact h
    · split
      · exact h
      · exact ih ((sound_unitStore h) _ ‹_›)

theorem sound_performSave {r : Req} {d : BitVec 4} (h : Sound s₀ s) : Sound s₀ (performSave s r d).1 := by
  unfold performSave
  split
  · exact h
  · split
    · exact h
    · split
      · exact Sound.of_fst (sound_unitWrites h) ‹_›
      · exact Sound.of_fst (sound_unitWrites h) ‹_›

theorem sound_askImage {o : Opnds} {va : BitVec 56} {op : Op} (h : Sound s₀ s) : Sound s₀ (askImage s o va op).1 := sound_request h

theorem sound_execSave {f : Fields} (h : Sound s₀ s) : SoundOut s₀ (execSave f s) := by
  unfold execSave
  refine sound_issue h (fun _ _ h1 => ?_)
  split
  · exact SoundExcFst.pair h1
  · exact SoundExcFst.error
  · split
    · exact SoundExcFst.pair h1
    · split
      · exact SoundExcFst.ok (sound_askImage h1)
      · split
        · exact SoundExcFst.pair h1
        · exact SoundExcFst.pair h1

theorem sound_thawPorts {g : Region} {dom : Option (BitVec 4)} (h : Sound s₀ s) : Sound s₀ (thawPorts s g dom) :=
  Sound.foldl h (fun _ _ h1 => sound_updTl h1)

theorem sound_thawSections {g : Region} {dom : BitVec 4} (h : Sound s₀ s) : Sound s₀ (thawSections s g dom) :=
  Sound.foldl h (fun _ _ h1 => Sound.ite (sound_updEl h1) h1)

theorem sound_performRest {r : Req} {d : BitVec 4} (h : Sound s₀ s) : Sound s₀ (performRest s r d).1 := by
  unfold performRest
  split
  · exact h
  · split
    · exact h
    · split
      · dsimp only
        split
        · exact sound_slotRecord h
        · exact h
      · exact Sound.foldl (sound_updRg (sound_thawSections (sound_thawPorts (sound_restoreParts h))) (fun _ => rfl)) (fun _ _ h1 =>
          sound_reviveNode h1)

theorem sound_execRest {f : Fields} (h : Sound s₀ s) : SoundOut s₀ (execRest f s) := by
  unfold execRest
  refine sound_issue h (fun _ _ h1 => ?_)
  split
  · exact SoundExcFst.pair h1
  · exact SoundExcFst.error
  · exact SoundExcFst.ok (sound_askImage h1)

theorem sound_preemptLoad {rid : Nat} (h : Sound s₀ s) : Sound s₀ (preemptLoad s rid) := by
  unfold preemptLoad
  exact sound_updTask (sound_abandonLoad h)

theorem sound_preemptCourse {rid : Nat} (h : Sound s₀ s) : Sound s₀ (preemptCourse s rid) :=
  Sound.ite (sound_preemptLoad h) (Sound.ite (sound_beginSnapshot h) h)

theorem sound_execWholeCoursePreempt {rid : Nat} (h : Sound s₀ s) : SoundOut s₀ (execWholeCoursePreempt rid s) :=
  SoundOut.next (Sound.ite (sound_preemptCourse h) h)

theorem sound_useSaved {p : BitVec 5} {at_ : Nat} {n : Nat} (h : Sound s₀ s) : Sound s₀ (useSaved s p at_ n) := sound_usePart h

/-- Tokens that stopped the nodes of a course stand there again. -/
def State.withBad (s : State) (l : List (NodeRef × (BitVec 2 × Token × Bool))) : State :=
  l.foldl (fun s b => s.updNd b.1 (fun nd => { nd with badToken := some b.2 })) s

theorem withBad_withReqs {l : List (NodeRef × (BitVec 2 × Token × Bool))} {rs : List Req} :
    State.withBad { s with reqs := rs } l = { s.withBad l with reqs := rs } := by
  induction l generalizing s with
  | nil => rfl
  | cons b l ih => exact ih (s := s.updNd b.1 (fun nd => { nd with badToken := some b.2 }))

theorem reqs_withBad {l : List (NodeRef × (BitVec 2 × Token × Bool))} : (s.withBad l).reqs = s.reqs := by
  have h := congrArg State.reqs (withBad_withReqs (s := s) (l := l) (rs := s.reqs))
  exact h

theorem roster_withBad {l : List (NodeRef × (BitVec 2 × Token × Bool))} : (s.withBad l).roster = s.roster := roster_foldl fun _ _ => rfl

theorem sound_withBad {l : List (NodeRef × (BitVec 2 × Token × Bool))} (h : Sound s₀ s) : Sound s₀ (s.withBad l) :=
  Sound.foldl h fun _ _ h => sound_updNd h fun _ h => h

theorem roster_restoreTile {t : TileRef} {g : Region} {x : TileSave} : (restoreTile s t g x).roster = s.roster := by
  unfold restoreTile
  extract_lets s1
  exact (roster_foldl (fun _ _ => rfl) : s1.roster = _)

theorem roster_finishLoad {n : NodeRef} {c : BitVec 4} {ws : List PWord} : (finishLoad s n c ws).1.roster = s.roster := by
  unfold finishLoad
  dsimp only
  split <;> rfl

theorem roster_reloadBlocks {e : ElemRef} {d : BitVec 4} {cx : List DWord} : (reloadBlocks s e d cx).roster = s.roster := by
  unfold reloadBlocks
  split
  · rfl
  · refine roster_foldl fun _ _ => ?_
    split
    · split
      · exact roster_finishLoad
      · rfl
    · rfl

theorem roster_resendHeld {e : ElemRef} {xs : List StoreEntry} : (resendHeld s e xs).roster = s.roster := roster_foldl fun _ _ => rfl

theorem roster_restoreDomain {e : ElemRef} {d : BitVec 4} {y : DomainImage} : (restoreDomain s e d y).roster = s.roster := by
  unfold restoreDomain
  extract_lets x el mine gates drop ids boxes hdrs el' s1 s2
  have h2 : s2.roster = s.roster := roster_foldl fun _ _ => roster_storeWords
  exact roster_resendHeld.trans (roster_reloadBlocks.trans h2)

theorem roster_restoreParts {rid : Nat} {x : ContextImage} : (restoreParts s rid x).roster = s.roster := by
  unfold restoreParts
  extract_lets s1 s2 mine
  have h1 : s1.roster = s.roster := roster_foldl fun _ _ => rfl
  have h2 : s2.roster = s1.roster := roster_foldl fun _ _ => roster_foldl fun _ _ => roster_restoreDomain
  exact h2.trans h1

theorem roster_installEdges {g : Region} {c : Course} : (installEdges s g c).roster = s.roster := by
  unfold installEdges
  extract_lets s1
  have h1 : s1.roster = s.roster := roster_foldl fun _ _ => rfl
  refine (roster_foldl fun s f => ?_).trans h1
  extract_lets k r
  have hr : r.1.roster = s.roster := by
    refine (foldl_keeps (v := fun x : State × List Branch => x.1.roster) (fun _ _ => ?_) _ _).trans ?_ <;> rfl
  exact hr

theorem roster_fillBlocks {g : Region} {c : Course} {t : Task} : (fillBlocks s g c t).roster = s.roster := roster_foldl fun _ _ => rfl

theorem sound_restoreCourse {rid : Nat} {x : ContextImage} (h : Sound s₀ s) : Sound s₀ (restoreCourse s rid x) := by
  unfold restoreCourse
  extract_lets g task s1 s2 s3 s4 ids s5 s6
  have h1 : Sound s₀ s1 := Sound.foldl h fun _ _ h => Sound.ite h (sound_writeTile h)
  have h2 : Sound s₀ s2 := Sound.foldl h1 fun _ _ h => sound_restoreTile h
  have h3 : Sound s₀ s3 := sound_restoreParts (sound_installEdges h2)
  have h4 : Sound s₀ s4 := sound_fillBlocks h3
  have e1 : s1.roster = s.roster := by
    refine roster_foldl fun _ _ => ?_
    split
    · rfl
    · exact roster_writeTile
  have e2 : s2.roster = s1.roster := roster_foldl fun _ _ => roster_restoreTile
  have e3 : s3.roster = s2.roster := roster_restoreParts.trans roster_installEdges
  have e4 : s4.rg rid = g := rg_of_roster (roster_fillBlocks.trans (e3.trans (e2.trans e1)))
  clear_value s4
  have hbad : s6 = { s4.withBad g.bad with reqs := (s4.withBad g.bad).reqs ++ g.asleep.filter (fun r => ids.contains r.id && stillWaits s4
    r) } := by
    rw [reqs_withBad]
    exact withBad_withReqs
  clear_value s6
  subst hbad
  refine (sound_withBad h4).wake ?_ rfl
  rw [rg_of_roster roster_withBad, e4]
  exact List.filter_sublist.map _

/-! ## Machine/Select -/

theorem sound_charge {d : BitVec 4} {used : List (Nat × Nat)} (h : Sound s₀ s) : Sound s₀ (charge s d used) := h.same rfl

theorem sound_execAgePromotion {die : BitVec 4} {i : BitVec 14} (h : Sound s₀ s) : SoundOut s₀ (execAgePromotion die i s) :=
  SoundOut.next (Sound.ite (sound_setTask h) h)

theorem sound_execHeadBlock {die : BitVec 4} (h : Sound s₀ s) : SoundOut s₀ (execHeadBlock die s) := by
  unfold execHeadBlock
  refine SoundOut.next ?_
  split
  · exact Sound.ite (sound_setDie h) h
  · exact h

theorem sound_restoreWhole {rid : Nat} {st : RegionState} {ws : Option (List Word)} (h : Sound s₀ s) :
    Sound s₀ (restoreWhole s rid st ws) := by
  unfold restoreWhole
  dsimp only
  split
  · exact sound_failLoad h
  · split
    · exact sound_failLoad h
    · exact sound_restoreCourse (sound_setRg h rfl)

theorem sound_loadSaved {rid : Nat} (h : Sound s₀ s) : Sound s₀ (loadSaved s rid) := by
  unfold loadSaved
  dsimp only
  split
  · exact sound_failLoad (sound_useSaved h)
  · exact sound_restoreWhole (sound_useSaved h)

theorem sound_startLoad {d : BitVec 4} {i : Nat} {o : Nat × Nat} {a0 : Header} {c : Course} (h : Sound s₀ s) :
    Sound s₀ (startLoad s d i o a0 c) := by
  unfold startLoad
  extract_lets f old w0 w g s1 s2 s3
  have h1 : Sound s₀ s1 := sound_setRg_awake (sound_setTask (sound_fresh h)) rfl
  have h2 : Sound s₀ s2 := sound_fillBlocks h1
  have h3 : Sound s₀ s3 := h2.same rfl
  exact Sound.ite (sound_loadSaved h3) h3

theorem sound_unblock {d : BitVec 4} {i : Nat} (h : Sound s₀ s) : Sound s₀ (unblock s d i) := sound_updDie h

theorem sound_takeReady {d : BitVec 4} {i : Nat} {a : Placement} (h : Sound s₀ s) : Sound s₀ (takeReady s d i a) := by
  unfold takeReady
  split
  · dsimp only
    split
    · exact sound_stripTouch h
    · split
      · exact sound_failTask (sound_unblock (sound_stripTouch h))
      · exact sound_startLoad (sound_unblock (sound_stripTouch h))
  · exact sound_failTask (sound_unblock (sound_stripTouch h))
  · exact h
  · exact h

theorem sound_noteHead {d : BitVec 4} {head : Nat} (h : Sound s₀ s) : Sound s₀ (noteHead s d head) := by
  unfold noteHead
  dsimp only
  split
  · exact h
  · split
    · exact Sound.ite h (sound_setDie h)
    · exact sound_setDie h

theorem sound_selectTask {d : BitVec 4} (h : Sound s₀ s) : Sound s₀ (selectTask s d) := by
  unfold selectTask
  split
  · exact h
  · dsimp only
    split
    · exact sound_noteHead h
    · exact sound_takeReady (sound_noteHead h)

theorem sound_bringBack {rid : Nat} (h : Sound s₀ s) : Sound s₀ (bringBack s rid) := sound_restoreWhole (sound_useSaved h)

theorem sound_execTaskSelect {die : BitVec 4} {used : List (Nat × Nat)} (h : Sound s₀ s) : SoundOut s₀ (execTaskSelect die used s) := by
  unfold execTaskSelect
  refine SoundOut.next ?_
  split
  · exact sound_charge h
  · split
    · exact sound_bringBack (sound_charge h)
    · exact Sound.ite (sound_selectTask (sound_charge h)) (sound_charge h)

end Sys2Proof.Machine
end

section
/-! SUPPORT. `Sound` through management and bring-up (O8, O9). -/

namespace Sys2Proof.Machine
open Sys2Proof.Claims

variable {s₀ s t : State} {nd : Node}

/-! ## Machine/Manage -/

theorem sound_closeEntry {pf : Bool} {status : Nat} {res : List (Nat × Word)} (h : Sound s₀ s) : Sound s₀ (closeEntry s pf status res) :=
  (Sound.ite (sound_signal (sound_updHport h)) (sound_updHport h)).same rfl

theorem sound_serve {op : Nat} {pf : Bool} {go : State → List Word → Served} (h : Sound s₀ s)
    (hgo : ∀ t x0, Sound s₀ t → SoundServed s₀ (go t x0)) : Sound s₀ (serve op pf s go) := by
  unfold serve
  split
  · dsimp only
    split
    · split
      · exact sound_closeEntry (SoundServed.of_answer (hgo _ _ h) ‹_›)
      · exact sound_updHport (SoundServed.of_wait (hgo _ _ h) ‹_›)
    · exact Sound.ite h (sound_closeEntry h)
  · exact h

theorem sound_plain {x : State × Nat} (hx : Sound s₀ x.1) : SoundServed s₀ (plain x) := SoundServed.answer hx

theorem sound_setBlock {p : BitVec 5} {b : List Word} (h : Sound s₀ s) : Sound s₀ (setBlock s p b) := Sound.ite (h.same rfl) (sound_updPt h)

theorem sound_execPsetCommand {pf : Bool} {block : List Word} (h : Sound s₀ s) : SoundOut s₀ (execPsetCommand pf block s) := by
  unfold execPsetCommand
  refine SoundOut.next (sound_serve h (fun _ _ h1 => ?_))
  dsimp only
  split
  · exact sound_plain h1
  · split
    · exact sound_plain h1
    · split
      · exact sound_plain h1
      · split
        · exact sound_plain h1
        · exact sound_plain (sound_setBlock h1)

theorem sound_setPartNode {p : BitVec 5} {n : Nat} (h : Sound s₀ s) : Sound s₀ (s.setPartNode p n) := sound_updPt h

theorem sound_execPsplit {pf : Bool} (h : Sound s₀ s) : SoundOut s₀ (execPsplit pf s) := by
  unfold execPsplit
  refine SoundOut.next (sound_serve h (fun _ _ h1 => ?_))
  split
  · exact sound_plain h1
  · dsimp only
    split
    · exact sound_plain h1
    · split
      · exact sound_plain h1
      · exact sound_plain (sound_setPt (sound_setPartNode h1))

theorem sound_execPmerge {pf : Bool} (h : Sound s₀ s) : SoundOut s₀ (execPmerge pf s) := by
  unfold execPmerge
  refine SoundOut.next (sound_serve h (fun _ _ h1 => ?_))
  split
  · exact sound_plain h1
  · dsimp only
    split
    · exact sound_plain h1
    · split
      · exact sound_plain h1
      · exact sound_plain (h1.same rfl)

theorem sound_setPartState {p : BitVec 5} {v : Nat} (h : Sound s₀ s) : Sound s₀ (s.setPartState p v) := sound_updPt h

theorem sound_execPpre {pf : Bool} (h : Sound s₀ s) : SoundOut s₀ (execPpre pf s) := by
  unfold execPpre
  refine SoundOut.next (sound_serve h (fun _ _ h1 => ?_))
  split
  · exact sound_plain h1
  · split
    · exact sound_plain h1
    · split
      · exact sound_plain h1
      · split
        · exact sound_plain (sound_setPartState h1)
        · exact sound_plain (Sound.foldl (sound_setPartState h1) (fun _ _ h2 => sound_preemptCourse h2))

theorem sound_dropLines {k : BitVec 13} (h : Sound s₀ s) : Sound s₀ (dropLines s k) :=
  Sound.foldl h (fun _ _ h1 => (h1.withMem fun hw => writeBytes_wf hw _ _).same rfl)

theorem sound_secured {pf : Bool} {op : Nat} {m : List Word} {go : State → State × Nat} (h : Sound s₀ s)
    (hgo : ∀ t, Sound s₀ t → Sound s₀ (go t).1) : Sound s₀ (secured pf op m s go) := by
  unfold secured
  refine sound_updHport ?_
  split
  · exact hgo _ h
  · exact h

theorem sound_execKload {pf : Bool} {m : List Word} (h : Sound s₀ s) : SoundOut s₀ (execKload pf m s) := by
  unfold execKload
  refine SoundOut.next (sound_secured h (fun _ h1 => ?_))
  dsimp only
  split
  · exact h1
  · split
    · exact h1
    · exact h1.same rfl

theorem sound_dropKey {k : BitVec 13} (h : Sound s₀ s) : Sound s₀ (dropKey s k) := sound_evict h

theorem sound_execKshare {pf : Bool} (h : Sound s₀ s) : SoundOut s₀ (execKshare pf s) := by
  unfold execKshare
  refine SoundOut.next (sound_serve h (fun s ws h1 => ?_))
  extract_lets k x m gone put
  have hput : ∀ s w, Sound s₀ s → Sound s₀ (put s w) := fun _ _ h2 => h2.same rfl
  split
  · exact sound_plain h1
  · split
    · exact sound_plain h1
    · split
      · exact sound_plain (hput _ _ h1)
      · split
        · exact SoundServed.wait (hput _ _ h1)
        · exact sound_plain (hput _ _ (sound_dropKey h1))

theorem sound_execKfree {pf : Bool} (h : Sound s₀ s) : SoundOut s₀ (execKfree pf s) := by
  unfold execKfree
  refine SoundOut.next (sound_serve h (fun _ _ h1 => ?_))
  dsimp only
  split
  · exact sound_plain h1
  · split
    · exact sound_plain h1
    · split
      · exact SoundServed.wait (h1.same rfl)
      · exact sound_plain ((sound_dropLines (sound_dropKey h1)).same rfl)

theorem sound_dropTranslations {c : Cover} (h : Sound s₀ s) : Sound s₀ (dropTranslations s c) :=
  (h.mapReqs (fun _ => by split <;> rfl)).same rfl

theorem sound_wakeHeld {p : BitVec 5} (h : Sound s₀ s) : Sound s₀ (wakeHeld s p) := h.same rfl

theorem sound_execInval {pf : Bool} (h : Sound s₀ s) : SoundOut s₀ (execInval pf s) := by
  unfold execInval
  refine SoundOut.next (sound_serve h (fun _ _ h1 => ?_))
  dsimp only
  split
  · exact sound_plain h1
  · exact sound_plain (sound_wakeHeld (sound_dropTranslations h1))

theorem sound_execQreg {pf : Bool} (h : Sound s₀ s) : SoundOut s₀ (execQreg pf s) := by
  unfold execQreg
  refine SoundOut.next (sound_serve h (fun _ _ h1 => ?_))
  dsimp only
  split
  · exact sound_plain h1
  · split
    · exact sound_plain h1
    · split
      · exact sound_plain (sound_usePart h1)
      · exact sound_plain ((sound_usePart h1).same rfl)

theorem sound_forgetQueue {r : QReg} (h : Sound s₀ s) : Sound s₀ (forgetQueue s r) := by
  unfold forgetQueue
  extract_lets s1 s2
  have h1 : Sound s₀ s1 := by
    unfold s1
    split
    · exact sound_unmapSlot h
    · exact h
  exact sound_serveHeld (h1.same rfl : Sound s₀ s2)

theorem sound_execQunreg {pf : Bool} (h : Sound s₀ s) : SoundOut s₀ (execQunreg pf s) := by
  unfold execQunreg
  refine SoundOut.next (sound_serve h (fun _ _ h1 => ?_))
  dsimp only
  split
  · exact sound_plain h1
  · split
    · exact sound_plain h1
    · exact sound_plain (sound_forgetQueue h1)

theorem sound_execFassign {pf : Bool} (h : Sound s₀ s) : SoundOut s₀ (execFassign pf s) := by
  unfold execFassign
  refine SoundOut.next (sound_serve h (fun _ _ h1 => ?_))
  dsimp only
  split
  · exact sound_plain h1
  · split
    · exact sound_plain h1
    · exact sound_plain (h1.same rfl)

theorem sound_partQueuesError {p : BitVec 5} {reason : Nat} (h : Sound s₀ s) : Sound s₀ (partQueuesError s p reason) :=
  Sound.foldl h (fun _ _ h1 => sound_regError h1)

theorem sound_execTdiError {vf : BitVec 11} (h : Sound s₀ s) : SoundOut s₀ (execTdiError vf s) := by
  unfold execTdiError
  refine SoundOut.next ?_
  split
  · exact h.same rfl
  · exact sound_partQueuesError (h.same rfl)

theorem sound_execTdispRequest {vf : BitVec 11} {run : Bool} (h : Sound s₀ s) : SoundOut s₀ (execTdispRequest vf run s) := by
  unfold execTdispRequest
  refine SoundOut.next ?_
  split
  · exact h.same rfl
  · exact h.same rfl
  · exact h

theorem sound_execFlr {fn : BitVec 12} (h : Sound s₀ s) : SoundOut s₀ (execFlr fn s) :=
  SoundOut.next (Sound.ite (sound_updHport ((h.same rfl).same rfl)) (h.same rfl))

/-! ## Machine/BringUp -/

theorem kept_afterReset : Kept s (afterReset s) :=
  ⟨fun _ => rfl, fun hn => numbered_iff.mpr ⟨List.nodup_nil, fun _ h => absurd h List.not_mem_nil, rfl, (numbered_iff.mp hn).2.2.2.1,
    fun _ h => absurd h List.not_mem_nil⟩⟩

theorem sound_execColdReset {stop : BootStop} {fail : BitVec 18} {meas : List Byte} (h : Sound s₀ s) :
    SoundOut s₀ (execColdReset stop fail meas s) := by
  unfold execColdReset
  refine SoundOut.keeps (h.trans_kept (kept_afterReset.trans ?_))
  exact Sound.kept ((Sound.refl (afterReset s)).same rfl)

theorem sound_execPowerLoss (h : Sound s₀ s) : SoundOut s₀ (execPowerLoss s) := SoundOut.keeps (h.trans_kept kept_afterReset)

theorem sound_execDieAdmit {die : BitVec 5} (h : Sound s₀ s) : SoundOut s₀ (execDieAdmit die s) := SoundOut.next (Sound.ite (h.same rfl) h)

theorem sound_execDieFullService {die : BitVec 5} {passed : BitVec 6} (h : Sound s₀ s) : SoundOut s₀ (execDieFullService die passed s) :=
  SoundOut.next (Sound.ite (Sound.ite ((h.same rfl).same rfl) ((h.same rfl).same rfl)) h)

theorem sound_execClockSwitch (h : Sound s₀ s) : SoundOut s₀ (execClockSwitch s) := SoundOut.next (Sound.ite (h.same rfl) h)

theorem sound_execWarmRecalibration {die : BitVec 4} {feature : BitVec 3} {pass : Bool} (h : Sound s₀ s) :
    SoundOut s₀ (execWarmRecalibration die feature pass s) := SoundOut.next (Sound.ite (sound_setDie h) h)

theorem sound_failLive {d : BitVec 4} (h : Sound s₀ s) : Sound s₀ (failLive s d) :=
  Sound.foldl (sound_updDie h) (fun _ _ h1 => Sound.ite (sound_failTask (sound_discard h1)) h1)

theorem sound_removeDie {die : BitVec 5} (h : Sound s₀ s) : Sound s₀ (removeDie s die) :=
  Sound.ite (sound_failLive (h.same rfl)) ((h.same rfl).same rfl)

theorem sound_measured {die : BitVec 5} {celsius : Nat} (h : Sound s₀ s) : Sound s₀ (measured s die celsius) :=
  Sound.ite h (Sound.ite (sound_removeDie (h.same rfl)) (h.same rfl))

theorem sound_execThermalThrottle {die : BitVec 5} {celsius : Nat} (h : Sound s₀ s) : SoundOut s₀ (execThermalThrottle die celsius s) :=
  SoundOut.next (sound_measured h)

theorem sound_execThermalRecover {die : BitVec 5} {celsius : Nat} (h : Sound s₀ s) : SoundOut s₀ (execThermalRecover die celsius s) :=
  SoundOut.next (sound_measured h)

theorem sound_execThermalRemoval {die : BitVec 5} {celsius : Nat} (h : Sound s₀ s) : SoundOut s₀ (execThermalRemoval die celsius s) :=
  SoundOut.next (sound_measured h)

theorem sound_newAccounts {d : BitVec 4} (h : Sound s₀ s) : Sound s₀ (newAccounts s d) := by
  unfold newAccounts
  exact sound_updDie h

theorem sound_execPowerIntervalEnd {die : BitVec 5} {cap : Nat} {used : List (Nat × Nat)} (h : Sound s₀ s) :
    SoundOut s₀ (execPowerIntervalEnd die cap used s) := by
  unfold execPowerIntervalEnd
  extract_lets d s1 others
  have h1 : Sound s₀ s1 := Sound.ite (sound_newAccounts (sound_charge h)) (h.same rfl)
  exact SoundOut.next (Sound.ite (h1.same rfl) h)

theorem sound_execPowerCapExceeded {die : BitVec 5} {more : Nat} (h : Sound s₀ s) : SoundOut s₀ (execPowerCapExceeded die more s) :=
  SoundOut.next (Sound.ite (h.same rfl) h)

theorem sound_writeMgmt {pf : Bool} {off : Nat} {v : Word} (h : Sound s₀ s) : Sound s₀ (writeMgmt s pf off v) :=
  Sound.ite (sound_updHport h) (Sound.ite (sound_updHport h) (Sound.ite (sound_doorbell h) (Sound.ite (sound_updHport h) h)))

theorem sound_writeVf {fn : BitVec 12} {off : Nat} {v : Word} (h : Sound s₀ s) : Sound s₀ (writeVf s fn off v) :=
  Sound.ite (sound_doorbell h) h

theorem sound_writeNumVfs {south : Bool} {n : Nat} (h : Sound s₀ s) : Sound s₀ (writeNumVfs s south n) := Sound.ite (sound_updHport h) h

theorem sound_execRegisterWrite {r : RegWrite} (h : Sound s₀ s) : SoundOut s₀ (execRegisterWrite r s) := by
  unfold execRegisterWrite
  refine SoundOut.next ?_
  split
  · exact Sound.ite (sound_writeMgmt h) h
  · exact Sound.ite (sound_writeVf h) h
  · exact sound_updDie h
  · exact sound_updPt h
  · exact h.same rfl
  · exact sound_writeNumVfs h
  · exact h.same rfl

theorem sound_changeBand {v : BitVec 64} {n : Nat} (h : Sound s₀ s) : Sound s₀ (changeBand s v n) := by
  unfold changeBand
  split
  · exact h
  · extract_lets s1
    have h1 : Sound s₀ s1 := sound_evict (sound_clearRange h)
    exact h1.same rfl

theorem sound_execHbmodeWrite {v : BitVec 64} (h : Sound s₀ s) : SoundOut s₀ (execHbmodeWrite v s) :=
  SoundOut.next (Sound.foldl h (fun _ _ h1 => sound_changeBand h1))

end Sys2Proof.Machine
end

section
/-! SUPPORT. `Sound` through the pod's arrivals, the homes and the host (O8, O9). -/

namespace Sys2Proof.Machine
open Sys2Proof.Claims

variable {s₀ s t : State} {nd : Node}

/-! ## Machine/PodIn -/

theorem sound_execPodgrant {pf : Bool} (h : Sound s₀ s) : SoundOut s₀ (execPodgrant pf s) := by
  unfold execPodgrant
  refine SoundOut.next (sound_serve h (fun _ _ h1 => ?_))
  dsimp only
  split
  · exact sound_plain h1
  · split
    · exact sound_plain h1
    · split
      · exact sound_plain h1
      · exact sound_plain (h1.same rfl)

theorem sound_execPodrevoke {pf : Bool} (h : Sound s₀ s) : SoundOut s₀ (execPodrevoke pf s) := by
  unfold execPodrevoke
  refine SoundOut.next (sound_serve h (fun _ _ h1 => ?_))
  dsimp only
  split
  · exact sound_plain h1
  · split
    · exact sound_plain h1
    · split
      · exact SoundServed.wait (h1.same rfl)
      · exact sound_plain (h1.same rfl)

theorem sound_execPodrt {pf : Bool} (h : Sound s₀ s) : SoundOut s₀ (execPodrt pf s) := by
  unfold execPodrt
  refine SoundOut.next (sound_serve h (fun _ _ h1 => ?_))
  dsimp only
  split
  · exact sound_plain h1
  · exact sound_plain (h1.same rfl)

theorem sound_replyPeer {m : BitVec 10} {port : BitVec 4} {x : PodReply} (h : Sound s₀ s) : Sound s₀ (replyPeer s m port x) := h.same rfl

theorem sound_refusePeer {r : PodMessage} {reason : Nat} {cause : BitVec 8} (h : Sound s₀ s) : Sound s₀ (refusePeer s r reason cause) :=
  sound_replyPeer (sound_logEvent h)

theorem sound_admitPeer {q : Req} (h : Sound s₀ s) : Sound s₀ (admitPeer s q) := by
  unfold admitPeer
  split
  · exact sound_refusePeer (sound_dropReq h)
  · exact sound_setReq h
  · exact sound_goHome h

theorem sound_peerQuery {r : PodMessage} (h : Sound s₀ s) : Sound s₀ (peerQuery s r) := by
  unfold peerQuery
  dsimp only
  split
  · exact sound_replyPeer h
  · split
    · exact sound_setReq h
    · exact sound_replyPeer h

theorem sound_peerAck {r : PodMessage} (h : Sound s₀ s) : Sound s₀ (peerAck s r) := h.same rfl

theorem sound_peerRequest {r : PodMessage} {right : Nat} (h : Sound s₀ s) : Sound s₀ (peerRequest s r right) := by
  unfold peerRequest
  split
  · exact sound_refusePeer h
  · exact Sound.ite (sound_refusePeer h) (Sound.ite h (sound_admitPeer ((h.ask rfl).same rfl)))

theorem sound_execPodRequestArrival {r : PodMessage} (h : Sound s₀ s) : SoundOut s₀ (execPodRequestArrival r s) := by
  unfold execPodRequestArrival
  refine SoundOut.next ?_
  split
  · exact h
  · split
    · exact sound_peerQuery h
    · exact sound_peerAck h
    · exact sound_peerRequest h
    · exact h

theorem sound_execRemoteDecrement {r : PodDecrement} (h : Sound s₀ s) : SoundOut s₀ (execRemoteDecrement r s) :=
  SoundOut.next (Sound.ite h (h.bump.same rfl))

theorem sound_execPodLinkUp {port : BitVec 4} (h : Sound s₀ s) : SoundOut s₀ (execPodLinkUp port s) :=
  SoundOut.next (Sound.ite (h.same rfl) h)

theorem sound_linkLost {r : Req} (h : Sound s₀ s) : Sound s₀ (linkLost s r) := by
  unfold linkLost
  split
  · exact sound_dropReq h
  · exact sound_refuseReq h

theorem sound_execPodLinkFailure {port : BitVec 4} (h : Sound s₀ s) : SoundOut s₀ (execPodLinkFailure port s) :=
  SoundOut.next (Sound.foldl (h.same rfl) (fun _ _ h1 => sound_linkLost h1))

/-! ## Machine/Homes -/

theorem sound_settled {x : State × Answer} (hx : Sound s₀ x.1) : SoundPerf s₀ r (settled x) := SoundPerf.done hx

theorem sound_perform {r : Req} (h : Sound s₀ s) : SoundPerf s₀ r (perform s r) := by
  unfold perform
  dsimp only
  split
  · exact SoundPerf.done (sound_landAll h)
  · split
    · exact sound_settled (sound_performRest (Sound.of_fst (sound_unitTouch h) ‹_›))
    · exact SoundPerf.wait
  · split
    · exact sound_settled (sound_performSave (Sound.of_fst (sound_unitTouch h) ‹_›))
    · exact SoundPerf.wait
  · exact sound_settled (sound_performMark h)
  · exact sound_takeSpawn h
  · split
    · exact SoundPerf.wait
    · exact sound_settled (sound_answerQuery h)
  · exact sound_settled (sound_leaseEngine h)
  · exact sound_settled (sound_releaseLease h)
  · exact sound_settled (sound_barAllocate h)
  · exact sound_settled (sound_barRelease h)
  · exact sound_settled (sound_poolArrive h)
  · exact sound_poolTest h
  · exact sound_poolTest h
  · exact sound_settled (sound_engineCommand h)
  · exact sound_settled (sound_acceptStream h)
  · exact sound_settled (sound_streamStatus h)
  · exact sound_settled (sound_performReadSel h)
  · exact sound_settled (sound_performWriteSel h)
  · exact sound_settled (sound_performRearm h)
  · exact sound_settled (sound_peerAnswer h)
  · exact sound_settled (sound_peerAnswer h)
  · exact sound_settled (sound_peerAnswer h)
  · exact sound_performMem h

theorem sound_execWalkComplete {id : Nat} (h : Sound s₀ s) : SoundOut s₀ (execWalkComplete id s) := by
  unfold execWalkComplete
  refine SoundOut.next ?_
  split
  · exact h
  · split
    · split
      · split
        · split
          · split
            · exact sound_goHome (Sound.of_fst (sound_sendPod h) ‹_›)
            · exact Sound.of_fst (sound_sendPod h) ‹_›
          · exact sound_refuseReq (Sound.of_fst (sound_sendPod h) ‹_›)
        · exact h
      · exact Sound.ite (sound_admitPeer h) (Sound.ite (sound_passPort (Sound.foldl h (fun _ _ h2 => sound_endWalk h2))) h)
    · exact h

theorem mem_reqIds {r : Req} (h : r ∈ s.reqs) : r.id ∈ s.reqIds := List.mem_map_of_mem h

theorem sound_enqueue {r : Req} (h : Sound s₀ s) (ht : Sound s t) (hr : r ∈ s.reqs) : Sound s₀ (enqueue t r) :=
  Sound.ite (h.trans ht) (h.readd ht (mem_reqIds hr) rfl)

theorem sound_useBank {r : Req} (h : Sound s₀ s) : Sound s₀ (useBank s r) := by
  unfold useBank
  split
  · exact sound_useBankN h
  · exact h

theorem sound_portsCame {ps : List (TileRef × Nat)} (h : Sound s₀ s) : Sound s₀ (portsCame s ps) :=
  Sound.foldl h (fun _ _ h1 => sound_setTport h1)

theorem sound_accepted {r : Req} {a1 : Option Home} {a : Answer} (h : Sound s₀ s) : Sound s₀ (accepted s r a1 a) := by
  unfold accepted
  extract_lets s1
  have h1 : Sound s₀ s1 := sound_answer (sound_dropReq h)
  split
  · exact h1.same rfl
  · exact h1

theorem sound_outcome {r : Req} {a1 : Option Home} {a : Answer} (h : Sound s₀ s) : Sound s₀ (outcome s r a1 a) := by
  unfold outcome
  split
  · refine Sound.foldl ?_ (fun _ _ h1 => sound_replyPeer h1)
    split
    · exact Sound.ite ((sound_dropReq h).same rfl) (sound_dropReq h)
    · exact sound_dropReq h
  · exact Sound.ite (sound_accepted h) (sound_refuseReq h)
  · split
    · exact sound_refuseReq h
    · exact sound_accepted h

theorem sound_performHome {r : Req} (h : Sound s₀ s) (hr : r ∈ s.reqs) : Sound s₀ (performHome s r) := by
  unfold performHome
  have hp : SoundPerf s r (perform s r) := sound_perform (Sound.refl s)
  split
  · exact sound_enqueue h (Sound.refl s) hr
  · next he => exact sound_useBank (sound_setReq (h.trans (hp.of_more he).1))
  · next he => exact sound_useBank (sound_outcome (h.trans (hp.of_done he)))
  · next he =>
    obtain ⟨ht, hx⟩ := hp.of_defer he
    exact sound_useBank (h.readd ht (mem_reqIds hr) hx)

theorem req_mem {id : Nat} {r : Req} (h : s.req id = some r) : r ∈ s.reqs := List.mem_of_find?_eq_some h

theorem sound_execHomeRequest {id : Nat} (h : Sound s₀ s) : SoundOut s₀ (execHomeRequest id s) := by
  unfold execHomeRequest
  refine SoundOut.next ?_
  split
  · exact h
  · next hr =>
    split
    · dsimp only
      split
      · exact sound_enqueue h (sound_portsCame (Sound.refl s)) (req_mem hr)
      · split
        · exact sound_enqueue h (Sound.refl s) (req_mem hr)
        · exact sound_performHome h (req_mem hr)
    · exact h

/-! ## Machine/Host -/

theorem sound_fillAtc {r : Req} {pa : Nat} {to_ : Nat} (h : Sound s₀ s) : Sound s₀ (fillAtc s r pa to_) := by
  unfold fillAtc
  split
  · exact h
  · exact sound_updHport h

theorem sound_holdUnit {r : Req} (h : Sound s₀ s) : Sound s₀ (holdUnit s r) := by
  unfold holdUnit
  dsimp only
  split
  · split
    · exact h
    · exact sound_heldTrap (sound_setTport h)
  · split
    · exact h
    · exact sound_heldTrap (sound_setEngAt h)
  · exact h

theorem sound_drainRing {d : BitVec 4} {i : BitVec 6} (h : Sound s₀ s) : Sound s₀ (drainRing s d i) :=
  Sound.foldl (sound_setQslot h) (fun _ _ h1 => sound_ringWrite h1)

theorem sound_accessGoesOn {r : Req} (h : Sound s₀ s) : Sound s₀ (accessGoesOn s r) := by
  unfold accessGoesOn
  split
  · exact sound_drainRing (sound_dropReq h)
  · exact sound_dropReq h
  · exact sound_dropReq h
  · exact sound_admitPeer h
  · exact sound_passPort h

theorem sound_queueDenied {d : BitVec 4} {i : Nat} {r : Req} (h : Sound s₀ s) : Sound s₀ (queueDenied s d i r) :=
  Sound.ite (sound_queueError (sound_setQslot h)) (sound_queueError (sound_takeEntry h))

theorem sound_accessGone {r : Req} (h : Sound s₀ s) : Sound s₀ (accessGone s r) := by
  unfold accessGone
  split
  · exact sound_queueDenied (sound_dropReq h)
  · exact sound_holdUnit (sound_dropReq h)
  · exact sound_holdUnit (sound_dropReq h)
  · exact sound_refusePeer (sound_dropReq h)
  · exact sound_refuseReq h

theorem sound_accessDenied {r : Req} (h : Sound s₀ s) : Sound s₀ (accessDenied s r) := by
  unfold accessDenied
  dsimp only
  split
  · exact sound_setReq h
  · exact sound_setReq h
  · exact sound_holdUnit (sound_setReq h)
  · exact sound_holdUnit (sound_setReq h)
  · exact sound_refuseReq h

theorem sound_execAtsCompletion {c : AtsAnswer} (h : Sound s₀ s) : SoundOut s₀ (execAtsCompletion c s) := by
  unfold execAtsCompletion
  refine SoundOut.next ?_
  split
  · exact h
  · split
    · exact h
    · split
      · exact sound_accessGone h
      · split
        · exact Sound.ite (sound_accessDenied h) h
        · split
          · exact sound_accessGoesOn (sound_fillAtc h)
          · exact sound_accessGoesOn h

theorem sound_replayNode {r : Req} (h : Sound s₀ s) : Sound s₀ (replayNode s r) := by
  unfold replayNode
  split
  · exact sound_setReq (sound_dropResp h)
  · split
    · split
      · exact sound_resendLatch ((sound_reopenLatch h) _ ‹_›)
      · exact h
    · exact SoundOpt.getD (sound_resumeNode h) h
    · exact h

theorem ordered_recause {c : BitVec 8} (hnd : nd.Ordered) : (recause nd c).Ordered := hnd

theorem sound_toProt {r : Req} (h : Sound s₀ s) : Sound s₀ (toProt s r) := by
  unfold toProt
  split
  · exact h.same rfl
  · split
    · exact Sound.ite (sound_updNd h (fun _ h2 => ordered_recause h2)) h
    · exact h

theorem sound_unitProt {va : Nat} {a : HeldUnit} (h : Sound s₀ s) : Sound s₀ (unitProt s va a) := by
  unfold unitProt
  split
  · exact sound_setTport h
  · exact sound_setEngAt h

theorem sound_execPageRequestResponse {id : Nat} {x : PriResponse} (h : Sound s₀ s) : SoundOut s₀ (execPageRequestResponse id x s) := by
  unfold execPageRequestResponse
  refine SoundOut.next ?_
  split
  · exact h
  · split
    · exact h
    · dsimp only
      split
      · split
        · exact sound_queueDenied (sound_dropReq h)
        · exact sound_dropReq h
        · exact sound_dropReq h
        · exact sound_refusePeer (sound_dropReq h)
        · exact sound_setReq h
      · split
        · exact sound_replayUnit (sound_dropReq h)
        · exact sound_unitProt (sound_dropReq h)
        · exact sound_admitPeer h
        · exact sound_refusePeer (sound_dropReq h)
        · exact sound_drainRing (sound_dropReq h)
        · exact sound_queueDenied (sound_dropReq h)
        · exact Sound.ite (sound_replayNode (sound_setReq h)) (sound_setReq h)
        · exact Sound.ite (sound_toProt (sound_setReq h)) (sound_setReq h)

theorem sound_beginTear {p : BitVec 20} (h : Sound s₀ s) : Sound s₀ (beginTear s p) :=
  Sound.foldl ((Sound.foldl h (fun _ _ h1 => sound_queueError (sound_setQslot h1))).same rfl) (fun _ _ h2 => sound_updHport h2)

theorem sound_endTear {p : BitVec 20} (h : Sound s₀ s) : Sound s₀ (endTear s p) := Sound.foldl h (fun _ _ h1 => sound_updHport h1)

theorem sound_execPtear {pf : Bool} (h : Sound s₀ s) : SoundOut s₀ (execPtear pf s) := by
  unfold execPtear
  refine SoundOut.next (sound_serve h (fun _ _ h1 => ?_))
  dsimp only
  split
  · exact sound_plain h1
  · split
    · exact SoundServed.wait (sound_beginTear h1)
    · split
      · exact sound_plain h1
      · split
        · exact SoundServed.wait h1
        · exact sound_plain (sound_endTear h1)

theorem sound_execAtsInvalidationCompletion {port : Bool} {pasid : BitVec 20} (h : Sound s₀ s) :
    SoundOut s₀ (execAtsInvalidationCompletion port pasid s) := SoundOut.next (Sound.ite (sound_updHport h) h)

theorem sound_logBarrier {fn : BitVec 12} {pa : Nat} (h : Sound s₀ s) : Sound s₀ (logBarrier s fn pa) := by
  unfold logBarrier
  dsimp only
  split
  · exact h
  · exact sound_logDie h

theorem sound_barrierAbort {fn : BitVec 12} {pa : Nat} (h : Sound s₀ s) : Sound s₀ (barrierAbort s fn pa) := (sound_logBarrier h).same rfl

theorem sound_hostUses {pa : Nat} {k : BitVec 13} {write : Bool} (h : Sound s₀ s) : Sound s₀ (hostUses s pa k write) :=
  sound_useBankAt (sound_useLine h)

theorem sound_hostStore {pa : Nat} {v : Word} (h : Sound s₀ s) : Sound s₀ (hostStore s pa v) := by
  unfold hostStore
  split
  · exact sound_storeWord h
  · exact sound_homeStore (sound_hostUses h)

theorem sound_execHostFetchadd {fn : BitVec 12} {pa : BitVec 52} {n : Word} (h : Sound s₀ s) :
    SoundOut s₀ (execHostFetchadd fn pa n s) := by
  unfold execHostFetchadd
  refine SoundOut.next ?_
  split
  · exact h
  · split
    · split
      · split
        · exact ((sound_wordArrive (sound_hostUses h)) _ ‹_›).same rfl
        · exact sound_barrierAbort h
      · exact sound_barrierAbort h
    · exact h.same rfl

theorem sound_execHostBarrierWrite {fn : BitVec 12} {pa : BitVec 52} (h : Sound s₀ s) : SoundOut s₀ (execHostBarrierWrite fn pa s) :=
  SoundOut.next (Sound.ite (sound_barrierAbort h) h)

theorem sound_readBar0 {fn : BitVec 12} {off : Nat} (h : Sound s₀ s) : Sound s₀ (readBar0 s fn off) :=
  Sound.ite ((sound_free h).same rfl) (h.same rfl)

theorem sound_execHostAccess {a : HostAccess} (h : Sound s₀ s) : SoundOut s₀ (execHostAccess a s) := by
  unfold execHostAccess
  refine SoundOut.next ?_
  split
  · exact Sound.ite h (Sound.ite ((sound_hostUses h).same rfl) (h.same rfl))
  · exact Sound.ite h (Sound.ite (sound_barrierAbort h) (Sound.ite ((sound_hostStore h).same rfl) (h.same rfl)))
  · exact Sound.ite (sound_readBar0 h) h

/-! ## Machine/Kiln -/

theorem sound_raiseCounter {tid : BitVec 64} {v : Nat} (h : Sound s₀ s) : Sound s₀ (raiseCounter s tid v) := by
  unfold raiseCounter
  split
  · exact h
  · exact h.withCounter Map.sorted_set

theorem sound_execKctr {pf : Bool} {m : List Word} (h : Sound s₀ s) : SoundOut s₀ (execKctr pf m s) := by
  unfold execKctr
  refine SoundOut.next (sound_secured h (fun _ h1 => ?_))
  dsimp only
  split
  · exact h1
  · split
    · exact h1
    · exact (h1.withCounter Map.sorted_set).same rfl

theorem sound_execKctrfree {pf : Bool} {m : List Word} (h : Sound s₀ s) : SoundOut s₀ (execKctrfree pf m s) := by
  unfold execKctrfree
  refine SoundOut.next (sound_secured h (fun _ h1 => ?_))
  dsimp only
  split
  · exact h1
  · split
    · exact h1
    · exact (h1.withCounter Map.sorted_erase).same rfl

theorem sound_freeWords {n : Nat} (h : Sound s₀ s) : Sound s₀ (freeWords n s).2 := by
  induction n generalizing s with
  | zero => exact h
  | succ n ih => exact ih (sound_free h)

theorem sound_execKnonce {pf : Bool} (h : Sound s₀ s) : SoundOut s₀ (execKnonce pf s) := by
  unfold execKnonce
  refine SoundOut.next (sound_serve h (fun _ _ h1 => ?_))
  split
  · exact sound_plain h1
  · exact SoundServed.answer ((sound_freeWords h1).same rfl)

theorem sound_execKquote {pf : Bool} (h : Sound s₀ s) : SoundOut s₀ (execKquote pf s) := by
  unfold execKquote
  refine SoundOut.next (sound_serve h (fun _ _ h1 => ?_))
  dsimp only
  split
  · exact sound_plain h1
  · exact sound_plain (sound_writePart (sound_free h1))

theorem sound_kilnStatus {p : BitVec 5} {die : BitVec 4} {st : Nat} (h : Sound s₀ s) : Sound s₀ (kilnStatus s p die st) :=
  Sound.ite (sound_logDie h) h

theorem sound_kilnEnds {p : BitVec 5} {die : BitVec 4} {st : Nat} (h : Sound s₀ s) : Sound s₀ (kilnEnds s p die st).1 := sound_kilnStatus h

theorem sound_sealImage {ws : List Word} (h : Sound s₀ s) : Sound s₀ (sealImage s ws).1 := by
  unfold sealImage
  extract_lets p tid src dst ks kd s1
  split
  · exact h
  · split
    · exact h
    · have h1 : Sound s₀ s1 := sound_usePart h
      clear_value s1
      split
      · extract_lets hw n x s2 key
        split
        · exact h1
        · have h2 : Sound s₀ s2 := sound_usePart (sound_raiseCounter h1)
          clear_value s2
          split
          · exact h2
          · dsimp only
            exact sound_writePart h2
      · exact h1

theorem sound_execKseal {pf : Bool} (h : Sound s₀ s) : SoundOut s₀ (execKseal pf s) :=
  SoundOut.next (sound_serve h (fun _ _ h1 => sound_plain (sound_sealImage h1)))

theorem sound_exportImage {p : BitVec 5} {a1 : KilnHead} {page : List Byte} {body : List Byte} {quote : List Byte} {nonce : List Byte}
    {idHash : List Byte} (h : Sound s₀ s) : SoundSum s₀ (exportImage s p a1 page body quote nonce idHash) := by
  unfold exportImage
  dsimp only
  split
  · exact SoundSum.inl
  · split
    · exact SoundSum.inl
    · split
      · exact SoundSum.inl
      · split
        · exact SoundSum.inl
        · split
          · exact SoundSum.inl
          · split
            · exact SoundSum.inl
            · exact SoundSum.inr (sound_free (h.same rfl))

theorem sound_useKiln {p : BitVec 5} {a : Nat} {k : BitVec 13} (h : Sound s₀ s) : Sound s₀ (useKiln s p a k) := by
  unfold useKiln
  dsimp only
  split
  · exact sound_usePart h
  · split
    · exact sound_usePart h
    · exact sound_usePart (sound_usePart h)

theorem sound_finishExport {p : BitVec 5} {tid : BitVec 64} {ctr : Nat} {dst : Nat} {kd : BitVec 13} {b : List Byte} (h :
    Sound s₀ s) : Sound s₀ (finishExport s p tid ctr dst kd b).1 := by
  unfold finishExport
  dsimp only
  split
  · exact sound_raiseCounter (sound_writePart h)
  · exact sound_writePart h

theorem sound_execKexport {pf : Bool} {m : List Word} (h : Sound s₀ s) : SoundOut s₀ (execKexport pf m s) := by
  unfold execKexport
  refine SoundOut.next (sound_secured h (fun _ h1 => ?_))
  dsimp only
  split
  · exact h1
  · split
    · split
      · exact sound_kilnEnds (sound_usePart (sound_useKiln h1))
      · split
        · exact sound_kilnEnds ((sound_usePart (sound_useKiln h1)).same rfl)
        · exact sound_kilnEnds (sound_usePart (sound_useKiln h1))
        · exact sound_finishExport ((sound_exportImage (sound_usePart (sound_useKiln h1))) _ ‹_›)
    · exact sound_usePart (sound_useKiln h1)

theorem sound_finishOpen {p : BitVec 5} {die : BitVec 4} {ref : Word} {a3 : KilnHead} {b : List Byte} (h : Sound s₀ s) :
    Sound s₀ (finishOpen s p die ref a3 b).1 := by
  unfold finishOpen
  dsimp only
  split
  · exact Sound.ite (sound_updTask (sound_raiseCounter (sound_writePart h))) (sound_raiseCounter (sound_writePart h))
  · exact sound_writePart h

theorem sound_execKopen {pf : Bool} (h : Sound s₀ s) : SoundOut s₀ (execKopen pf s) := by
  unfold execKopen
  refine SoundOut.next (sound_serve h (fun s ws h1 => ?_))
  extract_lets p die ref s1
  have h2 : Sound s₀ s1 := sound_useKiln h1
  clear_value s1
  split
  · exact sound_plain h1
  · split
    · exact sound_plain h2
    · split
      · exact sound_plain (sound_kilnEnds h2)
      · exact sound_plain (sound_finishOpen h2)

end Sys2Proof.Machine
end

section
/-! SUPPORT. `Sound` through dispatch and the step (O8, O9). -/

namespace Sys2Proof.Machine
open Sys2Proof.Claims

variable {s₀ s t : State} {nd : Node}

/-! ## Machine/Dispatch -/

/-- Every instruction and every event keeps the relation: one case for each arm of `exec`. -/
theorem sound_exec {i : Instr} (h : Sound s₀ s) : SoundOut s₀ (exec i s) := by
  unfold exec
  split
  · exact sound_execNop h
  · exact sound_execMov h
  · exact sound_execLi h
  · exact sound_execLui h
  · exact sound_execAdd h
  · exact sound_execSub h
  · exact sound_execAdds h
  · exact sound_execSubs h
  · exact sound_execMul h
  · exact sound_execMulhI32 h
  · exact sound_execMulhN32 h
  · exact sound_execMac h
  · exact sound_execDivI32 h
  · exact sound_execDivN32 h
  · exact sound_execModI32 h
  · exact sound_execModN32 h
  · exact sound_execAnd h
  · exact sound_execOr h
  · exact sound_execXor h
  · exact sound_execAndn h
  · exact sound_execShl h
  · exact sound_execShr h
  · exact sound_execSar h
  · exact sound_execRol h
  · exact sound_execClz h
  · exact sound_execPopc h
  · exact sound_execBrev h
  · exact sound_execSext h
  · exact sound_execZext h
  · exact sound_execBfx h
  · exact sound_execBfi h
  · exact sound_execSel h
  · exact sound_execCmpEq h
  · exact sound_execCmpNe h
  · exact sound_execCmpLtI32 h
  · exact sound_execCmpLeI32 h
  · exact sound_execCmpLtN32 h
  · exact sound_execCmpLeN32 h
  · exact sound_execMinI32 h
  · exact sound_execMaxI32 h
  · exact sound_execMinN32 h
  · exact sound_execMaxN32 h
  · exact sound_execAbs h
  · exact sound_execNeg h
  · exact sound_execPset h
  · exact sound_execPget h
  · exact sound_execTst h
  · exact sound_execLea h
  · exact sound_execFadd h
  · exact sound_execFsub h
  · exact sound_execFmul h
  · exact sound_execFma h
  · exact sound_execFmin h
  · exact sound_execFmax h
  · exact sound_execFcmpEq h
  · exact sound_execFcmpLt h
  · exact sound_execFcmpLe h
  · exact sound_execFcmpUn h
  · exact sound_execFabs h
  · exact sound_execFneg h
  · exact sound_execFrcp h
  · exact sound_execFrsq h
  · exact sound_execFexp2 h
  · exact sound_execFlog2 h
  · exact sound_execCvtF h
  · exact sound_execCvtIf h
  · exact sound_execCvtFi h
  · exact sound_execCvtNf h
  · exact sound_execCvtFn h
  · exact sound_execPack2 h
  · exact sound_execUnpk h
  · exact sound_execScale h
  · exact sound_execLdW h
  · exact sound_execLdH h
  · exact sound_execLdHs h
  · exact sound_execLdB h
  · exact sound_execLdBs h
  · exact sound_execStW h
  · exact sound_execStH h
  · exact sound_execStB h
  · exact sound_execLdc h
  · exact sound_execLdP h
  · exact sound_execStP h
  · exact sound_execLdxW h
  · exact sound_execStxW h
  · exact sound_execLcas h
  · exact sound_execLadd h
  · exact sound_execEmit h
  · exact sound_execStop h
  · exact sound_execFwd h
  · exact sound_execDrop h
  · exact sound_execTagf h
  · exact sound_execSclo h
  · exact sound_execHead h
  · exact sound_execIdle h
  · exact sound_execVadd h
  · exact sound_execVsub h
  · exact sound_execVmul h
  · exact sound_execVfma h
  · exact sound_execVmin h
  · exact sound_execVmax h
  · exact sound_execVcmp h
  · exact sound_execVsel h
  · exact sound_execVand h
  · exact sound_execVor h
  · exact sound_execVxor h
  · exact sound_execVshl h
  · exact sound_execVshr h
  · exact sound_execVcvt h
  · exact sound_execVdot h
  · exact sound_execVscale h
  · exact sound_execVld h
  · exact sound_execVst h
  · exact sound_execVldx h
  · exact sound_execVstx h
  · exact sound_execVbcast h
  · exact sound_execVext h
  · exact sound_execVins h
  · exact sound_execVperm h
  · exact sound_execVredAdd h
  · exact sound_execVredMax h
  · exact sound_execVredMin h
  · exact sound_execVscan h
  · exact sound_execVpack h
  · exact sound_execVunpk h
  · exact sound_execVout h
  · exact sound_execVin h
  · exact sound_execMcfg h
  · exact sound_execMrun h
  · exact sound_execMdrain h
  · exact sound_execMclr h
  · exact sound_execMldk h
  · exact sound_execMstk h
  · exact sound_execMshape h
  · exact sound_execMpass h
  · exact sound_execMstat h
  · exact sound_execMfeed h
  · exact sound_execMscl h
  · exact sound_execMfin h
  · exact sound_execMfinAbort h
  · exact sound_execRncv h
  · exact sound_execRnct h
  · exact sound_execRnadd h
  · exact sound_execRnsub h
  · exact sound_execRnmul h
  · exact sound_execRnmac h
  · exact sound_execRnneg h
  · exact sound_execVrncv h
  · exact sound_execVrnct h
  · exact sound_execVrnmac h
  · exact sound_execVrndot h
  · exact sound_execGld h
  · exact sound_execGst h
  · exact sound_execGldA h
  · exact sound_execGstL h
  · exact sound_execPld h
  · exact sound_execPst h
  · exact sound_execPclr h
  · exact sound_execPprb h
  · exact sound_execFence h
  · exact sound_execAupd h
  · exact sound_execAfet h
  · exact sound_execAcas h
  · exact sound_execAapl h
  · exact sound_execGldv h
  · exact sound_execGldvP h
  · exact sound_execGstv h
  · exact sound_execGstvP h
  · exact sound_execXrearm h
  · exact sound_execStrm h
  · exact sound_execStrmq h
  · exact sound_execStrmqCan h
  · exact sound_execCntb h
  · exact sound_execBalc h
  · exact sound_execBfre h
  · exact sound_execBarv h
  · exact sound_execBarvW h
  · exact sound_execBwt h
  · exact sound_execBwtW h
  · exact sound_execBtry h
  · exact sound_execBtryW h
  · exact sound_execEcpy h
  · exact sound_execEcmp h
  · exact sound_execEdcp h
  · exact sound_execEcol h
  · exact sound_execCjoin h
  · exact sound_execLease h
  · exact sound_execLrel h
  · exact sound_execMbar h
  · exact sound_execXst h
  · exact sound_execXstv h
  · exact sound_execXsig h
  · exact sound_execXld h
  · exact sound_execXwait h
  · exact sound_execXfen h
  · exact sound_execTspn h
  · exact sound_execTdec h
  · exact sound_execTdecRmt h
  · exact sound_execTqry h
  · exact sound_execLntl h
  · exact sound_execLntlLast h
  · exact sound_execGret h
  · exact sound_execDid h
  · exact sound_execDpart h
  · exact sound_execGate h
  · exact sound_execCxld h
  · exact sound_execCxul h
  · exact sound_execCxq h
  · exact sound_execIspz h
  · exact sound_execUnpz h
  · exact sound_execCx h
  · exact sound_execTrap h
  · exact sound_execBrk h
  · exact sound_execPark h
  · exact sound_execWake h
  · exact sound_execSyrd h
  · exact sound_execSywrFpstat h
  · exact sound_execSywrResumeRetry h
  · exact sound_execSywrResumeSkip h
  · exact sound_execSywrGreg h
  · exact sound_execSywrPortctlReplay h
  · exact sound_execSywrPortctlAbandon h
  · exact sound_execMark h
  · exact sound_execSave h
  · exact sound_execRest h
  · exact sound_execHalt h
  · exact sound_execLongOperationComplete h
  · exact sound_execMemoryResponse h
  · exact sound_execTokenSend h
  · exact sound_execTokenArrival h
  · exact sound_execCreditReturn h
  · exact sound_execFanoutCopy h
  · exact sound_execBranchSend h
  · exact sound_execQuoinEmit h
  · exact sound_execGatePoisonDelivery h
  · exact sound_execScrubComplete h
  · exact sound_execKvalueEnter h
  · exact sound_execRelayForward h
  · exact sound_execTileComplete h
  · exact sound_execDrainTokenSend h
  · exact sound_execMatrixMark h
  · exact sound_execQueueDoorbell h
  · exact sound_execQueueIdleUnmap h
  · exact sound_execSpawn h
  · exact sound_execDec h
  · exact sound_execAbort h
  · exact sound_execFree h
  · exact sound_execRegt h
  · exact sound_execUnregt h
  · exact sound_execDecrementApply h
  · exact sound_execStagingComplete h
  · exact sound_execDeadlineExpiry h
  · exact sound_execAgePromotion h
  · exact sound_execHeadBlock h
  · exact sound_execTaskSelect h
  · exact sound_execTileLoadAck h
  · exact sound_execRegionOpen h
  · exact sound_execQuiescence h
  · exact sound_execReconfigTokenPass h
  · exact sound_execStallWatchdog h
  · exact sound_execStreamEnd h
  · exact sound_execHomeRequest h
  · exact sound_execWalkComplete h
  · exact sound_execStoreAck h
  · exact sound_execStoreRefusal h
  · exact sound_execInboxEntry h
  · exact sound_execLatchReply h
  · exact sound_execLatchTimeout h
  · exact sound_execRecoveryQuery h
  · exact sound_execStreamStart h
  · exact sound_execStreamEmit h
  · exact sound_execTagAck h
  · exact sound_execTagToken h
  · exact sound_execEngineRun h
  · exact sound_execEngineComplete h
  · exact sound_execLeaseExpiry h
  · exact sound_execHostFetchadd h
  · exact sound_execHostBarrierWrite h
  · exact sound_execHostAccess h
  · exact sound_execTrapRecordDelivery h
  · exact sound_execPortReplay h
  · exact sound_execUncorrectableError h
  · exact sound_execMarkSend h
  · exact sound_execMarkArrival h
  · exact sound_execNodeAlign h
  · exact sound_execSnapshotComplete h
  · exact sound_execWholeCoursePreempt h
  · exact sound_execPsplit h
  · exact sound_execPmerge h
  · exact sound_execPpre h
  · exact sound_execKload h
  · exact sound_execKshare h
  · exact sound_execKfree h
  · exact sound_execInval h
  · exact sound_execPtear h
  · exact sound_execQreg h
  · exact sound_execQunreg h
  · exact sound_execFassign h
  · exact sound_execPodgrant h
  · exact sound_execPodrevoke h
  · exact sound_execPodrt h
  · exact sound_execKctr h
  · exact sound_execKctrfree h
  · exact sound_execKnonce h
  · exact sound_execKquote h
  · exact sound_execKseal h
  · exact sound_execKexport h
  · exact sound_execKopen h
  · exact sound_execAtsCompletion h
  · exact sound_execPageRequestResponse h
  · exact sound_execFlr h
  · exact sound_execTdiError h
  · exact sound_execPowerIntervalEnd h
  · exact sound_execPodRequestArrival h
  · exact sound_execRemoteDecrement h
  · exact sound_execPodLinkFailure h
  · exact sound_execColdReset h
  · exact sound_execDieAdmit h
  · exact sound_execClockSwitch h
  · exact sound_execWarmRecalibration h
  · exact sound_execThermalThrottle h
  · exact sound_execThermalRecover h
  · exact sound_execThermalRemoval h
  · exact sound_execRegisterWrite h
  · exact sound_execPsetCommand h
  · exact sound_execHbmodeWrite h
  · exact sound_execReplyAcknowledgement h
  · exact sound_execPowerCapExceeded h
  · exact sound_execDieFullService h
  · exact sound_execPodLinkUp h
  · exact sound_execPowerLoss h
  · exact sound_execCorrectableError h
  · exact sound_execAtsInvalidationCompletion h
  · exact sound_execTdispRequest h

/-! ## Machine/Step -/

theorem sound_noteIssue {p : Cursor} {i : Instr} (h : Sound s₀ s) : Sound s₀ (noteIssue s p i) := by
  unfold noteIssue
  exact sound_updEl (sound_touchRegion (h.same rfl))

theorem sound_afterIssue {n : NodeRef} {x : Host.Outcome State Fault Refusal} (hx : SoundOut s₀ x) : SoundOut s₀ (afterIssue n x) := by
  cases x with
  | next t => exact SoundOut.keeps ((hx t rfl).trans (sound_lateFault (Sound.refl t)).kept)
  | fault e => exact SoundOut.fault
  | refused e => exact SoundOut.refused

theorem sound_turn {p : Cursor} (h : Sound s₀ s) : SoundOut s₀ (turn s p) := by
  unfold turn
  dsimp only
  split
  · split
    · exact SoundOut.fault
    · exact sound_afterIssue (sound_exec (sound_noteIssue h))
  · exact SoundOut.next h

theorem sound_close (h : Sound s₀ s) : SoundOut s₀ (close s) := by
  unfold close
  split
  · exact SoundOut.next (sound_endCycle h)
  · exact sound_turn (h.same rfl)

/-- A step keeps what `Kept` says, from the state it starts in. -/
theorem sound_step (h : Sound s₀ s) : SoundOut s₀ (step s) := by
  unfold step
  split
  · exact sound_close h
  · split
    · exact SoundOut.next (sound_closeCycle h)
    · exact SoundOut.next (sound_closeCycle (h.same rfl))
    · exact sound_exec (h.same rfl)

end Sys2Proof.Machine
end

section
/-! PROOF. O8 and O9. -/

namespace Sys2Proof.Machine
open Sys2Proof.Claims
theorem numbered_reset : Numbered State.reset :=
  numbered_iff.mpr ⟨List.nodup_nil, fun _ h => absurd h List.not_mem_nil, rfl, rfl, fun _ h => absurd h List.not_mem_nil⟩
end Sys2Proof.Machine

namespace Sys2Proof.Proofs
open Sys2Proof.Machine Sys2Proof.Claims

/-- Settles O8: every writer of memory keeps its canonical form, through every function that a step uses (`sound_step`). -/
theorem memoryStaysCanonical : Obligations.MemoryStaysCanonical := by
  unfold Obligations.MemoryStaysCanonical
  intro s t hw hs
  exact (sound_step (Sound.refl s) t hs).mem hw

/-- Settles O9: every function that a step uses keeps the relation `Sound`, and so the numbers (`sound_step`). -/
theorem numbersStayDistinct : Obligations.NumbersStayDistinct := by
  unfold Obligations.NumbersStayDistinct
  exact ⟨numbered_reset, fun s t hn hs => (sound_step (Sound.refl s) t hs).num hn⟩
end Sys2Proof.Proofs
end

section
/-! PROOF. A number that a format represents is delivered as itself (O11; R52-R55, R58). -/

namespace Sys2Proof.Machine
open Sys2Proof.Claims

variable {F : FpFmt} {md : Rounding} {fz neg : Bool} {m e c : Nat}

/-! ## The parts of a code -/

/-- The sign, the exponent field and the fraction field of a code (R52). -/
def FpFmt.negOf (F : FpFmt) (c : Nat) : Bool := decide (c / 2 ^ (F.ew + F.mw) % 2 = 1)
def FpFmt.expOf (F : FpFmt) (c : Nat) : Nat := c / 2 ^ F.mw % 2 ^ F.ew
def FpFmt.fracOf (F : FpFmt) (c : Nat) : Nat := c % 2 ^ F.mw

theorem fracOf_lt : F.fracOf c < 2 ^ F.mw := Nat.mod_lt _ (Nat.two_pow_pos _)
theorem expOf_lt : F.expOf c < 2 ^ F.ew := Nat.mod_lt _ (Nat.two_pow_pos _)

theorem decode_eq : F.decode fz c =
    if F.expOf c = 2 ^ F.ew - 1 then (if F.fracOf c = 0 then .inf (F.negOf c) else .nan)
    else if F.expOf c = 0 then .fin (F.negOf c) (if fz then 0 else F.fracOf c) (1 - (F.bias : Int) - F.mw)
    else .fin (F.negOf c) (2 ^ F.mw + F.fracOf c) ((F.expOf c : Int) - F.bias - F.mw) := rfl

/-- The magnitude bits are the exponent above the fraction. -/
theorem magOf_eq : magOf F c = F.expOf c * 2 ^ F.mw + F.fracOf c := by
  rw [magOf, Nat.add_comm F.ew, Nat.pow_add, Nat.mod_mul, FpFmt.expOf, FpFmt.fracOf]
  ring

/-- A code is its sign above its magnitude bits. -/
theorem sign_add_magOf (hc : c < 2 ^ (F.ew + F.mw + 1)) : F.sign (F.negOf c) + magOf F c = c := by
  have hq : c / 2 ^ (F.ew + F.mw) < 2 := Nat.div_lt_of_lt_mul (by rwa [← Nat.pow_succ])
  have hd := Nat.div_add_mod c (2 ^ (F.ew + F.mw))
  rw [FpFmt.sign, FpFmt.negOf, magOf]
  rcases Nat.le_one_iff_eq_zero_or_eq_one.mp (Nat.le_of_lt_succ hq) with h | h
  · rw [h, Nat.mul_zero] at hd
    simpa [h] using hd
  · rw [h, Nat.mul_one] at hd
    simpa [h] using hd

@[simp] theorem negOf_sign : F.negOf (F.sign neg) = neg := by
  cases neg <;> simp [FpFmt.negOf, FpFmt.sign, Nat.div_self (Nat.two_pow_pos _)]

@[simp] theorem magOf_sign : magOf F (F.sign neg) = 0 := by
  cases neg <;> simp [magOf, FpFmt.sign]

theorem expOf_eq_zero_iff : F.expOf c = 0 ↔ magOf F c < 2 ^ F.mw := by
  rw [magOf_eq]
  have hf := fracOf_lt (F := F) (c := c)
  refine ⟨fun h => by rw [h]; omega, fun h => Nat.eq_zero_of_not_pos fun hp => ?_⟩
  have := Nat.le_mul_of_pos_left (2 ^ F.mw) hp
  omega

/-- A code is a NaN where its exponent is the highest and its fraction is not zero (R52). -/
theorem nanOf_iff : nanOf F c = true ↔ F.expOf c = 2 ^ F.ew - 1 ∧ F.fracOf c ≠ 0 := by
  have he := expOf_lt (F := F) (c := c)
  have hf := fracOf_lt (F := F) (c := c)
  rw [nanOf, decide_eq_true_eq, magOf_eq]
  constructor
  · intro h
    have hle : 2 ^ F.ew - 1 ≤ F.expOf c := by
      by_contra hlt
      have := Nat.mul_le_mul_right (2 ^ F.mw) (show F.expOf c + 1 ≤ 2 ^ F.ew - 1 by omega)
      rw [Nat.succ_mul] at this
      omega
    have heq : F.expOf c = 2 ^ F.ew - 1 := by omega
    rw [heq] at h
    exact ⟨heq, by omega⟩
  · rintro ⟨h, h0⟩
    rw [h]
    omega

theorem decode_of_nan (h : nanOf F c = true) : F.decode fz c = .nan := by
  obtain ⟨he, hf⟩ := nanOf_iff.mp h
  rw [decode_eq, if_pos he, if_neg hf]

/-! ## Rounding leaves a number that the format has -/

theorem roundAt_of_le {q e : Int} (h : q ≤ e) : roundAt md neg m e q = (m <<< (e - q).toNat, false) := if_pos h

@[simp] theorem roundAt_self (e : Int) : roundAt md neg m e e = (m, false) := by
  simp [roundAt_of_le (Int.le_refl e)]

/-- A normal number is a multiple of its own last place. -/
theorem round_normal (hm : m < 2 ^ F.mw) (h1 : 1 ≤ e) (h2 : e ≤ 2 * F.bias) :
    F.round md fz neg (2 ^ F.mw + m) ((e : Int) - F.bias - F.mw) = (F.sign neg + e * 2 ^ F.mw + m, 0) := by
  have hpos := Nat.two_pow_pos F.mw
  have hlog : Nat.log2 (2 ^ F.mw + m) = F.mw := by
    rw [Nat.log2_eq_iff (by omega), Nat.pow_succ]
    omega
  have hmsb : (e : Int) - F.bias - F.mw + (F.mw : Nat) = (e : Int) - F.bias := by omega
  have htop : ¬2 ^ F.mw + m = 2 ^ (F.mw + 1) := by rw [Nat.pow_succ]; omega
  simp only [FpFmt.round, hlog, hmsb, roundAt_self, if_neg htop]
  rw [if_neg (by omega), if_neg (by omega), if_neg (by omega)]
  have hexp : ((e : Int) - F.bias + F.bias).toNat = e := by omega
  rw [hexp, Nat.add_sub_cancel_left]
  rfl

/-- A subnormal number is a multiple of the format's last place. -/
theorem round_subnormal (h0 : m ≠ 0) (hm : m < 2 ^ F.mw) :
    F.round md false neg m (1 - (F.bias : Int) - F.mw) = (F.sign neg + m, 0) := by
  have hlog : Nat.log2 m < F.mw := (Nat.log2_lt h0).mpr hm
  have hu : roundAt md neg m (1 - (F.bias : Int) - F.mw) (1 - (F.bias : Int) - F.mw + Nat.log2 m - F.mw) =
      (m <<< (F.mw - Nat.log2 m), false) := by
    rw [roundAt_of_le (by omega)]
    congr 2
    omega
  have htop : ¬m <<< (F.mw - Nat.log2 m) = 2 ^ (F.mw + 1) := by
    have hlt : m * 2 ^ (F.mw - Nat.log2 m) < 2 ^ (Nat.log2 m + 1) * 2 ^ (F.mw - Nat.log2 m) :=
      Nat.mul_lt_mul_of_pos_right Nat.lt_log2_self (Nat.two_pow_pos _)
    rw [← Nat.pow_add, show Nat.log2 m + 1 + (F.mw - Nat.log2 m) = F.mw + 1 by omega] at hlt
    rw [Nat.shiftLeft_eq]
    omega
  simp only [FpFmt.round, hu, roundAt_self, if_neg htop]
  rw [if_neg h0, if_neg (by omega), if_pos (by omega)]
  rfl

/-! ## Reading a code and delivering its value -/

/-- The bias of the format stands in the middle of its exponents (R52). -/
def FpFmt.Centred (F : FpFmt) : Prop := 2 * F.bias + 2 = 2 ^ F.ew

theorem centred_of_mem (h : F ∈ [fmtFp32, fmtBf16, fmtFp16]) : F.Centred := by
  simp only [List.mem_cons, List.not_mem_nil, or_false] at h
  rcases h with rfl | rfl | rfl <;> rfl

/-- A code whose exponent field is 0 stands for a zero or a subnormal. -/
theorem decode_small (hF : F.Centred) (h : F.expOf c = 0) :
    F.decode fz c = .fin (F.negOf c) (if fz then 0 else F.fracOf c) (1 - (F.bias : Int) - F.mw) := by
  rw [FpFmt.Centred] at hF
  rw [decode_eq, if_neg (by omega), if_pos h]

theorem expOf_sign : F.expOf (F.sign neg) = 0 := expOf_eq_zero_iff.mpr (by simp)

theorem fracOf_sign : F.fracOf (F.sign neg) = 0 := by
  have h := magOf_eq (F := F) (c := F.sign neg)
  rw [magOf_sign] at h
  omega

/-- The code of a sign alone is a zero of that sign. -/
theorem decode_sign (hF : F.Centred) : F.decode fz (F.sign neg) = .fin neg 0 (1 - (F.bias : Int) - F.mw) := by
  rw [decode_small hF expOf_sign, fracOf_sign, negOf_sign, ite_self]

/-- FZ takes a subnormal to the zero of its sign (R58). -/
theorem flushOf_small (hc : c < 2 ^ (F.ew + F.mw + 1)) (h : F.expOf c = 0) : flushOf F true c = F.sign (F.negOf c) := by
  rw [flushOf, if_pos (by simpa using expOf_eq_zero_iff.mp h)]
  have := sign_add_magOf hc
  omega

theorem flushOf_large (h : F.expOf c ≠ 0) : flushOf F fz c = c :=
  if_neg (by simpa using fun _ => Nat.le_of_not_lt (mt expOf_eq_zero_iff.mpr h))

/-- FZ matters for the codes of exponent field 0 alone. -/
theorem decode_large (h : F.expOf c ≠ 0) : F.decode fz c = F.decode false c := by
  rw [decode_eq, decode_eq, if_neg h, if_neg h]

/-- Under FZ a subnormal is read as the zero of its sign, and every other code as itself (R58). -/
theorem decode_fz (hF : F.Centred) (hc : c < 2 ^ (F.ew + F.mw + 1)) : F.decode true c = F.decode false (flushOf F true c) := by
  by_cases h : F.expOf c = 0
  · rw [flushOf_small hc h, decode_sign hF, decode_small hF h, if_pos rfl]
  · rw [flushOf_large h, decode_large h]

/-- A zero or a subnormal is delivered as itself without a flag (R54). -/
theorem deliver_small (hF : F.Centred) (hc : c < 2 ^ (F.ew + F.mw + 1)) (he : F.expOf c = 0) :
    F.deliver md false (F.decode false c) = (c, 0) := by
  have hs := sign_add_magOf hc
  rw [magOf_eq, he, Nat.zero_mul, Nat.zero_add] at hs
  rw [decode_small hF he]
  by_cases hf : F.fracOf c = 0
  · rw [hf] at hs ⊢
    exact congrArg (·, 0) hs
  · exact (round_subnormal hf fracOf_lt).trans (congrArg (·, 0) hs)

/-- An infinity or a normal number is delivered as itself without a flag, whatever FZ is (R54). -/
theorem deliver_large (hF : F.Centred) (hc : c < 2 ^ (F.ew + F.mw + 1)) (hn : nanOf F c = false) (h0 : F.expOf c ≠ 0) :
    F.deliver md fz (F.decode false c) = (c, 0) := by
  have hs := sign_add_magOf hc
  have hlt := expOf_lt (F := F) (c := c)
  rw [magOf_eq, ← Nat.add_assoc] at hs
  rw [decode_eq]
  by_cases he : F.expOf c = 2 ^ F.ew - 1
  · have hf : F.fracOf c = 0 := by
      by_contra h
      exact Bool.false_ne_true (hn.symm.trans (nanOf_iff.mpr ⟨he, h⟩))
    rw [he, hf] at hs
    rw [if_pos he, if_pos hf]
    exact congrArg (·, 0) hs
  · rw [if_neg he, if_neg h0]
    rw [FpFmt.Centred] at hF
    exact (round_normal fracOf_lt (by omega) (by omega)).trans (congrArg (·, 0) hs)

/-- A number that the format has is delivered as what FZ leaves of it, without a flag (R54, R58). -/
theorem deliver_decode (hF : F.Centred) (hc : c < 2 ^ (F.ew + F.mw + 1)) (hn : nanOf F c = false) :
    F.deliver md fz (F.decode fz c) = (flushOf F fz c, 0) := by
  by_cases h : F.expOf c = 0
  · cases fz with
    | false => exact deliver_small hF hc h
    | true =>
      rw [flushOf_small hc h, decode_fz hF hc, flushOf_small hc h, decode_sign hF]
      rfl
  · rw [flushOf_large h, decode_large h]
    exact deliver_large hF hc hn h

/-- What FZ leaves of a number is no NaN. -/
theorem nanOf_flushOf (hc : c < 2 ^ (F.ew + F.mw + 1)) (hn : nanOf F c = false) : nanOf F (flushOf F fz c) = false := by
  by_cases h : F.expOf c = 0
  · cases fz with
    | false => exact hn
    | true => simp [flushOf_small hc h, nanOf]
  · rwa [flushOf_large h]

end Sys2Proof.Machine

namespace Sys2Proof.Proofs
open Sys2Proof.Machine Sys2Proof.Claims

/-- Settles O11: a code splits into its sign, exponent and fraction, and rounding leaves each of the numbers they stand for. -/
theorem representableNumbersAreExact : Obligations.RepresentableNumbersAreExact := by
  intro F rm hmem
  have hF := centred_of_mem hmem
  refine ⟨fun c hc hn => ?_, fun c _ hn => ?_, fun c hc => decode_fz hF hc, fun fz c hc h => ?_⟩
  · exact deliver_decode hF hc hn
  · rw [decode_of_nan hn]
    rfl
  · cases hn : nanOf F c with
    | true =>
      rw [decode_of_nan hn]
      rfl
    | false =>
      rw [deliver_decode hF hc hn, nanOf_flushOf hc hn] at h
      exact absurd h Bool.false_ne_true

end Sys2Proof.Proofs
end

section
/-! PROOF. Residue words and their arithmetic (O38; R68-R72). -/

namespace Sys2Proof.Machine
open Sys2Proof.Claims

variable {x y w : Word} {v : Int} {op : Int → Int → Int}

/-! ## The channels of a word -/

theorem rnValid_eq (w : Word) : rnValid w = rnOk w := by
  simp only [rnValid, rnOk, bitsNat_eq_field, Bool.decide_and, Nat.lt_succ_iff (n := 1022), Nat.lt_succ_iff (n := 1020), Bool.and_assoc]

theorem rnOk_iff : rnOk w = true ↔ field w 30 2 = 0 ∧ field w 10 10 < 1023 ∧ field w 20 10 < 1021 := decide_eq_true_iff

theorem rnOf_eq (v : Int) : rnOf v = rnWord (v % 1021).toNat (v % 1023).toNat (v % 1024).toNat := rfl

/-- The fields of a word of three residues are those residues (R68). -/
theorem field_rnWord {a b c : Nat} (ha : a < 1021) (hb : b < 1023) (hc : c < 1024) :
    field (rnWord a b c) 0 10 = c ∧ field (rnWord a b c) 10 10 = b ∧ field (rnWord a b c) 20 10 = a ∧ field (rnWord a b c) 30 2 = 0 := by
  simp only [field, rnWord, BitVec.toNat_ofNat]
  omega

/-- A word whose highest bits are zero is the word of its fields. -/
theorem rnWord_fields (h : field w 30 2 = 0) : rnWord (field w 20 10) (field w 10 10) (field w 0 10) = w := by
  have hw := w.isLt
  apply BitVec.eq_of_toNat_eq
  simp only [field, rnWord, BitVec.toNat_ofNat] at h ⊢
  omega

/-- A word of three residues is valid. -/
theorem rnOk_rnWord {a b c : Nat} (ha : a < 1021) (hb : b < 1023) (hc : c < 1024) : rnOk (rnWord a b c) = true := by
  obtain ⟨-, h1023, h1021, htop⟩ := field_rnWord ha hb hc
  rw [rnOk_iff, htop, h1023, h1021]
  exact ⟨rfl, hb, ha⟩

/-! ## The integer of a word -/

/-- The residues of an integer by the moduli 1021, 1023 and 1024 (R68). -/
def Residues (v : Int) (a b c : Nat) : Prop := v ≡ a [ZMOD 1021] ∧ v ≡ b [ZMOD 1023] ∧ v ≡ c [ZMOD 1024]

/-- The sum that R69 reduces modulo M, each channel weighted by the inverse of the other two moduli. -/
def channelSum (a b c : Nat) : Nat := c * 683 % 1024 * 1044483 + b * 511 % 1023 * 1045504 + a * 851 % 1021 * 1047552

theorem rnValue_eq (w : Word) : let t := channelSum (field w 20 10) (field w 10 10) (field w 0 10) % 1069550592
    rnValue w = if 534775296 ≤ t then (t : Int) - 1069550592 else t := by
  simp only [rnValue, bitsNat_eq_field]
  rfl

theorem rnValue_range (w : Word) : -534775296 ≤ rnValue w ∧ rnValue w ≤ 534775295 := by
  rw [rnValue_eq]
  generalize channelSum _ _ _ = t
  split <;> omega

/-- Each weight is 1 in its own channel and 0 in the other two. -/
theorem residues_channelSum (a b c : Nat) : Residues (channelSum a b c) a b c := by
  refine ⟨?_, ?_, ?_⟩ <;> · simp only [Int.ModEq, channelSum]; omega

/-- The integer of a word has the word's residues. -/
theorem residues_rnValue (w : Word) : Residues (rnValue w) (field w 20 10) (field w 10 10) (field w 0 10) := by
  obtain ⟨h1021, h1023, h1024⟩ := residues_channelSum (field w 20 10) (field w 10 10) (field w 0 10)
  rw [rnValue_eq]
  revert h1021 h1023 h1024
  generalize channelSum _ _ _ = t
  intro h1021 h1023 h1024
  simp only [Residues, Int.ModEq] at *
  split <;> omega

/-- Integers of the same residues differ by a multiple of M, the moduli being coprime. -/
theorem residues_unique {v v' : Int} {a b c : Nat} (h : Residues v a b c) (h' : Residues v' a b c) : (v - v') % 1069550592 = 0 := by
  obtain ⟨h1021, h1023, h1024⟩ := h
  obtain ⟨h1021', h1023', h1024'⟩ := h'
  have h12 : (1021 * 1023 : Int) ∣ v - v' :=
    IsCoprime.mul_dvd (Int.isCoprime_iff_gcd_eq_one.mpr rfl) (h1021'.trans h1021.symm).dvd (h1023'.trans h1023.symm).dvd
  have h123 : (1021 * 1023 * 1024 : Int) ∣ v - v' :=
    IsCoprime.mul_dvd (Int.isCoprime_iff_gcd_eq_one.mpr rfl) h12 (h1024'.trans h1024.symm).dvd
  exact Int.emod_eq_zero_of_dvd h123

theorem modEq_toNat_emod {m : Int} (v : Int) (hm : 0 < m) : v ≡ (v % m).toNat [ZMOD m] := by
  rw [Int.toNat_of_nonneg (Int.emod_nonneg _ hm.ne')]
  exact (Int.mod_modEq v m).symm

theorem toNat_emod_of_modEq {v m : Int} {a : Nat} (h : v ≡ a [ZMOD m]) (ha : (a : Int) < m) : (v % m).toNat = a := by
  rw [h, Int.emod_eq_of_lt (Int.natCast_nonneg a) ha, Int.toNat_natCast]

/-- An integer has the residues of the word that encodes it. -/
theorem residues_self (v : Int) : Residues v (v % 1021).toNat (v % 1023).toNat (v % 1024).toNat :=
  ⟨modEq_toNat_emod v (by decide), modEq_toNat_emod v (by decide), modEq_toNat_emod v (by decide)⟩

/-! ## Words and integers -/

theorem rnOk_rnOf (v : Int) : rnOk (rnOf v) = true := rnOk_rnWord (by omega) (by omega) (by omega)

/-- The word of a triple of residues stands for an integer of those residues. -/
theorem residues_rnWord {a b c : Nat} (ha : a < 1021) (hb : b < 1023) (hc : c < 1024) : Residues (rnValue (rnWord a b c)) a b c := by
  have h := residues_rnValue (rnWord a b c)
  obtain ⟨h1024, h1023, h1021, -⟩ := field_rnWord ha hb hc
  rwa [h1024, h1023, h1021] at h

/-- An integer in the range is what its word stands for (R69, R70). -/
theorem rnValue_rnOf (hlo : -534775296 ≤ v) (hhi : v ≤ 534775295) : rnValue (rnOf v) = v := by
  have hm := residues_unique (residues_rnWord (by omega) (by omega) (by omega)) (residues_self v)
  have hr := rnValue_range (rnOf v)
  rw [← rnOf_eq] at hm
  omega

/-- A valid word is the word of the integer that it stands for. -/
theorem rnOf_rnValue (h : rnOk w = true) : rnOf (rnValue w) = w := by
  obtain ⟨htop, h1023, h1021⟩ := rnOk_iff.mp h
  obtain ⟨m1021, m1023, m1024⟩ := residues_rnValue w
  have h1024 : field w 0 10 < 1024 := Nat.mod_lt _ (Nat.two_pow_pos 10)
  rw [rnOf_eq, toNat_emod_of_modEq m1021 (by exact_mod_cast h1021), toNat_emod_of_modEq m1023 (by exact_mod_cast h1023),
    toNat_emod_of_modEq m1024 (by exact_mod_cast h1024), rnWord_fields htop]

/-- An operation that every modulus carries over. -/
def RingLike (op : Int → Int → Int) : Prop := ∀ {m a a' b b' : Int}, a ≡ a' [ZMOD m] → b ≡ b' [ZMOD m] → op a b ≡ op a' b' [ZMOD m]

/-- An operation by channels is that operation on the integers modulo M (R71). -/
theorem rnValue_rn (hop : RingLike op) (hx : rnOk x = true) (hy : rnOk y = true) :
    (rnValue (rn op x y) - op (rnValue x) (rnValue y)) % 1069550592 = 0 := by
  obtain ⟨x1021, x1023, x1024⟩ := residues_rnValue x
  obtain ⟨y1021, y1023, y1024⟩ := residues_rnValue y
  have hrn : rn op x y = rnWord (op (field x 20 10) (field y 20 10) % 1021).toNat (op (field x 10 10) (field y 10 10) % 1023).toNat
      (op (field x 0 10) (field y 0 10) % 1024).toNat := by
    simp only [rn, hx, hy, Bool.and_self, if_true, rnWord]
  rw [hrn]
  refine residues_unique (residues_rnWord (by omega) (by omega) (by omega)) ?_
  exact ⟨(hop x1021 y1021).trans (modEq_toNat_emod _ (by decide)), (hop x1023 y1023).trans (modEq_toNat_emod _ (by decide)),
    (hop x1024 y1024).trans (modEq_toNat_emod _ (by decide))⟩

/-- R69-R72: words and integers, and the three operations. -/
theorem residueWordsAreIntegers : ResidueWordsAreIntegers := by
  refine ⟨fun v hlo hhi => ⟨rnOk_rnOf v, rnValue_rnOf hlo hhi⟩, fun w hw => ⟨(rnValue_range w).1, (rnValue_range w).2, rnOf_rnValue hw⟩,
    fun x y hx hy => ⟨?_, ?_, ?_⟩⟩
  · exact rnValue_rn (fun ha hb => ha.add hb) hx hy
  · exact rnValue_rn (fun ha hb => ha.sub hb) hx hy
  · exact rnValue_rn (fun ha hb => ha.mul hb) hx hy

end Sys2Proof.Machine
end

section
/-! SUPPORT. Scalar operations and lane-wise operations in the words of the statements (R25, R187, R190-R192). -/

namespace Sys2Proof.Machine
open Sys2Proof.Claims

variable {s : State} {i : Instr} {f : Fields} {ins : Nat → List PWord} {gl : Nat → Word × BitVec 6} {vs : List PWord}
  {r : Word × BitVec 6}

/-- A scalar operation gives the function of its operands that it computes. -/
theorem gives_of_scalarOp {fmt : BitVec 3} {fn g : Opnds → Word × Bool × BitVec 6} (hx : exec i s = scalarOp i f fmt s fn)
    (hg : fn (issueOps s i f) = g (issueOps s i f)) : Gives s f i fmt g :=
  fun hc => (hx.trans (scalarOp_clean hc.1 hc.2)).trans (by rw [hg])

/-- One lane of the model: a poisoned lane raises no flag (R191). -/
theorem laneOf_eq : laneOf vs r = (outLane vs r, if vs.any PWord.psn then 0 else r.2) := by
  rw [laneOf, firstPoison_eq, outLane]
  cases h : vs.find? PWord.psn with
  | none =>
    have hany : vs.any PWord.psn = false := by simpa [List.find?_eq_none] using h
    simp [hany, PWord.clean]
  | some w =>
    have hw : w.psn = true := List.find?_some h
    have hany : vs.any PWord.psn = true := List.any_eq_true.mpr ⟨w, List.mem_of_find?_eq_some h, hw⟩
    simp [hany, ← hw]

/-- Inputs that are not read are clean, and poison no lane. -/
theorem laneOf_unread {a : PWord} : laneOf [a, {}, {}] r = laneOf [a] r := by
  simp [laneOf, firstPoison]

/-- A lane that an issue reads is the lane of the statements. -/
@[simp] theorem issueClaim_lane (v : BitVec 5) (l : Nat) : ((issueClaim s i f).el s.cur.node.elemRef).lane v.toNat l = lane s v l := by
  rw [Elem.lane, issueClaim_vreg]
  rfl

/-- A result of 16 lanes, each computed by itself (R190-R192). -/
theorem vecResult_eq {v : BitVec 5} {rs : List (PWord × BitVec 6)} (h : rs = (List.range 16).map (fun l => laneOf (ins l) (gl l))) :
    vecResult v.toNat (rs.map Prod.fst) ((rs.map Prod.fst).any PWord.psn) (rs.foldl (fun x r => x ||| r.2) 0) = lanesResult v ins gl := by
  subst h
  simp only [laneOf_eq, vecResult, lanesResult, List.map_map, List.foldl_map, Function.comp_def, zipIdx_map_range, List.any_map]

/-- A lane-wise operation, by the lanes that it computes from those it reads. -/
theorem lanewise_of_vecOp {useB useD : Bool} {fn : Opnds → Word → Word → Word → Word × BitVec 6} (hx : exec i s = vecOp i f s useB useD fn)
    (hl : ∀ l, let b := if useB then lane s f.sb l else {}
      let d := if useD then lane s f.dst l else {}
      laneOf [lane s f.sa l, b, d] (fn (issueOps s i f) (lane s f.sa l).val b.val d.val) = laneOf (ins l) (gl l)) :
    Lanewise s i f ins gl := by
  intro hp
  refine hx.trans (issue_now hp ?_)
  dsimp only
  rw [vecResult_eq (ins := ins) (gl := gl)]
  simp only [issueOps_n, issueClaim_lane, hl]

end Sys2Proof.Machine
end

section
/-! PROOF. The residue instructions, scalar and by lane (O38; R71-R73, R207-R209). -/

namespace Sys2Proof.Machine
open Sys2Proof.Claims

variable {s : State} {f : Fields} {x y a b d : Word} {v : Int} {op : Int → Int → Int}

/-! ## The operations -/

theorem rnOp_eq (op : Int → Int → Int) (x y : Word) : rnOp op x y = rn op x y := by
  simp only [rnOp, rn, rnValid_eq, bitsNat_eq_field]
  rfl

theorem rnEncode_eq (v : Int) : rnEncode v = rnEnc v := by
  have h : (-(rnHalf : Int) ≤ v ∧ v < rnHalf) ↔ (-534775296 ≤ v ∧ v ≤ 534775295) := by
    simp only [rnHalf]
    omega
  simp only [rnEncode, rnEnc, h]
  rfl

/-- The sum of no word with the invalid one is valid (R71). -/
theorem rnmac_eq (d a b : Word) : rnmac d a b = if rnOk d && rnOk a && rnOk b then rn (· + ·) d (rn (· * ·) a b) else 0xFFFFFFFF := by
  simp only [rnmac, rnOp_eq, rnValid_eq]
  cases hd : rnOk d with
  | false => rfl
  | true =>
    cases hab : rnOk a && rnOk b with
    | true => simp [hab]
    | false =>
      have h : rn (· * ·) a b = rnInvalid := by rw [rn, hab]; rfl
      have hi : rnOk rnInvalid = false := by decide
      rw [h, rn, hi, Bool.and_false, Bool.true_and, hab]
      rfl

/-- The clamp of R208. -/
theorem max_min_eq {lo hi v : Int} (h : lo ≤ hi) : max lo (min hi v) = if v < lo then lo else if hi + 1 ≤ v then hi else v := by
  split_ifs <;> omega

theorem rnct_eq (imm : BitVec 6) (a b : Word) : rnct imm a b = rnBack (imm.toNat % 4) (imm.getLsbD 2) a b := by
  have hn : bitsNat b 0 5 = b.toNat % 32 := rfl
  have ht : bitsNat imm 0 2 = imm.toNat % 4 := rfl
  simp only [rnct, rnBack, rnValid_eq, hn, ht, bitAt, Nat.pos_iff_ne_zero]
  rw [max_min_eq (by split_ifs <;> decide)]
  simp only [Int.sub_add_cancel]
  rfl

/-! ## Bytes -/

theorem byteOf_eq (u : Bool) (w : Word) (j : Nat) : byteOf u w j = byteVal u w j := by
  have hb : bitsNat w (8 * j) 8 = (w.extractLsb' (8 * j) 8).toNat := (BitVec.extractLsb'_toNat ..).symm
  have hlt := (w.extractLsb' (8 * j) 8).isLt
  rw [byteOf, byteVal, hb, BitVec.toInt_eq_toNat_cond]
  cases u with
  | true => simp
  | false =>
    simp only [Bool.false_eq_true, false_or, if_false]
    split_ifs <;> omega

theorem abs_byteVal_le (u : Bool) (w : Word) (j : Nat) : |byteVal u w j| ≤ 255 := by
  have hlt := (w.extractLsb' (8 * j) 8).isLt
  rw [byteVal, BitVec.toInt_eq_toNat_cond, abs_le]
  split_ifs <;> omega

theorem abs_byteVal_mul_le (u : Bool) (a b : Word) (j k : Nat) : |byteVal u a j * byteVal u b k| ≤ 65025 := by
  rw [abs_mul]
  exact mul_le_mul (abs_byteVal_le u a j) (abs_byteVal_le u b k) (abs_nonneg _) (by decide)

theorem byteDot_eq (u : Bool) (a b : Word) : byteDot u a b = dot4 u a b := by
  simp only [byteDot, dot4, byteOf_eq]
  simp [List.range_succ]

/-- An integer in the range has a word (R70). -/
theorem rnEncode_fst (hlo : -534775296 ≤ v) (hhi : v ≤ 534775295) : (rnEncode v).1 = rnOf v := by
  rw [rnEncode_eq, rnEnc, if_pos ⟨hlo, hhi⟩]

/-- A product of two bytes is in the range, and so is a sum of four (R209, R212). -/
theorem rnEncode_byteProduct (u : Bool) (a b : Word) : (rnEncode (byteOf u a 0 * byteOf u b 0)).1 = rnOf (byteVal u a 0 * byteVal u b 0) := by
  have h := abs_le.mp (abs_byteVal_mul_le u a b 0 0)
  rw [byteOf_eq, byteOf_eq]
  exact rnEncode_fst (by omega) (by omega)

theorem rnEncode_dot4 (u : Bool) (a b : Word) : (rnEncode (dot4 u a b)).1 = rnOf (dot4 u a b) := by
  have h0 := abs_le.mp (abs_byteVal_mul_le u a b 0 0)
  have h1 := abs_le.mp (abs_byteVal_mul_le u a b 1 1)
  have h2 := abs_le.mp (abs_byteVal_mul_le u a b 2 2)
  have h3 := abs_le.mp (abs_byteVal_mul_le u a b 3 3)
  refine rnEncode_fst ?_ ?_ <;> · rw [dot4]; omega

theorem rndot_eq (u : Bool) (a b d : Word) : rndot u a b d = if rnOk d then rn (· + ·) d (rnOf (dot4 u a b)) else 0xFFFFFFFF := by
  rw [rndot, byteDot_eq, rnEncode_dot4, rnOp_eq, rnValid_eq]
  rfl

/-! ## The instructions -/

theorem exec_vrncv : exec (.vrncv f) s =
    vecOp (.vrncv f) f s false false (fun o a _ _ => rnEncode (rnInput (bitsNat o.f.imm 0 2) a)) := rfl

theorem exec_vrnmac : exec (.vrnmac f) s = vecOp (.vrnmac f) f s true true (fun _ a b d => (rnmac d a b, 0)) := rfl

theorem exec_vrndot : exec (.vrndot f) s =
    vecOp (.vrndot f) f s true true (fun o a b d => (rndot (bitAt o.f.imm 0) a b d, 0)) := rfl

/-- A lane of `VRNCT` is computed from itself and the shift count of operand b (R209). -/
theorem vrnct_lanes : Lanewise s (.vrnct f) f (fun l => [lane s f.sa l, (issueOps s (.vrnct f) f).b])
    (fun l => rnBack (f.imm.toNat % 4) (f.imm.getLsbD 2) (lane s f.sa l).val (issueOps s (.vrnct f) f).b.val) := by
  intro hp
  refine issue_now hp ?_
  dsimp only
  rw [vecResult_eq (ins := fun l => [lane s f.sa l, (issueOps s (.vrnct f) f).b]) (gl := fun l => rnBack (f.imm.toNat % 4)
    (f.imm.getLsbD 2) (lane s f.sa l).val (issueOps s (.vrnct f) f).b.val)]
  simp only [issueOps_n, Elem.vec, List.map_map, Function.comp_def, issueClaim_lane, rnct_eq]

/-- R71-R73, R207-R209. -/
theorem residueInstructions : ResidueInstructions := by
  intro s f word t half u shift a b d
  refine ⟨?_, ?_, ?_, ?_, ?_, ?_, ?_, ?_, vrnct_lanes, ?_, ?_⟩
  · exact gives_of_scalarOp rfl (congrArg byFlags (rnEncode_eq _))
  · exact gives_of_scalarOp rfl (congrArg byFlags (rnct_eq ..))
  · exact gives_of_scalarOp rfl (congrArg byValue (rnOp_eq ..))
  · exact gives_of_scalarOp rfl (congrArg byValue (rnOp_eq ..))
  · exact gives_of_scalarOp rfl (congrArg byValue (rnOp_eq ..))
  · exact gives_of_scalarOp rfl (congrArg byValue (rnmac_eq ..))
  · exact gives_of_scalarOp rfl (congrArg byValue (rnOp_eq ..))
  · refine lanewise_of_vecOp exec_vrncv fun l => ?_
    rw [rnEncode_eq]
    exact laneOf_unread
  · exact lanewise_of_vecOp exec_vrnmac fun l => congrArg (fun w => laneOf _ (w, 0)) (rnmac_eq ..)
  · exact lanewise_of_vecOp exec_vrndot fun l => congrArg (fun w => laneOf _ (w, 0)) (rndot_eq ..)

end Sys2Proof.Machine

namespace Sys2Proof.Proofs
open Sys2Proof.Machine Sys2Proof.Claims

/-- Settles O38: the residues of a word determine its integer, and each instruction is the operation of the statement. -/
theorem residueArithmetic : Obligations.ResidueArithmetic := ⟨residueWordsAreIntegers, residueInstructions⟩

end Sys2Proof.Proofs
end

section
/-! SUPPORT. Folds over the outputs of a tile: what a fold that changes one accumulator at a time leaves in each, for the spread of
poison and for the sums of a group (R210-R213). -/

namespace Sys2Proof.Machine
open Sys2Proof.Claims

/-! ## Folds that change one place at a time -/

/-- A step at `x` changes the word at the place of `x` by `change x`, and no other. -/
def ChangesOnePlace {α σ : Type} (step : σ → α → σ) (val : σ → Nat → PWord) (place : α → Nat) (change : α → PWord → PWord) : Prop :=
  ∀ t x k, val (step t x) k = if k = place x then change x (val t k) else val t k

section
variable {α σ : Type} {step : σ → α → σ} {val : σ → Nat → PWord} {place : α → Nat} {change : α → PWord → PWord}

/-- A place that no step of the fold names keeps its word. -/
theorem foldl_place_other (hs : ChangesOnePlace step val place change) {k : Nat} :
    ∀ (l : List α) (t : σ), (∀ x ∈ l, k ≠ place x) → val (l.foldl step t) k = val t k
  | [], _, _ => rfl
  | x :: l, t, h => by
    obtain ⟨hx, hl⟩ := List.forall_mem_cons.mp h
    rw [List.foldl_cons, foldl_place_other hs l _ hl, hs, if_neg hx]

/-- Where the places differ, the step of a place changes its word, and no other step does. -/
theorem foldl_place (hs : ChangesOnePlace step val place change) {x : α} :
    ∀ (l : List α) (t : σ), l.Pairwise (fun y z => place y ≠ place z) → x ∈ l →
      val (l.foldl step t) (place x) = change x (val t (place x))
  | y :: l, t, hp, hx => by
    obtain ⟨hy, hl⟩ := List.pairwise_cons.mp hp
    rw [List.foldl_cons]
    rcases List.mem_cons.mp hx with rfl | hx
    · rw [foldl_place_other hs l _ hy, hs, if_pos rfl]
    · rw [foldl_place hs l _ hl hx, hs, if_neg (hy x hx).symm]

/-- A flag is set where it was, or where the step of some place raised it from the word that stood there at first. -/
theorem foldl_flags {flags : σ → BitVec 6} {raised : α → PWord → BitVec 6} {j : Nat} (hs : ChangesOnePlace step val place change)
    (hf : ∀ t x, flags (step t x) = flags t ||| raised x (val t (place x))) :
    ∀ (l : List α) (t : σ), l.Pairwise (fun y z => place y ≠ place z) → ((flags (l.foldl step t)).getLsbD j = true ↔
      (flags t).getLsbD j = true ∨ ∃ x ∈ l, (raised x (val t (place x))).getLsbD j = true)
  | [], t, _ => by simp
  | y :: l, t, hp => by
    obtain ⟨hy, hl⟩ := List.pairwise_cons.mp hp
    have hval : ∀ x ∈ l, val (step t y) (place x) = val t (place x) := fun x hx => by rw [hs, if_neg (hy x hx).symm]
    rw [List.foldl_cons, foldl_flags hs hf l _ hl, hf, BitVec.getLsbD_or, Bool.or_eq_true, List.exists_mem_cons_iff, or_assoc]
    exact or_congr_right (or_congr_right (exists_congr fun x => and_congr_right fun hx => by rw [hval x hx]))

end

/-! ## The outputs of a tile -/

variable {m : Matrix} {acc : Map PWord} {a b : KItem} {g : List (KItem × KItem)} {k : Nat} {x y : Nat × Nat} {vs : List PWord}
  {old : PWord}

/-- Where an output stands among the accumulator words. -/
def Matrix.place (m : Matrix) (x : Nat × Nat) : Nat := accPlace m x.1 x.2

theorem mem_tilePlaces : x ∈ tilePlaces m.opf ↔ x.1 < edgeOf m.wordA ∧ x.2 < edgeOf m.wordA := by
  simp [tilePlaces, tileEdge_eq, Prod.ext_iff]

theorem tilePlaces_nodup (opf : Nat) : (tilePlaces opf).Nodup := List.Nodup.product List.nodup_range List.nodup_range

/-- Different outputs stand at different places (R210). -/
theorem place_inj (hx : x ∈ tilePlaces m.opf) (hy : y ∈ tilePlaces m.opf) (h : m.place x = m.place y) : x = y := by
  obtain ⟨hr, hc⟩ := mem_tilePlaces.mp hx
  obtain ⟨hr', hc'⟩ := mem_tilePlaces.mp hy
  rw [← tileEdge_eq] at hr hc hr' hc'
  unfold Matrix.place accPlace at h
  unfold tileEdge at *
  refine Prod.ext ?_ ?_ <;> · split_ifs at * <;> omega

theorem places_differ : (tilePlaces m.opf).Pairwise (fun x y => m.place x ≠ m.place y) :=
  (tilePlaces_nodup _).imp_of_mem fun hx hy hne h => hne (place_inj hx hy h)

/-! ## Poison -/

/-- What the poisoned ones of some inputs leave of a word: the first poison stays (R213). -/
def poisonedBy (vs : List PWord) (old : PWord) : PWord := if old.psn then old else (vs.find? PWord.psn).getD old

theorem poisonedBy_psn : (poisonedBy vs old).psn = false ↔ old.psn = false ∧ vs.find? PWord.psn = none := by
  unfold poisonedBy
  cases ho : old.psn with
  | true => simp [ho]
  | false =>
    cases hv : vs.find? PWord.psn with
    | none => simp [ho]
    | some w => simp [List.find?_some hv]

/-- Clean inputs leave a clean word. -/
theorem poisonedBy_clean (ho : old.psn = false) (hv : vs.find? PWord.psn = none) : poisonedBy vs old = old := by
  simp [poisonedBy, ho, hv]

/-- The k-values of an output's row and column. -/
def outputInputs (a b : KItem) (x : Nat × Nat) : List PWord := [a.vals.getD x.1 {}, b.vals.getD x.2 {}]

/-- One step of the spread of poison. -/
def poisonStep (m : Matrix) (a b : KItem) (acc : Map PWord) (x : Nat × Nat) : Map PWord :=
  match firstPoison (outputInputs a b x) with
  | none => acc
  | some w => if (Map.get acc {} (m.place x)).psn then acc else Map.set acc (m.place x) ⟨w, true⟩

theorem poisonAcc_eq : poisonAcc m a b acc = (tilePlaces m.opf).foldl (poisonStep m a b) acc := rfl

theorem poisonStep_changes :
    ChangesOnePlace (poisonStep m a b) (fun t => Map.get t {}) m.place (fun x => poisonedBy (outputInputs a b x)) := by
  intro acc x k
  dsimp only
  rw [poisonStep, firstPoison_eq, poisonedBy]
  cases hv : (outputInputs a b x).find? PWord.psn with
  | none => simp only [Option.map_none, Option.getD_none, ite_self]
  | some w =>
    have hw : (⟨w.val, true⟩ : PWord) = w := by rw [← List.find?_some hv]
    simp only [Option.map_some, Option.getD_some, hw]
    by_cases hk : k = m.place x
    · rw [if_pos hk, hk]
      split_ifs <;> simp only [Map.get_set_self]
    · rw [if_neg hk]
      split_ifs <;> simp only [Map.get_set_ne _ _ _ hk]

theorem get_poisonAcc (hx : x ∈ tilePlaces m.opf) :
    Map.get (poisonAcc m a b acc) {} (m.place x) = poisonedBy (outputInputs a b x) (Map.get acc {} (m.place x)) := by
  rw [poisonAcc_eq]
  exact foldl_place poisonStep_changes _ _ places_differ hx

theorem get_poisonAcc_other (h : ∀ x ∈ tilePlaces m.opf, k ≠ m.place x) : Map.get (poisonAcc m a b acc) {} k = Map.get acc {} k := by
  rw [poisonAcc_eq]
  exact foldl_place_other poisonStep_changes _ _ h

/-! ## Sums -/

/-- What a complete group makes of an accumulator, and the flags that it raises there (R212, R213). -/
def summed (m : Matrix) (g : List (KItem × KItem)) (x : Nat × Nat) (old : PWord) : PWord :=
  if old.psn then old else PWord.clean (addGroup m g x old.val).1
def summedFlags (m : Matrix) (g : List (KItem × KItem)) (x : Nat × Nat) (old : PWord) : BitVec 6 :=
  if old.psn then 0 else (addGroup m g x old.val).2

/-- A word after the spread of poison and, where `full` says so, the sums: a poisoned word stays, a poisoned input poisons, and what
is clean is summed (R213). -/
theorem summed_poisonedBy (full : Prop) [Decidable full] :
    (if full then summed m g x (poisonedBy vs old) else poisonedBy vs old) =
      if old.psn then old else (vs.find? PWord.psn).getD (if full then ⟨(addGroup m g x old.val).1, false⟩ else old) := by
  unfold summed poisonedBy
  cases ho : old.psn with
  | true => simp [ho]
  | false =>
    cases hv : vs.find? PWord.psn with
    | none => simp [ho, PWord.clean]
    | some w => simp [List.find?_some hv]

/-- Flags are raised at the words that stand clean and have clean inputs. -/
theorem summedFlags_poisonedBy {j : Nat} : (summedFlags m g x (poisonedBy vs old)).getLsbD j = true ↔
    old.psn = false ∧ vs.find? PWord.psn = none ∧ (addGroup m g x old.val).2.getLsbD j = true := by
  rw [← and_assoc, ← poisonedBy_psn, summedFlags]
  cases hp : (poisonedBy vs old).psn with
  | true => simp
  | false =>
    obtain ⟨ho, hv⟩ := poisonedBy_psn.mp hp
    simp [poisonedBy_clean ho hv]

/-- One step of the sums. -/
def sumStep (m : Matrix) (g : List (KItem × KItem)) (st : Map PWord × BitVec 6) (x : Nat × Nat) : Map PWord × BitVec 6 :=
  let old := Map.get st.1 {} (m.place x)
  if old.psn then st else (Map.set st.1 (m.place x) (PWord.clean (addGroup m g x old.val).1), st.2 ||| (addGroup m g x old.val).2)

theorem addAll_eq : addAll m g acc = (tilePlaces m.opf).foldl (sumStep m g) (acc, 0) := rfl

theorem sumStep_changes : ChangesOnePlace (sumStep m g) (fun t => Map.get t.1 {}) m.place (summed m g) := by
  intro st x k
  dsimp only [sumStep, summed]
  by_cases hk : k = m.place x
  · rw [if_pos hk, hk]
    split_ifs <;> simp only [Map.get_set_self]
  · rw [if_neg hk]
    split_ifs <;> simp only [Map.get_set_ne _ _ _ hk]

theorem sumStep_flags (st : Map PWord × BitVec 6) (x : Nat × Nat) :
    (sumStep m g st x).2 = st.2 ||| summedFlags m g x (Map.get st.1 {} (m.place x)) := by
  dsimp only [sumStep, summedFlags]
  split_ifs
  · exact BitVec.or_zero.symm
  · rfl

theorem get_addAll (hx : x ∈ tilePlaces m.opf) : Map.get (addAll m g acc).1 {} (m.place x) = summed m g x (Map.get acc {} (m.place x)) := by
  rw [addAll_eq]
  exact foldl_place sumStep_changes _ (acc, 0) places_differ hx

theorem get_addAll_other (h : ∀ x ∈ tilePlaces m.opf, k ≠ m.place x) : Map.get (addAll m g acc).1 {} k = Map.get acc {} k := by
  rw [addAll_eq]
  exact foldl_place_other sumStep_changes _ (acc, 0) h

theorem flags_addAll {j : Nat} : (addAll m g acc).2.getLsbD j = true ↔
    ∃ x ∈ tilePlaces m.opf, (summedFlags m g x (Map.get acc {} (m.place x))).getLsbD j = true := by
  rw [addAll_eq]
  exact (foldl_flags sumStep_changes sumStep_flags _ (acc, 0) places_differ).trans (by simp)

end Sys2Proof.Machine
end

section
/-! PROOF. What an entered k-value does to the accumulators (O16; R74, R212, R213, R217). -/

namespace Sys2Proof.Machine
open Sys2Proof.Claims

variable {m : Matrix} {acc : Map PWord} {a b : KItem} {g : List (KItem × KItem)} {p : KItem × KItem} {k j : Nat} {x : Nat × Nat} {w : Word}

/-! ## The term of a group -/

theorem scaleAt_eq (xs : List PWord) (i : Nat) : scaleAt xs i = ((xs[i]?).map (fun w => w.val.toNat % 256)).getD 255 := by
  unfold scaleAt
  cases xs[i]? <;> rfl

theorem nextScales_eq (opf k : Nat) (old : List PWord) (x : KItem) :
    nextScales opf k old x = x.scales.getD (if (4 ≤ opf ∧ opf ≤ 6) ∧ k % 32 = 0 then [] else old) := by
  simp only [nextScales, narrowOpf, decide_eq_true_eq]
  cases x.scales <;> rfl

/-- The sum of R74 in the words of the statements: the flags of the term join those of the sum. -/
theorem plus_eq (md : Rounding) (fz : Bool) (n : Nat) (t : FVal × BitVec 6) :
    plus md fz (n, 0) t = ((accumulate md fz n t.1).1, t.2 ||| (accumulate md fz n t.1).2) := by
  simp [plus, accumulate, BitVec.or_assoc]

/-- What a complete group `g`, whose first pair is `p`, adds to an output in a floating-point format, with NV: in a narrow one the
scaled sum of its products, else the product of its one pair (R74, R217). -/
def termOf (m : Matrix) (g : List (KItem × KItem)) (p : KItem × KItem) (x : Nat × Nat) : FVal × BitVec 6 :=
  if 4 ≤ m.opf ∧ m.opf ≤ 6 then
    (scaledGroup (groupTerm m.opf g x.1 x.2).1 (scaleAt m.scaleA x.1) (scaleAt m.scaleB x.2), (groupTerm m.opf g x.1 x.2).2)
  else
    FVal.mul ((fmtOfTag m.opf).decode m.fzc (bitsNat (p.1.vals.getD x.1 {}).val 0 16))
      ((fmtOfTag m.opf).decode m.fzc (bitsNat (p.2.vals.getD x.2 {}).val 0 16))

theorem addGroup_residue (h : m.opf = 0) (hp : g.head? = some p) : addGroup m g x w =
    (rn (· + ·) w (rnOf (byteVal m.uns (p.1.vals.getD x.1 {}).val 0 * byteVal m.uns (p.2.vals.getD x.2 {}).val 0)), 0) := by
  simp only [addGroup, if_pos h, rnOp_eq, rnEncode_byteProduct, hp, Option.map_some, Option.getD_some]

theorem addGroup_float (h : m.opf ≠ 0) (hp : g.head? = some p) : addGroup m g x w =
    (BitVec.ofNat 32 (plus .nearest m.fzc (w.toNat, 0) (termOf m g p x)).1, (plus .nearest m.fzc (w.toNat, 0) (termOf m g p x)).2) := by
  simp only [addGroup, if_neg h, plus_eq, termOf, narrowOpf, decide_eq_true_eq, hp, Option.map_some, Option.getD_some]
  split_ifs <;> rfl

theorem fmtOfTag_eq {t : Nat} (h : t = 2 ∨ t = 3) : fmtOfTag t = if t = 2 then fmtBf16 else fmtFp16 := by
  rcases h with rfl | rfl <;> rfl

/-! ## The step -/

/-- The section with the scales that hold from a k-value on (R217). -/
def Matrix.scaled (m : Matrix) (a b : KItem) : Matrix :=
  { m with
    scaleA := nextScales m.opf m.k m.scaleA a
    scaleB := nextScales m.opf m.k m.scaleB b }

theorem enterValue_partial (h : ¬groupSize m.opf ≤ (m.group ++ [(a, b)]).length) : enterValue m acc a b =
    ({ m.scaled a b with
        k := m.k + 1
        group := m.group ++ [(a, b)] }, poisonAcc (m.scaled a b) a b acc) := if_pos (Nat.lt_of_not_le h)

theorem enterValue_full (h : groupSize m.opf ≤ (m.group ++ [(a, b)]).length) : enterValue m acc a b =
    let r := addAll (m.scaled a b) (m.group ++ [(a, b)]) (poisonAcc (m.scaled a b) a b acc)
    ({ m.scaled a b with
        k := m.k + 1
        group := []
        flags := m.flags ||| (BitVec.setWidth 5 r.2 &&& 0x17) }, r.1) := if_neg (Nat.not_lt_of_le h)

/-- What a k-value changes of the section itself. -/
theorem enterValue_fst : (enterValue m acc a b).1 =
    { m.scaled a b with
      k := m.k + 1
      group := if groupSize m.opf ≤ (m.group ++ [(a, b)]).length then [] else m.group ++ [(a, b)]
      flags := (enterValue m acc a b).1.flags } := by
  by_cases h : groupSize m.opf ≤ (m.group ++ [(a, b)]).length
  · rw [enterValue_full h, if_pos h]
  · rw [enterValue_partial h, if_neg h]

/-- An accumulator after a k-value: poisoned by its row and column, and then, where a group is complete, summed. -/
theorem get_enterValue (hx : x ∈ tilePlaces m.opf) : Map.get (enterValue m acc a b).2 {} (m.place x) =
    let old := Map.get acc {} (m.place x)
    if old.psn then old else ((outputInputs a b x).find? PWord.psn).getD (if groupSize m.opf ≤ (m.group ++ [(a, b)]).length then
      ⟨(addGroup (m.scaled a b) (m.group ++ [(a, b)]) x old.val).1, false⟩ else old) := by
  refine Eq.trans ?_ (summed_poisonedBy _)
  have hp := get_poisonAcc (m := m.scaled a b) (acc := acc) (a := a) (b := b) hx
  by_cases h : groupSize m.opf ≤ (m.group ++ [(a, b)]).length
  · rw [enterValue_full h, if_pos h]
    exact (get_addAll (m := m.scaled a b) hx).trans (congrArg _ hp)
  · rw [enterValue_partial h, if_neg h]
    exact hp

theorem get_enterValue_other (h : ∀ x ∈ tilePlaces m.opf, k ≠ m.place x) :
    Map.get (enterValue m acc a b).2 {} k = Map.get acc {} k := by
  have hp := get_poisonAcc_other (m := m.scaled a b) (acc := acc) (a := a) (b := b) h
  by_cases hf : groupSize m.opf ≤ (m.group ++ [(a, b)]).length
  · rw [enterValue_full hf]
    exact (get_addAll_other (m := m.scaled a b) h).trans hp
  · rw [enterValue_partial hf]
    exact hp

/-- The kept flags after a k-value: those of a complete group's sums at the clean accumulators (R213, R221). -/
theorem flags_enterValue (hj : j < 5) : (enterValue m acc a b).1.flags.getLsbD j = true ↔ m.flags.getLsbD j = true ∨
    (j ≠ 3 ∧ groupSize m.opf ≤ (m.group ++ [(a, b)]).length ∧ ∃ x ∈ tilePlaces m.opf, (Map.get acc {} (m.place x)).psn = false ∧
      (outputInputs a b x).find? PWord.psn = none ∧
      (addGroup (m.scaled a b) (m.group ++ [(a, b)]) x (Map.get acc {} (m.place x)).val).2.getLsbD j = true) := by
  by_cases hf : groupSize m.opf ≤ (m.group ++ [(a, b)]).length
  · rw [enterValue_full hf]
    have hmask : (0x17 : BitVec 5).getLsbD j = decide (j ≠ 3) := by
      interval_cases j <;> rfl
    simp only [BitVec.getLsbD_or, BitVec.getLsbD_and, BitVec.getLsbD_setWidth, hmask, hj, decide_true, Bool.true_and, Bool.or_eq_true,
      Bool.and_eq_true, decide_eq_true_eq, flags_addAll, hf, true_and]
    rw [and_comm (b := j ≠ 3)]
    refine or_congr_right (and_congr_right fun _ => exists_congr fun x => and_congr_right fun hx => ?_)
    rw [get_poisonAcc hx]
    exact summedFlags_poisonedBy
  · rw [enterValue_partial hf]
    simp only [hf, false_and, and_false, or_false]
    rfl

end Sys2Proof.Machine

namespace Sys2Proof.Proofs
open Sys2Proof.Machine Sys2Proof.Claims

/-- Settles O16: a k-value spreads its poison, and a complete group is summed at every output that stands clean. -/
theorem matrixAccumulation : Obligations.MatrixAccumulation := by
  intro m acc a b t opf narrow side sa sb scale group full av bv first sum products F term added hit edge hopf1 hopf7
  have hopf : m.opf = opf := opf_eq
  have hsa : (m.scaled a b).scaleA = sa := (nextScales_eq ..).trans (by rw [hopf])
  have hsb : (m.scaled a b).scaleB = sb := (nextScales_eq ..).trans (by rw [hopf])
  have hfull : groupSize m.opf ≤ (m.group ++ [(a, b)]).length ↔ full := by rw [hopf]; exact Iff.rfl
  have hfirst : group.head? = some first := by
    simp only [group, first]
    cases m.group <;> rfl
  have hmem : ∀ r c, (r, c) ∈ tilePlaces m.opf ↔ r < edge ∧ c < edge := fun _ _ => mem_tilePlaces
  have hplace : ∀ r c, m.place (r, c) = placeOf m.wordA r c := accPlace_eq
  have hopf' : (m.scaled a b).opf = opf := hopf
  have hterm : ∀ r c, opf ≠ 0 → termOf (m.scaled a b) group first (r, c) = term r c := by
    intro r c h0
    by_cases hn : narrow
    · refine (if_pos (hopf' ▸ hn)).trans (Eq.trans ?_ (if_pos hn).symm)
      rw [hopf', hsa, hsb, scaledGroup, scaleAt_eq, scaleAt_eq]
      rfl
    · have hlt : opf < 8 := Nat.mod_lt _ (Nat.two_pow_pos 3)
      have h23 : opf = 2 ∨ opf = 3 := by omega
      refine (if_neg (hopf' ▸ hn)).trans (Eq.trans ?_ (if_neg hn).symm)
      rw [hopf', fmtOfTag_eq h23]
      rfl
  have hadded : ∀ r c w, addGroup (m.scaled a b) (m.group ++ [(a, b)]) (r, c) w = added r c w := by
    intro r c w
    by_cases h0 : opf = 0
    · rw [addGroup_residue (hopf'.trans h0) hfirst]
      exact (if_pos h0).symm
    · rw [addGroup_float (hopf' ▸ h0) hfirst, hterm r c h0]
      exact (if_neg h0).symm
  have ht : t.1 = { m with k := m.k + 1, scaleA := sa, scaleB := sb, group := if full then [] else group, flags := t.1.flags } := by
    refine enterValue_fst.trans ?_
    simp only [hfull, ← hsa, ← hsb]
    rfl
  refine ⟨fun r c hr hc => ?_, fun p hp => ?_, congrArg Matrix.k ht, congrArg Matrix.scaleA ht, congrArg Matrix.scaleB ht,
    congrArg Matrix.group ht, fun j hj => ?_, ?_⟩
  · intro p
    have h := get_enterValue (acc := acc) (a := a) (b := b) ((hmem r c).mpr ⟨hr, hc⟩)
    rw [hplace] at h
    refine h.trans ?_
    simp only [hfull, hadded]
    change (if _ then _ else (hit r c).getD _) = _
    cases hit r c <;> rfl
  · refine get_enterValue_other fun x hx => ?_
    obtain ⟨hr, hc⟩ := (hmem x.1 x.2).mp hx
    rw [Matrix.place, accPlace_eq]
    exact hp x.1 x.2 hr hc
  · refine (flags_enterValue hj).trans ?_
    refine or_congr_right (and_congr_right fun _ => and_congr hfull ⟨?_, ?_⟩)
    · rintro ⟨⟨r, c⟩, hx, h⟩
      rw [hplace, hadded] at h
      exact ⟨r, c, ((hmem r c).mp hx).1, ((hmem r c).mp hx).2, h⟩
    · rintro ⟨r, c, hr, hc, h⟩
      refine ⟨(r, c), (hmem r c).mpr ⟨hr, hc⟩, ?_⟩
      rw [hplace, hadded]
      exact h
  · refine ht.trans ?_
    rw [show t.1.k = m.k + 1 from congrArg Matrix.k ht, show t.1.group = if full then [] else group from congrArg Matrix.group ht]

end Sys2Proof.Proofs
end

section
/-! PROOF. The layout of a word: it holds its opcode and its fields, each in bits of its own, and nothing else (R80, R81). -/

namespace Sys2Proof.Machine

variable {n k lo len i : Nat} {x : BitVec n} {y : BitVec k} {w : DWord} {opc : BitVec 8} {f : Fields}

/-! ## Bits taken out of two words side by side. `simp` finds no rule for `++` under a width that a number has replaced, so
these speak of `BitVec.append`. -/

theorem extract_append_high (h : k ≤ lo) : (x.append y).extractLsb' lo len = x.extractLsb' (lo - k) len :=
  BitVec.extractLsb'_append_eq_of_le h

theorem extract_append_low (h : lo + len ≤ k) : (x.append y).extractLsb' lo len = y.extractLsb' lo len :=
  BitVec.extractLsb'_append_eq_of_add_le h

theorem getLsbD_append_high (h : k ≤ i) : (x.append y).getLsbD i = x.getLsbD (i - k) :=
  BitVec.getLsbD_append.trans (if_neg (Nat.not_lt.mpr h))

theorem extract_append_extract (h : i = lo + len) : (x.extractLsb' i k).append (x.extractLsb' lo len) = x.extractLsb' lo (k + len) :=
  BitVec.extractLsb'_append_extractLsb'_eq_extractLsb' h

theorem getLsbD_append_bit1 {b : Bool} : (x.append (bit1 b)).getLsbD 0 = b :=
  BitVec.getLsbD_append.trans (by cases b <;> rfl)

theorem bit1_getLsbD : bit1 (x.getLsbD i) = x.extractLsb' i 1 := by
  ext j hj
  obtain rfl : j = 0 := by omega
  simp [bit1]

/-! ## A word and its parts -/

theorem assemble_eq_append : assemble opc f = (f.pmask |>.append f.pval |>.append f.cha |>.append f.ka |>.append f.chb |>.append f.kb
    |>.append opc |>.append f.dst |>.append f.sa |>.append f.sb |>.append (bit1 f.dqa) |>.append (bit1 f.dqb)
    |>.append f.psel |>.append f.pop |>.append f.imm) := rfl

@[simp] theorem opcodeOf_assemble : opcodeOf (assemble opc f) = opc := by
  simp [-BitVec.append_eq, opcodeOf, assemble_eq_append, extract_append_high, extract_append_low]

@[simp] theorem fieldsOf_assemble : fieldsOf (assemble opc f) = f := by
  simp [-BitVec.append_eq, -BitVec.getLsbD_eq_getElem, fieldsOf, assemble_eq_append, extract_append_high, extract_append_low,
    getLsbD_append_high, getLsbD_append_bit1]

/-- The fields of a word are its 64 bits, cut at the bounds of R80. -/
@[simp] theorem assemble_parts (w : DWord) : assemble (opcodeOf w) (fieldsOf w) = w := by
  simp only [assemble_eq_append, opcodeOf, fieldsOf, bit1_getLsbD, extract_append_extract, Nat.reduceAdd, BitVec.extractLsb'_eq_self]

/-- The bytes stored from byte `k` on make the bits of the word from bit `8 * k` on. -/
theorem wordOfBytes_from (w : DWord) : ∀ m k, k + m = 8 →
    wordOfBytes ((List.range' k m).map fun i => w.extractLsb' (8 * i) 8) = w >>> (8 * k)
  | 0, k, h => by
    obtain rfl : k = 8 := h
    exact (BitVec.ushiftRight_eq_zero (Nat.le_refl 64)).symm
  | m + 1, k, h => by
    have ih := wordOfBytes_from w m (k + 1) (by omega)
    rw [List.range'_succ, List.map_cons]
    change wordOfBytes (List.map _ _) <<< 8 ||| BitVec.setWidth 64 _ = _
    rw [ih]
    ext i hi
    by_cases hb : i < 8
    · simp [hb]
    · simp [hb]
      congr 1
      omega

/-- The eight stored bytes of a word make it again (R7, R81). -/
@[simp] theorem wordOfBytes_bytesOfWord (w : DWord) : wordOfBytes (bytesOfWord w) = w := by
  rw [bytesOfWord, List.range_eq_range', wordOfBytes_from w 8 0 rfl]
  exact BitVec.ushiftRight_zero _

end Sys2Proof.Machine
end

section
/-! PROOF. Decoding and encoding agree, and what no word may hold (O4, O5, O33; R44, R80, R82, R84, R89). -/

namespace Sys2Proof.Laws.RowOfOpcode

/-- The lemmas above, one per constructor, cover every instruction. -/
theorem every (i : Instr) : Statement i :=
  i.casesOn (motive := Statement) nop mov li lui add sub adds subs mul mulhI32 mulhN32 mac divI32 divN32 modI32 modN32 and or xor andn shl
    shr sar rol clz popc brev sext zext bfx bfi sel cmpEq cmpNe cmpLtI32 cmpLeI32 cmpLtN32 cmpLeN32 minI32 maxI32 minN32 maxN32 abs neg
    pset pget tst lea fadd fsub fmul fma fmin fmax fcmpEq fcmpLt fcmpLe fcmpUn fabs fneg frcp frsq fexp2 flog2 cvtF cvtIf cvtFi cvtNf cvtFn
    pack2 unpk scale ldW ldH ldHs ldB ldBs stW stH stB ldc ldP stP ldxW stxW lcas ladd emit stop fwd drop tagf sclo head idle vadd vsub
    vmul vfma vmin vmax vcmp vsel vand vor vxor vshl vshr vcvt vdot vscale vld vst vldx vstx vbcast vext vins vperm vredAdd vredMax vredMin
    vscan vpack vunpk vout vin mcfg mrun mdrain mclr mldk mstk mshape mpass mstat mfeed mscl mfin mfinAbort rncv rnct rnadd rnsub rnmul
    rnmac rnneg vrncv vrnct vrnmac vrndot gld gst gldA gstL pld pst pclr pprb fence aupd afet acas aapl gldv gldvP gstv gstvP xrearm strm
    strmq strmqCan cntb balc bfre barv barvW bwt bwtW btry btryW ecpy ecmp edcp ecol cjoin lease lrel mbar xst xstv xsig xld xwait xfen
    tspn tdec tdecRmt tqry lntl lntlLast gret did dpart gate cxld cxul cxq ispz unpz cx trap brk park wake syrd sywrFpstat sywrResumeRetry
    sywrResumeSkip sywrGreg sywrPortctlReplay sywrPortctlAbandon mark save rest halt longOperationComplete memoryResponse tokenSend
    tokenArrival creditReturn fanoutCopy branchSend quoinEmit gatePoisonDelivery scrubComplete kvalueEnter relayForward tileComplete
    drainTokenSend matrixMark queueDoorbell queueIdleUnmap spawn dec abort free regt unregt decrementApply stagingComplete deadlineExpiry
    agePromotion headBlock taskSelect tileLoadAck regionOpen quiescence reconfigTokenPass stallWatchdog streamEnd homeRequest walkComplete
    storeAck storeRefusal inboxEntry latchReply latchTimeout recoveryQuery streamStart streamEmit tagAck tagToken engineRun engineComplete
    leaseExpiry hostFetchadd hostBarrierWrite hostAccess trapRecordDelivery portReplay uncorrectableError markSend markArrival nodeAlign
    snapshotComplete wholeCoursePreempt psplit pmerge ppre kload kshare kfree inval ptear qreg qunreg fassign podgrant podrevoke podrt kctr
    kctrfree knonce kquote kseal kexport kopen atsCompletion pageRequestResponse flr tdiError powerIntervalEnd podRequestArrival
    remoteDecrement podLinkFailure coldReset dieAdmit clockSwitch warmRecalibration thermalThrottle thermalRecover thermalRemoval
    registerWrite psetCommand hbmodeWrite replyAcknowledgement powerCapExceeded dieFullService podLinkUp powerLoss correctableError
    atsInvalidationCompletion tdispRequest

end Sys2Proof.Laws.RowOfOpcode

namespace Sys2Proof.Machine

variable {i : Instr} {f : Fields} {opc : BitVec 8} {w : DWord}

/-! ## Rows of the opcode map -/

/-- The instruction has the opcode `n` and the fields `f`, and is the one that its word spells. -/
structure Makes (n : Nat) (f : Fields) (i : Instr) : Prop where
  opcode : i.opcode = some (BitVec.ofNat 8 n)
  fields : i.fields = some f
  spelled : i.spelled = i

theorem makes_ite {c : Prop} [Decidable c] {n : Nat} {a b : Instr} (ha : Makes n f a) (hb : Makes n f b) :
    Makes n f (if c then a else b) := by
  split <;> assumption

/-- Each row makes an instruction of its opcode, whichever of those that share the row the option bits choose. -/
theorem row_makes (f : Fields) : ∀ r ∈ opRows, Makes r.1 f (r.2 f) := by
  simp only [opRows, opRows0, opRows1, opRows2, opRows3, opRows4, opRows5, opRows6, opRows7, List.forall_mem_append, List.forall_mem_cons,
    List.not_mem_nil, IsEmpty.forall_iff, implies_true, and_true]
  and_intros
  all_goals repeat' apply makes_ite
  all_goals exact ⟨rfl, rfl, rfl⟩

/-- The opcodes of the map: all but the reserved ones and ILL (R89). -/
theorem opRows_keys : opRows.map Prod.fst = List.range' 0x00 0x57 ++ List.range' 0x58 0x34 ++ List.range' 0x90 0x0B ++ List.range' 0xA0 0x26
    ++ List.range' 0xC8 3 ++ List.range' 0xD0 10 ++ List.range' 0xE0 26 := by decide +kernel

theorem makes_of_instrOf (h : instrOf opc f = some i) : Makes opc.toNat f i := by
  obtain ⟨r, hr, rfl⟩ := Option.map_eq_some_iff.mp h
  exact row_makes f _ (Map.find_mem hr)

theorem Map.find_eq_none_iff {α : Type} {m : Map α} {k : Nat} : Map.find m k = none ↔ k ∉ m.map Prod.fst := by
  induction m with
  | nil => simp
  | cons x m ih =>
    rw [Map.find, List.map_cons, List.mem_cons, not_or, ← ih]
    split
    · simp [*]
    · simp [Ne.symm, *]

/-- The opcodes without a row: the reserved ones and ILL (R89). -/
theorem instrOf_eq_none_iff : instrOf opc f = none ↔ let o := opc.toNat
    o = 0x57 ∨ (0x8C ≤ o ∧ o ≤ 0x8F) ∨ (0x9B ≤ o ∧ o ≤ 0x9F) ∨ o = 0xC6 ∨ o = 0xC7 ∨ (0xCB ≤ o ∧ o ≤ 0xCF) ∨ (0xDA ≤ o ∧ o ≤ 0xDF)
      ∨ 0xFA ≤ o := by
  have hlt := opc.isLt
  rw [instrOf, Option.map_eq_none_iff, Map.find_eq_none_iff, opRows_keys]
  simp only [List.mem_append, List.mem_range'_1]
  omega

/-! ## The decoder and the encoder -/

theorem decode_eq_ok_iff : decode w = .ok i ↔ opcodeOf w ≠ 0xFF ∧ instrOf (opcodeOf w) (fieldsOf w) = some i ∧ i.wf = true := by
  unfold decode
  split
  · next hill => simp [hill]
  · next hill =>
    split
    · next hnone => simp [hnone]
    · next j hrow =>
      rw [hrow, Option.some_inj]
      constructor
      · intro h
        split at h
        · next hw =>
          cases h
          exact ⟨hill, rfl, hw⟩
        · cases h
      · rintro ⟨-, rfl, hw⟩
        exact if_pos hw

theorem decode_of_ill (h : opcodeOf w = 0xFF) : decode w = .error .ill := if_pos h

theorem decode_eq_reserved_iff : decode w = .error .reservedOpcode ↔ opcodeOf w ≠ 0xFF ∧ instrOf (opcodeOf w) (fieldsOf w) = none := by
  unfold decode
  split
  · next hill => simp [hill]
  · next hill =>
    rw [and_iff_right hill]
    split
    · next hnone => simp [hnone]
    · next hrow => split <;> simp [hrow]

theorem encode_eq (ho : i.opcode = some opc) (hf : i.fields = some f) : encode i = assemble opc f := by
  rw [encode, ho, hf]

theorem opcode_isSome (i : Instr) : i.opcode.isSome = i.fields.isSome := by
  cases i <;> rfl

/-- The pairs that share a word break the same checks. -/
theorem wf_spelled : i.spelled.wf = i.wf := by
  cases i <;> rfl

theorem exists_opcode (hf : i.fields = some f) : ∃ opc, i.opcode = some opc :=
  Option.isSome_iff_exists.mp (by rw [opcode_isSome, hf, Option.isSome_some])

theorem decode_encode (hf : i.fields = some f) (hw : i.wf = true) : decode (encode i) = .ok i.spelled := by
  obtain ⟨opc, ho⟩ := exists_opcode hf
  have hrow := Laws.RowOfOpcode.every i opc f ho hf hw
  have hill : opc ≠ 0xFF := by
    rintro rfl
    rw [instrOf_eq_none_iff.mpr (by decide)] at hrow
    cases hrow
  rw [encode_eq ho hf, decode_eq_ok_iff, opcodeOf_assemble, fieldsOf_assemble, wf_spelled]
  exact ⟨hill, hrow, hw⟩

theorem makes_of_decode (h : decode w = .ok i) : Makes (opcodeOf w).toNat (fieldsOf w) i :=
  makes_of_instrOf (decode_eq_ok_iff.mp h).2.1

theorem encode_of_decode (h : decode w = .ok i) : encode i = w := by
  have hm := makes_of_decode h
  rw [encode_eq hm.opcode hm.fields, BitVec.ofNat_toNat, BitVec.setWidth_eq, assemble_parts]

/-! ## The checks of a word -/

theorem wf_iff (hf : i.fields = some f) : i.wf = true ↔ f.predOk = true ∧ f.chansOk = true ∧ dstOk i.shape.dst f.cha f.dst = true ∧
    srcOk i.shape.sa false f.cha f.sa = true ∧ srcOk i.shape.sb (decide (i.shape.imm = .immediate)) f.cha f.sb = true ∧
    immOk i f = true ∧ mboxOk i.shape f = true ∧ guardOk i = true := by
  simp only [Instr.wf, hf, Bool.and_eq_true, and_assoc]

theorem pval_of_predOk (h : f.predOk = true) : f.pval &&& ~~~f.pmask = 0 := by
  simp only [Fields.predOk, Bool.and_eq_true, decide_eq_true_eq] at h
  exact h.1

theorem chanOk_iff {c k : BitVec 3} : chanOk c k = true ↔ ¬(4 ≤ c.toNat ∧ c ≠ 7) ∧ ¬(c = 7 ∧ k ≠ 7) := by
  decide +revert

theorem chansOk_iff : f.chansOk = true ↔ chanOk f.cha f.ka = true ∧ chanOk f.chb f.kb = true ∧ ¬(f.dqa = true ∧ f.cha = 7) ∧
    ¬(f.dqb = true ∧ f.chb = 7) ∧ ¬(f.cha = f.chb ∧ f.dqa = true ∧ f.dqb = true) ∧
    ¬(f.cha = f.chb ∧ f.cha ≠ 7 ∧ f.ka ≠ f.kb ∧ f.ka ≠ 7 ∧ f.kb ≠ 7) := by
  simp only [Fields.chansOk, Bool.and_eq_true, Bool.not_eq_true', Bool.eq_false_iff, ne_eq, decide_eq_true_eq, and_assoc]

theorem scalar_of_srcOk {imm : Bool} {cha : BitVec 3} {x : BitVec 5} (h : srcOk .scalar imm cha x = true) :
    ¬(20 ≤ x.toNat ∧ x.toNat ≤ 23) ∧ (x = 29 → cha ≠ 7) ∧ (imm = false → x ≠ 31) := by
  simp only [srcOk, Bool.or_eq_true, Bool.and_eq_true, decide_eq_true_eq] at h
  refine ⟨by omega, ?_, ?_⟩
  · rintro rfl
    simpa using h
  · rintro rfl rfl
    simp at h

theorem written_of_dstOk {cha : BitVec 3} {x : BitVec 5} (h : dstOk .written cha x = true) :
    ¬(16 ≤ x.toNat ∧ x.toNat ≤ 19) ∧ x.toNat ≤ 28 := by
  simp only [dstOk, Bool.or_eq_true, decide_eq_true_eq] at h
  omega

theorem opcodeOf_toNat : (opcodeOf w).toNat = w.toNat / 2 ^ 28 % 256 := by
  rw [opcodeOf, BitVec.extractLsb'_toNat, Nat.shiftRight_eq_div_pow]

theorem decode_ne_ok (h : (fieldsOf w).predOk = true → (fieldsOf w).chansOk = true → False) (i : Instr) : decode w ≠ .ok i := by
  intro hd
  obtain ⟨hp, hc, -⟩ := (wf_iff (makes_of_decode hd).fields).mp (decode_eq_ok_iff.mp hd).2.2
  exact h hp hc

end Sys2Proof.Machine

namespace Sys2Proof.Proofs
open Sys2Proof.Machine Sys2Proof.Claims

/-- Settles O4: the parts of a word are read back as they were put in, and the opcode's row makes the instruction of them. -/
theorem decodeInvertsEncode : Obligations.DecodeInvertsEncode := by
  unfold Obligations.DecodeInvertsEncode
  intro i f hf hw
  rw [decodeBytes, wordOfBytes_bytesOfWord]
  exact ⟨decode_encode hf hw, decode_encode hf hw⟩

/-- Settles O5: each word is evaluated. -/
theorem decodedWords : Obligations.DecodedWords := by
  unfold Obligations.DecodedWords
  and_intros <;> decide

theorem encodeInvertsDecode : EncodeInvertsDecode := by
  intro w i h
  have hm := makes_of_decode h
  obtain ⟨-, -, hw⟩ := decode_eq_ok_iff.mp h
  exact ⟨encode_of_decode h, hw, hm.spelled, _, hm.fields, rfl⟩

theorem illegalWordsRefused : IllegalWordsRefused := by
  intro w o f
  have ho : (opcodeOf w).toNat = o := opcodeOf_toNat
  have hill : opcodeOf w = 0xFF ↔ o = 0xFF := by rw [← BitVec.toNat_inj, ho]; rfl
  refine ⟨fun h => decode_of_ill (hill.mpr h), ?_, fun h => decode_ne_ok fun hp _ => h (pval_of_predOk hp),
    fun h => decode_ne_ok fun _ hc => ?_, fun i hd => ?_⟩
  · have hlt : o < 256 := Nat.mod_lt _ (by decide)
    rw [decode_eq_reserved_iff, instrOf_eq_none_iff, ho, ne_eq, hill]
    dsimp only
    omega
  · obtain ⟨ha, hb, hda, hdb, hpop, hkind⟩ := chansOk_iff.mp hc
    obtain ⟨hca, hka⟩ := chanOk_iff.mp ha
    obtain ⟨hcb, hkb⟩ := chanOk_iff.mp hb
    rcases h with h | h | h | h | h | h | h | h
    exacts [hca h, hcb h, hka h, hkb h, hda h, hdb h, hpop h, hkind h]
  · obtain ⟨-, -, hdst, hsa, hsb, -⟩ := (wf_iff (makes_of_decode hd).fields).mp (decode_eq_ok_iff.mp hd).2.2
    refine ⟨fun h => ?_, fun h => ?_, fun h => written_of_dstOk (h ▸ hdst)⟩
    · obtain ⟨hco, hhead, himm⟩ := scalar_of_srcOk (h ▸ hsa)
      exact ⟨hco, himm rfl, hhead⟩
    · obtain ⟨hco, hhead, -⟩ := scalar_of_srcOk (h ▸ hsb)
      exact ⟨hco, hhead⟩

/-- Settles O33: each row of the opcode map makes an instruction of its own opcode and the fields given, and the checks of a
decoded instruction are those of its word's fields. -/
theorem canonicalWords : Obligations.CanonicalWords := ⟨encodeInvertsDecode, illegalWordsRefused⟩

end Sys2Proof.Proofs
end

section
/-! SUPPORT. Clean operands, their words, and the scalar operations that deliver an integer (R25, R37, R41). -/

namespace Sys2Proof.Machine
open Sys2Proof.Claims

variable {s : State} {i : Instr} {f : Fields} {o : Opnds} {v : PWord}

/-! ## Clean and poisoned operands -/

theorem firstPoison_eq_none_iff {vs : List PWord} : firstPoison vs = none ↔ ∀ v ∈ vs, v.psn = false := by
  rw [firstPoison_eq, Option.map_eq_none_iff, List.find?_eq_none]
  simp only [Bool.not_eq_true]

/-- Clean operands are each clean (R25). -/
theorem psn_eq_none_iff : o.psn = none ↔ o.a.psn = false ∧ o.b.psn = false ∧ o.d.psn = false := by
  rw [Opnds.psn, firstPoison_eq_none_iff]
  simp only [List.forall_mem_cons, List.not_mem_nil, false_implies, implies_true, and_true]

theorem addrPsn_eq_none_iff : o.addrPsn = none ↔ o.a.psn = false ∧ o.b.psn = false := by
  rw [Opnds.addrPsn, firstPoison_eq_none_iff]
  simp only [List.forall_mem_cons, List.not_mem_nil, false_implies, implies_true, and_true]

/-- An origin record with its mark is the poisoned value (R110). -/
theorem poisonResult_val {w : PWord} (h : w.psn = true) : poisonResult w.val = { dst := some w, cond := false } := by
  rw [poisonResult, ← h]

@[simp] theorem issueClaim_cblk (e : ElemRef) : ((issueClaim s i f).el e).cblk = (s.el e).cblk := by
  obtain ⟨_, _, _, h⟩ := issueClaim_el_eq (s := s) (i := i) (f := f) e
  rw [h]

/-- The domain that a transition reads is its node's. -/
theorem issueOps_dom : domOf (issueOps s i f).nd = domOf (s.nd s.cur.node) := by
  rw [issueOps_nd]
  rfl

theorem clean_val (hv : v.psn = false) : PWord.clean v.val = v := by
  rw [PWord.clean, ← hv]

/-- The predicates that a transition reads are those before its own update (R115, R116). -/
theorem issueOps_p : (issueOps s i f).nd.p = (s.nd s.cur.node).p := by
  rw [issueOps_nd]
  rfl

/-! ## Fields and results -/

/-- A field is the number that stands in its bits. -/
theorem bitsNat_eq_div_mod {w : Nat} (x : BitVec w) (lo n : Nat) : bitsNat x lo n = x.toNat / 2 ^ lo % 2 ^ n := by
  rw [bitsNat, Nat.shiftRight_eq_div_pow]

/-- A scalar operation of a parking class gives the function of its operands that it computes. -/
theorem givesAfter_of_longOp {fmt : BitVec 3} {lat : Nat} {fn g : Opnds → Word × Bool × BitVec 6}
    (hx : exec i s = longOp i f fmt lat s fn) (hg : fn (issueOps s i f) = g (issueOps s i f)) : GivesAfter s f i fmt lat g :=
  fun hc => (hx.trans (longOp_clean hc.1 hc.2)).trans (by rw [hg])

/-- A scalar operation that delivers an integer word. -/
theorem gives_int {fn g : Opnds → Word} (hx : exec i s = scalarOp i f 0 s (fun o => byValue (fn o)))
    (hg : fn (issueOps s i f) = g (issueOps s i f)) : Gives s f i 0 (fun o => int (g o)) :=
  gives_of_scalarOp hx (congrArg byValue hg)

end Sys2Proof.Machine
end

section
/-! SUPPORT. The integer operations of a word in the words of the statements (R112-R114). -/

namespace Sys2Proof.Machine
open Sys2Proof.Claims

variable {a b d : Word} {n : Nat}

/-! ## Sums and products -/

theorem satI32_eq_clamp (x : Int) : satI32 x = clamp x := by
  unfold satI32 clamp
  by_cases hlo : x < -2147483648
  · rw [if_pos hlo, show max (-2147483648) (min 2147483647 x) = -2147483648 by omega]
    rfl
  by_cases hhi : 2147483647 < x
  · rw [if_neg hlo, if_pos hhi, show max (-2147483648) (min 2147483647 x) = 2147483647 by omega]
    rfl
  · rw [if_neg hlo, if_neg hhi, show max (-2147483648) (min 2147483647 x) = x by omega]

theorem imm16_append_low (f : Fields) (d : Word) :
    (imm16 f ++ bits d 0 16 : BitVec 32) = BitVec.ofNat 32 ((imm16 f).toNat * 65536 + d.toNat % 65536) := by
  have hlow : (bits d 0 16).toNat = d.toNat % 65536 := by simp [bits]
  have hlt : d.toNat % 65536 < 2 ^ 16 := Nat.mod_lt _ (by decide)
  apply BitVec.eq_of_toNat_eq
  rw [BitVec.toNat_append, hlow, Nat.shiftLeft_eq, Nat.mul_comm, ← Nat.two_pow_add_eq_or_of_lt hlt, BitVec.toNat_ofNat]
  have := (imm16 f).isLt
  omega

theorem sub_eq_ofInt (a b : Word) : a - b = BitVec.ofInt 32 (a.toNat - b.toNat) := by
  apply BitVec.eq_of_toNat_eq
  rw [BitVec.toNat_sub, BitVec.toNat_ofInt]
  omega

/-- The high half of a product of words that both widen as their numbers (R112). -/
theorem highHalf_signed (a b : Word) :
    BitVec.ofInt 32 (a.toInt * b.toInt / 2 ^ 32) = (a.signExtend 64 * b.signExtend 64).extractLsb' 32 32 := by
  rw [BitVec.signExtend, BitVec.signExtend, ← BitVec.ofInt_mul]
  apply BitVec.eq_of_toNat_eq
  rw [BitVec.extractLsb'_toNat, Nat.shiftRight_eq_div_pow, BitVec.toNat_ofInt, BitVec.toNat_ofInt]
  generalize a.toInt * b.toInt = p
  omega

theorem highHalf_unsigned (a b : Word) :
    BitVec.ofNat 32 (a.toNat * b.toNat / 2 ^ 32) = (a.setWidth 64 * b.setWidth 64).extractLsb' 32 32 := by
  have hlt : a.toNat * b.toNat < 2 ^ 64 := by simpa using Nat.mul_lt_mul'' a.isLt b.isLt
  apply BitVec.eq_of_toNat_eq
  rw [BitVec.extractLsb'_toNat, BitVec.toNat_mul, BitVec.toNat_setWidth_of_le (by decide), BitVec.toNat_setWidth_of_le (by decide),
    Nat.mod_eq_of_lt hlt, Nat.shiftRight_eq_div_pow, BitVec.toNat_ofNat]

theorem mul_eq_ofNat (a b : Word) : a * b = BitVec.ofNat 32 (a.toNat * b.toNat) := by
  apply BitVec.eq_of_toNat_eq
  rw [BitVec.toNat_mul, BitVec.toNat_ofNat]

theorem mac_eq_ofNat (d a b : Word) : d + a * b = BitVec.ofNat 32 (d.toNat + a.toNat * b.toNat) := by
  rw [BitVec.ofNat_add, ← mul_eq_ofNat, BitVec.ofNat_toNat, BitVec.setWidth_eq]

/-! ## Division (R113) -/

theorem divI_eq_sdiv (a b : Word) : divI a b = if b = 0 then 0xFFFFFFFF else a.sdiv b := by
  rw [divI]
  congr 1
  apply BitVec.eq_of_toInt_eq
  rw [BitVec.toInt_sdiv, BitVec.toInt_ofInt]

theorem divN_eq_udiv (a b : Word) : divN a b = if b = 0 then 0xFFFFFFFF else a / b := by
  rw [divN]
  congr 1
  apply BitVec.eq_of_toNat_eq
  rw [BitVec.toNat_udiv, BitVec.toNat_ofNat, Nat.mod_eq_of_lt (Nat.lt_of_le_of_lt (Nat.div_le_self _ _) a.isLt)]

theorem modI_eq_srem (a b : Word) : modI a b = if b = 0 then a else a.srem b := by
  rw [modI, ← BitVec.toInt_srem, BitVec.ofInt_toInt]

theorem modN_eq_umod (a b : Word) : modN a b = if b = 0 then a else a % b := by
  rw [modN, ← BitVec.toNat_umod, BitVec.ofNat_toNat, BitVec.setWidth_eq]

/-! ## Shifts (R114) -/

theorem shlW_eq_mul (a : Word) (n : Nat) : shlW a n = BitVec.ofNat 32 (a.toNat * 2 ^ n) := by
  have hshift : a <<< n = BitVec.ofNat 32 (a.toNat * 2 ^ n) := by
    apply BitVec.eq_of_toNat_eq
    rw [BitVec.toNat_shiftLeft, Nat.shiftLeft_eq, BitVec.toNat_ofNat]
  rw [← hshift, shlW]
  split
  · rfl
  · next h => exact (BitVec.shiftLeft_eq_zero (Nat.le_of_not_lt h)).symm

theorem shrW_eq_div (a : Word) (n : Nat) : shrW a n = BitVec.ofNat 32 (a.toNat / 2 ^ n) := by
  rw [← Nat.shiftRight_eq_div_pow, ← BitVec.toNat_ushiftRight, BitVec.ofNat_toNat, BitVec.setWidth_eq, shrW]
  split
  · rfl
  · next h => exact (BitVec.ushiftRight_eq_zero (Nat.le_of_not_lt h)).symm

/-- A word's number is all sign past its 31 low bits. -/
theorem toInt_div_two_pow_of_le (a : Word) (h : 31 ≤ n) : a.toInt / 2 ^ n = a.toInt / 2 ^ 31 := by
  have hpow : (2 : Int) ^ 31 ≤ 2 ^ n := pow_le_pow_right₀ (by decide) h
  have hlo := a.le_toInt
  have hhi := a.toInt_lt
  by_cases hneg : a.toInt < 0
  · rw [Int.ediv_eq_neg_one_of_neg_of_le hneg (by omega), Int.ediv_eq_neg_one_of_neg_of_le hneg (by omega)]
  · rw [Int.ediv_eq_zero_of_lt (by omega) (by omega), Int.ediv_eq_zero_of_lt (by omega) (by omega)]

theorem sarW_eq_div (a : Word) (n : Nat) : sarW a n = BitVec.ofInt 32 (a.toInt / 2 ^ n) := by
  have hsmall : ∀ k : Nat, a.sshiftRight k = BitVec.ofInt 32 (a.toInt / 2 ^ k) := fun k => by
    rw [← BitVec.ofInt_toInt (x := a.sshiftRight k), BitVec.toInt_sshiftRight, Int.shiftRight_eq_div_pow, Nat.cast_pow]
    rfl
  rw [sarW, hsmall]
  by_cases hn : n ≤ 31
  · rw [Nat.min_eq_left hn]
  · rw [Nat.min_eq_right (by omega), toInt_div_two_pow_of_le _ (Nat.le_of_not_le hn)]

theorem rolW_eq_rotateLeft (a : Word) (h : n < 32) : rolW a n = a.rotateLeft n := by
  rw [BitVec.rotateLeft_eq_rotateLeftAux_of_lt h, BitVec.rotateLeftAux, rolW]
  split
  · next h0 => simp [h0, BitVec.ushiftRight_eq_zero]
  · rfl

end Sys2Proof.Machine
end

section
/-! SUPPORT. Bit fields, counts and comparisons of words in the words of the statements (R115, R116). -/

namespace Sys2Proof.Machine
open Sys2Proof.Claims

variable {a b d r : Word} {n k : Nat}

/-! ## Counts -/

theorem clzW_eq_clz (a : Word) : clzW a = a.clz := by
  rw [clzW]
  split
  · next h => exact (BitVec.clz_eq_iff_eq_zero.mpr h).symm
  · next h =>
    have hlt : a.clz.toNat < 32 := BitVec.lt_def.mp (BitVec.clz_lt_iff_ne_zero.mpr h)
    have hlog : Nat.log2 a.toNat = 31 - a.clz.toNat := by
      rw [Nat.log2_eq_iff (by simpa [← BitVec.toNat_inj] using h), show 31 - a.clz.toNat + 1 = 32 - a.clz.toNat by omega]
      exact ⟨BitVec.two_pow_sub_clz_le_toNat_of_ne_zero (by decide) h, BitVec.toNat_lt_two_pow_sub_clz⟩
    rw [hlog, show 31 - (31 - a.clz.toNat) = a.clz.toNat by omega, BitVec.ofNat_toNat, BitVec.setWidth_eq]

theorem cpopNatRec_eq_countP (a : Word) (n : Nat) : a.cpopNatRec n 0 = (List.range n).countP (fun i => a.getLsbD i) := by
  induction n with
  | zero => rfl
  | succ n ih =>
    rw [BitVec.cpopNatRec_succ, BitVec.cpopNatRec_eq, ih, List.range_succ, List.countP_append]
    cases h : a.getLsbD n <;> simp [h]

theorem popcW_eq_cpop (a : Word) : popcW a = a.cpop := by
  rw [popcW, ← cpopNatRec_eq_countP, BitVec.cpop]

/-- A bit of a word collected bit by bit. -/
theorem getLsbD_foldl_bits (p : Nat → Bool) (g : Nat → Nat) (l : List Nat) (w : Word) (hk : k < 32) :
    (l.foldl (fun (acc : Word) i => if p i then acc ||| (1 <<< g i) else acc) w).getLsbD k =
      (w.getLsbD k || l.any (fun i => p i && decide (k = g i))) := by
  induction l generalizing w with
  | nil => simp
  | cons i l ih =>
    rw [List.foldl_cons, ih, List.any_cons]
    cases p i with
    | false => simp
    | true => rw [if_pos rfl, BitVec.getLsbD_or, getLsbD_bit _ hk, Bool.true_and, Bool.or_assoc]

theorem brevW_eq_reverse (a : Word) : brevW a = a.reverse := by
  apply BitVec.eq_of_getLsbD_eq
  intro k hk
  have hbits := getLsbD_foldl_bits (fun i => a.getLsbD i) (fun i => 31 - i) (List.range 32) 0 hk
  rw [brevW, hbits, BitVec.getLsbD_reverse, BitVec.getMsbD_eq_getLsbD, Bool.eq_iff_iff]
  simp only [BitVec.ofNat_eq_ofNat, BitVec.getLsbD_zero, Bool.false_or, List.any_eq_true, List.mem_range, Bool.and_eq_true, decide_eq_true_eq]
  constructor
  · rintro ⟨j, hj, ha, rfl⟩
    exact ⟨hk, by rwa [show 32 - 1 - (31 - j) = j by omega]⟩
  · rintro ⟨-, ha⟩
    exact ⟨31 - k, by omega, ha, by omega⟩

/-! ## Extension and fields -/

theorem sextW_eq_signExtend (a : Word) (h : n < 32) : sextW a n = (a.setWidth (n + 1)).signExtend 32 := by
  apply BitVec.eq_of_getLsbD_eq
  intro k hk
  rw [sextW, BitVec.getLsbD_sshiftRight, BitVec.getLsbD_signExtend, BitVec.getLsbD_setWidth, BitVec.getLsbD_shiftLeft,
    BitVec.msb_shiftLeft, BitVec.msb_setWidth, BitVec.getMsbD_eq_getLsbD]
  by_cases hn : k < n + 1
  · have e : 31 - n + k - (31 - n) = k := by omega
    simp [hk, hn, e, show 31 - n + k < 32 by omega]
  · have e : 32 - 1 - (31 - n) = n := by omega
    simp [hk, hn, e, show ¬31 - n + k < 32 by omega, show 31 - n < 32 by omega]

theorem zextW_eq_setWidth (a : Word) (h : n < 32) : zextW a n = (a.setWidth (n + 1)).setWidth 32 := by
  apply BitVec.eq_of_getLsbD_eq
  intro k hk
  simp only [zextW, BitVec.getLsbD_ushiftRight, BitVec.getLsbD_shiftLeft, BitVec.getLsbD_setWidth, hk, decide_true, Bool.true_and]
  by_cases hn : k < n + 1
  · simp [hn, show 31 - n + k < 32 by omega]
  · simp [hn, show ¬ 31 - n + k < 32 by omega]

theorem bfxW_eq_ofNat (a b : Word) : bfxW a b = BitVec.ofNat 32 (a.toNat / 2 ^ bitsNat b 0 5 % 2 ^ fieldLen b) := by
  apply BitVec.eq_of_getLsbD_eq
  intro k hk
  rw [bfxW, maskW, BitVec.getLsbD_and, BitVec.getLsbD_ushiftRight, BitVec.getLsbD_ofNat, BitVec.getLsbD_ofNat,
    Nat.testBit_two_pow_sub_one, Nat.testBit_mod_two_pow, Nat.testBit_div_two_pow, ← BitVec.getLsbD, Nat.add_comm k]
  simp [hk, Bool.and_comm]

theorem getLsbD_bfiW (d a b : Word) (hk : k < 32) : (bfiW d a b).getLsbD k =
    if bitsNat b 0 5 ≤ k ∧ k < bitsNat b 0 5 + fieldLen b then a.getLsbD (k - bitsNat b 0 5) else d.getLsbD k := by
  simp only [bfiW, maskW, BitVec.getLsbD_or, BitVec.getLsbD_and, BitVec.getLsbD_not, BitVec.getLsbD_shiftLeft, BitVec.getLsbD_ofNat,
    Nat.testBit_two_pow_sub_one]
  by_cases hlo : bitsNat b 0 5 ≤ k
  · have hhi : k - bitsNat b 0 5 < fieldLen b ↔ k < bitsNat b 0 5 + fieldLen b := by omega
    by_cases h : k < bitsNat b 0 5 + fieldLen b
    · simp [hk, hlo, hhi, h, Nat.not_lt.mpr hlo, show k - bitsNat b 0 5 < 32 by omega]
    · simp [hk, hlo, hhi, h]
  · simp [hk, hlo, Nat.lt_of_not_le hlo]

theorem fieldPlace_eq (b : Word) : bitsNat b 0 5 = b.toNat % 32 := rfl

theorem fieldLen_eq (b : Word) : fieldLen b = if b.toNat / 256 % 32 = 0 then 32 else b.toNat / 256 % 32 := by
  simp [fieldLen, bitsNat, Nat.shiftRight_eq_div_pow]

/-! ## Comparisons and extrema -/

/-- A truth value is its own condition. -/
theorem byValue_boolWord (c : Bool) : byValue (boolWord c) = ((if c then 1 else 0 : Word), c, 0) := by
  cases c <;> rfl

theorem lesser_signed (a b : Word) : (if a.toInt ≤ b.toInt then a else b) = if b.slt a then b else a := by
  simp only [BitVec.slt_iff_toInt_lt, ← Int.not_le, ite_not]

theorem greater_signed (a b : Word) : (if a.toInt ≤ b.toInt then b else a) = if a.slt b then b else a := by
  by_cases h : a.toInt < b.toInt
  · rw [if_pos h.le, if_pos (BitVec.slt_iff_toInt_lt.mpr h)]
  · rw [if_neg (mt BitVec.slt_iff_toInt_lt.mp h)]
    exact ite_eq_right_iff.mpr fun hle => (BitVec.eq_of_toInt_eq (hle.antisymm (not_lt.mp h))).symm

theorem lesser_unsigned (a b : Word) : (if a.toNat ≤ b.toNat then a else b) = if b.ult a then b else a := by
  simp only [BitVec.ult_iff_lt, BitVec.lt_def, ← Nat.not_le, ite_not]

theorem greater_unsigned (a b : Word) : (if a.toNat ≤ b.toNat then b else a) = if a.ult b then b else a := by
  by_cases h : a.toNat < b.toNat
  · rw [if_pos h.le, if_pos (BitVec.ult_iff_lt.mpr h)]
  · rw [if_neg (mt BitVec.ult_iff_lt.mp h)]
    exact ite_eq_right_iff.mpr fun hle => (BitVec.eq_of_toNat_eq (hle.antisymm (not_lt.mp h))).symm

theorem magnitude_signed (a : Word) : (if a.toInt < 0 then 0 - a else a) = if a.msb then -a else a := by
  simp [BitVec.msb_eq_toInt]

theorem add_shiftLeft_eq_ofNat (a b : Word) (n : Nat) : a + (b <<< n) = BitVec.ofNat 32 (a.toNat + b.toNat * 2 ^ n) := by
  apply BitVec.eq_of_toNat_eq
  simp [Nat.shiftLeft_eq]

end Sys2Proof.Machine
end

section
/-! PROOF. The integer instructions (O25, O26; R112-R116). -/

namespace Sys2Proof.Proofs
open Sys2Proof.Machine Sys2Proof.Claims

/-- The rows of R112. -/
theorem integerMovesAndSums : IntegerMovesAndSums := by
  intro s f
  refine ⟨fun hp => issue_now hp rfl, ?_, ?_, ?_, ?_, ?_, ?_, ?_, ?_, ?_, ?_, ?_⟩
  · exact gives_int rfl rfl
  · exact gives_int rfl rfl
  · exact gives_int rfl (imm16_append_low _ _)
  · exact gives_int rfl (BitVec.add_def ..)
  · exact gives_int rfl (sub_eq_ofInt _ _)
  · exact gives_int rfl (satI32_eq_clamp _)
  · exact gives_int rfl (satI32_eq_clamp _)
  · exact gives_int rfl (mul_eq_ofNat _ _)
  · exact gives_int rfl (highHalf_signed _ _)
  · exact gives_int rfl (highHalf_unsigned _ _)
  · exact gives_int rfl (mac_eq_ofNat _ _ _)

/-- The rows of R113. -/
theorem division : Division := fun _ _ =>
  ⟨givesAfter_of_longOp rfl (congrArg byValue (divI_eq_sdiv _ _)), givesAfter_of_longOp rfl (congrArg byValue (divN_eq_udiv _ _)),
   givesAfter_of_longOp rfl (congrArg byValue (modI_eq_srem _ _)), givesAfter_of_longOp rfl (congrArg byValue (modN_eq_umod _ _))⟩

/-- The rows of R114. -/
theorem logicAndShifts : LogicAndShifts := by
  intro s f
  refine ⟨gives_int rfl rfl, gives_int rfl rfl, gives_int rfl rfl, gives_int rfl rfl, ?_, ?_, ?_, ?_⟩
  · exact gives_int rfl (shlW_eq_mul _ _)
  · exact gives_int rfl (shrW_eq_div _ _)
  · exact gives_int rfl (sarW_eq_div _ _)
  · exact gives_int rfl (rolW_eq_rotateLeft _ (Nat.mod_lt _ (by decide)))

/-- Settles O25: each instruction computes the number of the statement. -/
theorem integerArithmetic : Obligations.IntegerArithmetic := ⟨integerMovesAndSums, division, logicAndShifts⟩

/-- The rows of R115. -/
theorem bitFields : BitFields := by
  intro s f pos len
  refine ⟨?_, ?_, ?_, ?_, ?_, ?_, fun r hr => ?_, ?_⟩
  · exact gives_int rfl (clzW_eq_clz _)
  · exact gives_int rfl (popcW_eq_cpop _)
  · exact gives_int rfl (brevW_eq_reverse _)
  · exact gives_int rfl (sextW_eq_signExtend _ (Nat.mod_lt _ (by decide)))
  · exact gives_int rfl (zextW_eq_setWidth _ (Nat.mod_lt _ (by decide)))
  · refine gives_int rfl ?_
    rw [bfxW_eq_ofNat, fieldLen_eq, fieldPlace_eq]
  · refine gives_int rfl (BitVec.eq_of_getLsbD_eq fun k hk => ?_)
    rw [hr k hk, getLsbD_bfiW _ _ _ hk, fieldLen_eq, fieldPlace_eq]
  · exact gives_int rfl (by rw [issueOps_p]; rfl)

/-- The rows of R116. -/
theorem comparesAndPredicates : ComparesAndPredicates := by
  intro s f bool
  have compare : ∀ {i : Instr} {p : Opnds → Bool}, exec i s = scalarOp i f 0 s (fun o => byValue (boolWord (p o))) →
      Gives s f i 0 (fun o => bool (p o)) := fun hx => gives_of_scalarOp hx (byValue_boolWord _)
  refine ⟨compare rfl, compare rfl, compare rfl, compare rfl, compare rfl, compare rfl, ?_, ?_, ?_, ?_, ?_, ?_, fun hc => ?_, ?_, ?_, ?_⟩
  · exact gives_int rfl (lesser_signed _ _)
  · exact gives_int rfl (greater_signed _ _)
  · exact gives_int rfl (lesser_unsigned _ _)
  · exact gives_int rfl (greater_unsigned _ _)
  · exact gives_int rfl (magnitude_signed _)
  · exact gives_int rfl (BitVec.zero_sub _)
  · exact issue_now hc.1 (by rw [hc.2]; rfl)
  · exact gives_int rfl (congrArg (BitVec.setWidth 32) issueOps_p)
  · exact gives_of_scalarOp rfl rfl
  · exact gives_int rfl (add_shiftLeft_eq_ofNat _ _ _)

/-- Settles O26: each instruction computes the number or the truth value of the statement. -/
theorem bitFieldsAndComparisons : Obligations.BitFieldsAndComparisons := ⟨bitFields, comparesAndPredicates⟩

end Sys2Proof.Proofs
end

section
/-! SUPPORT. A code is a sign and a magnitude, and numbers are ordered as their codes (R52, R53, R58). -/

namespace Sys2Proof.Machine
open Sys2Proof.Claims

variable {F : FpFmt} {fz neg : Bool} {a b c m n : Nat}

/-! ## A code as a sign and a magnitude -/

theorem magOf_lt : magOf F c < 2 ^ (F.ew + F.mw) := Nat.mod_lt _ (Nat.two_pow_pos _)

theorem expOf_eq_magOf_div : F.expOf c = magOf F c / 2 ^ F.mw := by
  rw [magOf_eq, Nat.mul_comm, Nat.mul_add_div (Nat.two_pow_pos _), Nat.div_eq_of_lt fracOf_lt, Nat.add_zero]

theorem fracOf_eq_magOf_mod : F.fracOf c = magOf F c % 2 ^ F.mw := by
  rw [magOf_eq, Nat.mul_comm, Nat.mul_add_mod, Nat.mod_eq_of_lt fracOf_lt]

theorem magOf_sign_add (hm : m < 2 ^ (F.ew + F.mw)) : magOf F (F.sign neg + m) = m := by
  cases neg <;> simp [magOf, FpFmt.sign, Nat.mod_eq_of_lt hm]

theorem negOf_sign_add (hm : m < 2 ^ (F.ew + F.mw)) : F.negOf (F.sign neg + m) = neg := by
  cases neg <;>
    simp [FpFmt.negOf, FpFmt.sign, Nat.div_eq_of_lt hm, Nat.add_div_left _ (Nat.two_pow_pos _)]

theorem sign_add_lt (hm : m < 2 ^ (F.ew + F.mw)) : F.sign neg + m < 2 ^ (F.ew + F.mw + 1) := by
  rw [Nat.pow_succ, FpFmt.sign]
  split <;> omega

/-- What a code stands for, by its sign and its magnitude. -/
theorem decode_sign_add (hm : m < 2 ^ (F.ew + F.mw)) : F.decode fz (F.sign neg + m) =
    if m / 2 ^ F.mw = 2 ^ F.ew - 1 then (if m % 2 ^ F.mw = 0 then .inf neg else .nan)
    else if m / 2 ^ F.mw = 0 then .fin neg (if fz then 0 else m % 2 ^ F.mw) (1 - (F.bias : Int) - F.mw)
    else .fin neg (2 ^ F.mw + m % 2 ^ F.mw) ((m / 2 ^ F.mw : Nat) - F.bias - F.mw : Int) := by
  rw [decode_eq, expOf_eq_magOf_div, fracOf_eq_magOf_mod, magOf_sign_add hm, negOf_sign_add hm]

/-- FZ leaves the sign of a code, and its magnitude unless it is that of a subnormal (R58). -/
theorem flushOf_eq (hc : c < 2 ^ (F.ew + F.mw + 1)) :
    flushOf F fz c = F.sign (F.negOf c) + if fz && decide (magOf F c < 2 ^ F.mw) then 0 else magOf F c := by
  have := sign_add_magOf hc
  rw [flushOf]
  split <;> omega

theorem flushOf_lt (hc : c < 2 ^ (F.ew + F.mw + 1)) : flushOf F fz c < 2 ^ (F.ew + F.mw + 1) := by
  rw [flushOf]
  split <;> omega

theorem decode_flushOf (hF : F.Centred) (hc : c < 2 ^ (F.ew + F.mw + 1)) : F.decode fz c = F.decode false (flushOf F fz c) := by
  cases fz with
  | false => rfl
  | true => exact decode_fz hF hc

/-- The magnitude of a number is that of the code without its sign. -/
theorem abs_decode (hc : c < 2 ^ (F.ew + F.mw + 1)) : (F.decode fz c).abs = F.decode fz (F.sign false + magOf F c) := by
  conv_lhs => rw [← sign_add_magOf hc]
  rw [decode_sign_add magOf_lt, decode_sign_add magOf_lt]
  split_ifs <;> rfl

/-- The number of the opposite sign is that of the code with its sign inverted. -/
theorem neg_decode (hc : c < 2 ^ (F.ew + F.mw + 1)) : (F.decode fz c).neg = F.decode fz (F.sign (!F.negOf c) + magOf F c) := by
  conv_lhs => rw [← sign_add_magOf hc]
  rw [decode_sign_add magOf_lt, decode_sign_add magOf_lt]
  split_ifs <;> rfl

/-! ## The order of numbers -/

/-- A number of units with a sign. -/
def signed (neg : Bool) (x : Nat) : Int := if neg then -(x : Int) else x

theorem signed_mul (neg : Bool) (x k : Nat) : signed neg x * (k : Int) = signed neg (x * k) := by
  cases neg <;> simp [signed]

/-- The order of signed numbers depends on the order of their magnitudes and on which of them are 0. -/
theorem signed_lt_signed_iff {s t : Bool} {x y x' y' : Nat} (hlt : x < y ↔ x' < y') (hgt : y < x ↔ y' < x')
    (hx : 0 < x ↔ 0 < x') (hy : 0 < y ↔ 0 < y') : signed s x < signed t y ↔ signed s x' < signed t y' := by
  cases s <;> cases t <;> simp only [signed, if_true, if_false, Bool.false_eq_true] <;> omega

/-- An infinity, whose magnitude is the greatest, is below a number where its own sign says so. -/
theorem decide_signed_greatest_lt {s t : Bool} {x y : Nat} (h : y < x) : decide (signed s x < signed t y) = s := by
  cases s <;> cases t <;> simp only [signed, if_true, if_false, Bool.false_eq_true, decide_eq_true_eq, decide_eq_false_iff_not] <;> omega

theorem decide_signed_lt_greatest {s t : Bool} {x y : Nat} (h : x < y) : decide (signed s x < signed t y) = !t := by
  cases s <;> cases t <;>
    simp only [signed, if_true, if_false, Bool.false_eq_true, Bool.not_true, Bool.not_false, decide_eq_true_eq,
      decide_eq_false_iff_not] <;> omega

theorem decide_signed_lt_self {s t : Bool} {x : Nat} (h : 0 < x) : decide (signed s x < signed t x) = (s && !t) := by
  cases s <;> cases t <;> simp [signed]
  omega

/-- Finite numbers on one grid are compared by their multiples of its last place. -/
theorem lt_fin_eq (s t : Bool) (q : Int) (j k : Nat) :
    FVal.lt (.fin s m (q + j)) (.fin t n (q + k)) = decide (signed s (m * 2 ^ j) < signed t (n * 2 ^ k)) := by
  have halign : ∀ (u : Bool) (x i l : Nat), l ≤ i → alignTo u x (q + i) (q + l) * (2 ^ l : Nat) = signed u (x * 2 ^ i) := by
    intro u x i l h
    have hi : (q + i - (q + l)).toNat = i - l := by omega
    change signed u (x <<< (q + i - (q + l)).toNat) * _ = _
    rw [signed_mul, hi, Nat.shiftLeft_eq, Nat.mul_assoc, ← Nat.pow_add, Nat.sub_add_cancel h]
  have hq : min (q + j) (q + k) = q + (min j k : Nat) := by omega
  rw [FVal.lt, hq, ← halign s m j (min j k) (Nat.min_le_left _ _), ← halign t n k (min j k) (Nat.min_le_right _ _)]
  congr 1
  rw [Int.mul_lt_mul_right (by exact_mod_cast Nat.two_pow_pos _)]

/-- The magnitude of a finite code in units of the last place of the smallest numbers of the format. -/
def FpFmt.unitsOf (F : FpFmt) (c : Nat) : Nat := (if F.expOf c = 0 then F.fracOf c else 2 ^ F.mw + F.fracOf c) * 2 ^ (F.expOf c - 1)

theorem unitsOf_lt : F.unitsOf c < 2 ^ (F.mw + F.expOf c) := by
  have hf := fracOf_lt (F := F) (c := c)
  rw [FpFmt.unitsOf]
  split
  · next h => simpa [h] using hf
  · next h =>
    rw [show F.mw + F.expOf c = F.mw + 1 + (F.expOf c - 1) by omega, Nat.pow_add]
    exact Nat.mul_lt_mul_of_pos_right (by rw [Nat.pow_succ]; omega) (Nat.two_pow_pos _)

theorem le_unitsOf (h : F.expOf c ≠ 0) : 2 ^ (F.mw + F.expOf c - 1) ≤ F.unitsOf c := by
  rw [FpFmt.unitsOf, if_neg h, show F.mw + F.expOf c - 1 = F.mw + (F.expOf c - 1) by omega, Nat.pow_add]
  exact Nat.mul_le_mul_right _ (Nat.le_add_right _ _)

/-- Larger codes stand for larger magnitudes. -/
theorem unitsOf_strictMono (h : magOf F a < magOf F b) : F.unitsOf a < F.unitsOf b := by
  have hb := fracOf_lt (F := F) (c := b)
  rw [magOf_eq, magOf_eq] at h
  have hle : F.expOf a ≤ F.expOf b := by
    by_contra hlt
    have := Nat.mul_le_mul_right (2 ^ F.mw) (show F.expOf b + 1 ≤ F.expOf a by omega)
    rw [Nat.succ_mul] at this
    omega
  rcases Nat.eq_or_lt_of_le hle with he | he
  · have hf : F.fracOf a < F.fracOf b := by rw [he] at h; omega
    rw [FpFmt.unitsOf, FpFmt.unitsOf, he]
    refine Nat.mul_lt_mul_of_pos_right ?_ (Nat.two_pow_pos _)
    split <;> omega
  · calc F.unitsOf a < 2 ^ (F.mw + F.expOf a) := unitsOf_lt
      _ ≤ 2 ^ (F.mw + F.expOf b - 1) := Nat.pow_le_pow_right (by decide) (by omega)
      _ ≤ F.unitsOf b := le_unitsOf (by omega)

theorem unitsOf_congr (h : magOf F a = magOf F b) : F.unitsOf a = F.unitsOf b := by
  simp only [FpFmt.unitsOf, expOf_eq_magOf_div, fracOf_eq_magOf_mod, h]

theorem unitsOf_lt_iff : F.unitsOf a < F.unitsOf b ↔ magOf F a < magOf F b := by
  refine ⟨fun h => ?_, unitsOf_strictMono⟩
  rcases Nat.lt_trichotomy (magOf F a) (magOf F b) with hlt | heq | hgt
  · exact hlt
  · exact absurd h (unitsOf_congr heq).not_lt
  · exact absurd h (unitsOf_strictMono hgt).not_gt

theorem unitsOf_pos_iff : 0 < F.unitsOf c ↔ 0 < magOf F c := by
  have h := unitsOf_lt_iff (F := F) (a := 0) (b := c)
  have hz : magOf F 0 = 0 := Nat.zero_mod _
  have hu : F.unitsOf 0 = 0 := by simp [FpFmt.unitsOf, FpFmt.expOf, FpFmt.fracOf]
  rwa [hz, hu] at h

/-- A finite code stands for its units on the grid of the smallest numbers. -/
theorem decode_finite (h : F.expOf c ≠ 2 ^ F.ew - 1) : F.decode false c = .fin (F.negOf c)
    (if F.expOf c = 0 then F.fracOf c else 2 ^ F.mw + F.fracOf c) (1 - (F.bias : Int) - F.mw + (F.expOf c - 1 : Nat)) := by
  rw [decode_eq, if_neg h]
  split
  · next h0 => simp [h0]
  · congr 1
    omega

theorem fracOf_eq_zero_of_num (hn : nanOf F c = false) (he : F.expOf c = 2 ^ F.ew - 1) : F.fracOf c = 0 := by
  by_contra h
  exact Bool.false_ne_true (hn.symm.trans (nanOf_iff.mpr ⟨he, h⟩))

/-- A code that is no NaN is an infinity, which has the greatest magnitude, or finite. -/
theorem decode_num_cases (hn : nanOf F c = false) :
    F.decode false c = .inf (F.negOf c) ∧ magOf F c = (2 ^ F.ew - 1) * 2 ^ F.mw ∨
    F.expOf c ≠ 2 ^ F.ew - 1 ∧ magOf F c < (2 ^ F.ew - 1) * 2 ^ F.mw := by
  by_cases he : F.expOf c = 2 ^ F.ew - 1
  · have hf := fracOf_eq_zero_of_num hn he
    exact .inl ⟨by rw [decode_eq, if_pos he, if_pos hf], by rw [magOf_eq, he, hf, Nat.add_zero]⟩
  · have hlt := expOf_lt (F := F) (c := c)
    have hf := fracOf_lt (F := F) (c := c)
    have := Nat.mul_le_mul_right (2 ^ F.mw) (show F.expOf c + 1 ≤ 2 ^ F.ew - 1 by omega)
    rw [Nat.succ_mul] at this
    exact .inr ⟨he, by rw [magOf_eq]; omega⟩

/-- A code is its own magnitude where its sign is plus. -/
theorem eq_magOf_iff (hc : c < 2 ^ (F.ew + F.mw + 1)) : c = magOf F c ↔ F.negOf c = false := by
  have h := sign_add_magOf hc
  have hp := Nat.two_pow_pos (F.ew + F.mw)
  cases hn : F.negOf c <;> rw [hn, FpFmt.sign] at h
  · simpa using h.symm
  · rw [if_pos rfl] at h
    exact ⟨fun he => by omega, fun he => by cases he⟩

theorem sizeOfCode_eq (hc : c < 2 ^ (F.ew + F.mw + 1)) : sizeOfCode F c = signed (F.negOf c) (magOf F c) := by
  rw [sizeOfCode, signed]
  simp only [eq_magOf_iff hc, ← Bool.not_eq_true, ite_not]

/-- Numbers are ordered as their codes (R52). -/
theorem lt_decode_eq (hF : F.Centred) (ha : a < 2 ^ (F.ew + F.mw + 1)) (hb : b < 2 ^ (F.ew + F.mw + 1))
    (hna : nanOf F a = false) (hnb : nanOf F b = false) :
    FVal.lt (F.decode false a) (F.decode false b) = decide (sizeOfCode F a < sizeOfCode F b) := by
  have hmax : 0 < (2 ^ F.ew - 1) * 2 ^ F.mw := by
    rw [FpFmt.Centred] at hF
    exact Nat.mul_pos (by omega) (Nat.two_pow_pos _)
  rw [sizeOfCode_eq ha, sizeOfCode_eq hb]
  rcases decode_num_cases hna with ⟨ea, hma⟩ | ⟨ea, hma⟩ <;> rcases decode_num_cases hnb with ⟨eb, hmb⟩ | ⟨eb, hmb⟩
  · rw [ea, eb, hma, hmb]
    exact (decide_signed_lt_self hmax).symm
  · rw [ea, decode_finite eb, hma]
    exact (decide_signed_greatest_lt hmb).symm
  · rw [eb, decode_finite ea, hmb]
    exact (decide_signed_lt_greatest hma).symm
  · rw [decode_finite ea, decode_finite eb, lt_fin_eq]
    congr 1
    exact propext (signed_lt_signed_iff unitsOf_lt_iff unitsOf_lt_iff unitsOf_pos_iff unitsOf_pos_iff)

theorem decode_isNan : (F.decode fz c).isNan = nanOf F c := by
  cases hn : nanOf F c with
  | true =>
    rw [decode_of_nan hn]
    rfl
  | false =>
    rw [decode_eq]
    split
    · next h =>
      rw [if_pos (fracOf_eq_zero_of_num hn h)]
      rfl
    · split <;> rfl

theorem decode_isNeg (hn : nanOf F c = false) : (F.decode false c).isNeg = F.negOf c := by
  rcases decode_num_cases hn with ⟨h, -⟩ | ⟨h, -⟩
  · rw [h]
    rfl
  · rw [decode_finite h]
    rfl

theorem eqv_of_num {x y : FVal} (hx : x.isNan = false) (hy : y.isNan = false) : FVal.eqv x y = (!FVal.lt x y && !FVal.lt y x) := by
  cases x with
  | nan => cases hx
  | inf =>
    cases y with
    | nan => cases hy
    | inf | fin => rfl
  | fin =>
    cases y with
    | nan => cases hy
    | inf | fin => rfl

theorem eqv_decode_eq (hF : F.Centred) (ha : a < 2 ^ (F.ew + F.mw + 1)) (hb : b < 2 ^ (F.ew + F.mw + 1))
    (hna : nanOf F a = false) (hnb : nanOf F b = false) :
    FVal.eqv (F.decode false a) (F.decode false b) = decide (sizeOfCode F a = sizeOfCode F b) := by
  rw [eqv_of_num (decode_isNan.trans hna) (decode_isNan.trans hnb), lt_decode_eq hF ha hb hna hnb, lt_decode_eq hF hb ha hnb hna,
    Bool.eq_iff_iff]
  simp only [Bool.and_eq_true, Bool.not_eq_true', decide_eq_false_iff_not, decide_eq_true_eq]
  omega

end Sys2Proof.Machine
end

section
/-! SUPPORT. What the extrema, comparisons and sign operations deliver, by the codes of their operands (R53, R58, R75, R117). -/

namespace Sys2Proof.Machine
open Sys2Proof.Claims

variable {F : FpFmt} {fz neg : Bool} {a b c m : Nat}

/-! ## The lesser and the greater of two numbers -/

theorem rankOf_eq (hc : c < 2 ^ (F.ew + F.mw + 1)) :
    rankOf F c = if F.negOf c then -(magOf F c : Int) - 1 else magOf F c := by
  rw [rankOf]
  simp only [eq_magOf_iff hc, ← Bool.not_eq_true, ite_not]

theorem rankOf_inj (ha : a < 2 ^ (F.ew + F.mw + 1)) (hb : b < 2 ^ (F.ew + F.mw + 1)) (h : rankOf F a = rankOf F b) : a = b := by
  rw [rankOf_eq ha, rankOf_eq hb] at h
  rw [← sign_add_magOf ha, ← sign_add_magOf hb]
  cases hna : F.negOf a <;> cases hnb : F.negOf b <;> simp only [hna, hnb, if_true, if_false, Bool.false_eq_true] at h ⊢ <;> omega

/-- The test by which `FVal.min` and `FVal.max` choose between two numbers is their order in which −0 lies below +0 (R117). -/
theorem first_iff (ha : a < 2 ^ (F.ew + F.mw + 1)) (hb : b < 2 ^ (F.ew + F.mw + 1)) (hne : a ≠ b) :
    (sizeOfCode F a < sizeOfCode F b ∨ sizeOfCode F a = sizeOfCode F b ∧ F.negOf a = true) ↔ rankOf F a < rankOf F b := by
  have hr : rankOf F a ≠ rankOf F b := fun h => hne (rankOf_inj ha hb h)
  rw [sizeOfCode_eq ha, sizeOfCode_eq hb]
  rw [rankOf_eq ha, rankOf_eq hb] at hr ⊢
  cases hna : F.negOf a <;> cases hnb : F.negOf b <;>
    simp only [hna, hnb, signed, if_true, if_false, Bool.false_eq_true, and_true, and_false, or_false] at hr ⊢ <;> omega

/-- What FZ leaves of two numbers is ordered by the choice that is made between the numbers. -/
theorem choose_first_eq (hF : F.Centred) (ha : a < 2 ^ (F.ew + F.mw + 1)) (hb : b < 2 ^ (F.ew + F.mw + 1))
    (hna : nanOf F a = false) (hnb : nanOf F b = false) (hne : flushOf F fz a ≠ flushOf F fz b) :
    (FVal.lt (F.decode fz a) (F.decode fz b) || (FVal.eqv (F.decode fz a) (F.decode fz b) && (F.decode fz a).isNeg)) =
      decide (rankOf F (flushOf F fz a) < rankOf F (flushOf F fz b)) := by
  have ha' := flushOf_lt (fz := fz) ha
  have hb' := flushOf_lt (fz := fz) hb
  have hna' := nanOf_flushOf (fz := fz) ha hna
  have hnb' := nanOf_flushOf (fz := fz) hb hnb
  rw [decode_flushOf hF ha, decode_flushOf hF hb, lt_decode_eq hF ha' hb' hna' hnb', eqv_decode_eq hF ha' hb' hna' hnb',
    decode_isNeg hna', Bool.eq_iff_iff, decide_eq_true_eq, ← first_iff ha' hb' hne]
  simp only [Bool.or_eq_true, Bool.and_eq_true, decide_eq_true_eq]

theorem exactOp_decode (hF : F.Centred) (hc : c < 2 ^ (F.ew + F.mw + 1)) (hn : nanOf F c = false) :
    F.exactOp fz (F.decode fz c) = flushOf F fz c := by
  rw [FpFmt.exactOp, deliver_decode hF hc hn]

/-- The lesser of two codes is delivered as what FZ leaves of it (R58, R117). -/
theorem exactOp_min (hF : F.Centred) (ha : a < 2 ^ (F.ew + F.mw + 1)) (hb : b < 2 ^ (F.ew + F.mw + 1)) :
    F.exactOp fz (FVal.min (F.decode fz a) (F.decode fz b)) =
      if nanOf F a || nanOf F b then F.canonNan
      else if rankOf F (flushOf F fz b) < rankOf F (flushOf F fz a) then flushOf F fz b else flushOf F fz a := by
  rw [FVal.min, decode_isNan, decode_isNan]
  cases h : nanOf F a || nanOf F b with
  | true => rfl
  | false =>
    obtain ⟨hna, hnb⟩ := Bool.or_eq_false_iff.mp h
    rw [if_neg Bool.false_ne_true, if_neg Bool.false_ne_true, apply_ite (F.exactOp fz), exactOp_decode hF ha hna, exactOp_decode hF hb hnb]
    by_cases hne : flushOf F fz a = flushOf F fz b
    · rw [hne, ite_self, ite_self]
    · rw [choose_first_eq hF ha hb hna hnb hne]
      rcases lt_or_gt_of_ne (fun h => hne (rankOf_inj (flushOf_lt ha) (flushOf_lt hb) h)) with hr | hr
      · rw [if_pos (decide_eq_true hr), if_neg hr.not_gt]
      · rw [if_neg (by simpa using hr.le), if_pos hr]

/-- The greater of two codes is delivered as what FZ leaves of it (R58, R117). -/
theorem exactOp_max (hF : F.Centred) (ha : a < 2 ^ (F.ew + F.mw + 1)) (hb : b < 2 ^ (F.ew + F.mw + 1)) :
    F.exactOp fz (FVal.max (F.decode fz a) (F.decode fz b)) =
      if nanOf F a || nanOf F b then F.canonNan
      else if rankOf F (flushOf F fz a) < rankOf F (flushOf F fz b) then flushOf F fz b else flushOf F fz a := by
  rw [FVal.max, decode_isNan, decode_isNan]
  cases h : nanOf F a || nanOf F b with
  | true => rfl
  | false =>
    obtain ⟨hna, hnb⟩ := Bool.or_eq_false_iff.mp h
    rw [if_neg Bool.false_ne_true, if_neg Bool.false_ne_true, apply_ite (F.exactOp fz), exactOp_decode hF ha hna, exactOp_decode hF hb hnb]
    by_cases hne : flushOf F fz a = flushOf F fz b
    · rw [hne, ite_self, ite_self]
    · rw [choose_first_eq hF ha hb hna hnb hne]
      simp only [decide_eq_true_eq]

/-- A comparison that no NaN meets is one of what FZ leaves of the codes, where it is one of codes (R58, R117). -/
theorem compare_decode {rel : FVal → FVal → Bool} {p : Int → Int → Bool} (hF : F.Centred) (hleft : ∀ y, rel .nan y = false)
    (hright : ∀ x, rel x .nan = false)
    (hrel : ∀ {a b : Nat}, a < 2 ^ (F.ew + F.mw + 1) → b < 2 ^ (F.ew + F.mw + 1) → nanOf F a = false → nanOf F b = false →
      rel (F.decode false a) (F.decode false b) = p (sizeOfCode F a) (sizeOfCode F b))
    (ha : a < 2 ^ (F.ew + F.mw + 1)) (hb : b < 2 ^ (F.ew + F.mw + 1)) :
    rel (F.decode fz a) (F.decode fz b) =
      (!nanOf F a && !nanOf F b && p (sizeOfCode F (flushOf F fz a)) (sizeOfCode F (flushOf F fz b))) := by
  cases hna : nanOf F a with
  | true => rw [decode_of_nan hna, hleft, Bool.not_true, Bool.false_and, Bool.false_and]
  | false =>
    cases hnb : nanOf F b with
    | true => rw [decode_of_nan hnb, hright, Bool.not_true, Bool.and_false, Bool.false_and]
    | false =>
      rw [decode_flushOf hF ha, decode_flushOf hF hb]
      exact hrel (flushOf_lt ha) (flushOf_lt hb) (nanOf_flushOf ha hna) (nanOf_flushOf hb hnb)

theorem lt_decode_flushOf (hF : F.Centred) (ha : a < 2 ^ (F.ew + F.mw + 1)) (hb : b < 2 ^ (F.ew + F.mw + 1)) :
    FVal.lt (F.decode fz a) (F.decode fz b) =
      (!nanOf F a && !nanOf F b && decide (sizeOfCode F (flushOf F fz a) < sizeOfCode F (flushOf F fz b))) :=
  compare_decode (p := fun x y => decide (x < y)) hF (fun _ => rfl) (fun x => by cases x <;> rfl) (lt_decode_eq hF) ha hb

theorem eqv_decode_flushOf (hF : F.Centred) (ha : a < 2 ^ (F.ew + F.mw + 1)) (hb : b < 2 ^ (F.ew + F.mw + 1)) :
    FVal.eqv (F.decode fz a) (F.decode fz b) =
      (!nanOf F a && !nanOf F b && decide (sizeOfCode F (flushOf F fz a) = sizeOfCode F (flushOf F fz b))) :=
  compare_decode (p := fun x y => decide (x = y)) hF (fun _ => rfl) (fun x => by cases x <;> rfl) (eqv_decode_eq hF) ha hb

/-! ## The sign operations -/

theorem flushOf_sign_add (hm : m < 2 ^ (F.ew + F.mw)) :
    flushOf F fz (F.sign neg + m) = F.sign neg + if fz && decide (m < 2 ^ F.mw) then 0 else m := by
  rw [flushOf_eq (sign_add_lt hm), negOf_sign_add hm, magOf_sign_add hm]

/-- FZ comes before a change of the sign. -/
theorem flushOf_sign_add_magOf (hc : c < 2 ^ (F.ew + F.mw + 1)) :
    flushOf F fz (F.sign neg + magOf F c) = F.sign neg + magOf F (flushOf F fz c) := by
  have hlt : (if fz && decide (magOf F c < 2 ^ F.mw) then 0 else magOf F c) < 2 ^ (F.ew + F.mw) := by
    split
    · exact Nat.two_pow_pos _
    · exact magOf_lt
  rw [flushOf_sign_add magOf_lt, flushOf_eq hc, magOf_sign_add hlt]

theorem negOf_flushOf (hc : c < 2 ^ (F.ew + F.mw + 1)) : F.negOf (flushOf F fz c) = F.negOf c := by
  rw [flushOf_eq hc, negOf_sign_add]
  split
  · exact Nat.two_pow_pos _
  · exact magOf_lt

theorem nanOf_sign_add_magOf : nanOf F (F.sign neg + magOf F c) = nanOf F c := by
  rw [nanOf, nanOf, magOf_sign_add magOf_lt]

theorem exactOp_of_nan (hn : nanOf F c = true) : F.exactOp fz (F.decode fz c) = F.canonNan := by
  rw [decode_of_nan hn]
  rfl

/-- A code with a sign of its own is delivered as what FZ leaves of its magnitude, under that sign. -/
theorem exactOp_decode_sign_add (hF : F.Centred) (hc : c < 2 ^ (F.ew + F.mw + 1)) :
    F.exactOp fz (F.decode fz (F.sign neg + magOf F c)) =
      if nanOf F c then F.canonNan else F.sign neg + magOf F (flushOf F fz c) := by
  cases hn : nanOf F c with
  | true => exact exactOp_of_nan (nanOf_sign_add_magOf.trans hn)
  | false => rw [exactOp_decode hF (sign_add_lt magOf_lt) (nanOf_sign_add_magOf.trans hn), flushOf_sign_add_magOf hc, if_neg Bool.false_ne_true]

end Sys2Proof.Machine
end

section
/-! SUPPORT. The FP32 words of the statements by their codes (R52, R58). -/

namespace Sys2Proof.Machine
open Sys2Proof.Claims

variable {w : Word} {fz neg : Bool} {m k : Nat}

theorem fp32_centred : fmtFp32.Centred := rfl

theorem isNan32_eq (w : Word) : isNan32 w = nanOf fmtFp32 w.toNat := rfl

theorem negOf_fp32 (w : Word) : fmtFp32.negOf w.toNat = w.getLsbD 31 := by
  rw [BitVec.getLsbD, Nat.testBit_eq_decide_div_mod_eq]
  rfl

theorem testBit_magOf_fp32 (w : Word) (k : Nat) : (magOf fmtFp32 w.toNat).testBit k = (decide (k < 31) && w.getLsbD k) :=
  Nat.testBit_mod_two_pow ..

/-- The bits of a word of a sign and a magnitude. -/
theorem getLsbD_sign_add (hm : m < 2 ^ 31) (hk : k < 32) :
    (BitVec.ofNat 32 (fmtFp32.sign neg + m)).getLsbD k = if k = 31 then neg else m.testBit k := by
  rw [BitVec.getLsbD_ofNat, decide_eq_true hk, Bool.true_and]
  have hminus : fmtFp32.sign true = 2 ^ 31 := rfl
  have hplus : fmtFp32.sign false = 0 := rfl
  split
  · next h =>
    have h31 : m.testBit 31 = false := Nat.testBit_lt_two_pow hm
    cases neg with
    | false => rw [h, hplus, Nat.zero_add, h31]
    | true => rw [h, hminus, Nat.testBit_two_pow_add_eq, h31, Bool.not_false]
  · next h =>
    cases neg with
    | false => rw [hplus, Nat.zero_add]
    | true => rw [hminus, Nat.testBit_two_pow_add_gt (by omega)]

theorem ofNat_sign (w : Word) : BitVec.ofNat 32 (fmtFp32.sign (fmtFp32.negOf w.toNat) + 0) = w &&& 0x80000000 := by
  apply BitVec.eq_of_getLsbD_eq
  intro k hk
  rw [getLsbD_sign_add (by decide) hk, negOf_fp32, BitVec.getLsbD_and, show (0x80000000 : Word) = BitVec.twoPow 32 31 from rfl,
    BitVec.getLsbD_twoPow]
  split
  · next h => simp [h]
  · next h => simp [Ne.symm h]

theorem ofNat_mag (w : Word) : BitVec.ofNat 32 (fmtFp32.sign false + magOf fmtFp32 w.toNat) = w &&& 0x7FFFFFFF := by
  apply BitVec.eq_of_getLsbD_eq
  intro k hk
  rw [getLsbD_sign_add magOf_lt hk, testBit_magOf_fp32, BitVec.getLsbD_and, show (0x7FFFFFFF : Word) = BitVec.ofNat 32 (2 ^ 31 - 1) from rfl,
    BitVec.getLsbD_ofNat, Nat.testBit_two_pow_sub_one]
  split
  · next h => simp [h]
  · next h => simp [hk, show k < 31 by omega]

theorem ofNat_flip (w : Word) :
    BitVec.ofNat 32 (fmtFp32.sign (!fmtFp32.negOf w.toNat) + magOf fmtFp32 w.toNat) = w ^^^ 0x80000000 := by
  apply BitVec.eq_of_getLsbD_eq
  intro k hk
  rw [getLsbD_sign_add magOf_lt hk, negOf_fp32, testBit_magOf_fp32, BitVec.getLsbD_xor, show (0x80000000 : Word) = BitVec.twoPow 32 31 from rfl,
    BitVec.getLsbD_twoPow]
  split
  · next h => simp [h]
  · next h => simp [Ne.symm h, show k < 31 by omega]

theorem ofNat_flushOf (fz : Bool) (w : Word) : BitVec.ofNat 32 (flushOf fmtFp32 fz w.toNat) = flush32 fz w := by
  rw [flushOf_eq w.isLt]
  have hw : BitVec.ofNat 32 (fmtFp32.sign (fmtFp32.negOf w.toNat) + magOf fmtFp32 w.toNat) = w := by
    rw [sign_add_magOf w.isLt, BitVec.ofNat_toNat, BitVec.setWidth_eq]
  rw [flush32, apply_ite (fmtFp32.sign _ + ·), apply_ite (BitVec.ofNat 32), ofNat_sign, hw]
  rfl

theorem flush32_toNat (fz : Bool) (w : Word) : (flush32 fz w).toNat = flushOf fmtFp32 fz w.toNat := by
  rw [← ofNat_flushOf, BitVec.toNat_ofNat, Nat.mod_eq_of_lt (show _ < 2 ^ 32 from flushOf_lt w.isLt)]

theorem rank32_eq (w : Word) : rank32 w = rankOf fmtFp32 w.toNat := by
  rw [rankOf_eq w.isLt, rank32, negOf_fp32]
  rfl

theorem size32_eq (w : Word) : size32 w = sizeOfCode fmtFp32 w.toNat := by
  rw [sizeOfCode_eq w.isLt, size32, negOf_fp32]
  rfl

end Sys2Proof.Machine
end

section
/-! PROOF. The FP32 instructions (O27; R53, R58, R117, R118). -/

namespace Sys2Proof.Machine
open Sys2Proof.Claims

variable {s : State} {i : Instr} {f : Fields}

/-- An exact operation delivers the code of its value and no flag. -/
theorem gives_exact {v : Opnds → FVal} {g : Opnds → Word} (hx : exec i s = scalarOp i f 1 s (fun o => exactFp o (v o)))
    (hg : BitVec.ofNat 32 (fmtFp32.exactOp (issueOps s i f).fz (v (issueOps s i f))) = g (issueOps s i f)) :
    Gives s f i 1 (fun o => exact32 (g o)) :=
  gives_of_scalarOp hx (congrArg byValue hg)

/-- A comparison delivers the truth value of its test. -/
theorem gives_compare {p : Opnds → Bool} {q : Int → Int → Bool}
    (hx : exec i s = scalarOp i f 0 s (fun o => byValue (boolWord (p o))))
    (hp : ∀ o : Opnds, p o = (!isNan32 o.a.val && !isNan32 o.b.val &&
      q (size32 (flush32 o.fz o.a.val)) (size32 (flush32 o.fz o.b.val)))) : Gives s f i 0 (fun o => compare32 o q) :=
  gives_of_scalarOp hx (congrArg (fun c => byValue (boolWord c)) (hp _))

variable (o : Opnds)

theorem ofNat_canonNan : BitVec.ofNat 32 fmtFp32.canonNan = nan32 := rfl

theorem exactOp_min_fp32 : BitVec.ofNat 32 (fmtFp32.exactOp o.fz (FVal.min o.fpA o.fpB)) =
    if isNan32 o.a.val || isNan32 o.b.val then nan32
    else if rank32 (flush32 o.fz o.b.val) < rank32 (flush32 o.fz o.a.val) then flush32 o.fz o.b.val else flush32 o.fz o.a.val := by
  rw [Opnds.fpA, Opnds.fpB, exactOp_min fp32_centred o.a.val.isLt o.b.val.isLt]
  simp only [apply_ite (BitVec.ofNat 32), ofNat_canonNan, ofNat_flushOf, rank32_eq, flush32_toNat, isNan32_eq]

theorem exactOp_max_fp32 : BitVec.ofNat 32 (fmtFp32.exactOp o.fz (FVal.max o.fpA o.fpB)) =
    if isNan32 o.a.val || isNan32 o.b.val then nan32
    else if rank32 (flush32 o.fz o.a.val) < rank32 (flush32 o.fz o.b.val) then flush32 o.fz o.b.val else flush32 o.fz o.a.val := by
  rw [Opnds.fpA, Opnds.fpB, exactOp_max fp32_centred o.a.val.isLt o.b.val.isLt]
  simp only [apply_ite (BitVec.ofNat 32), ofNat_canonNan, ofNat_flushOf, rank32_eq, flush32_toNat, isNan32_eq]

theorem exactOp_abs_fp32 : BitVec.ofNat 32 (fmtFp32.exactOp o.fz o.fpA.abs) =
    if isNan32 o.a.val then nan32 else flush32 o.fz o.a.val &&& 0x7FFFFFFF := by
  rw [Opnds.fpA, abs_decode o.a.val.isLt, exactOp_decode_sign_add fp32_centred o.a.val.isLt, apply_ite (BitVec.ofNat 32), ← flush32_toNat,
    ofNat_mag]
  rfl

theorem exactOp_neg_fp32 : BitVec.ofNat 32 (fmtFp32.exactOp o.fz o.fpA.neg) =
    if isNan32 o.a.val then nan32 else flush32 o.fz o.a.val ^^^ 0x80000000 := by
  rw [Opnds.fpA, neg_decode o.a.val.isLt, exactOp_decode_sign_add fp32_centred o.a.val.isLt, apply_ite (BitVec.ofNat 32),
    ← negOf_flushOf (fz := o.fz) o.a.val.isLt, ← flush32_toNat, ofNat_flip]
  rfl

theorem eqv_fp32 : FVal.eqv o.fpA o.fpB =
    (!isNan32 o.a.val && !isNan32 o.b.val && decide (size32 (flush32 o.fz o.a.val) = size32 (flush32 o.fz o.b.val))) := by
  simp only [size32_eq, flush32_toNat, isNan32_eq]
  exact eqv_decode_flushOf fp32_centred o.a.val.isLt o.b.val.isLt

theorem lt_fp32 : FVal.lt o.fpA o.fpB =
    (!isNan32 o.a.val && !isNan32 o.b.val && decide (size32 (flush32 o.fz o.a.val) < size32 (flush32 o.fz o.b.val))) := by
  simp only [size32_eq, flush32_toNat, isNan32_eq]
  exact lt_decode_flushOf fp32_centred o.a.val.isLt o.b.val.isLt

theorem le_fp32 : (FVal.lt o.fpA o.fpB || FVal.eqv o.fpA o.fpB) =
    (!isNan32 o.a.val && !isNan32 o.b.val && decide (size32 (flush32 o.fz o.a.val) ≤ size32 (flush32 o.fz o.b.val))) := by
  rw [eqv_fp32, lt_fp32, ← Bool.and_or_distrib_left, ← Bool.decide_or]
  simp only [Int.le_iff_lt_or_eq]

end Sys2Proof.Machine

namespace Sys2Proof.Proofs
open Sys2Proof.Machine Sys2Proof.Claims

/-- The sums and products of R117 and the approximations of R118. -/
theorem floatArithmetic : FloatArithmetic := fun _ _ =>
  ⟨gives_of_scalarOp rfl rfl, gives_of_scalarOp rfl rfl, gives_of_scalarOp rfl rfl, gives_of_scalarOp rfl rfl,
   givesAfter_of_longOp rfl rfl, givesAfter_of_longOp rfl rfl, givesAfter_of_longOp rfl rfl, givesAfter_of_longOp rfl rfl⟩

/-- The extrema, comparisons and sign operations of R117. -/
theorem floatOrderAndSign : FloatOrderAndSign := by
  intro s f
  refine ⟨?_, ?_, ?_, ?_, ?_, ?_, ?_, ?_⟩
  · exact gives_exact rfl (exactOp_min_fp32 _)
  · exact gives_exact rfl (exactOp_max_fp32 _)
  · exact gives_compare rfl eqv_fp32
  · exact gives_compare rfl lt_fp32
  · exact gives_compare rfl le_fp32
  · refine gives_int rfl ?_
    rw [Opnds.fpA, Opnds.fpB, decode_isNan, decode_isNan]
    rfl
  · exact gives_exact rfl (exactOp_abs_fp32 _)
  · exact gives_exact rfl (exactOp_neg_fp32 _)

/-- Settles O27: each number is delivered as its code, and codes are ordered as their numbers. -/
theorem floatArithmeticAndOrder : Obligations.FloatArithmeticAndOrder := ⟨floatArithmetic, floatOrderAndSign⟩

end Sys2Proof.Proofs
end

section
/-! PROOF. Conversions, packing and scaling (O1; R119-R123). -/

namespace Sys2Proof.Machine
open Sys2Proof.Claims

theorem packHalves_eq (a b : Word) :
    packHalves (bitsNat a 0 16) (bitsNat b 0 16) = BitVec.ofNat 32 (a.toNat % 65536 + b.toNat % 65536 * 65536) := by
  simp only [packHalves, bitsNat_eq_div_mod, Nat.pow_zero, Nat.div_one, Nat.reducePow, Nat.mod_mod, Nat.mul_comm]

/-- A lane of a word, as a word of its own width (R50). -/
theorem bitsNat_lane (a : Word) (width k : Nat) : bitsNat a (width * k) width = ((a >>> (width * k)).setWidth width).toNat := by
  rw [bitsNat, BitVec.toNat_setWidth, BitVec.toNat_ushiftRight]

/-- The lane of `UNPK` with its extension (R122). -/
theorem unpkW_eq (imm : BitVec 6) (a : Word) :
    let part := fun (width : Nat) => (a >>> (width * (imm.toNat % 4))).setWidth width
    unpkW imm a = if imm.getLsbD 2 then (if imm.getLsbD 3 then (part 16).signExtend 32 else (part 16).setWidth 32)
      else if imm.getLsbD 3 then (part 8).signExtend 32 else (part 8).setWidth 32 := by
  intro part
  have hlane : ∀ width, bitsNat a (width * bitsNat imm 0 2) width = (part width).toNat := fun width => bitsNat_lane a width (imm.toNat % 4)
  have h16 : unpkW.sextNat 16 (part 16).toNat = (part 16).signExtend 32 := signExt_eq (len := 2) (part 16) (by decide)
  have h8 : unpkW.sextNat 8 (part 8).toNat = (part 8).signExtend 32 := signExt_eq (len := 1) (part 8) (by decide)
  cases h2 : imm.getLsbD 2 with
  | true =>
    have hb : bitAt imm 2 = true := h2
    simp only [unpkW, hb, if_true, hlane 16, h16, BitVec.ofNat_toNat]
    rfl
  | false =>
    have hb : bitAt imm 2 = false := h2
    simp only [unpkW, hb, if_false, Bool.false_eq_true, hlane 8, h8, BitVec.ofNat_toNat]
    rfl

end Sys2Proof.Machine

namespace Sys2Proof.Proofs
open Sys2Proof.Machine Sys2Proof.Claims

/-- Settles O1: each instruction is the conversion of the statement, with the fields of its immediate. -/
theorem conversions : Obligations.Conversions := by
  intro s f tag code word rm part
  have htag : ∀ lo, bitsNat f.imm lo 3 = tag lo := fun lo => bitsNat_eq_div_mod f.imm lo 3
  refine ⟨?_, ?_, ?_, ?_, ?_, ?_, ?_, ?_⟩
  · refine gives_of_scalarOp rfl ?_
    simp only [issueOps_f, htag]
    rfl
  · exact gives_of_scalarOp rfl rfl
  · exact gives_of_scalarOp rfl rfl
  · refine gives_of_scalarOp rfl ?_
    simp only [issueOps_f, htag]
    rfl
  · refine gives_of_scalarOp rfl ?_
    simp only [issueOps_f, htag]
    rfl
  · exact gives_of_scalarOp rfl (congrArg byValue (packHalves_eq _ _))
  · exact gives_int rfl (unpkW_eq _ _)
  · exact gives_of_scalarOp rfl rfl

end Sys2Proof.Proofs
end

section
/-! PROOF. The constant block, words moved with their poison state, and the atomics of the local store (O2; R127-R130). -/

namespace Sys2Proof.Machine
open Sys2Proof.Claims

variable {s : State} {f : Fields}

/-! ## `LDC` (R128) -/

theorem ldc_in (hc : Clean s (.ldc f) f) (hn : (issueOps s (.ldc f) f).ea.toNat < 64) :
    Completes s (.ldc f) f (cleanResult 0 (int (Map.get (s.el (here s)).cblk 0
      (64 * (domOf (s.nd s.cur.node)).toNat + (issueOps s (.ldc f) f).ea.toNat)))) := by
  obtain ⟨ha, hb, -⟩ := psn_eq_none_iff.mp hc.2
  refine issue_now hc.1 ?_
  simp only [addrPsn_eq_none_iff.mpr ⟨ha, hb⟩, if_neg (Nat.not_le.mpr hn), issueOps_n, issueClaim_cblk, issueOps_dom]
  rfl

theorem ldc_out (hc : Clean s (.ldc f) f) (hn : 64 ≤ (issueOps s (.ldc f) f).ea.toNat) :
    exec (.ldc f) s = .next (failsAt s (.ldc f) f { cause := causeProt, deta := (issueOps s (.ldc f) f).ea }) := by
  obtain ⟨ha, hb, -⟩ := psn_eq_none_iff.mp hc.2
  exact issue_error hc.1 (by simp only [addrPsn_eq_none_iff.mpr ⟨ha, hb⟩, if_pos hn])

/-! ## `LD.P` and `ST.P` (R127) -/

theorem ldP_done (h : Accessible s (.ldP f) f (ea s (.ldP f) f) 4 false) :
    let w := s.lsWord (here s) (ea s (.ldP f) f).toNat
    Completes s (.ldP f) f { dst := some (PWord.clean w.val), cond := w.psn } := by
  obtain ⟨hp, (hb : (issueOps s (.ldP f) f).addrPsn = none),
    (hc : s.lsCheck s.cur.node (issueOps s (.ldP f) f).ea 4 false 0 = none)⟩ := h
  refine issue_now hp ?_
  simp only [hb, issueClaim_lsCheck, issueOps_n, hc, issueClaim_lsWord]
  rfl

theorem stP_done (h : Accessible s (.stP f) f (ea s (.stP f) f) 4 true) :
    exec (.stP f) s = .next (finishesAt s (.stP f) f ((issueClaim s (.stP f) f).setLsWord (here s) (ea s (.stP f) f).toNat
      (PWord.clean (issueOps s (.stP f) f).d.val)) { cond := true }) := by
  obtain ⟨hp, (hb : (issueOps s (.stP f) f).addrPsn = none),
    (hc : s.lsCheck s.cur.node (issueOps s (.stP f) f).ea 4 true 0 = none)⟩ := h
  refine issue_now hp ?_
  simp only [hb, issueClaim_lsCheck, issueOps_n, hc]
  rfl

/-! ## `LCAS` (R129) -/

theorem lcas_fails {fi : FaultInfo} (hp : Passes s (.lcas f) f) (hb : badAddress s (.lcas f) f = none)
    (hc : s.lsCheck s.cur.node (issueOps s (.lcas f) f).a.val 4 true 0 = some fi) :
    exec (.lcas f) s = .next (failsAt s (.lcas f) f fi) := by
  have hb : (issueOps s (.lcas f) f).addrPsn = none := hb
  exact issue_error hp (by simp only [hb, issueClaim_lsCheck, issueOps_n, hc])

theorem lcas_poisonedAddress {w : Word} (hp : Passes s (.lcas f) f) (hb : badAddress s (.lcas f) f = some w) :
    Completes s (.lcas f) f (poisonResult w) := by
  have hb : (issueOps s (.lcas f) f).addrPsn = some w := hb
  exact issue_now hp (by simp only [hb])

/-- The result of an atomic whose new value may be poisoned. -/
theorem poisonResult_or {w : PWord} {r : Result} :
    (if w.psn then poisonResult w.val else r) = if w.psn then { dst := some w, cond := false } else r := by
  cases hw : w.psn with
  | true => simp only [if_true, poisonResult_val hw]
  | false => rfl

theorem lcas_poisonedWord (h : Accessible s (.lcas f) f (issueOps s (.lcas f) f).a.val 4 true)
    (hold : (s.lsWord (here s) (issueOps s (.lcas f) f).a.val.toNat).psn = true) :
    Completes s (.lcas f) f { dst := some (s.lsWord (here s) (issueOps s (.lcas f) f).a.val.toNat), cond := false } := by
  obtain ⟨hp, (hb : (issueOps s (.lcas f) f).addrPsn = none), hc⟩ := h
  rw [← poisonResult_val hold]
  refine issue_now hp ?_
  simp only [hb, issueClaim_lsCheck, issueOps_n, hc, issueClaim_lsWord]
  exact if_pos hold

theorem lcas_swap (h : Accessible s (.lcas f) f (issueOps s (.lcas f) f).a.val 4 true)
    (hold : (s.lsWord (here s) (issueOps s (.lcas f) f).a.val.toNat).psn = false)
    (heq : (s.lsWord (here s) (issueOps s (.lcas f) f).a.val.toNat).val = (issueOps s (.lcas f) f).b.val) :
    let o := issueOps s (.lcas f) f
    exec (.lcas f) s = .next (finishesAt s (.lcas f) f ((issueClaim s (.lcas f) f).setLsWord (here s) o.a.val.toNat o.d)
      (if o.d.psn then { dst := some o.d, cond := false }
       else { dst := some (s.lsWord (here s) o.a.val.toNat), cond := true })) := by
  intro o
  obtain ⟨hp, (hb : (issueOps s (.lcas f) f).addrPsn = none), hc⟩ := h
  simp only [here] at hold heq
  rw [← poisonResult_or]
  refine issue_now hp ?_
  simp only [hb, issueClaim_lsCheck, issueOps_n, hc, issueClaim_lsWord, hold, heq, decide_true, if_true, Bool.false_eq_true, if_false]
  rfl

theorem lcas_keep (h : Accessible s (.lcas f) f (issueOps s (.lcas f) f).a.val 4 true)
    (hold : (s.lsWord (here s) (issueOps s (.lcas f) f).a.val.toNat).psn = false)
    (hne : (s.lsWord (here s) (issueOps s (.lcas f) f).a.val.toNat).val ≠ (issueOps s (.lcas f) f).b.val) :
    let o := issueOps s (.lcas f) f
    Completes s (.lcas f) f { dst := some (if o.d.psn then o.d else s.lsWord (here s) o.a.val.toNat), cond := false } := by
  intro o
  obtain ⟨hp, (hb : (issueOps s (.lcas f) f).addrPsn = none), hc⟩ := h
  simp only [here] at hold hne
  rw [apply_ite some, apply_ite (fun x => ({ dst := x, cond := false } : Result)), ← poisonResult_or]
  refine issue_now hp ?_
  simp only [hb, issueClaim_lsCheck, issueOps_n, hc, issueClaim_lsWord, hold, hne, decide_false, Bool.false_eq_true, if_false]
  rfl

/-! ## `LADD` (R130) -/

theorem ladd_poisonedAddress (hp : Passes s (.ladd f) f) (ha : (issueOps s (.ladd f) f).a.psn = true) :
    Completes s (.ladd f) f { dst := some (issueOps s (.ladd f) f).a, cond := false } := by
  rw [← poisonResult_val ha]
  exact issue_now hp (if_pos ha)

theorem ladd_fails {fi : FaultInfo} (hp : Passes s (.ladd f) f) (ha : (issueOps s (.ladd f) f).a.psn = false)
    (hc : s.lsCheck s.cur.node (issueOps s (.ladd f) f).a.val 4 true 0 = some fi) :
    exec (.ladd f) s = .next (failsAt s (.ladd f) f fi) :=
  issue_error hp (by simp only [ha, issueClaim_lsCheck, issueOps_n, hc, Bool.false_eq_true, if_false])

theorem ladd_poisonedAddend (hp : Passes s (.ladd f) f) (ha : (issueOps s (.ladd f) f).a.psn = false)
    (hc : s.lsCheck s.cur.node (issueOps s (.ladd f) f).a.val 4 true 0 = none) (hb : (issueOps s (.ladd f) f).b.psn = true) :
    let o := issueOps s (.ladd f) f
    exec (.ladd f) s = .next (finishesAt s (.ladd f) f ((issueClaim s (.ladd f) f).setLsWord (here s) o.a.val.toNat o.b)
      { dst := some o.b, cond := false }) := by
  intro o
  rw [← poisonResult_val hb]
  refine issue_now hp ?_
  simp only [ha, issueClaim_lsCheck, issueOps_n, hc, hb, Bool.false_eq_true, if_false, if_true]
  rfl

theorem ladd_poisonedWord (h : Accessible s (.ladd f) f (issueOps s (.ladd f) f).a.val 4 true)
    (hold : (s.lsWord (here s) (issueOps s (.ladd f) f).a.val.toNat).psn = true) :
    Completes s (.ladd f) f { dst := some (s.lsWord (here s) (issueOps s (.ladd f) f).a.val.toNat), cond := false } := by
  obtain ⟨hp, hbad, hc⟩ := h
  obtain ⟨ha, hb⟩ := addrPsn_eq_none_iff.mp hbad
  rw [← poisonResult_val hold]
  refine issue_now hp ?_
  simp only [ha, issueClaim_lsCheck, issueOps_n, hc, hb, issueClaim_lsWord, Bool.false_eq_true, if_false]
  exact if_pos hold

theorem ladd_add (h : Accessible s (.ladd f) f (issueOps s (.ladd f) f).a.val 4 true)
    (hold : (s.lsWord (here s) (issueOps s (.ladd f) f).a.val.toNat).psn = false) :
    let o := issueOps s (.ladd f) f
    let old := s.lsWord (here s) o.a.val.toNat
    exec (.ladd f) s = .next (finishesAt s (.ladd f) f
      ((issueClaim s (.ladd f) f).setLsWord (here s) o.a.val.toNat (PWord.clean (old.val + o.b.val)))
      { dst := some old, cond := decide (old.val + o.b.val ≠ 0) }) := by
  intro o old
  obtain ⟨hp, hbad, hc⟩ := h
  obtain ⟨ha, hb⟩ := addrPsn_eq_none_iff.mp hbad
  refine issue_now hp ?_
  simp only [ha, issueClaim_lsCheck, issueOps_n, hc, hb, issueClaim_lsWord, Bool.false_eq_true, if_false]
  exact if_neg (Bool.eq_false_iff.mp hold)

end Sys2Proof.Machine

namespace Sys2Proof.Proofs
open Sys2Proof.Machine Sys2Proof.Claims

/-- Settles O2: each opcode by its checks, by the poison of its operands and by what stands in the word. -/
theorem localStoreSpecials : Obligations.LocalStoreSpecials := by
  intro s f e ldc cas add
  exact ⟨ldc_in, fun hc hn => ⟨_, ldc_out hc hn, rfl⟩, ldP_done, stP_done, fun _ => lcas_fails,
    fun h => ⟨lcas_poisonedWord h, lcas_swap h, lcas_keep h⟩, fun _ => lcas_poisonedAddress,
    ladd_poisonedAddress, fun _ => ladd_fails, ladd_poisonedAddend, fun h => ⟨ladd_poisonedWord h, ladd_add h⟩⟩

end Sys2Proof.Proofs
end

section
/-! PROOF. The token instructions and the word that `HEAD` reports (O3; R131-R137). -/

namespace Sys2Proof.Machine
open Sys2Proof.Claims

variable {s : State} {i : Instr} {f : Fields} {nd : Node} {k : BitVec 2} {kind fmt : BitVec 3} {v : PWord}

/-! ## Tokens -/

/-- A token of a clean value. -/
theorem tokenResult_clean (hv : v.psn = false) : tokenResult kind fmt v true = { dst := some v, kind := kind, fmt := fmt } := by
  rw [tokenResult, hv]
  rfl

theorem emit_done (hc : Clean s (.emit f) f) : Completes s (.emit f) f
    { dst := some (PWord.clean (if f.imm.extractLsb' 3 3 = 1 then (issueOps s (.emit f) f).a.val &&& 0xFF else (issueOps s (.emit f) f).a.val)),
      kind := f.imm.extractLsb' 3 3, fmt := f.imm.extractLsb' 0 3 } := by
  obtain ⟨ha, -, -⟩ := psn_eq_none_iff.mp hc.2
  have hv : (if f.imm.extractLsb' 3 3 = 1 then PWord.clean ((issueOps s (.emit f) f).a.val &&& 0xFF) else (issueOps s (.emit f) f).a) =
      PWord.clean (if f.imm.extractLsb' 3 3 = 1 then (issueOps s (.emit f) f).a.val &&& 0xFF else (issueOps s (.emit f) f).a.val) := by
    rw [apply_ite PWord.clean, clean_val ha]
  rw [← hv, ← tokenResult_clean (by rw [hv]; rfl)]
  refine issue_now hc.1 ?_
  simp only [ha, and_true]
  rfl

theorem stop_done (hc : Clean s (.stop f) f) : Completes s (.stop f) f
    { dst := some (issueOps s (.stop f) f).a, kind := BitVec.ofNat 3 (f.imm.toNat % 4 + 1) } := by
  obtain ⟨ha, -, -⟩ := psn_eq_none_iff.mp hc.2
  rw [← tokenResult_clean (fmt := 0) ha]
  exact issue_now hc.1 rfl

/-! ## The head of a channel (R133) -/

theorem channel_of_code {c : BitVec 5} (hk : c.toNat = 16 + k.toNat) : BitVec.ofNat 2 (c.toNat - 16) = k := by
  rw [hk, Nat.add_sub_cancel_left, BitVec.ofNat_toNat, BitVec.setWidth_eq]

/-- The head that a token instruction forwards is that of the channel which SA names. -/
theorem headA_eq (hk : f.sa.toNat = 16 + k.toNat) : (issueOps s i f).headA = (((s.nd s.cur.node).ciq k).head?).getD {} := by
  have hlt := k.isLt
  rw [Opnds.headA, issueOps_f, ciCode_eq_some (by omega), channel_of_code hk, issueOps_nd]
  rfl

/-- Its payload is what SA reads. -/
theorem operand_eq_payload (hk : f.sa.toNat = 16 + k.toNat) (hne : (s.nd s.cur.node).ciq k ≠ []) (hpsn : (operand s f f.sa).psn = false) :
    operand s f f.sa = PWord.clean ((((s.nd s.cur.node).ciq k).head?).getD {}).payload := by
  have hlt := k.isLt
  obtain ⟨t, q, hq⟩ := List.exists_cons_of_ne_nil hne
  have hread : operand s f f.sa = tokenValue t := by
    rw [operand_eq_readCode, readCode]
    simp only [if_neg (show ¬f.sa.toNat < 16 by omega), ciCode_eq_some (c := f.sa) (by omega), channel_of_code hk, hq]
    rfl
  rw [hread] at hpsn ⊢
  rw [hq]
  exact (clean_val hpsn).symm

/-- A token instruction that forwards the head, with its FMT as `fmtOf` changes it. -/
theorem forwards_head {fmtOf : Token → BitVec 3} {body : Opnds → State → Except FaultInfo (State × Done)} (hx : exec i s = issue i f s body)
    (hbody : body (issueOps s i f) (issueClaim s i f) = .ok (issueClaim s i f, .now (tokenResult (issueOps s i f).headA.kind
      (fmtOf (issueOps s i f).headA) (issueOps s i f).a true)))
    (hread : (issueOps s i f).a = operand s f f.sa) (hk : f.sa.toNat = 16 + k.toNat) (hne : (s.nd s.cur.node).ciq k ≠ []) (hc : Clean s i f) :
    let t := (((s.nd s.cur.node).ciq k).head?).getD {}
    Completes s i f { dst := some (PWord.clean t.payload), kind := t.kind, fmt := fmtOf t } := by
  intro t
  obtain ⟨ha, -, -⟩ := psn_eq_none_iff.mp hc.2
  rw [headA_eq hk] at hbody
  rw [← operand_eq_payload hk hne (hread ▸ ha), ← hread, ← tokenResult_clean ha]
  exact hx.trans (issue_now hc.1 hbody)

theorem tagfFmt_eq (t : Token) (low : BitVec 3) :
    tagfFmt t low = if t.kind = 0 ∨ (t.kind = 1 ∧ (low = 4 ∨ low = 5 ∨ low = 6)) then low else t.fmt := by
  have hlow : (4 ≤ low.toNat ∧ low.toNat ≤ 6) ↔ (low = 4 ∨ low = 5 ∨ low = 6) := by
    simp only [← BitVec.toNat_inj]
    change _ ↔ low.toNat = 4 ∨ low.toNat = 5 ∨ low.toNat = 6
    omega
  simp only [tagfFmt, hlow, kindData, kindScale, ite_or]

/-! ## `SCLO` and `HEAD` (R135, R136) -/

theorem sclo_done (hc : Clean s (.sclo f) f) :
    let low := f.imm.extractLsb' 0 3
    let e := scaleOf low.toNat (fmtFp32.decode (issueOps s (.sclo f) f).fz (issueOps s (.sclo f) f).a.val.toNat)
    Completes s (.sclo f) f { dst := some (PWord.clean (BitVec.ofNat 32 e)), kind := 1, fmt := low, cond := decide (e ≠ 255) } := by
  intro low e
  obtain ⟨ha, -, -⟩ := psn_eq_none_iff.mp hc.2
  exact issue_now hc.1 (if_neg (Bool.eq_false_iff.mp ha))

theorem headCond_eq (w : Word) :
    headCond f w = if f.imm.getLsbD 2 then decide (w.toNat / 65536 % 8 < 2) else w.getLsbD 6 := by
  rw [headCond, bitsNat_eq_field]
  rfl

theorem head_done (hp : Passes s (.head f) f) : Completes s (.head f) f
    { dst := some (PWord.clean s.cur.head),
      cond := if f.imm.getLsbD 2 then decide (s.cur.head.toNat / 65536 % 8 < 2) else s.cur.head.getLsbD 6 } := by
  rw [← headCond_eq]
  exact issue_now hp rfl

/-- The number of the word that `HEAD` writes for an input channel, field by field (R136). -/
def headInNat (nd : Node) (k : BitVec 2) : Nat :=
  (nd.ciq k).length * 2 ^ 16 + (nd.seqAt k).toNat * 2 ^ 8 + (ccLv (nd.ccfgAt k)).toNat * 2 ^ 7 + (decide (nd.ciq k ≠ [])).toNat * 2 ^ 6 +
    (((nd.ciq k).head?).getD {}).fmt.toNat * 2 ^ 3 + (((nd.ciq k).head?).getD {}).kind.toNat

theorem headIn_eq (nd : Node) (k : BitVec 2) : headIn nd k = BitVec.ofNat 32 (headInNat nd k) := by
  rw [headIn, headInNat]
  cases ccLv (nd.ccfgAt k) <;> by_cases h : nd.ciq k = [] <;> simp [h]

theorem decide_toNat_eq_one (c : Bool) : decide (c.toNat = 1) = c := by
  cases c <;> rfl

theorem headIn_fields (nd : Node) (k : BitVec 2) :
    let w := headIn nd k
    ((nd.ciq k).length ≤ 4 → w.toNat / 65536 = (nd.ciq k).length) ∧ w.toNat / 256 % 256 = (nd.seqAt k).toNat ∧
      w.getLsbD 7 = ccLv (nd.ccfgAt k) ∧ w.getLsbD 6 = decide (nd.ciq k ≠ []) ∧
      w.extractLsb' 3 3 = (((nd.ciq k).head?).getD {}).fmt ∧ w.extractLsb' 0 3 = (((nd.ciq k).head?).getD {}).kind := by
  intro w
  have hw : w.toNat = headInNat nd k % 2 ^ 32 := by rw [← BitVec.toNat_ofNat, ← headIn_eq]
  have hseq := (nd.seqAt k).isLt
  have hfmt := (((nd.ciq k).head?).getD {}).fmt.isLt
  have hkind := (((nd.ciq k).head?).getD {}).kind.isLt
  have hlv := Bool.toNat_le (ccLv (nd.ccfgAt k))
  have hpres := Bool.toNat_le (decide (nd.ciq k ≠ []))
  rw [headInNat] at hw
  refine ⟨fun hlen => by omega, by omega, ?_, ?_, ?_, ?_⟩
  · have h7 : w.toNat / 2 ^ 7 % 2 = (ccLv (nd.ccfgAt k)).toNat := by omega
    rw [BitVec.getLsbD, Nat.testBit_eq_decide_div_mod_eq, h7, decide_toNat_eq_one]
  · have h6 : w.toNat / 2 ^ 6 % 2 = (decide (nd.ciq k ≠ [])).toNat := by omega
    rw [BitVec.getLsbD, Nat.testBit_eq_decide_div_mod_eq, h6, decide_toNat_eq_one]
  · apply BitVec.eq_of_toNat_eq
    rw [BitVec.extractLsb'_toNat, Nat.shiftRight_eq_div_pow]
    omega
  · apply BitVec.eq_of_toNat_eq
    rw [BitVec.extractLsb'_toNat, Nat.shiftRight_eq_div_pow]
    omega

theorem headSeen_eq {j : Nat} (hj : nd.ncfg.getLsbD j = true) (hd : decode (nd.slotWord j) = .ok (.head f)) : headSeen nd j = headWord nd f := by
  have hs : slotInstr nd j = some (.head f) := by
    rw [slotInstr, decode?, hd]
    exact if_pos hj
  rw [headSeen, hs]

end Sys2Proof.Machine

namespace Sys2Proof.Proofs
open Sys2Proof.Machine Sys2Proof.Claims

/-- Settles O3: each opcode by the token, the word or the condition that it gives. -/
theorem tokenInstructions : Obligations.TokenInstructions := by
  intro s f low high nd headOf
  have hhead : ∀ k : BitVec 2, f.sa.toNat = 16 + k.toNat → headOf f.sa = ((nd.ciq k).head?).getD {} := fun k hk => by
    simp only [headOf, channel_of_code hk]
  refine ⟨emit_done, stop_done, fun k hk hne hc => ?_, fun k hk hne hc => ?_, fun hp => issue_now hp rfl, sclo_done, head_done,
    fun hin => ?_, fun hout => ?_, fun j => headSeen_eq, gives_int rfl rfl⟩
  · rw [hhead k hk]
    exact forwards_head rfl rfl ((operands_of_shape (i := .fwd f) rfl nofun nofun).1 (.inr rfl)) hk hne hc
  · rw [hhead k hk, ← tagfFmt_eq]
    exact forwards_head (fmtOf := fun t => tagfFmt t low) rfl rfl ((operands_of_shape (i := .tagf f) rfl nofun nofun).1 (.inr rfl)) hk hne hc
  · have hw : headWord nd f = headIn nd (f.imm.extractLsb' 0 2) := if_neg (Bool.eq_false_iff.mp hin)
    rw [hw]
    exact headIn_fields nd _
  · exact if_pos hout

end Sys2Proof.Proofs
end

section
/-! PROOF. What an issue changes before S4, and how a transition of a parking class parks and ends (O32; R40-R43, R141, R143, R146). -/

namespace Sys2Proof.Machine
open Sys2Proof.Claims

variable {s : State} {n : NodeRef} {i : Instr} {f : Fields} {fl : InFlight} {r : Result} {due : Nat}

/-! ## The claims of S1 -/

/-- The mailboxes once S1 has claimed those that a transition reads and the one that it writes (R146). -/
def mboxClaimed (mb : Map Mbox) (reads : List Nat) (write : Option Nat) : Map Mbox :=
  let mb := reads.foldl (fun mb m => Map.modify mb {} m (fun x => { x with st := .empty })) mb
  match write with
  | some m => Map.modify mb {} m (fun x => { x with st := .pending })
  | none => mb

theorem claim_eq : claim s n i f = s.updEl n.elemRef (fun e =>
    { e with mbox := mboxClaimed e.mbox (mboxReads s n i f) (mboxWrite i f) }) := rfl

theorem get_emptied {k : Nat} : ∀ (reads : List Nat) (mb : Map Mbox),
    Map.get (reads.foldl (fun mb m => Map.modify mb {} m (fun x => { x with st := .empty })) mb) {} k =
      if k ∈ reads then { Map.get mb {} k with st := .empty } else Map.get mb {} k
  | [], mb => by simp
  | j :: reads, mb => by
    rw [List.foldl_cons, get_emptied reads]
    by_cases hk : k = j
    · subst hk
      rw [Map.get_modify_self]
      simp
    · rw [Map.get_modify_ne _ _ hk]
      simp [hk]

theorem get_mboxClaimed {k : Nat} (hk : k < 4) (mb : Map Mbox) (reads : List Nat) :
    Map.get (mboxClaimed mb reads (mboxWrite i f)) {} k =
      if writesDst i = true ∧ f.dst.toNat = 24 + k then { Map.get mb {} k with st := .pending }
      else if k ∈ reads then { Map.get mb {} k with st := .empty } else Map.get mb {} k := by
  unfold mboxClaimed
  dsimp only
  cases hm : mboxWrite i f with
  | none =>
    rw [if_neg (fun h => by rw [mboxWrite_eq_some_iff.mpr ⟨h.1, hk, h.2⟩] at hm; cases hm)]
    exact get_emptied _ _
  | some j =>
    obtain ⟨hw, -, hj⟩ := mboxWrite_eq_some_iff.mp hm
    dsimp only
    by_cases hkj : k = j
    · subst hkj
      have hd : writesDst i = true ∧ f.dst.toNat = 24 + k := ⟨hw, hj⟩
      rw [Map.get_modify_self, if_pos hd, get_emptied]
      split <;> rfl
    · have hd : ¬(writesDst i = true ∧ f.dst.toNat = 24 + k) := fun h => hkj (by omega)
      rw [Map.get_modify_ne _ _ hkj, if_neg hd, get_emptied]

/-- The issuing node's element after an issue: its mailboxes claimed, and held where the instruction holds it (R141, R146). -/
theorem issueClaim_el_self : (issueClaim s i f).el (here s) = { s.el (here s) with
    mbox := mboxClaimed (s.el (here s)).mbox (mboxReads s.atIssue s.cur.node i f) (mboxWrite i f)
    holdUntil := if holds i = true then s.cycle + 4 else (s.el (here s)).holdUntil
    lastHold := if holds i = true then some (s.cycle + 3) else (s.el (here s)).lastHold } := by
  have hc : (claim s.atIssue s.cur.node i f).el (here s) = { s.el (here s) with
      mbox := mboxClaimed (s.el (here s)).mbox (mboxReads s.atIssue s.cur.node i f) (mboxWrite i f) } := by
    rw [claim_eq, State.updEl, here, State.el_setEl_self, atIssue_el]
  unfold issueClaim holdElement
  split
  · rw [claim_cur, atIssue_cur, State.updEl, ← here, State.el_setEl_self, hc]
    rfl
  · exact hc

theorem nodesAndElems_issueClaim : NodesAndElems s (issueClaim s i f) := by
  unfold issueClaim holdElement
  split <;> rfl

/-! ## The stages of a long operation -/

/-- Where no fault waits for a transition, none is taken at the end of its cycle. -/
theorem lateFault_of_none (h : (s.nd n).later = none) : lateFault s n = s := by
  rw [lateFault, h]

/-- A transition of a parking class parks its node in its S3, where it is in RUN (R42). -/
theorem parkInS3_of_due (hfl : (s.nd n).flight = some fl) (hst : (s.nd n).st = .run) (hp : fl.parks = true)
    (hc : s.cycle = fl.issued + 2) : parkInS3 s n = s.updNd n (fun nd => { nd with st := .parked }) := by
  simp [parkInS3, hfl, hst, hp, hc]

theorem parkInS3_of_ne (hfl : (s.nd n).flight = some fl) (hc : s.cycle ≠ fl.issued + 2) : parkInS3 s n = s := by
  simp [parkInS3, hfl, Ne.symm hc]

/-- A long operation reaches no stage before its last cycle (R41). -/
theorem stageOf_long_early (hw : fl.why = .long due r) (hd : s.cycle < due) : stageOf s n fl f = s := by
  simp only [stageOf, hw, if_neg (Nat.not_le.mpr hd)]

/-- A long operation completes in its last cycle (R43). -/
theorem settleNode_long_due (hfl : (s.nd n).flight = some fl) (hf : fl.instr.fields = some f) (hw : fl.why = .long due r)
    (hd : due ≤ s.cycle) : settleNode s n = finish s n r := by
  have hs : stageOf s n fl f = finish s n r := by simp only [stageOf, hw, if_pos hd]
  rw [settleNode_of_flight hfl hf, hs]
  exact stages_of_idle (finish_flight hfl hf)

theorem longOperationComplete_early (hfl : (s.nd n).flight = some fl) (hw : fl.why = .long due r) (hd : s.cycle < due) :
    exec (.longOperationComplete n) s = .next s := by
  simp only [exec, execLongOperationComplete, hfl, hw, if_neg (Nat.not_le.mpr hd)]

theorem longOperationComplete_due (hfl : (s.nd n).flight = some fl) (hw : fl.why = .long due r) (hd : due ≤ s.cycle)
    (hc : fl.issued + 3 ≤ s.cycle) : exec (.longOperationComplete n) s =
      .next (s.updNd n (fun nd => { nd with flight := some { fl with why := .s4 s.cycle (.done r) } })) := by
  simp only [exec, execLongOperationComplete, hfl, hw, if_pos hd, complete, State.updNd, Option.map_some, Nat.max_eq_left hc]

end Sys2Proof.Machine

namespace Sys2Proof.Proofs
open Sys2Proof.Machine Sys2Proof.Claims

/-- The issue notes itself in its node, claims mailboxes and holds the element (R40, R141, R146). -/
theorem frameOfTheIssue : FrameOfTheIssue := by
  intro s i f _ _ t
  refine ⟨issueClaim_nd_self, fun n hn => issueClaim_nd_ne hn, fun e he => issueClaim_el_ne he,
    ⟨_, _, _, issueClaim_el_self, fun m hm => get_mboxClaimed hm _ _, fun hh => ?_, fun hh => ?_⟩, nodesAndElems_issueClaim⟩
  · exact ⟨if_pos hh, if_pos hh⟩
  · exact ⟨if_neg (Bool.eq_false_iff.mp hh), if_neg (Bool.eq_false_iff.mp hh)⟩

/-- A long operation parks in its S3, waits, and completes in the cycle it was given (R41-R43, R143). -/
theorem longOperationsComplete : LongOperationsComplete := by
  intro s n fl f due r hfl hw hf hl
  refine ⟨longOperationComplete_early hfl hw, longOperationComplete_due hfl hw, fun hd hst hp hc => ?_, fun hd hc => ?_, fun hd => ?_⟩
  · rw [settleNode_of_flight hfl hf, stageOf_long_early hw hd, parkInS3_of_due hfl hst hp hc]
    exact lateFault_of_none (by simpa using hl)
  · rw [settleNode_of_flight hfl hf, stageOf_long_early hw hd, parkInS3_of_ne hfl hc, lateFault_of_none hl]
  · exact (settleNode_long_due hfl hf hw hd).trans (finish_eq_commit hfl hf hl)

/-- Settles O32: the frame of the issue, and the park and the end of long operations. -/
theorem frameOfTheIssueAndLongOperations : Obligations.FrameOfTheIssueAndLongOperations := ⟨frameOfTheIssue, longOperationsComplete⟩

end Sys2Proof.Proofs
end

section
/-! PROOF. What an element notes of an issue, that what it issues is ready, and the rotation of its nodes (O34; R34, R35, R40, R139,
R188, R265, R340). -/

namespace Sys2Proof.Machine
open Sys2Proof.Claims

variable {s : State} {n : NodeRef} {e x : ElemRef} {i : Instr} {f : Fields} {nd : Node} {k : Nat} {p : Cursor}

/-! ## The note of an issue -/

@[simp] theorem touchRegion_cycle : (touchRegion s e).cycle = s.cycle := by
  unfold touchRegion
  split <;> rfl

@[simp] theorem touchRegion_el : (touchRegion s e).el x = s.el x := by
  unfold touchRegion
  split <;> rfl

/-- A firing is noted in the course that holds the element, and in no other (R265). -/
theorem touchRegion_rg (r : Nat) : (touchRegion s e).rg r =
    if (s.el e).region = some r then { s.rg r with fired := true } else s.rg r := by
  unfold touchRegion
  split
  · next q hq =>
    rw [State.updRg]
    by_cases h : r = q
    · subst h
      rw [State.rg_setRg_self, if_pos hq]
    · rw [State.rg_setRg_ne _ _ h, if_neg (fun hr => h (Option.some.inj (hr.symm.trans hq)))]
  · next hq => rw [if_neg (fun hr => nomatch hr.symm.trans hq)]

theorem touchRegion_frame : touchRegion s e = { s with region := (touchRegion s e).region } := by
  unfold touchRegion
  split <;> rfl

theorem noteIssue_el_self : (noteIssue s p i).el p.node.elemRef = { s.el p.node.elemRef with
    lastn := p.node.node
    lsAt := some s.cycle
    lsBanks := localBanks { s with cur := p } p.node i
    pipeAt := if isPipe i then some s.cycle else (s.el p.node.elemRef).pipeAt } := by
  rw [noteIssue, State.updEl, State.el_setEl_self, touchRegion_el, touchRegion_cycle]
  rfl

theorem noteIssue_el_ne (h : e ≠ p.node.elemRef) : (noteIssue s p i).el e = s.el e := by
  rw [noteIssue, State.updEl, State.el_setEl_ne _ _ h, touchRegion_el]
  rfl

theorem noteIssue_rg (r : Nat) : (noteIssue s p i).rg r =
    if (s.el p.node.elemRef).region = some r then { s.rg r with fired := true } else s.rg r := by
  rw [noteIssue, State.updEl, State.rg_setEl, touchRegion_rg]
  rfl

theorem noteIssue_frame : noteIssue s p i =
    { s with
      cur := (noteIssue s p i).cur
      elem := (noteIssue s p i).elem
      region := (noteIssue s p i).region } := by
  rw [noteIssue, touchRegion_frame]
  rfl

theorem noteIssue_cur : (noteIssue s p i).cur = p := by
  rw [noteIssue, touchRegion_frame]
  rfl

/-! ## The choice of a slot -/

/-- A slot of a node is one that its element may issue, or holds no instruction (R35). -/
def issuable (s : State) (n : NodeRef) (k : Nat) : Bool :=
  slotBroken (s.nd n) k || (match slotInstr (s.nd n) k with
    | some i => ready s n i
    | none => false)

theorem readySlot_eq : readySlot s n = (slotOrder (s.nd n)).find? (issuable s n) := rfl

/-- An enabled slot may issue where its instruction is ready (R34). -/
theorem issuable_of_enabled (hk : (s.nd n).ncfg.getLsbD k = true) (hd : decode ((s.nd n).slotWord k) = .ok i) :
    issuable s n k = ready s n i := by
  have hi : decode? ((s.nd n).slotWord k) = some i := by rw [decode?, hd]
  have hb : slotBroken (s.nd n) k = false := by rw [slotBroken, hi, Option.isNone_some, Bool.and_false]
  have hs : slotInstr (s.nd n) k = some i := by rw [slotInstr, hi, bitAt, if_pos hk]
  simp only [issuable, hb, hs, Bool.false_or]

theorem enabled_of_issuable (h : issuable s n k = true) : (s.nd n).ncfg.getLsbD k = true := by
  by_contra hk
  rw [Bool.not_eq_true] at hk
  simp [issuable, slotBroken, slotInstr, bitAt, hk] at h

/-- Slots are judged by number, the preferred one before them (R35, R235). -/
theorem lt_of_mem_slotOrder (h : k ∈ slotOrder nd) : k < 16 := by
  unfold slotOrder at h
  split at h
  · next j _ =>
    rcases List.mem_cons.mp h with rfl | h
    · exact j.isLt
    · exact List.mem_range.mp h
  · exact List.mem_range.mp h

theorem slotOrder_of_none (h : nd.prefer = none) : slotOrder nd = List.range 16 := by
  rw [slotOrder, h]

/-- Where no slot is preferred, none below the one that issues may issue (R35). -/
theorem not_issuable_below (hp : (s.nd n).prefer = none) (h : readySlot s n = some k) : ∀ j < k, issuable s n j = false := by
  rw [readySlot_eq, slotOrder_of_none hp, List.find?_range_eq_some] at h
  intro j hj
  simpa using h.2.2 j hj

/-! ## The choice of a node -/

/-- The node that an element looks at in its turn `j`, from the one after LASTN on (R139). -/
def nodeInTurn (s : State) (e : ElemRef) (j : Nat) : NodeRef := e.nodeRef ((s.el e).lastn + BitVec.ofNat 4 (j + 1))

/-- What an element issues of one node, if it can (R139). -/
def issueOf (s : State) (n : NodeRef) : Option (NodeRef × Nat) :=
  if eligible s n then (readySlot s n).map (fun k => (n, k)) else none

theorem issueOf_eq_some {m : NodeRef} : issueOf s m = some (n, k) ↔ n = m ∧ eligible s m = true ∧ readySlot s m = some k := by
  unfold issueOf
  split
  · next h => simp [h, and_comm, eq_comm]
  · next h => simp [h]

theorem issueOf_eq_none {m : NodeRef} : issueOf s m = none ↔ eligible s m = false ∨ readySlot s m = none := by
  unfold issueOf
  split
  · next h => simp [h]
  · next h => simp [h]

theorem select_eq : select s e = (List.range 16).findSome? (fun j => issueOf s (nodeInTurn s e j)) := by
  rw [select, List.findSome?_map]
  rfl

/-- The first number below a bound at which a search finds something. -/
theorem findSome?_range {α : Type} {g : Nat → Option α} {b : α} {m : Nat} (h : (List.range m).findSome? g = some b) :
    ∃ j, j < m ∧ g j = some b ∧ ∀ y, y < j → g y = none := by
  obtain ⟨before, j, after, hl, hj, hbefore⟩ := List.findSome?_eq_some_iff.mp h
  rw [List.range_eq_range'] at hl
  obtain ⟨c, -, rfl, hafter⟩ := List.range'_eq_append_iff.mp hl
  obtain ⟨hcj, hpos, -⟩ := List.range'_eq_cons_iff.mp hafter.symm
  refine ⟨j, by omega, hj, fun y hy => hbefore y ?_⟩
  rw [List.mem_range'_1]
  omega

/-- The first node in turn that can issue does (R139). -/
theorem select_eq_some (h : select s e = some (n, k)) : ∃ j, j < 16 ∧ n = nodeInTurn s e j ∧ eligible s n = true ∧ readySlot s n = some k ∧
    ∀ y, y < j → eligible s (nodeInTurn s e y) = false ∨ readySlot s (nodeInTurn s e y) = none := by
  rw [select_eq] at h
  obtain ⟨j, hj, hfound, hbefore⟩ := findSome?_range h
  obtain ⟨rfl, he, hr⟩ := issueOf_eq_some.mp hfound
  exact ⟨j, hj, rfl, he, hr, fun y hy => issueOf_eq_none.mp (hbefore y hy)⟩

/-- Each node of an element has its turn by its distance from LASTN. -/
theorem nodeRef_eq_nodeInTurn (m : BitVec 4) : e.nodeRef m = nodeInTurn s e (m - (s.el e).lastn - 1).toNat := by
  rw [nodeInTurn]
  congr 1
  bv_omega

theorem turn_of_nodeInTurn {j : Nat} (hj : j < 16) : ((nodeInTurn s e j).node - (s.el e).lastn - 1).toNat = j := by
  rw [nodeInTurn, ElemRef.nodeRef]
  bv_omega

/-- What lets a node issue (R40, R139, R157). -/
theorem eligible_iff : eligible s n = true ↔ (s.nd n).st = .run ∧ ((s.nd n).flight = none ∧ (s.nd n).nextAt ≤ s.cycle) ∧
    (s.domEntry n.elemRef (domOf (s.nd n))).getLsbD 61 = false ∧ (s.el n.elemRef).holdUntil ≤ s.cycle := by
  simp only [eligible, busy, entSusp, bitAt, Bool.and_eq_true, decide_eq_true_eq, Bool.not_eq_true', Bool.or_eq_false_iff,
    decide_eq_false_iff_not, Nat.not_lt, Option.isSome_eq_false_iff, Option.isNone_iff_eq_none, and_assoc]

/-! ## Readiness -/

/-- The conditions that every opcode shares, one by one (R34). -/
theorem commonReady_iff : commonReady s n i f = true ↔ (s.nd n).p &&& f.pmask = f.pval ∧ chanTest (s.nd n) f.cha f.ka = true ∧
    chanTest (s.nd n) f.chb f.kb = true ∧ (∀ c ∈ readCodes s n i f, ∀ j, ciCode c = some j → (s.nd n).ciq j ≠ []) ∧
    (∀ j, writesDst i = true → coCode f.dst = some j → coSpace s n j = true) ∧ mboxReady s n i f = true := by
  have hco : (if writesDst i = true then coCode f.dst else none).toList.all (fun k => coSpace s n k) = true ↔
      ∀ j, writesDst i = true → coCode f.dst = some j → coSpace s n j = true := by
    cases writesDst i <;> simp
  simp only [commonReady, Bool.and_eq_true, decide_eq_true_eq, List.all_eq_true, List.forall_mem_filterMap, hco, and_assoc]

theorem commonReady_of_ready (h : ready s n i = true) (hf : i.fields = some f) : commonReady s n i f = true := by
  simp only [ready, hf, Bool.and_eq_true] at h
  exact h.1.1

/-- A channel test that holds finds a head of a kind that meets it (R33, R34). -/
theorem head_of_chanTest {c q : BitVec 3} (h : chanTest nd c q = true) (hc : c.toNat < 4) :
    ∃ x, (Map.get nd.ci [] c.toNat).head?.map Token.kind = some x ∧ (q = 7 ∨ x = q) := by
  have hk : (BitVec.ofNat 2 c.toNat).toNat = c.toNat := by simp; omega
  simp only [chanTest, chanCode_eq_some hc, Node.ciq, hk] at h
  split at h
  · cases h
  · next t ht =>
    rw [Bool.or_eq_true, decide_eq_true_eq, decide_eq_true_eq] at h
    exact ⟨t.kind, by rw [ht]; rfl, h⟩

theorem length_of_coSpace {j : BitVec 2} (h : coSpace s n j = true) : ((s.nd n).coq j).length < 2 := by
  simp only [coSpace, Bool.and_eq_true, decide_eq_true_eq] at h
  exact h.1

/-- The mailboxes of a ready slot that its domain owns are in the state that it needs (R34, R146, R147). -/
theorem mboxReady_iff : mboxReady s n i f = true ↔
    (∀ m ∈ mboxReads s n i f, (s.el n.elemRef).owns (domOf (s.nd n)) (.mbox m) = true → (Map.get (s.el n.elemRef).mbox {} m).st = .full) ∧
    (∀ m, mboxWrite i f = some m → (s.el n.elemRef).owns (domOf (s.nd n)) (.mbox m) = true →
      (Map.get (s.el n.elemRef).mbox {} m).st = .empty) := by
  simp only [mboxReady, Bool.and_eq_true, List.all_eq_true, Option.mem_toList, Bool.or_eq_true, Bool.not_eq_true', decide_eq_true_eq,
    or_iff_not_imp_left, Bool.not_eq_false]

end Sys2Proof.Machine

namespace Sys2Proof.Proofs
open Sys2Proof.Machine Sys2Proof.Claims

/-- The note of an issue, in the element, its course and nowhere else (R139, R188, R265, R340). -/
theorem issueIsNoted : IssueIsNoted := by
  intro s p i n t
  exact ⟨noteIssue_cur, noteIssue_el_self, fun e he => noteIssue_el_ne he, noteIssue_rg, noteIssue_frame⟩

/-- A slot that is chosen is enabled and ready, and the lowest such of its node (R34, R35, R40, R139). -/
theorem onlyReadySlotsIssue : OnlyReadySlotsIssue := by
  intro s e n k i f hsel hdec hf nd kindAt
  obtain ⟨j, -, hn, heligible, hslot, -⟩ := select_eq_some hsel
  obtain ⟨hrun, ⟨hidle, hnext⟩, hsusp, -⟩ := eligible_iff.mp heligible
  have hissuable : issuable s n k = true := List.find?_some hslot
  have hen := enabled_of_issuable hissuable
  have hready : ready s n i = true := (issuable_of_enabled hen hdec).symm.trans hissuable
  obtain ⟨hguard, hcha, hchb, hci, hco, hmb⟩ := commonReady_iff.mp (commonReady_of_ready hready hf)
  obtain ⟨hfull, hempty⟩ := mboxReady_iff.mp hmb
  obtain rfl : n.elemRef = e := by rw [hn]; rfl
  refine ⟨rfl, lt_of_mem_slotOrder (List.mem_of_find?_eq_some hslot), hrun, hidle, hnext, hen, hsusp, hguard, head_of_chanTest hcha,
    head_of_chanTest hchb, fun c hc h16 h20 => ?_, fun j hw hd => ?_, hfull, hempty, fun hpref j hj i' henj hdecj => ?_⟩
  · have hk : (BitVec.ofNat 2 (c.toNat - 16)).toNat = c.toNat - 16 := by simp; omega
    have h := hci c hc _ (ciCode_eq_some ⟨h16, h20⟩)
    rwa [Node.ciq, hk] at h
  · exact length_of_coSpace (hco j hw (coCode_eq_some_iff.mpr hd))
  · rw [← issuable_of_enabled henj hdecj]
    exact not_issuable_below hpref hslot j hj

/-- The nodes before the one that issues, in the rotation from LASTN, could not (R139). -/
theorem nodesTakeTurns : NodesTakeTurns := by
  intro s e n k hsel m hm
  obtain ⟨j, hj, rfl, -, -, hbefore⟩ := select_eq_some hsel
  rw [turn_of_nodeInTurn hj] at hm
  rw [nodeRef_eq_nodeInTurn (s := s)]
  exact hbefore _ hm

/-- Settles O34: what is noted of an issue, that what issues is ready, and the rotation. -/
theorem nodesIssueInTurn : Obligations.NodesIssueInTurn := ⟨issueIsNoted, onlyReadySlotsIssue, nodesTakeTurns⟩

end Sys2Proof.Proofs
end

section
/-! SUPPORT. Gate entries in the words of the statements: their fields, the entry that a call and a return leave, and the session of a
callee (R158, R160, R161). -/

namespace Sys2Proof.Machine
open Sys2Proof.Claims

variable {s : State} {g w : Word} {e : Elem} {lo n lo' n' v : Nat}

/-! ## Fields -/

theorem toNat_bits (w : Word) (lo n : Nat) : (bits w lo n).toNat = field w lo n := by
  rw [bits, BitVec.extractLsb'_toNat, Nat.shiftRight_eq_div_pow, field]

theorem bits_eq_iff {x : BitVec n} : bits w lo n = x ↔ field w lo n = x.toNat := by
  rw [← BitVec.toNat_inj, toNat_bits]

theorem bits_eq_ofNat (w : Word) (lo n : Nat) : bits w lo n = BitVec.ofNat n (field w lo n) := by
  rw [bits_eq_iff, BitVec.toNat_ofNat, field, Nat.mod_mod]

theorem field_setBits_self (h : lo + n ≤ 32) : field (setBits w lo n v) lo n = v % 2 ^ n := by
  rw [← bitsNat_eq_field, bitsNat_setBits_self _ _ h]

theorem field_setBits_disjoint (h : lo' + n' ≤ lo ∨ lo + n ≤ lo') : field (setBits w lo n v) lo' n' = field w lo' n' := by
  rw [← bitsNat_eq_field, bitsNat_setBits_disjoint _ _ h, bitsNat_eq_field]

theorem bits_setBits_disjoint (h : lo' + n' ≤ lo ∨ lo + n ≤ lo') : bits (setBits w lo n v) lo' n' = bits w lo' n' := by
  rw [bits_eq_iff, field_setBits_disjoint h, toNat_bits]

/-- Bits that a mask leaves out do not show through it. -/
theorem setBits_and_mask {m : Word} (h : bitsNat m lo n = 0) : setBits w lo n v &&& m = w &&& m := by
  apply BitVec.eq_of_getLsbD_eq
  intro j _
  rw [BitVec.getLsbD_and, BitVec.getLsbD_and, getLsbD_setBits]
  split
  · next hj =>
    have hm : m.getLsbD j = false := by
      have hb := testBit_bitsNat m lo n (j - lo)
      rw [h, Nat.zero_testBit, Nat.add_sub_cancel' hj.1, decide_eq_true (by omega), Bool.true_and] at hb
      exact hb.symm
    rw [hm, Bool.and_false, Bool.and_false]
  · rfl

theorem gateValid_iff : gateValid g = true ↔ field g 31 1 = 1 := (field_bit_one g 31).symm
theorem gateSsn_eq : gateSsn g = field g 29 2 := bitsNat_eq_field ..
theorem gateCnt_eq : gateCnt g = field g 0 4 := bitsNat_eq_field ..
theorem gateArgs_eq : gateArgs g = field g 8 3 := bitsNat_eq_field ..

@[simp] theorem gateAt_setGate_self (i : Nat) : (e.setGate i g).gateAt i = g := Map.get_set_self ..
theorem gateAt_setGate_ne {i j : Nat} (h : j ≠ i) : (e.setGate i g).gateAt j = e.gateAt j := Map.get_set_ne _ _ _ h

/-! ## The entry after a call -/

/-- The entry that an `LNTL` leaves at its issue: a session of its own where there was none, and one argument more (R160). -/
def calledGate (g : Word) (caller : BitVec 4) (k : BitVec 2) : Word :=
  let g := if gateSsn g = 0 then setBits (setBits (setBits g 29 2 1) 12 4 caller.toNat) 4 2 k.toNat else g
  setBits g 0 4 (gateCnt g + 1)

variable {c : BitVec 4} {k : BitVec 2}

/-- A call opens a session of the caller, on the channel that it names, where it may call (R160). -/
theorem calledGate_session (h : field g 29 2 = 0 ∨ (field g 29 2 = 1 ∧ field g 12 4 = c.toNat ∧ field g 4 2 = k.toNat)) :
    field (calledGate g c k) 29 2 = 1 ∧ field (calledGate g c k) 12 4 = c.toNat ∧ field (calledGate g c k) 4 2 = k.toNat := by
  have hc := c.isLt
  have hk := k.isLt
  unfold calledGate
  by_cases h0 : field g 29 2 = 0
  · simp (disch := omega) only [gateSsn_eq, if_pos h0, field_setBits_disjoint, field_setBits_self]
    omega
  · simp (disch := omega) only [gateSsn_eq, if_neg h0, field_setBits_disjoint]
    exact h.resolve_left h0

/-- A call counts its argument (R160). -/
theorem calledGate_count : field (calledGate g c k) 0 4 = (field g 0 4 + 1) % 16 := by
  unfold calledGate
  rw [field_setBits_self (by omega), gateCnt_eq]
  split
  · simp (disch := omega) only [field_setBits_disjoint]
    rfl
  · rfl

/-- A call leaves what names the gate's callee and its rules (R158). -/
theorem calledGate_and_mask : calledGate g c k &&& 0x9FFF0FC0 = g &&& 0x9FFF0FC0 := by
  unfold calledGate
  rw [setBits_and_mask (by decide)]
  split
  · rw [setBits_and_mask (by decide), setBits_and_mask (by decide), setBits_and_mask (by decide)]
  · rfl

/-! ## The entry after a return -/

/-- The entry that a `GRET` leaves while its replies stand on co[RET]: IDLE, with RDRN set and CNT 0 (R161). -/
def returnedGate (g : Word) : Word := setBits (setBits (setBits g 29 2 0) 0 4 0) 28 1 1

theorem returnedGate_fields : field (returnedGate g) 29 2 = 0 ∧ field (returnedGate g) 28 1 = 1 ∧ field (returnedGate g) 0 4 = 0 := by
  simp (disch := omega) only [returnedGate, field_setBits_disjoint, field_setBits_self]
  decide

theorem returnedGate_and_mask : returnedGate g &&& 0x8FFFFFF0 = g &&& 0x8FFFFFF0 := by
  rw [returnedGate, setBits_and_mask (by decide), setBits_and_mask (by decide), setBits_and_mask (by decide)]

/-! ## The session of a callee -/

/-- A gate is ACTIVE with a node as its callee (R161). -/
def ActiveWith (e : Elem) (n : BitVec 4) (j : Nat) : Prop :=
  field (e.gateAt j) 31 1 = 1 ∧ field (e.gateAt j) 24 4 = n.toNat ∧ field (e.gateAt j) 29 2 = 2

theorem activeWith_iff {n : BitVec 4} {j : Nat} :
    (gateValid (e.gateAt j) && decide (gateNode (e.gateAt j) = n) && decide (gateSsn (e.gateAt j) = 2)) = true ↔ ActiveWith e n j := by
  rw [Bool.and_eq_true, Bool.and_eq_true, decide_eq_true_eq, decide_eq_true_eq, gateValid_iff, gateNode, bits_eq_iff, gateSsn_eq, ActiveWith,
    and_assoc]

theorem activeGate_eq_some {n : BitVec 4} {j : Nat} (hj : j < 8) (h : ActiveWith e n j) (hlow : ∀ x, x < j → ¬ActiveWith e n x) :
    activeGate e n = some j := by
  rw [activeGate, List.find?_range_eq_some]
  refine ⟨activeWith_iff.mpr h, List.mem_range.mpr hj, fun x hx => ?_⟩
  rw [Bool.not_eq_true', Bool.eq_false_iff]
  exact fun hx' => hlow x hx (activeWith_iff.mp hx')

theorem activeGate_eq_none_iff {n : BitVec 4} : activeGate e n = none ↔ ∀ j, j < 8 → ¬ActiveWith e n j := by
  simp only [activeGate, List.find?_eq_none, List.mem_range, activeWith_iff]

/-- A token of the model in the words of the statements (R25, R39). -/
theorem tokenOf_plain (kind : BitVec 3) (a : PWord) :
    tokenOf kind 0 a = if a.psn then { kind := 6, payload := a.val } else { kind := kind, payload := a.val } := by
  rw [tokenOf, ite_self]
  rfl

end Sys2Proof.Machine
end

section
/-! PROOF. Calling a gate and returning from it (O13; R155, R158-R161). -/

namespace Sys2Proof.Machine
open Sys2Proof.Claims

variable {s : State} {n c : NodeRef} {i : Instr} {f : Fields} {last : Bool} {a b d : PWord} {ws : List PWord}

/-! ## The issue of a call -/

@[simp] theorem issueClaim_gateAt (e : ElemRef) (j : Nat) : ((issueClaim s i f).el e).gateAt j = (s.el e).gateAt j := by
  rw [Elem.gateAt, issueClaim_gate, Elem.gateAt]

@[simp] theorem issueClaim_st (m : NodeRef) : ((issueClaim s i f).nd m).st = (s.nd m).st := by
  obtain ⟨_, _, _, h⟩ := issueClaim_nd_eq (s := s) (i := i) (f := f) m
  rw [h]

@[simp] theorem issueClaim_gateOff (e : ElemRef) : ((issueClaim s i f).el e).gateOff = (s.el e).gateOff := by
  obtain ⟨_, _, _, h⟩ := issueClaim_el_eq (s := s) (i := i) (f := f) e
  rw [h]

@[simp] theorem issueClaim_activeGate (e : ElemRef) (m : BitVec 4) : activeGate ((issueClaim s i f).el e) m = activeGate (s.el e) m := by
  simp [activeGate]

/-- The gate that a slot names, its entry, and the node that it calls (R158, R160). -/
def gateNo (f : Fields) : Nat := f.imm.toNat % 8
def gateEntryOf (s : State) (f : Fields) : Word := (s.el (here s)).gateAt (gateNo f)
def calleeOf (s : State) (f : Fields) : NodeRef := beside s (field (gateEntryOf s f) 24 4)

theorem toNat_replyChannel : (bits f.imm 4 2).toNat = f.imm.toNat / 16 % 4 := by
  rw [bits, BitVec.extractLsb'_toNat, Nat.shiftRight_eq_div_pow]

/-- An `LNTL` may not call: the gate has no session to take part in, or the callee none to enter (R160). -/
def CallBarred (s : State) (f : Fields) : Prop :=
  let g := gateEntryOf s f
  field g 31 1 = 0 ∨ field g 29 2 = 3 ∨ calleeOf s f = s.cur.node ∨ (s.nd (calleeOf s f)).st = .off ∨ (s.nd (calleeOf s f)).st = .faulted ∨
    (field g 29 2 = 1 ∧ field g 4 2 ≠ f.imm.toNat / 16 % 4) ∨ field g 0 4 = field g 8 3 + 1

/-- The element whose gate has been called (R160, R162). -/
def calledElem (e : Elem) (f : Fields) (caller : BitVec 4) : Elem :=
  { e.setGate (gateNo f) (calledGate (e.gateAt (gateNo f)) caller (bits f.imm 4 2)) with
    gateOff := if gateSsn (e.gateAt (gateNo f)) = 0 then setBits e.gateOff (gateNo f) 1 0 else e.gateOff }

/-- The state that the issue of a call leaves: the gate claimed and, with LAST, the callee held back (R160). -/
def calledState (s : State) (i : Instr) (f : Fields) (last : Bool) : State :=
  let t := (issueClaim s i f).updEl (here s) (fun e => calledElem e f s.cur.node.node)
  if last then t.updNd (calleeOf s f) (fun nd => { nd with nextAt := max nd.nextAt (s.cycle + 4) }) else t

theorem calleeOf_eq : (here s).nodeRef (gateNode (gateEntryOf s f)) = calleeOf s f := by
  rw [gateNode, bits_eq_ofNat]
  rfl

theorem resourceFault_gate (k : Nat) : resourceFault 0 (.gate k) = { cause := 0x04, deta := BitVec.ofNat 32 k, detb := 0x50000000 } := by
  have h : (Resource.gate k).rkind = 5 := rfl
  rw [resourceFault, h]
  rfl

/-- The barring of a call as its execution tests it, in the state that S1 leaves. -/
theorem callBarred_iff :
    let t := issueClaim s i f
    let g := (t.el (here s)).gateAt (gateNo f)
    let m := (here s).nodeRef (gateNode g)
    (gateValid g = false ∨ gateSsn g = 3 ∨ m = s.cur.node ∨ (t.nd m).st = .off ∨ (t.nd m).st = .faulted ∨
      (gateSsn g = 1 ∧ gateRci g ≠ bits f.imm 4 2) ∨ gateCnt g = gateArgs g + 1) ↔ CallBarred s f := by
  intro t g m
  have hg : g = gateEntryOf s f := issueClaim_gateAt ..
  have hm : m = calleeOf s f := by rw [← calleeOf_eq, ← hg]
  have hv : gateValid g = false ↔ field g 31 1 = 0 := (field_bit_zero _ 31).symm
  rw [hv, gateSsn_eq, gateRci, Ne, bits_eq_iff, toNat_replyChannel, gateCnt_eq, gateArgs_eq, issueClaim_st, hm, hg, CallBarred]

/-- A call of a gate under scrub raises DOMAIN (R155). -/
theorem lintel_scrubbed (hp : Passes s i f) (h : (s.el (here s)).scrubbing (.gate (gateNo f)) = true) :
    lintel i f last s = .next (failsAt s i f (resourceFault 0 (.gate (gateNo f)))) :=
  issue_error hp (if_pos ((issueClaim_scrubbing _).trans h))

section
variable (hp : Passes s i f) (hs : (s.el (here s)).scrubbing (.gate (gateNo f)) = false)
include hs

theorem not_scrubbing_issueClaim : ¬((issueClaim s i f).el (here s)).scrubbing (.gate (gateNo f)) = true := by
  rw [issueClaim_scrubbing, hs]
  exact Bool.false_ne_true

include hp

/-- A call that is barred raises GATE (R160). -/
theorem lintel_barred (h : CallBarred s f) : lintel i f last s = .next (failsAt s i f (gateMisuse (gateNo f))) :=
  issue_error hp ((if_neg (not_scrubbing_issueClaim hs)).trans (if_pos (callBarred_iff.mpr h)))

/-- Any other call claims its gate and acts at its S4 (R160). -/
theorem lintel_calls (h : ¬CallBarred s f) : lintel i f last s = .next (actsAt s i f (calledState s i f last) []) := by
  refine issue_acts hp ((if_neg (not_scrubbing_issueClaim hs)).trans ((if_neg (fun h' => h (callBarred_iff.mp h'))).trans ?_))
  have hm : (here s).nodeRef (gateNode (((issueClaim s i f).el (here s)).gateAt (gateNo f))) = calleeOf s f := by
    rw [issueClaim_gateAt]
    exact calleeOf_eq
  rw [calledState, ← hm]
  rfl

end

/-! ## The state that a call leaves -/

theorem calledState_nd (h : calleeOf s f ≠ s.cur.node) (m : NodeRef) : (calledState s i f last).nd m =
    if last = true ∧ m = calleeOf s f then { s.nd (calleeOf s f) with nextAt := max (s.nd (calleeOf s f)).nextAt (s.cycle + 4) }
    else s.atIssue.nd m := by
  have ht : ∀ m, ((issueClaim s i f).updEl (here s) (fun e => calledElem e f s.cur.node.node)).nd m = s.atIssue.nd m := fun m => by
    rw [State.updEl, State.nd_setEl, State.nd, issueClaim_node]
    rfl
  unfold calledState
  cases last with
  | false => simpa using ht m
  | true =>
    by_cases hm : m = calleeOf s f
    · subst hm
      simp only [if_true, State.updNd, State.nd_setNd_self, ht, atIssue_nd_ne h, and_self]
    · simp only [if_true, State.updNd, State.nd_setNd_ne _ _ hm, ht, hm, and_false, if_false]

theorem calledState_el_self : (calledState s i f last).el (here s) = { (issueClaim s i f).el (here s) with
    gate := (calledElem (s.el (here s)) f s.cur.node.node).gate
    gateOff := (calledElem (s.el (here s)) f s.cur.node.node).gateOff } := by
  have h : (calledState s i f last).el (here s) = calledElem ((issueClaim s i f).el (here s)) f s.cur.node.node := by
    unfold calledState
    split <;> simp
  rw [h, calledElem, calledElem, issueClaim_gateAt, issueClaim_gateOff, Elem.setGate, Elem.setGate, issueClaim_gate]

theorem calledState_el_ne {e : ElemRef} (h : e ≠ here s) : (calledState s i f last).el e = s.el e := by
  unfold calledState
  split <;> simp [State.el_setEl_ne _ _ h, issueClaim_el_ne (show e ≠ s.cur.node.elemRef from h)]

theorem calledState_frame : NodesAndElems (issueClaim s i f) (calledState s i f last) := by
  unfold calledState
  split <;> rfl

theorem calledElem_gateOff {e : Elem} {w : BitVec 4} {j : Nat} (hj : j < 8) : (calledElem e f w).gateOff.getLsbD j =
    (!(decide (field (e.gateAt (gateNo f)) 29 2 = 0) && decide (j = gateNo f)) && e.gateOff.getLsbD j) := by
  unfold calledElem
  rw [gateSsn_eq]
  by_cases h : field (e.gateAt (gateNo f)) 29 2 = 0
  · simp only [if_pos h, getLsbD_setBits, decide_eq_true h, Bool.true_and]
    by_cases hjg : j = gateNo f
    · subst hjg
      simp
    · rw [if_neg (by omega), decide_eq_false hjg]
      rfl
  · simp only [if_neg h, decide_eq_false h]
    rfl

theorem calledElem_gate_ne {e : Elem} {w : BitVec 4} {j : Nat} (h : j ≠ gateNo f) : Map.get (calledElem e f w).gate 0 j = e.gateAt j :=
  Map.get_set_ne _ _ _ h

theorem calledElem_gate_self {e : Elem} {w : BitVec 4} :
    Map.get (calledElem e f w).gate 0 (gateNo f) = calledGate (e.gateAt (gateNo f)) w (bits f.imm 4 2) := Map.get_set_self ..

/-! ## The S4 of a call -/

@[simp] theorem enterCi_flight (nd : Node) (k : BitVec 2) (t : Token) : (nd.enterCi k t).flight = nd.flight := rfl
theorem enterCi_ciq (nd : Node) (k : BitVec 2) (t : Token) : (nd.enterCi k t).ciq k = nd.ciq k ++ [t] :=
  (setCi_ciq nd k k _).trans (if_pos rfl)

/-- A session takes an argument of its caller (R160). -/
def SessionTakes (s : State) (c : NodeRef) (f : Fields) : Prop :=
  let g := (s.el c.elemRef).gateAt (gateNo f)
  field g 29 2 = 1 ∧ field g 12 4 = c.node.toNat

/-- The node that the gate of a slot calls from an element. -/
def calleeAt (s : State) (c : NodeRef) (f : Fields) : NodeRef := c.elemRef.nodeRef (gateNode ((s.el c.elemRef).gateAt (gateNo f)))

/-- The state that the S4 of a call leaves: the argument in the callee's ci3 and, with LAST, the session ACTIVE and the callee at the
gate's entry (R160). -/
def enteredState (s : State) (c : NodeRef) (f : Fields) (last : Bool) (a : PWord) : State :=
  let g := (s.el c.elemRef).gateAt (gateNo f)
  let t := s.updNd (calleeAt s c f) (fun nd => nd.enterCi 3 (tokenOf kindData 0 a))
  if last then
    (t.updEl c.elemRef (fun e => e.setGate (gateNo f) (setBits g 29 2 2))).updNd (calleeAt s c f) (fun nd => { nd with p := gateEntry g })
  else t

theorem sessionTakes_iff :
    (gateSsn ((s.el c.elemRef).gateAt (gateNo f)) = 1 ∧ gateCaller ((s.el c.elemRef).gateAt (gateNo f)) = c.node) ↔ SessionTakes s c f := by
  rw [gateSsn_eq, gateCaller, bits_eq_iff, SessionTakes]

theorem lintelAtS4_takes {nd : Node} (h : SessionTakes s c f) :
    lintelAtS4 last { n := c, f := f, nd := nd, a := a, b := b, d := d } s = (enteredState s c f last a, { cond := !a.psn }) := by
  refine (if_pos (sessionTakes_iff.mpr h)).trans ?_
  cases last <;> rfl

theorem lintelAtS4_ended {nd : Node} (h : ¬SessionTakes s c f) :
    lintelAtS4 last { n := c, f := f, nd := nd, a := a, b := b, d := d } s = (s, { cond := !a.psn }) :=
  if_neg (fun h' => h (sessionTakes_iff.mp h'))

theorem enteredState_nd_ne {m : NodeRef} (h : m ≠ calleeAt s c f) : (enteredState s c f last a).nd m = s.nd m := by
  unfold enteredState
  split <;> simp [State.nd_setNd_ne _ _ h]

theorem enteredState_nd_self : (enteredState s c f last a).nd (calleeAt s c f) =
    { (s.nd (calleeAt s c f)).enterCi 3 (tokenOf kindData 0 a) with
      p := if last then gateEntry ((s.el c.elemRef).gateAt (gateNo f)) else (s.nd (calleeAt s c f)).p } := by
  unfold enteredState
  cases last with
  | false => simp [Node.enterCi, Node.setCi]
  | true => simp

/-- The argument stands last in the callee's ci3 (R160). -/
theorem enteredState_ciq : ((enteredState s c f last a).nd (calleeAt s c f)).ciq 3 = (s.nd (calleeAt s c f)).ciq 3 ++
    [if a.psn then { kind := 6, payload := a.val } else { kind := 0, payload := a.val }] := by
  rw [enteredState_nd_self, ← tokenOf_plain]
  exact enterCi_ciq _ _ _

theorem enteredState_p : ((enteredState s c f last a).nd (calleeAt s c f)).p =
    if last then BitVec.ofNat 8 (field ((s.el c.elemRef).gateAt (gateNo f)) 16 8) else (s.nd (calleeAt s c f)).p := by
  rw [enteredState_nd_self, ← bits_eq_ofNat]
  rfl

theorem enteredState_flight (m : NodeRef) : ((enteredState s c f last a).nd m).flight = (s.nd m).flight := by
  by_cases h : m = calleeAt s c f
  · subst h
    rw [enteredState_nd_self]
    rfl
  · rw [enteredState_nd_ne h]

theorem enteredState_el_ne {e : ElemRef} (h : e ≠ c.elemRef) : (enteredState s c f last a).el e = s.el e := by
  unfold enteredState
  split <;> simp [State.el_setEl_ne _ _ h]

/-- The gate table after the S4 of a call: with LAST the session is ACTIVE. -/
def enteredGates (e : Elem) (f : Fields) (last : Bool) : Map Word :=
  if last then Map.set e.gate (gateNo f) (setBits (e.gateAt (gateNo f)) 29 2 2) else e.gate

theorem enteredState_el_self : (enteredState s c f last a).el c.elemRef =
    { s.el c.elemRef with gate := enteredGates (s.el c.elemRef) f last } := by
  unfold enteredState enteredGates
  cases last with
  | false => simp
  | true => simp [Elem.setGate]

theorem enteredState_frame : NodesAndElems s (enteredState s c f last a) := by
  unfold enteredState
  split <;> rfl

theorem enteredGates_ne {e : Elem} {j : Nat} (h : j ≠ gateNo f) : Map.get (enteredGates e f last) 0 j = e.gateAt j := by
  unfold enteredGates
  split
  · exact Map.get_set_ne _ _ _ h
  · rfl

theorem enteredGates_self {e : Elem} (h : field (e.gateAt (gateNo f)) 29 2 = 1) :
    field (Map.get (enteredGates e f last) 0 (gateNo f)) 29 2 = (if last then 2 else 1) ∧
    Map.get (enteredGates e f last) 0 (gateNo f) &&& 0x9FFFFFFF = e.gateAt (gateNo f) &&& 0x9FFFFFFF := by
  unfold enteredGates
  cases last with
  | false => exact ⟨h, rfl⟩
  | true =>
    simp only [if_true, Map.get_set_self]
    exact ⟨field_setBits_self (by omega), setBits_and_mask (by decide)⟩

/-! ## The return -/

/-- The state that a `GRET` leaves at its S4 where the caller of its session has not entered OFF (R161). -/
def returnedState (s : State) (n : NodeRef) (j : Nat) (a : PWord) : State :=
  let e := s.el n.elemRef
  let r := gateRet (e.gateAt j)
  let q := (s.nd n).coq r
  (s.updEl n.elemRef (fun e => { e.setGate j (returnedGate (e.gateAt j)) with
    gateOff := setBits e.gateOff j 1 0
    gateDrain := e.gateDrain ++ [(j, q.length + 1 - drainBefore e j)] })).updNd n (fun nd =>
      { nd with p := 0 }.setCo r (q ++ [tokenOf kindStop1 0 a]))

theorem gretAtS4_active {nd : Node} {j : Nat} (h : activeGate (s.el n.elemRef) n.node = some j)
    (hoff : (s.el n.elemRef).gateOff.getLsbD j = false) :
    gretAtS4 { n := n, f := f, nd := nd, a := a, b := b, d := d } s = (returnedState s n j a, { cond := !a.psn }) := by
  have hr : ∀ g : Word, gateRet (setBits (setBits g 29 2 0) 0 4 0) = gateRet g := fun g => by
    rw [gateRet, bits_setBits_disjoint (by omega), bits_setBits_disjoint (by omega), gateRet]
  simp only [gretAtS4, h, bitAt, hoff, hr, Bool.false_eq_true, if_false]
  rfl

theorem returnedState_nd_ne {m : NodeRef} {j : Nat} (h : m ≠ n) : (returnedState s n j a).nd m = s.nd m := by
  simp [returnedState, State.nd_setNd_ne _ _ h]

theorem returnedState_nd_self {j : Nat} : (returnedState s n j a).nd n =
    { s.nd n with p := 0 }.setCo (gateRet ((s.el n.elemRef).gateAt j))
      ((s.nd n).coq (gateRet ((s.el n.elemRef).gateAt j)) ++ [tokenOf kindStop1 0 a]) := by
  simp [returnedState]

theorem returnedState_p {j : Nat} : ((returnedState s n j a).nd n).p = 0 := by
  rw [returnedState_nd_self]
  rfl

/-- The closing STOP1 stands last on co[RET] (R161). -/
theorem returnedState_coq {j : Nat} : ((returnedState s n j a).nd n).coq (gateRet ((s.el n.elemRef).gateAt j)) =
    (s.nd n).coq (gateRet ((s.el n.elemRef).gateAt j)) ++
      [if a.psn then { kind := 6, payload := a.val } else { kind := 2, payload := a.val }] := by
  rw [returnedState_nd_self, ← tokenOf_plain]
  exact (setCo_coq _ _ _ _).trans (if_pos rfl)

theorem returnedState_el_ne {e : ElemRef} {j : Nat} (h : e ≠ n.elemRef) : (returnedState s n j a).el e = s.el e := by
  simp [returnedState, State.el_setEl_ne _ _ h]

/-- The drain that a `GRET` adds: the replies of its session, with the STOP1, that stand on co[RET] (R161). -/
def returnedDrain (s : State) (n : NodeRef) (j : Nat) : List (Nat × Nat) :=
  let e := s.el n.elemRef
  e.gateDrain ++ [(j, ((s.nd n).coq (gateRet (e.gateAt j))).length + 1 - drainBefore e j)]

theorem returnedState_el_self {j : Nat} : (returnedState s n j a).el n.elemRef = { s.el n.elemRef with
    gate := Map.set (s.el n.elemRef).gate j (returnedGate ((s.el n.elemRef).gateAt j))
    gateOff := setBits (s.el n.elemRef).gateOff j 1 0
    gateDrain := returnedDrain s n j } := by
  rw [returnedState, State.updNd, State.el_setNd, State.updEl, State.el_setEl_self]
  rfl

theorem returnedState_frame {j : Nat} : NodesAndElems s (returnedState s n j a) := rfl

theorem returnedState_ends {j : Nat} (hl : Late s n (.gret f) f a b d ws) (h : activeGate (s.el n.elemRef) n.node = some j)
    (hoff : (s.el n.elemRef).gateOff.getLsbD j = false) : EndsIn s n (returnedState s n j a) { cond := !a.psn } :=
  endsIn_of_late hl (gretAtS4_active h hoff) (by rw [returnedState_nd_self]; rfl)

end Sys2Proof.Machine

namespace Sys2Proof.Proofs
open Sys2Proof.Machine Sys2Proof.Claims

/-- Settles O13: a call by its checks, its claim and its S4, and a return by the session that it ends. -/
theorem gateCalls : Obligations.GateCalls := by
  intro s f gi k g ssn n st bad mine scrubbed token call active
  have hcall : ∀ i last, (exec i s = lintel i f last s) → (∀ o ws s, lateEffect i o ws s = lintelAtS4 last o s) → call i last := by
    intro i last hx hlate
    refine ⟨fun hp => ⟨fun hs => ?_, fun hs hb => ?_, fun hs hb hm => ?_⟩, fun c a b d ws hl => ⟨fun hno => ?_, fun hopen => ?_⟩⟩
    · rw [hx, lintel_scrubbed hp hs, resourceFault_gate]
      rfl
    · rw [hx]
      exact lintel_barred hp hs hb
    · have hne : calleeOf s f ≠ s.cur.node := fun h => hb (.inr (.inr (.inl h)))
      obtain ⟨hssn, hcaller, hrci⟩ := calledGate_session (g := g) (c := s.cur.node.node) (k := bits f.imm 4 2) (by
        rw [toNat_replyChannel]
        exact hm.imp_right fun ⟨h1, h2⟩ => ⟨h1, h2, by_contra fun h => hb (.inr (.inr (.inr (.inr (.inr (.inl ⟨h1, h⟩))))))⟩)
      refine ⟨calledState s i f last, _, _, hx.trans (lintel_calls hp hs hb), calledState_frame, calledState_nd hne,
        fun e he => calledState_el_ne he, calledState_el_self, fun j hj => calledElem_gateOff hj, fun j hj => calledElem_gate_ne hj, ?_⟩
      rw [toNat_replyChannel] at hrci
      intro y
      rw [show y = calledGate g s.cur.node.node (bits f.imm 4 2) from calledElem_gate_self]
      exact ⟨hssn, hcaller, hrci, calledGate_count, calledGate_and_mask⟩
    · exact endsIn_of_late hl ((hlate _ _ _).trans (lintelAtS4_ended hno)) rfl
    · refine ⟨_, _, endsIn_of_late hl ((hlate _ _ _).trans (lintelAtS4_takes hopen)) (enteredState_flight _), enteredState_frame,
        fun m hm => enteredState_nd_ne hm, enteredState_ciq, enteredState_p, fun e he => enteredState_el_ne he, enteredState_el_self,
        fun j hj => enteredGates_ne hj, enteredGates_self hopen.1⟩
  refine ⟨hcall _ _ rfl fun _ _ _ => rfl, hcall _ _ rfl fun _ _ _ => rfl, fun hp hno => ?_, fun hp ⟨j, hj, hact⟩ => ?_,
    fun n a b d ws hl j hj hact hlow hoff => ?_⟩
  · have hnone : activeGate (s.el s.cur.node.elemRef) s.cur.node.node = none := activeGate_eq_none_iff.mpr hno
    exact issue_error (fi := gateMisuse 0) hp (by simp only [issueOps_n, issueClaim_activeGate, hnone])
  · obtain ⟨x, hx⟩ := Option.ne_none_iff_exists'.mp fun h => activeGate_eq_none_iff.mp h j hj hact
    exact issue_acts hp (by simp only [issueOps_n, issueClaim_activeGate, hx])
  · obtain ⟨hssn, hrdrn, hcnt⟩ := returnedGate_fields (g := (s.el n.elemRef).gateAt j)
    refine ⟨_, _, _, _, returnedState_ends hl (activeGate_eq_some hj hact hlow) hoff, returnedState_frame,
      fun m hm => returnedState_nd_ne hm, returnedState_p, returnedState_coq, fun e he => returnedState_el_ne he, returnedState_el_self,
      fun y hy => Map.get_set_ne _ _ _ hy, ?_⟩
    rw [Map.get_set_self]
    exact ⟨hssn, hrdrn, hcnt, returnedGate_and_mask⟩

end Sys2Proof.Proofs
end

section
/-! PROOF. A matrix opcode of another domain than the section's owner raises DOMAIN at S1 even where it writes the return channel of a
gate's callee, which the statement on refused transitions has raise GATE at its S4 (O30; R161, R219). -/

namespace Sys2Proof.Machine
open Sys2Proof.Claims

/-- An `MDRAIN` to co0. -/
def drainToCo0 : Fields := { dst := 20 }

/-- An element whose section is in HOLD for domain 1, and whose gate 0 is VALID and IDLE, with node 0 as its callee and co0 as its return
channel. -/
def heldSection : Elem := { gate := [(0, 0x80000000)], mx := { st := .hold, owner := 1 } }

/-- Node 0 of that element, of domain 0, issues. -/
def foreignDrain : State := { node := [(0, { st := .run })], elem := [(0, heldSection)] }

theorem foreignDrain_unrefused : refusedAt foreignDrain.atIssue foreignDrain.cur.node (.mdrain drainToCo0) drainToCo0 = none := by decide

theorem foreignDrain_barred : gateFault foreignDrain.atIssue foreignDrain.cur.node (.mdrain drainToCo0) drainToCo0 =
    some { cause := causeGate } := by decide

/-- A matrix opcode that S1 lets pass, of another domain than the section's owner, faults at once, whatever its DST (R219). -/
theorem matrixOp_sectionRefused {s : State} {i : Instr} {f : Fields} {body : Opnds → State → Except FaultInfo (State × Done)}
    (hr : refusedAt s.atIssue s.cur.node i f = none) (h : foreignSec s) :
    matrixOp i f s body = .next (faultsAt s i f sectionRefused) :=
  if_pos ⟨hr, foreign_iff.mpr h⟩

theorem foreignDrain_foreign : foreignSec foreignDrain := ⟨by decide, by decide⟩

/-- The model takes the DOMAIN fault of R219. -/
theorem exec_foreignDrain : exec (.mdrain drainToCo0) foreignDrain =
    .next (faultsAt foreignDrain (.mdrain drainToCo0) drainToCo0 sectionRefused) :=
  (rfl : _ = matrixOp (.mdrain drainToCo0) drainToCo0 foreignDrain (fun _ t => .ok (t, .atS4 []))).trans
    (matrixOp_sectionRefused foreignDrain_unrefused foreignDrain_foreign)

/-- A fault at S1 leaves the issuing node in FAULTED (R42). -/
theorem faultsAt_st {s : State} {i : Instr} {f : Fields} {fi : FaultInfo} : ((faultsAt s i f fi).nd s.cur.node).st = .faulted :=
  takeFault_nd.1

/-- A transition whose fault waits for its S4 leaves its node in the state that it had (R38, R40). -/
theorem failsAt_st {s : State} {i : Instr} {f : Fields} {fi : FaultInfo} :
    ((failsAt s i f fi).nd s.cur.node).st = (s.nd s.cur.node).st := by
  rw [failsAt, pendsAt, State.updNd, State.nd_setNd_self, issueClaim_nd_self]
  rfl

end Sys2Proof.Machine

namespace Sys2Proof.Proofs
open Sys2Proof.Machine Sys2Proof.Claims

/-- Refutes O30: an `MDRAIN` to the return channel of a gate's callee, by a node whose domain does not own the section, raises DOMAIN at
its S1, and the statement has every transition that writes such a channel raise GATE at its S4. -/
theorem not_faultEntry : ¬ Obligations.FaultEntry := by
  rintro ⟨hrefused, -⟩
  obtain ⟨-, hbarred, -⟩ := hrefused foreignDrain (.mdrain drainToCo0) drainToCo0 rfl
  have hgate := (hbarred foreignDrain_unrefused _ foreignDrain_barred).2
  have heq := Host.Outcome.next.inj (exec_foreignDrain.symm.trans hgate)
  have hst : RunState.faulted = (foreignDrain.nd foreignDrain.cur.node).st := by
    rw [← faultsAt_st, heq, failsAt_st]
  exact absurd hst (by decide)

end Sys2Proof.Proofs
end

section
/-! SUPPORT. What a firing, a port and an edge note of a token that leaves, and the channel whose turn it is at its element's port, in
the words of the statements (R166-R168, R175-R177, R265). -/

namespace Sys2Proof.Machine
open Sys2Proof.Claims

variable {s t u : State} {e : Edge} {n m : NodeRef} {k j : BitVec 2} {r : Nat} {tok : Token} {q : List Token}

/-! ## Firings -/

theorem fire_frame : fire s r = { s with region := (fire s r).region } := by
  unfold fire
  split <;> rfl

@[simp] theorem fire_node : (fire s r).node = s.node := by rw [fire_frame]
@[simp] theorem fire_elem : (fire s r).elem = s.elem := by rw [fire_frame]
@[simp] theorem fire_tile : (fire s r).tile = s.tile := by rw [fire_frame]
@[simp] theorem fire_edge : (fire s r).edge = s.edge := by rw [fire_frame]
@[simp] theorem fire_fanout : (fire s r).fanout = s.fanout := by rw [fire_frame]
@[simp] theorem fire_net : (fire s r).net = s.net := by rw [fire_frame]
@[simp] theorem fire_nd : (fire s r).nd n = s.nd n := by rw [State.nd, fire_node, State.nd]
@[simp] theorem fire_tl (x : TileRef) : (fire s r).tl x = s.tl x := by rw [State.tl, fire_tile, State.tl]
@[simp] theorem fire_ed (i : Nat) : (fire s r).ed i = s.ed i := by rw [State.ed, fire_edge, State.ed]
@[simp] theorem fire_fo (i : Nat) : (fire s r).fo i = s.fo i := by rw [State.fo, fire_fanout, State.fo]

/-! ## Edges -/

theorem latestEnd_eq_toLatest : latestEnd s e = toLatest s e := rfl

/-- Whether an edge ends in a latest-value channel is written in the channels' configurations alone (R175). -/
theorem toLatest_congr (h : ∀ m, (t.nd m).ccfg = (s.nd m).ccfg) : toLatest t e = toLatest s e := by
  unfold toLatest
  split
  · rw [h]
  · rfl

theorem maySend_iff : maySend s e = true ↔ toLatest s e = true ∨ 0 < e.credits := by
  rw [maySend, latestEnd_eq_toLatest, Bool.or_eq_true, decide_eq_true_iff]

theorem hasEntry_iff {x : TileRef} {inp : Nat} {vn : BitVec 2} : hasEntry s x inp vn = true ↔ bufferUse s x inp vn < 4 :=
  decide_eq_true_iff

/-- The edge that binds a channel takes its tokens there, and is no branch (R166). -/
theorem edgeFrom_spec {p : Port} (h : s.edgeFrom p = some e) : e.src = p ∧ e.fan = none := by
  have hp := List.find?_some h
  simp only [Bool.and_eq_true, decide_eq_true_eq, Option.isNone_iff_eq_none] at hp
  exact hp.1

/-- A token sets out on an edge: it spends a credit and enters the buffer of the router (R167, R168). -/
def setOut (s : State) (e : Edge) (tok : Token) : State :=
  fire (injectTokens (s.setEd e.id { e with credits := if latestEnd s e then e.credits else e.credits - 1 }) e [tok]) e.region

theorem sendOn_branch (h : e.fan ≠ none) : sendOn s e tok = setOut s e tok := by
  rw [sendOn, if_pos (Option.isSome_iff_ne_none.mpr h), setOut]

theorem sendOn_port (h : e.fan = none) : sendOn s e tok = setOut (notePort s e.src) e tok := by
  have hfan : ¬e.fan.isSome = true := by rw [h]; exact Bool.false_ne_true
  rw [sendOn, if_neg hfan, setOut]

theorem setOut_frame : setOut s e tok =
    { s with
      edge := (setOut s e tok).edge
      region := (setOut s e tok).region
      net := (setOut s e tok).net } := by
  rw [setOut, fire_frame]
  rfl

theorem setOut_elem : (setOut s e tok).elem = s.elem := fire_elem
@[simp] theorem setOut_nd : (setOut s e tok).nd n = s.nd n := fire_nd
@[simp] theorem setOut_fo (i : Nat) : (setOut s e tok).fo i = s.fo i := fire_fo i

/-- What sets out from a state that differs from `s` in its nodes, elements and fan-outs alone leaves `s` on its edge. -/
theorem leavesOn_setOut (hed : u.edge = s.edge) (hnet : u.net = s.net) (hcyc : u.cycle = s.cycle)
    (hcfg : ∀ m, (u.nd m).ccfg = (s.nd m).ccfg) : LeavesOn s (setOut u e tok) e tok := by
  have hl : latestEnd u e = toLatest s e := latestEnd_eq_toLatest.trans (toLatest_congr hcfg)
  refine ⟨?_, fun i hi => ?_, ?_⟩
  · rw [setOut, fire_ed, ← hl]
    exact State.ed_setEd_self ..
  · rw [setOut, fire_ed]
    exact (State.ed_setEd_ne _ _ hi).trans (by rw [State.ed, hed, State.ed])
  · rw [setOut, fire_net, ← hnet, ← hcyc]
    rfl

/-! ## The local port of an element -/

@[simp] theorem notePort_nd (p : Port) : (notePort s p).nd n = s.nd n := by cases p <;> rfl

theorem portServed_notePort (hel : u.elem = s.elem) (hcyc : u.cycle = s.cycle) (ht : t.elem = (notePort u (.out n k)).elem) :
    portServed s t n k := by
  have hu : ∀ x, u.el x = s.el x := fun x => by rw [State.el, hel, State.el]
  have hx : ∀ x, t.el x = (notePort u (.out n k)).el x := fun x => by rw [State.el, ht, State.el]
  refine ⟨fun x hne => (hx x).trans ((State.el_setEl_ne _ _ hne).trans (hu x)), ?_⟩
  rw [hx, notePort, State.updEl, State.el_setEl_self, hu, hcyc]

/-- The node of an output channel as a token leaves it (R168). -/
def popped (s : State) (n : NodeRef) (k : BitVec 2) (q : List Token) : State := s.updNd n (fun nd => nd.setCo k q)

theorem popped_nd_self : (popped s n k q).nd n = (s.nd n).setCo k q := State.nd_setNd_self ..
theorem popped_nd_ne (h : m ≠ n) : (popped s n k q).nd m = s.nd m := State.nd_setNd_ne _ _ h
theorem popped_coq_self : ((popped s n k q).nd n).coq k = q := by rw [popped_nd_self, setCo_coq, if_pos rfl]
theorem popped_coq_ne (h : j ≠ k) : ((popped s n k q).nd n).coq j = (s.nd n).coq j := by rw [popped_nd_self, setCo_coq, if_neg h]

theorem popped_ccfg (m : NodeRef) : ((popped s n k q).nd m).ccfg = (s.nd m).ccfg := by
  by_cases h : m = n
  · rw [h, popped_nd_self]
    rfl
  · rw [popped_nd_ne h]

/-! ## The rotation of the channels (R176) -/

/-- The channel of an element, by node and output channel, that a number of the rotation names could send. -/
def sendableAt (s : State) (x : ElemRef) (j : BitVec 6) : Bool := sendable s (x.nodeRef (bits j 2 4)) (bits j 0 2)

/-- The channel that is `i` places behind the one after the last served. -/
def turnPlace (x : Elem) (i : Nat) : BitVec 6 := x.sentLast + BitVec.ofNat 6 (i + 1)

theorem sendableAt_channel (h : m.elemRef = n.elemRef) : sendableAt s n.elemRef (m.node ++ k) = sendable s m k := by
  have h2 : bits (m.node ++ k) 2 4 = m.node := by
    rw [bits]
    exact BitVec.extractLsb'_append_eq_left
  have h0 : bits (m.node ++ k) 0 2 = k := by
    rw [bits]
    exact BitVec.extractLsb'_append_eq_right
  rw [sendableAt, h2, h0, ← h]
  rfl

theorem bits_append_bits (j : BitVec 6) : (bits j 2 4 ++ bits j 0 2 : BitVec 6) = j := by
  revert j
  decide

theorem turnPlace_eq_iff {i : Nat} (hi : i < 64) : turnPlace (s.el n.elemRef) i = n.node ++ k ↔ i = rotation s n k := by
  rw [turnPlace, Claims.rotation]
  generalize n.node ++ k = j
  generalize (s.el n.elemRef).sentLast = l
  constructor <;> intro h <;> bv_omega

theorem rotation_lt : rotation s n k < 64 := Nat.mod_lt _ (by decide)

/-- The first channel of the rotation that could send. -/
theorem find_turn_iff : (((List.range 64).map (turnPlace (s.el n.elemRef))).find? (sendableAt s n.elemRef) = some (n.node ++ k)) ↔
    sendable s n k = true ∧ ∀ m c, m.elemRef = n.elemRef → rotation s m c < rotation s n k → sendable s m c = false := by
  have place : ∀ m c, m.elemRef = n.elemRef → turnPlace (s.el n.elemRef) (rotation s m c) = m.node ++ c := fun m c hm => by
    rw [← hm]
    exact (turnPlace_eq_iff rotation_lt).mpr rfl
  have able : ∀ m c, m.elemRef = n.elemRef → sendableAt s n.elemRef (turnPlace (s.el n.elemRef) (rotation s m c)) = sendable s m c :=
    fun m c hm => by rw [place m c hm, sendableAt_channel hm]
  rw [List.find?_map, Option.map_eq_some_iff]
  constructor
  · rintro ⟨i, hi, hp⟩
    obtain ⟨hsend, hmem, hbefore⟩ := List.find?_range_eq_some.mp hi
    obtain rfl := (turnPlace_eq_iff (List.mem_range.mp hmem)).mp hp
    refine ⟨(able n k rfl).symm.trans hsend, fun m c hm hlt => ?_⟩
    have hb := hbefore _ hlt
    rwa [Function.comp_apply, able m c hm, Bool.not_eq_true'] at hb
  · rintro ⟨hsend, hbefore⟩
    refine ⟨rotation s n k, List.find?_range_eq_some.mpr ⟨(able n k rfl).trans hsend, List.mem_range.mpr rotation_lt, fun i hi => ?_⟩,
      place n k rfl⟩
    have hat := turnPlace_eq_iff (s := s) (n := n.elemRef.nodeRef (bits (turnPlace (s.el n.elemRef) i) 2 4))
      (k := bits (turnPlace (s.el n.elemRef) i) 0 2) (hi.trans rotation_lt)
    have hrot := hat.mp (bits_append_bits _).symm
    rw [Function.comp_apply, Bool.not_eq_true']
    exact hbefore _ _ rfl (hrot ▸ hi)

theorem portBusy_compute (h : isCompute n.tile = true) :
    portBusy s n.elemRef.tileRef n.elem.toNat = decide ((s.el n.elemRef).sentAt = some s.cycle) := by
  have hlt : ¬16 ≤ n.elem.toNat := Nat.not_le.mpr n.elem.isLt
  have hc : isCompute n.elemRef.tileRef.tile = true := h
  rw [portBusy, if_neg hlt, if_pos hc, BitVec.ofNat_toNat, BitVec.setWidth_eq]
  rfl

theorem sendTurn_eq : sendTurn s n k = (!portBusy s n.elemRef.tileRef n.elem.toNat &&
    decide (((List.range 64).map (turnPlace (s.el n.elemRef))).find? (sendableAt s n.elemRef) = some (n.node ++ k))) := rfl

/-- The port of an element serves the channel that is next in rotation of those that could send, once in a cycle (R176). -/
theorem sendTurn_iff (h : isCompute n.tile = true) : sendTurn s n k = true ↔ (s.el n.elemRef).sentAt ≠ some s.cycle ∧
    sendable s n k = true ∧ ∀ m c, m.elemRef = n.elemRef → rotation s m c < rotation s n k → sendable s m c = false := by
  rw [sendTurn_eq, portBusy_compute h, Bool.and_eq_true, Bool.not_eq_true', decide_eq_false_iff_not, decide_eq_true_iff, find_turn_iff]

theorem sendable_of_sendTurn (h : sendTurn s n k = true) : sendable s n k = true := by
  rw [sendTurn_eq, Bool.and_eq_true, decide_eq_true_iff] at h
  exact (find_turn_iff.mp h.2).1

/-- A bound channel could send what it holds once its edge has a credit and the router's buffer an entry (R167, R168, R177). -/
theorem sendable_of_edge (h : s.edgeFrom (.out n k) = some e) : sendable s n k = true ↔ heldBack s n = false ∧ (s.nd n).coq k ≠ [] ∧
    (toLatest s e = true ∨ 0 < e.credits) ∧ bufferUse s (portTile e.src) (edgeInput e) 0 < 4 := by
  simp only [sendable, h, Bool.and_eq_true, Bool.not_eq_true', decide_eq_true_eq, maySend_iff, hasEntry_iff, and_assoc]

end Sys2Proof.Machine
end

section
/-! PROOF. Tokens leave an output channel, a fan-out and its branches, and credits come back (O21; R166-R168, R175-R177, R182, R183,
R350). -/

namespace Sys2Proof.Machine
open Sys2Proof.Claims

variable {s : State} {e : Edge} {n : NodeRef} {k : BitVec 2} {tok : Token} {q : List Token} {x b i : Nat} {br : Branch} {p : Option Permit}
  {l : List (Token × Option Permit)} {l' : List (Token × Word)} {w : Word}

/-! ## `TOKEN_SEND` -/

/-- A bound channel without the turn at its port sends nothing (R168, R176). -/
theorem exec_tokenSend_waits (he : s.edgeFrom (.out n k) = some e) (hq : (s.nd n).coq k = tok :: q) (ht : sendTurn s n k = false) :
    exec (.tokenSend (.out n k)) s = .next s := by
  change Host.Outcome.next (sendFromNode s n k) = _
  rw [sendFromNode]
  split
  · rfl
  · simp only [he, hq, ht, Bool.false_and]
    rfl

/-- A bound channel with the turn at its port sends its head on its edge (R168, R176). -/
theorem exec_tokenSend_sends (he : s.edgeFrom (.out n k) = some e) (hq : (s.nd n).coq k = tok :: q) (ht : sendTurn s n k = true) :
    exec (.tokenSend (.out n k)) s = .next (setOut (notePort (popped s n k q) (.out n k)) e tok) := by
  obtain ⟨hheld, -, hmay, -⟩ := (sendable_of_edge he).mp (sendable_of_sendTurn ht)
  obtain ⟨hsrc, hfan⟩ := edgeFrom_spec he
  change Host.Outcome.next (sendFromNode s n k) = _
  rw [sendFromNode, hheld]
  simp only [he, hq, ht, maySend_iff.mpr hmay, Bool.and_self, sendOn_port hfan, hsrc]
  rfl

/-! ## `CREDIT_RETURN` -/

theorem exec_creditReturn_none (h : (s.ed i).back_ = 0) : exec (.creditReturn i) s = .next s :=
  congrArg Host.Outcome.next (if_pos h)

/-- A credit that has come back is usable from the next cycle (R167, R168). -/
theorem exec_creditReturn_due (h : 0 < (s.ed i).back_) : exec (.creditReturn i) s = .next (fire (s.setEd i { s.ed i with
    back_ := (s.ed i).back_ - 1
    due := (s.ed i).due + 1 }) (s.ed i).region) :=
  congrArg Host.Outcome.next (if_neg (Nat.pos_iff_ne_zero.mp h))

/-! ## `FANOUT_COPY` -/

/-- A fan-out with a branch that has no free entry takes nothing (R182). -/
theorem exec_fanoutCopy_full (h : ∃ y ∈ (s.fo x).branches, 16 ≤ y.buf.length) : exec (.fanoutCopy x) s = .next s := by
  have hfull : branchesFree (s.fo x) = false := by
    obtain ⟨y, hy, hlen⟩ := h
    rw [branchesFree, List.all_eq_false]
    exact ⟨y, hy, by simpa using hlen⟩
  refine congrArg Host.Outcome.next (if_neg ?_)
  rw [hfull]
  exact Bool.false_ne_true

/-- A fan-out whose branches all have a free entry takes the head of its source in the source's turn (R176, R182). -/
theorem exec_fanoutCopy_copies (hsrc : (s.fo x).src = .out n k) (hq : (s.nd n).coq k = tok :: q) (hne : (s.fo x).branches ≠ [])
    (hfree : ∀ y ∈ (s.fo x).branches, y.buf.length < 16) (ht : sendTurn s n k = true) :
    exec (.fanoutCopy x) s = .next (fire ((notePort (popped s n k q) (.out n k)).setFo x
      (copyToken (s.fo x) tok (fun _ => none))) (s.fo x).region) := by
  have hall : branchesFree (s.fo x) = true := List.all_eq_true.mpr (fun y hy => decide_eq_true (hfree y hy))
  have hsome : (s.fo x).branches.isEmpty = false := List.isEmpty_eq_false_iff.mpr hne
  change execFanoutCopy x s = _
  simp only [execFanoutCopy, hall, hsome, hsrc, ht, if_true, hq, Bool.not_false, Bool.and_self]
  rfl

theorem copyToken_branches (y : Fanout) : (copyToken y tok (fun _ => none)).branches =
    y.branches.map (fun z => { z with buf := z.buf ++ [(tok, none)] }) := by
  change y.branches.zipIdx.map ((fun z : Branch => { z with buf := z.buf ++ [(tok, none)] }) ∘ Prod.fst) = _
  rw [← List.map_map, List.zipIdx_map_fst]

/-! ## `BRANCH_SEND` -/

theorem leavesNow_branch (h : e.fan ≠ none) : leavesNow s e = true ↔
    (toLatest s e = true ∨ 0 < e.credits) ∧ bufferUse s (portTile e.src) 20 0 < 4 := by
  have hfan : e.fan.isSome = true := Option.isSome_iff_ne_none.mpr h
  rw [leavesNow, portFree, edgeInput, if_pos hfan, hfan, Bool.true_or, Bool.and_true, Bool.and_eq_true, maySend_iff, hasEntry_iff]
  rfl

/-- The permit that a token closes as it leaves its branch, in the words of the statement (R183). -/
theorem permitToken_eq : permitToken b p = match p with
    | none => []
    | some y => if y.w ≠ 0 ∧ y.no % y.w = 0 then
        [({ kind := 7, payload := BitVec.ofNat 32 (y.no / y.w % 65536 * 65536 + y.w * 256 + b) }, y.chan)] else [] := by
  cases p with
  | none => rfl
  | some y =>
    by_cases h : y.w ≠ 0 ∧ y.no % y.w = 0
    · have h' : ¬(y.w = 0 ∨ y.no % y.w ≠ 0) := by tauto
      exact (if_neg h').trans (if_pos h).symm
    · have h' : y.w = 0 ∨ y.no % y.w ≠ 0 := by tauto
      exact (if_pos h').trans (if_neg h).symm

/-- A branch without a permit to send takes its turn with a token (R182, R183). -/
theorem exec_branchSend_token (hb : (s.fo x).branches[b]? = some br) (hs : br.spaces = []) (hbuf : br.buf = (tok, p) :: l) :
    exec (.branchSend x b) s = .next (if leavesNow s (s.ed br.edge) then
      sendOn (s.setFo x { s.fo x with branches := (s.fo x).branches.set b { br with buf := l, spaces := permitToken b p } })
        (s.ed br.edge) tok else s) := by
  have hidle : deliverSpace s x b = s := by simp only [deliverSpace, hb, hs]
  change execBranchSend x b s = _
  simp only [execBranchSend, hidle, hb, hbuf, hs, List.nil_append]

/-- A branch sends its token once the edge has a credit and the buffer of the fan-out units an entry (R182, R183). -/
theorem exec_branchSend_sends (hb : (s.fo x).branches[b]? = some br) (hs : br.spaces = []) (hbuf : br.buf = (tok, p) :: l)
    (hfan : (s.ed br.edge).fan ≠ none)
    (hmay : (toLatest s (s.ed br.edge) = true ∨ 0 < (s.ed br.edge).credits) ∧ bufferUse s (portTile (s.ed br.edge).src) 20 0 < 4) :
    exec (.branchSend x b) s = .next (setOut
      (s.setFo x { s.fo x with branches := (s.fo x).branches.set b { br with buf := l, spaces := permitToken b p } })
      (s.ed br.edge) tok) := by
  rw [exec_branchSend_token hb hs hbuf, if_pos ((leavesNow_branch hfan).mpr hmay), sendOn_branch hfan]

/-- No router's element port is the port of its fan-out units. -/
theorem fanPlace_ne_elemPlace (y : TileRef) (z : ElemRef) : Place.port y fanPort ≠ elemPlace z := fun h => by
  have hport : fanPort = z.elem.toNat := (Place.port.inj h).2
  have hlt := z.elem.isLt
  simp only [fanPort] at hport
  omega

theorem spacesTo_eq : spacesTo s n k = (s.net.filter (fun f => bringsPermit n k f.load)).length := by
  rw [spacesTo, List.countP_eq_length_filter]
  refine congrArg List.length (List.filter_congr fun f _ => ?_)
  unfold bringsPermit
  cases f.load <;> simp only [Bool.decide_and]

/-- A channel with room takes one token more that no edge brings (R162, R350, R380). -/
theorem chanRoom_of_roomAt (h : roomAt s n k) : chanRoom s n k = true := by
  obtain ⟨hlen, hrec⟩ := h
  have htaken : ciTaken s n k < 4 := by
    rw [ciTaken, spacesTo_eq]
    exact hlen
  have hentering : (decide (k = 3) && recordEntering s n) = false := by
    rw [Bool.and_eq_false_imp, decide_eq_true_iff]
    intro hk
    rw [recordEntering, List.any_eq_false]
    intro y hy
    simpa using hrec hk y hy
  rw [chanRoom, hentering, decide_eq_true htaken]
  rfl

/-- The flit of a permit, from the fan-out units of a router to an element (R183, R350). -/
def permitFlit (s : State) (y : TileRef) (c : NodeRef × BitVec 2) (tok : Token) : Flit :=
  { vn := 1, load := .space c.1 c.2 tok, here := y, inp := 20, waits := true, path := routeTo y c.1.elemRef.tileRef,
    out := c.1.elem.toNat, ready := s.cycle }

theorem messageFlit_permit (y : TileRef) (c : NodeRef × BitVec 2) :
    messageFlit s 1 (.space c.1 c.2 tok) (.port y fanPort) (elemPlace c.1.elemRef) = some (permitFlit s y c tok) :=
  if_neg (fanPlace_ne_elemPlace y c.1.elemRef)

/-- A fan-out whose branch `b` has sent its first permit to a channel (R183). -/
def permitSent (s : State) (x b : Nat) (br : Branch) (c : NodeRef × BitVec 2) (tok : Token) (l : List (Token × Word)) : State :=
  fire { s.setFo x { s.fo x with branches := (s.fo x).branches.set b { br with spaces := l } } with
    net := s.net ++ [permitFlit s (portTile (s.fo x).src) c tok] } (s.fo x).region

theorem permitSent_fo {c : NodeRef × BitVec 2} : (permitSent s x b br c tok l').fo x =
    { s.fo x with branches := (s.fo x).branches.set b { br with spaces := l' } } :=
  (fire_fo x).trans (State.fo_setFo_self ..)

/-- A permit that is due sets out on virtual network 1 for the channel that it names (R183, R350). -/
theorem exec_branchSend_permit (hb : (s.fo x).branches[b]? = some br) (hs : br.spaces = (tok, w) :: l') (hbuf : br.buf = [])
    (hroom : chanRoom s (spaceChannel (Port.dieOf (s.fo x).src) w).1 (spaceChannel (Port.dieOf (s.fo x).src) w).2 = true) :
    exec (.branchSend x b) s = .next (permitSent s x b br (spaceChannel (Port.dieOf (s.fo x).src) w) tok l') := by
  have hlt : b < (s.fo x).branches.length := (List.getElem?_eq_some_iff.mp hb).1
  have hdel : deliverSpace s x b = permitSent s x b br (spaceChannel (Port.dieOf (s.fo x).src) w) tok l' := by
    simp only [deliverSpace, hb, hs, hroom, if_true, messageFlit_permit]
    rfl
  change execBranchSend x b s = _
  simp only [execBranchSend, hdel, permitSent_fo, List.getElem?_set_self hlt, hbuf]

end Sys2Proof.Machine

namespace Sys2Proof.Proofs
open Sys2Proof.Machine Sys2Proof.Claims

/-- Settles O21: the turn of a port, and the state that each step leaves. -/
theorem tokensLeave : Obligations.TokensLeave := by
  intro s
  refine ⟨fun n k => sendTurn_iff, fun n k e he => sendable_of_edge he,
    fun n k e tok q he hq => ⟨exec_tokenSend_waits he hq, fun ht => ?_⟩, fun i => exec_creditReturn_none, fun i hi => ?_, fun x n c tok q hsrc hq hne => ⟨exec_fanoutCopy_full, fun hfree ht => ?_⟩,
    fun x b br tok p rest hb hs hbuf hfan => ⟨fun hmay => ?_, fun hmay => ?_⟩, fun x b br tok w rest hb hs hbuf => ?_⟩
  -- `TOKEN_SEND` in the channel's turn
  · refine ⟨_, exec_tokenSend_sends he hq ht, leavesOn_setOut rfl rfl rfl (fun m => ?_), portServed_notePort rfl rfl setOut_elem, ?_,
      fun j hj => ?_, ?_, fun m hm => ?_, ?_⟩
    · rw [notePort_nd, popped_ccfg]
    · rw [setOut_nd, notePort_nd, popped_coq_self]
    · rw [setOut_nd, notePort_nd, popped_coq_ne hj]
    · rw [setOut_nd, notePort_nd, popped_nd_self]
      rfl
    · rw [setOut_nd, notePort_nd, popped_nd_ne hm]
    · rw [setOut_frame]
      rfl
  -- `CREDIT_RETURN`
  · refine ⟨_, exec_creditReturn_due hi, ?_, fun j hj => ?_, ?_⟩
    · rw [fire_ed, State.ed_setEd_self]
    · rw [fire_ed, State.ed_setEd_ne _ _ hj]
    · rw [fire_frame]
      rfl
  -- `FANOUT_COPY`
  · refine ⟨_, exec_fanoutCopy_copies hsrc hq hne hfree ht, ?_, portServed_notePort rfl rfl fire_elem, ?_, fun m hm => ?_, ?_⟩
    · rw [fire_nd, State.nd_setFo, notePort_nd, popped_coq_self]
    · rw [fire_fo, State.fo_setFo_self, copyToken_branches]
    · rw [fire_nd, State.nd_setFo, notePort_nd, popped_nd_ne hm]
    · rw [fire_frame]
      rfl
  -- `BRANCH_SEND` of a token: it waits, or it leaves
  · rw [exec_branchSend_token hb hs hbuf, if_neg (fun h => hmay ((leavesNow_branch hfan).mp h))]
  · refine ⟨_, permitToken b p, exec_branchSend_sends hb hs hbuf hfan hmay, leavesOn_setOut rfl rfl rfl (fun _ => rfl),
      ?_, ?_, permitToken_eq⟩
    · rw [setOut_fo, State.fo_setFo_self]
    · rw [setOut_frame]
      rfl
  -- `BRANCH_SEND` of a permit
  · intro n k hroom
    refine ⟨_, exec_branchSend_permit hb hs hbuf (chanRoom_of_roomAt hroom), ?_, ?_, ?_⟩
    · rw [permitSent_fo]
    · rw [permitSent, fire_frame]
      rfl
    · rw [permitSent, fire_net]
      rfl

end Sys2Proof.Proofs
end

section
/-! SUPPORT. The admission of a token to an input channel in the words of the statements (R171-R175), and what taking a fault leaves
of the state and of its node (R42, R162, R380). -/

namespace Sys2Proof.Machine
open Sys2Proof.Claims

variable {s t u : State} {n m : NodeRef} {k j : BitVec 2} {tok : Token} {q : List Token} {c : Word} {nd : Node}

/-! ## Formats and blocks (R171, R174) -/

theorem toNat_ccAccf : (ccAccf c).toNat = field c 26 3 := toNat_bits c 26 3

theorem isStop_iff {x : BitVec 3} : isStop x = true ↔ x = 2 ∨ x = 3 ∨ x = 4 := by
  revert x
  decide

theorem eq_ccAccf_iff : tok.fmt = ccAccf c ↔ tok.fmt.toNat = field c 26 3 := by
  rw [← toNat_ccAccf, BitVec.toNat_inj]

theorem passes_eq_fits : passes c tok = fits c tok := by
  by_cases h0 : tok.kind = 0
  · simp only [passes, fits, kindData, h0, if_true, ccAccv, bitAt, eq_ccAccf_iff]
  · by_cases h1 : tok.kind = 1
    · have hfmt : (tok.fmt = ccAccf c ∧ 4 ≤ (ccAccf c).toNat ∧ (ccAccf c).toNat ≤ 6) ↔
          (tok.fmt.toNat = field c 26 3 ∧ 4 ≤ tok.fmt.toNat ∧ tok.fmt.toNat ≤ 6) :=
        ⟨fun h => ⟨eq_ccAccf_iff.mp h.1, h.1 ▸ h.2⟩, fun h => ⟨eq_ccAccf_iff.mpr h.1, eq_ccAccf_iff.mpr h.1 ▸ h.2⟩⟩
      rw [passes, fits, kindData, kindScale, if_neg h0, if_neg h0, if_pos h1, if_pos h1, ← Bool.decide_and, decide_eq_decide.mpr hfmt]
      rfl
    · simp only [passes, fits, kindData, kindScale, h0, h1, if_false]

/-- `c'` is the configuration `c` with the state of its block: INBLK and BCNT (R174). -/
def HoldsBlock (c c' : Word) (b : Bool × Nat) : Prop :=
  c'.getLsbD 13 = b.1 ∧ field c' 6 7 = b.2 ∧ c' &&& 0xFFFFC03F = c &&& 0xFFFFC03F

theorem holdsBlock_refl (c : Word) : HoldsBlock c c (c.getLsbD 13, field c 6 7) := ⟨rfl, rfl, rfl⟩

theorem holdsBlock_count (c : Word) {v : Nat} (h : v < 128) : HoldsBlock c (setBits c 6 7 v) (c.getLsbD 13, v) := by
  refine ⟨?_, (field_setBits_self (by decide)).trans (Nat.mod_eq_of_lt h), setBits_and_mask (by decide)⟩
  rw [getLsbD_setBits, if_neg (by decide)]

theorem holdsBlock_open (c : Word) (b : Bool) : HoldsBlock c (setBits (setBits c 13 1 b.toNat) 6 7 0) (b, 0) := by
  refine ⟨?_, field_setBits_self (by decide), (setBits_and_mask (by decide)).trans (setBits_and_mask (by decide))⟩
  rw [getLsbD_setBits, if_neg (by decide), getLsbD_setBits, if_pos (by decide)]
  cases b <;> rfl

/-- A block of the channel is open (R174). -/
def blockOpen (c : Word) : Bool := c.getLsbD 13 && decide (field c 6 7 < field c 15 6 + 1)

/-- The channel counts the blocks of a narrow format (R174). -/
def countsBlocks (c : Word) : Prop := c.getLsbD 29 ∧ 4 ≤ field c 26 3 ∧ field c 26 3 ≤ 6

theorem blockStep_of_not_counts (h : ¬countsBlocks c) : blockStep c tok = some c := by
  refine if_neg fun hb => h ?_
  rwa [Bool.and_eq_true, decide_eq_true_iff, toNat_ccAccf] at hb

theorem blockStep_of_counts (h : countsBlocks c) : blockStep c tok =
    if tok.kind = 1 then (if blockOpen c then none else some (setBits (setBits c 13 1 1) 6 7 0))
    else if tok.kind = 0 ∨ tok.kind = 6 then
      if blockOpen c then some (setBits c 6 7 (field c 6 7 + 1)) else if tok.kind = 0 then none else some c
    else if tok.kind = 2 ∨ tok.kind = 3 ∨ tok.kind = 4 then some (setBits (setBits c 13 1 0) 6 7 0)
    else some c := by
  have hb : (ccAccv c && decide (4 ≤ (ccAccf c).toNat ∧ (ccAccf c).toNat ≤ 6)) = true := by
    rwa [Bool.and_eq_true, decide_eq_true_iff, toNat_ccAccf]
  have hcnt : ccBcnt c = field c 6 7 := bitsNat_eq_field ..
  have ho : (ccInblk c && decide (field c 6 7 < ccBlen c)) = blockOpen c := by
    rw [ccBlen, bitsNat_eq_field]
    rfl
  rw [blockStep, if_pos hb]
  simp only [hcnt, ho, isStop_iff, kindScale, kindData, kindPoison]
  rfl

theorem blockAfter_of_counts (h : countsBlocks c) : blockAfter c tok =
    if tok.kind = 1 then (if blockOpen c then none else some (true, 0))
    else if tok.kind = 0 then (if blockOpen c then some (true, field c 6 7 + 1) else none)
    else if tok.kind = 6 then some (if blockOpen c then (true, field c 6 7 + 1) else (c.getLsbD 13, field c 6 7))
    else if tok.kind = 2 ∨ tok.kind = 3 ∨ tok.kind = 4 then some (false, 0)
    else some (c.getLsbD 13, field c 6 7) :=
  if_neg (not_not_intro h)

/-- Where a block is open, one more element of it is counted. -/
theorem holdsBlock_next (h : blockOpen c = true) : HoldsBlock c (setBits c 6 7 (field c 6 7 + 1)) (true, field c 6 7 + 1) := by
  obtain ⟨hin, hlt⟩ := Bool.and_eq_true_iff.mp h
  have hlen : field c 15 6 < 64 := Nat.mod_lt _ (by decide)
  have hcount := holdsBlock_count c (v := field c 6 7 + 1) (by have := of_decide_eq_true hlt; omega)
  rwa [hin] at hcount

/-- An admitted token changes the block count of a channel as R174 has it, and the rest of CCFG not at all. -/
theorem blockStep_holds (c : Word) (tok : Token) : Option.Rel (HoldsBlock c) (blockStep c tok) (blockAfter c tok) := by
  by_cases hc : countsBlocks c
  · rw [blockStep_of_counts hc, blockAfter_of_counts hc]
    by_cases hs : tok.kind = 1
    · rw [if_pos hs, if_pos hs]
      by_cases ho : blockOpen c = true
      · rw [if_pos ho, if_pos ho]
        exact .none
      · rw [if_neg ho, if_neg ho]
        exact .some (holdsBlock_open c true)
    · rw [if_neg hs, if_neg hs]
      by_cases hd : tok.kind = 0
      · rw [if_pos (.inl hd), if_pos hd, if_pos hd]
        by_cases ho : blockOpen c = true
        · rw [if_pos ho, if_pos ho]
          exact .some (holdsBlock_next ho)
        · rw [if_neg ho, if_neg ho]
          exact .none
      · rw [if_neg hd, if_neg hd]
        by_cases hp : tok.kind = 6
        · rw [if_pos (.inr hp), if_pos hp]
          by_cases ho : blockOpen c = true
          · rw [if_pos ho, if_pos ho]
            exact .some (holdsBlock_next ho)
          · rw [if_neg ho, if_neg ho]
            exact .some (holdsBlock_refl c)
        · rw [if_neg (not_or.mpr ⟨hd, hp⟩), if_neg hp]
          by_cases hstop : tok.kind = 2 ∨ tok.kind = 3 ∨ tok.kind = 4
          · rw [if_pos hstop, if_pos hstop]
            exact .some (holdsBlock_open c false)
          · rw [if_neg hstop, if_neg hstop]
            exact .some (holdsBlock_refl c)
  · rw [blockStep_of_not_counts hc]
    have hafter : blockAfter c tok = some (c.getLsbD 13, field c 6 7) := if_pos hc
    rw [hafter]
    exact .some (holdsBlock_refl c)

theorem blockStep_of_none (h : blockAfter c tok = none) : blockStep c tok = none := by
  have hrel := blockStep_holds c tok
  rw [h] at hrel
  generalize blockStep c tok = x at hrel
  cases hrel
  rfl

theorem blockStep_of_some {b : Bool × Nat} (h : blockAfter c tok = some b) : ∃ c', blockStep c tok = some c' ∧ HoldsBlock c c' b := by
  have hrel := blockStep_holds c tok
  rw [h] at hrel
  generalize blockStep c tok = x at hrel
  cases hrel with
  | some hb => exact ⟨_, rfl, hb⟩

/-! ## What a fault leaves -/

variable {slot : BitVec 4} {opc : BitVec 8} {fi : FaultInfo} {keep : Option InFlight}

/-- The end of a session writes in nodes and elements alone (R162). -/
theorem sessionFaults_frame (cause : BitVec 8) (i : Nat) : sessionFaults s n cause i =
    { s with
      node := (sessionFaults s n cause i).node
      elem := (sessionFaults s n cause i).elem } := by
  unfold sessionFaults
  dsimp only
  split
  · split <;> rfl
  · rfl

/-- The end of a session takes tokens from output channels of its callee, and leaves the rest of every node (R161, R162). -/
theorem sessionFaults_nd (cause : BitVec 8) (i : Nat) :
    { (sessionFaults s n cause i).nd m with co := [] } = { s.nd m with co := [] } := by
  unfold sessionFaults
  dsimp only
  split
  · rw [State.nd_setEl]
    split
    · by_cases hm : m = n
      · subst hm
        rw [State.updNd, State.nd_setNd_self]
        rfl
      · rw [State.updNd, State.nd_setNd_ne _ _ hm]
    · rfl
  · rfl

theorem gateCalleeFaults_nd (cause : BitVec 8) :
    { (gateCalleeFaults s n cause).nd m with co := [] } = { s.nd m with co := [] } :=
  foldl_keeps (v := fun s : State => { s.nd m with co := [] }) (fun _ _ => sessionFaults_nd cause _) _ _

/-- What the end of sessions leaves of a state: all but its nodes and elements. -/
def offElements (s : State) : State := { s with node := [], elem := [] }

theorem gateCalleeFaults_off (cause : BitVec 8) : offElements (gateCalleeFaults s n cause) = offElements s :=
  foldl_keeps (v := offElements) (fun _ _ => by rw [sessionFaults_frame]; rfl) _ _

theorem frame_of_offElements (h : offElements t = offElements s) : t = { s with node := t.node, elem := t.elem } :=
  calc t = { offElements t with node := t.node, elem := t.elem } := rfl
    _ = { offElements s with node := t.node, elem := t.elem } := by rw [h]

/-- A fault at a node writes in nodes and elements and sends a trap record (R42, R162, R380). -/
theorem takeFault_frame : takeFault s n slot opc fi keep =
    { s with
      node := (takeFault s n slot opc fi keep).node
      elem := (takeFault s n slot opc fi keep).elem
      serial := (takeFault s n slot opc fi keep).serial
      traps := (takeFault s n slot opc fi keep).traps } := by
  obtain ⟨tr, w, h⟩ := takeFault_eq (s := s) (n := n) (slot := slot) (opc := opc) (fi := fi) (keep := keep)
  rw [h, frame_of_offElements (gateCalleeFaults_off (n := n) (s := s.setNd n
    { s.nd n with st := .faulted, cause := fi.cause, trec := w, flight := none, faulting := keep }) fi.cause)]
  rfl

/-- A fault leaves the input channels of its node, their counts and the edge stage (R42). -/
theorem takeFault_inputs : ((takeFault s n slot opc fi keep).nd n).ci = (s.nd n).ci ∧
    ((takeFault s n slot opc fi keep).nd n).seq = (s.nd n).seq ∧
    ((takeFault s n slot opc fi keep).nd n).badToken = (s.nd n).badToken := by
  obtain ⟨tr, w, h⟩ := takeFault_eq (s := s) (n := n) (slot := slot) (opc := opc) (fi := fi) (keep := keep)
  have hnd := gateCalleeFaults_nd (n := n) (m := n) (s := s.setNd n
    { s.nd n with st := .faulted, cause := fi.cause, trec := w, flight := none, faulting := keep }) fi.cause
  rw [State.nd_setNd_self] at hnd
  rw [h]
  exact ⟨(congrArg Node.ci hnd :), (congrArg Node.seq hnd :), (congrArg Node.badToken hnd :)⟩

end Sys2Proof.Machine
end

section
/-! PROOF. Tokens arrive at an input channel (O46; R171-R175). -/

namespace Sys2Proof.Machine
open Sys2Proof.Claims

variable {s t u : State} {i : Nat} {n m : NodeRef} {k j : BitVec 2} {tok : Token} {q : List Token} {c : Word} {nd v : Node}

/-! ## The edge -/

/-- The first token of an edge has left it (R171). -/
def landed (s : State) (i : Nat) (q : List Token) : State := fire (s.setEd i { s.ed i with flight := q }) (s.ed i).region

@[simp] theorem landed_nd : (landed s i q).nd n = s.nd n := fire_nd
theorem landed_node : (landed s i q).node = s.node := fire_node
theorem landed_elem : (landed s i q).elem = s.elem := fire_elem

theorem landed_issuing : (landed s i q).issuing n = s.issuing n := by
  rw [landed, fire_frame]
  rfl

/-- A token that an input channel takes has left the edge; one that it does not take stays (R171). -/
theorem exec_tokenArrival (hf : (s.ed i).flight = tok :: q) (hd : (s.ed i).dst = .inp n k) (hm : tok.kind ≠ 5) :
    exec (.tokenArrival i) s = .next (if channelTakes s n k tok then arriveChannel (landed s i q) n k tok else s) := by
  have hmark : ¬tok.kind = kindMark := hm
  change execTokenArrival i s = _
  simp only [execTokenArrival, hf, hd, hmark, if_false, landed]

/-- What an arrival leaves outside of nodes and elements: the edge without its first token. -/
def LeavesEdge (s t : State) (i : Nat) (q : List Token) : Prop :=
  t.ed i = { s.ed i with flight := q } ∧ (∀ l, l ≠ i → t.ed l = s.ed l) ∧ t.mem = s.mem ∧ t.tile = s.tile ∧ t.net = s.net

theorem leavesEdge_of_frame (h : t = { landed s i q with node := t.node, elem := t.elem, serial := t.serial, traps := t.traps }) :
    LeavesEdge s t i q := by
  have hed : ∀ l, t.ed l = (landed s i q).ed l := fun l => by rw [h]; rfl
  refine ⟨?_, fun l hl => ?_, ?_, ?_, ?_⟩
  · rw [hed, landed, fire_ed, State.ed_setEd_self]
  · rw [hed, landed, fire_ed, State.ed_setEd_ne _ _ hl]
  · rw [h, landed, fire_frame]
    rfl
  · rw [h, landed, fire_frame]
    rfl
  · rw [h, landed, fire_frame]
    rfl

/-! ## What a channel takes -/

theorem channelTakes_latest (h : ccLv ((s.nd n).ccfgAt k) = true) : channelTakes s n k tok = true := if_pos h

/-- Nothing keeps the edge of a channel that takes no latest value from delivering (R172, R173, R395). -/
structure Opened (nd : Node) (k : BitVec 2) : Prop where
  plain : ccLv (nd.ccfgAt k) = false
  unsteered : ccStrd (nd.ccfgAt k) = false
  stage : ∀ x, nd.badToken = some x → x.1 ≠ k
  unmarked : nd.marks.getLsbD k.toNat = false

theorem channelTakes_steered (hlv : ccLv ((s.nd n).ccfgAt k) = false) (hst : ccStrd ((s.nd n).ccfgAt k) = true) :
    channelTakes s n k tok = false := by
  simp only [channelTakes, edgeOpen, hlv, hst, Bool.not_true, Bool.false_and]
  rfl

theorem badAt_of_stage (h : ∀ x, nd.badToken = some x → x.1 ≠ k) : badAt nd k = false := by
  unfold badAt
  split
  · next hb => exact decide_eq_false (h _ hb)
  · rfl

theorem channelTakes_opened (h : Opened (s.nd n) k) : channelTakes s n k tok =
    if fits ((s.nd n).ccfgAt k) tok then
      if (blockStep ((s.nd n).ccfgAt k) tok).isSome then decide (((s.nd n).ciq k).length < 4) else canFail (s.nd n)
    else if ccStv ((s.nd n).ccfgAt k) then chanRoom s (n.elemRef.nodeRef (ccStn ((s.nd n).ccfgAt k))) 3 else canFail (s.nd n) := by
  simp only [channelTakes, edgeOpen, h.plain, h.unsteered, h.unmarked, badAt_of_stage h.stage, passes_eq_fits, Bool.not_false,
    Bool.and_self, Bool.true_and]
  rfl

theorem channelTakes_admitted {c' : Word} (h : Opened (s.nd n) k) (hfit : fits ((s.nd n).ccfgAt k) tok = true)
    (hb : blockStep ((s.nd n).ccfgAt k) tok = some c') (hlen : ((s.nd n).ciq k).length < 4) : channelTakes s n k tok = true := by
  rw [channelTakes_opened h, if_pos hfit, hb]
  exact decide_eq_true hlen

theorem channelTakes_diverted (h : Opened (s.nd n) k) (hfit : fits ((s.nd n).ccfgAt k) tok = false)
    (hst : ccStv ((s.nd n).ccfgAt k) = true) (hroom : roomAt s (n.elemRef.nodeRef (ccStn ((s.nd n).ccfgAt k))) 3) :
    channelTakes s n k tok = true := by
  rw [channelTakes_opened h, hfit, hst]
  exact chanRoom_of_roomAt hroom

theorem channelTakes_misplaced (h : Opened (s.nd n) k) (hfit : fits ((s.nd n).ccfgAt k) tok = true)
    (hb : blockStep ((s.nd n).ccfgAt k) tok = none) (hcan : canFail (s.nd n) = true) : channelTakes s n k tok = true := by
  rw [channelTakes_opened h, if_pos hfit, hb]
  exact hcan

theorem channelTakes_misfit (h : Opened (s.nd n) k) (hfit : fits ((s.nd n).ccfgAt k) tok = false)
    (hst : ccStv ((s.nd n).ccfgAt k) = false) (hcan : canFail (s.nd n) = true) : channelTakes s n k tok = true := by
  rw [channelTakes_opened h, hfit, hst]
  exact hcan

theorem canFail_of_run (hb : nd.badToken = none) (hst : nd.st = .run) : canFail nd = true := by
  rw [canFail, hb, hst]
  rfl

/-! ## What an arrival does -/

/-- A node in RUN without a transition takes a fault from outside at once (R42, R173). -/
theorem faultFromOutside_run {slot : BitVec 4} {opc : BitVec 8} {fi : FaultInfo} (hst : (s.nd n).st = .run)
    (hfl : (s.nd n).flight = none) (hi : s.issuing n = false) :
    faultFromOutside s n slot opc fi = takeFault s n slot opc fi none := by
  have hrun : ¬((s.nd n).st = .off ∨ (s.nd n).st = .faulted) := by
    rw [hst]
    decide
  exact (if_neg hrun).trans (if_pos ⟨hfl, hi⟩)

theorem arriveChannel_latest (h : ccLv ((u.nd n).ccfgAt k) = true) : arriveChannel u n k tok = arriveLatest u n k tok := if_pos h

theorem arriveLatest_enters (hk : tok.kind = 0 ∨ tok.kind = 6) (hfit : fits ((u.nd n).ccfgAt k) tok = true) :
    arriveLatest u n k tok = u.updNd n (fun nd => (nd.setCi k []).enterCi k tok) :=
  (if_pos hk).trans (if_pos (passes_eq_fits.trans hfit))

theorem arriveLatest_drops (hk : ¬(tok.kind = 0 ∨ tok.kind = 6)) : arriveLatest u n k tok = u := if_neg hk

theorem arriveLatest_fails (hk : tok.kind = 0) (hfit : fits ((u.nd n).ccfgAt k) tok = false) :
    arriveLatest u n k tok = faultFromOutside u n 0 0 (formatFault k tok false) :=
  (if_pos (.inl hk)).trans (if_neg (by rw [passes_eq_fits, hfit]; exact Bool.false_ne_true))

/-- The node of a channel with a token more and another configuration of the channel. -/
def admitted (nd : Node) (k : BitVec 2) (tok : Token) (c' : Word) : Node :=
  { nd.enterCi k tok with ccfg := Map.set nd.ccfg k.toNat c' }

theorem admitted_ccfgAt {c' : Word} : (admitted nd k tok c').ccfgAt k = c' := Map.get_set_self ..

theorem arriveChannel_admits {c' : Word} (hlv : ccLv ((u.nd n).ccfgAt k) = false) (hfit : fits ((u.nd n).ccfgAt k) tok = true)
    (hb : blockStep ((u.nd n).ccfgAt k) tok = some c') :
    arriveChannel u n k tok = u.updNd n (fun nd => admitted nd k tok c') := by
  simp only [arriveChannel, hlv, passes_eq_fits, hfit, takeIn, hb, if_true]
  rfl

theorem arriveChannel_misplaced (hlv : ccLv ((u.nd n).ccfgAt k) = false) (hfit : fits ((u.nd n).ccfgAt k) tok = true)
    (hb : blockStep ((u.nd n).ccfgAt k) tok = none) : arriveChannel u n k tok = raiseFormat u n k tok false := by
  simp only [arriveChannel, hlv, passes_eq_fits, hfit, takeIn, hb, if_true]
  rfl

theorem arriveChannel_misfit (hlv : ccLv ((u.nd n).ccfgAt k) = false) (hfit : fits ((u.nd n).ccfgAt k) tok = false)
    (hst : ccStv ((u.nd n).ccfgAt k) = false) : arriveChannel u n k tok = raiseFormat u n k tok false := by
  simp only [arriveChannel, hlv, passes_eq_fits, hfit, hst]
  rfl

/-- A channel has sent a token to its steer node, and is steered (R172). -/
def diverted (u : State) (n m : NodeRef) (k : BitVec 2) (tok : Token) : State :=
  (u.updNd m (fun nd => nd.enterCi 3 tok)).updNd n (fun nd => { nd with
    ccfg := Map.set nd.ccfg k.toNat (setBits ((u.nd n).ccfgAt k) 14 1 1)
    spare := Map.modify nd.spare 0 k.toNat (· + 1) })

theorem arriveChannel_diverts (hlv : ccLv ((u.nd n).ccfgAt k) = false) (hfit : fits ((u.nd n).ccfgAt k) tok = false)
    (hst : ccStv ((u.nd n).ccfgAt k) = true) :
    arriveChannel u n k tok = diverted u n (n.elemRef.nodeRef (ccStn ((u.nd n).ccfgAt k))) k tok := by
  simp only [arriveChannel, hlv, passes_eq_fits, hfit, hst, if_true]
  rfl

/-! ## The node of the channel -/

theorem enterCi_ciq_ne (h : j ≠ k) : (nd.enterCi k tok).ciq j = nd.ciq j := (setCi_ciq nd k j _).trans (if_neg h)
theorem enterCi_seqAt : (nd.enterCi k tok).seqAt k = nd.seqAt k + 1 := Map.get_set_self ..

theorem onlyInput_setNd (hu : u.node = s.node) (hci : ∀ j, j ≠ k → v.ciq j = (s.nd n).ciq j) (hco : v.co = (s.nd n).co)
    (hg : v.g = (s.nd n).g) (hp : v.p = (s.nd n).p) (hfp : v.fpstat = (s.nd n).fpstat) : OnlyInput s (u.setNd n v) n k := by
  have hnd : ∀ m, u.nd m = s.nd m := fun m => by rw [State.nd, hu, State.nd]
  have hself : (u.setNd n v).nd n = v := State.nd_setNd_self ..
  exact ⟨fun m hm => (State.nd_setNd_ne _ _ hm).trans (hnd m), fun j hj => by rw [hself, hci j hj], by rw [hself, hco], by rw [hself, hg],
    by rw [hself, hp], by rw [hself, hfp]⟩

theorem diverted_ciq_steer : ((diverted u n m k tok).nd m).ciq 3 = (u.nd m).ciq 3 ++ [tok] := by
  rw [diverted]
  by_cases h : m = n
  · subst h
    rw [State.updNd, State.nd_setNd_self, State.updNd, State.nd_setNd_self]
    exact enterCi_ciq ..
  · rw [State.updNd, State.nd_setNd_ne _ _ h, State.updNd, State.nd_setNd_self]
    exact enterCi_ciq ..

theorem diverted_ciq : (m = n ∧ k = 3) ∨ ((diverted u n m k tok).nd n).ciq k = (u.nd n).ciq k := by
  rw [diverted, State.updNd, State.nd_setNd_self]
  by_cases h : m = n
  · by_cases hk : k = 3
    · exact .inl ⟨h, hk⟩
    · subst h
      rw [State.updNd, State.nd_setNd_self]
      exact .inr (enterCi_ciq_ne hk)
  · rw [State.updNd, State.nd_setNd_ne _ _ (Ne.symm h)]
    exact .inr rfl

theorem diverted_ccfg : Map.get ((diverted u n m k tok).nd n).ccfg 0 k.toNat = (u.nd n).ccfgAt k ||| 0x4000 := by
  rw [diverted, State.updNd, State.nd_setNd_self, Map.get_set_self, setBits_one]
  rfl

/-- A token that fails at an open channel of a node in RUN stays at the edge stage, and the node takes FORMAT (R173). -/
theorem raiseFormat_run (hst : (u.nd n).st = .run) (hfl : (u.nd n).flight = none) (hi : u.issuing n = false) :
    raiseFormat u n k tok false =
      takeFault (u.updNd n (fun nd => { nd with badToken := some (k, tok, false) })) n 0 0 (formatFault k tok false) none := by
  refine faultFromOutside_run ?_ ?_ hi
  · rw [State.updNd, State.nd_setNd_self]
    exact hst
  · rw [State.updNd, State.nd_setNd_self]
    exact hfl

/-! ## `TOKEN_ARRIVAL` -/

/-- An arrival takes the first token of an edge. -/
def Takes (s : State) (i : Nat) (q : List Token) (t : State) : Prop := exec (.tokenArrival i) s = .next t ∧ LeavesEdge s t i q

section
variable (hf : (s.ed i).flight = tok :: q) (hd : (s.ed i).dst = .inp n k) (hm : tok.kind ≠ 5)
include hf hd hm

theorem takes_of_arriveChannel (htake : channelTakes s n k tok = true) (harr : arriveChannel (landed s i q) n k tok = t)
    (hframe : t = { landed s i q with node := t.node, elem := t.elem, serial := t.serial, traps := t.traps }) : Takes s i q t :=
  ⟨(exec_tokenArrival hf hd hm).trans (by rw [if_pos htake, harr]), leavesEdge_of_frame hframe⟩

/-- A latest-value channel keeps the newest value (R175). -/
theorem tokenArrival_latest (hlv : ccLv ((s.nd n).ccfgAt k) = true) (hk : tok.kind = 0 ∨ tok.kind = 6)
    (hfit : fits ((s.nd n).ccfgAt k) tok = true) :
    ∃ t, Takes s i q t ∧ ((t.nd n).ciq k = [tok] ∧ (t.nd n).seqAt k = (s.nd n).seqAt k + 1) ∧ OnlyInput s t n k := by
  have harr : arriveChannel (landed s i q) n k tok = (landed s i q).setNd n (((s.nd n).setCi k []).enterCi k tok) := by
    rw [arriveChannel_latest (by rwa [landed_nd]), arriveLatest_enters hk (by rwa [landed_nd]), State.updNd, landed_nd]
  refine ⟨_, takes_of_arriveChannel hf hd hm (channelTakes_latest hlv) harr rfl, ⟨?_, ?_⟩,
    onlyInput_setNd landed_node (fun j hj => ?_) rfl rfl rfl rfl⟩
  · rw [State.nd_setNd_self, enterCi_ciq, setCi_ciq, if_pos rfl, List.nil_append]
  · rw [State.nd_setNd_self, enterCi_seqAt]
    rfl
  · rw [enterCi_ciq_ne hj, setCi_ciq, if_neg hj]

/-- A latest-value channel lets every token that carries no value go by (R175). -/
theorem tokenArrival_latest_drops (hlv : ccLv ((s.nd n).ccfgAt k) = true) (h0 : tok.kind ≠ 0) (h6 : tok.kind ≠ 6) :
    ∃ t, Takes s i q t ∧ t.node = s.node := by
  have harr : arriveChannel (landed s i q) n k tok = landed s i q := by
    rw [arriveChannel_latest (by rwa [landed_nd]), arriveLatest_drops (not_or.mpr ⟨h0, h6⟩)]
  exact ⟨_, takes_of_arriveChannel hf hd hm (channelTakes_latest hlv) harr rfl, landed_node⟩

/-- A value of another format raises FORMAT at a latest-value channel, which keeps what it has (R171, R173, R175). -/
theorem tokenArrival_latest_fails (hlv : ccLv ((s.nd n).ccfgAt k) = true) (hfit : fits ((s.nd n).ccfgAt k) tok = false)
    (hk : tok.kind = 0) (hfl : (s.nd n).flight = none) (hi : s.issuing n = false) (hst : (s.nd n).st = .run) :
    ∃ t, Takes s i q t ∧ (t.nd n).ciq k = (s.nd n).ciq k ∧ (t.nd n).seqAt k = (s.nd n).seqAt k ∧ (t.nd n).st = .faulted ∧
      (t.nd n).cause = 0x05 := by
  have harr : arriveChannel (landed s i q) n k tok = takeFault (landed s i q) n 0 0 (formatFault k tok false) none := by
    rw [arriveChannel_latest (by rwa [landed_nd]), arriveLatest_fails hk (by rwa [landed_nd]),
      faultFromOutside_run (by rwa [landed_nd]) (by rwa [landed_nd]) (landed_issuing.trans hi)]
  obtain ⟨hci, hseq, -⟩ := takeFault_inputs (s := landed s i q) (n := n) (slot := 0) (opc := 0) (fi := formatFault k tok false) (keep := none)
  obtain ⟨hst', hcause, -⟩ := takeFault_nd (s := landed s i q) (n := n) (slot := 0) (opc := 0) (fi := formatFault k tok false) (keep := none)
  rw [landed_nd] at hci hseq
  exact ⟨_, takes_of_arriveChannel hf hd hm (channelTakes_latest hlv) harr takeFault_frame,
    congrArg (fun x => Map.get x [] k.toNat) hci, congrArg (fun x => Map.get x 0 k.toNat) hseq, hst', hcause⟩

/-- A steered channel holds its edge (R172). -/
theorem tokenArrival_steered (hlv : ccLv ((s.nd n).ccfgAt k) = false) (hst : ccStrd ((s.nd n).ccfgAt k) = true) :
    exec (.tokenArrival i) s = .next s := by
  rw [exec_tokenArrival hf hd hm, channelTakes_steered hlv hst]
  rfl

/-- A token that a channel admits enters it and is counted, in its block too (R171, R174). -/
theorem tokenArrival_admits {b : Bool × Nat} (ho : Opened (s.nd n) k) (hfit : fits ((s.nd n).ccfgAt k) tok = true)
    (hb : blockAfter ((s.nd n).ccfgAt k) tok = some b) (hlen : ((s.nd n).ciq k).length < 4) :
    ∃ t, Takes s i q t ∧ t.elem = s.elem ∧
      ((t.nd n).ciq k = (s.nd n).ciq k ++ [tok] ∧ (t.nd n).seqAt k = (s.nd n).seqAt k + 1) ∧ OnlyInput s t n k ∧
      HoldsBlock ((s.nd n).ccfgAt k) ((t.nd n).ccfgAt k) b := by
  obtain ⟨c', hb', hholds⟩ := blockStep_of_some hb
  have harr : arriveChannel (landed s i q) n k tok =
      (landed s i q).setNd n (admitted (s.nd n) k tok c') := by
    rw [arriveChannel_admits (c' := c') (by rw [landed_nd, ho.plain]) (by rwa [landed_nd]) (by rwa [landed_nd]), State.updNd, landed_nd]
  refine ⟨_, takes_of_arriveChannel hf hd hm (channelTakes_admitted ho hfit hb' hlen) harr rfl, landed_elem, ⟨?_, ?_⟩,
    onlyInput_setNd landed_node (fun j hj => enterCi_ciq_ne hj) rfl rfl rfl rfl, ?_⟩
  · rw [State.nd_setNd_self]
    exact enterCi_ciq ..
  · rw [State.nd_setNd_self]
    exact enterCi_seqAt (tok := tok)
  · rw [State.nd_setNd_self, admitted_ccfgAt]
    exact hholds

/-- A token of another format goes to ci3 of the channel's steer node, and the channel is steered (R171, R172). -/
theorem tokenArrival_diverts (ho : Opened (s.nd n) k) (hfit : fits ((s.nd n).ccfgAt k) tok = false)
    (hst : ccStv ((s.nd n).ccfgAt k) = true) (hm' : m = n.elemRef.nodeRef (ccStn ((s.nd n).ccfgAt k))) (hroom : roomAt s m 3) :
    ∃ t, Takes s i q t ∧ t.elem = s.elem ∧ (t.nd m).ciq 3 = (s.nd m).ciq 3 ++ [tok] ∧
      ((m = n ∧ k = 3) ∨ (t.nd n).ciq k = (s.nd n).ciq k) ∧ Map.get (t.nd n).ccfg 0 k.toNat = (s.nd n).ccfgAt k ||| 0x4000 := by
  have harr : arriveChannel (landed s i q) n k tok = diverted (landed s i q) n m k tok := by
    rw [arriveChannel_diverts (by rw [landed_nd, ho.plain]) (by rwa [landed_nd]) (by rwa [landed_nd]), landed_nd, hm']
  refine ⟨_, takes_of_arriveChannel hf hd hm (channelTakes_diverted ho hfit hst (hm' ▸ hroom)) harr rfl, landed_elem, ?_, ?_, ?_⟩
  · rw [diverted_ciq_steer, landed_nd]
  · exact diverted_ciq.imp_right (fun h => h.trans (by rw [landed_nd]))
  · rw [diverted_ccfg, landed_nd]

/-- A token that fails stays at the edge stage, and the node takes FORMAT (R173, R174). -/
theorem tokenArrival_fails (ho : Opened (s.nd n) k)
    (hfail : (fits ((s.nd n).ccfgAt k) tok = false ∧ ccStv ((s.nd n).ccfgAt k) = false) ∨
      (fits ((s.nd n).ccfgAt k) tok = true ∧ blockAfter ((s.nd n).ccfgAt k) tok = none))
    (hbad : (s.nd n).badToken = none) (hst : (s.nd n).st = .run) (hfl : (s.nd n).flight = none) (hi : s.issuing n = false) :
    ∃ t, Takes s i q t ∧ (t.nd n).badToken = some (k, tok, false) ∧ (t.nd n).ci = (s.nd n).ci ∧ (t.nd n).st = .faulted ∧
      (t.nd n).cause = 0x05 := by
  let u := (landed s i q).setNd n { s.nd n with badToken := some (k, tok, false) }
  have hraise : raiseFormat (landed s i q) n k tok false = takeFault u n 0 0 (formatFault k tok false) none := by
    rw [raiseFormat_run (by rwa [landed_nd]) (by rwa [landed_nd]) (landed_issuing.trans hi), State.updNd, landed_nd]
  have htakes : channelTakes s n k tok = true ∧ arriveChannel (landed s i q) n k tok = raiseFormat (landed s i q) n k tok false := by
    have hcan := canFail_of_run hbad hst
    have hplain : ccLv (((landed s i q).nd n).ccfgAt k) = false := by rw [landed_nd, ho.plain]
    rcases hfail with ⟨hfit, hstv⟩ | ⟨hfit, hnone⟩
    · exact ⟨channelTakes_misfit ho hfit hstv hcan, arriveChannel_misfit hplain (by rwa [landed_nd]) (by rwa [landed_nd])⟩
    · have hb := blockStep_of_none hnone
      exact ⟨channelTakes_misplaced ho hfit hb hcan, arriveChannel_misplaced hplain (by rwa [landed_nd]) (by rwa [landed_nd])⟩
  obtain ⟨hci, -, hbad'⟩ := takeFault_inputs (s := u) (n := n) (slot := 0) (opc := 0) (fi := formatFault k tok false) (keep := none)
  obtain ⟨hst', hcause, -⟩ := takeFault_nd (s := u) (n := n) (slot := 0) (opc := 0) (fi := formatFault k tok false) (keep := none)
  rw [State.nd_setNd_self] at hci hbad'
  exact ⟨_, takes_of_arriveChannel hf hd hm htakes.1 (htakes.2.trans hraise) takeFault_frame, hbad', hci, hst', hcause⟩

end

/-- Tokens arrive at an input channel (O46; R171-R175). -/
theorem tokensArrive : TokensArrive := by
  intro s i tok q n k hf hd hm c m stage opened taken enters
  have hopen : opened → Opened (s.nd n) k := fun ⟨hlv, hst, hstage, hmark⟩ => ⟨hlv, hst, hstage, hmark⟩
  exact ⟨fun hlv hk hfit => tokenArrival_latest hf hd hm hlv hk hfit,
    fun hlv h0 h6 => tokenArrival_latest_drops hf hd hm hlv h0 h6,
    fun hlv hfit hk hfl hi hst => tokenArrival_latest_fails hf hd hm hlv hfit hk hfl hi hst,
    fun hlv hst => tokenArrival_steered hf hd hm hlv hst,
    fun ho hfit b hb hlen => tokenArrival_admits hf hd hm (hopen ho) hfit hb hlen,
    fun ho hfit hst hroom => tokenArrival_diverts hf hd hm (hopen ho) hfit hst rfl hroom,
    fun ho hfail hbad hst hfl hi => tokenArrival_fails hf hd hm (hopen ho) hfail hbad hst hfl hi⟩

end Sys2Proof.Machine
end

section
/-! PROOF. A gate's POISON token, the end of a scrub, and the blocks of a quoin (O46; R155, R162, R184). -/

namespace Sys2Proof.Machine
open Sys2Proof.Claims

variable {s : State} {e d : ElemRef} {r : Resource} {l : List Token} {tok : Token}

/-! ## The POISON token of a gate (R162) -/

/-- The POISON token of an ended session goes to the caller's channel once that has room (R162). -/
theorem exec_gatePoisonDelivery {g : BitVec 3} {x : GatePoison}
    (hx : (s.el e).gatePsn.find? (fun x => decide (x.gate = g.toNat)) = some x) (hroom : roomAt s (e.nodeRef x.caller) x.rci)
    (hal : (s.nd (e.nodeRef x.caller)).aligned = none) :
    exec (.gatePoisonDelivery e g) s = .next ((s.setEl e { s.el e with gatePsn := (s.el e).gatePsn.erase x }).setNd
      (e.nodeRef x.caller) ((s.nd (e.nodeRef x.caller)).enterCi x.rci { kind := 6, payload := x.origin })) := by
  have hgo : chanRoom s (e.nodeRef x.caller) x.rci = true ∧ (s.nd (e.nodeRef x.caller)).aligned.isNone = true :=
    ⟨chanRoom_of_roomAt hroom, Option.isNone_iff_eq_none.mpr hal⟩
  change execGatePoisonDelivery e g s = _
  simp only [execGatePoisonDelivery, hx, if_pos hgo]
  rfl

/-! ## Scrubs (R155) -/

theorem scrubbed_el_ne (h : d ≠ e) : (scrubbed s e r).el d = s.el d := by
  cases r with
  | bank i => rfl
  | mbox i | vgrp i | acc i | cell i | gate i => exact State.el_setEl_ne _ _ h

/-- The scrub of a resource leaves the list of scrubs to the end of the scrub. -/
theorem scrubbed_scrub : ((scrubbed s e r).el e).scrub = (s.el e).scrub := by
  cases r with
  | bank i => rfl
  | cell i =>
    rw [scrubbed, State.updEl, State.el_setEl_self]
    split <;> rfl
  | gate i =>
    rw [scrubbed, State.updEl, State.el_setEl_self]
    rfl
  | mbox i | vgrp i | acc i => rw [scrubbed, State.updEl, State.el_setEl_self]

/-- What the scrub of a resource leaves of memory and of the element, in the words of the statement (R155). -/
def Scrubbed (s : State) (e : ElemRef) (mem : List Host.Cell) (x : Elem) : Resource → Prop
  | .bank i => ∀ pa, memGet mem pa = if lsPa e (0x2000 * i) ≤ pa ∧ pa < lsPa e (0x2000 * i) + 0x2000 then 0 else memGet s.mem pa
  | .mbox i => mem = s.mem ∧ Map.get x.mbox {} i = {} ∧ ∀ j, j ≠ i → Map.find x.mbox j = Map.find (s.el e).mbox j
  | .vgrp i => mem = s.mem ∧ ∀ j, Map.get x.vreg {} j = if j / 64 = i then {} else Map.get (s.el e).vreg {} j
  | .acc i => mem = s.mem ∧ zeroed (s.el e).acc x.acc [i]
  | .gate i => mem = s.mem ∧ (x.gateAt i).getLsbD 31 = false
  | .cell _ => mem = s.mem

theorem memGet_clearRange (a n pa : Nat) : memGet (s.clearRange a n).mem pa = if a ≤ pa ∧ pa < a + n then 0 else memGet s.mem pa := by
  have hget := memGet_filter_key (fun x => decide (x < a ∨ a + n ≤ x)) s.mem pa
  refine hget.trans ?_
  by_cases h : a ≤ pa ∧ pa < a + n
  · rw [if_pos h, if_neg (by rw [decide_eq_true_iff]; omega)]
  · rw [if_neg h, if_pos (by rw [decide_eq_true_iff]; omega)]

theorem scrubbed_spec : Scrubbed s e (scrubbed s e r).mem ((scrubbed s e r).el e) r := by
  cases r with
  | bank i => exact memGet_clearRange _ _
  | mbox i =>
    rw [Scrubbed, scrubbed, State.updEl, State.el_setEl_self]
    exact ⟨rfl, Map.get_erase_self .., fun j hj => Map.find_erase_ne _ hj⟩
  | vgrp i =>
    rw [Scrubbed, scrubbed, State.updEl, State.el_setEl_self]
    refine ⟨rfl, fun j => ?_⟩
    have hget := Map.get_filter_key (fun x => decide (x / 64 ≠ i)) (s.el e).vreg {} j
    refine hget.trans ?_
    by_cases h : j / 64 = i
    · rw [if_pos h, if_neg (by simpa using h)]
    · rw [if_neg h, if_pos (decide_eq_true h)]
  | acc i =>
    rw [Scrubbed, scrubbed, State.updEl, State.el_setEl_self]
    exact ⟨rfl, zeroed_clearBanks _ _⟩
  | gate i =>
    rw [Scrubbed, scrubbed, State.updEl, State.el_setEl_self, gateAt_setGate_self, getLsbD_setBits]
    exact ⟨rfl, rfl⟩
  | cell i => rfl

theorem Scrubbed.setScrub {mem : List Host.Cell} {x : Elem} (h : Scrubbed s e mem x r) (q : List (Resource × Nat)) :
    Scrubbed s e mem { x with scrub := q } r := by
  cases r <;> exact h

/-- The end of a scrub frees its resource (R155). -/
def scrubEnded (s : State) (e : ElemRef) (x : Resource × Nat) : State :=
  (scrubbed s e x.1).updEl e (fun el => { el with scrub := el.scrub.erase x })

theorem scrubEnded_el_self {x : Resource × Nat} : (scrubEnded s e x).el e =
    { (scrubbed s e x.1).el e with scrub := (s.el e).scrub.erase x } := by
  rw [scrubEnded, State.updEl, State.el_setEl_self, scrubbed_scrub]

theorem scrubEnded_el_ne {x : Resource × Nat} (h : d ≠ e) : (scrubEnded s e x).el d = s.el d :=
  (State.el_setEl_ne _ _ h).trans (scrubbed_el_ne h)

theorem scrubEnded_spec {x : Resource × Nat} : Scrubbed s e (scrubEnded s e x).mem ((scrubEnded s e x).el e) x.1 := by
  rw [scrubEnded_el_self]
  exact scrubbed_spec.setScrub _

/-- The first scrub whose time has come is found behind those that are still under way. -/
theorem find_due {before after : List (Resource × Nat)} {x : Resource × Nat} {t : Nat} (hx : x.2 ≤ t) (hb : ∀ y ∈ before, t < y.2) :
    (before ++ [x] ++ after).find? (fun y => decide (y.2 ≤ t)) = some x := by
  have hnone : before.find? (fun y => decide (y.2 ≤ t)) = none :=
    List.find?_eq_none.mpr (fun y hy => by simpa using hb y hy)
  rw [List.append_assoc, List.find?_append, hnone, Option.none_or]
  exact List.find?_cons_of_pos (decide_eq_true hx)

theorem erase_due {before after : List (Resource × Nat)} {x : Resource × Nat} {t : Nat} (hx : x.2 ≤ t) (hb : ∀ y ∈ before, t < y.2) :
    (before ++ [x] ++ after).erase x = before ++ after := by
  have hnot : x ∉ before := fun h => absurd (hb x h) (Nat.not_lt.mpr hx)
  rw [List.append_assoc, List.erase_append_right _ hnot, List.singleton_append, List.erase_cons_head]

theorem exec_scrubComplete {x : Resource × Nat} (hx : (s.el e).scrub.find? (fun y => decide (y.2 ≤ s.cycle)) = some x) :
    exec (.scrubComplete e) s = .next (scrubEnded s e x) := by
  change execScrubComplete e s = _
  rw [execScrubComplete, hx]
  rfl

/-! ## The quoin (R184) -/

theorem tport_setTport_self (m : TileRef) (p : BitVec 4) (x : TPort) : (s.setTport m p x).tport m p = x := by
  rw [State.setTport, State.updTl, State.tport, State.tl_setTl_self, Map.get_set_self]

/-- Equal stretches one behind the other are one stretch. -/
theorem flatMap_stretches {α : Type} (f : Nat → α) (n m : Nat) :
    (List.range m).flatMap (fun c => (List.range n).map (fun r => f (c * n + r))) = (List.range (m * n)).map f := by
  induction m with
  | zero => simp
  | succ m ih =>
    rw [List.range_succ, List.flatMap_append, ih, Nat.succ_mul, List.range_add, List.map_append, List.map_map]
    simp [Function.comp_def]

/-- Column order of a full block: the token of row `r` and column `c` leaves as number `c * n + r`. -/
theorem columnOrder_full {n : Nat} (h : l.length = n * n) :
    columnOrder n l = (List.range (n * n)).map (fun j => l.getD (j % n * n + j / n) {}) := by
  rcases Nat.eq_zero_or_pos n with rfl | hn
  · rfl
  have hrows : (l.length + n - 1) / n = n := by
    rw [h]
    have : n * n + n - 1 = n * n + (n - 1) := by omega
    rw [this, Nat.mul_add_div hn, Nat.div_eq_of_lt (by omega), Nat.add_zero]
  rw [← flatMap_stretches]
  unfold columnOrder
  dsimp only
  rw [hrows]
  refine List.flatMap_congr fun c hc => ?_
  rw [← List.filterMap_eq_map]
  refine List.filterMap_congr fun r hr => ?_
  have hr := List.mem_range.mp hr
  have hc := List.mem_range.mp hc
  have hlt : r * n + c < l.length := by
    rw [h]
    nlinarith
  have hmod : (c * n + r) % n = r := by rw [Nat.mul_comm, Nat.mul_add_mod, Nat.mod_eq_of_lt hr]
  have hdiv : (c * n + r) / n = c := by rw [Nat.mul_comm, Nat.mul_add_div hn, Nat.div_eq_of_lt hr, Nat.add_zero]
  rw [if_pos hlt, Function.comp_apply, hmod, hdiv, List.getD_eq_getElem _ _ hlt, List.getElem?_eq_getElem hlt]

theorem closedBlock_values {n : Nat} (h : ∀ x ∈ l, x.kind = 0 ∨ x.kind = 6) : closedBlock n l = columnOrder n l := by
  have hstop : ∀ x ∈ l, isStop x.kind = false := fun x hx => by rcases h x hx with h | h <;> rw [h] <;> rfl
  have hdata : l.filter (fun x => !isStop x.kind) = l := List.filter_eq_self.mpr (fun x hx => by rw [hstop x hx]; rfl)
  have hnone : l.filter (fun x => isStop x.kind) = [] := List.filter_eq_nil_iff.mpr (fun x hx => by rw [hstop x hx]; exact Bool.false_ne_true)
  rw [closedBlock, hdata, hnone, List.append_nil]

/-- A block taken in row order leaves in column order (R184). -/
theorem closedBlock_full {n : Nat} (h : l.length = n * n) (hk : ∀ x ∈ l, x.kind = 0 ∨ x.kind = 6) :
    (closedBlock n l).length = n * n ∧ ∀ j, j < n * n → (closedBlock n l)[j]? = l[j % n * n + j / n]? := by
  rw [closedBlock_values hk, columnOrder_full h]
  refine ⟨by rw [List.length_map, List.length_range], fun j hj => ?_⟩
  have hn : 0 < n := by
    rcases Nat.eq_zero_or_pos n with rfl | hn
    · exact absurd hj (Nat.not_lt_zero j)
    · exact hn
  have hlt : j % n * n + j / n < l.length := by
    have hmod := Nat.mod_lt j hn
    have hdiv : j / n < n := Nat.div_lt_of_lt_mul hj
    rw [h]
    nlinarith
  rw [List.getElem?_map, List.getElem?_range hj, Option.map_some, List.getD_eq_getElem _ _ hlt, List.getElem?_eq_getElem hlt]

section
variable {m : TileRef} {p : BitVec 4} {st st' : Stream} {rest : List Token}

theorem sSide_eq (ws : List Word) : sSide ws = field (ws.getD 0 0) 24 4 + 1 := congrArg (· + 1) (bitsNat_eq_field ..)

theorem exec_quoinEmit (hst : (s.tport m p).stream = some st) (hmode : field (st.desc.getD 0 0) 0 4 = 6) (hf : st.frozen = false) :
    exec (.quoinEmit m p) s = .next (quoinStep s m p st) := by
  have hgo : sMode st.desc = 6 ∧ st.frozen = false := ⟨(bitsNat_eq_field ..).trans hmode, hf⟩
  change execQuoinEmit m p s = _
  simp only [execQuoinEmit, hst, if_pos hgo]

theorem quoinStep_waits (hfull : st.full = true) (hout : st.out ≠ []) : quoinStep s m p st = s :=
  (if_pos hfull).trans (if_neg hout)

theorem quoinStep_emits (hfull : st.full = true) (hout : st.out = []) : quoinStep s m p st =
    s.setTport m p { s.tport m p with stream := some { st with out := closedBlock (sSide st.desc) st.fill, fill := [], full := false } } :=
  (if_pos hfull).trans (if_pos hout)

/-- A quoin port has taken its next token. -/
def quoinTook (s : State) (m : TileRef) (p : BitVec 4) (rest : List Token) (st' : Stream) : State :=
  fire (s.setTport m p { s.tport m p with inq := rest, freed := (s.tport m p).freed + 1, stream := some st' }) st'.region

theorem quoinTook_tport : (quoinTook s m p rest st').tport m p =
    { s.tport m p with inq := rest, freed := (s.tport m p).freed + 1, stream := some st' } := by
  rw [quoinTook, State.tport, fire_tl]
  exact tport_setTport_self ..

theorem quoinTook_inq : ((quoinTook s m p rest st').tport m p).inq = rest := by rw [quoinTook_tport]
theorem quoinTook_stream : ((quoinTook s m p rest st').tport m p).stream = some st' := by rw [quoinTook_tport]

theorem quoinTook_frame : quoinTook s m p rest st' =
    { s with tile := (quoinTook s m p rest st').tile, region := (quoinTook s m p rest st').region } := by
  rw [quoinTook, fire_frame]
  rfl

/-- A value fills the block (R184). -/
theorem quoinStep_value (hfull : st.full = false) (hq : (s.tport m p).inq = tok :: rest) (hk : tok.kind = 0 ∨ tok.kind = 6) :
    quoinStep s m p st = quoinTook s m p rest
      { st with fill := st.fill ++ [tok], full := decide ((st.fill ++ [tok]).length = sSide st.desc * sSide st.desc) } := by
  have hk' : tok.kind = kindData ∨ tok.kind = kindPoison := hk
  simp only [quoinStep, hfull, hq, if_pos hk']
  rfl

/-- A stop without an open block passes to the output (R184). -/
theorem quoinStep_stop (hfull : st.full = false) (hfill : st.fill = []) (hq : (s.tport m p).inq = tok :: rest)
    (hk : tok.kind = 2 ∨ tok.kind = 3 ∨ tok.kind = 4) :
    quoinStep s m p st = quoinTook s m p rest { st with out := st.out ++ [tok] } := by
  have hval : ¬(tok.kind = kindData ∨ tok.kind = kindPoison) := by
    rcases hk with h | h | h <;> rw [h] <;> decide
  simp only [quoinStep, hfull, hq, if_neg hval, if_pos (isStop_iff.mpr hk), if_pos hfill]
  rfl

end

/-- A gate's POISON token reaches the caller, a scrub ends, and a quoin port takes and emits its blocks (O46; R155, R162, R184). -/
theorem gatesScrubsAndQuoins : GatesScrubsAndQuoins := by
  intro s
  refine ⟨fun e g x hx => ?_, fun e r c before after hs hc hb _ => ?_, fun m p st hst hmode hf => ?_⟩
  · intro n hroom hal
    refine ⟨_, exec_gatePoisonDelivery hx hroom hal, ?_, onlyInput_setNd rfl (fun j hj => enterCi_ciq_ne hj) rfl rfl rfl rfl,
      State.el_setEl_self .., fun d hd => State.el_setEl_ne _ _ hd, rfl⟩
    rw [State.nd_setNd_self, enterCi_ciq]
  · refine ⟨_, exec_scrubComplete (by rw [hs]; exact find_due hc hb), ?_, fun d hd => scrubEnded_el_ne hd, scrubEnded_spec (x := (r, c))⟩
    rw [scrubEnded_el_self, hs]
    exact erase_due hc hb
  · intro side next
    have hside : sSide st.desc = side := sSide_eq st.desc
    have hexec := exec_quoinEmit hst hmode hf
    refine ⟨fun hfull hout => ?_, fun hfull hout hlen hk => ?_, fun hfull tok rest hq hk => ?_, fun hfull hfill tok rest hq hk => ?_⟩
    · rw [hexec, quoinStep_waits hfull hout]
    · rw [quoinStep_emits hfull hout, hside] at hexec
      obtain ⟨hnum, hcol⟩ := closedBlock_full hlen hk
      exact ⟨_, _, ⟨hexec, rfl⟩, congrArg TPort.stream (tport_setTport_self ..), rfl, rfl, hnum, hcol⟩
    · rw [quoinStep_value hfull hq hk, hside] at hexec
      refine ⟨_, _, ⟨hexec, quoinTook_frame⟩, quoinTook_inq, quoinTook_stream, rfl, rfl, ?_⟩
      rw [List.length_append]
      rfl
    · rw [quoinStep_stop hfull hfill hq hk] at hexec
      exact ⟨_, _, ⟨hexec, quoinTook_frame⟩, quoinTook_stream, rfl, hfull⟩

end Sys2Proof.Machine

namespace Sys2Proof.Proofs
open Sys2Proof.Machine

/-- Settles O46: what an arrival, a gate's POISON token, a scrub and a quoin port leave. -/
theorem tokensArriveAndGate : Obligations.TokensArriveAndGate := ⟨tokensArrive, gatesScrubsAndQuoins⟩

end Sys2Proof.Proofs
end
